-- ==== Sys2Proof/Word.lean ====
section
/-! DEFINITION. Word types, scopes, instruction classes, and the plain data that inputs carry. -/

namespace Sys2Proof

/-- A 32-bit register or instruction word (R7, R28). -/
abbrev Word := BitVec 32

/-- A 64-bit value: a register pair, a signal word, a hub register. -/
abbrev Dword := BitVec 64

/-- One byte of memory. -/
abbrev Byte := BitVec 8

/-- The execution scope in bits [31:30] of an instruction word (R28). -/
inductive Scope where
  | lane | warp | set | block
  deriving DecidableEq, Repr, Inhabited

/-- The SCOPE field of a scope (R28). -/
def Scope.bits : Scope → BitVec 2
  | .lane => 0 | .warp => 1 | .set => 2 | .block => 3

/-- The scope a SCOPE field names (R28). -/
def Scope.ofBits (b : BitVec 2) : Scope :=
  if b = 0 then .lane else if b = 1 then .warp else if b = 2 then .set else .block

@[simp] theorem Scope.ofBits_bits (sc : Scope) : Scope.ofBits sc.bits = sc := by
  cases sc <;> rfl

/-- The seven instruction classes of a clause header (R26). -/
inductive Cls where
  | alu | mem | mtx | async | ctrl | gfx | sys
  deriving DecidableEq, Repr, Inhabited

/-- The CLASS field of a class (R26). -/
def Cls.code : Cls → Nat
  | .alu => 0 | .mem => 1 | .mtx => 2 | .async => 3 | .ctrl => 4 | .gfx => 5 | .sys => 6

/-- The class a CLASS field names; 7 is reserved and names none (R26). -/
def Cls.ofCode (n : Nat) : Option Cls :=
  match n with
  | 0 => some .alu | 1 => some .mem | 2 => some .mtx | 3 => some .async
  | 4 => some .ctrl | 5 => some .gfx | 6 => some .sys | _ => none

@[simp] theorem Cls.ofCode_code (c : Cls) : Cls.ofCode c.code = some c := by
  cases c <;> rfl

/-- The operation of an atomic or a reduction (R220). -/
inductive AtomOp where
  | add | min | max | minUi | maxUi | and | or | xor | exch | cas | inc | fadd
  deriving DecidableEq, Repr, Inhabited

/-- What a request of another module asks for (R396-R402): loads, stores, atomics and reductions, and the units of a
TSTORE.ADD at memory windows; signal accesses at signal windows. -/
inductive FabOp where
  | load (size : Nat)
  | store (data : List Byte)
  | atom (f : AtomOp) (b c : Word)
  /-- a unit of a TSTORE.ADD: its format and its bits (R271, R402) -/
  | sum (fmt bits : Nat)
  | sigLd
  | sigSt (v : Dword)
  | sigAdd (v : Dword)
  | sigCas (e n : Dword)
  | sigWait (cond : Nat) (v : Dword)
  deriving DecidableEq, Repr, Inhabited

/-- A request that arrives at this module's fabric ingress from a source module (R396, R398). -/
structure FabricReq where
  source : Nat
  window : Nat
  offset : Nat
  key : Word
  op : FabOp
  deriving DecidableEq, Repr, Inhabited

/-- What a start finds: the images presented, byte by byte, the results of training and scrub, and the power profile that
the start configuration chooses (R442-R444). -/
structure StartInput where
  assay : List Byte
  hub : List Byte
  boot : List Byte
  recovery : List Byte
  trained : Bool
  scrubbed : Bool
  capped : Bool
  deriving DecidableEq, Repr, Inhabited

end Sys2Proof
end

