-- ==== Sys2Proof/Config.lean ====
section
/-! DEFINITION. What the specification leaves to the implementation, and the free values. A free
value is opaque: nothing in Lean can learn it. -/

namespace Sys2Proof.Config

/-- A fresh choice, by the counter `State.free`: which of the outcomes a rule allows is taken (DESIGN CHOICE,
log entry 11). -/
opaque freeNat : Nat → Nat

/-- A fresh 32-bit value, by the counter `State.free`
(DESIGN CHOICE, log entry 16). -/
opaque freeWord : Nat → Word

/-- A fresh 64-bit value, by the counter `State.free`
(DESIGN CHOICE, log entry 16). -/
opaque freeDword : Nat → Dword

/-- Cycles that pass at one step of a core, by the counter `State.free` (R448: open) (DESIGN CHOICE, log entry 14). -/
opaque ticks : Nat → Nat

/-- The module serial number fused in Assay (R95); bits [15:0] enter instance ids
(DESIGN CHOICE, log entry 21). -/
opaque serialNumber : Dword

/-- The module's number in its fabric, 0 when it is in none (R95)
(DESIGN CHOICE, log entry 21). -/
opaque moduleNumber : BitVec 3

/-- Bytes of CXL memory populated, at most 2 TiB (R172) (DESIGN CHOICE, log entry 17). -/
opaque cxlBytes : Nat

/-- What a read of a PCIe window answers, by address and by the counter `State.free` (R173)
(DESIGN CHOICE, log entry 16). -/
opaque pcieRead : Nat → Nat → Byte

/-- The boot ROM's bytes (R434)
(DESIGN CHOICE, log entry 21). -/
opaque bootRom : List Byte

/-- Whether r and s of an ECDSA signature on P-384 verify a digest under the fused key of a KIND (R434, R435)
(DESIGN CHOICE, log entry 21). -/
opaque ecdsaOk : Nat → BitVec 384 → List Byte → Bool

/-- Whether an LMS signature verifies a digest under the fused key of a KIND (R434, R435)
(DESIGN CHOICE, log entry 21). -/
opaque lmsOk : Nat → BitVec 384 → List Byte → Bool

/-- The fused minimum security version, by KIND (R435)
(DESIGN CHOICE, log entry 21). -/
opaque minSvn : Nat → Nat

/-- What MEAS5 is extended with, by EVENT: COLD, WARM, SAFE, HANDOVER (R436, R437)
(DESIGN CHOICE, log entry 21). -/
opaque eventDigest : Nat → BitVec 384

/-- The digest of the device certificate chain, by slot (R438)
(DESIGN CHOICE, log entry 21). -/
opaque certificateDigest : Nat → BitVec 384

/-- What MEAS4 is extended with: the digest of the power profile (capped or not), the bytes of CXL memory populated and the
fused minima by KIND (R436, R444)
(DESIGN CHOICE, log entry 21). -/
opaque configDigest : Bool → Nat → List Nat → BitVec 384

/-- The address of one of the two agent code areas (R440)
(DESIGN CHOICE, log entry 106). -/
opaque codeArea : Nat → Nat

/-- The entry of an agent firmware image, in bytes from its start (R440, R442)
(DESIGN CHOICE, log entry 106). -/
opaque firmwareEntry : List Byte → Nat

/-- The status image of safe mode (R443)
(DEDUCED, log entry 107). -/
opaque statusImage : List Word

/-- The flags of the CAPABILITIES answer (R438)
(PRESUMED, log entry 23). -/
opaque capabilities : Word

/-- The digest of an answer's transcript: its code, the requester's nonce and the measurement blocks (R438, R439)
(DESIGN CHOICE, log entry 21). -/
opaque transcriptDigest : Nat → BitVec 64 → List (Nat × List Byte) → BitVec 384

/-- The ECDSA signature over a transcript digest (R438)
(DESIGN CHOICE, log entry 21). -/
opaque signature : BitVec 384 → BitVec 768

/-- The LMS signature over a transcript digest (R438)
(DESIGN CHOICE, log entry 21). -/
opaque lmsSignature : BitVec 384 → BitVec 768

end Sys2Proof.Config
end

