-- ==== Sys2Proof/Syntax.lean ====
section
/-! DEFINITION. The instruction syntax: one constructor per row of spec/opcode_table.json: first the
instructions, with the fields of their words (R28-R40), then the steps of the device or of an
outside party, which carry their inputs. -/

namespace Sys2Proof

/-- The steps of the module: instructions, then device steps, each in the order of the opcode table. -/
inductive Instr where
  /-- MOV (R66): Copies A to D. -/
  | mov (sc : Scope) (d : BitVec 7) (a : BitVec 7) (p : BitVec 3)
  /-- MOVI (R66): Writes the sign-extended 17-bit immediate to D. -/
  | movi (sc : Scope) (d : BitVec 7) (imm : BitVec 17)
  /-- MOVL (R66): Writes the 32-bit literal to D. -/
  | movl (sc : Scope) (d : BitVec 7) (p : BitVec 3) (lit : Word)
  /-- SEL (R66): Writes A or B to D according to the predicate in PRED. -/
  | sel (sc : Scope) (d : BitVec 7) (a : BitVec 7) (b : BitVec 7) (p : BitVec 3)
  /-- IADD (R67): Writes A plus B modulo 2^32. -/
  | iadd (sc : Scope) (d : BitVec 7) (a : BitVec 7) (b : BitVec 7) (p : BitVec 3)
  /-- IADDI (R67): Adds a sign-extended 10-bit immediate to A. -/
  | iaddi (sc : Scope) (d : BitVec 7) (a : BitVec 7) (imm : BitVec 10)
  /-- ISUB (R67): Writes A minus B modulo 2^32. -/
  | isub (sc : Scope) (d : BitVec 7) (a : BitVec 7) (b : BitVec 7) (p : BitVec 3)
  /-- IMUL (R67): Writes the low 32 bits of A times B. -/
  | imul (sc : Scope) (d : BitVec 7) (a : BitVec 7) (b : BitVec 7) (p : BitVec 3)
  /-- IMULH (R67): Writes the high 32 bits of the signed product. -/
  | imulh (sc : Scope) (d : BitVec 7) (a : BitVec 7) (b : BitVec 7) (p : BitVec 3)
  /-- IMULH_UI (R67): Writes the high 32 bits of the unsigned product. -/
  | imulhUi (sc : Scope) (d : BitVec 7) (a : BitVec 7) (b : BitVec 7) (p : BitVec 3)
  /-- IMAD (R67): Writes A times B plus D modulo 2^32. -/
  | imad (sc : Scope) (d : BitVec 7) (a : BitVec 7) (b : BitVec 7) (p : BitVec 3)
  /-- IMIN (R68): Writes the signed minimum of A and B. -/
  | imin (sc : Scope) (d : BitVec 7) (a : BitVec 7) (b : BitVec 7) (p : BitVec 3)
  /-- IMIN_UI (R68): Writes the unsigned minimum of A and B. -/
  | iminUi (sc : Scope) (d : BitVec 7) (a : BitVec 7) (b : BitVec 7) (p : BitVec 3)
  /-- IMAX (R68): Writes the signed maximum of A and B. -/
  | imax (sc : Scope) (d : BitVec 7) (a : BitVec 7) (b : BitVec 7) (p : BitVec 3)
  /-- IMAX_UI (R68): Writes the unsigned maximum of A and B. -/
  | imaxUi (sc : Scope) (d : BitVec 7) (a : BitVec 7) (b : BitVec 7) (p : BitVec 3)
  /-- IABS (R68): Writes the absolute value of A modulo 2^32. -/
  | iabs (sc : Scope) (d : BitVec 7) (a : BitVec 7) (p : BitVec 3)
  /-- AND (R69): Writes A AND B. -/
  | and_ (sc : Scope) (d : BitVec 7) (a : BitVec 7) (b : BitVec 7) (p : BitVec 3)
  /-- ANDI (R69): Writes A AND a zero-extended 10-bit immediate. -/
  | andi (sc : Scope) (d : BitVec 7) (a : BitVec 7) (imm : BitVec 10)
  /-- OR (R69): Writes A OR B. -/
  | or_ (sc : Scope) (d : BitVec 7) (a : BitVec 7) (b : BitVec 7) (p : BitVec 3)
  /-- ORI (R69): Writes A OR a zero-extended 10-bit immediate. -/
  | ori (sc : Scope) (d : BitVec 7) (a : BitVec 7) (imm : BitVec 10)
  /-- XOR (R69): Writes A XOR B. -/
  | xor (sc : Scope) (d : BitVec 7) (a : BitVec 7) (b : BitVec 7) (p : BitVec 3)
  /-- XORI (R69): Writes A XOR a zero-extended 10-bit immediate. -/
  | xori (sc : Scope) (d : BitVec 7) (a : BitVec 7) (imm : BitVec 10)
  /-- SHL (R70): Shifts A left by B[7:0]. -/
  | shl (sc : Scope) (d : BitVec 7) (a : BitVec 7) (b : BitVec 7) (p : BitVec 3)
  /-- SHR (R70): Shifts A right logically by B[7:0]. -/
  | shr (sc : Scope) (d : BitVec 7) (a : BitVec 7) (b : BitVec 7) (p : BitVec 3)
  /-- SAR (R70): Shifts A right arithmetically by B[7:0]. -/
  | sar (sc : Scope) (d : BitVec 7) (a : BitVec 7) (b : BitVec 7) (p : BitVec 3)
  /-- SHFI_SHL (R71): Shifts A left by an immediate count. -/
  | shfiShl (sc : Scope) (d : BitVec 7) (a : BitVec 7) (c : BitVec 5)
  /-- SHFI_SHR (R71): Shifts A right logically by an immediate count. -/
  | shfiShr (sc : Scope) (d : BitVec 7) (a : BitVec 7) (c : BitVec 5)
  /-- SHFI_SAR (R71): Shifts A right arithmetically by an immediate count. -/
  | shfiSar (sc : Scope) (d : BitVec 7) (a : BitVec 7) (c : BitVec 5)
  /-- SHFI_ROL (R71): Rotates A left by an immediate count. -/
  | shfiRol (sc : Scope) (d : BitVec 7) (a : BitVec 7) (c : BitVec 5)
  /-- ROL (R70): Rotates A left by B[4:0]. -/
  | rol (sc : Scope) (d : BitVec 7) (a : BitVec 7) (b : BitVec 7) (p : BitVec 3)
  /-- BFE (R72): Extracts a bit field of A described by B, zero- or sign-extended. -/
  | bfe (sc : Scope) (d : BitVec 7) (a : BitVec 7) (b : BitVec 7) (p : BitVec 3)
  /-- BFI (R72): Inserts the low bits of A into a field of D described by B. -/
  | bfi (sc : Scope) (d : BitVec 7) (a : BitVec 7) (b : BitVec 7) (p : BitVec 3)
  /-- POPC (R73): Writes the number of 1 bits in A. -/
  | popc (sc : Scope) (d : BitVec 7) (a : BitVec 7) (p : BitVec 3)
  /-- CLZ (R73): Writes the number of leading zero bits of A. -/
  | clz (sc : Scope) (d : BitVec 7) (a : BitVec 7) (p : BitVec 3)
  /-- BREV (R73): Writes A with its bits reversed. -/
  | brev (sc : Scope) (d : BitVec 7) (a : BitVec 7) (p : BitVec 3)
  /-- ISETP (R74): Compares A with register B, signed or unsigned, into a predicate. -/
  | isetp (sc : Scope) (c : BitVec 3) (u : BitVec 1) (pd : BitVec 3) (a : BitVec 7) (b : BitVec 7) (p : BitVec 3)
  /-- ISETPI (R74): Compares A with a 7-bit immediate into a predicate. -/
  | isetpi (sc : Scope) (c : BitVec 3) (u : BitVec 1) (pd : BitVec 3) (a : BitVec 7) (imm : BitVec 7) (p : BitVec 3)
  /-- FADD (R78): Writes the F32 sum of A and B rounded once. -/
  | fadd (sc : Scope) (d : BitVec 7) (a : BitVec 7) (b : BitVec 7) (p : BitVec 3)
  /-- FSUB (R78): Writes the F32 difference of A and B rounded once. -/
  | fsub (sc : Scope) (d : BitVec 7) (a : BitVec 7) (b : BitVec 7) (p : BitVec 3)
  /-- FMUL (R78): Writes the F32 product of A and B rounded once. -/
  | fmul (sc : Scope) (d : BitVec 7) (a : BitVec 7) (b : BitVec 7) (p : BitVec 3)
  /-- FFMA (R78): Writes A times B plus D with one rounding. -/
  | ffma (sc : Scope) (d : BitVec 7) (a : BitVec 7) (b : BitVec 7) (p : BitVec 3)
  /-- FMIN (R78): Writes the lesser of A and B under R55. -/
  | fmin (sc : Scope) (d : BitVec 7) (a : BitVec 7) (b : BitVec 7) (p : BitVec 3)
  /-- FMAX (R78): Writes the greater of A and B under R55. -/
  | fmax (sc : Scope) (d : BitVec 7) (a : BitVec 7) (b : BitVec 7) (p : BitVec 3)
  /-- FSETP (R75): Compares F32 operands into a predicate. -/
  | fsetp (sc : Scope) (c : BitVec 3) (pd : BitVec 3) (a : BitVec 7) (b : BitVec 7) (p : BitVec 3)
  /-- FABS (R79): Clears bit 31 of A. -/
  | fabs (sc : Scope) (d : BitVec 7) (a : BitVec 7) (p : BitVec 3)
  /-- FNEG (R79): Inverts bit 31 of A. -/
  | fneg (sc : Scope) (d : BitVec 7) (a : BitVec 7) (p : BitVec 3)
  /-- FRCP (R79): Writes the reciprocal of A in the installed TRANS generation. -/
  | frcp (sc : Scope) (d : BitVec 7) (a : BitVec 7) (p : BitVec 3)
  /-- FRSQ (R79): Writes the reciprocal square root of A. -/
  | frsq (sc : Scope) (d : BitVec 7) (a : BitVec 7) (p : BitVec 3)
  /-- FSQRT (R79): Writes the square root of A. -/
  | fsqrt (sc : Scope) (d : BitVec 7) (a : BitVec 7) (p : BitVec 3)
  /-- FEX2 (R79): Writes 2 to the power A. -/
  | fex2 (sc : Scope) (d : BitVec 7) (a : BitVec 7) (p : BitVec 3)
  /-- FLG2 (R79): Writes the base-2 logarithm of A. -/
  | flg2 (sc : Scope) (d : BitVec 7) (a : BitVec 7) (p : BitVec 3)
  /-- FSIN (R79): Writes the sine of A. -/
  | fsin (sc : Scope) (d : BitVec 7) (a : BitVec 7) (p : BitVec 3)
  /-- FCOS (R79): Writes the cosine of A. -/
  | fcos (sc : Scope) (d : BitVec 7) (a : BitVec 7) (p : BitVec 3)
  /-- FFLOOR (R79): Rounds A toward minus infinity to an integral value. -/
  | ffloor (sc : Scope) (d : BitVec 7) (a : BitVec 7) (p : BitVec 3)
  /-- FCEIL (R79): Rounds A toward plus infinity to an integral value. -/
  | fceil (sc : Scope) (d : BitVec 7) (a : BitVec 7) (p : BitVec 3)
  /-- FTRUNC (R79): Rounds A toward zero to an integral value. -/
  | ftrunc (sc : Scope) (d : BitVec 7) (a : BitVec 7) (p : BitVec 3)
  /-- FRINT (R79): Rounds A to nearest-even to an integral value. -/
  | frint (sc : Scope) (d : BitVec 7) (a : BitVec 7) (p : BitVec 3)
  /-- FFRACT (R79): Writes the fractional part of A in [0, 1). -/
  | ffract (sc : Scope) (d : BitVec 7) (a : BitVec 7) (p : BitVec 3)
  /-- HADD2 (R80): Adds F16 pairs element by element. -/
  | hadd2 (sc : Scope) (d : BitVec 7) (a : BitVec 7) (b : BitVec 7) (p : BitVec 3)
  /-- HMUL2 (R80): Multiplies F16 pairs element by element. -/
  | hmul2 (sc : Scope) (d : BitVec 7) (a : BitVec 7) (b : BitVec 7) (p : BitVec 3)
  /-- HFMA2 (R80): Performs a fused multiply-add on F16 pairs. -/
  | hfma2 (sc : Scope) (d : BitVec 7) (a : BitVec 7) (b : BitVec 7) (p : BitVec 3)
  /-- BADD2 (R80): Adds BF16 pairs element by element. -/
  | badd2 (sc : Scope) (d : BitVec 7) (a : BitVec 7) (b : BitVec 7) (p : BitVec 3)
  /-- BMUL2 (R80): Multiplies BF16 pairs element by element. -/
  | bmul2 (sc : Scope) (d : BitVec 7) (a : BitVec 7) (b : BitVec 7) (p : BitVec 3)
  /-- BFMA2 (R80): Performs a fused multiply-add on BF16 pairs. -/
  | bfma2 (sc : Scope) (d : BitVec 7) (a : BitVec 7) (b : BitVec 7) (p : BitVec 3)
  /-- CVT (R81): Converts A between the types given by the conversion code in B. -/
  | cvt (sc : Scope) (d : BitVec 7) (a : BitVec 7) (b : BitVec 7) (p : BitVec 3)
  /-- PLOP (R76): Combines two optionally inverted predicates with AND, OR or XOR. -/
  | plop (sc : Scope) (c : BitVec 3) (pd : BitVec 3) (na : BitVec 1) (pa : BitVec 3) (nb : BitVec 1) (pb : BitVec 3) (p : BitVec 3)
  /-- PMOV_GET (R77): Packs the predicates into D. -/
  | pmovGet (sc : Scope) (d : BitVec 7) (p : BitVec 3)
  /-- PMOV_PUT (R77): Sets p1 to p7 from the bits of A. -/
  | pmovPut (sc : Scope) (a : BitVec 7) (p : BitVec 3)
  /-- IDP4 (R67): Adds the signed 4-way byte dot product of A and B to D. -/
  | idp4 (sc : Scope) (d : BitVec 7) (a : BitVec 7) (b : BitVec 7) (p : BitVec 3)
  /-- LD_UI8 (R82): Loads a zero-extended byte from global memory. -/
  | ldUi8 (sc : Scope) (d : BitVec 7) (a : BitVec 7) (off : BitVec 7) (p : BitVec 3)
  /-- LD_I8 (R82): Loads a sign-extended byte from global memory. -/
  | ldI8 (sc : Scope) (d : BitVec 7) (a : BitVec 7) (off : BitVec 7) (p : BitVec 3)
  /-- LD_UI16 (R82): Loads a zero-extended half-word from global memory. -/
  | ldUi16 (sc : Scope) (d : BitVec 7) (a : BitVec 7) (off : BitVec 7) (p : BitVec 3)
  /-- LD_I16 (R82): Loads a sign-extended half-word from global memory. -/
  | ldI16 (sc : Scope) (d : BitVec 7) (a : BitVec 7) (off : BitVec 7) (p : BitVec 3)
  /-- LD_32 (R82): Loads a word from global memory. -/
  | ld32 (sc : Scope) (d : BitVec 7) (a : BitVec 7) (off : BitVec 7) (p : BitVec 3)
  /-- LD_64 (R82): Loads 8 bytes from global memory into a register pair. -/
  | ld64 (sc : Scope) (d : BitVec 7) (a : BitVec 7) (off : BitVec 7) (p : BitVec 3)
  /-- LD_128 (R82): Loads 16 bytes from global memory into a quad. -/
  | ld128 (sc : Scope) (d : BitVec 7) (a : BitVec 7) (off : BitVec 7) (p : BitVec 3)
  /-- ST_8 (R83): Stores the low byte of D to global memory. -/
  | st8 (sc : Scope) (d : BitVec 7) (a : BitVec 7) (off : BitVec 7) (p : BitVec 3)
  /-- ST_16 (R83): Stores the low half-word of D to global memory. -/
  | st16 (sc : Scope) (d : BitVec 7) (a : BitVec 7) (off : BitVec 7) (p : BitVec 3)
  /-- ST_32 (R83): Stores a word to global memory. -/
  | st32 (sc : Scope) (d : BitVec 7) (a : BitVec 7) (off : BitVec 7) (p : BitVec 3)
  /-- ST_64 (R83): Stores a register pair to global memory. -/
  | st64 (sc : Scope) (d : BitVec 7) (a : BitVec 7) (off : BitVec 7) (p : BitVec 3)
  /-- ST_128 (R83): Stores a quad to global memory. -/
  | st128 (sc : Scope) (d : BitVec 7) (a : BitVec 7) (off : BitVec 7) (p : BitVec 3)
  /-- LDS_32 (R218): Loads a word from the scratchpad. -/
  | lds32 (sc : Scope) (d : BitVec 7) (a : BitVec 7) (off : BitVec 7) (p : BitVec 3)
  /-- LDS_64 (R218): Loads a pair from the scratchpad. -/
  | lds64 (sc : Scope) (d : BitVec 7) (a : BitVec 7) (off : BitVec 7) (p : BitVec 3)
  /-- LDS_128 (R218): Loads a quad from the scratchpad. -/
  | lds128 (sc : Scope) (d : BitVec 7) (a : BitVec 7) (off : BitVec 7) (p : BitVec 3)
  /-- STS_32 (R218): Stores a word to the scratchpad. -/
  | sts32 (sc : Scope) (d : BitVec 7) (a : BitVec 7) (off : BitVec 7) (p : BitVec 3)
  /-- STS_64 (R218): Stores a pair to the scratchpad. -/
  | sts64 (sc : Scope) (d : BitVec 7) (a : BitVec 7) (off : BitVec 7) (p : BitVec 3)
  /-- STS_128 (R218): Stores a quad to the scratchpad. -/
  | sts128 (sc : Scope) (d : BitVec 7) (a : BitVec 7) (off : BitVec 7) (p : BitVec 3)
  /-- LDC_32 (R218): Loads a word from constant space. -/
  | ldc32 (sc : Scope) (d : BitVec 7) (a : BitVec 7) (off : BitVec 7) (p : BitVec 3)
  /-- ATOM_ADD (R220): Atomically adds B to a global word and returns the old value. -/
  | atomAdd (sc : Scope) (d : BitVec 7) (a : BitVec 7) (b : BitVec 7) (p : BitVec 3)
  /-- ATOM_MIN (R220): Atomic signed minimum, returning the old value. -/
  | atomMin (sc : Scope) (d : BitVec 7) (a : BitVec 7) (b : BitVec 7) (p : BitVec 3)
  /-- ATOM_MAX (R220): Atomic signed maximum, returning the old value. -/
  | atomMax (sc : Scope) (d : BitVec 7) (a : BitVec 7) (b : BitVec 7) (p : BitVec 3)
  /-- ATOM_MIN_UI (R220): Atomic unsigned minimum, returning the old value. -/
  | atomMinUi (sc : Scope) (d : BitVec 7) (a : BitVec 7) (b : BitVec 7) (p : BitVec 3)
  /-- ATOM_MAX_UI (R220): Atomic unsigned maximum, returning the old value. -/
  | atomMaxUi (sc : Scope) (d : BitVec 7) (a : BitVec 7) (b : BitVec 7) (p : BitVec 3)
  /-- ATOM_AND (R220): Atomic AND, returning the old value. -/
  | atomAnd (sc : Scope) (d : BitVec 7) (a : BitVec 7) (b : BitVec 7) (p : BitVec 3)
  /-- ATOM_OR (R220): Atomic OR, returning the old value. -/
  | atomOr (sc : Scope) (d : BitVec 7) (a : BitVec 7) (b : BitVec 7) (p : BitVec 3)
  /-- ATOM_XOR (R220): Atomic XOR, returning the old value. -/
  | atomXor (sc : Scope) (d : BitVec 7) (a : BitVec 7) (b : BitVec 7) (p : BitVec 3)
  /-- ATOM_EXCH (R220): Atomically exchanges the word with B. -/
  | atomExch (sc : Scope) (d : BitVec 7) (a : BitVec 7) (b : BitVec 7) (p : BitVec 3)
  /-- ATOM_CAS (R220): Atomic compare-and-swap with the expected and new values in the pair B. -/
  | atomCas (sc : Scope) (d : BitVec 7) (a : BitVec 7) (b : BitVec 7) (p : BitVec 3)
  /-- ATOM_INC (R220): Atomic wrapping increment bounded by B. -/
  | atomInc (sc : Scope) (d : BitVec 7) (a : BitVec 7) (b : BitVec 7) (p : BitVec 3)
  /-- ATOM_FADD (R220): Atomic F32 add rounded to nearest-even. -/
  | atomFadd (sc : Scope) (d : BitVec 7) (a : BitVec 7) (b : BitVec 7) (p : BitVec 3)
  /-- RED_ADD (R223): Non-returning atomic add that may be combined. -/
  | redAdd (sc : Scope) (a : BitVec 7) (b : BitVec 7) (p : BitVec 3)
  /-- RED_MIN (R223): Non-returning atomic signed minimum. -/
  | redMin (sc : Scope) (a : BitVec 7) (b : BitVec 7) (p : BitVec 3)
  /-- RED_MAX (R223): Non-returning atomic signed maximum. -/
  | redMax (sc : Scope) (a : BitVec 7) (b : BitVec 7) (p : BitVec 3)
  /-- RED_AND (R223): Non-returning atomic AND. -/
  | redAnd (sc : Scope) (a : BitVec 7) (b : BitVec 7) (p : BitVec 3)
  /-- RED_OR (R223): Non-returning atomic OR. -/
  | redOr (sc : Scope) (a : BitVec 7) (b : BitVec 7) (p : BitVec 3)
  /-- RED_XOR (R223): Non-returning atomic XOR. -/
  | redXor (sc : Scope) (a : BitVec 7) (b : BitVec 7) (p : BitVec 3)
  /-- RED_FADD (R223): Non-returning atomic F32 add. -/
  | redFadd (sc : Scope) (a : BitVec 7) (b : BitVec 7) (p : BitVec 3)
  /-- BIND (R224): Adds a region bound to an object to the block's region list. -/
  | bind (sc : Scope) (a : BitVec 7) (p : BitVec 3)
  /-- UNBIND (R225): Removes the region that starts at the given base from the list. -/
  | unbind (sc : Scope) (a : BitVec 7) (p : BitVec 3)
  /-- ACQ (R227): Makes an acquire event with a path mask on the named object. -/
  | acq (sc : Scope) (a : BitVec 7) (m : BitVec 6)
  /-- REL (R226): Adds a release with a path mask to the thread's next operation on the named object. -/
  | rel (sc : Scope) (a : BitVec 7) (m : BitVec 6)
  /-- GATE_ACQ (R229): Acquires a gate, waiting on its list if it is held. -/
  | gateAcq (sc : Scope) (a : BitVec 7)
  /-- GATE_TRY (R229): Acquires a gate if it is free and reports success in a predicate. -/
  | gateTry (sc : Scope) (pd : BitVec 3) (a : BitVec 7) (p : BitVec 3)
  /-- GATE_REL (R229): Releases a held gate to the head of its wait list, or frees it. -/
  | gateRel (sc : Scope) (a : BitVec 7)
  /-- SIG_LD (R232): Reads a 64-bit signal word. -/
  | sigLd (sc : Scope) (d : BitVec 7) (a : BitVec 7) (p : BitVec 3)
  /-- SIG_ST (R232): Writes a 64-bit signal word, releasing when a REL precedes it. -/
  | sigSt (sc : Scope) (d : BitVec 7) (a : BitVec 7) (p : BitVec 3)
  /-- SIG_ADD (R232): Atomically adds to a signal word and returns the old value. -/
  | sigAdd (sc : Scope) (d : BitVec 7) (a : BitVec 7) (b : BitVec 7) (p : BitVec 3)
  /-- SIG_CAS (R232): Compare-and-swap on a signal word. -/
  | sigCas (sc : Scope) (d : BitVec 7) (a : BitVec 7) (b : BitVec 7) (p : BitVec 3)
  /-- SIG_WAIT (R233): Completes when a signal word meets the condition against B. -/
  | sigWait (sc : Scope) (d : BitVec 7) (a : BitVec 7) (b : BitVec 7) (p : BitVec 3)
  /-- FENCE (R234): Releases and acquires the default region at core or device scope. -/
  | fence (sc : Scope) (f : BitVec 1)
  /-- XFENCE (R235): Makes writes of the source paths visible to accesses on the destination paths. -/
  | xfence (sc : Scope) (x : BitVec 6) (y : BitVec 6)
  /-- CFLUSH (R236): Writes newer cached bytes of a range back past the core's data cache. -/
  | cflush (sc : Scope) (a : BitVec 7) (b : BitVec 7) (p : BitVec 3)
  /-- CINV (R236): Writes back and discards the cached copies of a range. -/
  | cinv (sc : Scope) (a : BitVec 7) (b : BitVec 7) (p : BitVec 3)
  /-- PREFETCH (R237): Hints that a 64-byte sector should be brought into the data cache. -/
  | prefetch (sc : Scope) (a : BitVec 7) (off : BitVec 7) (p : BitVec 3)
  /-- MMA_T8 (R278): Multiplies I8 A by ternary B into an INT32 tile. -/
  | mmaT8 (sc : Scope) (d : BitVec 7) (a : BitVec 7) (b : BitVec 7) (p : BitVec 3)
  /-- MMA_I8 (R278): Multiplies I8 A by I8 B into an INT32 tile. -/
  | mmaI8 (sc : Scope) (d : BitVec 7) (a : BitVec 7) (b : BitVec 7) (p : BitVec 3)
  /-- MMA_E4 (R278): Multiplies E4 operands into an FP32 tile. -/
  | mmaE4 (sc : Scope) (d : BitVec 7) (a : BitVec 7) (b : BitVec 7) (p : BitVec 3)
  /-- MMA_E5 (R278): Multiplies E5 operands into an FP32 tile. -/
  | mmaE5 (sc : Scope) (d : BitVec 7) (a : BitVec 7) (b : BitVec 7) (p : BitVec 3)
  /-- MMA_BF (R278): Multiplies BF16 operands into an FP32 tile. -/
  | mmaBf (sc : Scope) (d : BitVec 7) (a : BitVec 7) (b : BitVec 7) (p : BitVec 3)
  /-- MMA_H (R278): Multiplies F16 operands into an FP32 tile. -/
  | mmaH (sc : Scope) (d : BitVec 7) (a : BitVec 7) (b : BitVec 7) (p : BitVec 3)
  /-- MMA_F32 (R278): Multiplies F32 operands into an FP32 tile. -/
  | mmaF32 (sc : Scope) (d : BitVec 7) (a : BitVec 7) (b : BitVec 7) (p : BitVec 3)
  /-- MMA_T8S (R278): Scaled ternary multiply into an FP32 tile. -/
  | mmaT8s (sc : Scope) (d : BitVec 7) (a : BitVec 7) (b : BitVec 7) (p : BitVec 3) (lit : Word)
  /-- MMA_I8S (R278): Scaled I8 multiply into an FP32 tile. -/
  | mmaI8s (sc : Scope) (d : BitVec 7) (a : BitVec 7) (b : BitVec 7) (p : BitVec 3) (lit : Word)
  /-- WLOAD (R279): Copies global bytes verbatim into the weight buffer. -/
  | wload (sc : Scope) (d : BitVec 7) (a : BitVec 7) (b : BitVec 7) (p : BitVec 3)
  /-- ACC_ZERO (R280): Zeroes the accumulator rows that the selector covers. -/
  | accZero (sc : Scope) (a : BitVec 7) (p : BitVec 3)
  /-- ACC_RD (R280): Reads accumulator elements into vector registers. -/
  | accRd (sc : Scope) (d : BitVec 7) (a : BitVec 7) (p : BitVec 3)
  /-- ACC_WR (R280): Writes vector registers into accumulator elements. -/
  | accWr (sc : Scope) (d : BitVec 7) (a : BitVec 7) (p : BitVec 3)
  /-- ACC_SCALE (R281): Multiplies each covered row by a per-row F32 factor. -/
  | accScale (sc : Scope) (a : BitVec 7) (b : BitVec 7) (p : BitVec 3)
  /-- ACC_CVT_F32_I32 (R282): Converts covered INT32 elements to FP32 in place. -/
  | accCvtF32I32 (sc : Scope) (a : BitVec 7) (p : BitVec 3)
  /-- ACC_CVT_I32_F32 (R282): Converts covered FP32 elements to saturated INT32 in place. -/
  | accCvtI32F32 (sc : Scope) (a : BitVec 7) (p : BitVec 3)
  /-- TSTORE (R287): Drains tile rows to a destination in the chosen format. -/
  | tstore (sc : Scope) (a : BitVec 7) (p : BitVec 3)
  /-- TSTORE_ADD (R287): Adds drained tile rows into the destination indivisibly per unit and per tile. -/
  | tstoreAdd (sc : Scope) (a : BitVec 7) (p : BitVec 3)
  /-- WINSET (R284): Writes a window word to the warps named by a mask. -/
  | winset (sc : Scope) (a : BitVec 7) (b : BitVec 7) (p : BitVec 3)
  /-- WINGET (R285): Reads a warp's window word. -/
  | winget (sc : Scope) (d : BitVec 7) (a : BitVec 7) (p : BitVec 3)
  /-- ROWMAX (R283): Writes the FMAX fold of each covered row. -/
  | rowmax (sc : Scope) (d : BitVec 7) (a : BitVec 7) (p : BitVec 3)
  /-- ROWSUM (R283): Writes the exact sum of each covered row, rounded once. -/
  | rowsum (sc : Scope) (d : BitVec 7) (a : BitVec 7) (p : BitVec 3)
  /-- COPY (R289): Copies bytes between global memory and the scratchpad on the COPY path. -/
  | copy (sc : Scope) (a : BitVec 7) (p : BitVec 3)
  /-- COPY_X24 (R289): Expands a 2:4 sparse stream into the scratchpad. -/
  | copyX24 (sc : Scope) (a : BitVec 7) (p : BitVec 3)
  /-- FIL_LOAD (R290): Reads a slice descriptor into a slice slot. -/
  | filLoad (sc : Scope) (a : BitVec 7) (p : BitVec 3) (lit : Word)
  /-- FIL_RUN (R291): Queues the slice of a slot to run. -/
  | filRun (sc : Scope) (b : BitVec 7) (p : BitVec 3)
  /-- FIL_STOP (R291): Stops a slot's slice at the next element boundary, or removes its queued FIL.RUN. -/
  | filStop (sc : Scope) (b : BitVec 7) (p : BitVec 3)
  /-- QCFG (R292): Configures, enables or disables an operand queue. -/
  | qcfg (sc : Scope) (a : BitVec 7) (q : BitVec 2) (en : BitVec 1) (sgn : BitVec 1) (z : BitVec 2) (l : BitVec 3)
  /-- QSTAT (R293): Reads the state word of an operand queue. -/
  | qstat (sc : Scope) (d : BitVec 7) (q : BitVec 2)
  /-- GNODE (R294): Reads a node record and adds a node to the dependence graph. -/
  | gnode (sc : Scope) (d : BitVec 7) (a : BitVec 7) (p : BitVec 3) (lit : Word)
  /-- GEDGE (R294): Adds an edge between two graph nodes. -/
  | gedge (sc : Scope) (a : BitVec 7) (b : BitVec 7) (p : BitVec 3)
  /-- GARM (R294): Arms the dependence graph and launches its nodes with no predecessors. -/
  | garm (sc : Scope) (p : BitVec 3)
  /-- GARM_CLR (R294): Removes every node and edge of the graph. -/
  | garmClr (sc : Scope) (p : BitVec 3)
  /-- GWAIT (R294): Completes when the graph has finished. -/
  | gwait (sc : Scope) (p : BitVec 3)
  /-- GSET (R295): Sets a guard slot to UNRESOLVED, TRUE or FALSE. -/
  | gset (sc : Scope) (v : BitVec 2) (g : BitVec 3)
  /-- ENG_STAT (R296): Reads an engine status word of the block. -/
  | engStat (sc : Scope) (d : BitVec 7) (n : BitVec 10)
  /-- NOP (R85): Has no effect apart from the rendezvous of its scope. -/
  | nop (sc : Scope) (p : BitVec 3)
  /-- BRA (R86): Branches every thread of the group to a header-relative target. -/
  | bra (sc : Scope) (off : BitVec 24)
  /-- BRM (R87): Multi-way branch on predicates carried in one to four literals. -/
  | brm (sc : Scope) (lits : List Word)
  /-- CALL (R90): Pushes the return address and branches directly. -/
  | call (sc : Scope) (off : BitVec 24)
  /-- CALL_I (R91): Calls through a per-lane pointer after checking the function word and budget. -/
  | callI (sc : Scope) (a : BitVec 7) (p : BitVec 3)
  /-- RET (R92): Returns through the return stack, refilling from memory when needed. -/
  | ret (sc : Scope) (p : BitVec 3)
  /-- EXIT (R93): Ends each guarded thread, leaving masks and memberships and freeing its slot. -/
  | exit (sc : Scope) (p : BitVec 3)
  /-- JINIT (R146): Sets a join register to the warp's live lanes. -/
  | jinit (sc : Scope) (d : BitVec 7) (p : BitVec 3)
  /-- JWAIT (R147): Holds a thread whose bit is set in the join register until release. -/
  | jwait (sc : Scope) (d : BitVec 7) (p : BitVec 3)
  /-- JLEAVE (R148): Clears the thread's bit in the listed join registers. -/
  | jleave (sc : Scope) (l : BitVec 8)
  /-- BRK (R149): Leaves the listed join registers and branches. -/
  | brk (sc : Scope) (j : BitVec 8) (p : BitVec 3) (lit : Word)
  /-- BAR_SYNC (R150): Arrives at a barrier and holds until the phase completes. -/
  | barSync (sc : Scope) (b : BitVec 10)
  /-- BAR_ARRIVE (R150): Arrives at a barrier without holding. -/
  | barArrive (sc : Scope) (b : BitVec 10)
  /-- BAR_WAIT (R150): Holds until the phase of the thread's last arrival completes. -/
  | barWait (sc : Scope) (b : BitVec 10)
  /-- BAR_INIT (R151): Resets a block barrier to its launch state. -/
  | barInit (sc : Scope) (b : BitVec 10)
  /-- SHFL (R152): Exchanges register values among the lanes of a warp. -/
  | shfl (sc : Scope) (d : BitVec 7) (a : BitVec 7) (b : BitVec 7) (p : BitVec 3)
  /-- VOTE (R153): Combines a predicate over the participants, with an optional ballot. -/
  | vote (sc : Scope) (c : BitVec 3) (pd : BitVec 3) (na : BitVec 1) (pa : BitVec 3) (b : BitVec 7) (p : BitVec 3)
  /-- REDUX (R155): Folds the participants' values in element order. -/
  | redux (sc : Scope) (d : BitVec 7) (a : BitVec 7) (f : BitVec 7) (p : BitVec 3)
  /-- SCAN (R156): Writes each participant's inclusive prefix fold. -/
  | scan (sc : Scope) (d : BitVec 7) (a : BitVec 7) (f : BitVec 7) (p : BitVec 3)
  /-- SETDECL (R157): Replaces the block's set declarations at once. -/
  | setdecl (sc : Scope) (a : BitVec 7) (p : BitVec 3) (lit : Word)
  /-- QUOTA (R158): Moves register granules from one set to another. -/
  | quota (sc : Scope) (x : BitVec 2) (y : BitVec 2) (n : BitVec 4)
  /-- TILE_NEXT (R159): Takes the next work identifier from the die's dispenser. -/
  | tileNext (sc : Scope) (pd : BitVec 3) (a : BitVec 7) (p : BitVec 3)
  /-- SPAWN (R160): Spawns one thread into a bin with an entry address and two arguments. -/
  | spawn (sc : Scope) (d : BitVec 7) (a : BitVec 7) (b : BitVec 7) (p : BitVec 3)
  /-- YIELD (R161): Keeps the threads from being leader at the next pick. -/
  | yield (sc : Scope) (p : BitVec 3)
  /-- S2R (R94): Reads a special register. -/
  | s2r (sc : Scope) (d : BitVec 7) (n : BitVec 10)
  /-- FEATQ (R95): Reads a word of the virtual device's feature profile. -/
  | featq (sc : Scope) (d : BitVec 7) (n : BitVec 10)
  /-- TRAP (R96): Raises the TRAP fault with a software code. -/
  | trap (sc : Scope) (c : BitVec 10)
  /-- SPAWN_SPEC (R387): Creates one speculative task per guarded thread. -/
  | spawnSpec (sc : Scope) (d : BitVec 7) (a : BitVec 7) (b : BitVec 7) (p : BitVec 3)
  /-- SPEC_OP (R388): Checks for conflict, registers the entry, pushes the undo record and opens a bracket. -/
  | specOp (sc : Scope) (d : BitVec 7) (a : BitVec 7) (b : BitVec 7) (p : BitVec 3) (lit : Word)
  /-- SPEC_END (R389): Closes the bracket and takes a deferred abort. -/
  | specEnd (sc : Scope) (p : BitVec 3)
  /-- SPEC_COMMIT (R389): Commits the task, in key order for ordered tasks. -/
  | specCommit (sc : Scope) (p : BitVec 3)
  /-- SPEC_ABORT (R389): Aborts the task at once. -/
  | specAbort (sc : Scope) (p : BitVec 3)
  /-- SPEC_DRAIN (R389): Completes when the launch has no live task, with an acquire. -/
  | specDrain (sc : Scope) (p : BitVec 3)
  /-- SPEC_TABLE (R390): Loads the conflict table image into both conflict units. -/
  | specTable (sc : Scope) (a : BitVec 7) (p : BitVec 3)
  /-- BRX (R88): Branches each thread through an indexed table in global memory. -/
  | brx (sc : Scope) (d : BitVec 7) (a : BitVec 7) (b : BitVec 7) (p : BitVec 3)
  /-- PRIM_EMIT (R330): Emits a triangle, opening the pass if needed. -/
  | primEmit (sc : Scope) (a : BitVec 7) (p : BitVec 3)
  /-- ATTR_EMIT (R331): Stages an attribute word of a vertex. -/
  | attrEmit (sc : Scope) (a : BitVec 7) (v : BitVec 2) (k : BitVec 4) (p : BitVec 3)
  /-- ATTR_IN (R332): Reads an interpolated attribute or the fragment depth. -/
  | attrIn (sc : Scope) (d : BitVec 7) (c : BitVec 7) (p : BitVec 3)
  /-- TEX_S (R333): Samples a surface bilinearly, subject to the grant check. -/
  | texS (sc : Scope) (d : BitVec 7) (a : BitVec 7) (p : BitVec 3) (lit : Word)
  /-- TEX_L (R333): Samples a surface with the nearest filter. -/
  | texL (sc : Scope) (d : BitVec 7) (a : BitVec 7) (p : BitVec 3) (lit : Word)
  /-- TEX_F (R333): Fetches a texel by integer coordinates. -/
  | texF (sc : Scope) (d : BitVec 7) (a : BitVec 7) (p : BitVec 3) (lit : Word)
  /-- TEX_G (R333): Gathers one channel of four texels. -/
  | texG (sc : Scope) (d : BitVec 7) (a : BitVec 7) (p : BitVec 3) (lit : Word)
  /-- TB_LD (R335): Reads the pixel's colour or depth word from the tile buffer. -/
  | tbLd (sc : Scope) (d : BitVec 7) (w1 : BitVec 1) (p : BitVec 3)
  /-- TB_ST (R335): Writes the pixel's colour or depth word. -/
  | tbSt (sc : Scope) (a : BitVec 7) (w1 : BitVec 1) (p : BitVec 3)
  /-- TB_BLEND (R335): Blends a source colour into the pixel's colour word. -/
  | tbBlend (sc : Scope) (a : BitVec 7) (p : BitVec 3)
  /-- FRAG_KILL (R336): Ends the fragment thread as EXIT does. -/
  | fragKill (sc : Scope) (p : BitVec 3)
  /-- HALL_Q_PIX (R338): Asks whether the owner may write a screen pixel. -/
  | hallQPix (sc : Scope) (d : BitVec 7) (a : BitVec 7) (p : BitVec 3)
  /-- HALL_Q_GRANT (R338): Asks which grant rights the owner holds on a surface. -/
  | hallQGrant (sc : Scope) (d : BitVec 7) (a : BitVec 7) (p : BitVec 3)
  /-- DEPTH_T (R337): Tests the fragment depth against the depth word and optionally writes it. -/
  | depthT (sc : Scope) (c : BitVec 3) (pd : BitVec 3) (a : BitVec 7) (p : BitVec 3)
  /-- SRD (R376): Reads a system register. -/
  | srd (sc : Scope) (d : BitVec 7) (n : BitVec 10)
  /-- SWR (R376): Writes a system register. -/
  | swr (sc : Scope) (a : BitVec 7) (n : BitVec 10)
  /-- ERET (R377): Ends the trap handler. -/
  | eret (sc : Scope) (p : BitVec 3)
  /-- CTX_RD (R378): Reads an item of a warp's context. -/
  | ctxRd (sc : Scope) (d : BitVec 7) (a : BitVec 7) (p : BitVec 3)
  /-- CTX_WR (R378): Writes an item of a warp's context. -/
  | ctxWr (sc : Scope) (a : BitVec 7) (b : BitVec 7) (p : BitVec 3)
  /-- CTX_SAVE (R385): Performs the gang save of the launch. -/
  | ctxSave (sc : Scope) (a : BitVec 7) (p : BitVec 3)
  /-- CTX_LOAD (R385): Restores a saved launch on the chosen cores. -/
  | ctxLoad (sc : Scope) (a : BitVec 7) (p : BitVec 3)
  /-- TLB_INV (R381): Removes TLB entries and puts new table roots in force. -/
  | tlbInv (sc : Scope) (a : BitVec 7) (b : BitVec 7) (p : BitVec 3)
  /-- WFI (R382): Holds the agent until an event of the mask is pending. -/
  | wfi (sc : Scope) (d : BitVec 7) (a : BitVec 7) (p : BitVec 3)
  /-- AGENT_CLAIM (R383): Claims the lowest unplaced ticket for this core and reserves the core. -/
  | agentClaim (sc : Scope) (d : BitVec 7) (p : BitVec 3)
  /-- BLK_START (R384): Performs placement and installs this core's block. -/
  | blkStart (sc : Scope) (a : BitVec 7) (p : BitVec 3)
  /-- BLK_STOP (R384): Stops the whole launch and halts its queue with ERR 15. -/
  | blkStop (sc : Scope) (a : BitVec 7) (p : BitVec 3)
  /-- VDEV_DRAIN (R386): Stops new requests of a virtual device and waits for those in flight. -/
  | vdevDrain (sc : Scope) (a : BitVec 7) (p : BitVec 3)
  /-- POOL_CLR (R386): Zeroes this core's pool and state if they belong to the virtual device. -/
  | poolClr (sc : Scope) (a : BitVec 7) (p : BitVec 3)
  /-- FAULT_RD (R379): Removes the oldest fault record into uniform registers. -/
  | faultRd (sc : Scope) (d : BitVec 7) (p : BitVec 3)
  /-- RESUME_CONTINUE (R380): Resumes the named lanes, replaying their recorded work. -/
  | resumeContinue (sc : Scope) (a : BitVec 7) (b : BitVec 7) (p : BitVec 3)
  /-- RESUME_SKIP (R380): Resumes the named lanes past the stop point, discarding recorded work. -/
  | resumeSkip (sc : Scope) (a : BitVec 7) (b : BitVec 7) (p : BitVec 3)
  /-- RESUME_KILL (R380): Ends the named lanes as EXIT does. -/
  | resumeKill (sc : Scope) (a : BitVec 7) (b : BitVec 7) (p : BitVec 3)
  /-- PICK (R102): A partition's picker chooses a leader thread and its clause, forms the issuing group and issues the clause to it. -/
  | pick (core part : Nat)
  /-- OPERATION_COMPLETE (R14): A long-latency operation completes, writes its destination and clears its completion flag once every operation tied to it has completed. -/
  | operationComplete (op : Nat)
  /-- REFILL_ARRIVAL (R164): The spill record that a RET is refilling from arrives, sr.sp rises by 16 and the held thread returns to its address. -/
  | refillArrival (thr : Nat)
  /-- BRX_ENTRY_ARRIVAL (R88): The table entry that a BRX reads arrives and the held thread transfers to it. -/
  | brxEntryArrival (thr : Nat)
  /-- SPAWN_BIN_TIMER (R122): A spawn bin's timer expires and the bin becomes ready to launch. -/
  | spawnBinTimer (core bin : Nat)
  /-- BIN_LAUNCH (R123): A ready bin launches one warp into a free warp slot that has register capacity, and overflow entries enter the freed bin. -/
  | binLaunch (core : Nat)
  /-- DISPENSER_REFILL (R394): A die dispenser's fetch-and-add of BATCH on the home counter is applied and sets the dispenser's run. -/
  | dispenserRefill (launch die : Nat)
  /-- NOTIFY (R138): A write to q.tail notifies the queue, which binds, becomes PENDING or halts on ring overrun. -/
  | notify (vdev q : Nat) (tail : Word)
  /-- Q_STATE_SKIP (R138): Writing SKIP as 1 to a HALTED queue finishes the failed record, advances HEAD and leaves HALTED. -/
  | qStateSkip (vdev q : Nat)
  /-- RECORD_CHECK (R140): A BOUND queue's record becomes current after the previous launch finishes, and the record, its arguments and its region table are read and checked. -/
  | recordCheck (vdev q : Nat)
  /-- SLOT_OVERDUE (R139): A non-preemptible holder's hold time exceeds its bound while a queue is PENDING, and the slot-overdue interrupt names both. -/
  | slotOverdue (vdev q : Nat)
  /-- TIME_SLICE_EXPIRY (R411): A launch's resident time reaches its slice while an eligible queue of another virtual device is PENDING, so the launch is pre-empted. -/
  | timeSliceExpiry (launch : Nat)
  /-- PREEMPTION_REQUEST (R350): A pre-emption request halts the gang, drains its accesses, saves it to the save area and frees its cores. -/
  | preemptionRequest (launch : Nat)
  /-- VDEV_SAVEFAULT_RETRY (R354): ACTION 1 written to vdev.savefault retries the save or restore from the faulting page. -/
  | vdevSavefaultRetry (vdev : Nat)
  /-- VDEV_SAVEFAULT_UNMAPPABLE (R354): ACTION 2 restarts the save in the fallback area, or marks the virtual device lost when no fallback exists. -/
  | vdevSavefaultUnmappable (vdev : Nat)
  /-- REMOTE_SECTOR_REQUEST (R185): A sector request from a remote requester reaches a die's stacks and is counted per 64 KiB block. -/
  | remoteSectorRequest (die req vdev pa : Nat)
  /-- HOTNESS_DECAY (R185): Every 2^DECAY microseconds every hotness counter is halved. -/
  | hotnessDecay
  /-- MEM_HOT_CFG_WRITE (R185): A write to mem.hot.cfg sets threshold, decay and enable, and clearing EN clears every counter. -/
  | memHotCfgWrite (v : Dword)
  /-- MEM_QPUSH (R188): A write to mem.qpush stamps a freed page with EPOCH, increments EPOCH, or sets QFULL when the queue is full. -/
  | memQpush (v : Dword)
  /-- MEM_QPOP (R188): A read of mem.qpop removes the oldest released page. -/
  | memQpop
  /-- ENGINE_COMMAND_START (R239): An engine starts the command at the head of its queue in queue order. -/
  | engineCommandStart (core engine : Nat)
  /-- SLICE_ELEMENT_DELIVERY (R242): Filigree delivers the next slice element to its lane ring or the scratchpad once there is room, and sets END after the last element. -/
  | sliceElementDelivery (core slot : Nat)
  /-- GRAPH_NODE_FINISH (R250): A finished graph node decrements its successors' counts, and the graph finishes when every node has finished. -/
  | graphNodeFinish (core node : Nat)
  /-- TASK_ABORT (R366): An aborting task, once its flags clear, runs its inverse routines most recent first, removes its conflict entries, and then restarts or exits. -/
  | taskAbort (thr : Nat)
  /-- TILE_PASS_START (R306): After the geometry ends, a block starts a tessera's tile pass by preparing the tile buffer and latching the Touchmark entries. -/
  | tilePassStart (core : Nat)
  /-- TESSERA_RESOLVE (R311): Once every fragment of a tessera has exited, the resolve writes the tessera's pixels out on the RAS path. -/
  | tesseraResolve (core : Nat)
  /-- BEZEL_REFRESH (R324): At each display refresh, Bezel latches the pixel map and composes every pixel from the owners' layers. -/
  | bezelRefresh (disp : Nat)
  /-- LOCKED_REFRESH (R22): Every REFRESH_CYC locked cycles a refresh is presented to the locked context's owner. -/
  | lockedRefresh (vdev ctx : Nat)
  /-- BZ_FILL (R322): A write to bz.fill.b queues a rectangle fill of a display's pixel map, or is ignored with FILLOVF. -/
  | bzFill (owner : Nat) (v : Dword)
  /-- BZ_FILL_COMPLETE (R322): A running fill completes, its entries become visible in one step, and the next waiting fill starts. -/
  | bzFillComplete
  /-- BZ_TSEL_WRITE (R321): A write to bz.tsel selects a table entry and discards the gathered bytes. -/
  | bzTselWrite (owner : Nat) (v : Dword)
  /-- BZ_TDATA_WRITE (R321): A write to bz.tdata3, or to bz.tdata0 for a layer, replaces the selected entry and advances INDEX. -/
  | bzTdataWrite (owner k : Nat) (v : Dword)
  /-- BZ_MODE_WRITE (R323): A write to bz.mode changes the display mode at the next refresh boundary, starts or stops the display, or is refused with MODEERR. -/
  | bzModeWrite (owner disp : Nat) (v : Dword) (carried : Bool)
  /-- DISPLAY_LINK_TRAINED (R323): After the sink is read and the link trained, an enabled display begins its first refresh. -/
  | displayLinkTrained (disp : Nat)
  /-- PR_B_WRITE (R327): A write to PR_B enqueues a present entry, or is ignored with OVF when the queue is full. -/
  | prBWrite (owner disp : Nat) (v : Dword)
  /-- FABRIC_INGRESS_REQUEST (R398): A fabric request arriving at a module's ingress is checked against the import table and performed, or refused with IMPORT. -/
  | fabricIngressRequest (r : FabricReq)
  /-- STUB_THAW_REPORT (R418): When module DEST reports the thaw, the forwarding stub forwards its held requests in arrival order. -/
  | stubThawReport (vdev : Nat)
  /-- LINK_ROUTE_FAILURE (R403): A failed route completes each in-flight request once or returns it as ACCESS with cause NOTARGET. -/
  | linkRouteFailure (op : Nat) (completed : Bool)
  /-- BANDWIDTH_PUBLICATION (R412): Every microsecond the memory controllers publish bandwidth shares and congestion, and each cluster adjusts its throttle levels. -/
  | bandwidthPublication (shares : List Nat) (congested : Bool)
  /-- VDEV_RESET (R414): ACTION 1 in vdev.ctl resets one virtual device through the agents' stop, drain, scrub and invalidate steps. -/
  | vdevReset (vdev : Nat)
  /-- VDEV_FREEZE (R417): ACTION 2 gang-saves every launch of the virtual device, writes its image and sets FROZEN. -/
  | vdevFreeze (vdev : Nat)
  /-- VDEV_THAW (R417): ACTION 3 loads a virtual-device image and restores its launches, or is refused with MIGERR. -/
  | vdevThaw (vdev : Nat)
  /-- VDEV_STUB_CLEAR (R418): Writing STUB as 0 ends the forwarding stub, and later requests are refused with IMPORT. -/
  | vdevStubClear (vdev : Nat)
  /-- VDEV_SHARE_WRITE (R407): A write to vdev.share sets clusters, slice and bandwidth, or is ignored when it breaks the limits. -/
  | vdevShareWrite (vdev : Nat) (v : Dword)
  /-- VDEV_SIG_WRITE (R408): A write to vdev.sig places the signal grant, or is ignored when out of range or overlapping. -/
  | vdevSigWrite (vdev : Nat) (v : Dword)
  /-- Q_CTL_WRITE (R409): A write to q.ctl sets the queue's controls, and clearing EN returns the queue to IDLE after its current launch. -/
  | qCtlWrite (vdev q : Nat) (v : Dword)
  /-- CTX_CREATE (R410): ACTION 1 in vdev.ctxcmd creates a context at reset values and selects it, or sets ERR. -/
  | ctxCreate (vdev ctx : Nat)
  /-- CTX_DESTROY (R410): ACTION 2 destroys an unused context and removes its TLB entries, or sets ERR. -/
  | ctxDestroy (vdev ctx : Nat)
  /-- CTX_SELECT (R410): ACTION 3 selects a created context for the control-page aperture, or sets ERR. -/
  | ctxSelect (vdev ctx : Nat)
  /-- CTX_LEGACY_WRITE (R23): A write to ctx.legacy stores the mode for the next installed block and clears LKERR. -/
  | ctxLegacyWrite (vdev : Nat) (v : Dword)
  /-- CTX_OWNER_WRITE (R375): A write to ctx.owner is ignored unless the value lies within vdev.owner's bounds or is 255. -/
  | ctxOwnerWrite (vdev : Nat) (v : Dword)
  /-- SYS_RST_ACK (R421): An agent acknowledges its reset step in sys.rst, and the hub advances the reset to its next step or to step 5. -/
  | sysRstAck (core : Nat) (v : Dword)
  /-- DRAIN_PCIE_TIMEOUT (R386): A PCIe request not completed 1 ms into a drain is discarded, so reads return all ones and writes are lost. -/
  | drainPcieTimeout (vdev : Nat)
  /-- HOST_SIGNAL_STORE (R203): An application core's store to a signal word after its store barrier is a releasing write with mask HOST. -/
  | hostSignalStore (idx : Nat) (v : Dword)
  /-- HOST_SIGNAL_LOAD (R203): An application core's load of a signal word followed by its load barrier is an acquire event. -/
  | hostSignalLoad (idx : Nat)
  /-- REGISTER_WRITE (R5): A write to a register that has no row of its own stores its writable fields as its field map states. -/
  | registerWrite (pa : Nat) (owner : Nat) (v : Dword)
  /-- GET_VERSION (R438): The SPDM responder answers GET_VERSION. -/
  | getVersion
  /-- GET_CAPABILITIES (R438): The SPDM responder answers GET_CAPABILITIES. -/
  | getCapabilities
  /-- NEGOTIATE_ALGORITHMS (R438): The responder negotiates ECDSA P-384 and SHA-384 only. -/
  | negotiateAlgorithms (asym hash : Nat)
  /-- GET_DIGESTS (R438): The responder returns the certificate digests of slot 0. -/
  | getDigests (slot : Nat)
  /-- GET_CERTIFICATE (R438): The responder returns the certificate chain of slot 0. -/
  | getCertificate (slot : Nat)
  /-- CHALLENGE (R438): The responder answers a CHALLENGE with ECDSA and LMS signatures over one snapshot. -/
  | challenge (slot : Nat) (nonce : Dword)
  /-- GET_MEASUREMENTS (R438): The responder returns MEAS0 to MEAS15 and the firmware generation from one snapshot. -/
  | getMeasurements (index : Nat) (nonce : Dword)
  /-- ASSAY_EXTEND (R436): An EXTEND request extends one of MEAS8 to MEAS15 and appends a log entry, or is refused when the log is full. -/
  | assayExtend (k : Nat) (digest : BitVec 384)
  /-- HANDOVER_STAGE (R440): A staged firmware image is accepted and copied, and the agents begin to quiesce. -/
  | handoverStage (image : List Byte)
  /-- HANDOVER_TIMEOUT (R440): If an agent has not parked within 10 ms, the hand-over is abandoned and the old firmware resumes. -/
  | handoverTimeout
  /-- COLD_START (R442): A cold start runs every start step: self-check, training, scrub, zeroing, measurement and start of the cores. -/
  | coldStart (img : StartInput)
  /-- WARM_START (R442): A warm start keeps stack contents, skips training and scrub, and counts its failures. -/
  | warmStart (img : StartInput)
  deriving DecidableEq, Repr

end Sys2Proof
end

