-- ==== Sys2Proof/WellFormed.lean ====
section
/-! DEFINITION. The checks of R42 that a decoded instruction must pass before its clause issues:
register fields (ILLEGAL_OP), scopes and destinations (ILLEGAL_SCOPE), and the quota (REG_RANGE). -/

namespace Sys2Proof

/-- The scopes the opcode map allows an instruction (R33-R40); a device step has none. -/
def Instr.scopes : Instr → List Scope
  | .mov .. | .movi .. | .movl .. | .sel .. | .iadd .. | .iaddi .. | .isub .. | .imul ..
  | .imulh .. | .imulhUi .. | .imad .. | .imin .. | .iminUi .. | .imax .. | .imaxUi ..
  | .iabs .. | .and_ .. | .andi .. | .or_ .. | .ori .. | .xor .. | .xori .. | .shl .. | .shr ..
  | .sar .. | .shfiShl .. | .shfiShr .. | .shfiSar .. | .shfiRol .. | .rol .. | .bfe ..
  | .bfi .. | .popc .. | .clz .. | .brev .. | .isetp .. | .isetpi .. | .fadd .. | .fsub ..
  | .fmul .. | .ffma .. | .fmin .. | .fmax .. | .fsetp .. | .fabs .. | .fneg .. | .frcp ..
  | .frsq .. | .fsqrt .. | .fex2 .. | .flg2 .. | .fsin .. | .fcos .. | .ffloor .. | .fceil ..
  | .ftrunc .. | .frint .. | .ffract .. | .hadd2 .. | .hmul2 .. | .hfma2 .. | .badd2 ..
  | .bmul2 .. | .bfma2 .. | .cvt .. | .plop .. | .pmovGet .. | .pmovPut .. | .idp4 ..
  | .ldUi8 .. | .ldI8 .. | .ldUi16 .. | .ldI16 .. | .ld32 .. | .ld64 .. | .lds32 .. | .lds64 ..
  | .ldc32 .. | .acq .. | .rel .. | .fence .. | .xfence .. | .nop .. | .s2r .. => [.lane, .warp, .set, .block]
  | .ld128 .. | .lds128 .. | .redAdd .. | .redMin .. | .redMax .. | .redAnd .. | .redOr ..
  | .redXor .. | .redFadd .. | .call .. | .callI .. | .ret .. | .exit .. | .jwait ..
  | .jleave .. | .brk .. | .spawn .. | .spawnSpec .. | .specOp .. | .specEnd ..
  | .specCommit .. | .specAbort .. | .specDrain .. | .specTable .. | .brx .. | .attrEmit ..
  | .attrIn .. | .tbLd .. | .tbSt .. | .tbBlend .. | .fragKill .. | .depthT .. => [.lane]
  | .st8 .. | .st16 .. | .st32 .. | .st64 .. | .st128 .. | .sts32 .. | .sts64 .. | .sts128 ..
  | .atomAdd .. | .atomMin .. | .atomMax .. | .atomMinUi .. | .atomMaxUi .. | .atomAnd ..
  | .atomOr .. | .atomXor .. | .atomExch .. | .atomCas .. | .atomInc .. | .atomFadd ..
  | .cflush .. | .cinv .. | .prefetch .. | .bra .. | .brm .. | .barSync .. | .barArrive ..
  | .barWait .. | .yield .. | .trap .. | .primEmit .. | .texS .. | .texL .. | .texF ..
  | .texG .. | .hallQPix .. | .hallQGrant .. | .srd .. | .swr .. => [.lane, .warp]
  | .bind .. | .unbind .. | .winset .. | .filLoad .. | .filRun .. | .filStop .. | .qcfg ..
  | .gnode .. | .gedge .. | .garm .. | .garmClr .. | .gwait .. | .barInit .. | .setdecl ..
  | .quota .. | .tileNext .. => [.block]
  | .gateAcq .. | .gateTry .. | .gateRel .. | .sigLd .. | .sigSt .. | .sigAdd .. | .sigCas ..
  | .sigWait .. | .qstat .. | .featq .. => [.lane, .warp, .block]
  | .mmaT8 .. | .mmaI8 .. | .mmaE4 .. | .mmaE5 .. | .mmaBf .. | .mmaH .. | .mmaF32 ..
  | .mmaT8s .. | .mmaI8s .. => [.set]
  | .wload .. | .tstore .. | .tstoreAdd .. => [.set, .block]
  | .accZero .. | .accRd .. | .accWr .. | .accScale .. | .accCvtF32I32 .. | .accCvtI32F32 ..
  | .rowmax .. | .rowsum .. => [.warp, .set]
  | .winget .. | .vote .. | .redux .. | .scan .. => [.warp, .set, .block]
  | .copy .. | .copyX24 .. | .gset .. | .engStat .. => [.warp, .block]
  | .jinit .. | .shfl .. | .eret .. | .ctxRd .. | .ctxWr .. | .ctxSave .. | .ctxLoad ..
  | .tlbInv .. | .wfi .. | .agentClaim .. | .blkStart .. | .blkStop .. | .vdevDrain ..
  | .poolClr .. | .faultRd .. | .resumeContinue .. | .resumeSkip .. | .resumeKill .. => [.warp]
  | _ => []

/-- The long-latency instructions (R35-R40). -/
def Instr.longLatency : Instr → Bool
  | .ldUi8 .. | .ldI8 .. | .ldUi16 .. | .ldI16 .. | .ld32 .. | .ld64 .. | .ld128 .. | .lds32 ..
  | .lds64 .. | .lds128 .. | .ldc32 .. | .atomAdd .. | .atomMin .. | .atomMax ..
  | .atomMinUi .. | .atomMaxUi .. | .atomAnd .. | .atomOr .. | .atomXor .. | .atomExch ..
  | .atomCas .. | .atomInc .. | .atomFadd .. | .redAdd .. | .redMin .. | .redMax ..
  | .redAnd .. | .redOr .. | .redXor .. | .redFadd .. | .acq .. | .gateAcq .. | .gateTry ..
  | .sigLd .. | .sigAdd .. | .sigCas .. | .sigWait .. | .fence .. | .xfence .. | .cflush ..
  | .cinv .. | .mmaT8 .. | .mmaI8 .. | .mmaE4 .. | .mmaE5 .. | .mmaBf .. | .mmaH ..
  | .mmaF32 .. | .mmaT8s .. | .mmaI8s .. | .wload .. | .accZero .. | .accRd .. | .accWr ..
  | .accScale .. | .accCvtF32I32 .. | .accCvtI32F32 .. | .tstore .. | .tstoreAdd ..
  | .rowmax .. | .rowsum .. | .copy .. | .copyX24 .. | .filLoad .. | .filRun .. | .filStop ..
  | .gnode .. | .gedge .. | .garm .. | .garmClr .. | .gwait .. | .tileNext .. | .specOp ..
  | .specCommit .. | .specDrain .. | .specTable .. | .attrIn .. | .texS .. | .texL ..
  | .texF .. | .texG .. | .tbLd .. | .hallQPix .. | .hallQGrant .. | .depthT .. | .ctxRd ..
  | .ctxWr .. | .ctxSave .. | .ctxLoad .. | .tlbInv .. | .agentClaim .. | .blkStart ..
  | .blkStop .. | .vdevDrain .. | .poolClr .. | .faultRd .. => true
  | _ => false

/-- The control-transfer instructions (R41). -/
def Instr.transfer : Instr → Bool
  | .bra .. | .brm .. | .brx .. | .call .. | .callI .. | .ret .. | .exit .. | .brk ..
  | .trap .. | .specAbort .. | .fragKill .. | .eret .. => true
  | _ => false

/-- The words of literals that follow an instruction's word (R28, R29). -/
def Instr.litCount : Instr → Nat
  | .brm _ lits => lits.length
  | .movl .. | .mmaT8s .. | .mmaI8s .. | .filLoad .. | .gnode .. | .brk .. | .setdecl ..
  | .specOp .. | .texS .. | .texL .. | .texF .. | .texG .. => 1
  | _ => 0

/-- The class whose opcode map holds an instruction (R33-R40); a device step has none. -/
def Instr.cls : Instr → Option Cls
  | .mov .. | .movi .. | .movl .. | .sel .. | .iadd .. | .iaddi .. | .isub .. | .imul ..
  | .imulh .. | .imulhUi .. | .imad .. | .imin .. | .iminUi .. | .imax .. | .imaxUi ..
  | .iabs .. | .and_ .. | .andi .. | .or_ .. | .ori .. | .xor .. | .xori .. | .shl .. | .shr ..
  | .sar .. | .shfiShl .. | .shfiShr .. | .shfiSar .. | .shfiRol .. | .rol .. | .bfe ..
  | .bfi .. | .popc .. | .clz .. | .brev .. | .isetp .. | .isetpi .. | .fadd .. | .fsub ..
  | .fmul .. | .ffma .. | .fmin .. | .fmax .. | .fsetp .. | .fabs .. | .fneg .. | .frcp ..
  | .frsq .. | .fsqrt .. | .fex2 .. | .flg2 .. | .fsin .. | .fcos .. | .ffloor .. | .fceil ..
  | .ftrunc .. | .frint .. | .ffract .. | .hadd2 .. | .hmul2 .. | .hfma2 .. | .badd2 ..
  | .bmul2 .. | .bfma2 .. | .cvt .. | .plop .. | .pmovGet .. | .pmovPut .. | .idp4 .. => some .alu
  | .ldUi8 .. | .ldI8 .. | .ldUi16 .. | .ldI16 .. | .ld32 .. | .ld64 .. | .ld128 .. | .st8 ..
  | .st16 .. | .st32 .. | .st64 .. | .st128 .. | .lds32 .. | .lds64 .. | .lds128 .. | .sts32 ..
  | .sts64 .. | .sts128 .. | .ldc32 .. | .atomAdd .. | .atomMin .. | .atomMax ..
  | .atomMinUi .. | .atomMaxUi .. | .atomAnd .. | .atomOr .. | .atomXor .. | .atomExch ..
  | .atomCas .. | .atomInc .. | .atomFadd .. | .redAdd .. | .redMin .. | .redMax ..
  | .redAnd .. | .redOr .. | .redXor .. | .redFadd .. | .bind .. | .unbind .. | .acq ..
  | .rel .. | .gateAcq .. | .gateTry .. | .gateRel .. | .sigLd .. | .sigSt .. | .sigAdd ..
  | .sigCas .. | .sigWait .. | .fence .. | .xfence .. | .cflush .. | .cinv .. | .prefetch .. => some .mem
  | .mmaT8 .. | .mmaI8 .. | .mmaE4 .. | .mmaE5 .. | .mmaBf .. | .mmaH .. | .mmaF32 ..
  | .mmaT8s .. | .mmaI8s .. | .wload .. | .accZero .. | .accRd .. | .accWr .. | .accScale ..
  | .accCvtF32I32 .. | .accCvtI32F32 .. | .tstore .. | .tstoreAdd .. | .winset .. | .winget ..
  | .rowmax .. | .rowsum .. => some .mtx
  | .copy .. | .copyX24 .. | .filLoad .. | .filRun .. | .filStop .. | .qcfg .. | .qstat ..
  | .gnode .. | .gedge .. | .garm .. | .garmClr .. | .gwait .. | .gset .. | .engStat .. => some .async
  | .nop .. | .bra .. | .brm .. | .call .. | .callI .. | .ret .. | .exit .. | .jinit ..
  | .jwait .. | .jleave .. | .brk .. | .barSync .. | .barArrive .. | .barWait .. | .barInit ..
  | .shfl .. | .vote .. | .redux .. | .scan .. | .setdecl .. | .quota .. | .tileNext ..
  | .spawn .. | .yield .. | .s2r .. | .featq .. | .trap .. | .spawnSpec .. | .specOp ..
  | .specEnd .. | .specCommit .. | .specAbort .. | .specDrain .. | .specTable .. | .brx .. => some .ctrl
  | .primEmit .. | .attrEmit .. | .attrIn .. | .texS .. | .texL .. | .texF .. | .texG ..
  | .tbLd .. | .tbSt .. | .tbBlend .. | .fragKill .. | .hallQPix .. | .hallQGrant ..
  | .depthT .. => some .gfx
  | .srd .. | .swr .. | .eret .. | .ctxRd .. | .ctxWr .. | .ctxSave .. | .ctxLoad ..
  | .tlbInv .. | .wfi .. | .agentClaim .. | .blkStart .. | .blkStop .. | .vdevDrain ..
  | .poolClr .. | .faultRd .. | .resumeContinue .. | .resumeSkip .. | .resumeKill .. => some .sys
  | _ => none

/-- The SCOPE field of an instruction's word; device steps read as lane. -/
def Instr.scope : Instr → Scope
  | .mov (sc := sc) .. | .movi (sc := sc) .. | .movl (sc := sc) .. | .sel (sc := sc) .. | .iadd (sc := sc) .. | .iaddi (sc := sc) .. | .isub (sc := sc) .. | .imul (sc := sc) ..
  | .imulh (sc := sc) .. | .imulhUi (sc := sc) .. | .imad (sc := sc) .. | .imin (sc := sc) .. | .iminUi (sc := sc) .. | .imax (sc := sc) .. | .imaxUi (sc := sc) ..
  | .iabs (sc := sc) .. | .and_ (sc := sc) .. | .andi (sc := sc) .. | .or_ (sc := sc) .. | .ori (sc := sc) .. | .xor (sc := sc) .. | .xori (sc := sc) .. | .shl (sc := sc) .. | .shr (sc := sc) ..
  | .sar (sc := sc) .. | .shfiShl (sc := sc) .. | .shfiShr (sc := sc) .. | .shfiSar (sc := sc) .. | .shfiRol (sc := sc) .. | .rol (sc := sc) .. | .bfe (sc := sc) ..
  | .bfi (sc := sc) .. | .popc (sc := sc) .. | .clz (sc := sc) .. | .brev (sc := sc) .. | .isetp (sc := sc) .. | .isetpi (sc := sc) .. | .fadd (sc := sc) .. | .fsub (sc := sc) ..
  | .fmul (sc := sc) .. | .ffma (sc := sc) .. | .fmin (sc := sc) .. | .fmax (sc := sc) .. | .fsetp (sc := sc) .. | .fabs (sc := sc) .. | .fneg (sc := sc) .. | .frcp (sc := sc) ..
  | .frsq (sc := sc) .. | .fsqrt (sc := sc) .. | .fex2 (sc := sc) .. | .flg2 (sc := sc) .. | .fsin (sc := sc) .. | .fcos (sc := sc) .. | .ffloor (sc := sc) .. | .fceil (sc := sc) ..
  | .ftrunc (sc := sc) .. | .frint (sc := sc) .. | .ffract (sc := sc) .. | .hadd2 (sc := sc) .. | .hmul2 (sc := sc) .. | .hfma2 (sc := sc) .. | .badd2 (sc := sc) ..
  | .bmul2 (sc := sc) .. | .bfma2 (sc := sc) .. | .cvt (sc := sc) .. | .plop (sc := sc) .. | .pmovGet (sc := sc) .. | .pmovPut (sc := sc) .. | .idp4 (sc := sc) ..
  | .ldUi8 (sc := sc) .. | .ldI8 (sc := sc) .. | .ldUi16 (sc := sc) .. | .ldI16 (sc := sc) .. | .ld32 (sc := sc) .. | .ld64 (sc := sc) .. | .ld128 (sc := sc) .. | .st8 (sc := sc) ..
  | .st16 (sc := sc) .. | .st32 (sc := sc) .. | .st64 (sc := sc) .. | .st128 (sc := sc) .. | .lds32 (sc := sc) .. | .lds64 (sc := sc) .. | .lds128 (sc := sc) .. | .sts32 (sc := sc) ..
  | .sts64 (sc := sc) .. | .sts128 (sc := sc) .. | .ldc32 (sc := sc) .. | .atomAdd (sc := sc) .. | .atomMin (sc := sc) .. | .atomMax (sc := sc) ..
  | .atomMinUi (sc := sc) .. | .atomMaxUi (sc := sc) .. | .atomAnd (sc := sc) .. | .atomOr (sc := sc) .. | .atomXor (sc := sc) .. | .atomExch (sc := sc) ..
  | .atomCas (sc := sc) .. | .atomInc (sc := sc) .. | .atomFadd (sc := sc) .. | .redAdd (sc := sc) .. | .redMin (sc := sc) .. | .redMax (sc := sc) ..
  | .redAnd (sc := sc) .. | .redOr (sc := sc) .. | .redXor (sc := sc) .. | .redFadd (sc := sc) .. | .bind (sc := sc) .. | .unbind (sc := sc) .. | .acq (sc := sc) ..
  | .rel (sc := sc) .. | .gateAcq (sc := sc) .. | .gateTry (sc := sc) .. | .gateRel (sc := sc) .. | .sigLd (sc := sc) .. | .sigSt (sc := sc) .. | .sigAdd (sc := sc) ..
  | .sigCas (sc := sc) .. | .sigWait (sc := sc) .. | .fence (sc := sc) .. | .xfence (sc := sc) .. | .cflush (sc := sc) .. | .cinv (sc := sc) .. | .prefetch (sc := sc) ..
  | .mmaT8 (sc := sc) .. | .mmaI8 (sc := sc) .. | .mmaE4 (sc := sc) .. | .mmaE5 (sc := sc) .. | .mmaBf (sc := sc) .. | .mmaH (sc := sc) .. | .mmaF32 (sc := sc) ..
  | .mmaT8s (sc := sc) .. | .mmaI8s (sc := sc) .. | .wload (sc := sc) .. | .accZero (sc := sc) .. | .accRd (sc := sc) .. | .accWr (sc := sc) .. | .accScale (sc := sc) ..
  | .accCvtF32I32 (sc := sc) .. | .accCvtI32F32 (sc := sc) .. | .tstore (sc := sc) .. | .tstoreAdd (sc := sc) .. | .winset (sc := sc) .. | .winget (sc := sc) ..
  | .rowmax (sc := sc) .. | .rowsum (sc := sc) .. | .copy (sc := sc) .. | .copyX24 (sc := sc) .. | .filLoad (sc := sc) .. | .filRun (sc := sc) .. | .filStop (sc := sc) ..
  | .qcfg (sc := sc) .. | .qstat (sc := sc) .. | .gnode (sc := sc) .. | .gedge (sc := sc) .. | .garm (sc := sc) .. | .garmClr (sc := sc) .. | .gwait (sc := sc) ..
  | .gset (sc := sc) .. | .engStat (sc := sc) .. | .nop (sc := sc) .. | .bra (sc := sc) .. | .brm (sc := sc) .. | .call (sc := sc) .. | .callI (sc := sc) .. | .ret (sc := sc) ..
  | .exit (sc := sc) .. | .jinit (sc := sc) .. | .jwait (sc := sc) .. | .jleave (sc := sc) .. | .brk (sc := sc) .. | .barSync (sc := sc) .. | .barArrive (sc := sc) ..
  | .barWait (sc := sc) .. | .barInit (sc := sc) .. | .shfl (sc := sc) .. | .vote (sc := sc) .. | .redux (sc := sc) .. | .scan (sc := sc) .. | .setdecl (sc := sc) ..
  | .quota (sc := sc) .. | .tileNext (sc := sc) .. | .spawn (sc := sc) .. | .yield (sc := sc) .. | .s2r (sc := sc) .. | .featq (sc := sc) .. | .trap (sc := sc) ..
  | .spawnSpec (sc := sc) .. | .specOp (sc := sc) .. | .specEnd (sc := sc) .. | .specCommit (sc := sc) .. | .specAbort (sc := sc) .. | .specDrain (sc := sc) ..
  | .specTable (sc := sc) .. | .brx (sc := sc) .. | .primEmit (sc := sc) .. | .attrEmit (sc := sc) .. | .attrIn (sc := sc) .. | .texS (sc := sc) .. | .texL (sc := sc) ..
  | .texF (sc := sc) .. | .texG (sc := sc) .. | .tbLd (sc := sc) .. | .tbSt (sc := sc) .. | .tbBlend (sc := sc) .. | .fragKill (sc := sc) .. | .hallQPix (sc := sc) ..
  | .hallQGrant (sc := sc) .. | .depthT (sc := sc) .. | .srd (sc := sc) .. | .swr (sc := sc) .. | .eret (sc := sc) .. | .ctxRd (sc := sc) .. | .ctxWr (sc := sc) ..
  | .ctxSave (sc := sc) .. | .ctxLoad (sc := sc) .. | .tlbInv (sc := sc) .. | .wfi (sc := sc) .. | .agentClaim (sc := sc) .. | .blkStart (sc := sc) ..
  | .blkStop (sc := sc) .. | .vdevDrain (sc := sc) .. | .poolClr (sc := sc) .. | .faultRd (sc := sc) .. | .resumeContinue (sc := sc) ..
  | .resumeSkip (sc := sc) .. | .resumeKill (sc := sc) .. => sc
  | _ => .lane

/-! Register codes (R31): 0-95 are v0-v95, 96-119 are s0-s23, 120 is z, 121-123 are reserved and
124-127 are the queue ports q0-q3. -/

/-- What an instruction uses a register field for (R30, R31, R275, R373 and the entries). -/
inductive Role where
  /-- one source register, a queue port included -/
  | src
  /-- a source pair: an even register number, or z -/
  | srcPair
  /-- a source quad: a vector register that is a multiple of 4 -/
  | srcQuad
  /-- a destination: vector or z at lane scope, uniform or z at a wider one -/
  | dst
  /-- a destination pair under the same rule -/
  | dstPair
  /-- a destination quad, at lane scope -/
  | dstQuad
  /-- a destination of any kind (SHFL, REDUX) -/
  | anyDst
  /-- a vector destination or z; a uniform one is ILLEGAL_SCOPE -/
  | vecOrZ
  /-- a vector quad as destination at any scope (TEX) -/
  | vecQuad
  /-- an even vector pair -/
  | vecPair
  /-- a run of n vector registers -/
  | vecRun (n : Nat)
  /-- s0-s23 or z -/
  | uni
  /-- an even uniform pair, or z -/
  | uniPair
  /-- a run of uniform registers that starts at sN, N at most `last` and a multiple of `step` -/
  | uniRun (last step : Nat)
  /-- s0-s23 or z; any other register is ILLEGAL_SCOPE (the ballot of VOTE) -/
  | uniScope
  /-- the pair of SRD and SWR: vector at lane scope, uniform at warp scope -/
  | sysPair
  /-- a destination that is a vector register at lane scope, s0-s23 or z at a wider one; any other is ILLEGAL_OP (QSTAT) -/
  | statDst
  /-- one source register, no queue port (WINGET) -/
  | anyReg
  deriving DecidableEq, Repr

/-- A vector register code. -/
def isVec (c : BitVec 7) : Bool := c.toNat < 96
/-- A uniform register code. -/
def isUni (c : BitVec 7) : Bool := 96 ≤ c.toNat && c.toNat < 120
/-- The zero register. -/
def isZ (c : BitVec 7) : Bool := c.toNat = 120
/-- A queue port. -/
def isPort (c : BitVec 7) : Bool := 124 ≤ c.toNat
/-- An even register number: both register files start at an even code. -/
def isEven (c : BitVec 7) : Bool := c.toNat % 2 = 0

/-- The ILLEGAL_OP check of one register field (R31, R42, R275, R373). -/
def Role.opOk (sc : Scope) (c : BitVec 7) : Role → Bool
  | .src => isVec c || isUni c || isZ c || isPort c
  | .srcPair | .dstPair => (isVec c || isUni c || isZ c) && isEven c
  | .srcQuad | .dstQuad | .vecQuad => isVec c && c.toNat % 4 = 0
  | .dst | .anyDst | .vecOrZ | .uniScope => isVec c || isUni c || isZ c
  | .vecPair => isVec c && isEven c
  | .vecRun _ => isVec c
  | .uni => isUni c || isZ c
  | .uniPair => (isUni c || isZ c) && isEven c
  | .uniRun last step => isUni c && c.toNat - 96 ≤ last && (c.toNat - 96) % step = 0
  | .statDst => if sc = .lane then isVec c else isUni c || isZ c
  | .anyReg => isVec c || isUni c || isZ c
  | .sysPair => ((if sc = .lane then isVec c else isUni c) || isZ c) && isEven c

/-- The ILLEGAL_SCOPE check of one register field (R9, R30, R42). -/
def Role.scopeOk (sc : Scope) (c : BitVec 7) : Role → Bool
  | .dst | .dstPair => if sc = .lane then !isUni c else !isVec c
  | .vecOrZ => !isUni c
  | .uniScope => if sc = .warp then !isVec c else isZ c
  | _ => true

/-- How many consecutive registers a field names. -/
def Role.width : Role → Nat
  | .srcPair | .dstPair | .vecPair | .uniPair | .sysPair => 2
  | .srcQuad | .dstQuad | .vecQuad => 4
  | .vecRun n => n
  | _ => 1

/-- The REG_RANGE check of one register field: every vector register below the quota (R8, R31). -/
def Role.rangeOk (quota : Nat) (c : BitVec 7) (r : Role) : Bool :=
  !isVec c || c.toNat + r.width ≤ quota

/-- The register fields of an instruction with what each is used for, from the entries; the pair of UNBIND may start
at an odd number, as BIND's run may (R224, R225) (DESIGN CHOICE, log entry 122). -/
def Instr.regs : Instr → List (Role × BitVec 7)
  | .mov _ d a _ | .iabs _ d a _ | .popc _ d a _ | .clz _ d a _ | .brev _ d a _
  | .fabs _ d a _ | .fneg _ d a _ | .frcp _ d a _ | .frsq _ d a _ | .fsqrt _ d a _
  | .fex2 _ d a _ | .flg2 _ d a _ | .fsin _ d a _ | .fcos _ d a _ | .ffloor _ d a _
  | .fceil _ d a _ | .ftrunc _ d a _ | .frint _ d a _ | .ffract _ d a _
  | .cvt _ d a _ _ | .iaddi _ d a _ | .andi _ d a _ | .ori _ d a _ | .xori _ d a _
  | .shfiShl _ d a _ | .shfiShr _ d a _ | .shfiSar _ d a _ | .shfiRol _ d a _ =>
    [(.dst, d), (.src, a)]
  | .movi _ d _ | .movl _ d _ _ | .pmovGet _ d _ | .s2r _ d _ | .featq _ d _ =>
    [(.dst, d)]
  | .qstat _ d _ => [(.statDst, d)]
  | .sel _ d a b _ | .iadd _ d a b _ | .isub _ d a b _ | .imul _ d a b _ | .imulh _ d a b _
  | .imulhUi _ d a b _ | .imad _ d a b _ | .imin _ d a b _ | .iminUi _ d a b _ | .imax _ d a b _
  | .imaxUi _ d a b _ | .and_ _ d a b _ | .or_ _ d a b _ | .xor _ d a b _ | .shl _ d a b _
  | .shr _ d a b _ | .sar _ d a b _ | .rol _ d a b _ | .bfe _ d a b _ | .bfi _ d a b _
  | .fadd _ d a b _ | .fsub _ d a b _ | .fmul _ d a b _ | .ffma _ d a b _ | .fmin _ d a b _
  | .fmax _ d a b _ | .hadd2 _ d a b _ | .hmul2 _ d a b _ | .hfma2 _ d a b _ | .badd2 _ d a b _
  | .bmul2 _ d a b _ | .bfma2 _ d a b _ | .idp4 _ d a b _ => [(.dst, d), (.src, a), (.src, b)]
  | .isetp _ _ _ _ a b _ | .fsetp _ _ _ a b _ => [(.src, a), (.src, b)]
  | .isetpi _ _ _ _ a _ _ | .pmovPut _ a _ | .acq _ a _ | .rel _ a _ | .gateAcq _ a
  | .gateTry _ _ a _ | .gateRel _ a | .attrEmit _ a _ _ _ | .tbSt _ a _ _ | .tbBlend _ a _
  | .depthT _ _ _ a _ => [(.src, a)]
  | .ldUi8 _ d a _ _ | .ldI8 _ d a _ _ | .ldUi16 _ d a _ _ | .ldI16 _ d a _ _ | .ld32 _ d a _ _ =>
    [(.dst, d), (.srcPair, a)]
  | .ld64 _ d a _ _ => [(.dstPair, d), (.srcPair, a)]
  | .ld128 _ d a _ _ => [(.dstQuad, d), (.srcPair, a)]
  | .st8 _ d a _ _ | .st16 _ d a _ _ | .st32 _ d a _ _ => [(.anyDst, d), (.srcPair, a)]
  | .st64 _ d a _ _ => [(.srcPair, d), (.srcPair, a)]
  | .st128 _ d a _ _ => [(.srcQuad, d), (.srcPair, a)]
  | .lds32 _ d a _ _ | .ldc32 _ d a _ _ => [(.dst, d), (.src, a)]
  | .lds64 _ d a _ _ => [(.dstPair, d), (.src, a)]
  | .lds128 _ d a _ _ => [(.dstQuad, d), (.src, a)]
  | .sts32 _ d a _ _ => [(.anyDst, d), (.src, a)]
  | .sts64 _ d a _ _ => [(.srcPair, d), (.src, a)]
  | .sts128 _ d a _ _ => [(.srcQuad, d), (.src, a)]
  | .atomAdd _ d a b _ | .atomMin _ d a b _ | .atomMax _ d a b _ | .atomMinUi _ d a b _
  | .atomMaxUi _ d a b _ | .atomAnd _ d a b _ | .atomOr _ d a b _ | .atomXor _ d a b _
  | .atomExch _ d a b _ | .atomInc _ d a b _ | .atomFadd _ d a b _ =>
    [(.dst, d), (.srcPair, a), (.src, b)]
  | .atomCas _ d a b _ => [(.dst, d), (.srcPair, a), (.srcPair, b)]
  | .redAdd _ a b _ | .redMin _ a b _ | .redMax _ a b _ | .redAnd _ a b _ | .redOr _ a b _
  | .redXor _ a b _ | .redFadd _ a b _ | .cflush _ a b _ | .cinv _ a b _ =>
    [(.srcPair, a), (.src, b)]
  | .bind _ a _ => [(.uniRun 19 1, a)]
  | .unbind _ a _ => [(.uniRun 22 1, a)]
  | .sigLd _ d a _ => [(.dstPair, d), (.src, a)]
  | .sigSt _ d a _ => [(.srcPair, d), (.src, a)]
  | .sigAdd _ d a b _ | .sigWait _ d a b _ => [(.dstPair, d), (.src, a), (.srcPair, b)]
  | .sigCas _ d a b _ => [(.dstPair, d), (.src, a), (.srcQuad, b)]
  | .prefetch _ a _ _ | .callI _ a _ | .specTable _ a _ => [(.srcPair, a)]
  | .mmaT8 _ _ a b _ | .mmaT8s _ _ a b _ _ | .mmaI8 _ _ a b _ | .mmaE4 _ _ a b _ | .mmaE5 _ _ a b _ | .mmaBf _ _ a b _
  | .mmaH _ _ a b _ | .mmaF32 _ _ a b _ | .mmaI8s _ _ a b _ _ => [(.vecRun 1, a), (.uni, b)]
  | .wload _ d a b _ => [(.uni, d), (.uniPair, a), (.uni, b)]
  | .accZero _ a _ | .accCvtF32I32 _ a _ | .accCvtI32F32 _ a _ | .qcfg _ a .. => [(.uni, a)]
  | .accRd _ d a _ | .accWr _ d a _ | .rowmax _ d a _ | .rowsum _ d a _ =>
    [(.vecRun 1, d), (.uni, a)]
  | .accScale _ a b _ => [(.uni, a), (.vecRun 1, b)]
  | .tstore _ a _ | .tstoreAdd _ a _ | .copy _ a _ => [(.uniRun 18 2, a)]
  | .copyX24 _ a _ => [(.uniRun 16 2, a)]
  | .winset _ a b _ => [(.uni, a), (.uniPair, b)]
  | .winget _ d a _ => [(.uni, d), (.anyReg, a)]
  | .filLoad _ a _ _ => [(.uniPair, a)]
  | .gnode _ d a _ _ => [(.uni, d), (.uniPair, a)]
  | .gedge _ a b _ => [(.uni, a), (.uni, b)]
  | .engStat _ d _ => [(.uni, d)]
  | .shfl _ d a b _ => [(.anyDst, d), (.src, a), (.src, b)]
  | .vote _ _ _ _ _ b _ => [(.uniScope, b)]
  | .redux _ d a _ _ => [(.anyDst, d), (.src, a)]
  | .scan _ d a _ _ => [(.vecOrZ, d), (.src, a)]
  | .setdecl _ a _ _ => [(.uniRun 16 8, a)]
  | .tileNext _ _ a _ => [(.uniPair, a)]
  | .spawn _ d a b _ => [(.vecPair, d), (.src, a), (.src, b)]
  | .spawnSpec _ d a b _ => [(.vecPair, d), (.srcPair, a), (.srcPair, b)]
  | .specOp _ d a b _ _ => [(.srcPair, d), (.srcPair, a), (.srcPair, b)]
  | .brx _ d a b _ => [(.anyDst, d), (.srcPair, a), (.src, b)]
  | .primEmit _ a _ => [(.vecRun 9, a)]
  | .attrIn _ d _ _ | .tbLd _ d _ _ => [(.vecOrZ, d)]
  | .texS _ d a _ _ | .texL _ d a _ _ | .texF _ d a _ _ | .texG _ d a _ _ =>
    [(.vecQuad, d), (.vecPair, a)]
  | .hallQPix _ d a _ => [(.dst, d), (.srcPair, a)]
  | .hallQGrant _ d a _ => [(.dst, d), (.src, a)]
  | .srd _ d _ => [(.sysPair, d)]
  | .swr _ a _ => [(.sysPair, a)]
  | .ctxRd _ d a _ => [(.vecRun 1, d), (.uni, a)]
  | .ctxWr _ a b _ => [(.uni, a), (.vecRun 1, b)]
  | .ctxSave _ a _ | .ctxLoad _ a _ | .blkStart _ a _ | .blkStop _ a _ | .vdevDrain _ a _
  | .poolClr _ a _ => [(.uni, a)]
  | .tlbInv _ a b _ => [(.uniPair, a), (.uni, b)]
  | .wfi _ d a _ => [(.uni, d), (.uni, a)]
  | .agentClaim _ d _ => [(.uniRun 20 2, d)]
  | .faultRd _ d _ => [(.uniRun 12 2, d)]
  | .resumeContinue _ a b _ | .resumeSkip _ a b _ | .resumeKill _ a b _ => [(.uni, a), (.uni, b)]
  | _ => []

/-- The comparison, function and selector codes that R42 counts as unassigned when a word holds
another value (R74, R76, R153, R154, R291, R295, R331, R332, R146). -/
def Instr.codesOk : Instr → Bool
  | .isetp _ c .. | .isetpi _ c .. => c.toNat < 6
  | .plop _ c .. | .vote _ c .. => c.toNat < 3
  | .redux _ _ _ f _ | .scan _ _ _ f _ => f.toNat ≤ 10
  | .filRun _ b _ | .filStop _ b _ => b.toNat < 4
  | .gset _ v _ => v.toNat ≠ 3
  | .attrEmit _ _ v _ _ => v.toNat ≠ 3
  | .attrIn _ _ c _ => c.toNat ≤ 16
  | .jinit _ d _ | .jwait _ d _ => d.toNat < 8
  | .engStat _ _ n => n.toNat < 4
  | .brm _ lits => 1 ≤ lits.length && lits.length ≤ 4
  | _ => true

/-- The ILLEGAL_OP checks of R42 on a decoded instruction. -/
def Instr.opOk (i : Instr) : Bool :=
  i.codesOk && i.regs.all fun rc => rc.1.opOk i.scope rc.2

/-- The ILLEGAL_SCOPE checks of R42 on a decoded instruction. -/
def Instr.scopeOk (i : Instr) : Bool :=
  i.scopes.contains i.scope && i.regs.all fun rc => rc.1.scopeOk i.scope rc.2

/-- The REG_RANGE check of R42 for a thread of the given quota. -/
def Instr.rangeOk (quota : Nat) (i : Instr) : Bool :=
  i.regs.all fun rc => rc.1.rangeOk quota rc.2

/-- An instruction that passes every check of R42 that reads its own word, at the given quota. -/
def Instr.wf (quota : Nat) (i : Instr) : Bool :=
  i.opOk && i.scopeOk && i.rangeOk quota

/-- What one check of R42 found wrong. -/
inductive WfError where
  | illegalClause | illegalOp | illegalScope | regRange
  deriving DecidableEq, Repr

/-- The first failing check in the order of R43. -/
def Instr.wfError (quota : Nat) (i : Instr) : Option WfError :=
  if !i.opOk then some .illegalOp
  else if !i.scopeOk then some .illegalScope
  else if !i.rangeOk quota then some .regRange
  else none

end Sys2Proof
end

