-- ==== Sys2Proof/Decode.lean ====
section
/-! DEFINITION. The decoder: clause headers (R26, R27), instruction words in the seven opcode maps
(R28-R40), and little-endian words in memory; then the encoder, written from the same tables. -/

namespace Sys2Proof

/-- Why a word is no instruction (R42). -/
inductive DecodeErr where
  /-- A literal would pass COUNT. -/
  | illegalClause
  /-- An unassigned opcode or function code, a nonzero reserved field, or BRM with a bad n. -/
  | illegalOp
  deriving DecidableEq, Repr

/-! ## Fields of a word (R28, R29, R38) -/

/-- SCOPE, bits [31:30]. -/
def fSc (w : Word) : Scope := Scope.ofBits (w.extractLsb' 30 2)
/-- OP, bits [29:24]. -/
def fOp (w : Word) : Nat := (w.extractLsb' 24 6).toNat
/-- D, bits [23:17]. -/
def fD (w : Word) : BitVec 7 := w.extractLsb' 17 7
/-- A, bits [16:10]. -/
def fA (w : Word) : BitVec 7 := w.extractLsb' 10 7
/-- B, bits [9:3]. -/
def fB (w : Word) : BitVec 7 := w.extractLsb' 3 7
/-- PRED, bits [2:0]. -/
def fP (w : Word) : BitVec 3 := w.extractLsb' 0 3
/-- IMM10, bits [9:0]. -/
def fI (w : Word) : BitVec 10 := w.extractLsb' 0 10
/-- IMM17, bits [16:0]. -/
def fU (w : Word) : BitVec 17 := w.extractLsb' 0 17
/-- OFF24, bits [23:0]. -/
def fO (w : Word) : BitVec 24 := w.extractLsb' 0 24
/-- The join list of BRK, bits [23:16]. -/
def fJ (w : Word) : BitVec 8 := w.extractLsb' 16 8
/-- The reserved bits [15:3] of BRK. -/
def fJ0 (w : Word) : BitVec 13 := w.extractLsb' 3 13

/-- An instruction whose reserved fields must be 0: nonzero is ILLEGAL_OP (R42). -/
def rsv (c : Prop) [Decidable c] (i : Instr) : Except DecodeErr Instr :=
  if c then .ok i else .error .illegalOp

/-- An instruction with one literal; no word left for it is ILLEGAL_CLAUSE (R42). -/
def lit1 (rest : List Word) (k : Word → Except DecodeErr Instr) : Except DecodeErr Instr :=
  match rest with
  | [] => .error .illegalClause
  | l :: _ => k l

/-- BRM: B holds n from 1 to 4, n literals follow, and D, A and PRED are 0 (R29, R42); literals that would pass COUNT come
before a nonzero reserved field (R43). -/
def decodeBrm (w : Word) (rest : List Word) : Except DecodeErr Instr :=
  if 1 ≤ (fB w).toNat ∧ (fB w).toNat ≤ 4 then
    if (fB w).toNat ≤ rest.length then
      if fD w = 0 ∧ fA w = 0 ∧ fP w = 0 then .ok (.brm (fSc w) (rest.take (fB w).toNat)) else .error .illegalOp
    else .error .illegalClause
  else .error .illegalOp

/-- The opcode map of class ALU (R33-R40). -/
def decodeAlu (w : Word) (rest : List Word) : Nat → Except DecodeErr Instr
  | 0 => rsv (fB w = 0) (.mov (fSc w) (fD w) (fA w) (fP w))
  | 1 => .ok (.movi (fSc w) (fD w) (fU w))
  | 2 => lit1 rest (fun lit => rsv (fA w = 0 ∧ fB w = 0) (.movl (fSc w) (fD w) (fP w) lit))
  | 3 => .ok (.sel (fSc w) (fD w) (fA w) (fB w) (fP w))
  | 4 => .ok (.iadd (fSc w) (fD w) (fA w) (fB w) (fP w))
  | 5 => .ok (.iaddi (fSc w) (fD w) (fA w) (fI w))
  | 6 => .ok (.isub (fSc w) (fD w) (fA w) (fB w) (fP w))
  | 7 => .ok (.imul (fSc w) (fD w) (fA w) (fB w) (fP w))
  | 8 => .ok (.imulh (fSc w) (fD w) (fA w) (fB w) (fP w))
  | 9 => .ok (.imulhUi (fSc w) (fD w) (fA w) (fB w) (fP w))
  | 10 => .ok (.imad (fSc w) (fD w) (fA w) (fB w) (fP w))
  | 11 => .ok (.imin (fSc w) (fD w) (fA w) (fB w) (fP w))
  | 12 => .ok (.iminUi (fSc w) (fD w) (fA w) (fB w) (fP w))
  | 13 => .ok (.imax (fSc w) (fD w) (fA w) (fB w) (fP w))
  | 14 => .ok (.imaxUi (fSc w) (fD w) (fA w) (fB w) (fP w))
  | 15 => rsv (fB w = 0) (.iabs (fSc w) (fD w) (fA w) (fP w))
  | 16 => .ok (.and_ (fSc w) (fD w) (fA w) (fB w) (fP w))
  | 17 => .ok (.andi (fSc w) (fD w) (fA w) (fI w))
  | 18 => .ok (.or_ (fSc w) (fD w) (fA w) (fB w) (fP w))
  | 19 => .ok (.ori (fSc w) (fD w) (fA w) (fI w))
  | 20 => .ok (.xor (fSc w) (fD w) (fA w) (fB w) (fP w))
  | 21 => .ok (.xori (fSc w) (fD w) (fA w) (fI w))
  | 22 => .ok (.shl (fSc w) (fD w) (fA w) (fB w) (fP w))
  | 23 => .ok (.shr (fSc w) (fD w) (fA w) (fB w) (fP w))
  | 24 => .ok (.sar (fSc w) (fD w) (fA w) (fB w) (fP w))
  | 25 =>
    if (fI w).extractLsb' 5 5 = (0 : BitVec 5) then .ok (.shfiShl (fSc w) (fD w) (fA w) ((fI w).extractLsb' 0 5)) else
    if (fI w).extractLsb' 5 5 = (8 : BitVec 5) then .ok (.shfiShr (fSc w) (fD w) (fA w) ((fI w).extractLsb' 0 5)) else
    if (fI w).extractLsb' 5 5 = (16 : BitVec 5) then .ok (.shfiSar (fSc w) (fD w) (fA w) ((fI w).extractLsb' 0 5)) else
    if (fI w).extractLsb' 5 5 = (24 : BitVec 5) then .ok (.shfiRol (fSc w) (fD w) (fA w) ((fI w).extractLsb' 0 5)) else
    .error .illegalOp
  | 26 => .ok (.rol (fSc w) (fD w) (fA w) (fB w) (fP w))
  | 27 => .ok (.bfe (fSc w) (fD w) (fA w) (fB w) (fP w))
  | 28 => .ok (.bfi (fSc w) (fD w) (fA w) (fB w) (fP w))
  | 29 => rsv (fB w = 0) (.popc (fSc w) (fD w) (fA w) (fP w))
  | 30 => rsv (fB w = 0) (.clz (fSc w) (fD w) (fA w) (fP w))
  | 31 => rsv (fB w = 0) (.brev (fSc w) (fD w) (fA w) (fP w))
  | 32 => .ok (.isetp (fSc w) ((fD w).extractLsb' 4 3) ((fD w).extractLsb' 3 1) ((fD w).extractLsb' 0 3) (fA w) (fB w) (fP w))
  | 33 => .ok (.isetpi (fSc w) ((fD w).extractLsb' 4 3) ((fD w).extractLsb' 3 1) ((fD w).extractLsb' 0 3) (fA w) (fB w) (fP w))
  | 34 => .ok (.fadd (fSc w) (fD w) (fA w) (fB w) (fP w))
  | 35 => .ok (.fsub (fSc w) (fD w) (fA w) (fB w) (fP w))
  | 36 => .ok (.fmul (fSc w) (fD w) (fA w) (fB w) (fP w))
  | 37 => .ok (.ffma (fSc w) (fD w) (fA w) (fB w) (fP w))
  | 38 => .ok (.fmin (fSc w) (fD w) (fA w) (fB w) (fP w))
  | 39 => .ok (.fmax (fSc w) (fD w) (fA w) (fB w) (fP w))
  | 40 => rsv ((fD w).extractLsb' 3 1 = (0 : BitVec 1)) (.fsetp (fSc w) ((fD w).extractLsb' 4 3) ((fD w).extractLsb' 0 3) (fA w) (fB w) (fP w))
  | 41 =>
    if fB w = 0 then .ok (.fabs (fSc w) (fD w) (fA w) (fP w)) else
    if fB w = 1 then .ok (.fneg (fSc w) (fD w) (fA w) (fP w)) else
    if fB w = 2 then .ok (.frcp (fSc w) (fD w) (fA w) (fP w)) else
    if fB w = 3 then .ok (.frsq (fSc w) (fD w) (fA w) (fP w)) else
    if fB w = 4 then .ok (.fsqrt (fSc w) (fD w) (fA w) (fP w)) else
    if fB w = 5 then .ok (.fex2 (fSc w) (fD w) (fA w) (fP w)) else
    if fB w = 6 then .ok (.flg2 (fSc w) (fD w) (fA w) (fP w)) else
    if fB w = 7 then .ok (.fsin (fSc w) (fD w) (fA w) (fP w)) else
    if fB w = 8 then .ok (.fcos (fSc w) (fD w) (fA w) (fP w)) else
    if fB w = 9 then .ok (.ffloor (fSc w) (fD w) (fA w) (fP w)) else
    if fB w = 10 then .ok (.fceil (fSc w) (fD w) (fA w) (fP w)) else
    if fB w = 11 then .ok (.ftrunc (fSc w) (fD w) (fA w) (fP w)) else
    if fB w = 12 then .ok (.frint (fSc w) (fD w) (fA w) (fP w)) else
    if fB w = 13 then .ok (.ffract (fSc w) (fD w) (fA w) (fP w)) else
    .error .illegalOp
  | 42 => .ok (.hadd2 (fSc w) (fD w) (fA w) (fB w) (fP w))
  | 43 => .ok (.hmul2 (fSc w) (fD w) (fA w) (fB w) (fP w))
  | 44 => .ok (.hfma2 (fSc w) (fD w) (fA w) (fB w) (fP w))
  | 45 => .ok (.badd2 (fSc w) (fD w) (fA w) (fB w) (fP w))
  | 46 => .ok (.bmul2 (fSc w) (fD w) (fA w) (fB w) (fP w))
  | 47 => .ok (.bfma2 (fSc w) (fD w) (fA w) (fB w) (fP w))
  | 48 => .ok (.cvt (fSc w) (fD w) (fA w) (fB w) (fP w))
  | 49 => rsv ((fD w).extractLsb' 3 1 = (0 : BitVec 1) ∧ (fA w).extractLsb' 4 3 = (0 : BitVec 3) ∧ (fB w).extractLsb' 4 3 = (0 : BitVec 3)) (.plop (fSc w) ((fD w).extractLsb' 4 3) ((fD w).extractLsb' 0 3) ((fA w).extractLsb' 3 1) ((fA w).extractLsb' 0 3) ((fB w).extractLsb' 3 1) ((fB w).extractLsb' 0 3) (fP w))
  | 50 =>
    if fA w = 0 ∧ fB w = 0 then .ok (.pmovGet (fSc w) (fD w) (fP w)) else
    if fD w = 0 ∧ fB w = 1 then .ok (.pmovPut (fSc w) (fA w) (fP w)) else
    .error .illegalOp
  | 51 => .ok (.idp4 (fSc w) (fD w) (fA w) (fB w) (fP w))
  | _ => .error .illegalOp

/-- The opcode map of class MEM (R33-R40). -/
def decodeMem (w : Word) (_ : List Word) : Nat → Except DecodeErr Instr
  | 0 => .ok (.ldUi8 (fSc w) (fD w) (fA w) (fB w) (fP w))
  | 1 => .ok (.ldI8 (fSc w) (fD w) (fA w) (fB w) (fP w))
  | 2 => .ok (.ldUi16 (fSc w) (fD w) (fA w) (fB w) (fP w))
  | 3 => .ok (.ldI16 (fSc w) (fD w) (fA w) (fB w) (fP w))
  | 4 => .ok (.ld32 (fSc w) (fD w) (fA w) (fB w) (fP w))
  | 5 => .ok (.ld64 (fSc w) (fD w) (fA w) (fB w) (fP w))
  | 6 => .ok (.ld128 (fSc w) (fD w) (fA w) (fB w) (fP w))
  | 7 => .ok (.st8 (fSc w) (fD w) (fA w) (fB w) (fP w))
  | 8 => .ok (.st16 (fSc w) (fD w) (fA w) (fB w) (fP w))
  | 9 => .ok (.st32 (fSc w) (fD w) (fA w) (fB w) (fP w))
  | 10 => .ok (.st64 (fSc w) (fD w) (fA w) (fB w) (fP w))
  | 11 => .ok (.st128 (fSc w) (fD w) (fA w) (fB w) (fP w))
  | 12 => .ok (.lds32 (fSc w) (fD w) (fA w) (fB w) (fP w))
  | 13 => .ok (.lds64 (fSc w) (fD w) (fA w) (fB w) (fP w))
  | 14 => .ok (.lds128 (fSc w) (fD w) (fA w) (fB w) (fP w))
  | 15 => .ok (.sts32 (fSc w) (fD w) (fA w) (fB w) (fP w))
  | 16 => .ok (.sts64 (fSc w) (fD w) (fA w) (fB w) (fP w))
  | 17 => .ok (.sts128 (fSc w) (fD w) (fA w) (fB w) (fP w))
  | 18 => .ok (.ldc32 (fSc w) (fD w) (fA w) (fB w) (fP w))
  | 19 => .ok (.atomAdd (fSc w) (fD w) (fA w) (fB w) (fP w))
  | 20 => .ok (.atomMin (fSc w) (fD w) (fA w) (fB w) (fP w))
  | 21 => .ok (.atomMax (fSc w) (fD w) (fA w) (fB w) (fP w))
  | 22 => .ok (.atomMinUi (fSc w) (fD w) (fA w) (fB w) (fP w))
  | 23 => .ok (.atomMaxUi (fSc w) (fD w) (fA w) (fB w) (fP w))
  | 24 => .ok (.atomAnd (fSc w) (fD w) (fA w) (fB w) (fP w))
  | 25 => .ok (.atomOr (fSc w) (fD w) (fA w) (fB w) (fP w))
  | 26 => .ok (.atomXor (fSc w) (fD w) (fA w) (fB w) (fP w))
  | 27 => .ok (.atomExch (fSc w) (fD w) (fA w) (fB w) (fP w))
  | 28 => .ok (.atomCas (fSc w) (fD w) (fA w) (fB w) (fP w))
  | 29 => .ok (.atomInc (fSc w) (fD w) (fA w) (fB w) (fP w))
  | 30 => .ok (.atomFadd (fSc w) (fD w) (fA w) (fB w) (fP w))
  | 31 => rsv (fD w = 0) (.redAdd (fSc w) (fA w) (fB w) (fP w))
  | 32 => rsv (fD w = 0) (.redMin (fSc w) (fA w) (fB w) (fP w))
  | 33 => rsv (fD w = 0) (.redMax (fSc w) (fA w) (fB w) (fP w))
  | 34 => rsv (fD w = 0) (.redAnd (fSc w) (fA w) (fB w) (fP w))
  | 35 => rsv (fD w = 0) (.redOr (fSc w) (fA w) (fB w) (fP w))
  | 36 => rsv (fD w = 0) (.redXor (fSc w) (fA w) (fB w) (fP w))
  | 37 => rsv (fD w = 0) (.redFadd (fSc w) (fA w) (fB w) (fP w))
  | 38 => rsv (fD w = 0 ∧ fB w = 0) (.bind (fSc w) (fA w) (fP w))
  | 39 => rsv (fD w = 0 ∧ fB w = 0) (.unbind (fSc w) (fA w) (fP w))
  | 40 => rsv (fD w = 0 ∧ (fI w).extractLsb' 6 4 = (0 : BitVec 4)) (.acq (fSc w) (fA w) ((fI w).extractLsb' 0 6))
  | 41 => rsv (fD w = 0 ∧ (fI w).extractLsb' 6 4 = (0 : BitVec 4)) (.rel (fSc w) (fA w) ((fI w).extractLsb' 0 6))
  | 42 => rsv (fD w = 0 ∧ (fI w) = 0) (.gateAcq (fSc w) (fA w))
  | 43 => rsv ((fD w).extractLsb' 3 4 = (0 : BitVec 4) ∧ fB w = 0) (.gateTry (fSc w) ((fD w).extractLsb' 0 3) (fA w) (fP w))
  | 44 => rsv (fD w = 0 ∧ (fI w) = 0) (.gateRel (fSc w) (fA w))
  | 45 => rsv (fB w = 0) (.sigLd (fSc w) (fD w) (fA w) (fP w))
  | 46 => rsv (fB w = 0) (.sigSt (fSc w) (fD w) (fA w) (fP w))
  | 47 => .ok (.sigAdd (fSc w) (fD w) (fA w) (fB w) (fP w))
  | 48 => .ok (.sigCas (fSc w) (fD w) (fA w) (fB w) (fP w))
  | 49 => .ok (.sigWait (fSc w) (fD w) (fA w) (fB w) (fP w))
  | 50 => rsv (fD w = 0 ∧ fA w = 0 ∧ (fI w).extractLsb' 1 9 = (0 : BitVec 9)) (.fence (fSc w) ((fI w).extractLsb' 0 1))
  | 51 => rsv ((fD w).extractLsb' 6 1 = (0 : BitVec 1) ∧ fA w = 0 ∧ (fI w).extractLsb' 6 4 = (0 : BitVec 4)) (.xfence (fSc w) ((fD w).extractLsb' 0 6) ((fI w).extractLsb' 0 6))
  | 52 => rsv (fD w = 0) (.cflush (fSc w) (fA w) (fB w) (fP w))
  | 53 => rsv (fD w = 0) (.cinv (fSc w) (fA w) (fB w) (fP w))
  | 54 => rsv (fD w = 0) (.prefetch (fSc w) (fA w) (fB w) (fP w))
  | _ => .error .illegalOp

/-- The opcode map of class MTX (R33-R40). -/
def decodeMtx (w : Word) (rest : List Word) : Nat → Except DecodeErr Instr
  | 0 => .ok (.mmaT8 (fSc w) (fD w) (fA w) (fB w) (fP w))
  | 1 => .ok (.mmaI8 (fSc w) (fD w) (fA w) (fB w) (fP w))
  | 2 => .ok (.mmaE4 (fSc w) (fD w) (fA w) (fB w) (fP w))
  | 3 => .ok (.mmaE5 (fSc w) (fD w) (fA w) (fB w) (fP w))
  | 4 => .ok (.mmaBf (fSc w) (fD w) (fA w) (fB w) (fP w))
  | 5 => .ok (.mmaH (fSc w) (fD w) (fA w) (fB w) (fP w))
  | 6 => .ok (.mmaF32 (fSc w) (fD w) (fA w) (fB w) (fP w))
  | 7 => lit1 rest (fun lit => .ok (.mmaT8s (fSc w) (fD w) (fA w) (fB w) (fP w) lit))
  | 8 => lit1 rest (fun lit => .ok (.mmaI8s (fSc w) (fD w) (fA w) (fB w) (fP w) lit))
  | 9 => .ok (.wload (fSc w) (fD w) (fA w) (fB w) (fP w))
  | 10 => rsv (fD w = 0 ∧ fB w = 0) (.accZero (fSc w) (fA w) (fP w))
  | 11 => rsv (fB w = 0) (.accRd (fSc w) (fD w) (fA w) (fP w))
  | 12 => rsv (fB w = 0) (.accWr (fSc w) (fD w) (fA w) (fP w))
  | 13 => rsv (fD w = 0) (.accScale (fSc w) (fA w) (fB w) (fP w))
  | 14 =>
    if fD w = 0 ∧ fB w = 0 then .ok (.accCvtF32I32 (fSc w) (fA w) (fP w)) else
    if fD w = 0 ∧ fB w = 1 then .ok (.accCvtI32F32 (fSc w) (fA w) (fP w)) else
    .error .illegalOp
  | 15 => rsv (fD w = 0 ∧ fB w = 0) (.tstore (fSc w) (fA w) (fP w))
  | 16 => rsv (fD w = 0 ∧ fB w = 0) (.tstoreAdd (fSc w) (fA w) (fP w))
  | 17 => rsv (fD w = 0) (.winset (fSc w) (fA w) (fB w) (fP w))
  | 18 => rsv (fB w = 0) (.winget (fSc w) (fD w) (fA w) (fP w))
  | 19 => rsv (fB w = 0) (.rowmax (fSc w) (fD w) (fA w) (fP w))
  | 20 => rsv (fB w = 0) (.rowsum (fSc w) (fD w) (fA w) (fP w))
  | _ => .error .illegalOp

/-- The opcode map of class ASYNC (R33-R40). -/
def decodeAsync (w : Word) (rest : List Word) : Nat → Except DecodeErr Instr
  | 0 => rsv (fD w = 0 ∧ fB w = 0) (.copy (fSc w) (fA w) (fP w))
  | 1 => rsv (fD w = 0 ∧ fB w = 0) (.copyX24 (fSc w) (fA w) (fP w))
  | 2 => lit1 rest (fun lit => rsv (fD w = 0 ∧ fB w = 0) (.filLoad (fSc w) (fA w) (fP w) lit))
  | 3 => rsv (fD w = 0 ∧ fA w = 0) (.filRun (fSc w) (fB w) (fP w))
  | 4 => rsv (fD w = 0 ∧ fA w = 0) (.filStop (fSc w) (fB w) (fP w))
  | 5 => rsv (fD w = 0 ∧ (fI w).extractLsb' 3 1 = (0 : BitVec 1)) (.qcfg (fSc w) (fA w) ((fI w).extractLsb' 8 2) ((fI w).extractLsb' 7 1) ((fI w).extractLsb' 6 1) ((fI w).extractLsb' 4 2) ((fI w).extractLsb' 0 3))
  | 6 => rsv (fA w = 0 ∧ (fI w).extractLsb' 2 8 = (0 : BitVec 8)) (.qstat (fSc w) (fD w) ((fI w).extractLsb' 0 2))
  | 7 => lit1 rest (fun lit => rsv (fB w = 0) (.gnode (fSc w) (fD w) (fA w) (fP w) lit))
  | 8 => rsv (fD w = 0) (.gedge (fSc w) (fA w) (fB w) (fP w))
  | 9 =>
    if fD w = 0 ∧ fA w = 0 ∧ fB w = 0 then .ok (.garm (fSc w) (fP w)) else
    if fD w = 0 ∧ fA w = 0 ∧ fB w = 1 then .ok (.garmClr (fSc w) (fP w)) else
    .error .illegalOp
  | 10 => rsv (fD w = 0 ∧ fA w = 0 ∧ fB w = 0) (.gwait (fSc w) (fP w))
  | 11 => rsv (fD w = 0 ∧ fA w = 0 ∧ (fB w).extractLsb' 2 5 = (0 : BitVec 5)) (.gset (fSc w) ((fB w).extractLsb' 0 2) (fP w))
  | 12 => rsv (fA w = 0) (.engStat (fSc w) (fD w) (fI w))
  | _ => .error .illegalOp

/-- The opcode map of class CTRL (R33-R40). -/
def decodeCtrl (w : Word) (rest : List Word) : Nat → Except DecodeErr Instr
  | 0 => rsv (fD w = 0 ∧ fA w = 0 ∧ fB w = 0) (.nop (fSc w) (fP w))
  | 1 => .ok (.bra (fSc w) (fO w))
  | 2 => decodeBrm w rest
  | 3 => .ok (.call (fSc w) (fO w))
  | 4 => rsv (fD w = 0 ∧ fB w = 0) (.callI (fSc w) (fA w) (fP w))
  | 5 => rsv (fD w = 0 ∧ fA w = 0 ∧ fB w = 0) (.ret (fSc w) (fP w))
  | 6 => rsv (fD w = 0 ∧ fA w = 0 ∧ fB w = 0) (.exit (fSc w) (fP w))
  | 7 => rsv (fA w = 0 ∧ fB w = 0) (.jinit (fSc w) (fD w) (fP w))
  | 8 => rsv (fA w = 0 ∧ fB w = 0) (.jwait (fSc w) (fD w) (fP w))
  | 9 => rsv (fD w = 0 ∧ fA w = 0 ∧ (fI w).extractLsb' 8 2 = (0 : BitVec 2)) (.jleave (fSc w) ((fI w).extractLsb' 0 8))
  | 10 => lit1 rest (fun lit => rsv (fJ0 w = 0) (.brk (fSc w) (fJ w) (fP w) lit))
  | 11 => rsv (fD w = 0 ∧ fA w = 0) (.barSync (fSc w) (fI w))
  | 12 => rsv (fD w = 0 ∧ fA w = 0) (.barArrive (fSc w) (fI w))
  | 13 => rsv (fD w = 0 ∧ fA w = 0) (.barWait (fSc w) (fI w))
  | 14 => rsv (fD w = 0 ∧ fA w = 0) (.barInit (fSc w) (fI w))
  | 15 => .ok (.shfl (fSc w) (fD w) (fA w) (fB w) (fP w))
  | 16 => rsv ((fD w).extractLsb' 3 1 = (0 : BitVec 1) ∧ (fA w).extractLsb' 4 3 = (0 : BitVec 3)) (.vote (fSc w) ((fD w).extractLsb' 4 3) ((fD w).extractLsb' 0 3) ((fA w).extractLsb' 3 1) ((fA w).extractLsb' 0 3) (fB w) (fP w))
  | 17 => .ok (.redux (fSc w) (fD w) (fA w) (fB w) (fP w))
  | 18 => .ok (.scan (fSc w) (fD w) (fA w) (fB w) (fP w))
  | 19 => lit1 rest (fun lit => rsv (fD w = 0 ∧ fB w = 0) (.setdecl (fSc w) (fA w) (fP w) lit))
  | 20 => rsv (fD w = 0 ∧ fA w = 0 ∧ (fI w).extractLsb' 0 2 = (0 : BitVec 2)) (.quota (fSc w) ((fI w).extractLsb' 8 2) ((fI w).extractLsb' 6 2) ((fI w).extractLsb' 2 4))
  | 21 => rsv ((fD w).extractLsb' 3 4 = (0 : BitVec 4) ∧ fB w = 0) (.tileNext (fSc w) ((fD w).extractLsb' 0 3) (fA w) (fP w))
  | 22 => .ok (.spawn (fSc w) (fD w) (fA w) (fB w) (fP w))
  | 23 => rsv (fD w = 0 ∧ fA w = 0 ∧ fB w = 0) (.yield (fSc w) (fP w))
  | 24 => rsv (fA w = 0) (.s2r (fSc w) (fD w) (fI w))
  | 25 => rsv (fA w = 0) (.featq (fSc w) (fD w) (fI w))
  | 26 => rsv (fD w = 0 ∧ fA w = 0) (.trap (fSc w) (fI w))
  | 27 => .ok (.spawnSpec (fSc w) (fD w) (fA w) (fB w) (fP w))
  | 28 => lit1 rest (fun lit => .ok (.specOp (fSc w) (fD w) (fA w) (fB w) (fP w) lit))
  | 29 => rsv (fD w = 0 ∧ fA w = 0 ∧ fB w = 0) (.specEnd (fSc w) (fP w))
  | 30 => rsv (fD w = 0 ∧ fA w = 0 ∧ fB w = 0) (.specCommit (fSc w) (fP w))
  | 31 => rsv (fD w = 0 ∧ fA w = 0 ∧ fB w = 0) (.specAbort (fSc w) (fP w))
  | 32 => rsv (fD w = 0 ∧ fA w = 0 ∧ fB w = 0) (.specDrain (fSc w) (fP w))
  | 33 => rsv (fD w = 0 ∧ fB w = 0) (.specTable (fSc w) (fA w) (fP w))
  | 34 => .ok (.brx (fSc w) (fD w) (fA w) (fB w) (fP w))
  | _ => .error .illegalOp

/-- The opcode map of class GFX (R33-R40). -/
def decodeGfx (w : Word) (rest : List Word) : Nat → Except DecodeErr Instr
  | 0 => rsv (fD w = 0 ∧ fB w = 0) (.primEmit (fSc w) (fA w) (fP w))
  | 1 => rsv (fD w = 0 ∧ (fB w).extractLsb' 4 1 = (0 : BitVec 1)) (.attrEmit (fSc w) (fA w) ((fB w).extractLsb' 5 2) ((fB w).extractLsb' 0 4) (fP w))
  | 2 => rsv (fA w = 0) (.attrIn (fSc w) (fD w) (fB w) (fP w))
  | 3 => lit1 rest (fun lit => rsv (fB w = 0) (.texS (fSc w) (fD w) (fA w) (fP w) lit))
  | 4 => lit1 rest (fun lit => rsv (fB w = 0) (.texL (fSc w) (fD w) (fA w) (fP w) lit))
  | 5 => lit1 rest (fun lit => rsv (fB w = 0) (.texF (fSc w) (fD w) (fA w) (fP w) lit))
  | 6 => lit1 rest (fun lit => rsv (fB w = 0) (.texG (fSc w) (fD w) (fA w) (fP w) lit))
  | 7 => rsv (fA w = 0 ∧ (fB w).extractLsb' 1 6 = (0 : BitVec 6)) (.tbLd (fSc w) (fD w) ((fB w).extractLsb' 0 1) (fP w))
  | 8 => rsv (fD w = 0 ∧ (fB w).extractLsb' 1 6 = (0 : BitVec 6)) (.tbSt (fSc w) (fA w) ((fB w).extractLsb' 0 1) (fP w))
  | 9 => rsv (fD w = 0 ∧ fB w = 0) (.tbBlend (fSc w) (fA w) (fP w))
  | 10 => rsv (fD w = 0 ∧ fA w = 0 ∧ fB w = 0) (.fragKill (fSc w) (fP w))
  | 11 =>
    if fB w = 0 then .ok (.hallQPix (fSc w) (fD w) (fA w) (fP w)) else
    if fB w = 1 then .ok (.hallQGrant (fSc w) (fD w) (fA w) (fP w)) else
    .error .illegalOp
  | 12 => rsv ((fD w).extractLsb' 3 1 = (0 : BitVec 1) ∧ fB w = 0) (.depthT (fSc w) ((fD w).extractLsb' 4 3) ((fD w).extractLsb' 0 3) (fA w) (fP w))
  | _ => .error .illegalOp

/-- The opcode map of class SYS (R33-R40). -/
def decodeSys (w : Word) (_ : List Word) : Nat → Except DecodeErr Instr
  | 0 => rsv (fA w = 0) (.srd (fSc w) (fD w) (fI w))
  | 1 => rsv (fD w = 0) (.swr (fSc w) (fA w) (fI w))
  | 2 => rsv (fD w = 0 ∧ fA w = 0 ∧ fB w = 0) (.eret (fSc w) (fP w))
  | 3 => rsv (fB w = 0) (.ctxRd (fSc w) (fD w) (fA w) (fP w))
  | 4 => rsv (fD w = 0) (.ctxWr (fSc w) (fA w) (fB w) (fP w))
  | 5 => rsv (fD w = 0 ∧ fB w = 0) (.ctxSave (fSc w) (fA w) (fP w))
  | 6 => rsv (fD w = 0 ∧ fB w = 0) (.ctxLoad (fSc w) (fA w) (fP w))
  | 7 => rsv (fD w = 0) (.tlbInv (fSc w) (fA w) (fB w) (fP w))
  | 8 => rsv (fB w = 0) (.wfi (fSc w) (fD w) (fA w) (fP w))
  | 9 => rsv (fA w = 0 ∧ fB w = 0) (.agentClaim (fSc w) (fD w) (fP w))
  | 10 => rsv (fD w = 0 ∧ fB w = 0) (.blkStart (fSc w) (fA w) (fP w))
  | 11 => rsv (fD w = 0 ∧ fB w = 0) (.blkStop (fSc w) (fA w) (fP w))
  | 12 => rsv (fD w = 0 ∧ fB w = 0) (.vdevDrain (fSc w) (fA w) (fP w))
  | 13 => rsv (fD w = 0 ∧ fB w = 0) (.poolClr (fSc w) (fA w) (fP w))
  | 14 => rsv (fA w = 0 ∧ fB w = 0) (.faultRd (fSc w) (fD w) (fP w))
  | 15 =>
    if fD w = 0 then .ok (.resumeContinue (fSc w) (fA w) (fB w) (fP w)) else
    if fD w = 1 then .ok (.resumeSkip (fSc w) (fA w) (fB w) (fP w)) else
    if fD w = 2 then .ok (.resumeKill (fSc w) (fA w) (fB w) (fP w)) else
    .error .illegalOp
  | _ => .error .illegalOp

/-- The instruction a word stands for in a class, `rest` being the words of the clause after it. -/
def decodeWord (c : Cls) (w : Word) (rest : List Word) : Except DecodeErr Instr :=
  match c with
  | .alu => decodeAlu w rest (fOp w)
  | .mem => decodeMem w rest (fOp w)
  | .mtx => decodeMtx w rest (fOp w)
  | .async => decodeAsync w rest (fOp w)
  | .ctrl => decodeCtrl w rest (fOp w)
  | .gfx => decodeGfx w rest (fOp w)
  | .sys => decodeSys w rest (fOp w)

/-! ## Clause headers (R26, R27) -/

/-- The fields of a clause header. SETA and SETB are `none` at 0xF. -/
structure Header where
  setb : Option Nat
  seta : Option Nat
  wait : BitVec 12
  cls : Cls
  yield : Bool
  count : Nat
  deriving DecidableEq, Repr

/-- A SETA or SETB field: 0x0-0xB name a flag, 0xF names none, the others fail the header. -/
def flagField (n : Nat) : Option (Option Nat) :=
  if n ≤ 11 then some (some n) else if n = 15 then some none else none

/-- The header a word holds; `none` where it fails R27. -/
def decodeHeader (w : Word) : Option Header :=
  if w.extractLsb' 28 4 = 0b1010 ∧ w.extractLsb' 0 4 ≠ 0 then
    match flagField (w.extractLsb' 24 4).toNat, flagField (w.extractLsb' 20 4).toNat,
        Cls.ofCode (w.extractLsb' 5 3).toNat with
    | some b, some a, some c => some
      { setb := b, seta := a, wait := w.extractLsb' 8 12, cls := c
        yield := w.extractLsb' 4 1 = 1, count := (w.extractLsb' 0 4).toNat }
    | _, _, _ => none
  else none

/-! ## Words in memory: little-endian (R4) -/

/-- The word of four bytes, the lowest-addressed first. -/
def wordOfBytes (b0 b1 b2 b3 : Byte) : Word := b3 ++ b2 ++ b1 ++ b0

/-- The four bytes of a word, the lowest-addressed first. -/
def bytesOfWord (w : Word) : List Byte :=
  [w.extractLsb' 0 8, w.extractLsb' 8 8, w.extractLsb' 16 8, w.extractLsb' 24 8]

/-- The words of a list of bytes; a last incomplete group is dropped. -/
def wordsOfBytes : List Byte → List Word
  | b0 :: b1 :: b2 :: b3 :: rest => wordOfBytes b0 b1 b2 b3 :: wordsOfBytes rest
  | _ => []

/-- One instruction of a class from the bytes at its address: the instruction and the bytes left. -/
def decodeBytes (c : Cls) (bs : List Byte) : Except DecodeErr (Instr × List Byte) :=
  match wordsOfBytes bs with
  | [] => .error .illegalClause
  | w :: rest =>
    match decodeWord c w rest with
    | .ok i => .ok (i, bs.drop (4 * (1 + i.litCount)))
    | .error e => .error e

/-! ## A bare word of the opcode table

A word does not hold its class: the clause header does (R26). For a bare word the model tries the
classes from SYS down to ALU and takes the first whose reading passes R42, else the first that
decodes at all (DESIGN CHOICE, log entry 5: only the host's table probe uses this order). -/

/-- The class order for a bare word. -/
def tableOrder : List Cls := [.sys, .gfx, .ctrl, .async, .mtx, .mem, .alu]

/-- The words that a bare word stands for: itself, then literals of 0. -/
def tableWords (w : Nat) : List Word := [BitVec.ofNat 32 w, 0, 0, 0, 0]

/-- A class's reading of a bare word's bytes. -/
def tableReading (c : Cls) (w : Nat) : Option Instr :=
  match decodeBytes c ((tableWords w).flatMap bytesOfWord) with
  | .ok r => some r.1
  | .error _ => none

/-- The class and the instruction of a bare word. -/
def tableDecode (w : Nat) : Option (Cls × Instr) :=
  let rs := tableOrder.filterMap fun c => (tableReading c w).map (Prod.mk c)
  match rs.find? fun r => r.2.wf 96 with
  | some r => some r
  | none => rs.head?

/-- The instruction of an opcode-table row's word; device steps have no word (DESIGN CHOICE, log entry 5). -/
def decodeTableWord (nbits w : Nat) : Option Instr :=
  if 0 < nbits ∧ nbits ≤ 32 then (tableDecode w).map Prod.snd else none

/-! ## The encoder -/

/-- A word in format R, M or P. -/
def packR (sc : Scope) (op : Nat) (d a b : BitVec 7) (p : BitVec 3) : Word :=
  sc.bits ++ BitVec.ofNat 6 op ++ d ++ a ++ b ++ p
/-- A word in format I. -/
def packI (sc : Scope) (op : Nat) (d a : BitVec 7) (imm : BitVec 10) : Word :=
  sc.bits ++ BitVec.ofNat 6 op ++ d ++ a ++ imm
/-- A word in format U. -/
def packU (sc : Scope) (op : Nat) (d : BitVec 7) (imm : BitVec 17) : Word :=
  sc.bits ++ BitVec.ofNat 6 op ++ d ++ imm
/-- A word in format BR. -/
def packB (sc : Scope) (op : Nat) (off : BitVec 24) : Word :=
  sc.bits ++ BitVec.ofNat 6 op ++ off
/-- The word of BRK (R38). -/
def packJ (sc : Scope) (op : Nat) (j : BitVec 8) (p : BitVec 3) : Word :=
  sc.bits ++ BitVec.ofNat 6 op ++ j ++ (0 : BitVec 13) ++ p

/-- A clause header's word (R26). -/
def encodeHeader (h : Header) : Word :=
  (0b1010 : BitVec 4) ++ BitVec.ofNat 4 (h.setb.getD 15) ++ BitVec.ofNat 4 (h.seta.getD 15) ++ h.wait
    ++ BitVec.ofNat 3 h.cls.code ++ BitVec.ofBool h.yield ++ BitVec.ofNat 4 h.count

/-- The words of an instruction, from the format tables of R28-R40: its word, then its literals.
A device step has no words. -/
def encode : Instr → List Word
  | .mov sc d a p => [packR sc 0 d a 0 p]
  | .movi sc d imm => [packU sc 1 d imm]
  | .movl sc d p lit => [packR sc 2 d 0 0 p, lit]
  | .sel sc d a b p => [packR sc 3 d a b p]
  | .iadd sc d a b p => [packR sc 4 d a b p]
  | .iaddi sc d a imm => [packI sc 5 d a imm]
  | .isub sc d a b p => [packR sc 6 d a b p]
  | .imul sc d a b p => [packR sc 7 d a b p]
  | .imulh sc d a b p => [packR sc 8 d a b p]
  | .imulhUi sc d a b p => [packR sc 9 d a b p]
  | .imad sc d a b p => [packR sc 10 d a b p]
  | .imin sc d a b p => [packR sc 11 d a b p]
  | .iminUi sc d a b p => [packR sc 12 d a b p]
  | .imax sc d a b p => [packR sc 13 d a b p]
  | .imaxUi sc d a b p => [packR sc 14 d a b p]
  | .iabs sc d a p => [packR sc 15 d a 0 p]
  | .and_ sc d a b p => [packR sc 16 d a b p]
  | .andi sc d a imm => [packI sc 17 d a imm]
  | .or_ sc d a b p => [packR sc 18 d a b p]
  | .ori sc d a imm => [packI sc 19 d a imm]
  | .xor sc d a b p => [packR sc 20 d a b p]
  | .xori sc d a imm => [packI sc 21 d a imm]
  | .shl sc d a b p => [packR sc 22 d a b p]
  | .shr sc d a b p => [packR sc 23 d a b p]
  | .sar sc d a b p => [packR sc 24 d a b p]
  | .shfiShl sc d a c => [packI sc 25 d a ((0 : BitVec 5) ++ c)]
  | .shfiShr sc d a c => [packI sc 25 d a ((8 : BitVec 5) ++ c)]
  | .shfiSar sc d a c => [packI sc 25 d a ((16 : BitVec 5) ++ c)]
  | .shfiRol sc d a c => [packI sc 25 d a ((24 : BitVec 5) ++ c)]
  | .rol sc d a b p => [packR sc 26 d a b p]
  | .bfe sc d a b p => [packR sc 27 d a b p]
  | .bfi sc d a b p => [packR sc 28 d a b p]
  | .popc sc d a p => [packR sc 29 d a 0 p]
  | .clz sc d a p => [packR sc 30 d a 0 p]
  | .brev sc d a p => [packR sc 31 d a 0 p]
  | .isetp sc c u pd a b p => [packR sc 32 (c ++ u ++ pd) a b p]
  | .isetpi sc c u pd a imm p => [packR sc 33 (c ++ u ++ pd) a imm p]
  | .fadd sc d a b p => [packR sc 34 d a b p]
  | .fsub sc d a b p => [packR sc 35 d a b p]
  | .fmul sc d a b p => [packR sc 36 d a b p]
  | .ffma sc d a b p => [packR sc 37 d a b p]
  | .fmin sc d a b p => [packR sc 38 d a b p]
  | .fmax sc d a b p => [packR sc 39 d a b p]
  | .fsetp sc c pd a b p => [packR sc 40 (c ++ (0 : BitVec 1) ++ pd) a b p]
  | .fabs sc d a p => [packR sc 41 d a 0 p]
  | .fneg sc d a p => [packR sc 41 d a 1 p]
  | .frcp sc d a p => [packR sc 41 d a 2 p]
  | .frsq sc d a p => [packR sc 41 d a 3 p]
  | .fsqrt sc d a p => [packR sc 41 d a 4 p]
  | .fex2 sc d a p => [packR sc 41 d a 5 p]
  | .flg2 sc d a p => [packR sc 41 d a 6 p]
  | .fsin sc d a p => [packR sc 41 d a 7 p]
  | .fcos sc d a p => [packR sc 41 d a 8 p]
  | .ffloor sc d a p => [packR sc 41 d a 9 p]
  | .fceil sc d a p => [packR sc 41 d a 10 p]
  | .ftrunc sc d a p => [packR sc 41 d a 11 p]
  | .frint sc d a p => [packR sc 41 d a 12 p]
  | .ffract sc d a p => [packR sc 41 d a 13 p]
  | .hadd2 sc d a b p => [packR sc 42 d a b p]
  | .hmul2 sc d a b p => [packR sc 43 d a b p]
  | .hfma2 sc d a b p => [packR sc 44 d a b p]
  | .badd2 sc d a b p => [packR sc 45 d a b p]
  | .bmul2 sc d a b p => [packR sc 46 d a b p]
  | .bfma2 sc d a b p => [packR sc 47 d a b p]
  | .cvt sc d a b p => [packR sc 48 d a b p]
  | .plop sc c pd na pa nb pb p => [packR sc 49 (c ++ (0 : BitVec 1) ++ pd) ((0 : BitVec 3) ++ na ++ pa) ((0 : BitVec 3) ++ nb ++ pb) p]
  | .pmovGet sc d p => [packR sc 50 d 0 0 p]
  | .pmovPut sc a p => [packR sc 50 0 a 1 p]
  | .idp4 sc d a b p => [packR sc 51 d a b p]
  | .ldUi8 sc d a off p => [packR sc 0 d a off p]
  | .ldI8 sc d a off p => [packR sc 1 d a off p]
  | .ldUi16 sc d a off p => [packR sc 2 d a off p]
  | .ldI16 sc d a off p => [packR sc 3 d a off p]
  | .ld32 sc d a off p => [packR sc 4 d a off p]
  | .ld64 sc d a off p => [packR sc 5 d a off p]
  | .ld128 sc d a off p => [packR sc 6 d a off p]
  | .st8 sc d a off p => [packR sc 7 d a off p]
  | .st16 sc d a off p => [packR sc 8 d a off p]
  | .st32 sc d a off p => [packR sc 9 d a off p]
  | .st64 sc d a off p => [packR sc 10 d a off p]
  | .st128 sc d a off p => [packR sc 11 d a off p]
  | .lds32 sc d a off p => [packR sc 12 d a off p]
  | .lds64 sc d a off p => [packR sc 13 d a off p]
  | .lds128 sc d a off p => [packR sc 14 d a off p]
  | .sts32 sc d a off p => [packR sc 15 d a off p]
  | .sts64 sc d a off p => [packR sc 16 d a off p]
  | .sts128 sc d a off p => [packR sc 17 d a off p]
  | .ldc32 sc d a off p => [packR sc 18 d a off p]
  | .atomAdd sc d a b p => [packR sc 19 d a b p]
  | .atomMin sc d a b p => [packR sc 20 d a b p]
  | .atomMax sc d a b p => [packR sc 21 d a b p]
  | .atomMinUi sc d a b p => [packR sc 22 d a b p]
  | .atomMaxUi sc d a b p => [packR sc 23 d a b p]
  | .atomAnd sc d a b p => [packR sc 24 d a b p]
  | .atomOr sc d a b p => [packR sc 25 d a b p]
  | .atomXor sc d a b p => [packR sc 26 d a b p]
  | .atomExch sc d a b p => [packR sc 27 d a b p]
  | .atomCas sc d a b p => [packR sc 28 d a b p]
  | .atomInc sc d a b p => [packR sc 29 d a b p]
  | .atomFadd sc d a b p => [packR sc 30 d a b p]
  | .redAdd sc a b p => [packR sc 31 0 a b p]
  | .redMin sc a b p => [packR sc 32 0 a b p]
  | .redMax sc a b p => [packR sc 33 0 a b p]
  | .redAnd sc a b p => [packR sc 34 0 a b p]
  | .redOr sc a b p => [packR sc 35 0 a b p]
  | .redXor sc a b p => [packR sc 36 0 a b p]
  | .redFadd sc a b p => [packR sc 37 0 a b p]
  | .bind sc a p => [packR sc 38 0 a 0 p]
  | .unbind sc a p => [packR sc 39 0 a 0 p]
  | .acq sc a m => [packI sc 40 0 a ((0 : BitVec 4) ++ m)]
  | .rel sc a m => [packI sc 41 0 a ((0 : BitVec 4) ++ m)]
  | .gateAcq sc a => [packI sc 42 0 a 0]
  | .gateTry sc pd a p => [packR sc 43 ((0 : BitVec 4) ++ pd) a 0 p]
  | .gateRel sc a => [packI sc 44 0 a 0]
  | .sigLd sc d a p => [packR sc 45 d a 0 p]
  | .sigSt sc d a p => [packR sc 46 d a 0 p]
  | .sigAdd sc d a b p => [packR sc 47 d a b p]
  | .sigCas sc d a b p => [packR sc 48 d a b p]
  | .sigWait sc d a b p => [packR sc 49 d a b p]
  | .fence sc f => [packI sc 50 0 0 ((0 : BitVec 9) ++ f)]
  | .xfence sc x y => [packI sc 51 ((0 : BitVec 1) ++ x) 0 ((0 : BitVec 4) ++ y)]
  | .cflush sc a b p => [packR sc 52 0 a b p]
  | .cinv sc a b p => [packR sc 53 0 a b p]
  | .prefetch sc a off p => [packR sc 54 0 a off p]
  | .mmaT8 sc d a b p => [packR sc 0 d a b p]
  | .mmaI8 sc d a b p => [packR sc 1 d a b p]
  | .mmaE4 sc d a b p => [packR sc 2 d a b p]
  | .mmaE5 sc d a b p => [packR sc 3 d a b p]
  | .mmaBf sc d a b p => [packR sc 4 d a b p]
  | .mmaH sc d a b p => [packR sc 5 d a b p]
  | .mmaF32 sc d a b p => [packR sc 6 d a b p]
  | .mmaT8s sc d a b p lit => [packR sc 7 d a b p, lit]
  | .mmaI8s sc d a b p lit => [packR sc 8 d a b p, lit]
  | .wload sc d a b p => [packR sc 9 d a b p]
  | .accZero sc a p => [packR sc 10 0 a 0 p]
  | .accRd sc d a p => [packR sc 11 d a 0 p]
  | .accWr sc d a p => [packR sc 12 d a 0 p]
  | .accScale sc a b p => [packR sc 13 0 a b p]
  | .accCvtF32I32 sc a p => [packR sc 14 0 a 0 p]
  | .accCvtI32F32 sc a p => [packR sc 14 0 a 1 p]
  | .tstore sc a p => [packR sc 15 0 a 0 p]
  | .tstoreAdd sc a p => [packR sc 16 0 a 0 p]
  | .winset sc a b p => [packR sc 17 0 a b p]
  | .winget sc d a p => [packR sc 18 d a 0 p]
  | .rowmax sc d a p => [packR sc 19 d a 0 p]
  | .rowsum sc d a p => [packR sc 20 d a 0 p]
  | .copy sc a p => [packR sc 0 0 a 0 p]
  | .copyX24 sc a p => [packR sc 1 0 a 0 p]
  | .filLoad sc a p lit => [packR sc 2 0 a 0 p, lit]
  | .filRun sc b p => [packR sc 3 0 0 b p]
  | .filStop sc b p => [packR sc 4 0 0 b p]
  | .qcfg sc a q en sgn z l => [packI sc 5 0 a (q ++ en ++ sgn ++ z ++ (0 : BitVec 1) ++ l)]
  | .qstat sc d q => [packI sc 6 d 0 ((0 : BitVec 8) ++ q)]
  | .gnode sc d a p lit => [packR sc 7 d a 0 p, lit]
  | .gedge sc a b p => [packR sc 8 0 a b p]
  | .garm sc p => [packR sc 9 0 0 0 p]
  | .garmClr sc p => [packR sc 9 0 0 1 p]
  | .gwait sc p => [packR sc 10 0 0 0 p]
  | .gset sc v g => [packR sc 11 0 0 ((0 : BitVec 5) ++ v) g]
  | .engStat sc d n => [packI sc 12 d 0 n]
  | .nop sc p => [packR sc 0 0 0 0 p]
  | .bra sc off => [packB sc 1 off]
  | .brm sc lits => (packR sc 2 0 0 (BitVec.ofNat 7 lits.length) 0) :: lits
  | .call sc off => [packB sc 3 off]
  | .callI sc a p => [packR sc 4 0 a 0 p]
  | .ret sc p => [packR sc 5 0 0 0 p]
  | .exit sc p => [packR sc 6 0 0 0 p]
  | .jinit sc d p => [packR sc 7 d 0 0 p]
  | .jwait sc d p => [packR sc 8 d 0 0 p]
  | .jleave sc l => [packI sc 9 0 0 ((0 : BitVec 2) ++ l)]
  | .brk sc j p lit => [packJ sc 10 j p, lit]
  | .barSync sc b => [packI sc 11 0 0 b]
  | .barArrive sc b => [packI sc 12 0 0 b]
  | .barWait sc b => [packI sc 13 0 0 b]
  | .barInit sc b => [packI sc 14 0 0 b]
  | .shfl sc d a b p => [packR sc 15 d a b p]
  | .vote sc c pd na pa b p => [packR sc 16 (c ++ (0 : BitVec 1) ++ pd) ((0 : BitVec 3) ++ na ++ pa) b p]
  | .redux sc d a f p => [packR sc 17 d a f p]
  | .scan sc d a f p => [packR sc 18 d a f p]
  | .setdecl sc a p lit => [packR sc 19 0 a 0 p, lit]
  | .quota sc x y n => [packI sc 20 0 0 (x ++ y ++ n ++ (0 : BitVec 2))]
  | .tileNext sc pd a p => [packR sc 21 ((0 : BitVec 4) ++ pd) a 0 p]
  | .spawn sc d a b p => [packR sc 22 d a b p]
  | .yield sc p => [packR sc 23 0 0 0 p]
  | .s2r sc d n => [packI sc 24 d 0 n]
  | .featq sc d n => [packI sc 25 d 0 n]
  | .trap sc c => [packI sc 26 0 0 c]
  | .spawnSpec sc d a b p => [packR sc 27 d a b p]
  | .specOp sc d a b p lit => [packR sc 28 d a b p, lit]
  | .specEnd sc p => [packR sc 29 0 0 0 p]
  | .specCommit sc p => [packR sc 30 0 0 0 p]
  | .specAbort sc p => [packR sc 31 0 0 0 p]
  | .specDrain sc p => [packR sc 32 0 0 0 p]
  | .specTable sc a p => [packR sc 33 0 a 0 p]
  | .brx sc d a b p => [packR sc 34 d a b p]
  | .primEmit sc a p => [packR sc 0 0 a 0 p]
  | .attrEmit sc a v k p => [packR sc 1 0 a (v ++ (0 : BitVec 1) ++ k) p]
  | .attrIn sc d c p => [packR sc 2 d 0 c p]
  | .texS sc d a p lit => [packR sc 3 d a 0 p, lit]
  | .texL sc d a p lit => [packR sc 4 d a 0 p, lit]
  | .texF sc d a p lit => [packR sc 5 d a 0 p, lit]
  | .texG sc d a p lit => [packR sc 6 d a 0 p, lit]
  | .tbLd sc d w1 p => [packR sc 7 d 0 ((0 : BitVec 6) ++ w1) p]
  | .tbSt sc a w1 p => [packR sc 8 0 a ((0 : BitVec 6) ++ w1) p]
  | .tbBlend sc a p => [packR sc 9 0 a 0 p]
  | .fragKill sc p => [packR sc 10 0 0 0 p]
  | .hallQPix sc d a p => [packR sc 11 d a 0 p]
  | .hallQGrant sc d a p => [packR sc 11 d a 1 p]
  | .depthT sc c pd a p => [packR sc 12 (c ++ (0 : BitVec 1) ++ pd) a 0 p]
  | .srd sc d n => [packI sc 0 d 0 n]
  | .swr sc a n => [packI sc 1 0 a n]
  | .eret sc p => [packR sc 2 0 0 0 p]
  | .ctxRd sc d a p => [packR sc 3 d a 0 p]
  | .ctxWr sc a b p => [packR sc 4 0 a b p]
  | .ctxSave sc a p => [packR sc 5 0 a 0 p]
  | .ctxLoad sc a p => [packR sc 6 0 a 0 p]
  | .tlbInv sc a b p => [packR sc 7 0 a b p]
  | .wfi sc d a p => [packR sc 8 d a 0 p]
  | .agentClaim sc d p => [packR sc 9 d 0 0 p]
  | .blkStart sc a p => [packR sc 10 0 a 0 p]
  | .blkStop sc a p => [packR sc 11 0 a 0 p]
  | .vdevDrain sc a p => [packR sc 12 0 a 0 p]
  | .poolClr sc a p => [packR sc 13 0 a 0 p]
  | .faultRd sc d p => [packR sc 14 d 0 0 p]
  | .resumeContinue sc a b p => [packR sc 15 0 a b p]
  | .resumeSkip sc a b p => [packR sc 15 1 a b p]
  | .resumeKill sc a b p => [packR sc 15 2 a b p]
  | _ => []

end Sys2Proof
end

