-- ==== Sys2Proof/Machine/Bits.lean ====
section
/-! DEFINITION. Bit fields, sign extension and little-endian byte strings (R4, R6). -/

namespace Sys2Proof.Machine

/-- Bits [hi:lo] of a number. -/
def bitsOf (n hi lo : Nat) : Nat := n / 2 ^ lo % 2 ^ (hi + 1 - lo)

/-- Bit i of a number. -/
def bitOf (n i : Nat) : Bool := n / 2 ^ i % 2 = 1

/-- Sext(x, n): the integer of an n-bit two's complement number. -/
def sextI (x n : Nat) : Int := if 2 * (x % 2 ^ n) < 2 ^ n then (x % 2 ^ n : Nat) else (x % 2 ^ n : Nat) - (2 ^ n : Nat)

/-- The number x mod 2^n of an integer. -/
def wrapI (x : Int) (n : Nat) : Nat := (x % (2 ^ n : Nat)).toNat

/-- S32(x). -/
def s32 (w : Word) : Int := w.toInt

/-- U32(x). -/
def u32 (w : Word) : Nat := w.toNat

/-- W32(x) of an integer. -/
def w32 (x : Int) : Word := BitVec.ofInt 32 x

/-- W32(x) of a number. -/
def w32n (x : Nat) : Word := BitVec.ofNat 32 x

/-- The 64-bit value of a low and a high word. -/
def pair (lo hi : Word) : Dword := hi ++ lo

/-- The low word of a 64-bit value. -/
def loW (d : Dword) : Word := d.extractLsb' 0 32

/-- The high word of a 64-bit value. -/
def hiW (d : Dword) : Word := d.extractLsb' 32 32

/-- A 64-bit value from a number. -/
def d64 (n : Nat) : Dword := BitVec.ofNat 64 n

/-- The n low bytes of a number, lowest first. -/
def bytesOfNat : Nat → Nat → List Byte
  | 0, _ => []
  | n + 1, x => BitVec.ofNat 8 x :: bytesOfNat n (x / 256)

/-- The number of a little-endian byte string. -/
def natOfBytes : List Byte → Nat
  | [] => 0
  | b :: bs => b.toNat + 256 * natOfBytes bs

/-- Zero bytes. -/
def zeros (n : Nat) : List Byte := List.replicate n 0

/-- The little-endian words of a byte string, its length a multiple of 4. -/
def wordsOf (bs : List Byte) : Nat → List Word
  | 0 => []
  | n + 1 => BitVec.ofNat 32 (natOfBytes (bs.take 4)) :: wordsOf (bs.drop 4) n

/-- Field of a record: `n` bytes at offset `o`. -/
def fieldOf (bs : List Byte) (o n : Nat) : Nat := natOfBytes ((bs.drop o).take n)

/-- The set bits of a mask, lowest first. -/
def maskBits (m n : Nat) : List Nat := (List.range n).filter (bitOf m)

/-- The mask of a list of bit numbers. -/
def maskOf (l : List Nat) : Nat := l.foldl (fun m i => m ||| 2 ^ i) 0

end Sys2Proof.Machine
end

