-- ==== Sys2Proof/Machine/Float.lean ====
section
/-! DEFINITION. Floating-point formats, one rounding function over exact rationals, and the
arithmetic of chapter 03 (R49-R63). -/

namespace Sys2Proof.Machine

/-- A binary floating-point format: exponent and fraction widths (R49). -/
structure Fmt where
  ebits : Nat
  mbits : Nat
  deriving DecidableEq, Repr

def fmtF32 : Fmt := ⟨8, 23⟩
def fmtF16 : Fmt := ⟨5, 10⟩
def fmtBF16 : Fmt := ⟨8, 7⟩

/-- The exponent bias. -/
def Fmt.bias (f : Fmt) : Nat := 2 ^ (f.ebits - 1) - 1
/-- The number of bits. -/
def Fmt.width (f : Fmt) : Nat := 1 + f.ebits + f.mbits
/-- +infinity. -/
def Fmt.inf (f : Fmt) : Nat := (2 ^ f.ebits - 1) * 2 ^ f.mbits
/-- The largest finite value. -/
def Fmt.maxFin (f : Fmt) : Nat := f.inf - 1
/-- The canonical NaN (R51). -/
def Fmt.nan (f : Fmt) : Nat := f.inf + 2 ^ (f.mbits - 1)
/-- The sign bit's weight. -/
def Fmt.signBit (f : Fmt) : Nat := 2 ^ (f.ebits + f.mbits)

/-- An exact value: NaN, an infinity, or a signed rational num / den with den > 0. -/
inductive FVal where
  | nan
  | inf (neg : Bool)
  | fin (neg : Bool) (num den : Nat)
  deriving DecidableEq, Repr

/-- The rational n * 2^e. -/
def scaled (neg : Bool) (n : Nat) (e : Int) : FVal :=
  if 0 ≤ e then .fin neg (n * 2 ^ e.toNat) 1 else .fin neg n (2 ^ (-e).toNat)

/-- The value of an encoding (R49). -/
def Fmt.decode (f : Fmt) (x : Nat) : FVal :=
  let neg := bitOf x (f.ebits + f.mbits)
  let e := bitsOf x (f.ebits + f.mbits - 1) f.mbits
  let m := x % 2 ^ f.mbits
  if e = 2 ^ f.ebits - 1 then (if m = 0 then .inf neg else .nan)
  else if e = 0 then scaled neg m (1 - (f.bias : Int) - f.mbits)
  else scaled neg (2 ^ f.mbits + m) ((e : Int) - f.bias - f.mbits)

/-- Whether an encoding is a NaN. -/
def Fmt.isNan (f : Fmt) (x : Nat) : Bool := x % f.signBit > f.inf

/-- Whether an encoding is a denormal. -/
def Fmt.isDenorm (f : Fmt) (x : Nat) : Bool := x % f.signBit < 2 ^ f.mbits && x % 2 ^ f.mbits ≠ 0

/-- floor(log2(num / den)) for positive num and den. -/
def ilog2 (num den : Nat) : Int :=
  let e : Int := (Nat.log2 num : Int) - Nat.log2 den
  if 0 ≤ e then (if den * 2 ^ e.toNat ≤ num then e else e - 1)
  else (if den ≤ num * 2 ^ (-e).toNat then e else e - 1)

/-- Rounds n / d to an integer: to nearest, ties to even, or (rz) toward zero. -/
def roundQ (rz : Bool) (n d : Nat) : Nat :=
  let q := n / d
  let r := n % d
  if rz then q else if 2 * r > d ∨ (2 * r = d ∧ q % 2 = 1) then q + 1 else q

/-- Rounds a positive rational into the magnitude bits of a format (R52): denormals as R49 defines,
overflow to infinity, or under rz to the largest finite value. -/
def Fmt.roundMag (f : Fmt) (rz : Bool) (num den : Nat) : Nat :=
  if num = 0 then 0
  else
    let emin : Int := 1 - (f.bias : Int)
    let e := max (ilog2 num den) emin
    let q := e - f.mbits
    let m := if 0 ≤ q then roundQ rz num (den * 2 ^ q.toNat) else roundQ rz (num * 2 ^ (-q).toNat) den
    let bits := (e - emin).toNat * 2 ^ f.mbits + m
    if bits ≥ f.inf then (if rz then f.maxFin else f.inf) else bits

/-- The encoding of an exact value rounded into a format. -/
def Fmt.round (f : Fmt) (rz : Bool) (v : FVal) : Nat :=
  match v with
  | .nan => f.nan
  | .inf neg => (if neg then f.signBit else 0) + f.inf
  | .fin neg num den => (if neg then f.signBit else 0) + f.roundMag rz num den

/-- The exact sum; an exact zero sum of opposite signs is +0 (R52). -/
def FVal.add (x y : FVal) : FVal :=
  match x, y with
  | .nan, _ | _, .nan => .nan
  | .inf a, .inf b => if a = b then .inf a else .nan
  | .inf a, _ => .inf a
  | _, .inf b => .inf b
  | .fin a n d, .fin b m e =>
    if a = b then .fin a (n * e + m * d) (d * e)
    else if n * e = m * d then .fin false 0 1
    else if n * e > m * d then .fin a (n * e - m * d) (d * e)
    else .fin b (m * d - n * e) (d * e)

/-- The exact product. -/
def FVal.mul (x y : FVal) : FVal :=
  match x, y with
  | .nan, _ | _, .nan => .nan
  | .inf a, .inf b => .inf (a != b)
  | .inf a, .fin b n _ => if n = 0 then .nan else .inf (a != b)
  | .fin a n _, .inf b => if n = 0 then .nan else .inf (a != b)
  | .fin a n d, .fin b m e => .fin (a != b) (n * m) (d * e)

/-- The value with its sign inverted. -/
def FVal.neg : FVal → FVal
  | .nan => .nan
  | .inf a => .inf !a
  | .fin a n d => .fin (!a) n d

/-- The exact rational of a finite value, as an integer numerator over its denominator. -/
def FVal.ratNum : FVal → Int
  | .fin a n _ => if a then -(n : Int) else n
  | _ => 0

/-- x < y on finite values and infinities; zeros are equal. -/
def FVal.lt (x y : FVal) : Bool :=
  match x, y with
  | .nan, _ | _, .nan => false
  | .inf a, .inf b => a && !b
  | .inf a, _ => a
  | _, .inf b => !b
  | .fin _ _ d, .fin _ _ e => x.ratNum * e < y.ratNum * d

/-- x = y as numbers; zeros are equal. -/
def FVal.eq (x y : FVal) : Bool := x ≠ .nan && y ≠ .nan && !x.lt y && !y.lt x

/-! ## F32 under the installed modes (R52, R53, R62) -/

/-- The arithmetic modes a block runs with (R21, R62). -/
structure Modes where
  rz : Bool
  daz : Bool
  trans : Nat
  deriving DecidableEq, Repr

/-- The modes of a ctx.legacy value (R21). -/
def modesOf (legacy : Dword) : Modes :=
  { rz := legacy.getLsbD 0, daz := legacy.getLsbD 3, trans := (legacy.extractLsb' 6 2).toNat }

/-- An F32 denormal becomes the zero of its sign where DENORM is 1 (R53). -/
def flushF32 (daz : Bool) (x : Nat) : Nat :=
  if daz && fmtF32.isDenorm x then x / 2 ^ 31 * 2 ^ 31 else x

/-- The exact value of an F32 source under DENORM. -/
def srcF32 (md : Modes) (w : Word) : FVal := fmtF32.decode (flushF32 md.daz w.toNat)

/-- An F32 result: rounded once, then flushed under DENORM. -/
def resF32 (md : Modes) (rz : Bool) (v : FVal) : Word :=
  BitVec.ofNat 32 (flushF32 md.daz (fmtF32.round rz v))

def fadd (md : Modes) (a b : Word) : Word := resF32 md md.rz ((srcF32 md a).add (srcF32 md b))
def fsub (md : Modes) (a b : Word) : Word := resF32 md md.rz ((srcF32 md a).add (srcF32 md b).neg)
def fmul (md : Modes) (a b : Word) : Word := resF32 md md.rz ((srcF32 md a).mul (srcF32 md b))
def ffma (md : Modes) (a b c : Word) : Word :=
  resF32 md md.rz (((srcF32 md a).mul (srcF32 md b)).add (srcF32 md c))

/-- x below y in the order of FMIN and FMAX, where -0 is less than +0 (R55). -/
def fminLt (x y : Nat) : Bool :=
  let u := fmtF32.decode x
  let v := fmtF32.decode y
  u.lt v || (u.eq v && x / 2 ^ 31 = 1 && y / 2 ^ 31 = 0)

/-- FMIN and FMAX (R55): the other operand beside one NaN, the canonical NaN for two. -/
def fminmax (md : Modes) (mx : Bool) (a b : Word) : Word :=
  let x := flushF32 md.daz a.toNat
  let y := flushF32 md.daz b.toNat
  let r := if fmtF32.isNan x then (if fmtF32.isNan y then fmtF32.nan else y)
    else if fmtF32.isNan y then x
    else if mx then (if fminLt x y then y else x)
    else (if fminLt y x then y else x)
  BitVec.ofNat 32 r

/-- FSETP's comparison codes 0-7 (R29, R55). -/
def fcmp (md : Modes) (c : Nat) (a b : Word) : Bool :=
  let x := srcF32 md a
  let y := srcF32 md b
  match c with
  | 0 => x.eq y
  | 1 => !x.eq y
  | 2 => x.lt y
  | 3 => x.lt y || x.eq y
  | 4 => y.lt x
  | 5 => y.lt x || x.eq y
  | 6 => x ≠ .nan && y ≠ .nan
  | _ => x = .nan || y = .nan

/-! ## Packed arithmetic (R54) -/

/-- Applies a function to the two halves of registers. -/
def packed (f : Nat → Nat → Nat → Nat) (a b d : Word) : Word :=
  BitVec.ofNat 32 (f (a.toNat / 2 ^ 16) (b.toNat / 2 ^ 16) (d.toNat / 2 ^ 16) * 2 ^ 16
    + f (a.toNat % 2 ^ 16) (b.toNat % 2 ^ 16) (d.toNat % 2 ^ 16))

def padd (f : Fmt) (a b d : Word) : Word :=
  packed (fun x y _ => f.round false ((f.decode x).add (f.decode y))) a b d
def pmul (f : Fmt) (a b d : Word) : Word :=
  packed (fun x y _ => f.round false ((f.decode x).mul (f.decode y))) a b d
def pfma (f : Fmt) (a b d : Word) : Word :=
  packed (fun x y z => f.round false (((f.decode x).mul (f.decode y)).add (f.decode z))) a b d

/-! ## Integral rounding (R56) -/

/-- floor, ceiling, truncation and nearest-even of a magnitude, by sign. -/
def integralMag (mode : Nat) (neg : Bool) (n d : Nat) : Nat :=
  let q := n / d
  let up := if n % d = 0 then q else q + 1
  match mode with
  | 0 => if neg then up else q
  | 1 => if neg then q else up
  | 2 => q
  | _ => roundQ false n d

/-- FFLOOR (0), FCEIL (1), FTRUNC (2), FRINT (3): the sign of the input is kept, so a zero result
of a negative input is -0. -/
def fintegral (md : Modes) (mode : Nat) (a : Word) : Word :=
  match srcF32 md a with
  | .fin neg n d => resF32 md false (.fin neg (integralMag mode neg n d) 1)
  | v => resF32 md false v

/-- FFRACT: min(RoundF32(x - floor x, nearest-even), 0x3F7FFFFF). -/
def ffract (md : Modes) (a : Word) : Word :=
  match srcF32 md a with
  | .fin neg n d =>
    let r := if neg then (d - n % d) % d else n % d
    let x := resF32 md false (.fin false r d)
    if x.toNat > 0x3F7FFFFF then 0x3F7FFFFF else x
  | _ => BitVec.ofNat 32 fmtF32.nan

/-! ## Conversions (R60, R61) -/

/-- Whether a type code is an integer type. -/
def cvtIsInt (t : Nat) : Bool := t = 0 || t = 1 || t = 5 || t = 6

/-- The range of an integer type code. -/
def cvtRange (t : Nat) : Int × Int :=
  match t with
  | 0 => (-2147483648, 2147483647)
  | 1 => (0, 4294967295)
  | 5 => (-128, 127)
  | _ => (0, 255)

/-- The format of a floating type code. -/
def cvtFmt (t : Nat) : Fmt := if t = 2 then fmtF32 else if t = 3 then fmtF16 else fmtBF16

/-- The integer a source of an integer type holds. -/
def cvtIntSrc (t : Nat) (a : Word) : Int :=
  match t with
  | 0 => s32 a
  | 1 => u32 a
  | 5 => sextI a.toNat 8
  | _ => (a.toNat % 256 : Nat)

/-- Sat(x, lo, hi) (R6). -/
def satI (x lo hi : Int) : Int := if x < lo then lo else if hi < x then hi else x

/-- The exact value of a source of a floating type. -/
def cvtFloatSrc (md : Modes) (t : Nat) (a : Word) : FVal :=
  if t = 2 then srcF32 md a else (cvtFmt t).decode (a.toNat % 2 ^ 16)

/-- A float result in its register (R61). -/
def cvtFloatRes (md : Modes) (t : Nat) (rz : Bool) (v : FVal) : Word :=
  if t = 2 then resF32 md rz v else BitVec.ofNat 32 ((cvtFmt t).round rz v)

/-- CVT (R61). -/
def cvtValue (md : Modes) (dt st : Nat) (rz : Bool) (a : Word) : Word :=
  if cvtIsInt st then
    let x := cvtIntSrc st a
    if cvtIsInt dt then w32 (satI x (cvtRange dt).1 (cvtRange dt).2)
    else cvtFloatRes md dt rz (.fin (x < 0) x.natAbs 1)
  else
    let v := cvtFloatSrc md st a
    if cvtIsInt dt then
      match v with
      | .nan => 0
      | .inf neg => w32 (if neg then (cvtRange dt).1 else (cvtRange dt).2)
      | .fin neg n d =>
        let m : Int := roundQ rz n d
        w32 (satI (if neg then -m else m) (cvtRange dt).1 (cvtRange dt).2)
    else cvtFloatRes md dt rz v

end Sys2Proof.Machine
end

