-- ==== Sys2Proof/Machine/Tab.lean ====
section
/-! DEFINITION. Sparse tables by number, and sparse byte memories in one canonical form. -/

namespace Sys2Proof.Machine

/-- A table: entries by rising key, each key once. -/
abbrev Tab (α : Type) := List (Nat × α)

/-- The entry of a key. -/
def Tab.find {α : Type} (t : Tab α) (k : Nat) : Option α :=
  match t with
  | [] => none
  | (a, x) :: r => if a = k then some x else Tab.find r k

/-- The entry of a key, or a default. -/
def Tab.get {α : Type} (t : Tab α) (k : Nat) (d : α) : α := (Tab.find t k).getD d

/-- The table with an entry set. -/
def Tab.put {α : Type} (t : Tab α) (k : Nat) (x : α) : Tab α :=
  match t with
  | [] => [(k, x)]
  | (a, y) :: r =>
    if k < a then (k, x) :: (a, y) :: r
    else if a = k then (k, x) :: r
    else (a, y) :: Tab.put r k x

/-- The table without a key. -/
def Tab.del {α : Type} (t : Tab α) (k : Nat) : Tab α :=
  match t with
  | [] => []
  | (a, y) :: r => if a = k then Tab.del r k else (a, y) :: Tab.del r k

/-- The keys of a table. -/
def Tab.keys {α : Type} (t : Tab α) : List Nat := t.map Prod.fst

/-- A sparse byte memory: an address not listed reads 0, no listed byte is 0, and addresses rise
(log entry 1). -/
abbrev Mem := List Host.Cell

/-- What an unlisted address reads as. -/
def unlistedByte : Byte := 0

/-- One byte of a memory (DESIGN CHOICE, log entry 1). -/
def Mem.read (m : Mem) (a : Nat) : Byte :=
  match m with
  | [] => unlistedByte
  | (x, b) :: r => if x = a then b else Mem.read r a

/-- A memory with one byte set. -/
def Mem.write (m : Mem) (a : Nat) (b : Byte) : Mem :=
  match m with
  | [] => if b = unlistedByte then [] else [(a, b)]
  | (x, y) :: r =>
    if a < x then (if b = unlistedByte then (x, y) :: r else (a, b) :: (x, y) :: r)
    else if x = a then (if b = unlistedByte then r else (a, b) :: r)
    else (x, y) :: Mem.write r a b

/-- The canonical form of a memory whose addresses all exceed a bound. -/
def Mem.wfFrom : Option Nat → Mem → Bool
  | _, [] => true
  | lo, (x, y) :: r => (match lo with | none => true | some l => l < x) && y != unlistedByte && Mem.wfFrom (some x) r

/-- The canonical form: addresses strictly rise and no entry equals what an unlisted address reads. -/
def Mem.wf (m : Mem) : Bool := Mem.wfFrom none m

/-- `n` bytes from an address. -/
def Mem.readN (m : Mem) (a : Nat) : Nat → List Byte
  | 0 => []
  | n + 1 => m.read a :: Mem.readN m (a + 1) n

/-- Bytes stored from an address. -/
def Mem.writeN (m : Mem) (a : Nat) : List Byte → Mem
  | [] => m
  | b :: bs => Mem.writeN (m.write a b) (a + 1) bs

/-- A little-endian number of `n` bytes. -/
def Mem.num (m : Mem) (a n : Nat) : Nat := natOfBytes (m.readN a n)

/-- A memory with a little-endian number of `n` bytes stored. -/
def Mem.setNum (m : Mem) (a n x : Nat) : Mem := m.writeN a (bytesOfNat n x)

/-- A memory with `n` bytes cleared. -/
def Mem.clear (m : Mem) (lo n : Nat) : Mem := m.filter fun c => !(lo ≤ c.1 && c.1 < lo + n)

end Sys2Proof.Machine
end

