-- ==== Sys2Proof/Machine/State.lean ====
section
/-! DEFINITION. The state of the module as plain data: threads, warps, blocks, cores, launches, virtual
devices, the hub, memory, and the accesses and commands in flight. -/

namespace Sys2Proof.Machine

/-- What stops the machine for good (DESIGN CHOICE, log entry 110). -/
inductive Fault where
  /-- Raised by step in safe mode when no device step is due: the compute dies have no power (R443), so no
  step of a core exists. Safe: the model stops where the device stands still. -/
  | safeMode
  deriving DecidableEq, Repr

/-- Why an instruction has no meaning. -/
inductive Refusal where
  /-- Raised by exec for an instruction without a meaning. Safe: nothing can be proved of it. -/
  | notModelled (mnemonic : String)
  deriving DecidableEq, Repr

/-! ## Keys

A warp slot's key is (core * 64 + slot) * 2 + bank, bank 1 being the trap bank of R345; a thread's key
is warp key * 32 + home lane; a partition's key is core * 4 + partition. -/

/-! ## Threads -/

/-- An entry of the return stack (R16). -/
structure RetEnt where
  addr : BitVec 48
  depth : Word
  deriving DecidableEq, Repr, Inhabited

/-- A memory access of a thread with its operands as they stood at issue (R349). Register codes are
those of R31. -/
inductive Acc where
  /-- LD: address, size, sign extension, destination code -/
  | load (va : Dword) (size : Nat) (sgn : Bool) (d : Nat)
  | store (va : Dword) (data : List Byte)
  | lds (off size d : Nat)
  | sts (off : Nat) (data : List Byte)
  | ldc (off d : Nat)
  | atom (va : Dword) (f : AtomOp) (b c : Word) (d : Nat)
  | red (va : Dword) (f : AtomOp) (b : Word)
  | sigLd (idx d : Nat)
  | sigSt (idx : Nat) (v : Dword)
  | sigAdd (idx : Nat) (v : Dword) (d : Nat)
  | sigCas (idx : Nat) (e n : Dword) (d : Nat)
  | sigWait (idx cond : Nat) (v : Dword) (d : Nat)
  | acq (obj : Word) (mask : Nat)
  | rel (obj : Word) (mask : Nat)
  /-- the owner code of a gate request (R228) -/
  | gateAcq (obj : Word) (who : Nat)
  | gateTry (obj : Word) (who pd : Nat)
  | gateRel (obj : Word) (who : Nat)
  | fence (device : Bool)
  | xfence (src dst : Nat)
  | cmaint (inv : Bool) (va : Dword) (count : Nat)
  /-- ATTR.IN: component, destination -/
  | attrIn (c d : Nat)
  /-- TEX: 0 S, 1 L, 2 F, 3 G; the surface's entry as the lane's decision found it, the coordinates, the
  channel, the destination -/
  | tex (form ent : Nat) (u v : Word) (ch d : Nat)
  /-- TILE.NEXT: the register pair and the exhausted predicate (R159) -/
  | tile (d pd : Nat)
  | tbLd (half d : Nat)
  | tbSt (half : Nat) (v : Word)
  | tbBlend (c : List Word)
  | depthT (mode pd : Nat) (z : Word)
  | hallPix (a : Dword) (d : Nat)
  | hallGrant (a : Word) (d : Nat)
  /-- a command handed to an engine (R239, R268): 0 Trellis, 1 copy unit, 2 Filigree, 3 graph walker -/
  | engine (unit : Nat)
  /-- SPEC.OP: kind, inverse address, handle, ARG0 and ARG1 (R388) -/
  | specOp (kind : Nat) (inv handle : Dword) (a b : Word)
  | specCommit
  | specDrain
  /-- SPEC.TABLE: the image's address (R390) -/
  | specTable (va : Dword)
  /-- an instruction of privileged code whose result is known at issue: destination, and whether every
  member receives its own word (R378) -/
  | priv (d : Nat)
  /-- BLK.START of a core (R384) -/
  | blkStart (core : Nat)
  /-- a save or restore of a launch that its flag waits for (R385) -/
  | gang (launch : Nat) (load : Bool)
  /-- VDEV.DRAIN (R386) -/
  | vdrain (vdev : Nat)
  /-- TLB.INV: KIND, virtual device, context, and whether every core is covered (R381) -/
  | tlbInv (kind vdev ctx : Nat) (all : Bool)
  /-- an arrival at a barrier behind stores that are held, and whether it holds the thread (R217) -/
  | arrive (b : Nat) (sync : Bool)
  /-- FIL.STOP of a slot (R291) -/
  | filStop (slot : Nat)
  deriving DecidableEq, Repr, Inhabited

/-- An access with what its completion and its faults need: the flag it is tied to, the clause and word
that issued it, the threads whose flag it set, the warps a uniform destination is written in, the region that
governs it as the block's list stood at its issue (R191), for a table image the region of each of its units, its place
in the order of issue, the clause and group that issued it, the releases that an ACQ reaches for each member, as known at
its issue (R227), the vector registers that each warp's quota has held ever since: those from the number given on are lost
(R114), and whether a fault has met it, so that its replay walks again (R179). -/
structure Access where
  acc : Acc
  flag : Option Nat
  hdr : BitVec 48
  word : Nat
  scope : Scope
  members : List Nat
  warps : List Nat
  region : Nat := 0
  regions : List Nat := []
  seq : Nat := 0
  group : Nat := 0
  ups : List Nat := []
  cuts : Tab Nat := []
  again : Bool := false
  deriving DecidableEq, Repr, Inhabited

/-- A write visible to a party (R196-R198): its serial, the mask of reader paths, and the object it came
through; 0 for the party's own write. -/
structure Seen where
  serial : Nat
  paths : Nat
  via : Nat
  deriving DecidableEq, Repr, Inhabited

/-- A release event of an object (R194): its place in the object's order, and the writes it covers. -/
structure RelEv where
  pos : Nat
  writes : List Seen
  deriving DecidableEq, Repr, Inhabited

/-- A read that holds its thread, with its address and its region as they stood at its issue (R88, R164, R191, R349). -/
structure HeldRead where
  va : Dword
  region : Nat
  deriving DecidableEq, Repr, Inhabited

/-- Where a stopped thread stands inside the clause at its program counter: the word it runs again, the
word after it, and COUNT (R342, R348); and whether it is parked there by a translation cause (R18, R88, R182). -/
structure StopAt where
  word : Nat
  next : Nat
  count : Nat
  parks : Bool := false
  deriving DecidableEq, Repr, Inhabited

/-- A SPAWN that waits for the overflow area (R122, R160). -/
structure SpawnReq where
  entry : BitVec 48
  a : Word
  b : Word
  id : Word
  deriving DecidableEq, Repr, Inhabited

/-- Where a speculative task stands (R365-R367): running, aborting until its flags clear, in an inverse
routine, at an EXIT that waits for the commit, or at an EXIT of an inverse routine that waits for its held stores. -/
inductive TPhase where
  | run | abort | inverse | exiting | leaving
  deriving DecidableEq, Repr, Inhabited

/-- A speculative task (R356-R367). Its undo records lie in its stack area, from the thread's base up to
`undoTop`; `bracket` counts the words issued in an open bracket. -/
structure Task where
  ts : Nat
  ordered : Bool
  discard : Bool
  entry : BitVec 48
  a : Word
  b : Word
  undoTop : BitVec 48
  bracket : Option Nat
  /-- an abort request waits to be taken (R364, R365) -/
  request : Bool
  /-- the abort came from KILL (R366) -/
  killed : Bool
  phase : TPhase
  deriving DecidableEq, Repr, Inhabited

/-- A fragment thread's binding (R305, R329): its pixel, its primitive's index, its depth and its
interpolated attribute words. -/
structure Frag where
  x : Nat
  y : Nat
  prim : Nat
  z : Word
  attrs : List Word
  deriving DecidableEq, Repr, Inhabited

/-- A spawned thread in a bin or in the overflow area (R122), with a task or a fragment where it is one. -/
structure Spawned where
  req : SpawnReq
  task : Option Task
  frag : Option Frag
  /-- the spawner's writes its first clause sees (R160) -/
  seen : List Seen
  /-- the spawner and the place of its SPAWN in the order of issue, where stores placed before it were still held back:
  they are performed before the thread starts (R160) -/
  parent : Option (Nat × Nat) := none
  /-- the SPAWN node that made it (R249) -/
  node : Option Nat := none
  deriving DecidableEq, Repr, Inhabited

/-- A thread (R7, R25). -/
structure Thread where
  live : Bool
  v : Tab Word
  /-- bit i is p_i -/
  p : BitVec 8
  cf : BitVec 12
  pc : BitVec 48
  /-- the target chosen by the current clause -/
  npc : Option (BitVec 48)
  /-- newest first, at most 4 -/
  ret : List RetEnt
  /-- spilled records outstanding -/
  spilled : Nat
  depth : Word
  sp : BitVec 48
  /-- the lowest byte of the stack area (R132, R360) -/
  base : BitVec 48
  age : Nat
  yielded : Bool
  /-- suspended by a fault (R342) -/
  susp : Bool
  /-- where it stands inside the clause at pc -/
  stop : Option StopAt
  /-- parked: the first deferred access waits for RESUME (R182) -/
  parked : Bool
  /-- accesses not yet sent, in program order (R216, R343) -/
  deferred : List Access
  /-- suspended at the next clause boundary by an engine fault (R445) -/
  suspNext : Bool
  /-- a translation cause has stopped it at a word or a fetch, which walks again when it runs again (R179) -/
  again : Bool
  /-- suspended by TRAP: it stands where a RESUME lets it go on (R96) -/
  trapped : Bool
  /-- held at JWAIT on these registers (R115) -/
  jwait : List Nat
  /-- held at barriers: barrier number and phase (R118) -/
  bwait : List (Nat × Nat)
  /-- a second arrival waits for the phase of the first (R118) -/
  rearm : List (Nat × Nat × Bool)
  /-- the phase of the last arrival, by barrier -/
  arr : Tab Nat
  /-- held at a BRX entry read (R88) -/
  brx : Option HeldRead
  /-- held by a RET refill (R164) -/
  refill : Option HeldRead
  /-- the index that a BRX has popped while its entry's read is not yet done: it is not popped again (R65, R88) -/
  popped : Option Word
  /-- held at SPAWN (R122) -/
  spawning : List Spawned
  /-- arrived at the rendezvous of the clause at pc, of this scope (R106) -/
  rdv : Option Scope
  spawnid : Word
  task : Option Task
  frag : Option Frag
  /-- staged attribute words (R329) -/
  staged : Tab Word
  /-- writes visible to the thread -/
  seen : List Seen
  /-- the serial last read, by aligned 8-byte unit -/
  lastRead : Tab Nat
  /-- pending RELs: object key, path mask, writes covered (R195) -/
  pendRel : List (Nat × Nat × List Seen)
  /-- the modification number of the last value read, by signal word (R227) -/
  sigRead : Tab Nat
  /-- release events covered by the last wait or acquisition, by object (R195) -/
  covered : Tab Nat
  /-- completed engine commands not yet observed: flag (15 for none) + 16 × engine, and the serials
  written (R196) -/
  unobs : List (Nat × List Nat)
  deriving DecidableEq, Repr, Inhabited

/-- A warp in a warp slot or in a trap bank (R98, R113). -/
structure Warp where
  used : Bool
  /-- sr.warp -/
  no : Nat
  spawned : Bool
  quota : Nat
  s : Tab Word
  j : Tab Word
  /-- the window word (R266) -/
  win : Word
  deriving DecidableEq, Repr, Inhabited

/-! ## Blocks -/

/-- A hardware barrier (R118, R119): the pending phase's expected count and that of later phases. -/
structure Barrier where
  phase : Nat
  count : Nat
  expected : Nat
  later : Nat
  deriving DecidableEq, Repr, Inhabited

/-- A gate (R228): its owner code while HELD, and the requests that wait, oldest first: owner code and
operation identifier. -/
structure Gate where
  owner : Option Nat
  wait : List (Nat × Nat)
  deriving DecidableEq, Repr, Inhabited

/-- A region of a block's list (R191). -/
structure Region where
  base : Nat
  size : Nat
  obj : Word
  deriving DecidableEq, Repr, Inhabited

/-- A fault record (R347), with the scope of the faulting clause for the trap frame (R346). -/
structure FaultRec where
  cls : Nat
  cause : Nat
  stage : Nat
  level : Nat
  walk : Bool
  scope : Scope
  word : Nat
  warp : Nat
  swcode : Nat
  lanes : Nat
  warpId : Nat
  pc : BitVec 48
  va : Dword
  ia : Dword
  detail : Dword
  deriving DecidableEq, Repr, Inhabited

/-- A translation or range fault (R183); `hard` marks POISON on the core's own storage, which does not park, `soft` a
texel's fault, which parks whatever its cause (R334). -/
structure MemFault where
  cls : Nat
  cause : Nat
  stage : Nat
  level : Nat
  walk : Bool
  va : Dword
  ia : Dword
  hard : Bool := false
  soft : Bool := false
  deriving DecidableEq, Repr, Inhabited

/-- A spawn bin (R122): its key is the entry address (and the task class); ready orders the launches. -/
structure Bin where
  key : Nat
  members : List Spawned
  ready : Option Nat
  born : Nat
  deriving DecidableEq, Repr, Inhabited

/-- A slice descriptor (R240): strides are kept modulo 2^64. -/
structure SliceDesc where
  base : Nat
  sdst : Nat
  esz : Nat
  qnum : Nat
  toScratch : Bool
  guard : Option Nat
  counts : List Nat
  strides : List Nat
  deriving DecidableEq, Repr, Inhabited

/-- What an engine command does, with the operands captured at issue (R275-R294). Accumulator rows are
absolute, 0 to 64 × ACC − 1. -/
inductive CmdBody where
  /-- form 0-8 in opcode order; the first row, the A rows as element codes, B's offset, and the scales -/
  | mma (form row0 : Nat) (a : List (List Nat)) (off : Nat) (scales : List Nat)
  | wload (w src count : Nat)
  | accZero (rows : List Nat)
  /-- threads with the words they receive: register and accumulator byte -/
  | accRd (d : Nat) (cells : List (Nat × Nat × Nat))
  | accWr (cells : List (Nat × Word))
  | accScale (rows : List (Nat × Word))
  | accCvt (toInt : Bool) (rows : List Nat)
  /-- rows, each with the threads that receive its result -/
  | rowFold (sum : Bool) (d : Nat) (rows : List (Nat × List Nat))
  /-- rows of the tile with their absolute rows; destination, stride, format and residual tile -/
  | tstore (add : Bool) (rows : List (Nat × Nat)) (dst stride fmt : Nat) (res : Option Nat)
  | copy (src dst count : Nat)
  | x24 (src dst count aux esz : Nat)
  | filLoad (addr slot : Nat)
  | filRun (slot : Nat)
  | gnode (addr d : Nat)
  | gedge (u v : Nat)
  | garm
  | garmClr
  | gwait
  deriving DecidableEq, Repr, Inhabited

/-- An engine command in its queue (R239, R268): the operation its flag is tied to, the access record of
its issue, its party, the guard slot, how far it has come, whether a fault has stopped it, what its
party saw and its block's regions at issue (R191, R242), whether an ordering instruction still holds it
back (R216), and whether FIL.STOP has been issued for its slice (R291). -/
structure Cmd where
  body : CmdBody
  op : Nat
  acc : Access
  thr : Nat
  guard : Option Nat
  progress : Nat
  started : Bool
  stopped : Bool
  serial : Nat
  seen : List Seen
  regions : List Region
  /-- serials of the writes made -/
  wrote : List Nat
  held : Bool := false
  halting : Bool := false
  deriving DecidableEq, Repr, Inhabited

/-- A node of the dependence graph (R249, R250): its record, its successors, the edges left, whether it
waits (0), runs (1) or has finished (2), its progress, and the writes it made. -/
structure GNode where
  kind : Nat
  guard : Option Nat
  esz : Nat
  count : Nat
  src : Nat
  dst : Nat
  aux : Nat
  succ : List Nat
  left : Nat
  phase : Nat
  progress : Nat
  stopped : Bool
  wrote : List Nat
  /-- RESUME CONTINUE has reached the node: its replay walks again (R179) -/
  again : Bool := false
  deriving DecidableEq, Repr, Inhabited

/-- An operand queue (R243): its area in the scratchpad, and the head and tail counts of each lane's
ring. -/
structure OpQueue where
  en : Bool
  fin : Bool
  esz : Nat
  sgn : Bool
  log2d : Nat
  base : Nat
  heads : Tab Nat
  tails : Tab Nat
  deriving DecidableEq, Repr, Inhabited

/-- A disabled operand queue. -/
def OpQueue.off : OpQueue :=
  { en := false, fin := false, esz := 0, sgn := false, log2d := 0, base := 0, heads := [], tails := [] }

/-- An emitted triangle (R304): coordinates and depths of its vertices, and their attribute words. -/
structure Prim where
  xyz : List Word
  attrs : List Word
  deriving DecidableEq, Repr, Inhabited

/-- A pass of a drawing launch (R302-R304): bytes 0-95 of its descriptor and the surface entries of its target and of
ZSURF as the opening read found them, the triangles in the order of their indices, and the status that its finish writes. -/
structure Pass where
  desc : List Byte
  target : Nat
  zsurf : Nat
  prims : List Prim
  binUsed : Nat
  frags : Nat
  discards : Nat
  cmperr : Bool
  targeterr : Bool
  spawnlim : Bool
  /-- the record of kind TARGET has been written (R311) -/
  logged : Bool
  /-- the status bytes have been written (R303) -/
  finished : Bool
  deriving DecidableEq, Repr, Inhabited

/-- The tessera in its tile pass on a block (R306-R311): its number, the latched surface entries of the
target and of ZSURF, the latched map entries and the layer's surface entry, the written mask as pixel numbers, fragments not
yet spawned, the unit that the start or the resolve has reached, and the discards so far. -/
structure Tile where
  tess : Nat
  target : Nat
  zsurf : Nat
  entries : List Nat
  layer : Option Nat
  written : List Nat
  pend : List Spawned
  started : Bool
  unit : Nat
  discarded : Nat
  deriving DecidableEq, Repr, Inhabited

/-- A block on a core (R99, R125), with the storage that lies outside the pool. The pool's scratchpad and
accumulator bytes and the weight buffer are State.scratch, State.accm and State.wbuf. -/
structure Block where
  active : Bool
  launch : Nat
  /-- sr.block -/
  rank : Nat
  vdev : Nat
  ctx : Nat
  /-- sr.cluster and sr.die of the first placement (R129) -/
  cluster : Nat
  die : Nat
  /-- the installed ctx.legacy, ctx.owner and ctx.trap (R21, R300, R344) -/
  legacy : Dword
  owner : Byte
  trap : Dword
  /-- W, and the partition word's granules (R165) -/
  nwarps : Nat
  vrf : Nat
  scr : Nat
  acc : Nat
  budget : Nat
  /-- member masks of sets 0-3 -/
  sets : List Nat
  workid : Dword
  const : List Byte
  bars : Tab Barrier
  /-- member masks of b0-b15 -/
  barmask : List Nat
  gates : Tab Gate
  regions : List Region
  bins : List Bin
  overflow : List Spawned
  /-- order of readiness handed out so far -/
  binOrder : Nat
  spawnCount : Nat
  warpCount : Nat
  recs : List FaultRec
  /-- records that wait for a free place in the queue -/
  waitRecs : List FaultRec
  opq : Tab OpQueue
  /-- the warp slot whose trap bank runs the handler; ERET waits for its operations (R377) -/
  handler : Option Nat
  ending : Bool
  /-- engine command queues: 0 Trellis, 1 copy unit, 2 Filigree, 3 graph walker -/
  engq : Tab (List Cmd)
  /-- sticky bits of the Trellis status word (R269) and of the copy unit's (R296) -/
  tstat : Nat
  x24err : Bool
  slots : Tab SliceDesc
  /-- guard slots: 0 UNRESOLVED, 1 TRUE, 2 FALSE -/
  guards : Tab Nat
  graph : List GNode
  armed : Bool
  gdone : Bool
  /-- the GARM that armed the graph -/
  garm : Option Cmd
  tile : Option Tile
  /-- tesserae the block has taken -/
  nextTess : Nat
  /-- bytes of bin area still to be written: address and count (R304) -/
  binWork : List (Nat × Nat)
  /-- raster work stands still on a fault, a translation cause or another (R446) -/
  rfault : Option Bool
  /-- raster work that RESUME CONTINUE replays: its unit is translated again (R446) -/
  rwalk : Bool := false
  /-- the block's own warps, by number, whose slot a spawned warp has taken after their threads had exited -/
  gone : Tab Warp := []
  deriving DecidableEq, Repr, Inhabited

/-- A clause in progress on a partition (R11). -/
structure Issue where
  hdr : BitVec 48
  head : Header
  scope : Scope
  words : List Word
  pos : Nat
  /-- long-latency instructions issued so far -/
  ll : Nat
  /-- the issuing group: by ascending home lane at lane scope, by ascending warp and lane otherwise -/
  group : List Nat
  /-- the group as the picker formed it (R19) -/
  all : List Nat
  /-- threads whose lane ring holds too few elements while END is set (R245) -/
  short : List Nat
  /-- its number among the clauses issued -/
  born : Nat := 0
  deriving DecidableEq, Repr

/-- A long-latency operation in flight (R14). -/
structure Op where
  thr : Nat
  acc : Access
  /-- physical address, memory type and epoch of its translation (R187) -/
  pa : Nat
  mt : Nat
  epoch : Nat
  /-- the newest write when it issued -/
  serial : Nat
  /-- the result already produced, by register -/
  result : Option (List Word)
  /-- for a read, the oldest write that each of its units may return, as its party saw them at issue (R197) -/
  floors : List Nat := []
  /-- recorded by a pre-emption: no access of it is in flight (R349) -/
  landed : Bool := false
  /-- for a SPEC.OP that waits: the younger tasks, by key, whose conflicting entries stand in its way (R364) -/
  blockers : List (Nat × Nat) := []
  /-- a SPEC.OP that stalls on a full conflict unit (R361) -/
  stalled : Bool := false
  deriving DecidableEq, Repr, Inhabited

/-- A write in the coherence order (R199): bytes before and after, path, party, the object its region
was bound to, further threads whose reductions it combines or whose wider scope made it (R206), and the path on which its
own party issued it: another one than `path` where it went through this module's own ingress (R401). -/
structure WriteEv where
  serial : Nat
  addr : Nat
  old : List Byte
  new : List Byte
  path : Nat
  party : Nat
  obj : Nat
  also : List Nat := []
  home : Nat := path
  deriving DecidableEq, Repr, Inhabited

/-- A translation kept in a core's TLB (R179). -/
structure TlbEnt where
  vdev : Nat
  ctx : Nat
  va : Nat
  size : Nat
  pa : Nat
  mt : Nat
  r : Bool
  w : Bool
  x : Bool
  /-- an intermediate address in it, and log2 of the size of that address's stage-2 page -/
  ia : Nat
  z2 : Nat
  deriving DecidableEq, Repr, Inhabited

/-! ## Launches, queues, contexts, virtual devices -/

/-- A launch record (R131), parsed. -/
structure Record where
  code : Nat
  args : Nat
  stack : Nat
  spstack : Nat
  ovfl : Nat
  regions : Nat
  barmask : Nat
  budget : Nat
  warps : Nat
  prio : Nat
  fields : Nat
  part : Nat
  batch : Nat
  spawnT : Nat
  stackSz : Nat
  ovflN : Nat
  regionN : Nat
  extents : List Nat
  widths : List Nat
  argsSz : Nat
  /-- the core mask, 144 bits -/
  cores : Nat
  sets : List Nat
  waits : List (Nat × Nat × Dword)
  done : Option (Nat × Nat × Dword)
  deriving DecidableEq, Repr, Inhabited

/-- A die's dispenser run (R128): next index and end. -/
structure Run where
  next : Nat
  stop : Nat
  deriving DecidableEq, Repr, Inhabited

/-- Phases of a launch between its record's check and its finish. -/
inductive LPhase where
  /-- checked; waits for its WAIT conditions (R141) -/
  | waiting
  /-- ticketed; cores are being reserved (R142) -/
  | ticketed
  /-- placed: blocks are being installed -/
  | placing
  | running
  /-- halted and drained, its save under way from a page on, in the fallback area or not (R350, R354) -/
  | saving (page : Nat) (fallback : Bool)
  /-- saved as a gang (R350) -/
  | saved (fallback : Bool)
  /-- being restored from a page on (R352) -/
  | restoring (page : Nat) (fallback : Bool)
  deriving DecidableEq, Repr, Inhabited

/-- An entry of a conflict unit (R361): the task's key, the kind, ARG0, the handle, and whether it takes a
reserve entry. -/
structure ConfEnt where
  ts : Nat
  id : Nat
  kind : Nat
  arg : Word
  handle : Dword
  reserve : Bool
  deriving DecidableEq, Repr, Inhabited

/-- The speculation state of a launch (R357-R371): the table image's PAIRS and PRESENT, the commit floor,
its conflict entries, and the counts of spec.stat. -/
structure Spec where
  pairs : Nat
  present : Nat
  floor : Option (Nat × Nat)
  ents : List ConfEnt
  miss : Nat
  aborts : Nat
  conflicts : Nat
  stalls : Nat
  deriving DecidableEq, Repr, Inhabited

/-- A launch without speculation. -/
def Spec.empty : Spec :=
  { pairs := 0, present := 0, floor := none, ents := [], miss := 0, aborts := 0, conflicts := 0, stalls := 0 }

/-- A launch. -/
structure Launch where
  vdev : Nat
  queue : Nat
  ctx : Nat
  record : Record
  /-- priority class after the ceiling (R100) -/
  cls : Nat
  argBytes : List Byte
  masks : List Nat
  regions : List Region
  latched : List Bool
  /-- what placing acquires: the releases before the latching of the last condition (R202) -/
  acquired : List Seen
  ticket : Option Nat
  phase : LPhase
  /-- the cores of blocks 0, 1, … -/
  cores : List Nat
  reserved : List Nat
  installed : List Nat
  homeCounter : Nat
  runs : List Run
  cbars : Tab Barrier
  gbars : Tab Barrier
  /-- the operation of an outstanding refill, by die (R394) -/
  refills : Tab Nat
  spec : Spec
  pass : Option Pass
  /-- to be pre-empted once it runs: its queue has been chosen to give up its slot (R139) -/
  evict : Bool := false
  deriving DecidableEq, Repr, Inhabited

/-- A queue of a virtual device (R136, R409). -/
structure Queue where
  ring : Dword
  ctl : Dword
  tail : Nat
  head : Nat
  err : Nat
  phase : Nat
  /-- the hub queue slot held while BOUND -/
  slot : Option Nat
  /-- order of binding and of notifying, and the current launch -/
  bound : Nat
  notified : Nat
  overdue : Bool
  current : Option Nat
  deriving DecidableEq, Repr, Inhabited

/-- A launch in a virtual-device image (R417): its own data, and the threads, warps, blocks, halted clauses, operations and
storage of the blocks that it had installed. -/
structure LaunchImage where
  id : Nat
  launch : Launch
  threads : Tab Thread
  warps : Tab Warp
  blocks : Tab Block
  halted : Tab Issue
  ops : Tab Op
  scratch : Mem
  accm : Mem
  wbuf : Mem
  deriving DecidableEq, Repr, Inhabited

/-- A virtual-device image (R417): the module that wrote it, the profile, the doorbell and queue registers, the gates, the
signal words of the grant, the waiting presents of its surfaces by present queue, and the launches with their latched
conditions. -/
structure VImage where
  module : Nat
  profile : List Word
  queues : Tab Queue
  dgates : Tab Gate
  signals : List Dword
  presents : Tab (List (Nat × Nat × Dword))
  launches : List LaunchImage
  deriving DecidableEq, Repr, Inhabited

/-- A context (R410): its mode, owner, trap and table registers. -/
structure Ctx where
  legacy : Dword
  owner : Dword
  trap : Dword
  ttb : Dword
  deriving DecidableEq, Repr, Inhabited

/-- A virtual device (R404-R420). -/
structure Vdev where
  ctl : Dword
  share : Dword
  sig : Dword
  s2tb : Dword
  save : Dword
  savefb : Dword
  savefault : Dword
  tmlog : Dword
  tmptr : Dword
  tmcount : Dword
  owner : Dword
  ctxcmd : Dword
  /-- the selected context (R410) -/
  selected : Option Nat
  created : Bool
  /-- feature profile words 0-11 (R95) -/
  profile : List Word
  queues : Tab Queue
  ctxs : Tab Ctx
  dgates : Tab Gate
  /-- step of a reset in progress, 0 none, and the cores that have acknowledged it (R414, R421) -/
  rstStep : Nat
  rstAcks : List Nat
  /-- the cores that have done the work of the reset's step 3 or 4 (R414, R421) -/
  rstWork : List Nat
  /-- VDEV.DRAIN has stopped new requests (R386) -/
  draining : Bool
  /-- the image that stands in the save area: written by a freeze here, or copied from another module (R417) -/
  image : Option VImage
  /-- requests held by the stub, oldest first; thawed once module DEST has reported (R418) -/
  stubHeld : List FabricReq
  stubThawed : Bool
  deriving DecidableEq, Repr, Inhabited

/-- The agent state and shared parts of a core. -/
structure Core where
  tlb : List TlbEnt
  /-- latched ctx.ttb, by vdev * 65536 + ctx, and latched vdev.s2tb (R175) -/
  ttbs : Tab Dword
  s2tbs : Tab Dword
  /-- the launch whose ticket reserves the core (R142) -/
  reserved : Option Nat
  /-- virtual device of the last installed block (R422) -/
  storageOf : Option Nat
  sysSel : Dword
  sysRst : Dword
  /-- WFI: the awaited events and the destination (R382) -/
  wfi : Option (Nat × Nat)
  /-- the resident block has finished, and no ticket has been claimed since (R382) -/
  finished : Bool
  /-- parked for a firmware hand-over (R440) -/
  parked : Bool
  /-- a firmware fault has stopped the agent (R447) -/
  fwStopped : Bool
  /-- cycle count of the arithmetic clock (R20) -/
  clock : Nat
  /-- throttle level by virtual device (R412) -/
  throttle : Tab Nat
  deriving DecidableEq, Repr, Inhabited

/-! ## The compositor and Assay -/

/-- A display (R322-R324, R340): its mode register and a mode that waits for the next refresh boundary, the
background, the refresh count, whether its link is trained, the size of its pixel map, and the last image
composed. -/
structure Display where
  mode : Dword
  next : Option Dword
  bg : Dword
  count : Nat
  live : Bool
  width : Nat
  height : Nat
  frame : List Word
  deriving DecidableEq, Repr, Inhabited

/-- The present queue of an owner on a display (R327): PR_A, the entries (SURF, SIG, VALUE), oldest first,
and the fields of PR_STAT. -/
structure PresentQ where
  a : Dword
  q : List (Nat × Nat × Dword)
  latched : Nat
  badsig : Bool
  nolayer : Bool
  ovf : Bool
  deriving DecidableEq, Repr, Inhabited

/-- A fill of a pixel map (R322). -/
structure Fill where
  disp : Nat
  part : Nat
  entry : Nat
  x0 : Nat
  x1 : Nat
  y0 : Nat
  y1 : Nat
  deriving DecidableEq, Repr, Inhabited

/-- The compositor's configuration (R319-R327). A surface or grant entry is its 32 bytes, a layer entry its
8, as little-endian numbers. Layer keys are 64 × display + entry; present keys 4 × owner + display. -/
structure Bezel where
  surfs : Tab Nat
  grants : Tab Nat
  layers : Tab Nat
  /-- the layer entries in force: those of the last refresh that has started (R321) -/
  inForce : Tab Nat
  tsel : Dword
  /-- gathered bytes by their place in the entry (R321) -/
  gathered : Tab Byte
  fillA : Dword
  /-- the running fill, then those that wait -/
  fills : List Fill
  /-- sticky bits of bz.stat in their places -/
  stat : Nat
  displays : Tab Display
  presents : Tab PresentQ
  deriving DecidableEq, Repr, Inhabited

/-- An entry of Assay's log (R437). -/
structure LogEnt where
  reg : Nat
  event : Nat
  gen : Word
  digest : BitVec 384
  deriving DecidableEq, Repr, Inhabited

/-- An answer of the SPDM responder (R438, R439): 0 none yet, 1 VERSION, 2 CAPABILITIES, 3 ALGORITHMS, 4 DIGESTS,
5 CERTIFICATE, 6 CHALLENGE_AUTH, 7 MEASUREMENTS, 127 ERROR UnsupportedRequest; the bytes that it carries, its measurement
blocks by index, the snapshot that it is built from (registers, the log's bytes and the generation), and its two signatures
over the transcript's digest (DESIGN CHOICE, log entry 24). -/
structure Answer where
  code : Nat
  data : List Byte
  blocks : List (Nat × List Byte)
  meas : List (BitVec 384)
  log : List Byte
  gen : Word
  digest : BitVec 384
  ecdsa : BitVec 768
  lms : BitVec 768
  deriving DecidableEq, Repr, Inhabited

/-- The Assay unit (R434-R444): the measurement registers, the log, the firmware generation, HPHASE, WFAIL, START, the
staged image, the agent code areas' contents and the number of the current one, the recovery image that application core 0
runs in safe mode, an uncorrectable error found in Assay's memory, and the last answer. -/
structure Assay where
  meas : List (BitVec 384)
  log : List LogEnt
  gen : Word
  hphase : Nat
  wfail : Nat
  start : Nat
  stage : Option (List Byte)
  areas : Tab (List Byte)
  area : Nat
  recovery : Option (List Byte)
  upset : Bool
  answer : Answer
  deriving DecidableEq, Repr, Inhabited

/-- What the state of a step still has to run before a partition moves: a device step, or the choice of
the partition that moves next (DEDUCED, log entry 7). -/
inductive Agenda where
  | event (i : Instr)
  /-- a write of a hub register by a core (R173) -/
  | write (pa owner : Nat) (v : Dword)
  /-- a write of some bytes of a hub register by a core -/
  | store (pa owner : Nat) (bs : List Byte)
  | part (core part : Nat)
  /-- an uncorrectable error arises in a byte of memory or of the pool (R183, R444) -/
  | upset (a : Nat)
  /-- a single-bit error is corrected (R183, R444) -/
  | corrected
  /-- a parity error in a core's control state (R355, R444) -/
  | parity (core : Nat)
  /-- an uncorrectable error in Assay's memory or log (R444) -/
  | assayUpset
  /-- another module writes a signal word that a WAIT is proxied to (R141, R400) -/
  | awayWrite
  /-- the hypervisor copies an image of another module into a virtual device's save area (R417) -/
  | copyImage (vdev : Nat) (image : VImage)
  /-- the agents begin to quiesce for the image that is staged (R440) -/
  | quiesce
  /-- an SPDM request that the responder does not implement (R438) -/
  | otherRequest
  deriving DecidableEq, Repr

/-- What the ingress answered to a fabric request (R398). -/
inductive FabAns where
  | done (data : List Byte)
  | refused
  | held
  deriving DecidableEq, Repr, Inhabited

/-- The state of the module (DESIGN CHOICE, log entry 4). -/
structure State where
  /-- the module has started (R440-R442) -/
  started : Bool
  safe : Bool
  /-- the capped power profile (R3, R444) -/
  capped : Bool
  /-- what moves next, and the partition that moves when nothing is named -/
  agenda : List Agenda
  cur : Nat
  /-- counter of free values -/
  free : Nat
  threads : Tab Thread
  warps : Tab Warp
  blocks : Tab Block
  cores : Tab Core
  issues : Tab Issue
  /-- clauses that a pre-emption stopped between two words, with their groups, by partition (R11) -/
  halted : Tab Issue
  ops : Tab Op
  nextOp : Nat
  mem : Mem
  /-- addresses of bytes with an uncorrectable error; scratchpad bytes stand above 2^60 (R183) -/
  poison : List Nat
  /-- single-bit errors corrected (R183, R444) -/
  corrected : Nat
  /-- scratchpad bytes at core * 2^24 + offset; accumulator storage and weight buffers likewise -/
  scratch : Mem
  accm : Mem
  wbuf : Mem
  wlog : List WriteEv
  serial : Nat
  /-- release events by object -/
  rels : Tab (List RelEv)
  launches : Tab Launch
  nextLaunch : Nat
  vdevs : Tab Vdev
  /-- signal words, and the number of writes each has taken -/
  signals : Tab Dword
  sigMods : Tab Nat
  epoch : Nat
  /-- hotness: configuration, ring, pointer, counters (R185) -/
  hotCfg : Dword
  hotRing : Dword
  hotPtr : Dword
  /-- counters by die: block, requester, count; least recently counted first -/
  hotCnt : Tab (List (Nat × Nat × Nat))
  /-- quarantine queue: page word and epoch; QFULL (R188) -/
  quar : List (Nat × Nat)
  qfull : Bool
  fwfault : Dword
  /-- interrupts raised to the application cores, newest first: kind and what it names -/
  irqs : List (Nat × Nat)
  /-- counters of bindings and of notifies -/
  nextBind : Nat
  nextNotify : Nat
  usec : Nat
  /-- the order in which reset actions arrived (R421) -/
  resets : List Nat
  /-- creations and thaws of virtual devices since the start (R95) -/
  made : Nat
  bezel : Bezel
  /-- import entries as 32-byte numbers, outbound keys, proxies (R397-R399) -/
  imports : Tab Nat
  fabKeys : Tab Word
  proxies : Tab Dword
  /-- requests sent through the old target of a proxy entry and not yet acknowledged, by entry (R419) -/
  turned : Tab (List Nat)
  /-- answers of the ingress, newest first -/
  fabAnswers : List FabAns
  /-- SIG.WAITs of other modules that wait here: the word, the condition and its value (R233, R400) -/
  fabWaits : List (Nat × Nat × Dword)
  /-- requests that a forwarding stub has sent on, newest first: the module that it sends to, and the request (R418) -/
  forwarded : List (Nat × FabricReq)
  /-- writes that the application cores have acquired (R203) -/
  hostSeen : List Seen
  assay : Assay
  deriving DecidableEq, Repr

/-- A thread slot that holds no thread (DESIGN CHOICE, log entry 2). -/
def Thread.empty : Thread :=
  { live := false, v := [], p := 0, cf := 0, pc := 0, npc := none, ret := [], spilled := 0, depth := 0
    sp := 0, base := 0, age := 0, yielded := false, susp := false, stop := none, parked := false
    deferred := [], suspNext := false, again := false, trapped := false, jwait := [], bwait := [], rearm := [], arr := []
    brx := none, refill := none, popped := none, spawning := [], rdv := none
    spawnid := 0xFFFFFFFF, task := none, frag := none, staged := [], seen := [], lastRead := []
    pendRel := [], sigRead := [], covered := [], unobs := [] }

/-- An empty warp slot (DESIGN CHOICE, log entry 2). -/
def Warp.empty : Warp :=
  { used := false, no := 0, spawned := false, quota := 0, s := [], j := [], win := 1 }

/-- A core with no block. -/
def Block.empty : Block :=
  { active := false, launch := 0, rank := 0, vdev := 0, ctx := 0, cluster := 0, die := 0, legacy := 0
    owner := 0xFF, trap := 0, nwarps := 0, vrf := 0, scr := 0, acc := 0, budget := 0
    sets := [0, 0, 0, 0], workid := 0, const := [], bars := [], barmask := [], gates := [], regions := []
    bins := [], overflow := [], binOrder := 0, spawnCount := 0, warpCount := 0, recs := []
    waitRecs := [], opq := [], handler := none, ending := false, engq := []
    tstat := 0, x24err := false, slots := [], guards := [], graph := [], armed := false, gdone := false
    garm := none, tile := none, nextTess := 0, binWork := [], rfault := none }

/-- A core at module start. -/
def Core.empty : Core :=
  { tlb := [], ttbs := [], s2tbs := [], reserved := none, storageOf := none, sysSel := 0, sysRst := 0x3F0000
    wfi := none, finished := false, parked := false, fwStopped := false, clock := 0, throttle := [] }

/-- A queue at reset (R136, R409). -/
def Queue.empty : Queue :=
  { ring := 4, ctl := 0xFFFFFFFF0000000B, tail := 0, head := 0, err := 0, phase := 0, slot := none, bound := 0
    notified := 0, overdue := false, current := none }

/-- A context at creation (R24, R300, R344, R175). -/
def Ctx.empty : Ctx := { legacy := 0, owner := 0xFF, trap := 0, ttb := 0 }

/-- A virtual device at reset (DESIGN CHOICE, log entry 3). -/
def Vdev.empty : Vdev :=
  { ctl := 0, share := 0, sig := 0, s2tb := 0, save := 2, savefb := 0, savefault := 0, tmlog := 4
    tmptr := 0, tmcount := 0, owner := 0xFE01, ctxcmd := 0, selected := none, created := false
    profile := [], queues := [], ctxs := [], dgates := [], rstStep := 0, rstAcks := [], rstWork := []
    draining := false, image := none, stubHeld := [], stubThawed := false }

/-- A display at module start. -/
def Display.empty : Display :=
  { mode := 0, next := none, bg := 0, count := 0, live := false, width := 0, height := 0, frame := [] }

/-- A present queue at module start. -/
def PresentQ.empty : PresentQ :=
  { a := 0, q := [], latched := 0, badsig := false, nolayer := false, ovf := false }

/-- The compositor at module start: an unlisted surface entry has FORMAT 0xFF, an unlisted grant entry
GRANTOR 0xFF, an unlisted layer entry is 0 (R321) (DESIGN CHOICE, log entry 3). -/
def Bezel.empty : Bezel :=
  { surfs := [], grants := [], layers := [], inForce := [], tsel := 0, gathered := [], fillA := 0, fills := [], stat := 0
    displays := [], presents := [] }

/-- No answer yet. -/
def Answer.empty : Answer :=
  { code := 0, data := [], blocks := [], meas := [], log := [], gen := 0, digest := 0, ecdsa := 0, lms := 0 }

/-- Assay before the first start (DESIGN CHOICE, log entry 3). -/
def Assay.empty : Assay :=
  { meas := List.replicate 16 0, log := [], gen := 0, hphase := 0, wfail := 0, start := 0, stage := none, areas := []
    area := 0, recovery := none, upset := false, answer := Answer.empty }

/-- The machine right after reset: not yet started, every register at its stated reset value, memory
with nothing listed (DESIGN CHOICE, log entry 2; DESIGN CHOICE, log entry 3; DESIGN CHOICE, log entry 4). -/
def State.reset : State :=
  { started := false, safe := false, capped := false, agenda := [], cur := 0, free := 0, threads := [], warps := []
    blocks := [], cores := [], issues := [], halted := [], ops := [], nextOp := 0, mem := [], poison := []
    corrected := 0, scratch := [], accm := []
    wbuf := [], wlog := [], serial := 0, rels := [], launches := [], nextLaunch := 0, vdevs := []
    signals := [], sigMods := [], epoch := 0, hotCfg := 0, hotRing := 4, hotPtr := 0, hotCnt := []
    quar := [], qfull := false, fwfault := 0, irqs := [], nextBind := 0, nextNotify := 0, usec := 0
    resets := [], made := 0, bezel := Bezel.empty, imports := [], fabKeys := [], proxies := [], turned := [], fabAnswers := []
    fabWaits := [], forwarded := []
    hostSeen := [], assay := Assay.empty }

end Sys2Proof.Machine
end

