-- ==== Sys2Proof/Machine/Ops.lean ====
section
/-! DEFINITION. The named operations over the state: keys, accessors, registers and free values; the
halting of queues; and taking an exception (R342-R347) with the return from it. -/

namespace Sys2Proof.Machine

/-- The outcome of an instruction or of a step. -/
abbrev Out := Host.Outcome State Fault Refusal

/-! ## Keys -/

def coreOf (t : Nat) : Nat := t / 4096
def slotOf (t : Nat) : Nat := t / 64 % 64
def bankOf (t : Nat) : Nat := t / 32 % 2
/-- The home lane (R99). -/
def laneOf (t : Nat) : Nat := t % 32
def warpKeyOf (t : Nat) : Nat := t / 32
/-- The warp key of a core's warp slot. -/
def mkWarp (core slot bank : Nat) : Nat := (core * 64 + slot) * 2 + bank
def mkThread (core slot bank lane : Nat) : Nat := mkWarp core slot bank * 32 + lane
/-- The partition a thread's warp resides on, as a partition key. -/
def partOf (t : Nat) : Nat := coreOf t * 4 + slotOf t / 16
/-- The core warp slot of warp w of a block: partition w mod 4, slot w div 4 (R99). -/
def warpSlot (w : Nat) : Nat := 16 * (w % 4) + w / 4
/-- A thread of the firmware agent in warp slot 63 (R1). -/
def isAgent (t : Nat) : Bool := slotOf t = 63 && bankOf t = 0
/-- A thread of a trap handler's bank (R345). -/
def isHandler (t : Nat) : Bool := bankOf t = 1
/-- Privileged code: the agent, and a handler while it runs (R27). -/
def isPriv (t : Nat) : Bool := isAgent t || isHandler t
/-- The die of a core (R1). -/
def dieOfCore (core : Nat) : Nat := core / 72
def clusterOfCore (core : Nat) : Nat := core / 4

/-! ## Accessors -/

/-- What an unlisted thread slot holds: the agent's threads exist from the start, no other does. -/
def Thread.default (t : Nat) : Thread := { Thread.empty with live := isAgent t }
/-- What an unlisted warp slot holds: the agent's warp has quota 16 (R373). -/
def Warp.default (w : Nat) : Warp :=
  if isAgent (w * 32) then { Warp.empty with used := true, no := 63, quota := 16 } else Warp.empty

def State.thr (s : State) (t : Nat) : Thread := s.threads.get t (Thread.default t)
def State.setThr (s : State) (t : Nat) (x : Thread) : State := { s with threads := s.threads.put t x }
def State.modThr (s : State) (t : Nat) (f : Thread → Thread) : State := s.setThr t (f (s.thr t))
def State.modThrs (s : State) (ts : List Nat) (f : Thread → Thread) : State :=
  ts.foldl (fun s t => s.modThr t f) s

def State.warp (s : State) (w : Nat) : Warp := s.warps.get w (Warp.default w)
def State.setWarp (s : State) (w : Nat) (x : Warp) : State := { s with warps := s.warps.put w x }
def State.modWarp (s : State) (w : Nat) (f : Warp → Warp) : State := s.setWarp w (f (s.warp w))

def State.block (s : State) (c : Nat) : Block := s.blocks.get c Block.empty
def State.setBlock (s : State) (c : Nat) (b : Block) : State := { s with blocks := s.blocks.put c b }
def State.modBlock (s : State) (c : Nat) (f : Block → Block) : State := s.setBlock c (f (s.block c))

def State.core (s : State) (c : Nat) : Core := s.cores.get c Core.empty
def State.setCore (s : State) (c : Nat) (x : Core) : State := { s with cores := s.cores.put c x }
def State.modCore (s : State) (c : Nat) (f : Core → Core) : State := s.setCore c (f (s.core c))

def State.vdev (s : State) (v : Nat) : Vdev := s.vdevs.get v Vdev.empty
def State.setVdev (s : State) (v : Nat) (x : Vdev) : State := { s with vdevs := s.vdevs.put v x }
def State.modVdev (s : State) (v : Nat) (f : Vdev → Vdev) : State := s.setVdev v (f (s.vdev v))

def Vdev.queue (v : Vdev) (q : Nat) : Queue := v.queues.get q Queue.empty
def State.queue (s : State) (v q : Nat) : Queue := (s.vdev v).queue q
def State.setQueue (s : State) (v q : Nat) (x : Queue) : State :=
  s.modVdev v fun d => { d with queues := d.queues.put q x }
def State.modQueue (s : State) (v q : Nat) (f : Queue → Queue) : State := s.setQueue v q (f (s.queue v q))

def State.launch? (s : State) (l : Nat) : Option Launch := s.launches.find l
def State.setLaunch (s : State) (l : Nat) (x : Launch) : State := { s with launches := s.launches.put l x }
def State.modLaunch (s : State) (l : Nat) (f : Launch → Launch) : State :=
  match s.launch? l with
  | some x => s.setLaunch l (f x)
  | none => s

def State.ctx? (s : State) (v c : Nat) : Option Ctx := (s.vdev v).ctxs.find c
def State.setCtx (s : State) (v c : Nat) (x : Ctx) : State :=
  s.modVdev v fun d => { d with ctxs := d.ctxs.put c x }

/-- The clause in progress on the partition that moves. -/
def State.issue (s : State) : Option Issue := s.issues.find s.cur
def State.setIssue (s : State) (i : Issue) : State := { s with issues := s.issues.put s.cur i }

/-- The virtual device and the context that a thread's accesses are made in (R406). An agent's are those
of its last selection (R375) (DEDUCED, log entry 9). -/
def State.tagOf (s : State) (t : Nat) : Nat × Nat :=
  if isAgent t then
    let w := (s.core (coreOf t)).sysSel.toNat
    (w % 32, bitsOf w 47 32)
  else ((s.block (coreOf t)).vdev, (s.block (coreOf t)).ctx)

/-! ## Free values -/

/-- A choice among the numbers below n. -/
def State.choose (s : State) (n : Nat) : Nat × State :=
  (Config.freeNat s.free % n, { s with free := s.free + 1 })

/-- A value that nothing constrains. -/
def State.anyWord (s : State) : Word × State :=
  (Config.freeWord s.free, { s with free := s.free + 1 })

/-! ## Registers (R7-R9, R31) -/

/-- The value of a register code in a thread; z and the queue ports read 0 here. -/
def State.reg (s : State) (t : Nat) (c : Nat) : Word :=
  if c < 96 then (s.thr t).v.get c 0
  else if c < 120 then (s.warp (warpKeyOf t)).s.get (c - 96) 0
  else 0

/-- A vector register of a thread written. -/
def State.setVec (s : State) (t c : Nat) (x : Word) : State :=
  s.modThr t fun th => { th with v := th.v.put c x }

/-- A uniform register of a warp written. -/
def State.setUni (s : State) (w c : Nat) (x : Word) : State :=
  s.modWarp w fun wp => { wp with s := wp.s.put c x }

/-- A register code written: a vector register in the thread, a uniform one in each of the warps, z
discards (R9). -/
def State.setReg (s : State) (t : Nat) (ws : List Nat) (c : Nat) (x : Word) : State :=
  if c < 96 then s.setVec t c x
  else if c < 120 then ws.foldl (fun s w => s.setUni w (c - 96) x) s
  else s

/-- Consecutive registers written from a code; z discards all of them. -/
def State.setRegs (s : State) (t : Nat) (ws : List Nat) (c : Nat) : List Word → State
  | [] => s
  | x :: xs => State.setRegs (s.setReg t ws c x) t ws (if c < 120 then c + 1 else c) xs

/-- The value of a pair: the low half from the named register (R65). -/
def State.pairReg (s : State) (t c : Nat) : Dword :=
  pair (s.reg t c) (if c < 120 then s.reg t (c + 1) else 0)

/-- Consecutive registers read. -/
def State.regRun (s : State) (t c n : Nat) : List Word :=
  (List.range n).map fun k => s.reg t (if c < 120 then c + k else c)

/-- A predicate: number 0 is always true (R9). -/
def State.pred (s : State) (t n : Nat) : Bool := n = 0 || (s.thr t).p.getLsbD n

/-- A BitVec 8 with one bit set to a value. -/
def setBit8 (x : BitVec 8) (n : Nat) (b : Bool) : BitVec 8 :=
  if b then x ||| ((1 : BitVec 8) <<< n) else x &&& ~~~((1 : BitVec 8) <<< n)

/-- A predicate written: destination 0 discards (R9). -/
def State.setPred (s : State) (t n : Nat) (b : Bool) : State :=
  if n = 0 then s else s.modThr t fun th => { th with p := setBit8 th.p n b }

/-- A completion flag set or cleared. -/
def setBit12 (x : BitVec 12) (n : Nat) (b : Bool) : BitVec 12 :=
  if b then x ||| ((1 : BitVec 12) <<< n) else x &&& ~~~((1 : BitVec 12) <<< n)

def State.setFlag (s : State) (t : Nat) (f : Option Nat) (b : Bool) : State :=
  match f with
  | none => s
  | some n => s.modThr t fun th => { th with cf := setBit12 th.cf n b }

/-! ## Scope groups (R105) -/

/-- The live threads of a warp slot, by home lane. -/
def State.liveOf (s : State) (w : Nat) : List Nat :=
  ((List.range 32).map fun l => w * 32 + l).filter fun t => (s.thr t).live

/-- The warp keys of a block's non-spawned warps, by warp number. A spawned warp may hold the slot of one
whose threads have exited (R93, R303). -/
def State.blockWarps (s : State) (c : Nat) : List Nat :=
  ((List.range (s.block c).nwarps).map fun w => mkWarp c (warpSlot w) 0).filter fun w => !(s.warp w).spawned

/-- The set of a warp slot's warp (R110). -/
def State.setOf (s : State) (w : Nat) : Option Nat :=
  let wp := s.warp w
  if wp.spawned || w % 2 = 1 || isAgent (w * 32) then none
  else (List.range 4).find? fun k => bitOf ((s.block (w / 128)).sets.getD k 0) wp.no

/-- A warp key of a core that no thread has: it stands for a warp whose slot another has taken. -/
def ghostWarp (c : Nat) : Nat := mkWarp c 63 1

/-- The slot of warp n of a block, as a warp key; none where a spawned warp has taken it. -/
def State.memberKey (s : State) (c n : Nat) : Option Nat :=
  let w := mkWarp c (warpSlot n) 0
  if (s.warp w).spawned then none else some w

/-- Warp n of a block: what its slot holds, or what it held when a spawned warp took it. -/
def State.member (s : State) (c n : Nat) : Warp :=
  match s.memberKey c n with
  | some w => s.warp w
  | none => (s.block c).gone.get n Warp.empty

/-- Warp n of a block changed, wherever it stands. -/
def State.modMember (s : State) (c n : Nat) (f : Warp → Warp) : State :=
  match s.memberKey c n with
  | some w => s.modWarp w f
  | none => s.modBlock c fun b => { b with gone := b.gone.put n (f (b.gone.get n Warp.empty)) }

/-- The declared members of a set, by member index: warp numbers (R111). -/
def State.setNumbers (s : State) (c k : Nat) : List Nat := maskBits ((s.block c).sets.getD k 0) 63

/-- The warp keys of a set's member warps, by warp number (R111). -/
def State.setWarps (s : State) (c k : Nat) : List Nat := (s.setNumbers c k).filterMap (s.memberKey c)

/-- The member warps of the scope group of a thread; `none` where the scope is not legal for it. -/
def State.scopeWarps (s : State) (t : Nat) (sc : Scope) : Option (List Nat) :=
  let w := warpKeyOf t
  match sc with
  | .lane | .warp => some [w]
  | .set => (s.setOf w).map fun k => s.setWarps (coreOf t) k
  | .block => if (s.warp w).spawned || isPriv t then none else some (s.blockWarps (coreOf t))

/-- The live members of the scope group of a thread, by warp and home lane. -/
def State.scopeMembers (s : State) (t : Nat) (sc : Scope) : List Nat :=
  ((s.scopeWarps t sc).getD []).flatMap s.liveOf

/-! ## Interrupts, queues and the end of a launch -/

/-- An interrupt to the application cores. -/
def State.irq (s : State) (kind what : Nat) : State := { s with irqs := (kind, what) :: s.irqs }

/-- Interrupt kinds: slot-overdue R139, hotness R185, compositor R319, save-fault R354, reset-done R414,
firmware-fault R447, fabric refusal R398. -/
def irqSlotOverdue : Nat := 0
def irqHotness : Nat := 1
def irqCompositor : Nat := 2
def irqSaveFault : Nat := 3
def irqResetDone : Nat := 4
def irqFirmware : Nat := 5
def irqFabric : Nat := 6

/-- Every queue, as virtual device and number. -/
def State.allQueues (s : State) : List (Nat × Nat) :=
  s.vdevs.flatMap fun v => v.2.queues.map fun q => (v.1, q.1)

/-- A free hub queue slot (R138). -/
def State.freeSlot (s : State) : Option Nat :=
  let used := s.allQueues.filterMap fun q => (s.queue q.1 q.2).slot
  (List.range 64).find? fun n => !used.contains n

/-- The core numbers of a core mask, lowest first. -/
def coresOf (mask : Nat) : List Nat := maskBits mask 144

/-- The cores of a virtual device's share (R407). -/
def Vdev.shareCores (v : Vdev) : List Nat :=
  (maskBits v.share.toNat 36).flatMap fun k => [4 * k, 4 * k + 1, 4 * k + 2, 4 * k + 3]

/-- The cores that a restore uses, lowest first; `none` while too few are free. -/
def State.restoreCores (s : State) (l : Nat) (x : Launch) : Option (List Nat) :=
  let free (c : Nat) : Bool := !(s.block c).active && ((s.core c).reserved = none || (s.core c).reserved = some l)
  let share := (s.vdev x.vdev).shareCores
  let own := coresOf x.record.cores
  let n := x.installed.length
  if own.all fun c => share.contains c && free c then some own
  else
    let cs := (share.filter free).take n
    if cs.length = n then some cs else none

/-- A saved launch whose queue is bound again takes the cores of its restore, where enough are free (R352). -/
def State.pickCores (s : State) (l : Nat) : State :=
  match s.launch? l with
  | some x => (match x.phase with
    | .saved _ => s.setLaunch l { x with cores := (s.restoreCores l x).getD [] }
    | _ => s)
  | none => s

/-- A queue bound to a slot. -/
def State.bindQueue (s : State) (v q slot : Nat) : State :=
  let s := { s.modQueue v q fun x => { x with phase := 2, slot := some slot, bound := s.nextBind, overdue := false }
    with nextBind := s.nextBind + 1 }
  match (s.queue v q).current with
  | some l => s.pickCores l
  | none => s

/-- The class ceiling of a queue (R409). -/
def Queue.ceil (q : Queue) : Nat := q.ctl.toNat % 4
def Queue.enabled (q : Queue) : Bool := q.ctl.getLsbD 4
def Queue.preemptible (q : Queue) : Bool := q.ctl.getLsbD 3
def Queue.ctxid (q : Queue) : Nat := bitsOf q.ctl.toNat 31 16
def Queue.size (q : Queue) : Nat := 2 ^ (q.ring.toNat % 32)

/-- Whether an action or a freeze stops the queues of a virtual device (R413-R417). -/
def Vdev.halted (d : Vdev) : Bool := d.ctl.getLsbD 3 || d.ctl.getLsbD 2

/-- The PENDING queue that the next free slot goes to: the highest ceiling, then the first notify
(R139). -/
def State.nextPending (s : State) : Option (Nat × Nat) :=
  let ps := s.allQueues.filter fun q => (s.queue q.1 q.2).phase = 1 && !(s.vdev q.1).halted
  ps.foldl (fun best q =>
    match best with
    | none => some q
    | some b =>
      let x := s.queue q.1 q.2
      let y := s.queue b.1 b.2
      if x.ceil < y.ceil ∨ (x.ceil = y.ceil ∧ x.notified < y.notified) then some q else some b) none

/-- A freed slot goes to a PENDING queue (R138, R139 step 4) (DEDUCED, log entry 48). -/
def State.bindNext (s : State) : State :=
  match s.freeSlot, s.nextPending with
  | some n, some q => s.bindQueue q.1 q.2 n
  | _, _ => s

/-- A queue leaves its slot in a phase (DEDUCED, log entry 48). -/
def State.leaveSlot (s : State) (v q phase : Nat) : State :=
  (s.modQueue v q fun x => { x with phase := phase, slot := none }).bindNext

/-- A queue halts with an error code; its slot frees (R138, R140). -/
def State.haltQueue (s : State) (v q err : Nat) : State :=
  (s.modQueue v q fun x => { x with err := err, current := none }).leaveSlot v q 3

/-- The threads of a core's user block, trap bank included. -/
def userThread (c t : Nat) : Bool := coreOf t = c && !isAgent t

/-- The party of a core's raster writes. -/
def rasterParty (c : Nat) : Nat := 2 ^ 41 + 4096 * c

/-- The thread or unit that made a write: a thread whose slot another warp has taken stands 2^43 higher. -/
def makerOf (p : Nat) : Nat := if 2 ^ 43 ≤ p && p < 2 ^ 44 then p - 2 ^ 43 else p

/-- The core whose user block a party belongs to; none for an agent, the hub and parties that are gone. -/
def partyCore (p : Nat) : Option Nat :=
  let m := makerOf p
  if m < 2 ^ 40 then (if isAgent m then none else some (coreOf m))
  else if 2 ^ 41 ≤ m && m < 2 ^ 42 then some (coreOf (m - 2 ^ 41))
  else none

/-- The parties of a write renamed. -/
def WriteEv.mapParty (f : Nat → Nat) (e : WriteEv) : WriteEv := { e with party := f e.party, also := e.also.map f }

/-- A write of a block that has gone: no later party of its core is its writer. -/
def WriteEv.retire (c : Nat) (e : WriteEv) : WriteEv :=
  e.mapParty fun p => if partyCore p = some c then p + 2 ^ 44 else p

/-- A write of a thread that has exited: no later thread of its warp slot is its writer. -/
def WriteEv.vacate (w : Nat) (e : WriteEv) : WriteEv := e.mapParty fun p => if p / 32 = w then p + 2 ^ 43 else p

/-- Everything of a core's user block removed: its threads, warps, clauses and operations, and the history of its
scratchpad and of its barriers. -/
def State.clearBlock (s : State) (c : Nat) : State :=
  { s with
    threads := s.threads.filter fun e => !userThread c e.1
    warps := s.warps.filter fun e => !userThread c (e.1 * 32)
    issues := s.issues.filter fun e => !(e.1 / 4 = c && (match e.2.group with | t :: _ => !isAgent t | [] => true))
    halted := s.halted.filter fun e => e.1 / 4 ≠ c
    ops := s.ops.filter fun e => !userThread c e.2.thr
    wlog := (s.wlog.filter fun e => e.addr / 2 ^ 24 ≠ 2 ^ 36 + c).map (WriteEv.retire c)
    rels := s.rels.filter fun e => e.1 / 2 ^ 20 ≠ 2 ^ 20 + c
    blocks := s.blocks.del c }

/-- Requests for gates whose operation has gone are withdrawn (R230). -/
def State.pruneGates (s : State) : State :=
  let live (g : Gate) : Gate := { g with wait := g.wait.filter fun w => (s.ops.find w.2).isSome }
  { s with vdevs := s.vdevs.map fun v => (v.1, { v.2 with dgates := v.2.dgates.map fun g => (g.1, live g.2) }) }

/-- Every block of a launch removed and its cores freed. -/
def State.dropLaunch (s : State) (l : Nat) : State :=
  match s.launch? l with
  | none => s
  | some x =>
    let s1 := x.installed.foldl State.clearBlock s
    let s2 := x.reserved.foldl (fun s c => s.modCore c fun k =>
      { k with reserved := if k.reserved = some l then none else k.reserved }) s1
    s2.pruneGates |> fun s => { s with launches := s.launches.del l }

/-- A launch ended without DONE, its queue halted (R345, R384). -/
def State.abortLaunch (s : State) (l err : Nat) : State :=
  match s.launch? l with
  | none => s
  | some x => (s.dropLaunch l).haltQueue x.vdev x.queue err

/-! ## Taking an exception (R342-R347, R447) -/

/-- A fault without an address. -/
def plainFault (cls : Nat) : MemFault :=
  { cls := cls, cause := 255, stage := 0, level := 0, walk := false, va := 0, ia := 0 }

/-- A fault that fills only CAUSE (R183). -/
def causeFault (cls cause : Nat) : MemFault := { plainFault cls with cause := cause }

def clsIllegalOp : Nat := 1
def clsIllegalClause : Nat := 2
def clsIllegalScope : Nat := 3
def clsScopeMismatch : Nat := 4
def clsRegRange : Nat := 5
def clsBudget : Nat := 6
def clsAccWindow : Nat := 7
def clsPage : Nat := 8
def clsAccess : Nat := 9
def clsAlign : Nat := 10
def clsSpecOverflow : Nat := 12
def clsBracketLength : Nat := 13
def clsTrap : Nat := 14

def causeNoncanon : Nat := 0
def causeInvalid : Nat := 1
def causeFormat : Nat := 2
def causeRead : Nat := 3
def causeWrite : Nat := 4
def causeExec : Nat := 5
def causeType : Nat := 6
def causeRange : Nat := 7
def causeNotarget : Nat := 8
def causePoison : Nat := 9
def causeImport : Nat := 10

def rangeFault : MemFault := causeFault clsAccess causeRange

/-- POISON on scratchpad, constant-store or weight-buffer data (R183). -/
def localPoison : MemFault := { causeFault clsAccess causePoison with hard := true }

/-- Whether a fault is one of the translation causes that park (R183). -/
def MemFault.parks (f : MemFault) : Bool :=
  f.soft || (!f.hard && (f.cls = clsPage || f.cls = clsAccess) && f.cause ≠ causeNoncanon && f.cause ≠ causeRange
    && f.cause ≠ 255)

/-- Where a fault arose: the clause, the word, its scope and the software code and detail of its record. -/
structure FaultAt where
  hdr : BitVec 48
  word : Nat
  scope : Scope
  swcode : Nat
  detail : Dword
  /-- the group was gathered by lane, whatever the clause's scope (R105) -/
  gathered : Bool := false
  deriving DecidableEq, Repr

/-- VA of a fault's record: the page of a translation cause, else the access itself (R183) (DEDUCED, log entry 111). -/
def MemFault.recordVa (f : MemFault) : Dword := if f.parks then d64 (f.va.toNat / 4096 * 4096) else f.va

/-- The warp name of R347. -/
def State.warpName (s : State) (w : Nat) : Nat :=
  let wp := s.warp w
  if wp.spawned then 0x8000 + w / 2 % 64 else wp.no

/-- The warp slot that a warp name names. -/
def slotOfName (n : Nat) : Nat := if n ≥ 0x8000 then n - 0x8000 else warpSlot n

/-- The record of a fault that names the lanes of one warp. -/
def State.mkRec (s : State) (w : Nat) (ts : List Nat) (at_ : FaultAt) (f : MemFault) : FaultRec :=
  { cls := f.cls, cause := f.cause, stage := f.stage, level := f.level, walk := f.walk, scope := at_.scope
    word := at_.word, warp := s.warpName w, swcode := at_.swcode
    lanes := maskOf ((ts.filter fun t => warpKeyOf t = w).map laneOf), warpId := (s.warp w).no
    pc := at_.hdr, va := f.recordVa, ia := f.ia, detail := at_.detail }

/-- The twelve words of a record (R347). -/
def FaultRec.toWords (r : FaultRec) : List Word :=
  let flags := r.stage % 4 + r.level % 4 * 4 + (if r.walk then 16 else 0) + (if r.scope = .set then 32 else 0)
    + if r.scope = .block then 64 else 0
  [w32n (r.cls + r.cause * 2 ^ 8 + flags * 2 ^ 16 + r.word * 2 ^ 24), w32n (r.warp + r.swcode * 2 ^ 16), w32n r.lanes,
    w32n r.warpId, r.pc.setWidth 32, w32n (r.pc.toNat / 2 ^ 32), loW r.va, hiW r.va, loW r.ia, hiW r.ia
    , loW r.detail, hiW r.detail]

/-- A record read back from its twelve words (R347). -/
def FaultRec.ofWords (ws : List Word) : FaultRec :=
  let w (k : Nat) : Nat := (ws.getD k 0).toNat
  let flags := bitsOf (w 0) 23 16
  { cls := w 0 % 256, cause := bitsOf (w 0) 15 8, stage := flags % 4, level := flags / 4 % 4, walk := bitOf flags 4
    scope := if bitOf flags 5 then .set else if bitOf flags 6 then .block else .lane
    word := w 0 / 2 ^ 24, warp := w 1 % 2 ^ 16, swcode := w 1 / 2 ^ 16, lanes := w 2, warpId := w 3
    pc := BitVec.ofNat 48 (w 4 + 2 ^ 32 * w 5), va := d64 (w 6 + 2 ^ 32 * w 7), ia := d64 (w 8 + 2 ^ 32 * w 9)
    detail := d64 (w 10 + 2 ^ 32 * w 11) }

/-- Distinct elements, first occurrences kept. -/
def distinct (l : List Nat) : List Nat := l.foldl (fun acc x => if acc.contains x then acc else acc ++ [x]) []

/-- Insertion into a list ordered by a key. -/
def insertBy {α : Type} (key : α → Nat) (x : α) : List α → List α
  | [] => [x]
  | y :: ys => if key x < key y then x :: y :: ys else y :: insertBy key x ys

/-- A list sorted by a key, stably. -/
def sortBy {α : Type} (key : α → Nat) (l : List α) : List α := l.foldl (fun acc x => insertBy key x acc) []

/-- The records of one fault: at lane scope one for each warp, by ascending warp number; at a wider
scope one, naming the representative's warp (R345) (DEDUCED, log entry 30). -/
def State.mkRecs (s : State) (ts : List Nat) (at_ : FaultAt) (f : MemFault) : List FaultRec :=
  match ts with
  | [] => []
  | t :: _ =>
    if at_.scope = .lane || at_.gathered then
      (sortBy (fun w => (s.warp w).no) (distinct (ts.map warpKeyOf))).map fun w => s.mkRec w ts at_ f
    else [s.mkRec (warpKeyOf t) ts at_ f]

/-- A firmware fault (R447): the agent stops, the hub records the fault and interrupts. -/
def State.firmwareFault (s : State) (c cls : Nat) : State :=
  let s := s.modCore c fun k => { k with fwStopped := true }
  let s := if s.fwfault.getLsbD 63 then s
    else { s with fwfault := d64 (2 ^ 63 + cls * 256 + c) }
  s.irq irqFirmware c

/-- A double fault ends every thread of the launch; the queue halts with ERR 13 (R345). -/
def State.doubleFault (s : State) (c : Nat) : State := s.abortLaunch (s.block c).launch 13

/-- The trap bank's warp at the handler's entry, with the trap frame in s0-s5 (R346). Its warp number, and so sr.tid and
sr.warp, is the record's; it is in no set (DESIGN CHOICE, log entry 129). -/
def trapWarp (r : FaultRec) (n : Nat) : Warp :=
  { Warp.empty with
    used := true, no := r.warpId, quota := 16
    s := [(0, w32n (r.cls + 256 * r.scope.bits.toNat)), (1, w32n r.warp), (2, w32n r.lanes),
      (3, w32n r.pc.toNat), (4, w32n (r.pc.toNat / 2 ^ 32)), (5, w32n n)] }

/-- A handler thread at its entry (R345), its sr.spawnid 0xFFFFFFFF and its sr.sp 0 (DESIGN CHOICE, log entry 129). -/
def trapThread (entry : BitVec 48) : Thread := { Thread.empty with live := true, pc := entry }

/-- The handler starts when a record is queued and none runs; without a handler the fault is a double
fault (R345). -/
def State.startHandler (s : State) (c : Nat) : State :=
  let b := s.block c
  match b.recs, b.handler with
  | r :: _, none =>
    if b.trap.getLsbD 0 then
      let slot := slotOfName r.warp
      let entry := BitVec.ofNat 48 (b.trap.toNat / 4 * 4)
      let s := s.setWarp (mkWarp c slot 1) (trapWarp r b.recs.length)
      let s := (List.range 32).foldl (fun s l => s.setThr (mkThread c slot 1 l) (trapThread entry)) s
      s.modBlock c fun b => { b with handler := some slot }
    else s.doubleFault c
  | _, _ => s

/-- Records enter the queue of 32 while it has room, the others wait (R345). -/
def pushRecs (b : Block) (rs : List FaultRec) : Block :=
  let all := b.recs ++ b.waitRecs ++ rs
  { b with recs := all.take 32, waitRecs := all.drop 32 }

/-- A thread suspended at a stop point (R342); what a translation cause stopped there walks again (R179). -/
def Thread.suspend (th : Thread) (stop : Option StopAt) (again : Bool) : Thread :=
  { th with susp := true, stop := stop, npc := none, rdv := none, again := again }

/-- Threads leave the group of the clause in progress. -/
def State.dropFromIssue (s : State) (ts : List Nat) : State :=
  match s.issue with
  | none => s
  | some i => s.setIssue { i with group := i.group.filter fun t => !ts.contains t }

/-- The records of a fault of some threads: the agent's is a firmware fault, a running handler's a double
fault; any other enters the block's queue, and the handler starts if none runs (R345, R447). -/
def State.record (s : State) (ts : List Nat) (at_ : FaultAt) (f : MemFault) : State :=
  match ts with
  | [] => s
  | t :: _ =>
    let c := coreOf t
    if isAgent t then s.firmwareFault c f.cls
    else if isHandler t then s.doubleFault c
    else (s.modBlock c fun b => pushRecs b (s.mkRecs ts at_ f)).startHandler c

/-- TAKING AN EXCEPTION. The threads are suspended at the stop point and leave the clause's group; the
fault's records enter the block's queue; the handler starts if none runs (R342, R343, R345). -/
def State.raise (s : State) (ts : List Nat) (at_ : FaultAt) (f : MemFault) (stop : Option StopAt) : State :=
  ((s.dropFromIssue ts).modThrs ts fun th => th.suspend stop f.parks).record ts at_ f

/-- RETURN FROM A HANDLER (R377): the trap bank is discarded; the handler starts again while records
remain. -/
def State.endHandler (s : State) (c : Nat) : State :=
  match (s.block c).handler with
  | none => s
  | some slot =>
    let w := mkWarp c slot 1
    let s := { s with
      threads := s.threads.filter fun e => e.1 / 32 ≠ w
      warps := s.warps.del w
      ops := s.ops.filter fun e => warpKeyOf e.2.thr ≠ w }
    (s.modBlock c fun b => { b with handler := none, ending := false }).startHandler c

/-! ## Faults of the word in progress -/

/-- The literals of the word in progress. -/
def Issue.here (i : Issue) (lits : Nat) : StopAt :=
  { word := i.pos, next := i.pos + 1 + lits, count := i.head.count }

/-- Where the word in progress stands for a fault record: words count from 1 (R347). -/
def Issue.faultAt (i : Issue) : FaultAt :=
  { hdr := i.hdr, word := i.pos + 1, scope := i.scope, swcode := 0, detail := 0 }

/-- The completion flag of a long-latency word of the clause (R14). -/
def Issue.flag (i : Issue) : Option Nat :=
  if i.ll = 0 then i.head.seta else if i.ll = 1 then i.head.setb else none

/-- Next(H) (R65). -/
def Issue.nextH (i : Issue) : Nat := i.hdr.toNat + 4 * (i.head.count + 1)

/-- The threads of the group whose guard is true (R9, R64). -/
def State.guarded (s : State) (i : Issue) (p : Nat) : List Nat := i.group.filter fun t => s.pred t p

/-- Runs a meaning on the clause in progress; with none, it acts for an empty group. -/
def onIssue (s : State) (k : Issue → State) : Out :=
  match s.issue with
  | none => .next s
  | some i => .next (k i)

/-- The representative thread t0 of a wider scope (R64), when its guard is true. -/
def State.rep (s : State) (i : Issue) (p : Nat) : Option Nat :=
  match i.group with
  | [] => none
  | t :: _ => if s.pred t p then some t else none

/-- Whether a block's launch runs: its threads issue, its engines and its bins work. A launch runs once every block is
installed (R384), and stands still while it is saved (R253). -/
def State.blockRuns (s : State) (c : Nat) : Bool :=
  match s.launch? (s.block c).launch with
  | some x => x.phase = .running
  | none => true

/-- The warp keys of a core's spawned warps. -/
def State.spawnedWarps (s : State) (c : Nat) : List Nat :=
  (s.warps.filter fun e => e.1 / 128 = c && e.2.spawned).map Prod.fst

/-- The warps in which a wider scope's uniform destination is written: at block scope every warp of the block,
spawned ones among them (R9) (DEDUCED, log entry 29). -/
def State.dstWarps (s : State) (i : Issue) (t : Nat) : List Nat :=
  match s.scopeWarps t i.scope with
  | none => [warpKeyOf t]
  | some ws => if i.scope = .block then ws ++ s.spawnedWarps (coreOf t) else ws

end Sys2Proof.Machine
end

