-- ==== Sys2Proof/Machine/Peer.lean ====
section
/-! DEFINITION. The import table, the outbound keys and the proxy table (R397-R400), and the signal word that
an index of a virtual device names (R171, R408). -/

namespace Sys2Proof.Machine

/-- An import entry as a 32-byte number; an empty one is 0 (R397). -/
def State.importOf (s : State) (w : Nat) : Nat := s.imports.get w 0
/-- The outbound key word 256 m + w (R398). -/
def State.keyOf (s : State) (n : Nat) : Word := s.fabKeys.get n 0
/-- A proxy entry (R399). -/
def State.proxyAt (s : State) (n : Nat) : Dword := s.proxies.get n 0

/-- The fields of an import entry (R397). -/
def impBase (e : Nat) : Nat := bitsOf e 63 0
def impSize (e : Nat) : Nat := bitsOf e 127 64
def impVdev (e : Nat) : Nat := bitsOf e 132 128
def impRights (e : Nat) : Nat := bitsOf e 151 144
def impMask (e : Nat) : Nat := bitsOf e 159 152
def impKey (e : Nat) : Nat := bitsOf e 191 160
/-- KIND; 0 where the entry is treated as empty (R397). -/
def impKind (e : Nat) : Nat :=
  if bitsOf e 255 192 ≠ 0 ∨ 2 < bitsOf e 143 136 then 0 else bitsOf e 143 136

/-- The fields of vdev.ctl (R413). -/
def Vdev.dest (d : Vdev) : Nat := bitsOf d.ctl.toNat 7 5
def Vdev.stub (d : Vdev) : Bool := d.ctl.getLsbD 4
def Vdev.frozen (d : Vdev) : Bool := d.ctl.getLsbD 3
def Vdev.busy (d : Vdev) : Bool := d.ctl.getLsbD 2

/-- The first checks of R398: kind, source, key and right; no request passes while an action of its virtual device is in
progress, or while it is frozen without a stub (R415, R418). -/
def State.admits (s : State) (e source kind right : Nat) (key : Word) : Bool :=
  let d := s.vdev (impVdev e)
  impKind e = kind && bitOf (impMask e) source && key.toNat = impKey e && bitOf (impRights e) right
    && !d.busy && (!d.frozen || d.stub)

/-- Whether a forwarding stub takes the admitted requests of a window (R418). -/
def State.stubbed (s : State) (window : Nat) : Bool :=
  let d := s.vdev (impVdev (s.importOf window))
  d.frozen && d.stub

/-- The signal grant of a virtual device: base and count (R171, R408). -/
def State.grant (s : State) (v : Nat) : Nat × Nat :=
  let w := (s.vdev v).sig.toNat
  (w % 2 ^ 19, bitsOf w 50 32)

/-- The signal word that a request to a signal window reaches; `none` is a refusal (R398). -/
def State.ingressSignal (s : State) (source window offset right : Nat) (key : Word) : Option Nat :=
  let e := s.importOf window
  let i := impBase e % 2 ^ 19 + offset / 8
  if s.admits e source 2 right key && offset % 8 = 0 && offset / 8 < impSize e && i < (s.grant (impVdev e)).2
  then some ((s.grant (impVdev e)).1 + i) else none

/-- The fields of a proxy entry (R399). -/
def pxValid (e : Dword) : Bool := e.getLsbD 63
def pxVdev (e : Dword) : Nat := bitsOf e.toNat 62 58
def pxLocal (e : Dword) : Nat := bitsOf e.toNat 57 39
def pxModule (e : Dword) : Nat := bitsOf e.toNat 38 36
def pxWindow (e : Dword) : Nat := bitsOf e.toNat 35 28
def pxRemote (e : Dword) : Nat := bitsOf e.toNat 27 9

/-- The lowest-numbered valid proxy entry of an index (R399). -/
def State.proxyFor (s : State) (v idx : Nat) : Option (Nat × Dword) :=
  s.proxies.find? fun p => p.1 < 4096 && pxValid p.2 && pxVdev p.2 = v && pxLocal p.2 = idx

/-- Where a signal access goes (R171, R400): a word of this module, a word of another one, named by its
proxy entry, or a refusal at this module's own ingress. -/
inductive SigRoute where
  | here (i : Nat)
  | away (entry : Nat)
  | refused (entry : Nat)
  deriving DecidableEq, Repr

/-- The route of an access that needs a right: 0 READ, 1 WRITE, 2 ATOMIC. -/
def State.sigRoute (s : State) (v idx right : Nat) : SigRoute :=
  match s.proxyFor v idx with
  | none => .here ((s.grant v).1 + idx)
  | some (n, e) =>
    if pxModule e = Config.moduleNumber.toNat then
      match s.ingressSignal (pxModule e) (pxWindow e) (8 * pxRemote e) right
          (s.keyOf (256 * pxModule e + pxWindow e)) with
      | some i => if s.stubbed (pxWindow e) then .away n else .here i
      | none => .refused n
    else .away n

/-- The first number that stands for a word of another module. -/
def awayBase : Nat := 2 ^ 19

/-- The number of the word that a virtual device's index names, whatever right an access to it needs: a word of its own
grant, the exporter's where the proxy loops back, or another module's (R399, R400). -/
def State.sigIndex (s : State) (v idx : Nat) : Nat :=
  match s.proxyFor v idx with
  | none => (s.grant v).1 + idx
  | some (n, e) =>
    let p := s.importOf (pxWindow e)
    let i := impBase p % 2 ^ 19 + pxRemote e
    if pxModule e = Config.moduleNumber.toNat && !s.stubbed (pxWindow e) && impKind p = 2 && pxRemote e < impSize p
        && i < (s.grant (impVdev p)).2 then (s.grant (impVdev p)).1 + i
    else awayBase + n

end Sys2Proof.Machine
end

