-- ==== Sys2Proof/Machine/Order.lean ====
section
/-! DEFINITION. Ordering (chapter 10): objects and regions, the coherence order of writes, release and
acquire events, path crossings, and the values a read may return. -/

namespace Sys2Proof.Machine

/-! ## Paths (R174) -/

def pathLane : Nat := 0
def pathCopy : Nat := 1
def pathMtx : Nat := 2
def pathRas : Nat := 3
def pathFab : Nat := 4
def pathHost : Nat := 5
/-- The path of a write that goes through this module's own ingress: its issuing path for the writer, FAB for every other
party (R401) (DEDUCED, log entry 52). -/
def loopPath (q : Nat) : Nat := q + 16
/-- The default mask of barriers and gates: LANE, COPY, MTX, RAS (R194). -/
def maskDefault : Nat := 15
def maskAll : Nat := 63

/-! ## Objects and regions (R190-R193)

An object's key is (kind * 2^20 + qualifier) * 2^20 + index. Kinds 1-6 are those of R190; 7 is a
context's default region, 8 a core's scratchpad region, 9 a context's device fence order and 10 a core's
core fence order. -/

def objKey (kind q idx : Nat) : Nat := (kind * 2 ^ 20 + q) * 2 ^ 20 + idx
def keyKind (k : Nat) : Nat := k / 2 ^ 40
def keyQual (k : Nat) : Nat := k / 2 ^ 20 % 2 ^ 20

/-- `via` of a party's own writes, and of a finish release, which covers every region. -/
def viaOwn : Nat := 0
def viaAny : Nat := 1

/-- A thread's default region key. -/
def State.defaultObj (s : State) (t : Nat) : Nat :=
  objKey 7 ((s.tagOf t).1 * 1024 + (s.tagOf t).2) 0

/-- Whether the thread's warp is a member of barrier b (R117). -/
def State.barMember (s : State) (t b : Nat) : Bool :=
  let wp := s.warp (warpKeyOf t)
  !wp.spawned && !isPriv t && b < 28
    && (if b < 16 then bitOf ((s.block (coreOf t)).barmask.getD b 0) wp.no else true)

/-- The key of barrier b for a core's block: cluster barriers by the cluster of the first placement (DEDUCED,
log entry 39). -/
def State.barKey (s : State) (c b : Nat) : Nat :=
  let bk := s.block c
  if b < 16 then objKey 1 c b
  else if b < 24 then objKey 2 (bk.launch * 36 + bk.cluster) (b - 16)
  else objKey 3 bk.launch (b - 24)

/-- The barrier that an object word names, if its KIND is that of a barrier. -/
def objBar (w : Word) : Option Nat :=
  let idx := bitsOf w.toNat 18 0
  match bitsOf w.toNat 31 28 with
  | 1 => if idx < 16 then some idx else none
  | 2 => if idx < 8 then some (16 + idx) else none
  | 3 => if idx < 4 then some (24 + idx) else none
  | _ => none

/-- The key of an object word for the block of a thread; `none` where the word is invalid (R190). -/
def State.objIn (s : State) (t : Nat) (w : Word) : Option Nat :=
  let idx := bitsOf w.toNat 18 0
  if bitsOf w.toNat 27 19 ≠ 0 then none
  else match bitsOf w.toNat 31 28 with
  | 4 => if idx < 32 then some (objKey 4 (coreOf t) idx) else none
  | 5 => if idx < 4096 then some (objKey 5 (s.tagOf t).1 idx) else none
  | 6 => if idx < (s.grant (s.tagOf t).1).2 then some (objKey 6 0 (s.sigIndex (s.tagOf t).1 idx)) else none
  | _ => (objBar w).map (s.barKey (coreOf t))

/-- The key of an object word for a thread: invalid too where it names a barrier of which the thread's warp is no
member (R215). -/
def State.objOf (s : State) (t : Nat) (w : Word) : Option Nat :=
  match objBar w with
  | some b => if s.barMember t b then s.objIn t w else none
  | none => s.objIn t w

/-- The object that a region list binds an address to for a thread's block, whichever of its warps makes the
access; the default region otherwise (R191). -/
def State.objAt (s : State) (t : Nat) (rs : List Region) (va : Nat) : Nat :=
  match rs.find? fun r => r.base ≤ va && va < r.base + r.size with
  | some r => (s.objIn t r.obj).getD (s.defaultObj t)
  | none => s.defaultObj t

/-- The object of the region that a block's list binds an address to now (R191). -/
def State.regionObj (s : State) (t va : Nat) : Nat := s.objAt t (s.block (coreOf t)).regions va

/-- The scratchpad region of a core. -/
def scratchObj (c : Nat) : Nat := objKey 8 c 0

/-- The object of a launch's conflict entries on a handle (R368): its kind lies above every other. -/
def specObj (launch : Nat) (handle : Dword) : Nat := (handle.toNat + 2 ^ 64 * (launch + 1)) * 2 ^ 60

/-- Whether a region with key `reg` is bound to object `obj`: the scratchpad region to every block
barrier and core gate of its core, the default region to its fences and to entry removals (R193, R201, R234,
R368). -/
def boundTo (reg obj : Nat) : Bool :=
  reg = obj
    || (keyKind reg = 8 && (keyKind obj = 1 || keyKind obj = 4) && keyQual reg = keyQual obj)
    || (keyKind reg = 7 && keyKind obj = 9 && keyQual reg = keyQual obj)
    || (keyKind reg = 7 && (keyKind obj = 10 || 2 ^ 20 ≤ keyKind obj))

/-! ## Memory spaces: physical memory, and scratchpad bytes above 2^60 -/

def scratchBase : Nat := 2 ^ 60
/-- The log address of a scratchpad byte. -/
def scratchAddr (c off : Nat) : Nat := scratchBase + c * 2 ^ 24 + off

/-- A byte of a core's constant store, and one of its weight buffer, as the list of poisoned bytes names them. -/
def constAddr (c off : Nat) : Nat := 2 ^ 61 + c * 2 ^ 24 + off
def wbufAddr (c off : Nat) : Nat := 2 ^ 62 + c * 2 ^ 24 + off
/-- A byte of a core's accumulator storage, and a vector register of a thread, under the same names. -/
def accEcc (c off : Nat) : Nat := 2 ^ 63 + c * 2 ^ 24 + off
def regEcc (t r : Nat) : Nat := 2 ^ 64 + 512 * t + 4 * r

/-- The newest value of a byte. -/
def State.byteAt (s : State) (a : Nat) : Byte :=
  if a < scratchBase then s.mem.read a else s.scratch.read (a - scratchBase)

/-- The newest value of n bytes. -/
def State.bytesAt (s : State) (a : Nat) : Nat → List Byte
  | 0 => []
  | n + 1 => s.byteAt a :: State.bytesAt s (a + 1) n

/-- Bytes put in their space. -/
def State.putBytes (s : State) (a : Nat) (bs : List Byte) : State :=
  if a < scratchBase then { s with mem := s.mem.writeN a bs }
  else { s with scratch := s.scratch.writeN (a - scratchBase) bs }

/-- A write of a party and of further threads whose reductions it combines: it takes its place at the end of the
coherence order (R199, R206) (DEDUCED, log entry 50). -/
def State.writeAll (s : State) (party : Nat) (also : List Nat) (path obj a : Nat) (bs : List Byte) : State :=
  let e : WriteEv :=
    { serial := s.serial + 1, addr := a, old := s.bytesAt a bs.length, new := bs
      path := if path < 16 then path else pathFab, party := party, obj := obj, also := also, home := path % 16 }
  { s.putBytes a bs with wlog := e :: s.wlog, serial := s.serial + 1 }

/-- A write of one party (R199). -/
def State.write (s : State) (party path obj a : Nat) (bs : List Byte) : State := s.writeAll party [] path obj a bs

/-! ## Visibility (R196-R199) -/

/-- Whether a write is one of its thread's own LANE writes. A combined reduction is a write of each thread whose addend
it holds, and a wider scope's write one of every member (R206, R216). -/
def WriteEv.ownLane (e : WriteEv) (t : Nat) : Bool := (e.party = t || e.also.contains t) && e.home = pathLane

/-- The path that a write seen has for its reader: the issuing path for its own party (R401) (DEDUCED, log entry 52). -/
def WriteEv.pathFor (e : WriteEv) (z : Seen) : Nat := if z.via = viaOwn then e.home else e.path

/-- The reader paths of a seen write that a release hands on: a party's own write through this module's own ingress is a
FAB write for others, whatever path it has for the party itself (R401). -/
def WriteEv.handedOn (e : WriteEv) (z : Seen) : Nat := if z.via = viaOwn && e.home ≠ e.path then 2 ^ e.path else z.paths

/-- The write with a serial. -/
def State.writeEv (s : State) (n : Nat) : Option WriteEv := s.wlog.find? fun e => e.serial = n

/-- Whether a write touches the n bytes at a. -/
def WriteEv.touches (e : WriteEv) (a n : Nat) : Bool := e.addr < a + n && a < e.addr + e.new.length

/-- The own byte of a write at an address, after or before it. -/
def WriteEv.byte (l : List Byte) (base a : Nat) : Option Byte := if base ≤ a then l[a - base]? else none

/-- The value of one byte after write k: the last write at or before k, else what the first later write
found, else the byte as it stands. The log is newest first. -/
def byteAtVersion (log : List WriteEv) (k a : Nat) (cur : Byte) : Byte :=
  match log with
  | [] => cur
  | e :: r =>
    if e.serial ≤ k then
      match WriteEv.byte e.new e.addr a with
      | some b => b
      | none => byteAtVersion r k a cur
    else
      match WriteEv.byte e.old e.addr a with
      | some b => byteAtVersion r k a b
      | none => byteAtVersion r k a cur

/-- The reader paths on which the thread's own write is visible: its LANE path, and what XFENCE added. -/
def Thread.pathsOf (th : Thread) (serial : Nat) : Nat :=
  th.seen.foldl (fun m z => if z.serial = serial then m ||| z.paths else m) 0

/-- Whether write e is visible to a read by thread t on path q of a byte in region `reg` (R197). -/
def State.visible (s : State) (t q reg : Nat) (e : WriteEv) : Bool :=
  let th := s.thr t
  (e.ownLane t && q = pathLane)
    || th.seen.any fun z => z.serial = e.serial && bitOf z.paths q
        && (z.via = viaOwn || z.via = viaAny || boundTo reg z.via)

/-- The latest write of the n bytes at a that is visible to the thread's read on a path (R197). -/
def State.floorOf (s : State) (t q reg a n : Nat) : Nat :=
  s.wlog.foldl (fun m e => if e.touches a n && s.visible t q reg e then max m e.serial else m) 0

/-- The floors of the units of a read of n bytes: halves of 8 bytes where n is 16 (R84). -/
def State.floorsOf (s : State) (t q reg a n : Nat) : List Nat :=
  if n ≤ 8 then [s.floorOf t q reg a n] else [s.floorOf t q reg a 8, s.floorOf t q reg (a + 8) (n - 8)]

/-- The writes that a read of the n bytes at a may return, given its floor and the last serial before its issue: none
below the floor, none earlier than the party has read, and none from the first later write of the same thread on (R13,
R97, R199) (DESIGN CHOICE, log entry 11). -/
def State.versions (s : State) (t fl a n issued : Nat) : List Nat :=
  let own := s.wlog.filter fun e => e.ownLane t && e.touches a n && issued < e.serial
  let top := own.foldl (fun m e => min m e.serial) (s.serial + 1)
  let read := (s.thr t).lastRead.get (a / 8) 0
  let fl := max fl (if read < top then read else 0)
  ((s.wlog.filter fun e => e.touches a n && fl < e.serial && e.serial < top).map fun e => e.serial) ++ [fl]

/-- A party has read the write with a serial in a unit, and reads none earlier there again (R199). -/
def State.markRead (s : State) (t a k : Nat) : State :=
  s.modThr t fun th => { th with lastRead := th.lastRead.put (a / 8) (max k (th.lastRead.get (a / 8) 0)) }

/-- One single-copy atomic read of n bytes, at most 8, in one aligned 8-byte unit (R84, R199) (DESIGN CHOICE,
log entry 11). -/
def State.readUnit (s : State) (t fl a n issued : Nat) : List Byte × State :=
  if s.wlog.all fun e => !e.touches a n then (s.bytesAt a n, s)
  else
    let vs := s.versions t fl a n issued
    let c := if vs.length = 1 then (0, s) else s.choose vs.length
    let k := vs.getD c.1 0
    ((List.range n).map (fun i => byteAtVersion s.wlog k (a + i) (s.byteAt (a + i))), c.2.markRead t a k)

/-- A read of n bytes: in halves of 8 bytes where n is 16 (R84). -/
def State.readData (s : State) (t : Nat) (fls : List Nat) (a n issued : Nat) : List Byte × State :=
  if n ≤ 8 then s.readUnit t (fls.headD 0) a n issued
  else
    let r1 := s.readUnit t (fls.headD 0) a 8 issued
    let r2 := r1.2.readUnit t (fls.getD 1 0) (a + 8) (n - 8) issued
    (r1.1 ++ r2.1, r2.2)

/-- An atomic's read of the newest value: no later read of its party goes back behind it (R199, R204). -/
def State.readNewest (s : State) (t a n : Nat) : State :=
  match s.wlog.find? fun e => e.touches a n with
  | some e => s.markRead t a e.serial
  | none => s

/-! ## Release and acquire (R194-R198) -/

/-- Merges visible writes: one entry for each write and object. -/
def addSeen (l : List Seen) (z : Seen) : List Seen :=
  match l with
  | [] => [z]
  | y :: r =>
    if y.serial = z.serial && y.via = z.via then { y with paths := y.paths ||| z.paths } :: r
    else y :: addSeen r z

/-- The writes of a thread that a release of an object with a mask covers (R196). -/
def State.covered (s : State) (t obj mask : Nat) (any : Bool) : List Seen :=
  let th := s.thr t
  let own := (s.wlog.filter fun e => e.ownLane t && bitOf mask pathLane
      && (any || boundTo e.obj obj)).map
    fun e => { serial := e.serial, paths := 2 ^ e.path ||| (if e.home = e.path then th.pathsOf e.serial else 0)
               via := obj : Seen }
  th.seen.foldl (fun l z =>
    match s.writeEv z.serial with
    | some e =>
      if bitOf mask (e.pathFor z) && (any || boundTo e.obj obj) then addSeen l { z with paths := e.handedOn z, via := obj }
      else l
    | none => l) own

/-- The release events of an object so far; a gate's stand at 1, 2, … in its order (R194). -/
def State.relCount (s : State) (obj : Nat) : Nat := (s.rels.get obj []).length

/-- A release event at a place in an object's order. -/
def State.releaseAt (s : State) (obj pos : Nat) (ws : List Seen) : State :=
  { s with rels := s.rels.put obj (s.rels.get obj [] ++ [{ pos := pos, writes := ws }]) }

/-- The pending RELs of a thread on an object: whether there is one, and the writes covered. -/
def Thread.pending (th : Thread) (obj : Nat) : Bool × List Seen :=
  let ps := th.pendRel.filter fun p => p.1 = obj
  (!ps.isEmpty, ps.foldl (fun l p => p.2.2.foldl addSeen l) [])

/-- Pending RELs used up. -/
def State.dropPending (s : State) (t obj : Nat) : State :=
  s.modThr t fun th => { th with pendRel := th.pendRel.filter fun p => p.1 ≠ obj }

/-- The release event of an arrival or of a GATE.REL: the default mask, and the pending RELs (R194,
R195). -/
def State.releaseObj (s : State) (t obj pos : Nat) : State :=
  let ws := ((s.thr t).pending obj).2.foldl addSeen (s.covered t obj maskDefault false)
  (s.dropPending t obj).releaseAt obj pos ws

/-- REL (R195): the writes placed before it, on the paths of M, wait for the object's next operation. -/
def State.relPending (s : State) (t obj mask : Nat) : State :=
  let ws := s.covered t obj mask false
  s.modThr t fun th => { th with pendRel := th.pendRel ++ [(obj, mask, ws)] }

/-- An acquire event that covers the release events of an object up to a place (R194, R197). -/
def State.acquire (s : State) (t obj upto mask : Nat) : State :=
  let evs := (s.rels.get obj []).filter fun e => e.pos ≤ upto
  let zs := evs.flatMap fun e => e.writes.filter fun z =>
    match s.writeEv z.serial with
    | some w => bitOf mask w.path
    | none => false
  s.modThr t fun th => { th with
    seen := zs.foldl (fun l z => addSeen l { z with via := if z.via = viaAny then viaAny else obj }) th.seen
    covered := th.covered.put obj (upto + 1) }

/-- XFENCE (R198): writes on SRC paths visible to the thread become visible to its DST accesses. -/
def State.xfence (s : State) (t src dst : Nat) : State :=
  let own := (s.wlog.filter fun e => e.ownLane t && bitOf src pathLane).map
    fun e => { serial := e.serial, paths := dst, via := viaOwn : Seen }
  s.modThr t fun th =>
    let moved := th.seen.map fun z =>
      match s.writeEv z.serial with
      | some e => if bitOf src (e.pathFor z) then { z with paths := z.paths ||| dst } else z
      | none => z
    { th with seen := own.foldl addSeen moved }

/-- Observing the completion of engine commands tied to a flag (R196): their writes become the party's
own on their path. -/
def State.observe (s : State) (t : Nat) (flags : Nat → Bool) : State :=
  let th := s.thr t
  let hits := (th.unobs.filter fun u => flags u.1).flatMap Prod.snd
  let zs := hits.filterMap fun n => (s.writeEv n).map fun e =>
    { serial := n, paths := 2 ^ e.home, via := viaOwn : Seen }
  if hits.isEmpty then s
  else s.modThr t fun th => { th with
    seen := zs.foldl addSeen th.seen, unobs := th.unobs.filter fun u => !flags u.1 }

/-- The releases of an object so far come before every later place in its order (R120). -/
def State.foldReleases (s : State) (obj : Nat) : State :=
  { s with rels := s.rels.map fun r => if r.1 = obj then (r.1, r.2.map fun e => { e with pos := 0 }) else r }

/-- The release half of a fence: a core fence hands a write on to LANE readers alone, whatever an XFENCE has added
(R201, R234). -/
def State.fenceRelease (s : State) (t : Nat) (device : Bool) : State :=
  let obj := if device then objKey 9 (keyQual (s.defaultObj t)) 0 else objKey 10 (coreOf t) 0
  let ws := (s.covered t (s.defaultObj t) (if device then maskAll else 1) false).map
    fun z => { z with via := obj, paths := if device then z.paths else z.paths &&& 1 }
  s.releaseAt obj 0 ws

/-- The acquire half of a fence: every earlier fence of the order. -/
def State.fenceAcquire (s : State) (t : Nat) (device : Bool) : State :=
  let obj := if device then objKey 9 (keyQual (s.defaultObj t)) 0 else objKey 10 (coreOf t) 0
  s.acquire t obj 0 (if device then maskAll else 1)

end Sys2Proof.Machine
end

