-- ==== Sys2Proof/Machine/Signals.lean ====
section
/-! DEFINITION. Signal words (R171, R231-R233), the latching of launch conditions and tickets (R141). -/

namespace Sys2Proof.Machine

/-- The condition codes of WAIT and SIG.WAIT (R133, R233). -/
def condHolds (code : Nat) (w v : Dword) : Bool :=
  match code with
  | 0 => w = v
  | 1 => w ≠ v
  | 2 => v.toNat ≤ w.toNat
  | _ => w.toNat < v.toNat

/-- A signal word by its number in the window. -/
def State.signal (s : State) (i : Nat) : Dword := s.signals.get i 0

/-- The index of a signal access and the right it needs at an ingress (R398): 0 READ, 1 WRITE, 2 ATOMIC. -/
def Acc.signal : Acc → Option (Nat × Nat)
  | .sigLd idx _ | .sigWait idx _ _ _ => some (idx, 0)
  | .sigSt idx _ => some (idx, 1)
  | .sigAdd idx _ _ | .sigCas idx _ _ _ => some (idx, 2)
  | _ => none

/-- Whether a virtual device's requests for a signal index are still to be acknowledged by a target that its proxy
entry names no longer; a SIG.WAIT stays with the word where it waits, and holds nothing back (R403, R419). -/
def State.turning (s : State) (v idx : Nat) : Bool :=
  s.ops.any fun e =>
    (match e.2.acc.acc with
      | .sigWait .. => false
      | a => match a.signal with | some (k, _) => k = idx | none => false)
      && (s.tagOf e.2.thr).1 = v && awayBase ≤ e.2.pa
      && (e.2.pa ≠ s.sigIndex v idx || (s.turned.get (e.2.pa - awayBase) []).contains e.1)

/-- The window word of the ticket counter: word 0 of the hub's reserved words (R141, R171) (DEDUCED, log entry 27). -/
def ticketWord : Nat := 0

/-- Whether a condition tests true now. A word of another module is tested there (R400): whether it holds
is free (DESIGN CHOICE, log entry 16). A test that this module's ingress refuses is none, and none passes to a new target
before the old one has acknowledged (R398, R419). -/
def State.testCond (s : State) (x : Launch) (k : Nat) (e : Nat × Nat × Dword) : Bool :=
  !s.turning x.vdev e.1 && match s.sigRoute x.vdev e.1 0 with
    | .here i => condHolds e.2.1 (s.signal i) e.2.2
    | .refused _ => false
    | .away _ => Config.freeNat (s.free + k) % 2 = 1

/-- A waiting launch's conditions tested now; a latched one stays latched (R141). -/
def State.latch (s : State) (x : Launch) : Launch :=
  { x with latched := (List.range x.latched.length).map fun k =>
      x.latched.getD k false || s.testCond x k (x.record.waits.getD k (0, 0, 0)) }

/-- The releases of the word of the condition that a test latched last (R202) (DEDUCED, log entry 76). -/
def State.latchSeen (s : State) (x y : Launch) : List Seen :=
  let new := (List.range y.latched.length).filter fun k => y.latched.getD k false && !x.latched.getD k false
  match new.getLast? with
  | none => []
  | some k =>
    let obj := objKey 6 0 (s.sigIndex x.vdev (x.record.waits.getD k (0, 0, 0)).1)
    (s.rels.get obj []).flatMap fun e => e.writes.map fun z =>
      { z with via := if z.via = viaAny then viaAny else obj }

/-- Tests a launch's conditions and gives it a ticket once all are latched; placing acquires the releases
that precede the latching (R141, R202). -/
def State.latchLaunch (s : State) (l : Nat) : State :=
  match s.launch? l with
  | none => s
  | some x =>
    if x.phase = .waiting && !(s.vdev x.vdev).halted then
      let y := s.latch x
      let s : State := { s with free := s.free + 4 }
      if y.latched.all id then
        let n := s.signal ticketWord + 1
        { s.setLaunch l { y with phase := .ticketed, ticket := some n.toNat, acquired := s.latchSeen x y } with
          signals := s.signals.put ticketWord n }
      else s.setLaunch l y
    else s

/-- Whether a thread's launch is being saved, stands saved, or is being restored (R350). -/
def State.away (s : State) (t : Nat) : Bool :=
  !isAgent t && match s.launch? (s.block (coreOf t)).launch with
    | some x => (match x.phase with | .saving .. | .saved _ | .restoring .. => true | _ => false)
    | none => false

/-- SIG.WAIT operations on a word tested after a write: the first test that is true completes. One that a
pre-emption has saved is tested afresh on resumption alone (R233). -/
def State.testWaits (s : State) (i : Nat) : State :=
  { s with ops := s.ops.map fun e =>
      match e.2.acc.acc, e.2.result with
      | .sigWait _ cond v _, none =>
        if e.2.pa = i && !s.away e.2.thr && condHolds cond (s.signal i) v then
          (e.1, { e.2 with result := some [loW (s.signal i), hiW (s.signal i)], serial := s.sigMods.get i 0 })
        else e
      | _, _ => e }

/-- SIG.WAITs of other modules on a word tested after a write: those that hold are answered (R233, R400). -/
def State.testFabWaits (s : State) (i : Nat) : State :=
  let holds (w : Nat × Nat × Dword) : Bool := w.1 = i && condHolds w.2.1 (s.signal i) w.2.2
  { s with
    fabWaits := s.fabWaits.filter fun w => !holds w
    fabAnswers := (s.fabWaits.filter holds).map (fun _ => .done (bytesOfNat 8 (s.signal i).toNat)) ++ s.fabAnswers }

/-- The modification order of a word grows. -/
def State.bumpMods (s : State) (i : Nat) : State := { s with sigMods := s.sigMods.put i (s.sigMods.get i 0 + 1) }

/-- The conditions of every waiting launch tested (R141). -/
def State.testConds (s : State) : State := (s.launches.keys).foldl State.latchLaunch s

/-- A write of a signal word: its modification order grows, waits and launch conditions are tested. -/
def State.sigWrite (s : State) (i : Nat) (v : Dword) : State :=
  let s := { s with signals := s.signals.put i v }.bumpMods i
  ((s.testWaits i).testFabWaits i).testConds

/-- The interrupts of a launch's conditions that this module's own ingress refuses, as its record is checked (R398,
R403). -/
def State.refusedConds (s : State) (l : Nat) : State :=
  match s.launch? l with
  | none => s
  | some x => x.record.waits.foldl (fun s e =>
      match s.sigRoute x.vdev e.1 0 with
      | .refused n => s.irq irqFabric (pxWindow (s.proxyAt n))
      | _ => s) s

/-- The release of a write of an object by its party, a thread or the live members of a wider scope: made where one of
them has a REL pending, with what all of their RELs cover (R194, R195). -/
def State.releasePending (s : State) (ts : List Nat) (obj pos : Nat) : State :=
  let ps := ts.map fun t => (s.thr t).pending obj
  if ps.any Prod.fst then
    (ts.foldl (fun s t => s.dropPending t obj) s).releaseAt obj pos (ps.foldl (fun l p => p.2.foldl addSeen l) [])
  else s

/-- The party of a module's writes at this module's memory. -/
def moduleParty (m : Nat) : Nat := 2 ^ 42 + m

/-- What a module's releasing write of a word covers of its own writes here: those of the regions that its contexts bind
to the word, which are not known here, so that any of them may be covered; whether it releases at all is free too (R400,
R401) (DESIGN CHOICE, log entry 102). -/
def State.moduleRelease (s : State) (i m : Nat) : State :=
  let c := s.choose 2
  let ws := ((s.wlog.filter fun e => e.party = moduleParty m).zipIdx.filter fun e =>
    Config.freeNat (c.2.free + e.2) % 2 = 1).map fun e =>
      { serial := e.1.serial, paths := 2 ^ pathFab, via := viaAny : Seen }
  if c.1 = 0 then c.2
  else { c.2 with free := c.2.free + s.wlog.length }.releaseAt (objKey 6 0 i) (s.sigMods.get i 0 + 1) ws

/-- Writes of another module's word by modules other than this one, as far as they are seen here: some release what
they wrote in this module's memory (R400, R401) (DESIGN CHOICE, log entry 102). -/
def State.peerWrites (s : State) (n : Nat) : State :=
  ((List.range 8).filter fun m => m ≠ Config.moduleNumber.toNat).foldl (fun s m => (s.moduleRelease n m).bumpMods n) s

/-- A write of a signal index by the hub for a virtual device: at its word, at another module, or refused with the
fabric-fault interrupt (R398, R400); it carries a release of what is given (R143, R202). -/
def State.hubSignal (s : State) (v idx : Nat) (add : Bool) (w : Dword) (ws : List Seen) : State :=
  match s.sigRoute v idx (if add then 2 else 1) with
  | .here i =>
    (s.releaseAt (objKey 6 0 i) (s.sigMods.get i 0 + 1) ws).sigWrite i (if add then s.signal i + w else w)
  | .away n => (s.releaseAt (objKey 6 0 (awayBase + n)) (s.sigMods.get (awayBase + n) 0 + 1) ws).bumpMods (awayBase + n)
  | .refused n => s.irq irqFabric (pxWindow (s.proxyAt n))

/-- A party's write of a signal word: releasing when a REL on the word is pending (R194, R195). -/
def State.sigWriteBy (s : State) (ts : List Nat) (i : Nat) (v : Dword) : State :=
  (s.releasePending ts (objKey 6 0 i) (s.sigMods.get i 0 + 1)).sigWrite i v

end Sys2Proof.Machine
end

