-- ==== Sys2Proof/Machine/Groups.lean ====
section
/-! DEFINITION. Join masks (R115), hardware barriers (R117-R121), the exit of a thread (R93) and the
finish of a launch (R143). -/

namespace Sys2Proof.Machine

/-! ## Join masks -/

/-- Whether a clause in progress, or one that a pre-emption has stopped between two words, has a thread in its
group (R11). -/
def State.inClause (s : State) (t : Nat) : Bool :=
  s.issues.any (fun e => e.2.group.contains t) || s.halted.any fun e => e.2.group.contains t

/-- Whether a thread stands between two words of a clause: what the clause's words hold it for begins at the
clause's end (R145). -/
def State.midClause (s : State) (t : Nat) : Bool := (s.thr t).stop.isSome || s.inClause t

/-- Whether a thread is held at a JWAIT that names n: its clause has ended, and it is not parked (R116, R145). -/
def State.heldAt (s : State) (n t : Nat) : Bool :=
  (s.thr t).jwait.contains n && !(s.thr t).parked && !s.midClause t

/-- The release test of join register n of a warp: when every thread whose bit is set is held at a JWAIT
that names n, all of them are released (R115). -/
def State.joinTest (s : State) (w n : Nat) : State :=
  let mask := ((s.warp w).j.get n 0).toNat
  let ts := (maskBits mask 32).map fun l => w * 32 + l
  if !ts.isEmpty && ts.all (s.heldAt n) then
    s.modThrs ts fun th => { th with jwait := th.jwait.filter fun k => k ≠ n }
  else s

/-- A thread's bit cleared in the join registers of a list, each with its release test. -/
def State.joinLeave (s : State) (t : Nat) (list : List Nat) : State :=
  let w := warpKeyOf t
  let s := list.foldl (fun s n => s.modWarp w fun wp =>
    { wp with j := wp.j.put n (wp.j.get n 0 &&& ~~~((1 : Word) <<< laneOf t)) }) s
  list.foldl (fun s n => s.joinTest w n) s

/-- JWAIT: a thread whose bit is set is held from the end of its clause on (R115, R145, R147). -/
def State.joinWait (s : State) (t n : Nat) : State :=
  if ((s.warp (warpKeyOf t)).j.get n 0).getLsbD (laneOf t) then
    s.modThr t fun th => { th with jwait := th.jwait ++ [n] }
  else s

/-- The release tests of what some threads are held at, made where their clause ends or they go on (R115, R145). -/
def State.joinTests (s : State) (ts : List Nat) : State :=
  ts.foldl (fun s t => (s.thr t).jwait.foldl (fun s n => s.joinTest (warpKeyOf t) n) s) s

/-! ## Barriers -/

/-- The cores of a launch whose block was first placed in a cluster. -/
def State.coresOfCluster (s : State) (l cl : Nat) : List Nat :=
  match s.launch? l with
  | none => []
  | some x => x.installed.filter fun c => (s.block c).cluster = cl

/-- The live member threads of barrier b for core c's block. -/
def State.barMembers (s : State) (c b : Nat) : List Nat :=
  let bk := s.block c
  let cores := if b < 16 then [c] else if b < 24 then s.coresOfCluster bk.launch bk.cluster
    else match s.launch? bk.launch with | some x => x.installed | none => [c]
  cores.flatMap fun c => (s.blockWarps c).flatMap fun w =>
    if s.barMember (w * 32) b then s.liveOf w else []

/-- A barrier as it stands: the state last stored, else the launch state (R118). -/
def State.barrier (s : State) (c b : Nat) : Barrier :=
  let bk := s.block c
  let stored := if b < 16 then bk.bars.find b
    else match s.launch? bk.launch with
    | none => none
    | some x => if b < 24 then x.cbars.find (bk.cluster * 8 + (b - 16)) else x.gbars.find (b - 24)
  match stored with
  | some x => x
  | none => let n := (s.barMembers c b).length; { phase := 0, count := 0, expected := n, later := n }

def State.setBarrier (s : State) (c b : Nat) (x : Barrier) : State :=
  if b < 16 then s.modBlock c fun bk => { bk with bars := bk.bars.put b x }
  else if b < 24 then s.modLaunch (s.block c).launch fun l =>
    { l with cbars := l.cbars.put ((s.block c).cluster * 8 + (b - 16)) x }
  else s.modLaunch (s.block c).launch fun l => { l with gbars := l.gbars.put (b - 24) x }

/-- A thread released from the completed phase of a barrier: BAR.SYNC and BAR.WAIT acquire (R194). -/
def State.barRelease (s : State) (b ph : Nat) (t : Nat) : State :=
  let th := s.thr t
  if th.bwait.contains (b, ph) then
    let s := s.modThr t fun th => { th with bwait := th.bwait.filter fun p => p ≠ (b, ph) }
    s.acquire t (s.barKey (coreOf t) b) (ph + 1) maskDefault
  else s

/-- One arrival counted in the pending phase, with its release event, which stands at the phase's number plus one
(R118, R194). -/
def State.countArrival (s : State) (t b : Nat) (sync : Bool) : State :=
  let c := coreOf t
  let x := s.barrier c b
  let s := s.releaseObj t (s.barKey c b) (x.phase + 1)
  let s := s.modThr t fun th => { th with
    arr := th.arr.put b x.phase
    bwait := if sync then th.bwait ++ [(b, x.phase)] else th.bwait }
  s.setBarrier c b { x with count := x.count + 1 }

/-- The first arrival of a thread that waited for the phase just completed arrives in the pending one; any further
one waits for that (R118). -/
def State.rearmed (s : State) (t b : Nat) : State :=
  let ph := (s.barrier (coreOf t) b).phase
  match (s.thr t).rearm.find? fun r => r.1 = b with
  | none => s
  | some (_, _, sync) =>
    (s.modThr t fun th => { th with
      rearm := (th.rearm.eraseP fun r => r.1 = b).map fun r => if r.1 = b then (b, ph, r.2.2) else r }).countArrival
      t b sync

/-- Phases that one arrival can complete in turn: a clause has at most 15 words. -/
def barFuel : Nat := 17

/-- The phase completes when the count reaches the expected count: the held threads are released, and
threads held at a second arrival arrive in the next phase, which may complete in turn (R118). -/
def State.barTest (s : State) (c b : Nat) : Nat → State
  | 0 => s
  | fuel + 1 =>
    let x := s.barrier c b
    if 0 < x.count && x.count ≥ x.expected then
      let ts := s.barMembers c b
      let s := s.setBarrier c b { phase := (x.phase + 1) % 2 ^ 32, count := 0, expected := x.later, later := x.later }
      let s := ts.foldl (fun s t => s.barRelease b x.phase t) s
      (ts.foldl (fun s t => s.rearmed t b) s).barTest c b fuel
    else s

/-- An arrival of a thread whose earlier stores have been performed (R118). -/
def State.arriveNow (s : State) (t b : Nat) (sync : Bool) : State :=
  let c := coreOf t
  let ph := (s.barrier c b).phase
  if (s.thr t).arr.find b = some ph then
    s.modThr t fun th => { th with rearm := th.rearm ++ [(b, ph, sync)] }
  else (s.countArrival t b sync).barTest c b barFuel

/-- Whether an access writes on the LANE path (R196). -/
def Acc.writes : Acc → Bool
  | .store .. | .sts .. | .atom .. | .red .. | .tbSt .. | .tbBlend .. | .depthT .. | .arrive .. => true
  | _ => false

/-- The accesses that wait in some thread and that a thread made, or made with others at a wider scope. -/
def State.waitsOf (s : State) (t : Nat) : List Access :=
  s.threads.flatMap fun e => e.2.deferred.filter fun a => e.1 = t || a.members.contains t

/-- Whether an access decides what its thread's next arrival releases: a write, a REL, or an XFENCE (R195, R198,
R217). -/
def Acc.beforeArrival : Acc → Bool
  | .rel .. | .xfence .. => true
  | a => a.writes

/-- Whether an XFENCE that a thread takes part in is outstanding (R198). -/
def State.crossing (s : State) (t : Nat) : Bool :=
  s.ops.any fun e => (match e.2.acc.acc with | .xfence .. => true | _ => false)
    && (e.2.thr = t || e.2.acc.members.contains t)

/-- A thread arrives at barrier b; a second arrival in one phase is held and arrives in the next (R118). The arrival
is a release, performed after every write that it covers: behind writes and RELs that are held, and behind an XFENCE, it
waits with them (R195, R198, R217) (DEDUCED, log entry 116). -/
def State.barArrive (s : State) (t b : Nat) (sync : Bool) : State :=
  if s.crossing t || (s.waitsOf t).any fun a => a.acc.beforeArrival then
    let a : Access :=
      { acc := .arrive b sync, flag := none, hdr := (s.thr t).pc, word := 0, scope := .lane, members := [t]
        warps := [], seq := s.nextOp }
    { s.modThr t fun th => { th with deferred := th.deferred ++ [a] } with nextOp := s.nextOp + 1 }
  else s.arriveNow t b sync

/-- An arrival made to hold its thread. -/
def Access.syncAt (b : Nat) (a : Access) : Access :=
  match a.acc with
  | .arrive n x => { a with acc := .arrive n (x || n = b) }
  | _ => a

/-- Whether an arrival of a thread at barrier b waits behind its stores. -/
def Thread.arriving (th : Thread) (b : Nat) : Bool :=
  th.deferred.any fun a => match a.acc with | .arrive n _ => n = b | _ => false

/-- BAR.WAIT: held until the phase of the last arrival completes; an arrival that still waits then holds the thread
(R118). -/
def State.barWait (s : State) (t b : Nat) : State :=
  let c := coreOf t
  if (s.thr t).arriving b then
    s.modThr t fun th => { th with deferred := th.deferred.map (Access.syncAt b) }
  else if (s.thr t).rearm.any fun r => r.1 = b then
    s.modThr t fun th => { th with rearm := th.rearm.map fun r => if r.1 = b then (r.1, r.2.1, true) else r }
  else match (s.thr t).arr.find b with
  | none => s
  | some ph =>
    if ph = (s.barrier c b).phase then s.modThr t fun th => { th with bwait := th.bwait ++ [(b, ph)] }
    else (s.modThr t fun th => { th with arr := th.arr.del b }).acquire t (s.barKey c b) (ph + 1) maskDefault

/-- The effect of one exit on barrier b (R119). -/
def State.barExit (s : State) (t b : Nat) : State :=
  let c := coreOf t
  if s.barMember t b then
    let x := s.barrier c b
    let arrived := (s.thr t).arr.find b = some x.phase || (s.thr t).arriving b
    s.setBarrier c b { x with
      expected := if arrived then x.expected else x.expected - 1, later := x.later - 1 }
  else s

/-- BAR.INIT: the launch state, and every record of an arrival erased (R120, R151). The arrivals so far precede
every phase that is to come (R194). -/
def State.barInit (s : State) (c b : Nat) : State :=
  let ts := s.barMembers c b
  let obj := s.barKey c b
  let s := s.modThrs ts fun th => { th with
    arr := th.arr.del b
    deferred := th.deferred.filter fun a => match a.acc with | .arrive n _ => n ≠ b | _ => true
    covered := if (th.covered.find obj).isSome then th.covered.put obj 1 else th.covered }
  (s.foldReleases obj).setBarrier c b { phase := 0, count := 0, expected := ts.length, later := ts.length }

/-! ## Gates (R228-R230) -/

/-- A gate by its key. -/
def State.gate (s : State) (k : Nat) : Gate :=
  let g := if keyKind k = 4 then (s.block (keyQual k)).gates.find (k % 2 ^ 20)
    else (s.vdev (keyQual k)).dgates.find (k % 2 ^ 20)
  g.getD { owner := none, wait := [] }

def State.setGate (s : State) (k : Nat) (g : Gate) : State :=
  if keyKind k = 4 then s.modBlock (keyQual k) fun b => { b with gates := b.gates.put (k % 2 ^ 20) g }
  else s.modVdev (keyQual k) fun v => { v with dgates := v.dgates.put (k % 2 ^ 20) g }

/-- A gate passes to the head of its wait list, whose operation is then ready, or becomes FREE (R229). -/
def State.passGate (s : State) (k : Nat) : State :=
  match (s.gate k).wait with
  | [] => s.setGate k { owner := none, wait := [] }
  | (who, op) :: r =>
    let s := s.setGate k { owner := some who, wait := r }
    match s.ops.find op with
    | some o => { s with ops := s.ops.put op { o with result := some [], serial := s.relCount k } }
    | none => s

/-- The waiting requests of an operation withdrawn from every wait list (R230). -/
def State.withdraw (s : State) (op : Nat) : State :=
  let drop : Gate → Gate := fun g => { g with wait := g.wait.filter fun w => w.2 ≠ op }
  { s with
    blocks := s.blocks.map fun b => (b.1, { b.2 with gates := b.2.gates.map fun g => (g.1, drop g.2) })
    vdevs := s.vdevs.map fun v => (v.1, { v.2 with dgates := v.2.dgates.map fun g => (g.1, drop g.2) }) }

/-- Owner codes of gates: the thread at lane scope, the warp at warp scope, the block at block scope, with
the launch so that a finished launch's gates can be told (R228, R230). -/
def ownerCode (launch t : Nat) (sc : Scope) : Nat :=
  (match sc with
    | .lane => 4 * t
    | .warp => 4 * warpKeyOf t + 1
    | .set => 4 * warpKeyOf t + 2
    | .block => 4 * coreOf t + 3) * 2 ^ 32 + launch

/-- The launch in an agent's owner codes: none, whatever block stands on its core. -/
def noLaunch : Nat := 2 ^ 32 - 1

/-- The warp slot that an owner code names, by itself or by one of its threads. -/
def ownerWarp (o : Nat) : Option Nat :=
  let u := o / 2 ^ 32
  match u % 4 with
  | 0 => some (warpKeyOf (u / 4))
  | 1 | 2 => some (u / 4)
  | _ => none

/-- An owner that has exited and whose warp slot another warp takes: the gate stays held, and no later party is its
owner (R230). -/
def Gate.vacate (w launch : Nat) (g : Gate) : Gate :=
  { g with owner := g.owner.map fun o => if ownerWarp o = some w && o % 2 ^ 32 = launch then o + 2 ^ 80 else o }

/-- The gates that the parties of a warp slot hold, left to them as another warp takes the slot (R230). -/
def State.vacateGates (s : State) (w : Nat) : State :=
  let c := w / 128
  let b := s.block c
  let go (gs : Tab Gate) : Tab Gate := gs.map fun g => (g.1, g.2.vacate w b.launch)
  (s.modBlock c fun b => { b with gates := go b.gates }).modVdev b.vdev fun v => { v with dgates := go v.dgates }

/-! ## Exit and finish -/

/-- The device gates held by a launch's parties freed at its finish, each passing to its wait list
(R230). -/
def State.freeGates (s : State) (v l : Nat) : State :=
  (s.vdev v).dgates.foldl (fun s g =>
    match g.2.owner with
    | some o => if o % 2 ^ 32 = l then s.passGate (objKey 5 v g.1) else s
    | none => s) s

/-- Whether a core's block has a live thread, or a spawned one that waits, or its handler runs, or an access of a
thread that has exited is still to be performed (R93) (DEDUCED, log entry 79). -/
def State.blockBusy (s : State) (c : Nat) : Bool :=
  (s.threads.any fun e => userThread c e.1 && (e.2.live || !e.2.deferred.isEmpty) && bankOf e.1 = 0)
    || (s.ops.any fun e => userThread c e.2.thr) || (s.block c).handler.isSome
    || !(s.block c).overflow.isEmpty || (s.block c).bins.any fun b => !b.members.isEmpty

/-- The writes that a finish release covers: every write of the launch's parties, its raster units among them, on
every path (R143, R303). -/
def State.finishWrites (s : State) (cores : List Nat) : List Seen :=
  let ts := s.threads.filter fun e => cores.contains (coreOf e.1)
  let own := (s.wlog.filter fun e => (partyCore e.party).any cores.contains).map fun e =>
    { serial := e.serial, paths := 2 ^ e.path, via := viaAny : Seen }
  ts.foldl (fun l e => e.2.seen.foldl (fun l z => addSeen l { z with via := viaAny }) l) own

/-- The head of a queue advances; the queue leaves its slot when nothing is left (R138, R143). -/
def State.advanceHead (s : State) (v q : Nat) : State :=
  let s := s.modQueue v q fun x => { x with head := (x.head + 1) % 2 ^ 32, current := none }
  let x := s.queue v q
  if x.phase = 2 && (x.head = x.tail || !x.enabled) then s.leaveSlot v q 0
  else if x.phase = 1 && !x.enabled then s.modQueue v q fun x => { x with phase := 0 }
  else s

/-- Whether an engine of a block has work: a command queued or running, or an armed graph (R143). -/
def Block.engineBusy (b : Block) : Bool := b.engq.any (fun q => !q.2.isEmpty) || b.armed

/-- Whether a drawing launch's pass has been finished, its status bytes written (R303). -/
def Launch.drawn (x : Launch) : Bool := match x.pass with | some p => p.finished | none => true

/-- The cores whose block has just finished: their agents have event 2 pending (R382). -/
def State.markFinished (s : State) (cs : List Nat) : State :=
  cs.foldl (fun s c => s.modCore c fun k => { k with finished := true }) s

/-- The finish of a launch: the finish release, DONE, HEAD + 1 (R143). DONE waits for the acknowledgements of a proxy's
old target (R419). -/
def State.finishLaunch (s : State) (l : Nat) : State :=
  match s.launch? l with
  | none => s
  | some x =>
    let turns := match x.record.done with | some d => s.turning x.vdev d.1 | none => false
    if x.phase = .running && x.drawn && !turns && x.installed.all (fun c => !s.blockBusy c && !(s.block c).engineBusy) then
      let ws := s.finishWrites x.installed
      let s := s.releaseAt (objKey 9 (x.vdev * 1024 + x.ctx) 0) 0 ws
      let s := s.freeGates x.vdev l
      let s := match x.record.done with
        | none => s
        | some (i, code, v) => s.hubSignal x.vdev i (code ≠ 0) v ws
      ((s.dropLaunch l).markFinished x.installed).advanceHead x.vdev x.queue
    else s

/-- What an exiting thread still has performed of its waiting accesses: all but requests for gates, unless another
live thread made them too (R93, R230). -/
def State.keepsAtExit (s : State) (t : Nat) (a : Access) : Bool :=
  match a.acc with
  | .gateAcq .. | .gateTry .. => a.members.any fun m => m ≠ t && (s.thr m).live
  | _ => true

/-- The requests on gate wait lists that a thread's exit withdraws: those that no other live thread made
(R230). -/
def State.orphanRequests (s : State) (t : Nat) : List Nat :=
  (s.ops.filter fun e =>
    (match e.2.acc.acc, e.2.result with | .gateAcq .., none => true | _, _ => false)
      && (e.2.thr = t || e.2.acc.members.contains t)
      && e.2.acc.members.all fun m => m = t || !(s.thr m).live).map Prod.fst

/-- A thread leaves every group it belongs to: join masks, barriers, gate wait lists (R93, R115, R119,
R230). Its outstanding operations complete and their data is discarded; accesses that wait are still performed, and
keep its slot until then (DEDUCED, log entry 116). -/
def State.exitThread (s : State) (t : Nat) : State :=
  if (s.thr t).live then
    let c := coreOf t
    let s := s.joinLeave t (List.range 8)
    let s := (List.range 28).foldl (fun s b => s.barExit t b) s
    let s := (s.orphanRequests t).foldl (fun s o => { s.withdraw o with ops := s.ops.del o }) s
    let rest := (s.thr t).deferred.filter (s.keepsAtExit t)
    let s := s.modThr t fun th => { th with
      live := false, parked := th.parked && !rest.isEmpty, susp := false, stop := none, npc := none, jwait := []
      bwait := [], rearm := [], brx := none, refill := none, popped := none, spawning := [], rdv := none, deferred := rest }
    (List.range 28).foldl (fun s b => if s.barMember t b then s.barTest c b barFuel else s) s
  else s

end Sys2Proof.Machine
end

