-- ==== Sys2Proof/Machine/Hub.lean ====
section
/-! DEFINITION. The hub's register pages (R173) as a read finds them: doorbell pages (R136), control pages
(R405), the fabric table page (R397-R399), present pages (R327), the hub global page (R185-R188, R447) and the
compositor's window (R320, R321). -/

namespace Sys2Proof.Machine

/-! ## Epochs (R187, R188) -/

/-- Accesses that hold a translation from their issue to their completion (R187) (DEDUCED, log entry 54). -/
def Acc.translated : Acc → Bool
  | .load .. | .store .. | .atom .. | .red .. | .specTable .. | .tex .. | .cmaint .. => true
  | _ => false

/-- QLOW: the oldest epoch with an access in flight, or EPOCH (R187). An access that a pre-emption has recorded
holds no translation (DEDUCED, log entry 54). -/
def State.qlow (s : State) : Nat :=
  s.ops.foldl (fun m o => if o.2.acc.acc.translated && !o.2.landed then min m o.2.epoch else m) s.epoch

/-- Whether an entry stamped e is released (R188). -/
def State.released (s : State) (e : Nat) : Bool := 1 ≤ s.qlow - e && s.qlow - e ≤ 2 ^ 31

def State.qepoch (s : State) : Dword := d64 (s.epoch % 2 ^ 32 * 2 ^ 32 + s.qlow % 2 ^ 32)

def State.qstat (s : State) : Dword := d64 ((if s.qfull then 2 ^ 31 else 0) + s.quar.length)

/-- mem.qpop as a read finds it: the oldest entry, if it is released (R188). -/
def State.qpop (s : State) : Dword :=
  match s.quar with
  | (w, e) :: _ => if s.released e then d64 (2 ^ 63 + w) else 0
  | [] => 0

/-! ## Doorbell and control pages -/

/-- q.state (R136). -/
def Queue.state (q : Queue) : Dword := d64 (q.err * 256 + q.ceil * 4 + q.phase)

/-- A doorbell page's register (R136). -/
def State.doorbell (s : State) (v off : Nat) : Dword :=
  let q := s.queue v (off / 0x40)
  if off < 0x400 then
    match off % 0x40 with
    | 0x00 => d64 q.tail
    | 0x08 => d64 q.head
    | 0x10 => q.state
    | _ => 0
  else 0

/-- vdev.ctxcmd as it reads: CTXID, SEL and ERR (R410). -/
def Vdev.ctxcmdRead (d : Vdev) : Dword :=
  (d.ctxcmd &&& 0xFFFF00000004) ||| (if d.selected.isSome then 8 else 0)

/-- A register of the selected context; 0 with none selected (R410). -/
def Vdev.aperture (d : Vdev) (f : Ctx → Dword) : Dword :=
  match d.selected with
  | none => 0
  | some x => match d.ctxs.find x with | some c => f c | none => 0

/-- A control page's register (R405). -/
def State.control (s : State) (v off : Nat) : Dword :=
  let d := s.vdev v
  let q := d.queue ((off - 0x100) / 0x10)
  if 0x100 ≤ off && off < 0x200 then
    match off % 0x10 with
    | 0 => q.ring
    | 8 => q.ctl
    | _ => 0
  else
  match off with
  | 0x000 => d.ctl
  | 0x008 => d.share
  | 0x010 => d.sig
  | 0x018 => d.s2tb
  | 0x020 => d.save
  | 0x028 => d.savefb
  | 0x030 => d.savefault
  | 0x038 => d.tmlog
  | 0x040 => d.tmptr
  | 0x048 => d.tmcount
  | 0x050 => d.owner
  | 0x058 => d.ctxcmdRead
  | 0x060 => d.aperture Ctx.legacy
  | 0x068 => d.aperture Ctx.owner
  | 0x070 => d.aperture Ctx.trap
  | 0x078 => d.aperture Ctx.ttb
  | _ => 0

/-! ## Fabric table page -/

/-- Eight bytes of the fabric table page. -/
def State.fabricPage (s : State) (off : Nat) : Dword :=
  if off < 0x2000 then d64 (s.importOf (off / 32) / 2 ^ (8 * (off % 32)))
  else if off < 0x4000 then pair (s.keyOf ((off - 0x2000) / 4)) (s.keyOf ((off - 0x2000) / 4 + 1))
  else if off < 0xC000 then s.proxyAt ((off - 0x4000) / 8)
  else 0

/-! ## Present pages -/

def State.presentQ (s : State) (o d : Nat) : PresentQ := s.bezel.presents.get (4 * o + d) PresentQ.empty

/-- PR_STAT (R327). -/
def PresentQ.stat (p : PresentQ) : Dword :=
  d64 (p.latched % 2 ^ 32 * 2 ^ 32 + (if p.badsig then 64 else 0) + (if p.nolayer then 32 else 0)
    + (if p.ovf then 16 else 0) + p.q.length)

def State.presentPage (s : State) (o off : Nat) : Dword :=
  if off < 0x100 then
    match off % 0x40 with
    | 0x00 => (s.presentQ o (off / 0x40)).a
    | 0x10 => (s.presentQ o (off / 0x40)).stat
    | _ => 0
  else 0

/-! ## The compositor's window -/

/-- A surface entry: absent, with FORMAT 0xFF, from the start (R321). -/
def Bezel.surf (b : Bezel) (h : Nat) : Nat := b.surfs.get h (0xFF * 2 ^ 128)
/-- A grant entry: empty, with GRANTOR 0xFF, from the start (R321). -/
def Bezel.grant (b : Bezel) (n : Nat) : Nat := b.grants.get n 0xFF
/-- Entry n of a display's layer table (R324). -/
def Bezel.layer (b : Bezel) (d n : Nat) : Nat := b.layers.get (64 * d + n) 0
/-- Entry n of a display's layer table as the last refresh to start found it (R321). -/
def Bezel.shown (b : Bezel) (d n : Nat) : Nat := b.inForce.get (64 * d + n) 0

def State.display (s : State) (d : Nat) : Display := s.bezel.displays.get d Display.empty

/-- TABLE, DISP and INDEX of bz.tsel. -/
def Bezel.table (b : Bezel) : Nat := bitsOf b.tsel.toNat 31 30
def Bezel.tdisp (b : Bezel) : Nat := bitsOf b.tsel.toNat 29 28
def Bezel.index (b : Bezel) : Nat := bitsOf b.tsel.toNat 15 0

/-- Whether the selection names an entry (R321). -/
def Bezel.inTable (b : Bezel) : Bool :=
  match b.table with
  | 0 => true
  | 1 => b.index < 4096
  | 2 => b.index < 64
  | _ => false

/-- The selected entry as it stands. -/
def Bezel.selected (b : Bezel) : Nat :=
  match b.table with
  | 0 => b.surf b.index
  | 1 => b.grant b.index
  | 2 => b.layer b.tdisp b.index
  | _ => 0

/-- bz.tdata k as it reads. -/
def Bezel.tdata (b : Bezel) (k : Nat) : Dword :=
  if b.inTable && (b.table ≠ 2 || k = 0) then d64 (b.selected / 2 ^ (64 * k)) else 0

/-- bz.stat (R320). -/
def Bezel.statWord (b : Bezel) : Dword := d64 (b.stat + if b.fills.isEmpty then 0 else 1)

def State.bezelWindow (s : State) (off : Nat) : Dword :=
  let d := s.display ((off - 0x100) / 0x40)
  if 0x100 ≤ off && off < 0x200 then
    match off % 0x40 with
    | 0x00 => d.mode
    | 0x08 => d.bg
    | 0x10 => d64 (d.count % 2 ^ 32)
    | _ => 0
  else
  match off with
  | 0x000 => s.bezel.tsel
  | 0x008 => s.bezel.tdata 0
  | 0x010 => s.bezel.tdata 1
  | 0x018 => s.bezel.tdata 2
  | 0x020 => s.bezel.tdata 3
  | 0x040 => s.bezel.fillA
  | 0x050 => s.bezel.statWord
  | _ => 0

/-! ## The map -/

/-- Where the hub's registers start in the I/O range (R173). -/
def regBase : Nat := 0x2FFFF0000000

/-- A register of the hub global page. -/
def State.globalPage (s : State) (off : Nat) : Dword :=
  match off with
  | 0x000 => s.hotCfg
  | 0x008 => s.hotRing
  | 0x010 => s.hotPtr
  | 0x018 => s.qepoch
  | 0x028 => s.qpop
  | 0x030 => s.qstat
  | 0x038 => s.fwfault
  | _ => 0

/-- A read of mem.qpop has taken the oldest entry, where it is released (R188). -/
def State.takeQpop (s : State) : State :=
  match s.quar with
  | (_, e) :: r => if s.released e then { s with quar := r } else s
  | [] => s

/-- The 64-bit register at an address of the I/O range, aligned to 8 (R173). The Assay mailbox, whose
layout the specification does not give, reads a value that nothing constrains. -/
def State.regRead (s : State) (pa : Nat) : Dword × State :=
  let o := pa - regBase
  if o < 0x20000 then (s.doorbell (o / 0x1000) (o % 0x1000), s)
  else if o < 0x40000 then (s.control ((o - 0x20000) / 0x1000) (o % 0x1000), s)
  else if o < 0x50000 then (s.fabricPage (o - 0x40000), s)
  else if o < 0x14F000 then (s.presentPage ((o - 0x50000) / 0x1000) (o % 0x1000), s)
  else if o < 0x150000 then (0, s)
  else if o < 0x160000 then
    (s.globalPage (o - 0x150000),
      if o - 0x150000 = 0x028 then s.takeQpop else s)
  else if o < 0x170000 then (s.bezelWindow (o - 0x160000), s)
  else if o < 0x171000 then (Config.freeDword s.free, { s with free := s.free + 1 })
  else (0, s)

/-- What stands for the owner of a write that comes from no context: the hub's, the compositor's or another module's
(R319). -/
def noOwner : Nat := 256

/-- A write of the 64-bit register at an address: a device step that comes before anything else of the
cores moves. The owner is that of the context whose request it is (R319). -/
def State.regWrite (s : State) (pa owner : Nat) (v : Dword) : State :=
  { s with agenda := s.agenda ++ [.write pa owner v] }

end Sys2Proof.Machine
end

