-- ==== Sys2Proof/Machine/Translate.lean ====
section
/-! DEFINITION. The address map (R172), the two stages of translation (R175-R178), the TLB (R179) and
the checks of memory types (R180). -/

namespace Sys2Proof.Machine

/-- The kinds of a translated access: atomics and reductions read and write (R178). -/
inductive AKind where
  | read | write | rw | exec
  deriving DecidableEq, Repr

/-- The targets of the 52-bit map (R172). -/
inductive Target where
  | stack | pixmap | cxl | io | signal | fabric | none
  deriving DecidableEq, Repr

/-- DESIGN CHOICE, log entry 17. -/
def targetOf (pa : Nat) : Target :=
  if pa < 0x005FF0000000 then .stack
  else if pa < 0x006000000000 then .pixmap
  else if pa < 0x100000000000 then .none
  else if pa < 0x120000000000 then (if pa - 0x100000000000 < Config.cxlBytes then .cxl else .none)
  else if pa < 0x200000000000 then .none
  else if pa < 0x2FFFFFC00000 then .io
  else if pa < 0x300000000000 then .signal
  else if pa < 0x8000000000000 then .none
  else if pa < 0x10000000000000 then .fabric
  else .none

/-- Whether any of n bytes has an uncorrectable error (DEDUCED, log entry 42). -/
def State.poisoned (s : State) (a n : Nat) : Bool := s.poison.any fun x => a ≤ x && x < a + n

/-- The cause that the target of a translated access raises, if any (R172, R173, R180, R183): `big` marks
an atomic, a reduction, a 128-bit access or a code fetch. -/
def State.targetFault (s : State) (pa n mt : Nat) (kind : AKind) (big : Bool) : Option Nat :=
  match targetOf pa with
  | .signal | .pixmap => some causeType
  | .none => some causeNotarget
  | .io => if mt ≠ 2 || big then some causeType else none
  | .fabric => if mt = 2 then some causeType else none
  | _ =>
    if mt = 2 && big then some causeType
    else if kind ≠ .write && s.poisoned pa n then some causePoison
    else none

/-- A leaf's grant: the translated address, the page size's log2, the type and the rights; of both stages together,
also the intermediate address and log2 of its stage-2 page. -/
structure Leaf where
  pa : Nat
  z : Nat
  mt : Nat
  r : Bool
  w : Bool
  x : Bool
  ia : Nat := 0
  z2 : Nat := 0
  deriving DecidableEq, Repr

/-- The identity of a disabled stage: type normal, every right (R175, R178). -/
def identityLeaf (a : Nat) : Leaf := { pa := a, z := 48, mt := 0, r := true, w := true, x := true }

/-- log2 of the page size by level and CONT; `none` where CONT is not listed (R177). -/
def pageLog (level cont : Nat) : Option Nat :=
  match level, cont with
  | 1, 0 => some 30
  | 2, 0 => some 21
  | 2, 2 => some 25
  | 3, 0 => some 12
  | 3, 1 => some 14
  | 3, 2 => some 16
  | 3, 3 => some 18
  | _, _ => none

/-- Whether a valid entry is malformed for its stage and level (R176, R177). A reserved memory type is malformed whatever
the leaf's output names (DEDUCED, log entry 136). -/
def malformed (stage level e : Nat) : Bool :=
  let leaf := bitOf e 1
  let rsvBad := bitsOf e 55 52 ≠ 0 || bitOf e 11 || bitsOf e 3 2 ≠ 0
  let oaBad := stage = 1 && bitsOf e 51 48 ≠ 0
  if leaf then
    match pageLog level (bitsOf e 10 9) with
    | none => true
    | some z => rsvBad || oaBad || bitsOf e 8 7 = 3 || bitsOf e 51 12 * 2 ^ 12 % 2 ^ z ≠ 0
  else level = 3 || rsvBad || oaBad || bitsOf e 10 4 ≠ 0

/-- The right an access kind lacks, as a cause. -/
def rightFault (kind : AKind) (r w x : Bool) : Option Nat :=
  match kind with
  | .read => if r then none else some causeRead
  | .write => if w then none else some causeWrite
  | .rw => if !r then some causeRead else if w then none else some causeWrite
  | .exec => if x then none else some causeExec

/-- The outcome of a translation or of a read on its way: the state moves where a read has an effect. -/
abbrev Got (α : Type) := Except MemFault α × State

/-- One stage's walk from a level, `read` being the read of an 8-byte entry (R178). -/
def walk (read : State → Nat → Nat → Got Nat) (stage : Nat) (va : Dword) (kind : AKind) (a : Nat) (s : State) :
    Nat → Nat → Nat → Got Leaf
  | 0, _, _ => (.error (causeFault clsPage causeFormat), s)
  | fuel + 1, level, t =>
    let fault cls cause : MemFault :=
      { cls := cls, cause := cause, stage := stage, level := level, walk := false, va := va
        ia := if stage = 2 then d64 a else 0 }
    match read s level (t + 8 * bitsOf a (47 - 9 * level) (39 - 9 * level)) with
    | (.error f, s) => (.error f, s)
    | (.ok e, s) =>
      if !bitOf e 0 then (.error (fault clsPage causeInvalid), s)
      else if malformed stage level e then (.error (fault clsPage causeFormat), s)
      else if bitOf e 1 then
        let z := (pageLog level (bitsOf e 10 9)).getD 12
        match rightFault kind (bitOf e 4) (bitOf e 5) (bitOf e 6) with
        | some c => (.error (fault clsAccess c), s)
        | none => (.ok
          { pa := bitsOf e 51 12 * 2 ^ 12 / 2 ^ z * 2 ^ z + a % 2 ^ z, z := z, mt := bitsOf e 8 7
            r := bitOf e 4, w := bitOf e 5, x := bitOf e 6 }, s)
      else walk read stage va kind a s fuel (level + 1) (bitsOf e 51 12 * 2 ^ 12)

/-- Stage 2 with a given read of its entries (R178). -/
def stage2With (read : State → Nat → Nat → Got Nat) (s : State) (root va : Dword) (kind : AKind) (a : Nat) : Got Leaf :=
  if root.getLsbD 0 then walk read 2 va kind a s 4 0 (bitsOf root.toNat 51 12 * 2 ^ 12)
  else (.ok (identityLeaf a), s)

/-- The right that a kind of memory access needs at an ingress (R398): 0 READ, 1 WRITE, 2 ATOMIC. -/
def AKind.right : AKind → Nat
  | .read | .exec => 0
  | .write => 1
  | .rw => 2

/-- The physical address that a request to a memory window reaches; `none` is a refusal (R398). -/
def State.ingressWith (read : State → Nat → Nat → Got Nat) (s : State) (source window offset n : Nat) (kind : AKind)
    (key : Word) (big : Bool) : Option Nat × State :=
  let e := s.importOf window
  if s.admits e source 1 kind.right key && offset + n ≤ impSize e then
    let a := impBase e + offset
    match stage2With read s (s.vdev (impVdev e)).s2tb (d64 a) kind a with
    | (.error _, s) => (none, s)
    | (.ok l, s) => (if (s.targetFault l.pa n l.mt kind big).isSome then none else some l.pa, s)
  else (none, s)

/-- The type that marks an access as having come through this module's own ingress (R401). -/
def mtLoop : Nat := 4

/-- A request to a fabric address (R396, R398): this module's own ingress is checked; another module
admits it, refuses it, or cannot be reached, and which of these is free (DESIGN CHOICE, log entry 16). -/
def State.gateWith (read : State → Nat → Nat → Got Nat) (s : State) (va : Dword) (pa n mt : Nat) (kind : AKind)
    (big : Bool) : Got (Nat × Nat) :=
  let m := bitsOf pa 50 48
  let w := bitsOf pa 47 40
  let fault (c : Nat) : MemFault := { causeFault clsAccess c with va := va }
  if m = Config.moduleNumber.toNat && !s.stubbed w then
    match s.ingressWith read m w (bitsOf pa 39 0) n kind (s.keyOf (256 * m + w)) big with
    | (some lp, s) => (.ok (lp, mtLoop), s)
    | (none, s) => (.error (fault causeImport), s.irq irqFabric w)
  else
    let r := s.choose 3
    if r.1 = 0 then (.ok (pa, mt), r.2)
    else (.error (fault (if r.1 = 1 then causeImport else causeNotarget)), r.2)

/-- A table entry as the device or the memory that holds it gives it: a register or a PCIe window of the I/O range,
another module's memory, or this module's (R178) (DESIGN CHOICE, log entry 12; DESIGN CHOICE, log entry 16). -/
def State.entryBytes (s : State) (pa : Nat) : Nat × State :=
  match targetOf pa with
  | .io =>
    if pa < regBase then
      (natOfBytes ((List.range 8).map fun k => Config.pcieRead (pa + k) s.free), { s with free := s.free + 1 })
    else let r := s.regRead (pa / 8 * 8); (r.1.toNat, r.2)
  | .fabric => ((Config.freeDword s.free).toNat, { s with free := s.free + 1 })
  | _ => (natOfBytes (s.bytesAt pa 8), s)

/-- The read of an entry at a physical address under a type, with the faults of its target (R172, R178, R180). A
fabric address passes its ingress; how deep such an ingress may lie in the translation of another is bounded here
(DESIGN CHOICE, log entry 12; DESIGN CHOICE, log entry 117). -/
def State.walkRead : Nat → (stage level : Nat) → (va ia : Dword) → (mt : Nat) → State → Nat → Got Nat
  | depth, stage, level, va, ia, mt, s, pa =>
    let fault (c : Nat) : MemFault :=
      { cls := clsAccess, cause := c, stage := stage, level := level, walk := false, va := va, ia := ia }
    match s.targetFault pa 8 mt .read false with
    | some c => (.error (fault c), s)
    | none =>
      if targetOf pa = .fabric then
        match depth with
        | 0 => (.error (fault causeImport), s)
        | n + 1 =>
          match s.gateWith (fun s l a => State.walkRead n 2 l va ia 0 s a) va pa 8 mt .read false with
          | (.error f, s) => (.error (fault f.cause), s)
          | (.ok (lp, _), s) => let r := s.entryBytes lp; (.ok r.1, r.2)
      else let r := s.entryBytes pa; (.ok r.1, r.2)

/-- Ingresses that a walk may pass one inside another (DESIGN CHOICE, log entry 117). -/
def walkDepth : Nat := 3

/-- Stage 2 (R178). -/
def State.stage2 (s : State) (root va : Dword) (kind : AKind) (a : Nat) : Got Leaf :=
  stage2With (fun s level ta => State.walkRead walkDepth 2 level va (d64 a) 0 s ta) s root va kind a

/-- Stage 1: each table address passes stage 2, and a fault there has WALK 1 (R178). -/
def State.stage1 (s : State) (ttb s2 va : Dword) (kind : AKind) (a : Nat) : Got Leaf :=
  if ttb.getLsbD 0 then
    if bitsOf ttb.toNat 51 48 ≠ 0 then
      (.error { causeFault clsPage causeFormat with stage := 1, va := va }, s)
    else
      walk (fun s level ta =>
        match s.stage2 s2 va .read ta with
        | (.error f, s) => (.error { f with walk := true, ia := d64 ta }, s)
        | (.ok l, s) => State.walkRead walkDepth 1 level va 0 l.mt s l.pa) 1 va kind a s 4 0
          (bitsOf ttb.toNat 51 12 * 2 ^ 12)
  else (.ok (identityLeaf a), s)

/-- Both stages: the address, the higher type, and the smaller page with both leaves' rights (R178,
R179). -/
def State.walkBoth (s : State) (ttb s2 va : Dword) (kind : AKind) : Got Leaf :=
  match s.stage1 ttb s2 va kind va.toNat with
  | (.error f, s) => (.error f, s)
  | (.ok l1, s) =>
    match s.stage2 s2 va kind l1.pa with
    | (.error f, s) => (.error f, s)
    | (.ok l2, s) => (.ok { pa := l2.pa, z := min l1.z l2.z, mt := max l1.mt l2.mt
                            r := l1.r && l2.r, w := l1.w && l2.w, x := l1.x && l2.x, ia := l1.pa, z2 := l2.z }, s)

/-- The roots in force for a core, a virtual device and a context (R175) (DEDUCED, log entry 109). -/
def State.roots (s : State) (c v x : Nat) : Dword × Dword :=
  ((s.core c).ttbs.get (v * 65536 + x) 0, (s.core c).s2tbs.get v 0)

/-- The TLB entries of a core that cover an address and grant a kind of access; a fault is never cached,
so an entry that lacks the right does not answer (R179) (DESIGN CHOICE, log entry 18). -/
def State.tlbHits (s : State) (c v x va : Nat) (kind : AKind) : List TlbEnt :=
  (s.core c).tlb.filter fun e => e.vdev = v && e.ctx = x && e.va ≤ va && va < e.va + e.size
    && rightFault kind e.r e.w e.x = none

/-- A translation enters the TLB of 2,048 entries; where both stages are the identity none is kept. -/
def State.tlbFill (s : State) (c v x va : Nat) (l : Leaf) : State :=
  if l.z ≥ 48 then s
  else
    let e : TlbEnt :=
      { vdev := v, ctx := x, va := va / 2 ^ l.z * 2 ^ l.z, size := 2 ^ l.z, pa := l.pa / 2 ^ l.z * 2 ^ l.z
        mt := l.mt, r := l.r, w := l.w, x := l.x, ia := l.ia, z2 := l.z2 }
    s.modCore c fun k =>
      if k.tlb.contains e then k else { k with tlb := (e :: k.tlb).take 2048 }

/-- Translation of an address for a core, a virtual device and a context: an entry of the TLB may answer,
or a walk does, which forms the translation from the table entry at the address's own index, whatever the other
entries of a run hold. A replay walks again (R178, R179) (DEDUCED, log entry 9; DESIGN CHOICE, log entry 18; DESIGN
CHOICE, log entry 122). -/
def State.translateFor (s : State) (c v x : Nat) (va : Dword) (kind : AKind) (again : Bool) : Got (Nat × Nat) :=
  if va.toNat ≥ 2 ^ 48 then
    (.error { causeFault clsAccess causeNoncanon with stage := 1, va := va }, s)
  else
    let hits := if again then [] else s.tlbHits c v x va.toNat kind
    let pick := if hits.isEmpty then (0, s) else s.choose (hits.length + 1)
    match hits[pick.1]? with
    | some e => (.ok (e.pa + (va.toNat - e.va), e.mt), pick.2)
    | none =>
      let r := s.roots c v x
      match pick.2.walkBoth r.1 r.2 va kind with
      | (.error f, s) => (.error f, s)
      | (.ok l, s) => (.ok (l.pa, l.mt), s.tlbFill c v x va.toNat l)

/-- A request to a fabric address of the module itself or of another one (R396, R398). -/
def State.fabricGate (s : State) (va : Dword) (pa n mt : Nat) (kind : AKind) (big : Bool) : Got (Nat × Nat) :=
  s.gateWith (fun s l a => State.walkRead walkDepth 2 l va va 0 s a) va pa n mt kind big

/-- The physical address that a request to a memory window of this module reaches; `none` is a refusal (R398). -/
def State.ingressMemory (s : State) (source window offset n : Nat) (kind : AKind) (key : Word) (big : Bool) :
    Option Nat × State :=
  s.ingressWith (fun s l a => State.walkRead walkDepth 2 l (d64 offset) (d64 offset) 0 s a) source window offset n kind key
    big

/-- A translated access at its target: the target's faults, and the ingress of a fabric address (R172, R180, R398). -/
def State.reach (s : State) (va : Dword) (pa n mt : Nat) (kind : AKind) (big : Bool) : Got (Nat × Nat) :=
  match s.targetFault pa n mt kind big with
  | some c => (.error { causeFault clsAccess c with va := va }, s)
  | none => if targetOf pa = .fabric then s.fabricGate va pa n mt kind big else (.ok (pa, mt), s)

/-- Translation for a thread, with the faults of the target; what a fault has stopped, or a replay, walks again (R178,
R179, R182). -/
def State.translate (s : State) (t : Nat) (va : Dword) (n : Nat) (kind : AKind) (big : Bool) (again : Bool := false) :
    Got (Nat × Nat) :=
  match s.translateFor (coreOf t) (s.tagOf t).1 (s.tagOf t).2 va kind (again || (s.thr t).again) with
  | (.error f, s') => (.error f, s')
  | (.ok (pa, mt), s') => s'.reach va pa n mt kind big

/-- The physical place of n bytes at an intermediate address under a stage-2 root, with its memory type (DESIGN
CHOICE, log entry 41). -/
def State.stage2Place (s : State) (root : Dword) (ia n : Nat) (kind : AKind) : Got (Nat × Nat) :=
  let place (f : MemFault) : MemFault := { f with stage := 2, ia := d64 ia }
  if 2 ^ 48 ≤ ia then (.error (causeFault clsAccess causeNoncanon), s)
  else match s.stage2 root 0 kind ia with
  | (.error f, s) => (.error f, s)
  | (.ok l, s) =>
    match s.reach 0 l.pa n l.mt kind false with
    | (.error f, s) => (.error (place f), s)
    | (.ok p, s) => (.ok p, s)

/-- The path on which a thread's write goes on: FAB, for all but the writer, through this module's own ingress (R401). -/
def pathVia (q mt : Nat) : Nat := if mt = mtLoop then loopPath q else q

/-- Where a word of code stands: translated as kind exec for a block's threads (R43). The agent's own code stands at its
address untranslated, whatever context the agent has selected (DEDUCED, log entry 9). -/
def State.fetchPlace (s : State) (t a : Nat) : Got (Nat × Nat) :=
  if isAgent t then
    if 2 ^ 48 ≤ a then (.error { causeFault clsAccess causeNoncanon with va := d64 a }, s)
    else s.reach (d64 a) a 4 0 .exec true
  else s.translate t (d64 a) 4 .exec true

/-- Code fetch of a word, on no path; what another module's memory holds is free (R43, R174) (DESIGN CHOICE, log entry
12; DESIGN CHOICE, log entry 16). -/
def State.fetch (s : State) (t : Nat) (a : Nat) : Got Word :=
  match s.fetchPlace t a with
  | (.error f, s') => (.error f, s')
  | (.ok (pa, _), s') =>
    if targetOf pa = .fabric then let r := s'.anyWord; (.ok r.1, r.2)
    else (.ok (BitVec.ofNat 32 (natOfBytes (s'.bytesAt pa 4))), s')

/-- Code fetch of n words from an address; stops at the first fault. -/
def State.fetchN (s : State) (t a : Nat) : Nat → Got (List Word)
  | 0 => (.ok [], s)
  | n + 1 =>
    match s.fetch t a with
    | (.error f, s') => (.error f, s')
    | (.ok w, s') =>
      match State.fetchN s' t (a + 4) n with
      | (.error f, s'') => (.error f, s'')
      | (.ok ws, s'') => (.ok (w :: ws), s'')

end Sys2Proof.Machine
end

