-- ==== Sys2Proof/Machine/Io.lean ====
section
/-! DEFINITION. Loads and stores that reach the PCIe windows, the hub's registers and the fabric (R172,
R173). -/

namespace Sys2Proof.Machine

/-- n bytes that nothing constrains. -/
def State.anyBytes (s : State) : Nat → List Byte × State
  | 0 => ([], s)
  | n + 1 =>
    let w := s.anyWord
    let r := State.anyBytes w.2 n
    (w.1.extractLsb' 0 8 :: r.1, r.2)

/-- n bytes of a PCIe window (DESIGN CHOICE, log entry 16). -/
def State.pcieBytes (s : State) (pa : Nat) : Nat → List Byte
  | 0 => []
  | n + 1 => Config.pcieRead pa s.free :: State.pcieBytes s (pa + 1) n

/-- A read of n bytes of the I/O range; a narrower read of a register takes its bytes (DESIGN CHOICE, log entry
16; DESIGN CHOICE, log entry 25; DESIGN CHOICE, log entry 51). -/
def State.ioRead (s : State) (pa n : Nat) : List Byte × State :=
  if pa < regBase then (s.pcieBytes pa n, { s with free := s.free + 1 })
  else
    let r := s.regRead (pa / 8 * 8)
    (((bytesOfNat 8 r.1.toNat).drop (pa % 8)).take n, r.2)

/-- A write of bytes in the I/O range; a narrower write of a register keeps its other bytes. The owner
that the access carries matters to the compositor's registers (R319) (DESIGN CHOICE, log entry 16; DESIGN
CHOICE, log entry 25; DEDUCED, log entry 26). -/
def State.ioWrite (s : State) (pa owner : Nat) (bs : List Byte) : State :=
  if pa < regBase then s
  else if bs.length = 8 then s.regWrite pa owner (d64 (natOfBytes bs))
  else { s with agenda := s.agenda ++ [.store pa owner bs] }

/-- A read of translated memory from given floors: stack and CXL memory by the coherence order, the I/O range by
its device, the fabric with values that nothing here constrains. -/
def State.readFrom (s : State) (t : Nat) (fls : List Nat) (pa n issued : Nat) : List Byte × State :=
  match targetOf pa with
  | .io => s.ioRead pa n
  | .fabric => s.anyBytes n
  | _ => s.readData t fls pa n issued

/-- A read of translated memory on a path, as the thread sees it now. -/
def State.readPhys (s : State) (t q reg pa n issued : Nat) : List Byte × State :=
  s.readFrom t (s.floorsOf t q reg pa n) pa n issued

/-- A write of translated memory on a path, by a thread and by further members of a wider scope. -/
def State.writePhys (s : State) (t path obj pa : Nat) (bs : List Byte) (also : List Nat := []) : State :=
  match targetOf pa with
  | .io => s.ioWrite pa (s.block (coreOf t)).owner.toNat bs
  | .fabric => s
  | _ => s.writeAll t also path obj pa bs

end Sys2Proof.Machine
end

