-- ==== Sys2Proof/Machine/Flight.lean ====
section
/-! DEFINITION. Operations in flight, their flags (R14), what holds a thread's later accesses (R216), and
parking (R182). -/

namespace Sys2Proof.Machine

/-- The instructions that hold a thread's later accesses until they complete (R216). -/
def Acc.ordering : Acc → Bool
  | .acq .. | .gateAcq .. | .gateTry .. | .fence .. | .xfence .. | .specOp .. => true
  | _ => false

/-! ## Operations in flight -/

/-- A new operation in flight. -/
def State.addOp (s : State) (o : Op) : State :=
  { s with ops := s.ops.put s.nextOp o, nextOp := s.nextOp + 1 }

/-- An operation of an access with a result already known, or none. -/
def State.opFor (s : State) (t : Nat) (a : Access) (pa mt : Nat) (result : Option (List Word)) : State :=
  s.addOp { thr := t, acc := a, pa := pa, mt := mt, epoch := s.epoch, serial := s.serial, result := result }

/-- Whether anything tied to a thread's flag is outstanding (R14). -/
def State.flagBusy (s : State) (t n : Nat) : Bool :=
  (s.ops.any fun e => e.2.acc.flag = some n && e.2.acc.members.contains t)
    || s.threads.any fun e => e.2.deferred.any fun a => a.flag = some n && a.members.contains t

/-- The flag of an access clears in its threads where nothing else is tied to it (R14). -/
def State.clearFlags (s : State) (flag : Option Nat) (members : List Nat) : State :=
  match flag with
  | none => s
  | some n => members.foldl (fun s t => if s.flagBusy t n then s else s.setFlag t flag false) s

/-- Whether a drain holds the new requests of a virtual device (R386) (DEDUCED, log entry 82; DEDUCED, log
entry 88). -/
def State.drains (s : State) (v : Nat) : Bool :=
  s.ops.any fun e => match e.2.acc.acc with | .vdrain w => w = v | _ => false

/-- The threads in whose program order an access of a thread stands: at a wider scope every member's (R195, R216). -/
def Access.parties (t : Nat) (a : Access) : List Nat := t :: a.members

/-- Whether a thread's accesses wait for an ordering instruction of it, or for a drain (R216, R386). -/
def State.fenced (s : State) (t : Nat) : Bool :=
  (s.ops.any fun e => e.2.acc.acc.ordering && (e.2.acc.parties e.2.thr).contains t)
    || (!isAgent t && s.drains (s.tagOf t).1)

/-- Whether a thread's next access must wait: it is parked, it has accesses waiting, its own or a wider scope's, or
something holds them back (R216, R343). -/
def State.blocked (s : State) (t : Nat) : Bool :=
  (s.thr t).parked || !(s.waitsOf t).isEmpty || s.fenced t

/-- The places in other modules of a context's requests in flight to a page, by page (R419). -/
def State.windowOps (s : State) (t page : Nat) : List Nat :=
  (s.ops.filter fun e => (match e.2.acc.acc with
    | .load va .. | .store va _ | .atom va .. | .red va .. => va.toNat / 4096 = page
    | _ => false) && s.tagOf e.2.thr = s.tagOf t && targetOf e.2.pa = .fabric).map fun e => e.2.pa / 4096

/-- Whether a global access would go to a window whose address has been rewritten while requests to the old one are in
flight (R419). -/
def State.windowTurns (s : State) (t : Nat) (va : Dword) (kind : AKind) (again : Bool) : Bool :=
  match s.windowOps t (va.toNat / 4096) with
  | [] => false
  | old => match (s.translateFor (coreOf t) (s.tagOf t).1 (s.tagOf t).2 va kind again).1 with
    | .ok p => targetOf p.1 = .fabric && old.any fun k => k ≠ p.1 / 4096
    | .error _ => false

/-- Whether an access waits for the acknowledgements of an old target, of a proxied word or of a window (R419)
(DESIGN CHOICE, log entry 120). -/
def State.waitsTurn (s : State) (t : Nat) (a : Access) : Bool :=
  match a.acc with
  | .load va .. => s.windowTurns t va .read a.again
  | .store va _ => s.windowTurns t va .write a.again
  | .atom va .. | .red va .. => s.windowTurns t va .rw a.again
  | acc => match acc.signal with
    | some (idx, _) => s.turning (s.tagOf t).1 idx
    | none => false

/-- Whether a waiting access may leave the core: its thread is not parked, no ordering instruction of its parties is
outstanding, no earlier access of theirs waits, and no old target of its proxy is still to acknowledge (R216, R343,
R419). -/
def State.mayGo (s : State) (t : Nat) (a : Access) : Bool :=
  !(s.thr t).parked && !s.waitsTurn t a && (a.parties t).all fun m =>
    !s.fenced m && (s.waitsOf m).all fun b => a.seq ≤ b.seq

/-! ## The order of a group's writes (R84, R205) -/

/-- What a store, an atomic or a reduction changes: its space (0 global, 1 scratchpad, 2 signal words), place and
length. -/
def Acc.span : Acc → Option (Nat × Nat × Nat)
  | .store va bs => some (0, va.toNat, bs.length)
  | .atom va .. | .red va .. => some (0, va.toNat, 4)
  | .sts off bs => some (1, off, bs.length)
  | .sigSt i _ | .sigAdd i _ _ | .sigCas i _ _ _ => some (2, i, 1)
  | _ => none

/-- Whether two accesses change the same bytes. -/
def Acc.meets (a b : Acc) : Bool :=
  match a.span, b.span with
  | some (j, x, n), some (k, y, m) => j = k && x < y + m && y < x + n
  | _, _ => false

/-- A returning atomic (R205). -/
def Acc.returning : Acc → Bool
  | .atom .. | .sigAdd .. | .sigCas .. => true
  | _ => false

/-- A reduction: no lane order of it is visible (R206). -/
def Acc.reduction : Acc → Bool
  | .red .. => true
  | _ => false

/-- Two accesses of one issuing group's clause that change the same bytes. -/
def Access.collides (a b : Access) : Bool := a.group ≠ 0 && a.group = b.group && a.acc.meets b.acc

/-- Whether access q of another thread of the issuing group takes effect before access p: that of an earlier word, or of
a lower home lane of one word (R84, R238). -/
def leavesBefore (q p : Nat × Access) : Bool :=
  q.1 ≠ p.1 && q.2.collides p.2
    && (q.2.seq < p.2.seq
      || (q.2.seq = p.2.seq && laneOf q.1 < laneOf p.1 && !q.2.acc.returning && !q.2.acc.reduction))

/-- Whether two returning atomics of one issue reach one word: they take effect together, in ascending home lane
(R205). -/
def leavesWith (q p : Nat × Access) : Bool := q.2.acc.returning && q.2.seq = p.2.seq && q.2.collides p.2

/-- Whether a list holds an access of a thread. -/
def holdsAccess (l : List (Nat × Access)) (p : Nat × Access) : Bool := l.any fun q => q.1 = p.1 && q.2.seq = p.2.seq

/-- Those of some accesses that may leave which the order of their groups lets go, in the order of issue and in ascending
home lane; `pend` are all that have not left (R84, R205) (DEDUCED, log entry 124). -/
def orderly (pend may : List (Nat × Access)) : List (Nat × Access) :=
  (sortBy (fun p => 32 * p.2.seq + laneOf p.1) may).foldl (fun ok p =>
    if pend.all fun q => (!leavesWith q p || holdsAccess may q) && (!leavesBefore q p || holdsAccess ok q)
    then ok ++ [p] else ok) []

/-- The accesses that wait in a core's threads; a parked thread's order no other's (R97, R182). -/
def State.pending (s : State) (c : Nat) : List (Nat × Access) :=
  (s.threads.filter fun e => coreOf e.1 = c && !e.2.parked).flatMap fun e => e.2.deferred.map fun a => (e.1, a)

/-- Where an access was issued, for a fault record. -/
def Access.faultAt (a : Access) : FaultAt :=
  { hdr := a.hdr, word := a.word, scope := a.scope, swcode := 0, detail := 0 }

/-- The threads that a fault of some accesses suspends: the lanes, or every live member of the scope group (R112,
R343). -/
def State.suspends (s : State) (tas : List (Nat × Access)) : List Nat :=
  distinct (tas.flatMap fun p =>
    if p.2.scope = .lane then [p.1] else (p.2.parties p.1).filter fun m => (s.thr m).live)

/-- Threads park on their accesses with one record; the replay walks again (R179, R182, R343) (DEDUCED, log entry 32). -/
def State.park (s : State) (tas : List (Nat × Access)) (f : MemFault) : State :=
  match tas with
  | [] => s
  | (_, a) :: _ =>
    let ts := s.suspends tas
    let s := tas.foldr (fun p s => s.modThr p.1 fun th =>
      { th with deferred := { p.2 with again := true } :: th.deferred }) s
    (s.modThrs (ts ++ tas.map Prod.fst) fun th => { th with parked := true }).record ts a.faultAt f

/-- Threads leave the groups of every clause in progress or halted. -/
def State.leaveIssues (s : State) (ts : List Nat) : State :=
  let leave : Tab Issue → Tab Issue := fun l =>
    l.map fun e => (e.1, { e.2 with group := e.2.group.filter fun t => !ts.contains t })
  { s with issues := leave s.issues, halted := leave s.halted }

/-- Literals of an access's word. -/
def Acc.lits : Acc → Nat
  | .specOp .. | .tex .. => 1
  | _ => 0

/-- COUNT of the clause at an address, where its header can be fetched. -/
def State.countAt (s : State) (t : Nat) (hdr : BitVec 48) : Nat :=
  match (s.fetch t hdr.toNat).1 with
  | .ok w => match decodeHeader w with | some h => h.count | none => 15
  | .error _ => 15

/-- One fault of some accesses met after their word: the threads stand at the word again, with one record (R342)
(DEDUCED, log entry 32). -/
def State.raiseAtMany (s : State) (tas : List (Nat × Access)) (f : MemFault) : State :=
  match tas with
  | [] => s
  | (t, a) :: _ =>
    let ts := s.suspends tas
    let s := tas.foldl (fun s p => s.clearFlags p.2.flag p.2.members) s
    let s := (s.leaveIssues ts).modThrs ts fun th => { th with pc := a.hdr }
    s.raise ts a.faultAt f
      (some { word := a.word - 1, next := a.word + a.acc.lits, count := s.countAt t a.hdr, parks := f.parks })

/-- A fault of one access met after its word. -/
def State.raiseAt (s : State) (t : Nat) (a : Access) (f : MemFault) : State := s.raiseAtMany [(t, a)] f

/-- An operation withdrawn without its effect; its flag clears. -/
def State.dropOp (s : State) (id : Nat) : State :=
  match s.ops.find id with
  | none => s
  | some o => ({ s with ops := s.ops.del id }).clearFlags o.acc.flag o.acc.members

/-- A command that waits in its queue for an access to leave the core is withdrawn. -/
def State.dropHeld (s : State) (t : Nat) (a : Access) : State :=
  match a.acc with
  | .engine e =>
    let mine (x : Cmd) : Bool := x.held && x.thr = t && x.acc.seq = a.seq
    let ids := (((s.block (coreOf t)).engq.get e []).filter mine).map Cmd.op
    let s := s.modBlock (coreOf t) fun b => { b with engq := b.engq.put e ((b.engq.get e []).filter fun x => !mine x) }
    ids.foldl State.dropOp s
  | _ => s

/-- Whether discarding recorded work discards a waiting access: an arrival at a barrier is no access (R348). -/
def Acc.discards : Acc → Bool
  | .arrive .. => false
  | _ => true

/-- Recorded accesses of a thread from a place in the order of issue on discarded; their flags clear (R348, R388). -/
def State.dropFrom (s : State) (t n : Nat) : State :=
  let out (a : Access) : Bool := a.acc.discards && n ≤ a.seq
  let ds := (s.thr t).deferred.filter out
  let s := s.modThr t fun th => { th with deferred := th.deferred.filter fun a => !out a }
  ds.foldl (fun s a => (s.dropHeld t a).clearFlags a.flag a.members) s

/-- All of them. -/
def State.dropDeferred (s : State) (t : Nat) : State := s.dropFrom t 0

end Sys2Proof.Machine
end

