-- ==== Sys2Proof/Machine/Conflict.lean ====
section
/-! DEFINITION. Boosted speculative tasks (R356-R371): keys and liveness, the conflict unit, admission, aborts,
inverse routines, commit and drain. -/

namespace Sys2Proof.Machine

/-! ## Tasks and keys (R356) -/

/-- A task's key: TS, then sr.spawnid. -/
abbrev TaskKey := Nat × Nat

def keyLt (a b : TaskKey) : Bool := a.1 < b.1 || (a.1 = b.1 && a.2 < b.2)

/-- The launch of a thread's block. -/
def State.launchOf (s : State) (t : Nat) : Nat := (s.block (coreOf t)).launch

/-- The key of a thread's task. -/
def State.taskKey (s : State) (t : Nat) : TaskKey :=
  (((s.thr t).task.map Task.ts).getD 0, (s.thr t).spawnid.toNat)

/-- The live threads of a launch that are tasks. -/
def State.taskThreads (s : State) (l : Nat) : List Nat :=
  match s.launch? l with
  | none => []
  | some x => (s.threads.filter fun e =>
      e.2.task.isSome && e.2.live && x.installed.contains (coreOf e.1) && bankOf e.1 = 0).map Prod.fst

/-- The spawned threads of a block that have not started: in bins, in the overflow area, and held. -/
def State.waitingSpawns (s : State) (c : Nat) : List Spawned :=
  (s.block c).bins.flatMap Bin.members ++ (s.block c).overflow
    ++ (s.threads.filter fun e => coreOf e.1 = c).flatMap fun e => e.2.spawning

/-- The live tasks of a launch, those in bins among them: key and whether ordered. -/
def State.liveTasks (s : State) (l : Nat) : List (TaskKey × Bool) :=
  let run := (s.taskThreads l).map fun t => (s.taskKey t, ((s.thr t).task.map Task.ordered).getD false)
  match s.launch? l with
  | none => run
  | some x => run ++ (x.installed.flatMap s.waitingSpawns).filterMap fun w =>
      w.task.map fun k => ((k.ts, w.req.id.toNat), k.ordered)

/-- Whether a thread's task is the oldest live task of its launch. -/
def State.oldest (s : State) (t : Nat) : Bool :=
  (s.liveTasks (s.launchOf t)).all fun k => !keyLt k.1 (s.taskKey t)

/-- The task's state of a thread changed. -/
def State.modTask (s : State) (t : Nat) (f : Task → Task) : State :=
  s.modThr t fun th => { th with task := th.task.map f }

def State.specOf (s : State) (l : Nat) : Spec := ((s.launch? l).map Launch.spec).getD Spec.empty
def State.modSpec (s : State) (l : Nat) (f : Spec → Spec) : State := s.modLaunch l fun x => { x with spec := f x.spec }

/-- A count of spec.stat: it saturates (R371). -/
def sat16 (n : Nat) : Nat := min n 0xFFFF

/-- spec.stat (R371). -/
def Spec.stat (x : Spec) : Dword :=
  d64 (sat16 x.miss * 2 ^ 48 + sat16 x.aborts * 2 ^ 32 + sat16 x.conflicts * 2 ^ 16 + sat16 x.stalls)

/-! ## The conflict unit (R361-R363) -/

/-- The home die of a handle: the parity of its bits. -/
def homeDie (h : Dword) : Nat := ((List.range 64).filter fun i => h.getLsbD i).length % 2

/-- Whether a launch's entries are in the units: they leave them while it is saved (R369). -/
def Launch.inUnits (x : Launch) : Bool :=
  match x.phase with
  | .saved .. | .restoring .. => false
  | _ => true

/-- Entries in use on a die, of the reserve or ordinary. -/
def State.used (s : State) (die : Nat) (reserve : Bool) : Nat :=
  s.launches.foldl (fun n x =>
    if x.2.inUnits then n + (x.2.spec.ents.filter fun e => homeDie e.handle = die && e.reserve = reserve).length
    else n) 0

/-- The table's code of a pair of kinds (R362). -/
def Spec.code (x : Spec) (e n : Nat) : Nat := bitsOf x.pairs (32 * e + 2 * n + 1) (32 * e + 2 * n)

/-- Whether a kind is missing from the table. -/
def Spec.misses (x : Spec) (e n : Nat) : Bool := !bitOf x.present e || !bitOf x.present n

/-- The comparison of R363: kind e with first argument b against kind n with first argument a. -/
def Spec.conflict (x : Spec) (e : Nat) (b : Word) (n : Nat) (a : Word) : Bool :=
  let p := x.code e n
  let q := x.code n e
  if x.misses e n then true
  else if p % 2 = 1 || q % 2 = 1 then true
  else if p = 2 || q = 2 then a = b
  else false

/-- The live entries of other tasks on a handle. -/
def Spec.others (x : Spec) (h : Dword) (me : TaskKey) : List ConfEnt :=
  x.ents.filter fun e => e.handle = h && (e.ts, e.id) ≠ me

/-- The entries that conflict with an operation (DEDUCED, log entry 58). -/
def Spec.clashes (x : Spec) (h : Dword) (me : TaskKey) (n : Nat) (a : Word) : List ConfEnt :=
  (x.others h me).filter fun e => x.conflict e.kind e.arg n a

/-- The comparisons of an operation counted (R371). -/
def Spec.count (x : Spec) (h : Dword) (me : TaskKey) (n : Nat) (a : Word) : Spec :=
  { x with
    miss := x.miss + ((x.others h me).filter fun e => x.misses e.kind n).length
    conflicts := x.conflicts + (x.clashes h me n a).length }

/-! ## Removal of entries (R368) -/

/-- A task's entries removed; the removal is a release on the LANE path of its writes to the default region. SPEC.OPs
that they stood in the way of wait for them no more (R364). -/
def State.removeEntries (s : State) (t : Nat) : State :=
  let l := s.launchOf t
  let me := s.taskKey t
  let mine := (s.specOf l).ents.filter fun e => (e.ts, e.id) = me
  let hs := mine.foldl (fun acc e => if acc.contains e.handle then acc else acc ++ [e.handle]) ([] : List Dword)
  let s := hs.foldl (fun s h => s.releaseAt (specObj l h) 0 (s.covered t (specObj l h) 1 false)) s
  let free (o : Op) : Op :=
    if s.launchOf o.thr = l then { o with blockers := o.blockers.filter fun k => k ≠ me } else o
  let s : State := { s with ops := s.ops.map fun e => (e.1, free e.2) }
  s.modSpec l fun x => { x with ents := x.ents.filter fun e => (e.ts, e.id) ≠ me }

/-! ## Aborts (R364-R366) -/

/-- A waiting SPEC.OP or SPEC.COMMIT of a thread. -/
def State.specWaits (s : State) (t : Nat) : List Nat :=
  (s.ops.filter fun e => e.2.thr = t && e.2.result.isNone
    && match e.2.acc.acc with | .specOp .. | .specCommit => true | _ => false).map Prod.fst

/-- The places in the order of issue of the SPEC.OPs at which a thread waits, held back or not. -/
def State.specOpsOf (s : State) (t : Nat) : List Nat :=
  (((s.thr t).deferred ++ (s.specWaits t).filterMap fun id => (s.ops.find id).map Op.acc).filter fun a =>
    match a.acc with | .specOp .. => true | _ => false).map Access.seq

/-- An abort is taken: a wait is abandoned, with what SPEC.OP holds back, and the thread leaves its clause; earlier
accesses still leave, and it is held until its flags clear. A suspended or parked thread stays so until a RESUME; KILL
ends that (R365, R366, R388) (DEDUCED, log entry 62). -/
def State.takeAbort (s : State) (t : Nat) (kill : Bool) : State :=
  let s := (s.specOpsOf t).foldl (fun s n => s.dropFrom t n) s
  let s := (s.specWaits t).foldl State.dropOp s
  let s := s.leaveIssues [t]
  let s := s.modThr t fun th => { th with
    parked := th.parked && !kill, susp := (th.susp || th.suspNext) && !kill, trapped := th.trapped && !kill
    suspNext := false, stop := none, npc := none, rdv := none, jwait := [], brx := none, refill := none, popped := none }
  s.modTask t fun k => { k with request := false, killed := k.killed || kill, phase := .abort }

/-- An abort request to a task (R364, R365): while it waits at SPEC.OP, SPEC.COMMIT or an EXIT it is taken at
once; to an aborting task it has no effect; otherwise it waits to be taken. -/
def State.requestAbort (s : State) (t : Nat) : State :=
  match (s.thr t).task with
  | none => s
  | some k =>
    match k.phase with
    | .abort | .inverse | .leaving => s
    | .exiting => s.takeAbort t false
    | .run => if (s.specWaits t).isEmpty && (s.specOpsOf t).isEmpty then s.modTask t fun k => { k with request := true } else s.takeAbort t false

/-- The tasks of conflicting entries asked to abort. -/
def State.requestAborts (s : State) (l : Nat) (es : List ConfEnt) : State :=
  ((s.taskThreads l).filter fun t => es.any fun e => (e.ts, e.id) = s.taskKey t).foldl State.requestAbort s

/-! ## Commit and drain (R367, R368) -/

/-- Whether a task may commit: ordered tasks wait for every older ordered one, and, as the commit is a release, every
task for its earlier accesses that are still held back (R217, R367, R368). -/
def State.mayCommit (s : State) (t : Nat) : Bool :=
  match (s.thr t).task with
  | none => true
  | some k => (s.thr t).deferred.isEmpty && (!k.ordered
      || (s.liveTasks (s.launchOf t)).all fun o => !o.2 || !keyLt o.1 (s.taskKey t))

/-- A commit: the entries go, the floor rises for an ordered task, the release is made, and the thread goes on
as a non-task thread. -/
def State.commitTask (s : State) (t : Nat) : State :=
  match (s.thr t).task with
  | none => s
  | some k =>
    let me := s.taskKey t
    let s := s.removeEntries t
    let s := if k.ordered then s.modSpec (s.launchOf t) fun x => { x with floor := some me } else s
    (s.fenceRelease t true).modThr t fun th => { th with task := none }

/-! ## SPEC.OP (R360, R388) -/

/-- The 32 bytes of an undo record (R360). -/
def undoBytes (kind : Nat) (inv handle : Dword) (a b : Word) : List Byte :=
  bytesOfNat 8 inv.toNat ++ bytesOfNat 4 a.toNat ++ bytesOfNat 4 b.toNat ++ bytesOfNat 8 handle.toNat
    ++ [BitVec.ofNat 8 (kind % 16)] ++ zeros 7

/-- The undo record's two halves translated as writes (DEDUCED, log entry 59). -/
def State.undoPlaces (s : State) (t : Nat) (top : Nat) (kind : AKind) : Except MemFault (List (Nat × Nat)) × State :=
  match s.translate t (d64 top) 16 kind false with
  | (.error f, s) => (.error f, s)
  | (.ok p, s) =>
    match s.translate t (d64 (top + 16)) 16 kind false with
    | (.error f, s) => (.error f, s)
    | (.ok q, s) => (.ok [p, q], s)

/-- An operation admitted: the undo record pushed, the entry registered, the bracket opened, and every
earlier removal on the handle acquired (R358, R360, R368) (DEDUCED, log entry 57). -/
def State.admitOp (s : State) (t : Nat) (a : Access) (kind : Nat) (inv handle : Dword) (x y : Word)
    (reserve : Bool) : Option MemFault × State :=
  match (s.thr t).task with
  | none => (none, s)
  | some k =>
    let top := k.undoTop.toNat
    if (s.thr t).sp.toNat < top + 32 then (some (plainFault clsSpecOverflow), s)
    else match s.undoPlaces t top .write with
    | (.error f, s) => (some f, s)
    | (.ok ps, s) =>
      let l := s.launchOf t
      let me := s.taskKey t
      let bs := undoBytes kind inv handle x y
      let s := (ps.zip [(top, bs.take 16), (top + 16, bs.drop 16)]).foldl (fun s p =>
        s.writePhys t (pathVia pathLane p.1.2) (s.regionObj t p.2.1) p.1.1 p.2.2) s
      let e : ConfEnt := { ts := me.1, id := me.2, kind := kind, arg := x, handle := handle, reserve := reserve }
      let s := s.modSpec l fun z => { z with ents := z.ents ++ [e] }
      let s := s.modTask t fun k => { k with undoTop := k.undoTop + 32, bracket := some 0 }
      (none, (s.acquire t (specObj l handle) 0 1).opFor t a 0 0 (some []))

/-- Whether a free ordinary entry exists on a handle's home die (R361) (DEDUCED, log entry 59). -/
def State.roomFor (s : State) (h : Dword) : Bool := s.used (homeDie h) false < 8128

/-- A SPEC.OP that waits: for the entries of some tasks to go, or stalled for an entry to free. A request that its task
has not taken yet is taken at once (R361, R364, R365). -/
def State.specWait (s : State) (t : Nat) (a : Access) (on : List TaskKey) (stalled : Bool) : State :=
  let s := s.addOp { thr := t, acc := a, pa := 0, mt := 0, epoch := s.epoch, serial := s.serial, result := none
                     blockers := on, stalled := stalled }
  if ((s.thr t).task.map Task.request).getD false then s.takeAbort t false else s

/-- The comparison and what follows it: an abort, a wait, a stall, or the admission. Every younger task of a conflicting
entry is asked to abort; a stall is counted once (R361, R363, R364, R371) (DEDUCED, log entry 57; DEDUCED, log entry
58). -/
def State.specAttempt (s : State) (t : Nat) (a : Access) (kind : Nat) (inv handle : Dword) (x y : Word)
    (stalled : Bool := false) : Option MemFault × State :=
  let l := s.launchOf t
  let me := s.taskKey t
  let sp := s.specOf l
  let cs := sp.clashes handle me kind x
  let s := s.modSpec l fun z => z.count handle me kind x
  let young := cs.filter fun e => !keyLt (e.ts, e.id) me
  if young.length < cs.length then
    (none, (((s.dropFrom t a.seq).clearFlags a.flag a.members).takeAbort t false).requestAborts l young)
  else if !cs.isEmpty then
    (none, (s.specWait t a (cs.map fun e => (e.ts, e.id)) false).requestAborts l young)
  else if s.roomFor handle then s.admitOp t a kind inv handle x y false
  else if s.oldest t then
    if s.used (homeDie handle) true < 64 then s.admitOp t a kind inv handle x y true
    else (some (plainFault clsSpecOverflow), s)
  else
    let s := if stalled then s else s.modSpec l fun z => { z with stalls := z.stalls + 1 }
    (none, s.specWait t a [] true)

/-- Whether a waiting operation is compared again: every entry that stood in its way has been removed, or, where it
stalls, an entry is free or its task has become the oldest (R361, R364). -/
def State.specReady (s : State) (o : Op) (handle : Dword) : Bool :=
  o.blockers.isEmpty && (!o.stalled || s.roomFor handle || s.oldest o.thr)

/-! ## What waits for tasks to end -/

/-- One waiting operation tried again, unless its launch is away (R369). A task that has reached an EXIT behind its
SPEC.COMMIT exits at the commit (R367) (DEDUCED, log entry 57). -/
def State.specRetry (s : State) (id : Nat) : State :=
  match s.ops.find id with
  | none => s
  | some o =>
    let t := o.thr
    if s.away t then s
    else
    match o.acc.acc, o.result with
    | .specOp kind inv handle x y, none =>
      if s.specReady o handle then
        match ({ s with ops := s.ops.del id }).specAttempt t o.acc kind inv handle x y o.stalled with
        | (none, s) => s
        | (some f, s) => s.raiseAt t o.acc f
      else s
    | .specCommit, none =>
      if s.mayCommit t then
        let left := (s.thr t).task.map Task.phase = some .exiting
        let s := ({ s with ops := s.ops.put id { o with result := some [] } }).commitTask t
        if left then s.exitThread t else s
      else s
    | .specDrain, none =>
      if (s.liveTasks (s.launchOf t)).isEmpty then { s with ops := s.ops.put id { o with result := some [] } } else s
    | _, _ => s

/-- The end of a task at an EXIT of its inverse routine: its entries go, and it exits (R366). -/
def State.endTask (s : State) (t : Nat) : State :=
  let s := s.removeEntries t
  let s := s.modSpec (s.launchOf t) fun x => { x with aborts := x.aborts + 1 }
  (s.modThr t fun th => { th with task := none }).exitThread t

/-- A task at an EXIT, which ends once it may commit, or once the stores of its inverse routine have left (R366-R368). -/
def State.exitNow (s : State) (t : Nat) : State :=
  match ((s.thr t).task.map Task.phase) with
  | some .exiting => if s.mayCommit t then (s.commitTask t).exitThread t else s
  | some .leaving => if (s.thr t).deferred.isEmpty then s.endTask t else s
  | _ => s

/-- The threads of tasks at an EXIT end where they may. -/
def State.specExits (s : State) : State :=
  ((s.threads.filter fun e => !s.away e.1 && e.2.task.isSome).map Prod.fst).foldl State.exitNow s

/-- Everything that waits for tasks to end or for entries to free, tried again some times. -/
def State.specSettle (s : State) : Nat → State
  | 0 => s
  | fuel + 1 => State.specSettle (s.ops.keys.foldl State.specRetry s).specExits fuel

/-- Everything that waits tried again until nothing can move: each pass but the last ends some wait, or finds what an
operation waits for next. -/
def State.afterTasks (s : State) : State :=
  s.specSettle (2 * (s.ops.filter fun e => e.2.result.isNone).length + (s.threads.filter fun e => e.2.task.isSome).length + 1)

/-! ## The abort itself (R366) -/

/-- The top of a spawned thread's stack area (R132) (DEDUCED, log entry 59). -/
def State.stackTop (s : State) (t : Nat) : BitVec 48 :=
  match s.launch? (s.launchOf t) with
  | some x => (s.thr t).base + BitVec.ofNat 48 (16 * x.record.stackSz)
  | none => (s.thr t).sp

/-- A task restarted with its key: the registers of its thread as R25 starts a thread, its warp's uniform and join
registers and its completion flags among them (R25, R366) (DEDUCED, log entry 61). -/
def State.restartTask (s : State) (t : Nat) : State :=
  let top := s.stackTop t
  (s.modWarp (warpKeyOf t) fun w => { w with s := [], j := [] }).modThr t fun th =>
    match th.task with
    | none => th
    | some k => { th with
        v := [(0, k.a), (1, k.b)], p := 0, cf := 0, pc := k.entry, npc := none, ret := [], spilled := 0, depth := 0
        sp := top, yielded := false, stop := none, staged := []
        task := some { k with undoTop := th.base, bracket := none, request := false, phase := .run } }

/-- The end of an abort: the entries go, and the task is discarded or restarts (DEDUCED, log entry 64). -/
def State.finishAbort (s : State) (t : Nat) : State :=
  match (s.thr t).task with
  | none => s
  | some k =>
    let s := s.removeEntries t
    let s := s.modSpec (s.launchOf t) fun x => { x with aborts := x.aborts + 1 }
    if k.discard || k.killed then (s.modThr t fun th => { th with task := none }).exitThread t
    else s.restartTask t

/-- The record below the undo top read back; the next inverse routine starts, or the abort ends, once what the thread's
ordering instructions hold back has left. A fault of the read parks the thread (R366, R368, R372) (DEDUCED, log entry
60). -/
def State.abortNext (s : State) (t : Nat) : State :=
  match (s.thr t).task with
  | none => s
  | some k =>
    if k.undoTop.toNat ≤ (s.thr t).base.toNat then
      if (s.thr t).deferred.isEmpty then (s.finishAbort t).afterTasks
      else s.modTask t fun k => { k with phase := .abort }
    else
      let at_ := k.undoTop.toNat - 32
      match s.undoPlaces t at_ .read with
      | (.error f, s) =>
        let s := s.modTask t fun k => { k with phase := .abort }
        (s.modThr t fun th => { th with parked := true }).record [t]
          { hdr := (s.thr t).pc, word := 0, scope := .lane, swcode := 0, detail := 0 } f
      | (.ok ps, s) =>
        let r := (ps.zip [at_, at_ + 16]).foldl (fun (acc : List Byte × State) p =>
          let x := acc.2.readPhys t pathLane (acc.2.regionObj t p.2) p.1.1 16 acc.2.serial
          (acc.1 ++ x.1, x.2)) (([] : List Byte), s)
        let bs := r.1
        (r.2.modThr t fun th => { th with
            v := (th.v.put 0 (w32n (fieldOf bs 8 4))).put 1 (w32n (fieldOf bs 12 4))
            pc := BitVec.ofNat 48 (fieldOf bs 0 8), npc := none, ret := [], spilled := 0, depth := 0 }).modTask t
          fun k => { k with bracket := none, phase := .inverse }

/-- RET at depth 0 inside an inverse routine: the record is used up, and the abort goes on (R366) (DEDUCED, log entry 60). -/
def State.inverseDone (s : State) (t : Nat) : State :=
  (s.modTask t fun k => { k with undoTop := k.undoTop - 32 }).abortNext t

/-- EXIT of a task (R366, R367, R372): with a bracket open it is ILLEGAL_OP; inside an inverse it ends the
thread and the abort; otherwise the task commits first, and waits for that. -/
def State.exitTask (s : State) (t : Nat) (k : Task) : Option MemFault × State :=
  match k.phase with
  | .inverse | .abort | .leaving =>
    if (s.thr t).deferred.isEmpty then (none, (s.endTask t).afterTasks)
    else (none, (s.leaveIssues [t]).modTask t fun k => { k with phase := .leaving })
  | .run | .exiting =>
    if k.bracket.isSome then (some (plainFault clsIllegalOp), s)
    else if s.mayCommit t then (none, ((s.commitTask t).exitThread t).afterTasks)
    else (none, (s.leaveIssues [t]).modTask t fun k => { k with phase := .exiting })

/-- Whether a task waits: at a SPEC.OP, a SPEC.COMMIT or an EXIT (R361, R364, R367). -/
def State.taskWaits (s : State) (t : Nat) : Bool :=
  match (s.thr t).task with
  | none => false
  | some k => k.phase = .exiting || k.phase = .leaving || !(s.specWaits t).isEmpty

end Sys2Proof.Machine
end

