-- ==== Sys2Proof/Machine/Narrow.lean ====
section
/-! DEFINITION. The narrow formats of Trellis (R255-R257), 2:4 expansion (R248), the records of the weight
buffer (R261, R262) and the accumulation of an element (R264). -/

namespace Sys2Proof.Machine

/-! ## Formats (R255-R257) -/

/-- A trit's weight from its digit (R255). -/
def tritOf (byte i : Nat) : Int :=
  if 243 ≤ byte then 0
  else match byte / 3 ^ i % 3 with
    | 0 => 0
    | 1 => 1
    | _ => -1

/-- E4 and E5: exponent and mantissa widths (R256); the bias is 2^(e-1). -/
def fmtE4 : Fmt := ⟨4, 3⟩
def fmtE5 : Fmt := ⟨5, 2⟩

/-- The bias of E4 and E5 (R256). -/
def Fmt.nbias (f : Fmt) : Nat := 2 ^ (f.ebits - 1)

/-- The value of an E4 or E5 byte: 0x80 is the NaN, every exponent is ordinary (R256). -/
def Fmt.ndecode (f : Fmt) (x : Nat) : FVal :=
  let neg := bitOf x 7
  let e := bitsOf x 6 f.mbits
  let m := x % 2 ^ f.mbits
  if x % 256 = 0x80 then .nan
  else if e = 0 then scaled neg m (1 - (f.nbias : Int) - f.mbits)
  else scaled neg (2 ^ f.mbits + m) ((e : Int) - f.nbias - f.mbits)

/-- The magnitude bits of a positive rational in E4 or E5: nearest-even, then at most 0x7F (R257). -/
def Fmt.nroundMag (f : Fmt) (num den : Nat) : Nat :=
  if num = 0 then 0
  else
    let emin : Int := 1 - (f.nbias : Int)
    let e := max (ilog2 num den) emin
    let q := e - f.mbits
    let m := if 0 ≤ q then roundQ false num (den * 2 ^ q.toNat) else roundQ false (num * 2 ^ (-q).toNat) den
    min 0x7F ((e - emin).toNat * 2 ^ f.mbits + m)

/-- QuantE4 and QuantE5 (R257). -/
def Fmt.nquant (f : Fmt) (v : FVal) : Nat :=
  match v with
  | .nan => 0x80
  | .inf neg => if neg then 0xFF else 0x7F
  | .fin neg num den =>
    let m := f.nroundMag num den
    if m = 0 then 0 else (if neg then 0x80 else 0) + m

/-- The drain formats (R270): 0 FP32, 1 INT32, 2 BF16, 3 E4, 4 E5. -/
def drainSize (fmt : Nat) : Nat := if fmt ≤ 1 then 4 else if fmt = 2 then 2 else 1

/-- Quant into a narrow drain format. -/
def quant (fmt : Nat) (v : FVal) : Nat :=
  match fmt with
  | 2 => fmtBF16.round false v
  | 3 => fmtE4.nquant v
  | _ => fmtE5.nquant v

/-- The value of an encoding in a narrow drain format. -/
def unquant (fmt x : Nat) : FVal :=
  match fmt with
  | 2 => fmtBF16.decode x
  | 3 => fmtE4.ndecode x
  | _ => fmtE5.ndecode x

/-- RoundF32(·, nearest-even), denormals kept. -/
def roundF32 (v : FVal) : Word := BitVec.ofNat 32 (fmtF32.round false v)
/-- The value of an F32 word. -/
def f32 (w : Word) : FVal := fmtF32.decode w.toNat

/-! ## 2:4 expansion (R248) -/

/-- One group of four: the dense elements, and whether the group is invalid. -/
def expandGroup (a b x y : Nat) : List Nat × Bool :=
  if a < b then ((List.range 4).map (fun i => if i = a then x else if i = b then y else 0), false)
  else ([0, 0, 0, 0], true)

/-- Groups from a number on: values kept and metadata nibbles, in order. -/
def expand24 (vals : List Nat) (nibs : List Nat) : Nat → List Nat × Bool
  | 0 => ([], false)
  | n + 1 =>
    let m := nibs.headD 0
    let g := expandGroup (m % 4) (m / 4 % 4) (vals.headD 0) (vals.getD 1 0)
    let r := expand24 (vals.drop 2) (nibs.drop 1) n
    (g.1 ++ r.1, g.2 || r.2)

/-- The metadata nibbles of bytes, low nibble first. -/
def nibbles (bs : List Byte) : List Nat := bs.flatMap fun b => [b.toNat % 16, b.toNat / 16]

/-- Elements of 1 or 2 bytes. -/
def elemsOf (e : Nat) (bs : List Byte) : Nat → List Nat
  | 0 => []
  | n + 1 => natOfBytes (bs.take e) :: elemsOf e (bs.drop e) n

/-! ## Weight-buffer records (R262) -/

/-- The sticky bits of the Trellis status word (R269). -/
def fmterrBit : Nat := 2
def ovfBit : Nat := 4
def wfmtBit : Nat := 8

/-- The length of a record by its header byte (R262). -/
def recLen (h : Nat) : Nat :=
  match h with
  | 0 => 65
  | 2 => 41
  | 3 => 37
  | 4 => 2
  | _ => 1

/-- The dense line of a record, and whether it sets WFMT. -/
def recLine (bs : List Byte) : List Nat × Bool :=
  let body := bs.drop 1
  match (bs.headD 0).toNat with
  | 0 => (body.map BitVec.toNat, false)
  | 1 => (List.replicate 64 0, false)
  | 2 => expand24 (elemsOf 1 body 32) (nibbles (body.drop 32)) 16
  | 3 =>
    let r := expand24 (elemsOf 2 body 16) (nibbles (body.drop 32)) 8
    (r.1.flatMap fun e => [e % 256, e / 256], r.2)
  | 4 => (List.replicate 64 (body.headD 0).toNat, false)
  | _ => (List.replicate 64 0, true)

/-- n dense lines from a byte offset of a core's buffer; `none` where a record passes the end. -/
def denseLines (rd : Nat → Nat → List Byte) (off : Nat) : Nat → Option (List Nat × Bool)
  | 0 => some ([], false)
  | n + 1 =>
    if 262144 ≤ off then none
    else
      let h := ((rd off 1).headD 0).toNat
      if 262144 < off + recLen h then none
      else
        let l := recLine (rd off (recLen h))
        match denseLines rd (off + recLen h) n with
        | none => none
        | some r => some (l.1 ++ r.1, l.2 || r.2)

/-- The bytes that n records from an offset take, at most to the buffer's end. -/
def recSpan (rd : Nat → Nat → List Byte) (off : Nat) : Nat → Nat
  | 0 => 0
  | n + 1 =>
    if 262144 ≤ off then 0
    else
      let k := recLen (((rd off 1).headD 0).toNat)
      k + recSpan rd (off + k) n

/-! ## MMA forms (R258) -/

/-- Forms in opcode order: 0 T8, 1 I8, 2 E4, 3 E5, 4 BF, 5 H, 6 F32, 7 T8S, 8 I8S. -/
def mmaIsT8 (form : Nat) : Bool := form = 0 || form = 7
def mmaScaled (form : Nat) : Bool := form = 7 || form = 8
/-- K, the element size of A and registers per lane (R258). -/
def mmaK (form : Nat) : Nat := if mmaIsT8 form then 64 else if form = 6 then 8 else if form = 4 ∨ form = 5 then 16 else 32
def mmaE (form : Nat) : Nat := if form = 6 then 4 else if form = 4 ∨ form = 5 then 2 else 1
def mmaRegs (form : Nat) : Nat := if mmaIsT8 form then 8 else 4

/-- The value of an A or B element code in a form whose elements are not T8 weights. -/
def mmaVal (form x : Nat) : FVal :=
  match form with
  | 2 => fmtE4.ndecode x
  | 3 => fmtE5.ndecode x
  | 4 => fmtBF16.decode x
  | 5 => fmtF16.decode x
  | 6 => fmtF32.decode x
  | _ => let v := sextI x 8; .fin (v < 0) v.natAbs 1

/-- The integer of a B element: a trit weight or an I8. -/
def mmaIntB (form x : Nat) : Int := if mmaIsT8 form then (if x = 2 then -1 else x) else sextI x 8

/-- B's element codes by column from the dense bytes (R261); a T8 weight is coded 0, 1 or 2. -/
def mmaCols (form : Nat) (dense : List Nat) : List (List Nat) :=
  let arr := dense.toArray
  (List.range 64).map fun c =>
    (List.range (mmaK form)).map fun k =>
      if mmaIsT8 form then
        let w := tritOf (arr.getD (13 * c + k / 5) 0) (k % 5)
        if w = -1 then 2 else w.toNat
      else
        let o := (c * mmaK form + k) * mmaE form
        (List.range (mmaE form)).foldl (fun n i => n + arr.getD (o + i) 0 * 256 ^ i) 0

/-- Whether a T8 byte of the dense B sets FMTERR (R255). -/
def mmaFmtErr (form : Nat) (dense : List Nat) : Bool := mmaIsT8 form && dense.any fun b => 243 ≤ b

/-- Groups of eight. -/
def eights {α : Type} (l : List α) : Nat → List (List α)
  | 0 => []
  | n + 1 => l.take 8 :: eights (l.drop 8) n

/-- The exact sum of values, in order. -/
def sumVals : List FVal → FVal
  | [] => .fin false 0 1
  | v :: vs => vs.foldl FVal.add v

/-- An exact zero group sum of a scaled form is +0 (R264). -/
def plusZero (v : FVal) : FVal :=
  match v with
  | .fin _ 0 d => .fin false 0 d
  | v => v

/-- One group's step on an accumulator element: its new bits, and whether an integer sum overflowed
(R264). -/
def mmaGroup (form : Nat) (scale : Nat) (acc : Word × Bool) (g : List (Nat × Nat)) : Word × Bool :=
  if form ≤ 1 then
    let s : Int := g.foldl (fun n p => n + sextI p.1 8 * mmaIntB form p.2) 0
    let t := s32 acc.1 + s
    (w32 t, acc.2 || t < -2147483648 || 2147483647 < t)
  else
    let s :=
      if mmaScaled form then
        let n : Int := g.foldl (fun n p => n + sextI p.1 8 * mmaIntB form p.2) 0
        plusZero ((FVal.fin (n < 0) n.natAbs 1).mul (fmtBF16.decode scale))
      else sumVals (g.map fun p => (mmaVal form p.1).mul (mmaVal form p.2))
    (roundF32 ((f32 acc.1).add (f32 (roundF32 s))), acc.2)

/-- One accumulator element after an MMA: its row of A and its column of B (R264). -/
def mmaElem (form : Nat) (acc : Word) (row col : List Nat) (scale : Nat) : Word × Bool :=
  (eights (row.zip col) (mmaK form / 8)).foldl (mmaGroup form scale) (acc, false)

end Sys2Proof.Machine
end

