-- ==== Sys2Proof/Machine/Surface.lean ====
section
/-! DEFINITION. Surfaces and their owners (R300, R301), consent grants (R317, R318), the ownership log (R316),
pixel maps (R314, R322), layers (R324), compressed blocks (R312) and texture sampling (R313, R334). -/

namespace Sys2Proof.Machine

/-! ## The surface table (R301) -/

structure Surf where
  base : Nat
  w : Nat
  h : Nat
  pitch : Nat
  fmt : Nat
  owner : Nat
  cmp : Bool
  screen : Bool
  wrap : Bool
  disp : Nat
  vdev : Nat
  deriving DecidableEq, Repr

/-- The surface of an entry's 32 bytes; `none` where it is absent or malformed. -/
def surfOf (e : Nat) : Option Surf :=
  let flags := bitsOf e 151 144
  let x : Surf :=
    { base := bitsOf e 63 0, w := bitsOf e 79 64, h := bitsOf e 95 80, pitch := bitsOf e 127 96
      fmt := bitsOf e 135 128, owner := bitsOf e 143 136, cmp := bitOf flags 0, screen := bitOf flags 1
      wrap := bitOf flags 2, disp := bitsOf e 159 152, vdev := bitsOf e 164 160 }
  if x.fmt ≤ 2 && flags < 8 && bitsOf e 255 165 = 0 && (x.screen || x.disp = 0)
      && 1 ≤ x.w && x.w ≤ 16384 && 1 ≤ x.h && x.h ≤ 16384
      && (x.screen || x.base % 256 = 0)
      && (x.screen || x.cmp || (x.pitch % 256 = 0 && 4 * x.w ≤ x.pitch))
      && (!x.cmp || (x.fmt = 0 && !x.screen)) && (!x.screen || x.disp ≤ 3)
  then some x else none

/-- The surface that a handle names for a virtual device: another one's is treated as absent. -/
def State.surface (s : State) (v h : Nat) : Option Surf :=
  match surfOf (s.bezel.surf h) with
  | some x => if x.vdev = v then some x else none
  | none => none

/-- The owner of a block's context as installed (R300). -/
def State.ownerOf (s : State) (t : Nat) : Nat := (s.block (coreOf t)).owner.toNat

/-! ## Reads and writes through stage 2 alone -/

/-- The party of the hub's own writes (DEDUCED, log entry 50). -/
def hubParty : Nat := 2 ^ 40

/-- The stage-2 root in force on a thread's core for its own virtual device (R175) (DESIGN CHOICE, log entry 41). -/
def State.rootOf (s : State) (t : Nat) : Dword := (s.core (coreOf t)).s2tbs.get (s.tagOf t).1 0

/-- Bytes written by a unit at their physical place: in memory, or to a device; another module's memory is not this
machine's. -/
def State.putPhys (s : State) (party path obj owner pa : Nat) (bs : List Byte) : State :=
  match targetOf pa with
  | .fabric => s
  | .io => s.ioWrite pa owner bs
  | _ => s.write party path obj pa bs

/-- Bytes read on the RAS path for a thread, in aligned units of at most 8 (R174), in the default region, since an
intermediate address has no region of its own (R191) (DESIGN CHOICE, log entry 135). -/
def State.rasRead (s : State) (t : Nat) (ia : Nat) : Nat → Nat → Except MemFault (List Byte) × State
  | 0, _ => (.ok [], s)
  | fuel + 1, n =>
    if n = 0 then (.ok [], s)
    else
      let k := min n (8 - ia % 8)
      match s.stage2Place (s.rootOf t) ia k .read with
      | (.error f, s) => (.error f, s)
      | (.ok (pa, _), s) =>
        let r := s.readPhys t pathRas (s.defaultObj t) pa k s.serial
        match State.rasRead r.2 t (ia + k) fuel (n - k) with
        | (.error f, s) => (.error f, s)
        | (.ok bs, s) => (.ok (r.1 ++ bs), s)

/-- n bytes. -/
def State.rasBytes (s : State) (t ia n : Nat) : Except MemFault (List Byte) × State := s.rasRead t ia (n + 1) n

/-! ## The ownership log (R316) -/

/-- vdev.tmcount raised; it saturates. -/
def State.tmMiss (s : State) (v n : Nat) : State :=
  s.modVdev v fun d => { d with tmcount := d64 (min (d.tmcount.toNat + n) 0xFFFFFFFF) }

/-- A record of 16 bytes: KIND, OWNER, DISPLAY, X, Y, TESSERA, SURFACE. -/
def tmRecord (kind owner disp x y tess surf : Nat) : List Byte :=
  bytesOfNat 1 kind ++ bytesOfNat 1 owner ++ bytesOfNat 1 disp ++ [0] ++ bytesOfNat 2 x ++ bytesOfNat 2 y
    ++ bytesOfNat 4 tess ++ bytesOfNat 4 surf

/-- A record written to a virtual device's log, or dropped and counted. -/
def State.tmLog (s : State) (v : Nat) (bs : List Byte) : State :=
  let d := s.vdev v
  let n := 2 ^ (d.tmlog.toNat % 16)
  let tail := d.tmptr.toNat / 2 ^ 32
  let head := d.tmptr.toNat % 2 ^ 32
  if (tail + 2 ^ 32 - head) % 2 ^ 32 = n then s.tmMiss v 1
  else match s.stage2Place d.s2tb (bitsOf d.tmlog.toNat 47 12 * 4096 + 16 * (tail % n)) 16 .write with
  | (.error _, s) => s.tmMiss v 1
  | (.ok (pa, _), s) =>
    if s.poisoned pa 16 then s.tmMiss v 1
    else
      let s := s.putPhys hubParty pathHost 0 noOwner pa bs
      s.modVdev v fun d => { d with tmptr := d64 ((tail + 1) % 2 ^ 32 * 2 ^ 32 + head) }

/-! ## Consent grants (R317, R318) -/

structure Grant where
  grantor : Nat
  grantee : Nat
  rights : Nat
  disp : Nat
  surf : Nat
  expiry : Nat
  /-- the SIG index of a CAPTURE grant -/
  sig : Option Nat
  deriving DecidableEq, Repr

/-- The grant of an entry's 32 bytes; `none` where it is empty. -/
def grantOf (e : Nat) : Option Grant :=
  let sig := bitsOf e 127 96
  if bitsOf e 7 0 ≠ 0xFF && bitsOf e 23 19 = 0 && bitsOf e 31 24 ≤ 3 && bitsOf e 63 48 = 0
      && bitsOf sig 30 19 = 0 && bitsOf e 255 128 = 0
  then some
    { grantor := bitsOf e 7 0, grantee := bitsOf e 15 8, rights := bitsOf e 23 16, disp := bitsOf e 31 24
      surf := bitsOf e 47 32, expiry := bitsOf e 95 64
      sig := if bitOf sig 31 then some (sig % 2 ^ 19) else none }
  else none

/-- The grants that the table holds, expired ones among them. -/
def State.grants (s : State) : List Grant := s.bezel.grants.filterMap fun e => if e.1 < 4096 then grantOf e.2 else none

/-- Whether a grant holds now. -/
def State.holds (s : State) (g : Grant) : Bool :=
  let n := (g.expiry + 2 ^ 32 - (s.display g.disp).count % 2 ^ 32) % 2 ^ 32
  1 ≤ n && n ≤ 2 ^ 31

/-- The decision of R318 for a TEX lane: `none` may read; else the kind of its record. -/
def State.texDenied (s : State) (v c h : Nat) : Option Nat :=
  match s.surface v h with
  | none => some 5
  | some x =>
    if x.screen then some 5
    else if x.owner = c ∨ x.owner = 255 then none
    else
      let ms := s.grants.filter fun g => g.grantor = x.owner && g.grantee = c && g.surf = h && bitOf g.rights 0
      if ms.any s.holds then none else if ms.isEmpty then some 3 else some 4

/-! ## Pixel maps and layers (R314, R322, R324) -/

/-- Where a display's map lies. -/
def mapBase (d : Nat) : Nat := 0x005FF0000000 + 0x04000000 * d

/-- The map entry of a pixel; outside the display it counts as 0xFFFF (R341). -/
def State.mapEntry (s : State) (d x y : Nat) : Nat :=
  let z := s.display d
  if x < z.width && y < z.height then s.mem.num (mapBase d + 2 * (y * z.width + x)) 2 else 0xFFFF

/-- The fields of a layer entry: OWNER, ENABLE, EFFECT and the surface handle. -/
def layOwner (e : Nat) : Nat := bitsOf e 7 0
def layEnable (e : Nat) : Bool := bitOf e 8
def layEffect (e : Nat) : Nat := if bitsOf e 10 9 = 3 then 0 else bitsOf e 10 9
def laySurf (e : Nat) : Nat := bitsOf e 31 16

/-- The surface of a layer entry that is enabled and valid (R324). -/
def State.layerOk (s : State) (d e : Nat) : Option Surf :=
  let z := s.display d
  match surfOf (s.bezel.surf (laySurf e)) with
  | some x =>
    if layEnable e && bitsOf e 63 32 = 0 && bitsOf e 15 11 = 0 && x.fmt = 0 && !x.cmp && !x.screen
        && x.owner = layOwner e && z.width ≤ x.w && z.height ≤ x.h
    then some x else none
  | none => none

/-- The layer that composition uses for an owner: the lowest-numbered enabled entry of the table in force (R321, R324). -/
def State.layerFor (s : State) (d o : Nat) : Option (Nat × Surf) :=
  (List.range 64).findSome? fun k =>
    let e := s.bezel.shown d k
    if layOwner e = o then (s.layerOk d e).map fun x => (e, x) else none

/-! ## Pixels and compressed blocks (R301, R312) -/

/-- The intermediate address of an uncompressed pixel. -/
def Surf.pixel (x : Surf) (i j : Nat) : Nat := x.base + j * x.pitch + 4 * i

/-- The slot of the compressed block of a pixel. -/
def Surf.slot (x : Surf) (i j : Nat) : Nat := x.base + 272 * (j / 8 * ((x.w + 7) / 8) + i / 8)

/-- A field of w bits at bit k of a byte string read as one little-endian number. -/
def bitField (n k w : Nat) : Nat := n / 2 ^ k % 2 ^ w

/-- The widths of a DELTA block's bytes 5 and 6. -/
def deltaWidths (b5 b6 : Nat) : List Nat := [b5 % 16, b5 / 16, b6 % 16, b6 / 16]

/-- The pixels of a DELTA block: base channels, widths, and the delta stream as one number. -/
def deltaPixels (base : List Nat) (ws : List Nat) (stream : Nat) : List Nat :=
  (List.range 64).map fun i =>
    (List.range 4).foldl (fun p c =>
      let before := 64 * (ws.take c).sum
      p + (base.getD c 0 + bitField stream (before + i * ws.getD c 0) (ws.getD c 0)) % 256 * 256 ^ c) 0

/-- The 64 pixels of a compressed block, and whether it is bad (R312). -/
def State.readBlock (s : State) (t slot : Nat) : Except MemFault (List Nat × Bool) × State :=
  let bad : List Nat × Bool := (List.replicate 64 0, true)
  match s.rasBytes t slot 1 with
  | (.error f, s) => (.error f, s)
  | (.ok m, s) =>
    match natOfBytes m with
    | 0 =>
      match s.rasBytes t (slot + 1) 256 with
      | (.error f, s) => (.error f, s)
      | (.ok bs, s) => (.ok ((List.range 64).map fun i => fieldOf bs (4 * i) 4, false), s)
    | 1 =>
      match s.rasBytes t (slot + 1) 4 with
      | (.error f, s) => (.error f, s)
      | (.ok bs, s) => (.ok (List.replicate 64 (natOfBytes bs), false), s)
    | 2 =>
      match s.rasBytes t (slot + 1) 6 with
      | (.error f, s) => (.error f, s)
      | (.ok bs, s) =>
        let ws := deltaWidths (fieldOf bs 4 1) (fieldOf bs 5 1)
        if ws.any fun w => 8 < w then (.ok bad, s)
        else match s.rasBytes t (slot + 7) (8 * ws.sum) with
        | (.error f, s) => (.error f, s)
        | (.ok ds, s) => (.ok (deltaPixels ((bs.take 4).map BitVec.toNat) ws (natOfBytes ds), false), s)
    | _ => (.ok bad, s)

/-- CMPERR set in a launch's pass. -/
def State.setCmpErr (s : State) (l : Nat) : State :=
  s.modLaunch l fun x => { x with pass := x.pass.map fun p => { p with cmperr := true } }

/-- One texel of a surface on the RAS path. -/
def State.texel (s : State) (t : Nat) (x : Surf) (i j : Nat) : Except MemFault Nat × State :=
  if x.cmp then
    match s.readBlock t (x.slot i j) with
    | (.error f, s) => (.error f, s)
    | (.ok (ps, bad), s) =>
      (.ok (ps.getD (8 * (j % 8) + i % 8) 0), if bad then s.setCmpErr (s.launchOf t) else s)
  else
    match s.rasBytes t (x.pixel i j) 4 with
    | (.error f, s) => (.error f, s)
    | (.ok bs, s) => (.ok (natOfBytes bs), s)

/-- Several texels, in order. -/
def State.texels (s : State) (t : Nat) (x : Surf) : List (Nat × Nat) → Except MemFault (List Nat) × State
  | [] => (.ok [], s)
  | p :: ps =>
    match s.texel t x p.1 p.2 with
    | (.error f, s) => (.error f, s)
    | (.ok q, s) =>
      match State.texels s t x ps with
      | (.error f, s) => (.error f, s)
      | (.ok qs, s) => (.ok (q :: qs), s)

/-! ## Sampling (R313, R333, R334) -/

/-- The edge rule for one axis. -/
def edge (wrap : Bool) (n : Nat) (i : Int) : Nat :=
  if wrap then (i % (n : Int)).toNat else min i.toNat (n - 1)

/-- A coordinate as a signed numerator over a denominator; a NaN or an infinity is +0 (R334). -/
def coord (w : Word) : Int × Nat :=
  match f32 w with
  | .fin neg n d => (if neg then -(n : Int) else n, d)
  | _ => (0, 1)

/-- floor(u × n). -/
def scaleFloor (u : Int × Nat) (n : Nat) : Int := u.1 * n / (u.2 : Int)

/-- s := u × n − 1/2 over its denominator. -/
def scaleHalf (u : Int × Nat) (n : Nat) : Int × Nat := (2 * u.1 * n - u.2, 2 * u.2)

/-- 1.0. -/
def oneF32 : Word := 0x3F800000

/-- The channel of a texel as the nearest filter values it (R313). -/
def texVal (fmt q c : Nat) : Word :=
  if fmt = 0 then roundF32 (.fin false (q / 256 ^ c % 256) 255)
  else if c = 0 then (match f32 (w32n q) with | .nan => roundF32 .nan | _ => w32n q)
  else if c = 3 then oneF32 else 0

/-- The bilinear value of a channel: texels and weights in the order 00, 10, 01, 11, over 2^(2b). -/
def bilinear (fmt b c : Nat) (qs : List Nat) (ws : List Nat) : Word :=
  if fmt = 0 then
    roundF32 (.fin false ((qs.zip ws).foldl (fun n p => n + p.1 / 256 ^ c % 256 * p.2) 0) (255 * 2 ^ (2 * b)))
  else if c = 0 then
    roundF32 ((qs.zip ws).foldl (fun (x : FVal) p =>
      x.add ((f32 (w32n p.1)).mul (.fin false p.2 (2 ^ (2 * b))))) (.fin false 0 1))
  else if c = 3 then oneF32 else 0

/-- The quad of a granted TEX lane: forms 0 S, 1 L, 2 F, 3 G (R333) (DESIGN CHOICE, log entry 55). -/
def State.sample (s : State) (t form : Nat) (x : Surf) (u v : Word) (chan : Nat) :
    Except MemFault (List Word) × State :=
  let at_ (i j : Int) : Nat × Nat := (edge x.wrap x.w i, edge x.wrap x.h j)
  let su := scaleHalf (coord u) x.w
  let sv := scaleHalf (coord v) x.h
  let i := su.1 / (su.2 : Int)
  let j := sv.1 / (sv.2 : Int)
  let four := [at_ i j, at_ (i + 1) j, at_ i (j + 1), at_ (i + 1) (j + 1)]
  let one (p : Nat × Nat) : Except MemFault (List Word) × State :=
    match s.texels t x [p] with
    | (.error f, s) => (.error f, s)
    | (.ok qs, s) => (.ok ((List.range 4).map fun c => texVal x.fmt (qs.headD 0) c), s)
  match form with
  | 1 => one (at_ (scaleFloor (coord u) x.w) (scaleFloor (coord v) x.h))
  | 2 => one (at_ u.toNat v.toNat)
  | 3 =>
    match s.texels t x four with
    | (.error f, s) => (.error f, s)
    | (.ok qs, s) => (.ok (qs.map fun q => texVal x.fmt q chan), s)
  | _ =>
    match s.texels t x four with
    | (.error f, s) => (.error f, s)
    | (.ok qs, s) =>
      let b := if (s.block (coreOf t)).legacy.getLsbD 9 then 6 else 8
      let wx := ((su.1 - i * su.2) * 2 ^ b / (su.2 : Int)).toNat
      let wy := ((sv.1 - j * sv.2) * 2 ^ b / (sv.2 : Int)).toNat
      let n := 2 ^ b
      let ws := [(n - wx) * (n - wy), wx * (n - wy), (n - wx) * wy, wx * wy]
      (.ok ((List.range 4).map fun c => bilinear x.fmt b c qs ws), s)

/-! ## The pass of a launch and the tile buffer (R302, R306) -/

def State.passOf (s : State) (l : Nat) : Option Pass := (s.launch? l).bind Launch.pass

/-- The fields of a pass descriptor. -/
def Pass.tboff (p : Pass) : Nat := fieldOf p.desc 20 4
def Pass.flags (p : Pass) : Nat := fieldOf p.desc 34 1
def Pass.zwrite (p : Pass) : Bool := bitOf p.flags 2
def Pass.blendAdd (p : Pass) : Bool := bitOf p.flags 3
def Pass.vars (p : Pass) : Nat := fieldOf p.desc 32 1

/-- The scratchpad offset of a fragment's colour (0) or depth (1) word (R306, R335). -/
def State.tbOffset (s : State) (t half : Nat) : Nat :=
  match s.passOf (s.launchOf t), (s.thr t).frag with
  | some p, some f => p.tboff + 4 * (32 * (f.y % 32) + f.x % 32) + 4096 * half
  | _, _ => 0

/-- A tile-buffer word as the fragments before this one left it (R308, R329) (DESIGN CHOICE, log entry 56). -/
def State.tbWord (s : State) (t half : Nat) : Word :=
  w32n (natOfBytes (s.bytesAt (scratchAddr (coreOf t) (s.tbOffset t half)) 4))

/-- Whether a tile-buffer word holds an uncorrectable error (R183). -/
def State.tbPoisoned (s : State) (t half : Nat) : Bool := s.poisoned (scratchAddr (coreOf t) (s.tbOffset t half)) 4

/-- A tile-buffer word written on the LANE path. -/
def State.tbPut (s : State) (t half : Nat) (x : Word) : State :=
  s.write t pathLane (scratchObj (coreOf t)) (scratchAddr (coreOf t) (s.tbOffset t half)) (bytesOfWord x)

/-- A pixel entered in the written mask. -/
def Tile.mark (n : Nat) (z : Tile) : Tile :=
  if n ∈ z.written then z else { z with written := z.written ++ [n] }

/-- The pixel's bit of the written mask set (R308). -/
def State.tbMark (s : State) (t : Nat) : State :=
  match (s.thr t).frag with
  | none => s
  | some f => s.modBlock (coreOf t) fun b =>
    { b with tile := b.tile.map (Tile.mark (32 * (f.y % 32) + f.x % 32)) }

/-- A channel of an RGBA8 word. -/
def chanOf (w : Word) (c : Nat) : Nat := w.toNat / 256 ^ c % 256

/-- The blend of a source over or onto a tile word (R310). -/
def blendWord (add : Bool) (x t : Word) : Word :=
  let a := chanOf x 3
  w32n ((List.range 4).foldl (fun n c =>
    let r := if add then min (chanOf x c + chanOf t c) 255
      else if c = 3 then (a * 255 + chanOf t 3 * (255 - a) + 127) / 255
      else (chanOf x c * a + chanOf t c * (255 - a) + 127) / 255
    n + r * 256 ^ c) 0)

/-- DEPTH.T's comparison, both operands as F32 (R309). -/
def depthPass (code : Nat) (z d : Word) : Bool :=
  let x := f32 z
  let y := f32 d
  match code with
  | 0 => false
  | 1 => x.lt y
  | 2 => x.eq y
  | 3 => x.lt y || x.eq y
  | 4 => y.lt x
  | 5 => !x.eq y
  | 6 => y.lt x || x.eq y
  | _ => true

/-! ## Hallmark queries (R338) -/

/-- HALL.Q.PIX for an owner: the handle of a screen surface and the pixel (DESIGN CHOICE, log entry 56). -/
def State.hallPix (s : State) (v o : Nat) (h p : Word) : Word :=
  let x := p.toNat % 65536
  let y := p.toNat / 65536
  match s.surface v (h.toNat) with
  | none => 0x80000000
  | some f =>
    let z := s.display f.disp
    if !f.screen || z.width ≤ x || z.height ≤ y then 0x80000000
    else
      let e := s.mapEntry f.disp x y
      let top : Bool := o = e / 256 && o ≠ 255
      let low : Bool := o = e % 256 && o ≠ 255
      w32n ((if top || low then 1 else 0) + (if top then 2 else 0)
        + (if (s.layerFor f.disp o).isSome then 4 else 0))

/-- HALL.Q.GRANT for an owner and a handle (DESIGN CHOICE, log entry 56). -/
def State.hallGrant (s : State) (v o : Nat) (h : Word) : Word :=
  let gs := s.grants.filter fun g => g.grantee = o && g.surf = h.toNat && s.holds g
  w32n (gs.foldl (fun m g => m ||| g.rights) 0 % 8
    + match s.surface v h.toNat with
      | none => 2 ^ 31
      | some x => if x.owner = o ∨ x.owner = 255 then 256 else 0)

end Sys2Proof.Machine
end

