-- ==== Sys2Proof/Machine/Access.lean ====
section
/-! DEFINITION. The memory accesses of threads (R181-R183, R215-R236): issue of a group's accesses through
the coalescer, parking, holding behind ordering instructions, and the completion of operations. -/

namespace Sys2Proof.Machine

/-- The modes of the atomic units: nearest-even, denormals preserved (R222). -/
def atomModes : Modes := { rz := false, daz := false, trans := 0 }

end Sys2Proof.Machine

namespace Sys2Proof

open Machine

/-- The new value of a word from its old value and the operands; CAS takes the expected value in b and
the new one in c (R220). -/
def AtomOp.apply (f : AtomOp) (o b c : Word) : Word :=
  match f with
  | .add => o + b
  | .min => if s32 o ≤ s32 b then o else b
  | .max => if s32 b ≤ s32 o then o else b
  | .minUi => if u32 o ≤ u32 b then o else b
  | .maxUi => if u32 b ≤ u32 o then o else b
  | .and => o &&& b
  | .or => o ||| b
  | .xor => o ^^^ b
  | .exch => b
  | .cas => if o = b then c else o
  | .inc => if u32 b ≤ u32 o then 0 else o + 1
  | .fadd => Sys2Proof.Machine.fadd atomModes o b

/-! ## What an access is -/

end Sys2Proof

namespace Sys2Proof.Machine

/-! ## Atomics (R220-R222) -/

/-- The global address, size and kind of an access that the coalescer translates. -/
def Acc.global : Acc → Option (Dword × Nat × AKind)
  | .load va n _ _ => some (va, n, .read)
  | .store va bs => some (va, bs.length, .write)
  | .atom va .. | .red va .. => some (va, 4, .rw)
  | _ => none

/-- Whether an operation in flight is a request to another module. -/
def Op.remote (o : Op) : Bool :=
  match o.acc.acc.global, o.acc.acc.signal with
  | some _, _ => targetOf o.pa = .fabric
  | none, some _ => awayBase ≤ o.pa
  | none, none => false

/-- Whether I/O memory refuses the access: atomics, reductions and 128-bit accesses (R180). -/
def Acc.big : Acc → Bool
  | .load _ n _ _ => n = 16
  | .store _ bs => bs.length = 16
  | .atom .. | .red .. => true
  | _ => false

/-- The registers that a load's bytes fill (R82, R218). -/
def loadWords (size : Nat) (sgn : Bool) (bs : List Byte) : List Word :=
  if size < 4 then [if sgn then w32 (sextI (natOfBytes bs) (8 * size)) else w32n (natOfBytes bs)]
  else wordsOf bs (size / 4)

/-- The destination code of an access, if it writes registers. -/
def Acc.dst : Acc → Option Nat
  | .load _ _ _ d | .lds _ _ d | .ldc _ d | .atom _ _ _ _ d | .sigLd _ d | .sigAdd _ _ d
  | .sigCas _ _ _ d | .sigWait _ _ _ d | .attrIn _ d | .tex _ _ _ _ _ d | .tbLd _ d | .hallPix _ d
  | .hallGrant _ d | .priv d => some d
  | _ => none

/-- The vector registers of a thread that an access may still write: those that the quota holds and has held ever since
the issue; none of a thread that has exited (R93, R114). -/
def State.resultLimit (s : State) (t : Nat) (a : Access) : Nat :=
  if (s.thr t).live then min (s.warp (warpKeyOf t)).quota (a.cuts.get (warpKeyOf t) 96) else 0

/-- The warps in which a uniform result is written as it arrives: at block scope every warp that the block has then, at
set scope the member warps that still hold their slots (R9, R159) (DEDUCED, log entry 29). -/
def State.landWarps (s : State) (t : Nat) (a : Access) : List Nat :=
  match a.scope with
  | .block => a.warps.filter (fun w => !(s.warp w).spawned) ++ s.spawnedWarps (coreOf t)
  | .set => a.warps.filter fun w => !(s.warp w).spawned
  | _ => a.warps

/-- A long-latency result written; a register that is lost discards it (R93, R114) (DESIGN CHOICE, log entry 13). -/
def State.writeResult (s : State) (t : Nat) (a : Access) (d : Nat) : List Word → State
  | [] => s
  | x :: xs =>
    let s := if d < 96 then (if d < s.resultLimit t a then s.setVec t d x else s) else s.setReg t (s.landWarps t a) d x
    State.writeResult s t a (if d < 120 then d + 1 else d) xs

/-! ## Performing one access -/

/-- The number of the word that a thread's index names: its place in the window, or another module's. -/
def State.sigAbs (s : State) (t idx : Nat) : Nat := s.sigIndex (s.tagOf t).1 idx

/-- A signal access on its way to its word (R398, R400): this module's ingress may refuse it; another
module admits it, refuses it, or cannot be reached, and which of these is free. -/
def State.signalGate (s : State) (t idx right : Nat) : Except MemFault (Nat × Nat) × State :=
  match s.sigRoute (s.tagOf t).1 idx right with
  | .here i => (.ok (i, 0), s)
  | .refused e =>
    (.error (causeFault clsAccess causeImport), s.irq irqFabric (pxWindow (s.proxyAt e)))
  | .away e =>
    let r := s.choose 3
    if r.1 = 0 then (.ok (awayBase + e, 0), r.2)
    else (.error (causeFault clsAccess (if r.1 = 1 then causeImport else causeNotarget)), r.2)

/-- A value of another module's word that satisfies a condition; nothing else constrains it (DESIGN CHOICE, log
entry 16). -/
def State.awayValue (s : State) (cond : Nat) (v : Dword) : Dword :=
  let f := Config.freeDword s.free
  if condHolds cond f v then f
  else match cond with
  | 0 | 2 => v
  | 1 => v + 1
  | _ => 0

/-- A signal access whose word lies on another module, one step at its exporter: its values are free; a pending REL
makes its release, in the word's order as far as it is seen here; a wait waits for the exporter's answer (R400, R403). -/
def State.applyAway (s : State) (t : Nat) (a : Access) (n : Nat) : State :=
  let write (s : State) : State := (s.releasePending a.members (objKey 6 0 n) (s.sigMods.get n 0 + 1)).bumpMods n
  let s := s.peerWrites n
  let m := s.sigMods.get n 0
  let answer (s : State) : State :=
    let x := Config.freeDword s.free
    { s with free := s.free + 1 }.addOp
      { thr := t, acc := a, pa := n, mt := 0, epoch := s.epoch, serial := m, result := some [loW x, hiW x] }
  match a.acc with
  | .sigSt .. => (write s).opFor t a n 0 (some [])
  | .sigAdd .. => answer (write s)
  | .sigCas .. =>
    let c := s.choose 2
    answer (if c.1 = 0 then write c.2 else c.2)
  | .sigWait .. => s.opFor t a n 0 none
  | _ => answer s

/-- The exporter's answer to a wait for another module's word (R233, R400); a word is never below 0. -/
def State.answerWait (s : State) (id : Nat) : State :=
  match s.ops.find id with
  | none => s
  | some o =>
    match o.acc.acc, o.result with
    | .sigWait _ cond v _, none =>
      if o.pa < awayBase || (cond = 3 && v = 0) || s.away o.thr then s
      else
        let s := s.peerWrites o.pa
        let x := s.awayValue cond v
        { s with
          free := s.free + 1
          ops := s.ops.put id { o with serial := s.sigMods.get o.pa 0, result := some [loW x, hiW x] } }
    | _, _ => s

/-- The word at an address, newest in the coherence order (R204) (DESIGN CHOICE, log entry 12). -/
def State.newestWord (s : State) (pa : Nat) : Word := BitVec.ofNat 32 (natOfBytes (s.bytesAt pa 4))

/-- A read in flight, with what its units may return at the oldest (R197). -/
def State.readOp (s : State) (t : Nat) (a : Access) (pa mt : Nat) (fls : List Nat) : State :=
  s.addOp { thr := t, acc := a, pa := pa, mt := mt, epoch := s.epoch, serial := s.serial, result := none, floors := fls }

/-- The words that a load in flight returns, read now (R197, R199). -/
def State.loadNow (s : State) (o : Op) : Option (List Word) × State :=
  match o.acc.acc, o.result with
  | .load _ n sgn _, none =>
    let r := s.readFrom o.thr o.floors o.pa n o.serial
    (some (loadWords n sgn r.1), r.2)
  | .lds _ n _, none =>
    let r := s.readData o.thr o.floors o.pa n o.serial
    (some (loadWords n false r.1), r.2)
  | _, _ => (none, s)

/-- Whether a load in flight has still to read one of the aligned 8-byte units of n bytes. -/
def Op.readsUnit (o : Op) (a n : Nat) : Bool :=
  match o.acc.acc, o.result with
  | .load _ m _ _, none | .lds _ m _, none => o.pa / 8 ≤ (a + n - 1) / 8 && a / 8 ≤ (o.pa + m - 1) / 8
  | _, _ => false

/-- The loads of a thread that stand before one in the order of issue and read the same units take their values: no
later read returns an earlier write than they do (R199). -/
def State.readsBefore (s : State) (id t a n : Nat) : State :=
  (s.ops.filter fun e => e.1 < id && e.2.thr = t && e.2.readsUnit a n).foldl (fun s e =>
    let r := s.loadNow e.2
    { r.2 with ops := r.2.ops.put e.1 { e.2 with result := r.1 } }) s

/-- The members other than the representative, by whose party a wider scope's write is too. -/
def Access.others (t : Nat) (a : Access) : List Nat := a.members.filter fun m => m ≠ t

/-- A translated access takes effect: stores and atomics at once, loads as operations in flight. An I/O read reaches
its device at once, in the order of issue (R180). -/
def State.applyGlobal (s : State) (t : Nat) (a : Access) (pa mt : Nat) : State :=
  match a.acc with
  | .load _ n sgn _ =>
    if targetOf pa = .io then
      let r := s.ioRead pa n
      r.2.opFor t a pa mt (some (loadWords n sgn r.1))
    else s.readOp t a pa mt (s.floorsOf t pathLane a.region pa n)
  | .store _ bs => s.writePhys t (pathVia pathLane mt) a.region pa bs (a.others t)
  | .atom _ f b c _ =>
    if targetOf pa = .fabric then
      let r := s.anyWord
      r.2.opFor t a pa mt (some [r.1])
    else
      let o := s.newestWord pa
      let s := s.readsBefore s.nextOp t pa 4
      let s := if f = .cas && o ≠ b then s
        else s.writeAll t (a.others t) (pathVia pathLane mt) a.region pa (bytesOfWord (f.apply o b c))
      (s.readNewest t pa 4).opFor t a pa mt (some [o])
  | .red _ f b =>
    let s := if targetOf pa = .fabric then s
      else s.writeAll t (a.others t) (pathVia pathLane mt) a.region pa (bytesOfWord (f.apply (s.newestWord pa) b 0))
    s.opFor t a pa mt (some [])
  | _ => s

/-- The acquire position of ACQ: on a signal word the last value the thread has read, on a barrier or a
gate what its last wait or acquisition covered; 0 covers nothing (R195, R227). -/
def State.acqUpto (s : State) (t obj : Nat) : Nat :=
  if keyKind obj = 6 then
    match (s.thr t).sigRead.find (obj % 2 ^ 20) with
    | some n => n + 1
    | none => 0
  else (s.thr t).covered.get obj 0

/-- The releases that each member's acquisition of an object reaches, plus one. -/
def State.acqUps (s : State) (ms : List Nat) (obj : Nat) : List Nat := ms.map fun m => s.acqUpto m obj

/-- A gate request granted or waiting: an acquisition stands after every release of the gate so far (R194). -/
def State.gateOp (s : State) (t : Nat) (a : Access) (k : Nat) (result : Option (List Word)) : State :=
  s.addOp { thr := t, acc := a, pa := k, mt := 0, epoch := s.epoch, serial := s.relCount k, result := result }

/-- An engine command that an ordering instruction held back goes on; its party sees what it sees now (R197, R216). -/
def State.freeCmd (s : State) (t e seq : Nat) : State :=
  let go (x : Cmd) : Cmd :=
    if x.held && x.thr = t && x.acc.seq = seq then { x with held := false, seen := (s.thr t).seen } else x
  s.modBlock (coreOf t) fun b => { b with engq := b.engq.put e ((b.engq.get e []).map go) }

/-- FIL.STOP reaches Filigree: the slice of its slot stands at an element boundary and goes no further; a FIL.RUN that
has not started is not started (R291) (DEDUCED, log entry 46). -/
def State.haltSlice (s : State) (t slot : Nat) : State :=
  s.modBlock (coreOf t) fun b =>
    { b with engq := b.engq.put 2 ((b.engq.get 2 []).map fun x =>
        if x.body = .filRun slot then { x with halting := true } else x) }

/-- Whether an access is a SPEC.OP, whose faults never park. -/
def Acc.spec : Acc → Bool
  | .specOp .. => true
  | _ => false

/-- An access that needs no translation takes effect. -/
def State.applyLocal (s : State) (t : Nat) (a : Access) : State :=
  let c := coreOf t
  match a.acc with
  | .lds off n _ =>
    s.readOp t a (scratchAddr c off) 0 (s.floorsOf t pathLane (scratchObj c) (scratchAddr c off) n)
  | .sts off bs => s.writeAll t (a.others t) pathLane (scratchObj c) (scratchAddr c off) bs
  | .ldc off _ =>
    s.opFor t a 0 0 (some [w32n (natOfBytes (((s.block c).const.drop off).take 4))])
  | .sigLd idx _ =>
    let i := s.sigAbs t idx
    s.addOp { thr := t, acc := a, pa := i, mt := 0, epoch := s.epoch, serial := s.sigMods.get i 0
              result := some [loW (s.signal i), hiW (s.signal i)] }
  | .sigSt idx v => s.sigWriteBy a.members (s.sigAbs t idx) v
  | .sigAdd idx v _ =>
    let i := s.sigAbs t idx
    let o := s.signal i
    let m := s.sigMods.get i 0
    let s := s.sigWriteBy a.members i (o + v)
    s.addOp { thr := t, acc := a, pa := i, mt := 0, epoch := s.epoch, serial := m, result := some [loW o, hiW o] }
  | .sigCas idx e n _ =>
    let i := s.sigAbs t idx
    let o := s.signal i
    let m := s.sigMods.get i 0
    let s := if o = e then s.sigWriteBy a.members i n else s
    s.addOp { thr := t, acc := a, pa := i, mt := 0, epoch := s.epoch, serial := m, result := some [loW o, hiW o] }
  | .sigWait idx cond v _ =>
    let i := s.sigAbs t idx
    let w := s.signal i
    s.addOp { thr := t, acc := a, pa := i, mt := 0, epoch := s.epoch, serial := s.sigMods.get i 0
              result := if condHolds cond w v then some [loW w, hiW w] else none }
  | .rel obj mask =>
    match s.objOf t obj with
    | some k => a.members.foldl (fun s m => s.relPending m k mask) s
    | none => s
  | .acq obj _ =>
    match s.objOf t obj with
    | some k =>
      s.opFor t (if keyKind k = 4 || keyKind k = 5 then { a with ups := s.acqUps a.members k } else a) k 0 (some [])
    | none => s
  | .gateAcq obj who =>
    match s.objOf t obj with
    | some k =>
      let g := s.gate k
      match g.owner with
      | none => (s.setGate k { g with owner := some who }).gateOp t a k (some [])
      | some o =>
        if o = who then s.gateOp t a k (some [])
        else (s.setGate k { g with wait := g.wait ++ [(who, s.nextOp)] }).gateOp t a k none
    | none => s
  | .gateTry obj who _ =>
    match s.objOf t obj with
    | some k =>
      let g := s.gate k
      match g.owner with
      | none => (s.setGate k { g with owner := some who }).gateOp t a k (some [1])
      | some o => s.gateOp t a k (some [if o = who then 1 else 0])
    | none => s
  | .gateRel obj who =>
    match s.objOf t obj with
    | some k =>
      if (s.gate k).owner = some who then
        (a.members.foldl (fun s m => s.releaseObj m k (s.relCount k + 1)) s).passGate k
      else s
    | none => s
  | .fence device =>
    (a.members.foldl (fun s m => s.fenceRelease m device) s).opFor t a 0 0 (some [])
  | .xfence .. => s.opFor t a 0 0 (some [])
  | .attrIn k _ =>
    match (s.thr t).frag with
    | some f => s.opFor t a 0 0 (some [if k = 16 then f.z else f.attrs.getD k 0])
    | none => s
  | .tbLd half _ => s.opFor t a 0 0 (some [s.tbWord t half])
  | .tbSt half v => if half = 0 then (s.tbPut t 0 v).tbMark t else s.tbPut t 1 v
  | .tbBlend c =>
    match s.passOf (s.launchOf t) with
    | some p => (s.tbPut t 0 (blendWord p.blendAdd (c.headD 0) (s.tbWord t 0))).tbMark t
    | none => s
  | .depthT mode _ z =>
    let ok := depthPass mode z (s.tbWord t 1)
    let zw := ((s.passOf (s.launchOf t)).map Pass.zwrite).getD false
    (if ok && zw then s.tbPut t 1 z else s).opFor t a 0 0 (some [if ok then 1 else 0])
  | .hallPix h _ => s.opFor t a 0 0 (some [s.hallPix (s.tagOf t).1 (s.ownerOf t) (loW h) (hiW h)])
  | .hallGrant h _ => s.opFor t a 0 0 (some [s.hallGrant (s.tagOf t).1 (s.ownerOf t) h])
  | .arrive b sync => s.arriveNow t b sync
  | .engine e => s.freeCmd t e a.seq
  | .filStop slot => (s.haltSlice t slot).opFor t a 0 0 (some [])
  | _ => s

/-- The bytes of a table image that lie in the page of its start (R390). -/
def tableSplit (va : Dword) : Nat := min 80 (4096 - va.toNat % 4096)

/-- SPEC.TABLE's read: the addresses of the image's start and of the page that its last 16 bytes lie in, as
the address of an image with the same last bytes (R390). -/
def State.tablePlace (s : State) (t : Nat) (va : Dword) (again : Bool) : Except MemFault (Nat × Nat) × State :=
  match s.translate t va 16 .read true again with
  | (.error f, s) => (.error f, s)
  | (.ok (p, _), s) =>
    match s.translate t (va + 64) 16 .read true again with
    | (.error f, s) => (.error f, s)
    | (.ok (q, _), s) => (.ok (p, q - 64), s)

/-- The quad of a TEX lane whose surface entry its decision has captured; a denied lane's entry is absent
(R318, R333). A texel's fault parks the lane whatever its cause (R334) (DESIGN CHOICE, log entry 55). -/
def State.texQuad (s : State) (t form ent : Nat) (u v : Word) (ch : Nat) : Got (List Word) :=
  match surfOf ent with
  | none => (.ok [0, 0, 0, 0], s)
  | some x =>
    match s.sample t form x u v ch with
    | (.error f, s) => (.error { f with soft := true }, s)
    | r => r

/-- The parts of a maintenance range that lie in one page each, at most n of them: address and length. -/
def pagesFrom (va : Nat) (count : Nat) : Nat → List (Nat × Nat)
  | 0 => []
  | n + 1 => if count = 0 then [] else
      (va, min count (4096 - va % 4096)) ::
        pagesFrom ((va / 4096 + 1) * 4096) (count - min count (4096 - va % 4096)) n

/-- CFLUSH and CINV as one access for each page, since each page is translated, faults and is redone by itself
(R236). -/
def Access.perPage (a : Access) : List Access :=
  match a.acc with
  | .cmaint inv va count =>
    if count = 0 then [a]
    else (pagesFrom va.toNat count (count / 4096 + 2)).map fun p => { a with acc := .cmaint inv (d64 p.1) p.2 }
  | _ => [a]

/-! ## Issue by a group (R181, R221) -/

/-- Flags set in the threads of an access (R14). -/
def State.setFlags (s : State) (a : Access) : State :=
  a.members.foldl (fun s t => s.setFlag t a.flag true) s

/-- A lane's access after translation, with what it has read already. -/
structure Lane where
  t : Nat
  acc : Access
  res : Except MemFault (Nat × Nat)
  words : List Word

/-- The walks of one instruction so far: by virtual page, the page's place and type, or the fault (R181). -/
abbrev Walks := Tab (Except MemFault (Nat × Nat))

/-- An address translated for an instruction: one walk serves every lane of its page (R179, R181, R189). -/
def State.shareWalk (s : State) (ws : Walks) (t : Nat) (va : Dword) (kind : AKind) (again : Bool) :
    Got (Nat × Nat) × Walks :=
  let off := va.toNat % 4096
  match ws.find (va.toNat / 4096) with
  | some (.ok (p, mt)) => ((.ok (p + off, mt), s), ws)
  | some (.error f) => ((.error f, s), ws)
  | none =>
    match s.translateFor (coreOf t) (s.tagOf t).1 (s.tagOf t).2 va kind again with
    | (.ok (pa, mt), s) => ((.ok (pa, mt), s), ws.put (va.toNat / 4096) (.ok (pa - off, mt)))
    | (.error f, s) => ((.error f, s), ws.put (va.toNat / 4096) (.error f))

/-- One lane's access translated, and what else its way gives: the ingress of a signal word, the texels of a quad, a
task's admission (DEDUCED, log entry 113). -/
def State.translateLane (s : State) (ws : Walks) (again : Bool) (t : Nat) (a : Access) : Lane × State × Walks :=
  let lane (r : Got (Nat × Nat)) (ws : Walks) : Lane × State × Walks :=
    ({ t := t, acc := a, res := r.1, words := [] }, r.2, ws)
  match a.acc.global, a.acc.signal with
  | some (va, n, kind), _ =>
    match s.shareWalk ws t va kind again with
    | ((.error f, s), ws) => lane (.error f, s) ws
    | ((.ok (pa, mt), s), ws) => lane (s.reach va pa n mt kind a.acc.big) ws
  | none, some (idx, right) => lane (s.signalGate t idx right) ws
  | none, none =>
    match a.acc with
    | .tex form ent u v ch _ =>
      match s.texQuad t form ent u v ch with
      | (.error f, s) => lane (.error f, s) ws
      | (.ok qs, s) => ({ t := t, acc := a, res := .ok (0, 0), words := qs }, s, ws)
    | .specTable va => lane (s.tablePlace t va again) ws
    | .specOp kind inv handle x y =>
      match s.specAttempt t a kind inv handle x y with
      | (some f, s) => lane (.error f, s) ws
      | (none, s) => lane (.ok (0, 0), s) ws
    | .cmaint _ va count =>
      if count = 0 then lane (.ok (0, 0), s) ws
      else let r := s.shareWalk ws t va .read again; lane r.1 r.2
    | .lds off n _ =>
      if s.poisoned (scratchAddr (coreOf t) off) n then lane (.error localPoison, s) ws else lane (.ok (0, 0), s) ws
    | .tbLd half _ => lane (if s.tbPoisoned t half then .error localPoison else .ok (0, 0), s) ws
    | .tbBlend _ => lane (if s.tbPoisoned t 0 then .error localPoison else .ok (0, 0), s) ws
    | .depthT .. => lane (if s.tbPoisoned t 1 then .error localPoison else .ok (0, 0), s) ws
    | .ldc off _ =>
      if s.poisoned (constAddr (coreOf t) off) 4 then lane (.error localPoison, s) ws else lane (.ok (0, 0), s) ws
    | _ => lane (.ok (0, 0), s) ws

/-- Translates the accesses of the lanes, in order. -/
def State.translateLanes (s : State) (ws : Walks) (again : Bool) : List (Nat × Access) → List Lane × State
  | [] => ([], s)
  | (t, a) :: r =>
    let x := s.translateLane ws again t a
    let y := State.translateLanes x.2.1 x.2.2 again r
    (x.1 :: y.1, y.2)

/-- The page a lane's access lies in; a texture's is that of its intermediate address. -/
def Lane.page (l : Lane) : Nat :=
  match l.acc.acc.global, l.res with
  | some (va, _, _), _ => va.toNat / 4096
  | none, .error f => if f.va = 0 then f.ia.toNat / 4096 else f.va.toNat / 4096
  | none, .ok _ => 0

/-- Faulting lanes park by page, in the order of the lowest lane of each page; the page's record carries
the cause its lowest lane met (R182, R189) (DEDUCED, log entry 30; DEDUCED, log entry 43; DEDUCED, log entry 111). -/
def State.parkLanes (s : State) (ls : List Lane) : Nat → State
  | 0 => s
  | fuel + 1 =>
    match ls with
    | [] => s
    | l :: r =>
      match l.res with
      | .ok _ => s.parkLanes r fuel
      | .error f =>
        let same := fun (k : Lane) => k.page = l.page && (match k.res with | .error _ => true | .ok _ => false)
        let here := l :: r.filter same
        (s.park (here.map fun k => (k.t, k.acc)) f).parkLanes (r.filter fun k => !same k) fuel

/-- The combination of reductions on one word: addends and the old value combine in pairs, by some tree
(R206) (DESIGN CHOICE, log entry 15). -/
def State.combineTree (s : State) (l : List Word) : Nat → Word × State
  | 0 => (l.headD 0, s)
  | fuel + 1 =>
    match l with
    | [] => (0, s)
    | [x] => (x, s)
    | _ =>
      let i := s.choose l.length
      let x := l.getD i.1 0
      let rest := l.eraseIdx i.1
      let j := i.2.choose rest.length
      let y := rest.getD j.1 0
      State.combineTree j.2 (fadd atomModes x y :: rest.eraseIdx j.1) fuel

/-- RED.FADD of one issue: lanes that reach one word combine by some tree (R206) (DESIGN CHOICE, log entry 15). -/
def State.applyRedFadd (s : State) (ls : List Lane) : Nat → State
  | 0 => s
  | fuel + 1 =>
    match ls with
    | [] => s
    | l :: r =>
      match l.res, l.acc.acc with
      | .ok (pa, mt), .red .. =>
        let same := fun (k : Lane) => match k.res with | .ok (p, _) => p = pa | .error _ => false
        let here := l :: r.filter same
        let adds := here.map fun k => match k.acc.acc with | .red _ _ b => b | _ => 0
        let s :=
          if targetOf pa = .fabric then s
          else
            let v := s.combineTree (s.newestWord pa :: adds) (adds.length + 1)
            v.2.writeAll l.t (r.filterMap fun k => if same k then some k.t else none) (pathVia pathLane mt) l.acc.region pa
              (bytesOfWord v.1)
        let s := here.foldl (fun s k => s.opFor k.t k.acc pa mt (some [])) s
        s.applyRedFadd (r.filter fun k => !same k) fuel
      | _, _ => s.applyRedFadd r fuel

/-- Whether the accesses are RED.FADD. -/
def isRedFadd (tas : List (Nat × Access)) : Bool :=
  match tas with
  | (_, a) :: _ => (match a.acc with | .red _ .fadd _ => true | _ => false)
  | [] => false

/-- A lane that translated takes effect (DEDUCED, log entry 113). -/
def State.applyLane (s : State) (l : Lane) (pa mt : Nat) : State :=
  if l.acc.acc.global.isSome then s.applyGlobal l.t l.acc pa mt
  else if l.acc.acc.signal.isSome then
    (if pa < awayBase then s.applyLocal l.t l.acc else s.applyAway l.t l.acc pa)
  else match l.acc.acc with
  | .tex .. => s.opFor l.t l.acc 0 0 (some l.words)
  | .specTable va => s.readOp l.t l.acc pa mt ((List.range 10).map fun i =>
      s.floorOf l.t pathLane (l.acc.regions.getD i 0) ((if 8 * i < tableSplit va then pa else mt) + 8 * i) 8)
  | .cmaint .. => s.opFor l.t l.acc 0 0 (some [])
  | _ => s.applyLocal l.t l.acc

/-- Lanes that translated take effect in ascending home lane (R84, R205). -/
def State.applyLanes (s : State) (ls : List Lane) : State :=
  ls.foldl (fun s l => match l.res with
    | .ok (pa, mt) => s.applyLane l pa mt
    | .error _ => s) s

/-- The fault of an address that is not canonical; it is met at issue, whatever the access waits for
(R178). -/
def Acc.noncanon (a : Acc) : Option MemFault :=
  match a.global with
  | some (va, _, _) =>
    if 2 ^ 48 ≤ va.toNat then some { causeFault clsAccess causeNoncanon with stage := 1, va := va } else none
  | none => none

/-- Accesses leave the core together, as one instruction's: the lanes translate; faulting pages park their lanes; the
rest take effect. Lanes that met a fault that does not park have no effect and are returned with it (R181, R182,
R342). -/
def State.memGo (s : State) (go : List (Nat × Access)) : State × List ((Nat × Access) × MemFault) :=
  let r := s.translateLanes [] (go.any fun p => p.2.again) go
  let parks (l : Lane) : Bool := match l.res with | .error f => f.parks && !l.acc.acc.spec | .ok _ => false
  let ok := r.1.filter fun l => match l.res with | .ok _ => true | .error _ => false
  let s := r.2.parkLanes (r.1.filter parks) (go.length + 1)
  let s := if isRedFadd go then s.applyRedFadd ok (go.length + 1) else s.applyLanes ok
  (s, r.1.filterMap fun l => match l.res with
    | .error f => if parks l then none else some ((l.t, l.acc), f)
    | .ok _ => none)

/-- A group's memory word: flags are set; lanes that must wait keep their access; the others go (R14, R84, R181, R182,
R205, R216, R343). Lanes that met a fault that does not park (NONCANON) have no effect and are returned with it. -/
def State.memIssue (s : State) (tas : List (Nat × Access)) : State × List (Nat × MemFault) :=
  let wild := tas.filterMap fun p => (p.2.acc.noncanon).map fun f => (p.1, f)
  let tas := (tas.filter fun p => (p.2.acc.noncanon).isNone).flatMap fun p => p.2.perPage.map fun a => (p.1, a)
  let s : State := if tas.isEmpty then s else { s with nextOp := s.nextOp + 1 }
  let s := tas.foldl (fun s p => s.setFlags p.2) s
  let pend := s.pending (coreOf ((tas.map Prod.fst).headD 0)) ++ tas.filter fun p => !(s.thr p.1).parked
  let go := orderly pend (tas.filter fun p => s.mayGo p.1 p.2)
  let wait := tas.filter fun p => !holdsAccess go p
  let s := wait.foldl (fun s p => s.modThr p.1 fun th => { th with deferred := th.deferred ++ [p.2] }) s
  let r := s.memGo go
  let s := r.2.foldl (fun s l => s.clearFlags l.1.2.flag l.1.2.members) r.1
  (s, wild ++ r.2.map fun l => (l.1.1, l.2))

/-! ## Waiting accesses and their replay (R182, R216, R343, R349) -/

/-- The oldest waiting word of each thread of a core, every page of a maintenance range, where it may leave. -/
def State.heads (s : State) (c : Nat) : List (Nat × Access) :=
  (s.threads.filter fun e => coreOf e.1 = c).flatMap fun e =>
    match e.2.deferred with
    | a :: r => if s.mayGo e.1 a then ((a :: r).takeWhile fun b => b.seq = a.seq).map fun b => (e.1, b) else []
    | [] => []

/-- Those that the order of their groups lets go (R84, R205). -/
def State.ripe (s : State) (c : Nat) : List (Nat × Access) := orderly (s.pending c) (s.heads c)

/-- Whether a write of a hub register by a core is under way: it reaches its register before a later access of its thread
leaves (R180). -/
def State.ioUnderWay (s : State) : Bool :=
  s.agenda.any fun x => match x with | .write .. | .store .. => true | _ => false

/-- Spawned threads that wait for stores of their spawner see those that have left (R160). -/
def Spawned.sees (left : List (Nat × Access)) (seen : Nat → List Seen) (x : Spawned) : Spawned :=
  match x.parent with
  | some (t, n) =>
    if left.any fun p => (p.2.parties p.1).contains t && p.2.acc.writes && p.2.seq < n then { x with seen := seen t } else x
  | none => x

/-- What the spawner's own LANE writes are, for the threads it spawns (R160). -/
def State.spawnSeen (s : State) (t : Nat) : List Seen :=
  (s.wlog.filter fun e => e.ownLane t).map fun e =>
    { serial := e.serial, paths := 1, via := viaOwn }

/-- Stores that have left are seen by the threads that their threads spawned after them (R160). -/
def State.tellSpawned (s : State) (c : Nat) (left : List (Nat × Access)) : State :=
  if left.any fun p => p.2.acc.writes then
    let go := Spawned.sees left s.spawnSeen
    let s := s.modBlock c fun b => { b with
      bins := b.bins.map fun n => { n with members := n.members.map go }, overflow := b.overflow.map go }
    { s with threads := s.threads.map fun e => (e.1, { e.2 with spawning := e.2.spawning.map go }) }
  else s

/-- Faults of accesses that had waited, raised fault by fault. -/
def State.raiseLate (s : State) : Nat → List ((Nat × Access) × MemFault) → State
  | 0, _ => s
  | _ + 1, [] => s
  | fuel + 1, (p, f) :: r =>
    let here := p :: (r.filter fun x => x.2 = f).map Prod.fst
    State.raiseLate (s.raiseAtMany here f) fuel (r.filter fun x => x.2 ≠ f)

/-- The waiting accesses of a core's threads leave in the order of their issue, those of one instruction together,
until each thread has none, parks, or waits again (R182, R216, R343). -/
def State.drain (s : State) (c : Nat) : Nat → State
  | 0 => s
  | fuel + 1 =>
    match (if s.ioUnderWay then [] else s.ripe c) with
    | [] => s
    | p :: r =>
      let here := (p :: r).filter fun q => q.2.seq = p.2.seq
      let s := s.modThrs (here.map Prod.fst) fun th =>
        { th with deferred := th.deferred.dropWhile fun a => a.seq = p.2.seq }
      let g := s.memGo here
      ((g.1.tellSpawned c here).raiseLate g.2.length g.2).drain c fuel

/-- Everything of a core that may leave. -/
def State.drainCore (s : State) (c : Nat) : State :=
  s.drain c (((s.threads.filter fun e => coreOf e.1 = c).map fun e => e.2.deferred.length).sum + 1)

/-- Everything of the cores whose waiting accesses satisfy something. -/
def State.drainWhere (s : State) (p : Nat → Access → Bool) : State :=
  let cs := distinct ((s.threads.filter fun e => e.2.deferred.any (p e.1)).map fun e => coreOf e.1)
  cs.foldl State.drainCore s

/-! ## Completion (R14) -/

/-- Units of 8 bytes of translated memory read from their floors. -/
def State.readUnits (s : State) (t issued : Nat) : List (Nat × Nat) → List Byte × State
  | [] => ([], s)
  | (a, fl) :: r =>
    let x := s.readFrom t [fl] a 8 issued
    let y := State.readUnits x.2 t issued r
    (x.1 ++ y.1, y.2)

/-- Another module has acknowledged a request: what waited for an old target goes on (R419). -/
def State.acknowledged (s : State) : State :=
  let s := (s.drainWhere fun _ a => a.acc.signal.isSome || a.acc.global.isSome).testConds
  s.launches.keys.foldl State.finishLaunch s

/-- The operation leaves, its flag clears, and the accesses it held go out: those behind an ordering instruction, and
those that wait for the acknowledgements of an old target (R216, R419). -/
def State.retire (s : State) (id : Nat) (o : Op) : State :=
  let s := { s with ops := s.ops.del id }
  let s := s.clearFlags o.acc.flag o.acc.members
  let s := if o.acc.acc.ordering then s.drainCore (coreOf o.thr) else s
  if o.remote then s.acknowledged else s

/-- Whether an access in flight is a request that a drain waits for. -/
def Op.request (o : Op) : Bool := o.acc.acc.translated || (o.acc.acc.signal.isSome && o.result.isSome)

/-- Requests of a virtual device in flight: accesses, and the reads that hold a thread at a BRX or a RET (R386). -/
def State.inFlight (s : State) (v : Nat) : Bool :=
  let mine (t : Nat) : Bool := !isAgent t && coreOf t < 144 && (s.tagOf t).1 = v
  (s.ops.any fun e => mine e.2.thr && !e.2.landed && e.2.request)
    || s.threads.any fun e => mine e.1 && (e.2.brx.isSome || e.2.refill.isSome)

/-- Whether accesses that may have used entries named by a TLB.INV are in flight: those translated before it, on
the cores it covers, in its context or its virtual device (R381). -/
def State.usesOld (s : State) (id core kind v x : Nat) (all : Bool) : Bool :=
  s.ops.any fun e => e.1 < id && e.2.acc.acc.translated && !e.2.landed && (all || coreOf e.2.thr = core)
    && (s.tagOf e.2.thr).1 = v && (kind ≥ 2 || (s.tagOf e.2.thr).2 = x)

/-- The work of a reset's step done by a core (R414, R421). -/
def State.stepWork (s : State) (v c : Nat) : State := s.modVdev v fun d => { d with rstWork := c :: d.rstWork }

/-- The accesses that a drain of a virtual device held back go out. -/
def State.drainAway (s : State) (v : Nat) : State :=
  s.drainWhere fun t _ => !isAgent t && coreOf t < 144 && (s.tagOf t).1 = v

/-- A long-latency operation completes: its destination is written and its flag clears. An operation that
still waits (SIG.WAIT, a queued gate request) does nothing (DESIGN CHOICE, log entry 56). -/
def State.finishOp (s : State) (id : Nat) : State :=
  match s.ops.find id with
  | none => s
  | some o =>
    let t := o.thr
    let live := o.acc.members.filter fun m => (s.thr m).live
    match o.acc.acc, o.result with
    | .load _ n _ d, none | .lds _ n d, none =>
      let r := (s.readsBefore id t o.pa n).loadNow o
      (r.2.writeResult t o.acc d (r.1.getD [])).retire id o
    | .acq _ mask, some _ =>
      let got := (o.acc.members.zip o.acc.ups).filter fun p => p.2 ≠ 0 && live.contains p.1
      (got.foldl (fun s p => s.acquire p.1 o.pa (p.2 - 1) mask) s).retire id o
    | .gateAcq .., some _ => (live.foldl (fun s m => s.acquire m o.pa o.serial maskDefault) s).retire id o
    | .gateTry _ _ pd, some ws =>
      let ok := ws.headD 0 = 1
      let s := live.foldl (fun s m => s.setPred m pd ok) s
      let s := if ok then live.foldl (fun s m => s.acquire m o.pa o.serial maskDefault) s else s
      s.retire id o
    | .fence device, some _ => (live.foldl (fun s m => s.fenceAcquire m device) s).retire id o
    | .xfence src dst, some _ => (live.foldl (fun s m => s.xfence m src dst) s).retire id o
    | .tile d pd, some ws =>
      let c := coreOf t
      let s := s.setRegs t (s.landWarps t o.acc) d (ws.take 2)
      let s := live.foldl (fun s m => s.setPred m pd (ws.getD 2 0 = 1)) s
      (s.modBlock c fun b => { b with workid := pair (ws.headD 0) (ws.getD 1 0) }).retire id o
    | .depthT _ pd _, some ws =>
      (live.foldl (fun s m => s.setPred m pd (ws.headD 0 = 1)) s).retire id o
    | .hallPix h d, some ws =>
      let r := s.choose 2
      let w := if r.1 = 0 then ws.headD 0 else s.hallPix (s.tagOf t).1 (s.ownerOf t) (loW h) (hiW h)
      (r.2.writeResult t o.acc d [w]).retire id o
    | .hallGrant h d, some ws =>
      let r := s.choose 2
      let w := if r.1 = 0 then ws.headD 0 else s.hallGrant (s.tagOf t).1 (s.ownerOf t) h
      (r.2.writeResult t o.acc d [w]).retire id o
    | .specTable va, none =>
      let r := s.readUnits t o.serial ((List.range 10).map fun i =>
        ((if 8 * i < tableSplit va then o.pa else o.mt) + 8 * i, o.floors.getD i 0))
      let l := s.launchOf t
      let s := r.2
      if fieldOf r.1 66 14 ≠ 0 || !(s.liveTasks l).isEmpty then
        ({ s with ops := s.ops.del id }).raiseAt t o.acc (plainFault clsBudget)
      else (s.modSpec l fun x => { x with pairs := fieldOf r.1 0 64, present := fieldOf r.1 64 2 }).retire id o
    | .specDrain, some _ => (live.foldl (fun s m => s.fenceAcquire m true) s).retire id o
    | .tlbInv kind v x all, _ =>
      if s.usesOld id (coreOf t) kind v x all then s
      else (if kind = 2 && all && (s.vdev v).rstStep = 4 then s.stepWork v (coreOf t) else s).retire id o
    | .vdrain v, _ => if s.inFlight v then s else (s.retire id o).drainAway v
    | .priv d, some ws =>
      (if d < 96 then live.foldl (fun s m => s.setVec m d (ws.getD (laneOf m) 0)) s
        else s.setRegs t (s.landWarps t o.acc) d ws).retire id o
    | acc, some ws =>
      let s := match acc with
        | .sigLd .. | .sigAdd .. | .sigCas .. | .sigWait .. =>
          live.foldl (fun (s : State) m => s.modThr m fun th =>
            { th with sigRead := th.sigRead.put o.pa (max o.serial (th.sigRead.get o.pa 0)) }) s
        | _ => s
      let s := match acc, acc.dst with
        | .tex .., some d => live.foldl (fun (s : State) m => s.writeResult m o.acc d ws) s
        | _, some d => s.writeResult t o.acc d ws
        | _, none => s
      s.retire id o
    | _, none => s

/-- The table images of lower lanes that one SPEC.TABLE has issued, by home lane: they are loaded first (R390). -/
def State.lowerTables (s : State) (id : Nat) : List Nat :=
  match s.ops.find id with
  | none => []
  | some o =>
    match o.acc.acc with
    | .specTable _ =>
      (sortBy (fun e => laneOf e.2.thr) (s.ops.filter fun e =>
        (match e.2.acc.acc with | .specTable _ => true | _ => false)
          && e.2.acc.seq = o.acc.seq && coreOf e.2.thr = coreOf o.thr && laneOf e.2.thr < laneOf o.thr)).map Prod.fst
    | _ => []

/-- An operation completes: another module answers a wait first, and the lower lanes of a SPEC.TABLE come before it
(R390, R400). -/
def State.completeOp (s : State) (id : Nat) : State :=
  (s.lowerTables id ++ [id]).foldl State.finishOp (s.answerWait id)

end Sys2Proof.Machine
end

