-- ==== Sys2Proof/Machine/Operands.lean ====
section
/-! DEFINITION. Operand forms: sources with queue pops (R9, R31, R244, R245), pairs, addresses (R29), and
the two shapes of execution, lane scope and wider scope (R64). -/

namespace Sys2Proof.Machine

/-- An operand queue of a block. -/
def Block.queue (b : Block) (k : Nat) : OpQueue := b.opq.get k OpQueue.off

/-- Elements held in a home lane's ring (R246). -/
def OpQueue.fill (q : OpQueue) (h : Nat) : Nat := q.tails.get h 0 - q.heads.get h 0

/-- The scratchpad offset of element n of home lane h (R243). -/
def OpQueue.slotAddr (q : OpQueue) (n h : Nat) : Nat :=
  let e := 2 ^ q.esz
  q.base + n % 2 ^ q.log2d * (32 * e) + h * e

/-- The value of popped bytes (R244). -/
def OpQueue.value (q : OpQueue) (bs : List Byte) : Word :=
  if q.sgn then w32 (sextI (natOfBytes bs) (8 * 2 ^ q.esz)) else w32n (natOfBytes bs)

/-- One pop of queue k for a thread (R244, R245), which meets an uncorrectable error of the slot's bytes (R183); the element is the bytes of its slot as they stand (R207)
(DESIGN CHOICE, log entry 122). -/
def State.pop (s : State) (i : Issue) (t k : Nat) : Except MemFault Word × State :=
  let c := coreOf t
  let h := laneOf t
  let q := (s.block c).queue k
  if !q.en then (.error (plainFault clsIllegalOp), s)
  else if i.short.contains t || q.fill h = 0 then (.error rangeFault, s)
  else
    let n := q.heads.get h 0
    if s.poisoned (scratchAddr c (q.slotAddr n h)) (2 ^ q.esz) then (.error localPoison, s) else
    let bs := s.bytesAt (scratchAddr c (q.slotAddr n h)) (2 ^ q.esz)
    (.ok (q.value bs), s.modBlock c fun b => { b with opq := b.opq.put k { q with heads := q.heads.put h (n + 1) } })

/-- One source operand of a thread: a register, or a pop. -/
def State.source (s : State) (i : Issue) (t c : Nat) : Except MemFault Word × State :=
  if c < 124 then (.ok (s.reg t c), s) else s.pop i t (c - 124)

/-- The sources of a thread in order: the A operand pops before the B operand (R9). On a fault nothing is
popped. -/
def State.sources (s : State) (i : Issue) (t : Nat) : List Nat → Except MemFault (List Word) × State
  | [] => (.ok [], s)
  | c :: cs =>
    match s.source i t c with
    | (.error f, _) => (.error f, s)
    | (.ok x, s') =>
      match State.sources s' i t cs with
      | (.error f, _) => (.error f, s)
      | (.ok xs, s'') => (.ok (x :: xs), s'')

/-- The modes installed with a thread's block (R62); the agent's are the reset modes. -/
def State.modes (s : State) (t : Nat) : Modes :=
  modesOf (if isAgent t then 0 else (s.block (coreOf t)).legacy)

/-! ## Execution shapes (R64) -/

/-- What one thread's execution of a word gives: the state, and the thread's fault with its DETAIL. -/
abbrev Ran := State × Option (MemFault × Dword)

def ran (s : State) : Ran := (s, none)
def ranBad (s : State) (f : MemFault) : Ran := (s, some (f, 0))

/-- The faults of a word that share a record: one class and cause, one detail, one page where they park
(R182, R345) (DEDUCED, log entry 30). -/
def sameFault (f g : MemFault × Dword) : Bool :=
  f.1.cls = g.1.cls && f.1.cause = g.1.cause && f.2 = g.2
    && (!f.1.parks || f.1.va.toNat / 4096 = g.1.va.toNat / 4096)

/-- The faults that a word's threads met, raised record by record; at a wider scope the whole group
stops (DEDUCED, log entry 30). -/
def State.raiseMany (s : State) (i : Issue) (sc : Scope) (lits : Nat) :
    Nat → List (Nat × MemFault × Dword) → State
  | 0, _ => s
  | _ + 1, [] => s
  | fuel + 1, (t, f) :: r =>
    let here := (t, f) :: r.filter fun x => sameFault x.2 f
    let ts := if sc = .lane then here.map Prod.fst else i.group
    State.raiseMany (s.raise ts { i.faultAt with detail := f.2 } f.1 (some { i.here lits with parks := f.1.parks })) i sc lits fuel
      (r.filter fun x => !sameFault x.2 f)

/-- The pops of a faulting instruction undone: it has no effect for its thread (R65). -/
def State.unpop (s was : State) (t : Nat) : State :=
  s.modBlock (coreOf t) fun b => { b with opq := (was.block (coreOf t)).opq }

/-- One thread's execution of a word; where it faults, its queues stand as before (R65). -/
def State.runOne (s : State) (k : State → Nat → Ran) (t : Nat) : Ran :=
  match k s t with
  | (s', none) => (s', none)
  | (s', some f) => (if (s'.block (coreOf t)).opq = (s.block (coreOf t)).opq then s' else s'.unpop s t, some f)

/-- Executes a word for each of some threads in order, collecting their faults. -/
def State.runAll (s : State) (k : State → Nat → Ran) : List Nat → State × List (Nat × MemFault × Dword)
  | [] => (s, [])
  | t :: ts =>
    let x := s.runOne k t
    let y := State.runAll x.1 k ts
    (y.1, match x.2 with | some f => (t, f) :: y.2 | none => y.2)

/-- The threads a word acts for: the guarded lanes in ascending home lane, or the guarded representative
of a wider scope. -/
def State.actors (s : State) (i : Issue) (sc : Scope) (p : Nat) : List Nat :=
  match sc with
  | .lane => s.guarded i p
  | _ => (s.rep i p).toList

/-- Executes a word: each acting thread in order, then their faults (R64, R343). -/
def State.eachOr (s : State) (i : Issue) (sc : Scope) (p lits : Nat) (k : State → Nat → Ran) : State :=
  let r := s.runAll k (s.actors i sc p)
  r.1.raiseMany i sc lits r.2.length r.2

/-- The warps that a destination is written in: none at lane scope, where it is a vector register (DEDUCED, log entry 29). -/
def State.destWarps (s : State) (i : Issue) (sc : Scope) (t : Nat) : List Nat :=
  match sc with
  | .lane => []
  | _ => s.dstWarps i t

/-- One thread's ALU effect: sources, then the destination from the sources and its old value. -/
def State.aluOne (s : State) (i : Issue) (sc : Scope) (d : Nat) (srcs : List Nat)
    (f : Modes → List Word → Word → Word) (t : Nat) : Ran :=
  match s.sources i t srcs with
  | (.error e, _) => ranBad s e
  | (.ok xs, s') => ran (s'.setReg t (s.destWarps i sc t) d (f (s.modes t) xs (s.reg t d)))

/-- An instruction that writes a register from its sources (R64, R9). -/
def aluReg (sc : Scope) (d : BitVec 7) (p : Nat) (srcs : List (BitVec 7))
    (f : Modes → List Word → Word → Word) (s : State) : Out :=
  onIssue s fun i => s.eachOr i sc p 0 fun s t => s.aluOne i sc d.toNat (srcs.map BitVec.toNat) f t

/-- A function of one source. -/
def fn1 (f : Modes → Word → Word) : Modes → List Word → Word → Word
  | md, [a], _ => f md a
  | _, _, _ => 0

/-- A function of two sources. -/
def fn2 (f : Modes → Word → Word → Word) : Modes → List Word → Word → Word
  | md, [a, b], _ => f md a b
  | _, _, _ => 0

/-- A function of two sources and the destination's old value. -/
def fn3 (f : Modes → Word → Word → Word → Word) : Modes → List Word → Word → Word
  | md, [a, b], d => f md a b d
  | _, _, _ => 0

/-! ## Addresses (R29, R82, R169) -/

/-- Pair(A) + Sext(OFF7) × S, modulo 2^64. -/
def globalEA (base : Dword) (off : BitVec 7) (size : Nat) : Dword :=
  base + BitVec.ofInt 64 (off.toInt * size)

/-- (A + Sext(OFF7) × S) mod 2^32, read unsigned. -/
def localEA (base : Word) (off : BitVec 7) (size : Nat) : Nat :=
  (base + BitVec.ofInt 32 (off.toInt * size)).toNat

/-- The threads whose flag a long-latency word sets: the lane, or every live member (R14). -/
def State.tied (s : State) (i : Issue) (sc : Scope) (t : Nat) : List Nat :=
  match sc with
  | .lane => [t]
  | _ => (i.group.filter fun m => (s.thr m).live)

/-- The region that governs an access as the block's list stands at its issue (R191). -/
def State.regionOf (s : State) (t : Nat) (acc : Acc) : Nat :=
  match acc.global with
  | some (va, _) => s.regionObj t va.toNat
  | none => 0

/-- The regions of the units of a table image, as the block's list stands at the issue (R191, R390). -/
def State.regionsOf (s : State) (t : Nat) : Acc → List Nat
  | .specTable va => (List.range 10).map fun i => s.regionObj t (va.toNat + 8 * i)
  | _ => []

/-- The releases that an ACQ of a signal word or a barrier reaches for each member, as it issues (R195, R227). -/
def State.upsOf (s : State) (t : Nat) (ms : List Nat) : Acc → List Nat
  | .acq obj _ => match s.objOf t obj with | some k => s.acqUps ms k | none => []
  | _ => []

/-- An access of the word in progress. -/
def State.mkAccess (s : State) (i : Issue) (sc : Scope) (t : Nat) (ll : Bool) (acc : Acc) : Access :=
  { acc := acc, flag := if ll then i.flag else none, hdr := i.hdr, word := i.pos + 1, scope := sc
    members := s.tied i sc t, warps := s.destWarps i sc t, region := s.regionOf t acc, regions := s.regionsOf t acc
    seq := s.nextOp, group := i.born, ups := s.upsOf t (s.tied i sc t) acc }

/-- What one thread's operands make of a memory word: an access, or a fault of the thread. -/
abbrev Prepared := Except MemFault Acc

/-- A memory word's access in preparation: the state after the operand reads, and the access or fault, which leaves the
thread's queues as they were (R65). -/
def State.prepAll (s : State) (i : Issue) (prep : State → Issue → Nat → Prepared × State) :
    List Nat → List (Nat × Prepared) × State
  | [] => ([], s)
  | t :: ts =>
    let x := prep s i t
    let s := match x.1 with
      | .ok _ => x.2
      | .error _ => if (x.2.block (coreOf t)).opq = (s.block (coreOf t)).opq then x.2 else x.2.unpop s t
    let y := State.prepAll s i prep ts
    ((t, x.1) :: y.1, y.2)

/-- A memory word: each acting thread prepares its access in ascending home lane; the accesses issue
together; faults stop their thread at the word (the whole group at a wider scope) (R181, R219). -/
def memWord (sc : Scope) (p : Nat) (ll : Bool) (prep : State → Issue → Nat → Prepared × State) (s : State) :
    Out :=
  onIssue s fun i =>
    let r := s.prepAll i prep (s.actors i sc p)
    let ok := r.1.filterMap fun x => match x.2 with
      | .ok a => some (x.1, r.2.mkAccess i sc x.1 ll a)
      | .error _ => none
    let bad := r.1.filterMap fun x => match x.2 with
      | .ok _ => none
      | .error f => some (x.1, (f, (0 : Dword)))
    let m := r.2.memIssue ok
    let fs := bad ++ m.2.map fun x => (x.1, (x.2, (0 : Dword)))
    m.1.raiseMany i sc 0 fs.length fs

end Sys2Proof.Machine
end

