-- ==== Sys2Proof/Machine/Flags.lean ====
section
/-! DEFINITION. Predicate results: integer comparisons (R74), predicate logic (R76), predicate moves
(R77), and the writing of predicate destinations (R64). -/

namespace Sys2Proof.Machine

/-- The comparison codes 0-5 on integers, signed or unsigned (R29, R74). -/
def icmp (c : Nat) (uns : Bool) (a b : Word) : Bool :=
  let x : Int := if uns then u32 a else s32 a
  let y : Int := if uns then u32 b else s32 b
  match c with
  | 0 => x = y
  | 1 => x ≠ y
  | 2 => x < y
  | 3 => x ≤ y
  | 4 => y < x
  | _ => y ≤ x

/-- PLOP's operations: AND, OR, XOR (R76). -/
def plopOp (c : Nat) (x y : Bool) : Bool :=
  match c with
  | 0 => x && y
  | 1 => x || y
  | _ => x != y

/-- A predicate operand with its NEG bit (R76). -/
def State.predOperand (s : State) (t : Nat) (neg : BitVec 1) (n : BitVec 3) : Bool :=
  s.pred t n.toNat != (neg == 1)

/-- The threads whose predicate a word writes: the thread at lane scope, every live member otherwise
(R64). -/
def State.predDest (s : State) (i : Issue) (sc : Scope) (t : Nat) : List Nat := s.tied i sc t

/-- A predicate written in threads. -/
def State.setPreds (s : State) (ts : List Nat) (pd : Nat) (b : Bool) : State :=
  ts.foldl (fun s m => s.setPred m pd b) s

/-- One thread's comparison effect. -/
def State.cmpOne (s : State) (i : Issue) (sc : Scope) (pd : Nat) (srcs : List Nat)
    (f : Modes → List Word → Bool) (t : Nat) : Ran :=
  match s.sources i t srcs with
  | (.error e, _) => ranBad s e
  | (.ok xs, s') => ran (s'.setPreds (s.predDest i sc t) pd (f (s.modes t) xs))

/-- An instruction that writes a predicate from register sources. -/
def cmpReg (sc : Scope) (pd : BitVec 3) (p : Nat) (srcs : List (BitVec 7)) (f : Modes → List Word → Bool)
    (s : State) : Out :=
  onIssue s fun i => s.eachOr i sc p 0 fun s t => s.cmpOne i sc pd.toNat (srcs.map BitVec.toNat) f t

/-- PMOV.GET's word: p7..p1 in bits [7:1], bit 0 set (R77). -/
def predWord (p : BitVec 8) : Word := (0 : BitVec 24) ++ (p ||| 1)

end Sys2Proof.Machine
end

