-- ==== Sys2Proof/Machine/Transc.lean ====
section
/-! DEFINITION. The functions of ALU opcode 41 (R57-R59). Square roots are exact by integer square
roots; the others are evaluated in fixed point with 512 fraction bits before the rounding (log
entry 6). -/

namespace Sys2Proof.Machine

/-- Fraction bits of the fixed-point evaluations. -/
def fxBits : Nat := 512

/-- 1.0 in fixed point. -/
def fxOne : Nat := 2 ^ fxBits

/-- floor(sqrt n), bit by bit from bit k - 1 down. -/
def isqrtAux (n : Nat) : Nat → Nat → Nat
  | 0, r => r
  | k + 1, r => let c := r + 2 ^ k; isqrtAux n k (if c * c ≤ n then c else r)

/-- floor(sqrt n). -/
def isqrt (n : Nat) : Nat := isqrtAux n (Nat.log2 n / 2 + 1) 0

/-- A rational that rounds as sqrt(n / d) does: 2·floor plus a sticky bit at 80 guard bits. -/
def sqrtRat (n d : Nat) : Nat × Nat :=
  let k := 160 + 2 * Nat.log2 d
  let x := n * 2 ^ (2 * k) / d
  let exact := x * d = n * 2 ^ (2 * k)
  let r := isqrt x
  (2 * r + (if exact ∧ r * r = x then 0 else 1), 2 ^ (k + 1))

/-- sum of x^(i)/i! terms: the exponential of a fixed-point x in [0, 1), `fuel` terms. -/
def expSeries (x : Nat) : Nat → Nat → Nat → Nat
  | 0, _, _ => 0
  | fuel + 1, i, term => term + expSeries x fuel (i + 1) (term * x / fxOne / (i + 1))

/-- atanh-like series sum y^(2i+1)/(2i+1) with ratio y2 = y², signs alternating when `alt`. -/
def oddSeries (alt : Bool) (y2 : Nat) : Nat → Nat → Nat → Int
  | 0, _, _ => 0
  | fuel + 1, i, pow =>
    (if alt && i % 2 = 1 then -((pow / (2 * i + 1) : Nat) : Int) else ((pow / (2 * i + 1) : Nat) : Int))
      + oddSeries alt y2 fuel (i + 1) (pow * y2 / fxOne)

/-- atanh(n / d) in fixed point, for n / d at most 1/3. -/
def atanhFx (n d : Nat) : Nat :=
  let y := n * fxOne / d
  (oddSeries false (y * y / fxOne) 170 0 y).toNat

/-- arctan(1 / d) in fixed point. -/
def atanFx (d : Nat) : Int :=
  let y := fxOne / d
  oddSeries true (y * y / fxOne) 120 0 y

/-- ln 2 = 2 atanh(1/3). -/
def ln2Fx : Nat := 2 * atanhFx 1 3

/-- pi = 16 arctan(1/5) - 4 arctan(1/239). -/
def piFx : Nat := (16 * atanFx 5 - 4 * atanFx 239).toNat

/-- log2 of a fixed-point x in [1, 2). -/
def log2Fx (x : Nat) : Nat := 2 * atanhFx (x - fxOne) (x + fxOne) * fxOne / ln2Fx

/-- 2^x of a fixed-point x in [0, 1). -/
def exp2Fx (x : Nat) : Nat := expSeries (x * ln2Fx / fxOne) 100 0 fxOne

/-- sin (first) or cos of a fixed-point x in [0, 2): the alternating series from term i. -/
def trigSeries (x2 : Nat) : Nat → Nat → Nat → Int
  | 0, _, _ => 0
  | fuel + 1, i, term =>
    (if i / 2 % 2 = 1 then -(term : Int) else (term : Int))
      + trigSeries x2 fuel (i + 2) (term * x2 / fxOne / ((i + 1) * (i + 2)))

def sinFx (x : Nat) : Int := trigSeries (x * x / fxOne) 60 1 x
def cosFx (x : Nat) : Int := trigSeries (x * x / fxOne) 60 0 fxOne

/-- A signed fixed-point value as an exact value. -/
def fxVal (x : Int) : FVal := .fin (x < 0) x.natAbs fxOne

/-- sin or cos of the angle `quarter` quarter turns plus r in [0, pi/2). -/
def trigQuarter (cosine : Bool) (quarter r : Nat) : Int :=
  match (quarter + if cosine then 1 else 0) % 4 with
  | 0 => sinFx r
  | 1 => cosFx r
  | 2 => -sinFx r
  | _ => -cosFx r

/-- sin or cos of n / d radians, n / d > 0: exact reduction by pi in fixed point. The fixed point
widens with the magnitude, so that the reduction loses nothing: pi is used at `fxBits` bits. -/
def trigRadians (cosine neg : Bool) (n d : Nat) : FVal :=
  let x := n * fxOne / d
  let half := piFx / 2
  let q := x / half
  let y := trigQuarter cosine q (x % half)
  fxVal (if neg && !cosine then -y else y)

/-- sin or cos of 2 pi (n / d) with 0 <= n < d: exact at quarter turns. -/
def trigTurns (cosine : Bool) (n d : Nat) : FVal :=
  let q := 4 * n / d
  let r := 4 * n % d
  if r = 0 then
    match (q + if cosine then 1 else 0) % 4 with
    | 1 => .fin false 1 1
    | 3 => .fin true 1 1
    | _ => .fin false 0 1
  else fxVal (trigQuarter cosine q (piFx * r / (2 * d)))

/-- 2^(±n/d): the integral part scales exactly, the fraction goes through the series. -/
def exp2Val (neg : Bool) (n d : Nat) : FVal :=
  let q := n / d
  let r := n % d
  if 300 < q then (if neg then .fin false 1 (2 ^ 300) else .inf false)
  else if r = 0 then (if neg then .fin false 1 (2 ^ q) else .fin false (2 ^ q) 1)
  else if neg then .fin false (exp2Fx ((d - r) * fxOne / d)) (fxOne * 2 ^ (q + 1))
  else .fin false (exp2Fx (r * fxOne / d) * 2 ^ q) fxOne

/-- log2(n / d) for n / d > 0: exact for powers of two. -/
def log2Val (n d : Nat) : FVal :=
  let e := ilog2 n d
  let x := if 0 ≤ e then n * fxOne / (d * 2 ^ e.toNat) else n * 2 ^ (-e).toNat * fxOne / d
  let y : Int := e * fxOne + (if x = fxOne then 0 else (log2Fx x : Int))
  if y = 0 then .fin false 0 1 else fxVal y

/-- The seven functions. -/
inductive TFun where
  | rcp | rsq | sqrt | ex2 | lg2 | sin | cos
  deriving DecidableEq, Repr

/-- The special results of R58, an overflow of FEX2 in every generation among them; `none` for an argument that goes to
the exact function. -/
def tSpecial (f : TFun) (v : FVal) : Option FVal :=
  match f, v with
  | _, .nan => some .nan
  | .rcp, .inf s => some (.fin s 0 1)
  | .rcp, .fin s 0 _ => some (.inf s)
  | .rsq, .fin s 0 _ => some (.inf s)
  | .rsq, .inf false => some (.fin false 0 1)
  | .rsq, .inf true => some .nan
  | .rsq, .fin true _ _ => some .nan
  | .sqrt, .fin s 0 _ => some (.fin s 0 1)
  | .sqrt, .inf false => some (.inf false)
  | .sqrt, .inf true => some .nan
  | .sqrt, .fin true _ _ => some .nan
  | .ex2, .inf false => some (.inf false)
  | .ex2, .inf true => some (.fin false 0 1)
  | .ex2, .fin _ 0 _ => some (.fin false 1 1)
  | .ex2, .fin false n d => if 128 * d ≤ n then some (.inf false) else none
  | .lg2, .fin _ 0 _ => some (.inf true)
  | .lg2, .inf false => some (.inf false)
  | .lg2, .inf true => some .nan
  | .lg2, .fin true _ _ => some .nan
  | .sin, .inf _ => some .nan
  | .cos, .inf _ => some .nan
  | .sin, .fin s 0 _ => some (.fin s 0 1)
  | .cos, .fin _ 0 _ => some (.fin false 1 1)
  | _, _ => none

/-- The exact function value (R57). -/
def tExact (f : TFun) (v : FVal) : FVal :=
  match v with
  | .fin s n d =>
    match f with
    | .rcp => .fin s d n
    | .rsq => let r := sqrtRat d n; .fin false r.1 r.2
    | .sqrt => let r := sqrtRat n d; .fin false r.1 r.2
    | .ex2 => exp2Val s n d
    | .lg2 => log2Val n d
    | .sin => trigRadians false s n d
    | .cos => trigRadians true s n d
  | _ => .nan

/-- K of R59. -/
def legacyK (f : TFun) (gen : Nat) : Nat :=
  match f, gen with
  | .rcp, 1 | .rsq, 1 | .sqrt, 1 => 16
  | .rcp, 2 | .rsq, 2 => 20
  | .sqrt, 2 => 21
  | .rcp, _ | .rsq, _ => 22
  | .sqrt, _ => 23
  | .ex2, 1 | .lg2, 1 => 14
  | .ex2, 2 | .lg2, 2 => 18
  | .ex2, _ | .lg2, _ => 22
  | .sin, 1 | .cos, 1 => 12
  | .sin, 2 | .cos, 2 => 16
  | .sin, _ | .cos, _ => 21

/-- Frac(RoundF32(x × C)) as n / d in [0, 1) (R59 step 2). -/
def legacyTurns (v : FVal) : Nat × Nat :=
  match fmtF32.decode (fmtF32.round false (v.mul (fmtF32.decode 0x3E22F983))) with
  | .fin s n d => (if s then (d - n % d) % d else n % d, d)
  | _ => (0, 1)

/-- The exact value a legacy generation starts from (R59 steps 2 and 3). -/
def legacyExact (f : TFun) (v : FVal) : FVal :=
  match f with
  | .sin => let t := legacyTurns v; trigTurns false t.1 t.2
  | .cos => let t := legacyTurns v; trigTurns true t.1 t.2
  | _ => tExact f v

/-- Truncation to a significand of 1 + K bits (R59 step 4, relative). -/
def truncRel (k : Nat) (v : FVal) : FVal :=
  match v with
  | .fin s n d =>
    if n = 0 then v
    else
      let q := ilog2 n d - k
      if 0 ≤ q then .fin s (n / (d * 2 ^ q.toNat) * 2 ^ q.toNat) 1
      else .fin s (n * 2 ^ (-q).toNat / d) (2 ^ (-q).toNat)
  | _ => v

/-- Truncation to a multiple of 2^-K (R59 step 4, absolute); an exact zero is +0. -/
def truncAbs (k : Nat) (v : FVal) : FVal :=
  match v with
  | .fin s n d => if n = 0 then .fin false 0 1 else .fin s (n * 2 ^ k / d) (2 ^ k)
  | _ => v

/-- A legacy generation's result from y. -/
def legacyResult (f : TFun) (gen : Nat) (y : FVal) : FVal :=
  match f with
  | .lg2 | .sin | .cos => truncAbs (legacyK f gen) y
  | _ => truncRel (legacyK f gen) y

/-- One of the seven functions under the installed modes (R57-R59). A legacy generation flushes a denormal before the
special values are looked at (DESIGN CHOICE, log entry 128). -/
def transc (md : Modes) (f : TFun) (a : Word) : Word :=
  let legacy := md.trans ≠ 0
  let md' : Modes := { md with daz := md.daz || legacy }
  let v := srcF32 md' a
  match tSpecial f v with
  | some r => resF32 md' false r
  | none =>
    if legacy then resF32 md' true (legacyResult f md.trans (legacyExact f v))
    else resF32 md' false (tExact f v)

end Sys2Proof.Machine
end

