-- ==== Sys2Proof/Machine/Alu.lean ====
section
/-! DEFINITION. The ALU class (R66-R81). -/

namespace Sys2Proof.Machine

/-! ## Value functions -/

/-- SHL with an 8-bit count (R70). -/
def shlV (a : Word) (c : Nat) : Word := if c < 32 then a <<< c else 0
/-- SHR. -/
def shrV (a : Word) (c : Nat) : Word := if c < 32 then a >>> c else 0
/-- SAR. -/
def sarV (a : Word) (c : Nat) : Word := if c < 32 then a.sshiftRight c else if a.getLsbD 31 then 0xFFFFFFFF else 0
/-- ROL. -/
def rolV (a : Word) (c : Nat) : Word := a.rotateLeft (c % 32)

/-- The position of a field descriptor (R72). -/
def fieldPos (b : Word) : Nat := (b.extractLsb' 0 5).toNat
/-- The effective width of a field descriptor. -/
def fieldWidth (b : Word) : Nat := min (b.extractLsb' 8 6).toNat (32 - fieldPos b)

/-- BFE (R72). -/
def bfeV (a b : Word) : Word :=
  let w := fieldWidth b
  if w = 0 then 0
  else
    let f := a.toNat / 2 ^ fieldPos b % 2 ^ w
    if b.getLsbD 16 then w32 (sextI f w) else w32n f

/-- BFI (R72). -/
def bfiV (a b d : Word) : Word :=
  let w := fieldWidth b
  let m : Word := w32n ((2 ^ w - 1) * 2 ^ fieldPos b)
  (d &&& ~~~m) ||| ((a <<< fieldPos b) &&& m)

/-- POPC. -/
def popcV (a : Word) : Word := w32n ((List.range 32).filter fun i => a.getLsbD i).length
/-- CLZ: 32 for 0. -/
def clzV (a : Word) : Word := if a = 0 then 32 else w32n (31 - Nat.log2 a.toNat)
/-- BREV. -/
def brevV (a : Word) : Word := a.reverse

/-- IDP4: four signed byte products added to D (R67). -/
def idp4V (a b d : Word) : Word :=
  d + w32 ((List.range 4).foldl (fun acc i =>
    acc + (a.extractLsb' (8 * i) 8).toInt * (b.extractLsb' (8 * i) 8).toInt) 0)

def iabsV (a : Word) : Word := if s32 a < 0 then -a else a
def iminV (a b : Word) : Word := if s32 a ≤ s32 b then a else b
def imaxV (a b : Word) : Word := if s32 b ≤ s32 a then a else b
def iminUiV (a b : Word) : Word := if u32 a ≤ u32 b then a else b
def imaxUiV (a b : Word) : Word := if u32 b ≤ u32 a then a else b
/-- IMULH: bits [63:32] of the signed product. -/
def imulhV (a b : Word) : Word := w32 (s32 a * s32 b / 4294967296)
/-- IMULH.UI. -/
def imulhUiV (a b : Word) : Word := w32n (u32 a * u32 b / 4294967296)
/-- An immediate of 10 bits, sign-extended. -/
def simm10 (i : BitVec 10) : Word := i.signExtend 32
/-- An immediate of 10 bits, zero-extended. -/
def zimm10 (i : BitVec 10) : Word := i.setWidth 32
/-- ISETPI's immediate: sign-extended when UNS is 0, zero-extended when it is 1 (R29). -/
def imm7 (u : BitVec 1) (i : BitVec 7) : Word := if u = 1 then i.setWidth 32 else i.signExtend 32

/-! ## Moves and selection (R66) -/

def execMov (sc : Scope) (d a : BitVec 7) (p : BitVec 3) (s : State) : Out :=
  aluReg sc d p.toNat [a] (fn1 fun _ x => x) s
def execMovi (sc : Scope) (d : BitVec 7) (imm : BitVec 17) (s : State) : Out :=
  aluReg sc d 0 [] (fun _ _ _ => imm.signExtend 32) s
def execMovl (sc : Scope) (d : BitVec 7) (p : BitVec 3) (lit : Word) (s : State) : Out :=
  aluReg sc d p.toNat [] (fun _ _ _ => lit) s

/-- SEL for one thread: PRED selects (R66). -/
def State.selOne (s : State) (i : Issue) (sc : Scope) (d a b p : Nat) (t : Nat) : Ran :=
  s.aluOne i sc d [a, b] (fn2 fun _ x y => if s.pred t p then x else y) t

def execSel (sc : Scope) (d a b : BitVec 7) (p : BitVec 3) (s : State) : Out :=
  onIssue s fun i => s.eachOr i sc 0 0 fun s t => s.selOne i sc d.toNat a.toNat b.toNat p.toNat t

/-! ## Integer arithmetic (R67, R68) -/

def execIadd (sc : Scope) (d a b : BitVec 7) (p : BitVec 3) (s : State) : Out :=
  aluReg sc d p.toNat [a, b] (fn2 fun _ x y => x + y) s
def execIaddi (sc : Scope) (d a : BitVec 7) (imm : BitVec 10) (s : State) : Out :=
  aluReg sc d 0 [a] (fn1 fun _ x => x + simm10 imm) s
def execIsub (sc : Scope) (d a b : BitVec 7) (p : BitVec 3) (s : State) : Out :=
  aluReg sc d p.toNat [a, b] (fn2 fun _ x y => x - y) s
def execImul (sc : Scope) (d a b : BitVec 7) (p : BitVec 3) (s : State) : Out :=
  aluReg sc d p.toNat [a, b] (fn2 fun _ x y => x * y) s
def execImulh (sc : Scope) (d a b : BitVec 7) (p : BitVec 3) (s : State) : Out :=
  aluReg sc d p.toNat [a, b] (fn2 fun _ x y => imulhV x y) s
def execImulhUi (sc : Scope) (d a b : BitVec 7) (p : BitVec 3) (s : State) : Out :=
  aluReg sc d p.toNat [a, b] (fn2 fun _ x y => imulhUiV x y) s
def execImad (sc : Scope) (d a b : BitVec 7) (p : BitVec 3) (s : State) : Out :=
  aluReg sc d p.toNat [a, b] (fn3 fun _ x y z => x * y + z) s
def execImin (sc : Scope) (d a b : BitVec 7) (p : BitVec 3) (s : State) : Out :=
  aluReg sc d p.toNat [a, b] (fn2 fun _ x y => iminV x y) s
def execIminUi (sc : Scope) (d a b : BitVec 7) (p : BitVec 3) (s : State) : Out :=
  aluReg sc d p.toNat [a, b] (fn2 fun _ x y => iminUiV x y) s
def execImax (sc : Scope) (d a b : BitVec 7) (p : BitVec 3) (s : State) : Out :=
  aluReg sc d p.toNat [a, b] (fn2 fun _ x y => imaxV x y) s
def execImaxUi (sc : Scope) (d a b : BitVec 7) (p : BitVec 3) (s : State) : Out :=
  aluReg sc d p.toNat [a, b] (fn2 fun _ x y => imaxUiV x y) s
def execIabs (sc : Scope) (d a : BitVec 7) (p : BitVec 3) (s : State) : Out :=
  aluReg sc d p.toNat [a] (fn1 fun _ x => iabsV x) s
def execIdp4 (sc : Scope) (d a b : BitVec 7) (p : BitVec 3) (s : State) : Out :=
  aluReg sc d p.toNat [a, b] (fn3 fun _ x y z => idp4V x y z) s

/-! ## Logic, shifts, bit fields (R69-R73) -/

def execAnd (sc : Scope) (d a b : BitVec 7) (p : BitVec 3) (s : State) : Out :=
  aluReg sc d p.toNat [a, b] (fn2 fun _ x y => x &&& y) s
def execAndi (sc : Scope) (d a : BitVec 7) (imm : BitVec 10) (s : State) : Out :=
  aluReg sc d 0 [a] (fn1 fun _ x => x &&& zimm10 imm) s
def execOr (sc : Scope) (d a b : BitVec 7) (p : BitVec 3) (s : State) : Out :=
  aluReg sc d p.toNat [a, b] (fn2 fun _ x y => x ||| y) s
def execOri (sc : Scope) (d a : BitVec 7) (imm : BitVec 10) (s : State) : Out :=
  aluReg sc d 0 [a] (fn1 fun _ x => x ||| zimm10 imm) s
def execXor (sc : Scope) (d a b : BitVec 7) (p : BitVec 3) (s : State) : Out :=
  aluReg sc d p.toNat [a, b] (fn2 fun _ x y => x ^^^ y) s
def execXori (sc : Scope) (d a : BitVec 7) (imm : BitVec 10) (s : State) : Out :=
  aluReg sc d 0 [a] (fn1 fun _ x => x ^^^ zimm10 imm) s
def execShl (sc : Scope) (d a b : BitVec 7) (p : BitVec 3) (s : State) : Out :=
  aluReg sc d p.toNat [a, b] (fn2 fun _ x y => shlV x (y.extractLsb' 0 8).toNat) s
def execShr (sc : Scope) (d a b : BitVec 7) (p : BitVec 3) (s : State) : Out :=
  aluReg sc d p.toNat [a, b] (fn2 fun _ x y => shrV x (y.extractLsb' 0 8).toNat) s
def execSar (sc : Scope) (d a b : BitVec 7) (p : BitVec 3) (s : State) : Out :=
  aluReg sc d p.toNat [a, b] (fn2 fun _ x y => sarV x (y.extractLsb' 0 8).toNat) s
def execShfiShl (sc : Scope) (d a : BitVec 7) (c : BitVec 5) (s : State) : Out :=
  aluReg sc d 0 [a] (fn1 fun _ x => shlV x c.toNat) s
def execShfiShr (sc : Scope) (d a : BitVec 7) (c : BitVec 5) (s : State) : Out :=
  aluReg sc d 0 [a] (fn1 fun _ x => shrV x c.toNat) s
def execShfiSar (sc : Scope) (d a : BitVec 7) (c : BitVec 5) (s : State) : Out :=
  aluReg sc d 0 [a] (fn1 fun _ x => sarV x c.toNat) s
def execShfiRol (sc : Scope) (d a : BitVec 7) (c : BitVec 5) (s : State) : Out :=
  aluReg sc d 0 [a] (fn1 fun _ x => rolV x c.toNat) s
def execRol (sc : Scope) (d a b : BitVec 7) (p : BitVec 3) (s : State) : Out :=
  aluReg sc d p.toNat [a, b] (fn2 fun _ x y => rolV x (y.extractLsb' 0 5).toNat) s
def execBfe (sc : Scope) (d a b : BitVec 7) (p : BitVec 3) (s : State) : Out :=
  aluReg sc d p.toNat [a, b] (fn2 fun _ x y => bfeV x y) s
def execBfi (sc : Scope) (d a b : BitVec 7) (p : BitVec 3) (s : State) : Out :=
  aluReg sc d p.toNat [a, b] (fn3 fun _ x y z => bfiV x y z) s
def execPopc (sc : Scope) (d a : BitVec 7) (p : BitVec 3) (s : State) : Out :=
  aluReg sc d p.toNat [a] (fn1 fun _ x => popcV x) s
def execClz (sc : Scope) (d a : BitVec 7) (p : BitVec 3) (s : State) : Out :=
  aluReg sc d p.toNat [a] (fn1 fun _ x => clzV x) s
def execBrev (sc : Scope) (d a : BitVec 7) (p : BitVec 3) (s : State) : Out :=
  aluReg sc d p.toNat [a] (fn1 fun _ x => brevV x) s

/-! ## Comparisons and predicates (R74-R77) -/

/-- A comparison of two sources. -/
def cmp2 (f : Modes → Word → Word → Bool) : Modes → List Word → Bool
  | md, [a, b] => f md a b
  | _, _ => false

/-- A comparison of one source. -/
def cmp1 (f : Modes → Word → Bool) : Modes → List Word → Bool
  | md, [a] => f md a
  | _, _ => false

def execIsetp (sc : Scope) (c : BitVec 3) (u : BitVec 1) (pd : BitVec 3) (a b : BitVec 7) (p : BitVec 3)
    (s : State) : Out :=
  cmpReg sc pd p.toNat [a, b] (cmp2 fun _ x y => icmp c.toNat (u == 1) x y) s
def execIsetpi (sc : Scope) (c : BitVec 3) (u : BitVec 1) (pd : BitVec 3) (a imm : BitVec 7) (p : BitVec 3)
    (s : State) : Out :=
  cmpReg sc pd p.toNat [a] (cmp1 fun _ x => icmp c.toNat (u == 1) x (imm7 u imm)) s
def execFsetp (sc : Scope) (c pd : BitVec 3) (a b : BitVec 7) (p : BitVec 3) (s : State) : Out :=
  cmpReg sc pd p.toNat [a, b] (cmp2 fun md x y => fcmp md c.toNat x y) s
def execPlop (sc : Scope) (c pd : BitVec 3) (na : BitVec 1) (pa : BitVec 3) (nb : BitVec 1) (pb : BitVec 3)
    (p : BitVec 3) (s : State) : Out :=
  onIssue s fun i => s.eachOr i sc p.toNat 0 fun s t =>
    ran (s.setPreds (s.predDest i sc t) pd.toNat
      (plopOp c.toNat (s.predOperand t na pa) (s.predOperand t nb pb)))
def execPmovGet (sc : Scope) (d : BitVec 7) (p : BitVec 3) (s : State) : Out :=
  onIssue s fun i => s.eachOr i sc p.toNat 0 fun s t =>
    ran (s.setReg t (s.destWarps i sc t) d.toNat (predWord (s.thr t).p))

/-- PMOV.PUT for one thread's value (R77). -/
def State.pmovPut (s : State) (i : Issue) (sc : Scope) (a : Nat) (t : Nat) : Ran :=
  match s.source i t a with
  | (.error e, _) => ranBad s e
  | (.ok x, s') => ran (s'.modThrs (s.predDest i sc t) fun th => { th with p := x.extractLsb' 0 8 })

def execPmovPut (sc : Scope) (a : BitVec 7) (p : BitVec 3) (s : State) : Out :=
  onIssue s fun i => s.eachOr i sc p.toNat 0 fun s t => s.pmovPut i sc a.toNat t

/-! ## Floating point (R78-R81) -/

def execFadd (sc : Scope) (d a b : BitVec 7) (p : BitVec 3) (s : State) : Out :=
  aluReg sc d p.toNat [a, b] (fn2 fadd) s
def execFsub (sc : Scope) (d a b : BitVec 7) (p : BitVec 3) (s : State) : Out :=
  aluReg sc d p.toNat [a, b] (fn2 fsub) s
def execFmul (sc : Scope) (d a b : BitVec 7) (p : BitVec 3) (s : State) : Out :=
  aluReg sc d p.toNat [a, b] (fn2 fmul) s
def execFfma (sc : Scope) (d a b : BitVec 7) (p : BitVec 3) (s : State) : Out :=
  aluReg sc d p.toNat [a, b] (fn3 ffma) s
def execFmin (sc : Scope) (d a b : BitVec 7) (p : BitVec 3) (s : State) : Out :=
  aluReg sc d p.toNat [a, b] (fn2 fun md x y => fminmax md false x y) s
def execFmax (sc : Scope) (d a b : BitVec 7) (p : BitVec 3) (s : State) : Out :=
  aluReg sc d p.toNat [a, b] (fn2 fun md x y => fminmax md true x y) s
def execFabs (sc : Scope) (d a : BitVec 7) (p : BitVec 3) (s : State) : Out :=
  aluReg sc d p.toNat [a] (fn1 fun _ x => x &&& 0x7FFFFFFF) s
def execFneg (sc : Scope) (d a : BitVec 7) (p : BitVec 3) (s : State) : Out :=
  aluReg sc d p.toNat [a] (fn1 fun _ x => x ^^^ 0x80000000) s
def execFrcp (sc : Scope) (d a : BitVec 7) (p : BitVec 3) (s : State) : Out :=
  aluReg sc d p.toNat [a] (fn1 fun md x => transc md .rcp x) s
def execFrsq (sc : Scope) (d a : BitVec 7) (p : BitVec 3) (s : State) : Out :=
  aluReg sc d p.toNat [a] (fn1 fun md x => transc md .rsq x) s
def execFsqrt (sc : Scope) (d a : BitVec 7) (p : BitVec 3) (s : State) : Out :=
  aluReg sc d p.toNat [a] (fn1 fun md x => transc md .sqrt x) s
def execFex2 (sc : Scope) (d a : BitVec 7) (p : BitVec 3) (s : State) : Out :=
  aluReg sc d p.toNat [a] (fn1 fun md x => transc md .ex2 x) s
def execFlg2 (sc : Scope) (d a : BitVec 7) (p : BitVec 3) (s : State) : Out :=
  aluReg sc d p.toNat [a] (fn1 fun md x => transc md .lg2 x) s
def execFsin (sc : Scope) (d a : BitVec 7) (p : BitVec 3) (s : State) : Out :=
  aluReg sc d p.toNat [a] (fn1 fun md x => transc md .sin x) s
def execFcos (sc : Scope) (d a : BitVec 7) (p : BitVec 3) (s : State) : Out :=
  aluReg sc d p.toNat [a] (fn1 fun md x => transc md .cos x) s
def execFfloor (sc : Scope) (d a : BitVec 7) (p : BitVec 3) (s : State) : Out :=
  aluReg sc d p.toNat [a] (fn1 fun md x => fintegral md 0 x) s
def execFceil (sc : Scope) (d a : BitVec 7) (p : BitVec 3) (s : State) : Out :=
  aluReg sc d p.toNat [a] (fn1 fun md x => fintegral md 1 x) s
def execFtrunc (sc : Scope) (d a : BitVec 7) (p : BitVec 3) (s : State) : Out :=
  aluReg sc d p.toNat [a] (fn1 fun md x => fintegral md 2 x) s
def execFrint (sc : Scope) (d a : BitVec 7) (p : BitVec 3) (s : State) : Out :=
  aluReg sc d p.toNat [a] (fn1 fun md x => fintegral md 3 x) s
def execFfract (sc : Scope) (d a : BitVec 7) (p : BitVec 3) (s : State) : Out :=
  aluReg sc d p.toNat [a] (fn1 ffract) s
def execHadd2 (sc : Scope) (d a b : BitVec 7) (p : BitVec 3) (s : State) : Out :=
  aluReg sc d p.toNat [a, b] (fn3 fun _ x y z => padd fmtF16 x y z) s
def execHmul2 (sc : Scope) (d a b : BitVec 7) (p : BitVec 3) (s : State) : Out :=
  aluReg sc d p.toNat [a, b] (fn3 fun _ x y z => pmul fmtF16 x y z) s
def execHfma2 (sc : Scope) (d a b : BitVec 7) (p : BitVec 3) (s : State) : Out :=
  aluReg sc d p.toNat [a, b] (fn3 fun _ x y z => pfma fmtF16 x y z) s
def execBadd2 (sc : Scope) (d a b : BitVec 7) (p : BitVec 3) (s : State) : Out :=
  aluReg sc d p.toNat [a, b] (fn3 fun _ x y z => padd fmtBF16 x y z) s
def execBmul2 (sc : Scope) (d a b : BitVec 7) (p : BitVec 3) (s : State) : Out :=
  aluReg sc d p.toNat [a, b] (fn3 fun _ x y z => pmul fmtBF16 x y z) s
def execBfma2 (sc : Scope) (d a b : BitVec 7) (p : BitVec 3) (s : State) : Out :=
  aluReg sc d p.toNat [a, b] (fn3 fun _ x y z => pfma fmtBF16 x y z) s

/-- CVT's type codes and RZ in the B field (R81). -/
def cvtDt (b : BitVec 7) : Nat := (b.extractLsb' 4 3).toNat
def cvtSt (b : BitVec 7) : Nat := (b.extractLsb' 1 3).toNat

/-- CVT: type code 7 raises ILLEGAL_OP as it executes (R60, R81) (DEDUCED, log entry 28). -/
def execCvt (sc : Scope) (d a b : BitVec 7) (p : BitVec 3) (s : State) : Out :=
  if cvtDt b = 7 ∨ cvtSt b = 7 then
    onIssue s fun i => s.eachOr i sc p.toNat 0 fun s _ => ranBad s (plainFault clsIllegalOp)
  else aluReg sc d p.toNat [a] (fn1 fun md x => cvtValue md (cvtDt b) (cvtSt b) (b.getLsbD 0) x) s

end Sys2Proof.Machine
end

