-- ==== Sys2Proof/Machine/Ctrl.lean ====
section
/-! DEFINITION. Control transfers, calls, exit, special registers, features and traps (R85-R96). -/

namespace Sys2Proof.Machine

/-! ## Transfers (R10, R86-R88) -/

/-- Whether a transfer's target fails: not a multiple of 4, nonzero bits [63:48], or a word that fails
R27. A fetch fault there belongs to the target's own clause (R10). -/
def State.badTarget (s : State) (t : Nat) (target : Dword) : Bool :=
  target.toNat ≥ 2 ^ 48 || target.toNat % 4 ≠ 0
    || match (s.fetch t target.toNat).1 with
      | .ok w => (decodeHeader w).isNone
      | .error _ => false

/-- A transfer of one thread: ILLEGAL_CLAUSE with the target in DETAIL, or the next clause (R10). -/
def State.transfer (s : State) (t : Nat) (target : Dword) : Ran :=
  if s.badTarget t target then (s, some (plainFault clsIllegalClause, target))
  else ran (s.modThr t fun th => { th with npc := some (target.setWidth 48) })

/-- H + 4 × an offset in words (R29). -/
def Issue.target (i : Issue) (off : Int) : Dword := BitVec.ofInt 64 (i.hdr.toNat + 4 * off)

/-- The word's effect for every thread of the group, at any scope: unguarded transfers. -/
def State.eachMember (s : State) (i : Issue) (sc : Scope) (lits : Nat) (k : State → Nat → Ran) : State :=
  let r := s.runAll k i.group
  r.1.raiseMany i sc lits r.2.length r.2

/-- NOP has no effect (R85). -/
def execNop (_ : Scope) (_ : BitVec 3) (s : State) : Out := onIssue s fun _ => s

def execBra (sc : Scope) (off : BitVec 24) (s : State) : Out :=
  onIssue s fun i => s.eachMember i sc 0 fun s t => s.transfer t (i.target off.toInt)

/-- The first literal of a BRM whose predicate, inverted under NEG, is true in a thread (R29). -/
def State.brmChoice (s : State) (t : Nat) (lits : List Word) : Option Int :=
  (lits.find? fun l => s.pred t (l.extractLsb' 29 3).toNat != l.getLsbD 28).map
    fun l => (l.extractLsb' 0 28).toInt

/-- BRM: each thread's own choice at lane scope, t0's choice for every live member at warp scope (R87). -/
def execBrm (sc : Scope) (lits : List Word) (s : State) : Out :=
  onIssue s fun i => s.eachMember i sc lits.length fun s t =>
    let chooser := if sc = .lane then t else i.group.headD t
    match s.brmChoice chooser lits with
    | some off => s.transfer t (i.target off)
    | none => ran s

/-- Threads held inside a word: it stays at the clause's header with the word as its stop point. -/
def Thread.holdAt (th : Thread) (i : Issue) (lits : Nat) : Thread :=
  { th with stop := some (i.here lits), npc := some i.hdr }

/-- The index of a BRX: the one that an interrupted run of it has popped, else its source (R88). -/
def State.brxIndex (s : State) (i : Issue) (t b : Nat) : Except MemFault Word × State :=
  match (s.thr t).popped with
  | some x => (.ok x, s)
  | none => s.source i t b

/-- BRX for one thread: the entry's read starts and holds it, or it falls through; a fault leaves its queue as it was
(R65, R88). -/
def State.brxOne (s : State) (i : Issue) (d a b : Nat) (t : Nat) : Ran :=
  match s.brxIndex i t b with
  | (.error e, _) => ranBad s e
  | (.ok idx, s') =>
    if (s.reg t d).toNat ≤ idx.toNat then ran (s'.modThr t fun th => { th with popped := none })
    else
      let e : Dword := s.pairReg t a + d64 (8 * idx.toNat)
      if e.toNat % 8 ≠ 0 then ranBad s' { plainFault clsAlign with va := e }
      else match s'.translate t e 8 .read false with
        | (.error f, s'') => ranBad s'' f
        | (.ok _, s'') => ran (s''.modThr t fun th => { (th.holdAt i 0) with
            brx := some { va := e, region := s''.regionObj t e.toNat }, popped := if b < 124 then none else some idx })

def execBrx (sc : Scope) (d a b : BitVec 7) (p : BitVec 3) (s : State) : Out :=
  onIssue s fun i => s.eachOr i sc p.toNat 0 fun s t => s.brxOne i d.toNat a.toNat b.toNat t

/-! ## The call stack (R16-R18, R90-R92) -/

/-- A spill record's 16 bytes (R17). -/
def spillBytes (e : RetEnt) : List Byte := bytesOfNat 8 e.addr.toNat ++ bytesOfWord e.depth ++ zeros 4

/-- A spill's store: performed now, or behind the accesses of its thread that wait (R13, R16) (DEDUCED, log entry 116). -/
def State.spillStore (s : State) (i : Issue) (t : Nat) (va : Dword) (pa mt : Nat) (bs : List Byte) : State :=
  if (s.waitsOf t).isEmpty then s.writePhys t (pathVia pathLane mt) (s.regionObj t va.toNat) pa bs
  else
    let a : Access := { (s.mkAccess i .lane t false (.store va bs)) with }
    { s.modThr t fun th => { th with deferred := th.deferred ++ [a] } with nextOp := s.nextOp + 1 }

/-- The oldest of four on-chip entries spilled to the stack area (R16, R18). A handler's stack never
spills: its fifth push is a fault (R345). A task's spill stays above its undo records (R360) (DEDUCED, log entry 59). -/
def State.spill (s : State) (i : Issue) (t : Nat) : Ran :=
  let th := s.thr t
  match th.ret with
  | [_, _, _, e] =>
    if isHandler t then ranBad s (plainFault clsBudget)
    else
      let sp := th.sp - 16
      let va : Dword := sp.setWidth 64
      if sp.toNat % 16 ≠ 0 then ranBad s { plainFault clsAlign with va := va }
      else if (th.task.any fun k => sp.toNat < k.undoTop.toNat) then ranBad s (plainFault clsSpecOverflow)
      else match s.translate t va 16 .write true with
        | (.error f, s) => ranBad s f
        | (.ok (pa, mt), s) =>
          ran ((s.spillStore i t va pa mt (spillBytes e)).modThr t fun th => { th with sp := sp, ret := th.ret.take 3, spilled := th.spilled + 1 })
  | _ => ran s

/-- A push of the next clause's address (R16). -/
def State.push (s : State) (i : Issue) (t : Nat) : Ran :=
  match s.spill i t with
  | (s', some f) => (s', some f)
  | (s', none) => ran (s'.modThr t fun th =>
      { th with ret := { addr := BitVec.ofNat 48 i.nextH, depth := th.depth + 1 } :: th.ret
                depth := th.depth + 1 })

/-- A call of one thread: a target that fails leaves everything as before (R18, R90), and is found before a fault of the
spill (DESIGN CHOICE, log entry 131). -/
def State.callTo (s : State) (i : Issue) (t : Nat) (target : Dword) : Ran :=
  if s.badTarget t target then (s, some (plainFault clsIllegalClause, target))
  else match s.push i t with
    | (s', some f) => (s', some f)
    | (s', none) => s'.transfer t target

/-- DEDUCED, log entry 32. -/
def execCall (sc : Scope) (off : BitVec 24) (s : State) : Out :=
  onIssue s fun i => s.eachMember i sc 0 fun s t => s.callTo i t (i.target off.toInt)

/-- Whether a word is a function word, and its budget (R89). -/
def functionBudget (w : Word) : Option Nat :=
  let b := w.toNat % 128
  if bitsOf w.toNat 31 28 = 5 && bitsOf w.toNat 27 7 = 0 && 8 ≤ b && b ≤ 96 && b % 8 = 0 then some b else none

/-- CALL.I for one thread (R91). -/
def State.callIOne (s : State) (i : Issue) (a : Nat) (t : Nat) : Ran :=
  let target := s.pairReg t a
  if target.toNat ≥ 2 ^ 48 || target.toNat % 4 ≠ 0 then (s, some (plainFault clsIllegalClause, target))
  else match s.fetch t (target - 4).toNat with
    | (.error f, s) => ranBad s f
    | (.ok w, s) =>
      match functionBudget w with
      | none => (s, some (plainFault clsIllegalClause, target))
      | some b =>
        if (s.warp (warpKeyOf t)).quota < b then ranBad s (plainFault clsBudget) else s.callTo i t target

def execCallI (sc : Scope) (a : BitVec 7) (p : BitVec 3) (s : State) : Out :=
  onIssue s fun i => s.eachOr i sc p.toNat 0 fun s t => s.callIOne i a.toNat t

/-- EXIT of one thread: a task's commits first, or waits for its commit (R93, R367). -/
def State.leave (s : State) (t : Nat) : Ran :=
  match (s.thr t).task with
  | none => ran (s.exitThread t)
  | some k =>
    match s.exitTask t k with
    | (some f, s) => ranBad s f
    | (none, s) => ran s

/-- RET at depth 0: the end of an inverse routine, or EXIT (R92, R366). -/
def State.retBottom (s : State) (t : Nat) : Ran :=
  if (s.thr t).task.any fun k => k.phase = .inverse then ran ((s.leaveIssues [t]).inverseDone t) else s.leave t

/-- RET for one thread: the newest on-chip entry, a refill that holds it, or EXIT at depth 0 (R16, R92,
R164). -/
def State.retOne (s : State) (i : Issue) (t : Nat) : Ran :=
  let th := s.thr t
  if th.depth = 0 then s.retBottom t
  else match th.ret with
    | e :: r =>
      let target : Dword := e.addr.setWidth 64
      if s.badTarget t target then (s, some (plainFault clsIllegalClause, target))
      else (s.modThr t fun th => { th with ret := r, depth := th.depth - 1 }).transfer t target
    | [] =>
      let va : Dword := th.sp.setWidth 64
      if th.sp.toNat % 16 ≠ 0 then ranBad s { plainFault clsAlign with va := va }
      else match s.translate t va 16 .read true with
        | (.error f, s) => ranBad s f
        | (.ok _, s) => ran (s.modThr t fun th => { (th.holdAt i 0) with
            refill := some { va := va, region := s.regionObj t va.toNat } })

/-- After threads may have exited: launches that have finished finish (R143). -/
def State.settle (s : State) (t : Nat) : State :=
  if isAgent t then s else s.finishLaunch (s.block (coreOf t)).launch

/-- DEDUCED, log entry 32. -/
def execRet (sc : Scope) (p : BitVec 3) (s : State) : Out :=
  onIssue s fun i => (s.eachOr i sc p.toNat 0 fun s t => s.retOne i t).settle (i.group.headD 0)

def execExit (sc : Scope) (p : BitVec 3) (s : State) : Out :=
  onIssue s fun i => (s.eachOr i sc p.toNat 0 fun s t => s.leave t).settle (i.group.headD 0)

/-! ## The arrivals of held reads (R88, R164) -/

/-- A thread freed from a held word, going on at a target, or stopped there with a fault. -/
def State.landHeld (s : State) (t : Nat) (target : Dword) (done : Thread → Thread) : State :=
  let th := s.thr t
  let at_ : FaultAt :=
    { hdr := th.pc, word := (match th.stop with | some p => p.word + 1 | none => 0), scope := .lane
      swcode := 0, detail := target }
  if s.badTarget t target then
    (s.modThr t fun th => { th with brx := none, refill := none }).raise [t] at_ (plainFault clsIllegalClause) th.stop
  else (·.joinTests [t]) <| s.modThr t fun th => { (done th) with
    pc := target.setWidth 48, stop := none, brx := none, refill := none, popped := none, again := false }

/-- Whether the read that holds a thread may arrive: its launch is there, and the stores that the thread has placed before
it have left (R13, R349). -/
def State.mayArrive (s : State) (t : Nat) : Bool :=
  (s.thr t).live && !(s.thr t).susp && !s.away t && !(s.waitsOf t).any fun a => a.acc.writes

/-- The read of a held word is translated again when it arrives; a fault parks the thread at the word (R88, R182). Its
address and its region are those of its issue (R191, R349). -/
def State.heldRead (s : State) (t : Nat) (h : HeldRead) (n : Nat) (k : State → List Byte → State) : State :=
  let th := s.thr t
  let at_ : FaultAt :=
    { hdr := th.pc, word := (match th.stop with | some p => p.word + 1 | none => 0), scope := .lane
      swcode := 0, detail := 0 }
  match s.translate t h.va n .read (n = 16) with
  | (.error f, s) =>
    (s.modThr t fun th => { th with brx := none, refill := none }).raise [t] at_ f
      (th.stop.map fun q => { q with parks := f.parks })
  | (.ok (pa, _), s) =>
    let s := s.readsBefore s.nextOp t pa n
    let r := s.readPhys t pathLane h.region pa n s.serial
    k r.2 r.1

/-- REFILL_ARRIVAL: the record at sr.sp, as it stood at the issue, arrives; sr.sp stands 16 above it and the thread
returns (R16, R164, R349). -/
def execRefillArrival (t : Nat) (s : State) : Out :=
  .next <|
    match (s.thr t).refill with
    | some h =>
      if s.mayArrive t then
        s.heldRead t h 16 fun s bs =>
          s.landHeld t (d64 (natOfBytes (bs.take 8))) fun th =>
            { th with sp := h.va.setWidth 48 + 16, spilled := th.spilled - 1, depth := th.depth - 1 }
      else s
    | none => s

/-- BRX_ENTRY_ARRIVAL: the table entry arrives and the thread transfers to it (R88). -/
def execBrxEntryArrival (t : Nat) (s : State) : Out :=
  .next <|
    match (s.thr t).brx with
    | some h => if s.mayArrive t then s.heldRead t h 8 fun s bs => s.landHeld t (d64 (natOfBytes bs)) id else s
    | none => s

/-! ## Special registers and features (R19, R20, R94, R95) -/

/-- The rank of a thread in the current issue (R19). -/
def State.srSlot (i : Issue) (sc : Scope) (t : Nat) : Nat :=
  let l := match sc with
    | .lane => i.all
    | _ => i.all.filter fun m => warpKeyOf m = warpKeyOf t
  l.findIdx fun m => m = t

/-- The value of a special register in a thread (R19); the clock is read by `srClock`. The agent reads the fields of
the block resident on its core, 0 where there is none, and as sr.vdev the VDEV of sys.sel (DESIGN CHOICE, log entry
122). -/
def State.special (s : State) (i : Issue) (sc : Scope) (t n : Nat) : Word :=
  let c := coreOf t
  let b := s.block c
  let wp := s.warp (warpKeyOf t)
  match n with
  | 0 => w32n (32 * wp.no + laneOf t)
  | 1 => w32n (laneOf t)
  | 2 => w32n wp.no
  | 3 => match s.setOf (warpKeyOf t) with | some k => w32n k | none => 0xFFFFFFFF
  | 4 => w32n b.rank
  | 5 => w32n b.cluster
  | 6 => w32n b.die
  | 7 => loW b.workid
  | 8 => hiW b.workid
  | 9 => w32n (s.tagOf t).1
  | 10 => (s.thr t).spawnid
  | 11 => (s.thr t).sp.setWidth 32
  | 12 => w32n ((s.thr t).sp.toNat / 2 ^ 32)
  | 13 => w32n c
  | _ => w32n (State.srSlot i sc t)

/-- A read of the core's cycle count; cycles pass before it (R20, R448) (DESIGN CHOICE, log entry 14). -/
def State.srClock (s : State) (t : Nat) : Word × State :=
  let c := coreOf t
  let n := (s.core c).clock + Config.ticks s.free
  (w32n n, { s.modCore c fun k => { k with clock := n } with free := s.free + 1 })

/-- S2R for one thread; a number of 16 or above raises ILLEGAL_OP as it executes (R94). -/
def State.s2rOne (s : State) (i : Issue) (sc : Scope) (d n : Nat) (t : Nat) : Ran :=
  if 16 ≤ n then ranBad s (plainFault clsIllegalOp)
  else if n = 15 then
    let r := s.srClock t
    ran (r.2.setReg t (s.destWarps i sc t) d r.1)
  else ran (s.setReg t (s.destWarps i sc t) d (s.special i sc t n))

/-- DEDUCED, log entry 28. -/
def execS2r (sc : Scope) (d : BitVec 7) (n : BitVec 10) (s : State) : Out :=
  onIssue s fun i => s.eachOr i sc 0 0 fun s t => s.s2rOne i sc d.toNat n.toNat t

/-- FEATQ: a word of the virtual device's profile; words past the list read 0 (R95). -/
def execFeatq (sc : Scope) (d : BitVec 7) (n : BitVec 10) (s : State) : Out :=
  onIssue s fun i => s.eachOr i sc 0 0 fun s t =>
    ran (s.setReg t (s.destWarps i sc t) d.toNat ((s.vdev (s.tagOf t).1).profile.getD n.toNat 0))

/-- TRAP: the class TRAP for every thread of the group, whose stop point is Next(H) (R96, R342) (DEDUCED, log
entry 31; DEDUCED, log entry 108). -/
def execTrap (sc : Scope) (code : BitVec 10) (s : State) : Out :=
  onIssue s fun i =>
    let s1 := s.modThrs i.group fun th => { th with pc := BitVec.ofNat 48 i.nextH, trapped := true }
    s1.raise i.group { i.faultAt with scope := sc, swcode := code.toNat } (plainFault clsTrap) none

end Sys2Proof.Machine
end

