-- ==== Sys2Proof/Machine/MemInstr.lean ====
section
/-! DEFINITION. The MEM class (R82-R84, R215-R237). -/

namespace Sys2Proof.Machine

/-- An ALIGN fault. -/
def alignFault (va : Dword) : MemFault := { plainFault clsAlign with va := va }

/-! ## Global loads and stores (R82, R83) -/

/-- A load's address; ALIGN where it is not a multiple of the size. -/
def prepLoad (size : Nat) (sgn : Bool) (d a off : BitVec 7) (s : State) (_ : Issue) (t : Nat) : Prepared × State :=
  let ea := globalEA (s.pairReg t a.toNat) off size
  if ea.toNat % size ≠ 0 then (.error (alignFault ea), s) else (.ok (.load ea size sgn d.toNat), s)

/-- The bytes that a store of `size` bytes takes from its data register. -/
def State.storeData (s : State) (t d size : Nat) : List Byte :=
  ((s.regRun t d ((size + 3) / 4)).flatMap bytesOfWord).take size

/-- A store's address and data, read at issue. -/
def prepStore (size : Nat) (d a off : BitVec 7) (s : State) (_ : Issue) (t : Nat) : Prepared × State :=
  let ea := globalEA (s.pairReg t a.toNat) off size
  if ea.toNat % size ≠ 0 then (.error (alignFault ea), s)
  else (.ok (.store ea (s.storeData t d.toNat size)), s)

def execLdUi8 (sc : Scope) (d a off : BitVec 7) (p : BitVec 3) (s : State) : Out :=
  memWord sc p.toNat true (prepLoad 1 false d a off) s
def execLdI8 (sc : Scope) (d a off : BitVec 7) (p : BitVec 3) (s : State) : Out :=
  memWord sc p.toNat true (prepLoad 1 true d a off) s
def execLdUi16 (sc : Scope) (d a off : BitVec 7) (p : BitVec 3) (s : State) : Out :=
  memWord sc p.toNat true (prepLoad 2 false d a off) s
def execLdI16 (sc : Scope) (d a off : BitVec 7) (p : BitVec 3) (s : State) : Out :=
  memWord sc p.toNat true (prepLoad 2 true d a off) s
def execLd32 (sc : Scope) (d a off : BitVec 7) (p : BitVec 3) (s : State) : Out :=
  memWord sc p.toNat true (prepLoad 4 false d a off) s
def execLd64 (sc : Scope) (d a off : BitVec 7) (p : BitVec 3) (s : State) : Out :=
  memWord sc p.toNat true (prepLoad 8 false d a off) s
def execLd128 (sc : Scope) (d a off : BitVec 7) (p : BitVec 3) (s : State) : Out :=
  memWord sc p.toNat true (prepLoad 16 false d a off) s
def execSt8 (sc : Scope) (d a off : BitVec 7) (p : BitVec 3) (s : State) : Out :=
  memWord sc p.toNat false (prepStore 1 d a off) s
def execSt16 (sc : Scope) (d a off : BitVec 7) (p : BitVec 3) (s : State) : Out :=
  memWord sc p.toNat false (prepStore 2 d a off) s
def execSt32 (sc : Scope) (d a off : BitVec 7) (p : BitVec 3) (s : State) : Out :=
  memWord sc p.toNat false (prepStore 4 d a off) s
def execSt64 (sc : Scope) (d a off : BitVec 7) (p : BitVec 3) (s : State) : Out :=
  memWord sc p.toNat false (prepStore 8 d a off) s
def execSt128 (sc : Scope) (d a off : BitVec 7) (p : BitVec 3) (s : State) : Out :=
  memWord sc p.toNat false (prepStore 16 d a off) s

/-! ## Scratchpad and constant accesses (R218, R219) -/

/-- Bytes of a block's scratchpad (R166). -/
def State.scratchSize (s : State) (t : Nat) : Nat := 16384 * (s.block (coreOf t)).scr

/-- A local address: ALIGN, then RANGE against the limit (R219). -/
def localAddr (s : State) (i : Issue) (t : Nat) (a off : BitVec 7) (size limit : Nat) :
    Except MemFault Nat × State :=
  match s.source i t a.toNat with
  | (.error f, s') => (.error f, s')
  | (.ok x, s') =>
    let ea := localEA x off size
    if ea % size ≠ 0 then (.error (plainFault clsAlign), s')
    else if limit < ea + size then (.error rangeFault, s')
    else (.ok ea, s')

def prepLds (size : Nat) (d a off : BitVec 7) (s : State) (i : Issue) (t : Nat) : Prepared × State :=
  match localAddr s i t a off size (s.scratchSize t) with
  | (.error f, s') => (.error f, s')
  | (.ok ea, s') =>
    if s'.poisoned (scratchAddr (coreOf t) ea) size then (.error localPoison, s')
    else (.ok (.lds ea size d.toNat), s')

def prepSts (size : Nat) (d a off : BitVec 7) (s : State) (i : Issue) (t : Nat) : Prepared × State :=
  match localAddr s i t a off size (s.scratchSize t) with
  | (.error f, s') => (.error f, s')
  | (.ok ea, s') => (.ok (.sts ea (s.storeData t d.toNat size)), s')

def prepLdc (d a off : BitVec 7) (s : State) (i : Issue) (t : Nat) : Prepared × State :=
  match localAddr s i t a off 4 4096 with
  | (.error f, s') => (.error f, s')
  | (.ok ea, s') =>
    if s'.poisoned (constAddr (coreOf t) ea) 4 then (.error localPoison, s') else (.ok (.ldc ea d.toNat), s')

def execLds32 (sc : Scope) (d a off : BitVec 7) (p : BitVec 3) (s : State) : Out :=
  memWord sc p.toNat true (prepLds 4 d a off) s
def execLds64 (sc : Scope) (d a off : BitVec 7) (p : BitVec 3) (s : State) : Out :=
  memWord sc p.toNat true (prepLds 8 d a off) s
def execLds128 (sc : Scope) (d a off : BitVec 7) (p : BitVec 3) (s : State) : Out :=
  memWord sc p.toNat true (prepLds 16 d a off) s
def execSts32 (sc : Scope) (d a off : BitVec 7) (p : BitVec 3) (s : State) : Out :=
  memWord sc p.toNat false (prepSts 4 d a off) s
def execSts64 (sc : Scope) (d a off : BitVec 7) (p : BitVec 3) (s : State) : Out :=
  memWord sc p.toNat false (prepSts 8 d a off) s
def execSts128 (sc : Scope) (d a off : BitVec 7) (p : BitVec 3) (s : State) : Out :=
  memWord sc p.toNat false (prepSts 16 d a off) s
def execLdc32 (sc : Scope) (d a off : BitVec 7) (p : BitVec 3) (s : State) : Out :=
  memWord sc p.toNat true (prepLdc d a off) s

/-! ## Atomics and reductions (R220-R223) -/

/-- An atomic's address and operand. -/
def prepAtom (f : AtomOp) (d a b : BitVec 7) (s : State) (i : Issue) (t : Nat) : Prepared × State :=
  match s.source i t b.toNat with
  | (.error e, s') => (.error e, s')
  | (.ok x, s') =>
    let ea := s.pairReg t a.toNat
    if ea.toNat % 4 ≠ 0 then (.error (alignFault ea), s') else (.ok (.atom ea f x 0 d.toNat), s')

/-- ATOM.CAS: B holds the expected value, B+1 the new one. -/
def prepCas (d a b : BitVec 7) (s : State) (_ : Issue) (t : Nat) : Prepared × State :=
  let ea := s.pairReg t a.toNat
  let v := s.pairReg t b.toNat
  if ea.toNat % 4 ≠ 0 then (.error (alignFault ea), s) else (.ok (.atom ea .cas (loW v) (hiW v) d.toNat), s)

def prepRed (f : AtomOp) (a b : BitVec 7) (s : State) (i : Issue) (t : Nat) : Prepared × State :=
  match s.source i t b.toNat with
  | (.error e, s') => (.error e, s')
  | (.ok x, s') =>
    let ea := s.pairReg t a.toNat
    if ea.toNat % 4 ≠ 0 then (.error (alignFault ea), s') else (.ok (.red ea f x), s')

def execAtomAdd (sc : Scope) (d a b : BitVec 7) (p : BitVec 3) (s : State) : Out :=
  memWord sc p.toNat true (prepAtom .add d a b) s
def execAtomMin (sc : Scope) (d a b : BitVec 7) (p : BitVec 3) (s : State) : Out :=
  memWord sc p.toNat true (prepAtom .min d a b) s
def execAtomMax (sc : Scope) (d a b : BitVec 7) (p : BitVec 3) (s : State) : Out :=
  memWord sc p.toNat true (prepAtom .max d a b) s
def execAtomMinUi (sc : Scope) (d a b : BitVec 7) (p : BitVec 3) (s : State) : Out :=
  memWord sc p.toNat true (prepAtom .minUi d a b) s
def execAtomMaxUi (sc : Scope) (d a b : BitVec 7) (p : BitVec 3) (s : State) : Out :=
  memWord sc p.toNat true (prepAtom .maxUi d a b) s
def execAtomAnd (sc : Scope) (d a b : BitVec 7) (p : BitVec 3) (s : State) : Out :=
  memWord sc p.toNat true (prepAtom .and d a b) s
def execAtomOr (sc : Scope) (d a b : BitVec 7) (p : BitVec 3) (s : State) : Out :=
  memWord sc p.toNat true (prepAtom .or d a b) s
def execAtomXor (sc : Scope) (d a b : BitVec 7) (p : BitVec 3) (s : State) : Out :=
  memWord sc p.toNat true (prepAtom .xor d a b) s
def execAtomExch (sc : Scope) (d a b : BitVec 7) (p : BitVec 3) (s : State) : Out :=
  memWord sc p.toNat true (prepAtom .exch d a b) s
def execAtomCas (sc : Scope) (d a b : BitVec 7) (p : BitVec 3) (s : State) : Out :=
  memWord sc p.toNat true (prepCas d a b) s
def execAtomInc (sc : Scope) (d a b : BitVec 7) (p : BitVec 3) (s : State) : Out :=
  memWord sc p.toNat true (prepAtom .inc d a b) s
def execAtomFadd (sc : Scope) (d a b : BitVec 7) (p : BitVec 3) (s : State) : Out :=
  memWord sc p.toNat true (prepAtom .fadd d a b) s
def execRedAdd (sc : Scope) (a b : BitVec 7) (p : BitVec 3) (s : State) : Out :=
  memWord sc p.toNat true (prepRed .add a b) s
def execRedMin (sc : Scope) (a b : BitVec 7) (p : BitVec 3) (s : State) : Out :=
  memWord sc p.toNat true (prepRed .min a b) s
def execRedMax (sc : Scope) (a b : BitVec 7) (p : BitVec 3) (s : State) : Out :=
  memWord sc p.toNat true (prepRed .max a b) s
def execRedAnd (sc : Scope) (a b : BitVec 7) (p : BitVec 3) (s : State) : Out :=
  memWord sc p.toNat true (prepRed .and a b) s
def execRedOr (sc : Scope) (a b : BitVec 7) (p : BitVec 3) (s : State) : Out :=
  memWord sc p.toNat true (prepRed .or a b) s
def execRedXor (sc : Scope) (a b : BitVec 7) (p : BitVec 3) (s : State) : Out :=
  memWord sc p.toNat true (prepRed .xor a b) s
def execRedFadd (sc : Scope) (a b : BitVec 7) (p : BitVec 3) (s : State) : Out :=
  memWord sc p.toNat true (prepRed .fadd a b) s

/-! ## Regions (R224, R225) -/

/-- Whether two regions share a byte. -/
def Region.overlaps (r q : Region) : Bool := r.base < q.base + q.size && q.base < r.base + r.size

/-- Whether a region's numbers keep the rules of R192 and R224. -/
def Region.ok (r : Region) : Bool :=
  r.base % 64 = 0 && r.size % 64 = 0 && r.size ≠ 0 && r.base + r.size ≤ 2 ^ 48

/-- BIND: the region in five uniform registers joins the block's list, or BUDGET (R224). -/
def execBind (sc : Scope) (a : BitVec 7) (p : BitVec 3) (s : State) : Out :=
  onIssue s fun i => s.eachOr i sc p.toNat 0 fun s t =>
    let n := a.toNat
    let r : Region := { base := (s.pairReg t n).toNat, size := (s.pairReg t (n + 2)).toNat, obj := s.reg t (n + 4) }
    let b := s.block (coreOf t)
    if r.ok && (s.objOf t r.obj).isSome && !(b.regions.any fun q => r.overlaps q) && b.regions.length < 64 then
      ran (s.setBlock (coreOf t) { b with regions := b.regions ++ [r] })
    else ranBad s (plainFault clsBudget)

/-- UNBIND: the region that starts at the pair leaves the list (R225). -/
def execUnbind (sc : Scope) (a : BitVec 7) (p : BitVec 3) (s : State) : Out :=
  onIssue s fun i => s.eachOr i sc p.toNat 0 fun s t =>
    ran (s.modBlock (coreOf t) fun b =>
      { b with regions := b.regions.filter fun r => r.base ≠ (s.pairReg t a.toNat).toNat })

/-! ## Release and acquire, gates (R226-R230) -/

/-- An access to the object whose word A holds; RANGE where the word is invalid or its kind is not one
the entry accepts (R215). -/
def prepObj (accept : Nat → Bool) (a : BitVec 7) (mk : Nat → Word → Acc) (s : State) (i : Issue) (t : Nat) :
    Prepared × State :=
  match s.source i t a.toNat with
  | (.error e, s') => (.error e, s')
  | (.ok w, s') =>
    match s'.objOf t w with
    | some k => if accept (keyKind k) then (.ok (mk t w), s') else (.error rangeFault, s')
    | none => (.error rangeFault, s')

/-- The owner code of a gate request at a scope (R228). -/
def State.who (s : State) (sc : Scope) (t : Nat) : Nat :=
  ownerCode (if isAgent t then noLaunch else (s.block (coreOf t)).launch) t sc

def execAcq (sc : Scope) (a : BitVec 7) (m : BitVec 6) (s : State) : Out :=
  memWord sc 0 true (prepObj (fun _ => true) a fun _ w => .acq w m.toNat) s
def execRel (sc : Scope) (a : BitVec 7) (m : BitVec 6) (s : State) : Out :=
  memWord sc 0 false (prepObj (fun _ => true) a fun _ w => .rel w m.toNat) s
def execGateAcq (sc : Scope) (a : BitVec 7) (s : State) : Out :=
  memWord sc 0 true (prepObj (fun k => k = 4 || k = 5) a fun t w => .gateAcq w (s.who sc t)) s
def execGateTry (sc : Scope) (pd : BitVec 3) (a : BitVec 7) (p : BitVec 3) (s : State) : Out :=
  memWord sc p.toNat true (prepObj (fun k => k = 4 || k = 5) a fun t w => .gateTry w (s.who sc t) pd.toNat) s
def execGateRel (sc : Scope) (a : BitVec 7) (s : State) : Out :=
  memWord sc 0 false (prepObj (fun k => k = 4 || k = 5) a fun t w => .gateRel w (s.who sc t)) s

/-! ## Signal words (R231-R233) -/

/-- The index in bits [18:0] of A; RANGE at or above the grant (R231). -/
def sigOperand (s : State) (i : Issue) (t : Nat) (a : BitVec 7) : Except MemFault (Nat × Word) × State :=
  match s.source i t a.toNat with
  | (.error e, s') => (.error e, s')
  | (.ok w, s') =>
    let idx := bitsOf w.toNat 18 0
    if idx < (s.grant (s.tagOf t).1).2 then (.ok (idx, w), s') else (.error rangeFault, s')

def prepSig (a : BitVec 7) (mk : State → Nat → Nat → Word → Acc) (s : State) (i : Issue) (t : Nat) :
    Prepared × State :=
  match sigOperand s i t a with
  | (.error e, s') => (.error e, s')
  | (.ok (idx, w), s') => (.ok (mk s' t idx w), s')

/-- DESIGN CHOICE, log entry 53. -/
def execSigLd (sc : Scope) (d a : BitVec 7) (p : BitVec 3) (s : State) : Out :=
  memWord sc p.toNat true (prepSig a fun _ _ idx _ => .sigLd idx d.toNat) s
def execSigSt (sc : Scope) (d a : BitVec 7) (p : BitVec 3) (s : State) : Out :=
  memWord sc p.toNat false (prepSig a fun s t idx _ => .sigSt idx (s.pairReg t d.toNat)) s
def execSigAdd (sc : Scope) (d a b : BitVec 7) (p : BitVec 3) (s : State) : Out :=
  memWord sc p.toNat true (prepSig a fun s t idx _ => .sigAdd idx (s.pairReg t b.toNat) d.toNat) s
def execSigCas (sc : Scope) (d a b : BitVec 7) (p : BitVec 3) (s : State) : Out :=
  memWord sc p.toNat true (prepSig a fun s t idx _ =>
    .sigCas idx (s.pairReg t b.toNat) (s.pairReg t (b.toNat + 2)) d.toNat) s
/-- SIG.WAIT's condition stands in bits [30:29] of A (R231). -/
def execSigWait (sc : Scope) (d a b : BitVec 7) (p : BitVec 3) (s : State) : Out :=
  memWord sc p.toNat true (prepSig a fun s t idx w =>
    .sigWait idx (bitsOf w.toNat 30 29) (s.pairReg t b.toNat) d.toNat) s

/-! ## Fences and cache maintenance (R234-R237) -/

def execFence (sc : Scope) (f : BitVec 1) (s : State) : Out :=
  memWord sc 0 true (fun s _ _ => (.ok (.fence (f == 1)), s)) s
def execXfence (sc : Scope) (x y : BitVec 6) (s : State) : Out :=
  memWord sc 0 true (fun s _ _ => (.ok (.xfence y.toNat x.toNat), s)) s

/-- The range of CFLUSH and CINV: bytes at or above 2^48 are NONCANON (R236). -/
def prepMaint (inv : Bool) (a b : BitVec 7) (s : State) (i : Issue) (t : Nat) : Prepared × State :=
  match s.source i t b.toNat with
  | (.error e, s') => (.error e, s')
  | (.ok n, s') =>
    let va := s.pairReg t a.toNat
    if n.toNat ≠ 0 && 2 ^ 48 < va.toNat + n.toNat then
      (.error { causeFault clsAccess causeNoncanon with stage := 1, va := va }, s')
    else (.ok (.cmaint inv va n.toNat), s')

def execCflush (sc : Scope) (a b : BitVec 7) (p : BitVec 3) (s : State) : Out :=
  memWord sc p.toNat true (prepMaint false a b) s
def execCinv (sc : Scope) (a b : BitVec 7) (p : BitVec 3) (s : State) : Out :=
  memWord sc p.toNat true (prepMaint true a b) s

/-- PREFETCH changes no result and raises no fault (R237). -/
def execPrefetch (_ : Scope) (_ _ : BitVec 7) (_ : BitVec 3) (s : State) : Out :=
  onIssue s fun _ => s

end Sys2Proof.Machine
end

