-- ==== Sys2Proof/Machine/Spawn.lean ====
section
/-! DEFINITION. Spawn bins (R122-R124): entry, overflow, timers and the launch of a bin's warp. -/

namespace Sys2Proof.Machine

/-- A bin marked ready to launch, in the order of readiness (R123). -/
def Block.markReady (b : Block) (key : Nat) (f : Bin → Bool) : Block :=
  { b with
    bins := b.bins.map fun x => if x.key = key && f x && x.ready.isNone then { x with ready := some b.binOrder } else x
    binOrder := b.binOrder + 1 }

/-- A spawn enters a bin: a matching one, or a free one; `none` where no bin is free (R122). -/
def Block.enterBin (b : Block) (now : Nat) (x : Spawned) : Option Block :=
  let key := x.req.entry.toNat
  if b.bins.any fun n => n.key = key && n.members.length < 32 then
    let add : List Bin → List Bin := fun l =>
      match l.findIdx? fun n => n.key = key && n.members.length < 32 with
      | some k => l.modify k fun n => { n with members := n.members ++ [x] }
      | none => l
    some ({ b with bins := add b.bins }.markReady key fun n => n.members.length = 32)
  else if b.bins.length < 16 then
    some { b with bins := b.bins ++ [{ key := key, members := [x], ready := none, born := now }] }
  else none

/-- The oldest non-full bin becomes ready to launch, where it is not ready already (R122). -/
def Block.readyOldest (b : Block) : Block :=
  match b.bins.find? fun n => n.members.length < 32 with
  | some n => b.markReady n.key fun x => x.members.length < 32 && x.born = n.born
  | none => b

/-- The overflow entries that the block's launch record gives (R131). -/
def State.ovflSize (s : State) (c : Nat) : Nat :=
  match s.launch? (s.block c).launch with
  | some l => l.record.ovflN
  | none => 0

/-- A spawn into a core's bins, or the overflow area, and whether it has entered: it has not where the area is full.
With no free bin the oldest non-full one becomes ready in either case (R122) (DESIGN CHOICE, log entry 40). -/
def State.trySpawn (s : State) (c : Nat) (x : Spawned) : Bool × State :=
  let b := s.block c
  match b.enterBin (s.core c).clock x with
  | some b' => (true, s.setBlock c b')
  | none =>
    let b' := b.readyOldest
    if b.overflow.length < s.ovflSize c then (true, s.setBlock c { b' with overflow := b'.overflow ++ [x] })
    else (false, s.setBlock c b')

/-- Overflow entries enter bins in the order they were written, as bins free (R122) (DESIGN CHOICE, log entry 40). -/
def State.drainOverflow (s : State) (c : Nat) : Nat → State
  | 0 => s
  | fuel + 1 =>
    let b := s.block c
    match b.overflow with
    | [] => s
    | x :: r =>
      match { b with overflow := r }.enterBin (s.core c).clock x with
      | some b' => State.drainOverflow (s.setBlock c b') c fuel
      | none => s

/-- The next spawn identifier of a block: 2^24 × sr.block + s (R124). -/
def State.nextSpawnId (s : State) (c : Nat) : Word :=
  w32n (2 ^ 24 * (s.block c).rank + (s.block c).spawnCount)

/-- Whether stores of a thread issued before a place in the order of issue are held back (R160). -/
def State.holdsWrites (s : State) (t n : Nat) : Bool := (s.waitsOf t).any fun a => a.acc.writes && a.seq < n

/-- SPAWN's work for one thread with a checked entry: the spawn takes its identifier and enters, or the
spawner is held (R122, R160). The thread it starts waits for stores of its spawner that are held back (DEDUCED, log entry
116). -/
def State.spawnFor (s : State) (t : Nat) (entry : BitVec 48) (a b : Word) (task : Option Task) : Ran :=
  let c := coreOf t
  if (s.block c).spawnCount + 1 ≥ 2 ^ 24 then ranBad s (plainFault clsBudget)
  else
    let req : SpawnReq := { entry := entry, a := a, b := b, id := s.nextSpawnId c }
    let x : Spawned :=
      { req := req, task := task, frag := none, seen := s.spawnSeen t
        parent := if s.holdsWrites t s.nextOp then some (t, s.nextOp) else none }
    let r := (s.modBlock c fun k => { k with spawnCount := k.spawnCount + 1 }).trySpawn c x
    ran (if r.1 then r.2 else r.2.modThr t fun th => { th with spawning := th.spawning ++ [x] })

/-- SPAWN for one thread: an entry with nonzero bits [63:48] or [1:0] is ILLEGAL_CLAUSE (R160). -/
def State.spawnOne (s : State) (i : Issue) (d a b : Nat) (t : Nat) : Ran :=
  match s.sources i t [a, b] with
  | (.error e, _) => ranBad s e
  | (.ok xs, s') =>
    let entry := s.pairReg t d
    if entry.toNat ≥ 2 ^ 48 || entry.toNat % 4 ≠ 0 then ranBad s' (plainFault clsIllegalClause)
    else s'.spawnFor t (entry.setWidth 48) (xs.headD 0) (xs.getD 1 0) none

/-- DEDUCED, log entry 112. -/
def execSpawn (sc : Scope) (d a b : BitVec 7) (p : BitVec 3) (s : State) : Out :=
  onIssue s fun i => s.eachOr i sc p.toNat 0 fun s t => s.spawnOne i d.toNat a.toNat b.toNat t

/-- SPAWN_BIN_TIMER: an open bin's timer expires (R122). -/
def execSpawnBinTimer (c n : Nat) (s : State) : Out :=
  .next <|
    if !s.blockRuns c then s else
    match (s.block c).bins[n]? with
    | some x => if x.ready.isNone then s.modBlock c fun b => b.markReady x.key fun y => y.born = x.born && y.ready.isNone
                else s
    | none => s

/-- The first ready bin in the order of readiness. -/
def Block.nextBin (b : Block) : Option Nat :=
  let rs := (List.range b.bins.length).filterMap fun k => ((b.bins[k]?).bind fun x => x.ready).map fun r => (r, k)
  (sortBy Prod.fst rs).head?.map Prod.snd

/-- Whether an access of a thread is one of a warp's: made there, or tied to a flag of one of its threads. -/
def Access.ofWarp (w t : Nat) (a : Access) : Bool := (a.parties t).any fun m => warpKeyOf m = w

/-- Whether a warp is resident: a thread of it is live, or an operation or a waiting access tied to a flag of it is
outstanding (R93). -/
def State.warpResident (s : State) (w : Nat) : Bool :=
  (s.warp w).used && (!(s.liveOf w).isEmpty || (s.ops.any fun e => e.2.acc.ofWarp w e.2.thr)
    || s.threads.any fun e => e.2.deferred.any (Access.ofWarp w e.1))

/-- Registers in use on a partition: the sum of the quotas of its resident warps (R113). -/
def State.quotaUsed (s : State) (c part : Nat) : Nat :=
  (List.range 16).foldl (fun n k =>
    let w := mkWarp c (16 * part + k) 0
    if s.warpResident w && !isAgent (w * 32) then n + (s.warp w).quota else n) 0

/-- A warp slot of a core is free: no resident warp holds it, and it is not the agent's (R1, R303) (DEDUCED,
log entry 71). -/
def State.slotFree (s : State) (c slot : Nat) : Bool := slot ≠ 63 && !s.warpResident (mkWarp c slot 0)

/-- The lowest free warp slot whose partition has capacity for one more warp (R123, R392) (DEDUCED, log entry
71; DESIGN CHOICE, log entry 114). -/
def State.findSlot (s : State) (c : Nat) : Option Nat :=
  let b := s.block c
  (List.range 63).find? fun k => s.slotFree c k && s.quotaUsed c (k / 16) + b.budget ≤ 32 * b.vrf

/-- The stack base and top of a spawned thread (R132). -/
def spawnStack (r : Record) (rank slot lane : Nat) : Nat × Nat :=
  let n := 2048 * rank + 32 * slot + lane
  (r.spstack + n * 16 * r.stackSz, r.spstack + (n + 1) * 16 * r.stackSz)

/-- The thread that a spawn starts (R25, R123): it sees what its spawner wrote, and what placing its launch acquired
(R160, R202). -/
def startSpawned (x : Spawned) (acquired : List Seen) (base top : Nat) : Thread :=
  { Thread.empty with
    live := true, pc := x.req.entry, v := [(0, x.req.a), (1, x.req.b)], sp := BitVec.ofNat 48 top
    base := BitVec.ofNat 48 base, spawnid := x.req.id, frag := x.frag, seen := acquired.foldl addSeen x.seen
    task := x.task.map fun k => { k with undoTop := BitVec.ofNat 48 base } }

/-- The group that armed a graph, without the threads of a warp slot that another warp takes: a number that names no
thread of the core stands for the party that has gone. -/
def Cmd.vacate (w : Nat) (x : Cmd) : Cmd :=
  { x with
    thr := if warpKeyOf x.thr = w then mkThread (coreOf x.thr) 63 1 (laneOf x.thr) else x.thr
    acc := { x.acc with members := x.acc.members.filter fun t => warpKeyOf t ≠ w } }

/-- Whether a spawned thread may start: the stores that its spawner placed before the SPAWN have left (R160). -/
def State.parentLeft (s : State) (x : Spawned) : Bool :=
  match x.parent with
  | some (t, n) => !s.holdsWrites t n
  | none => true

/-- BIN_LAUNCH: the first ready bin launches a warp into a free slot; then overflow entries and held
spawners enter (R122, R123). -/
def State.launchBin (s : State) (c : Nat) : State :=
  let b := s.block c
  match b.nextBin, s.findSlot c, s.launch? b.launch with
  | some k, some slot, some l =>
    match b.bins[k]? with
    | none => s
    | some bin =>
      if !bin.members.all s.parentLeft then s
      else
      let w := mkWarp c slot 0
      let old := s.warp w
      let gone := if old.used && !old.spawned then b.gone.put old.no old else b.gone
      let s := (s.vacateGates w).setWarp w { Warp.empty with
        used := true, no := 64 + b.warpCount, spawned := true, quota := b.budget }
      let s : State := { s with wlog := s.wlog.map (WriteEv.vacate w) }
      let s := (List.range 32).foldl (fun s j =>
        match bin.members[j]? with
        | some x => let st := spawnStack l.record b.rank slot j; s.setThr (w * 32 + j) (startSpawned x l.acquired st.1 st.2)
        | none => { s with threads := s.threads.del (w * 32 + j) }) s
      let s := s.modBlock c fun b => { b with
        bins := b.bins.eraseIdx k, warpCount := b.warpCount + 1, garm := b.garm.map (Cmd.vacate w), gone := gone }
      s.drainOverflow c (b.overflow.length + 1)
  | _, _, _ => s

/-- The held spawns of a core with their spawners, in the order of their identifiers (R160). -/
def State.heldSpawns (s : State) (c : Nat) : List (Nat × Spawned) :=
  sortBy (fun p => p.2.req.id.toNat)
    ((s.threads.filter fun e => coreOf e.1 = c).flatMap fun e => e.2.spawning.map fun x => (e.1, x))

/-- Held spawners' requests enter in the order of their identifiers while there is room for them (R122, R160). -/
def State.retrySpawns (s : State) (c : Nat) : State :=
  (s.heldSpawns c).foldl (fun s p =>
    let r := s.trySpawn c p.2
    if r.1 then r.2.modThr p.1 fun th => { th with spawning := th.spawning.filter fun x => x.req.id ≠ p.2.req.id }
    else r.2) s

/-- The rasteriser's next spawn enters a bin or the overflow area (R307); past the limit of R124 it is not
made, and SPAWNLIM is set. -/
def State.feedTile (s : State) (c : Nat) : Nat → State
  | 0 => s
  | fuel + 1 =>
    let b := s.block c
    match b.tile with
    | none => s
    | some z =>
      match z.pend with
      | [] => s
      | x :: r =>
        let rest (s : State) : State := s.modBlock c fun b => { b with tile := some { z with pend := r } }
        let pass (s : State) (f : Pass → Pass) : State :=
          s.modLaunch b.launch fun l => { l with pass := l.pass.map f }
        if b.spawnCount + 1 ≥ 2 ^ 24 then
          (pass (rest s) fun p => { p with spawnlim := true }).feedTile c fuel
        else
          let x := { x with req := { x.req with id := s.nextSpawnId c } }
          match s.trySpawn c x with
          | (false, s) => s
          | (true, s) =>
            let s := (rest s).modBlock c fun b => { b with spawnCount := b.spawnCount + 1 }
            (pass s fun p => { p with frags := p.frags + 1 }).feedTile c fuel

/-- Every waiting spawn of the rasteriser that finds room. -/
def State.feedAll (s : State) (c : Nat) : State :=
  s.feedTile c ((((s.block c).tile.map fun z => z.pend.length)).getD 0 + 1)

def execBinLaunch (c : Nat) (s : State) : Out :=
  .next (if s.blockRuns c then ((s.launchBin c).retrySpawns c).feedAll c else s)

end Sys2Proof.Machine
end

