-- ==== Sys2Proof/Machine/Engine.lean ====
section
/-! DEFINITION. Engine commands (R239, R268, R275): entry into the queues, reads and writes of the engines,
faults after issue (R445), guards (R251), completion (R196, R252). -/

namespace Sys2Proof.Machine

/-! ## Queues -/

def engTrellis : Nat := 0
def engCopy : Nat := 1
def engFil : Nat := 2
def engGraph : Nat := 3

def State.engq (s : State) (c e : Nat) : List Cmd := (s.block c).engq.get e []

def State.setEngq (s : State) (c e : Nat) (q : List Cmd) : State :=
  s.modBlock c fun b => { b with engq := b.engq.put e q }

/-- A command put back in its place. -/
def State.putCmd (s : State) (c e : Nat) (x : Cmd) : State :=
  s.setEngq c e ((s.engq c e).map fun y => if y.op = x.op then x else y)

/-- A command of the word in progress: its flag is set in every live member, an operation is tied to it,
and it enters its engine's queue (R239, R275). Where an ordering instruction holds the thread's accesses back, the
command keeps its place there and is held (R198, R216) (DEDUCED, log entry 116). -/
def State.enterCmd (s : State) (i : Issue) (sc : Scope) (t e : Nat) (guard : Option Nat) (body : CmdBody) :
    State :=
  let acc := s.mkAccess i sc t true (.engine e)
  let held := !s.mayGo t acc
  let x : Cmd :=
    { body := body, op := s.nextOp, acc := acc, thr := t, guard := guard, progress := 0, started := false
      stopped := false, serial := s.serial, seen := (s.thr t).seen, regions := (s.block (coreOf t)).regions
      wrote := [], held := held }
  let s := (s.setFlags acc).opFor t acc 0 0 none
  let s := s.setEngq (coreOf t) e (s.engq (coreOf t) e ++ [x])
  if held then s.modThr t fun th => { th with deferred := th.deferred ++ [acc] } else s

/-- Whether the engines of a block may work: its launch runs, and no drain holds its device (R253, R386). -/
def State.enginesRun (s : State) (c : Nat) : Bool := s.blockRuns c && !s.drains (s.block c).vdev

/-! ## Completion (R14, R196) -/

/-- Writes of a command that completes join what its members may observe by its flag (R196). -/
def State.addUnobs (s : State) (e : Nat) (x : Cmd) (wrote : List Nat) : State :=
  if wrote.isEmpty then s
  else s.modThrs (x.acc.members.filter fun t => (s.thr t).live) fun th =>
    { th with unobs := th.unobs ++ [(x.acc.flag.getD 15 + 16 * e, wrote)] }

/-- A command leaves its queue and its flag clears (R239, R275). -/
def State.completeCmd (s : State) (c e : Nat) (x : Cmd) : State :=
  let s := s.setEngq c e ((s.engq c e).filter fun y => y.op ≠ x.op)
  let s := s.addUnobs e x x.wrote
  match s.ops.find x.op with
  | some o => s.retire x.op o
  | none => s

/-! ## Faults after issue (R445) -/

/-- A thread suspended at the next clause boundary it reaches: at once where it stands at one. -/
def State.suspendNext (s : State) (t : Nat) : State :=
  if s.inClause t then s.modThr t fun th => { th with suspNext := true }
  else s.modThr t fun th => { th with susp := true, rdv := none }

/-- An engine command's fault: the issuing group is suspended at its next clause boundary; the record names
the command's clause and word. -/
def State.engineFault (s : State) (x : Cmd) (f : MemFault) : State :=
  let ts := x.acc.members.filter fun t => (s.thr t).live
  (ts.foldl State.suspendNext s).record ts x.acc.faultAt f

/-- A command that met a fault: on a translation cause it stops where it is, on any other it ends and its
flag clears. -/
def State.stopCmd (s : State) (c e : Nat) (x : Cmd) (f : MemFault) : State :=
  if f.parks then (s.putCmd c e { x with stopped := true }).engineFault x f
  else (s.completeCmd c e x).engineFault x f

/-! ## Reads and writes of an engine -/

/-- The region object of a global address in the list a command took at issue (R191). -/
def State.cmdObj (s : State) (x : Cmd) (va : Nat) : Nat := s.objAt x.thr x.regions va

/-- Whether a write is visible on a path to a party that saw these writes (R197, R198). -/
def seenOn (seen : List Seen) (q reg : Nat) (e : WriteEv) : Bool :=
  seen.any fun z => z.serial = e.serial && bitOf z.paths q
    && (z.via = viaOwn || z.via = viaAny || boundTo reg z.via)

/-- One single-copy read of at most 8 bytes by an engine for its party: what the party saw at issue, or a later write,
and none earlier than one the party has read (R197, R199, R242) (DESIGN CHOICE, log entry 11). -/
def State.snapUnit (s : State) (x : Cmd) (q reg a n : Nat) : List Byte × State :=
  if s.wlog.all fun e => !e.touches a n then (s.bytesAt a n, s)
  else
    let fl := s.wlog.foldl (fun m e => if e.touches a n && seenOn x.seen q reg e then max m e.serial else m)
      ((s.thr x.thr).lastRead.get (a / 8) 0)
    let vs := ((s.wlog.filter fun e => e.touches a n && fl < e.serial).map fun e => e.serial) ++ [fl]
    let r := if vs.length = 1 then (0, s) else s.choose vs.length
    let k := vs.getD r.1 0
    ((List.range n).map (fun i => byteAtVersion s.wlog k (a + i) (s.byteAt (a + i))), r.2.markRead x.thr a k)

def State.snapRead (s : State) (x : Cmd) (q reg a n : Nat) : List Byte × State :=
  if n ≤ 8 then s.snapUnit x q reg a n
  else
    let r := s.snapUnit x q reg a 8
    let r2 := r.2.snapUnit x q reg (a + 8) (n - 8)
    (r.1 ++ r2.1, r2.2)

/-- An engine's read of n bytes at a global virtual address. -/
def State.engGlobal (s : State) (x : Cmd) (q : Nat) (va : Nat) (n : Nat) : Except MemFault (List Byte) × State :=
  match s.translate x.thr (d64 va) n .read false x.acc.again with
  | (.error f, s) => (.error f, s)
  | (.ok (pa, _), s) =>
    let r := match targetOf pa with
      | .io => s.ioRead pa n
      | .fabric => s.anyBytes n
      | _ => s.snapRead x q (s.cmdObj x va) pa n
    (.ok r.1, r.2)

/-- n units of k bytes read in order from an address. -/
def State.engUnits (s : State) (x : Cmd) (q va k : Nat) : Nat → Except MemFault (List Byte) × State
  | 0 => (.ok [], s)
  | n + 1 =>
    match s.engGlobal x q va k with
    | (.error f, s) => (.error f, s)
    | (.ok b, s) =>
      match State.engUnits s x q (va + k) k n with
      | (.error f, s) => (.error f, s)
      | (.ok bs, s) => (.ok (b ++ bs), s)

/-- Whether a copy address names the scratchpad, and its offset (R247). -/
def isScr (v : Nat) : Bool := 2 ^ 63 ≤ v
def scrOff (v : Nat) : Nat := v % 2 ^ 63

/-- A scratchpad range check: RANGE past the end, POISON on an uncorrectable error (R169, R183). -/
def State.scrFault (s : State) (t off n : Nat) : Option MemFault :=
  if s.scratchSize t < off + n then some rangeFault
  else if s.poisoned (scratchAddr (coreOf t) off) n then some localPoison
  else none

/-- An engine's read at a copy address. -/
def State.engLoad (s : State) (x : Cmd) (q v n : Nat) : Except MemFault (List Byte) × State :=
  if isScr v then
    match s.scrFault x.thr (scrOff v) n with
    | some f => (.error f, s)
    | none =>
      let r := s.snapRead x q (scratchObj (coreOf x.thr)) (scratchAddr (coreOf x.thr) (scrOff v)) n
      (.ok r.1, r.2)
  else s.engGlobal x q v n

/-- The place of n bytes at a copy address: an address of the log, and the memory type. A read of the scratchpad meets
its uncorrectable errors. -/
def State.engPlace (s : State) (x : Cmd) (v n : Nat) (kind : AKind) : Got (Nat × Nat) :=
  if isScr v then
    match (if kind = .write then (if s.scratchSize x.thr < scrOff v + n then some rangeFault else none)
      else s.scrFault x.thr (scrOff v) n) with
    | some f => (.error f, s)
    | none => (.ok (scratchAddr (coreOf x.thr) (scrOff v), 0), s)
  else s.translate x.thr (d64 v) n kind false x.acc.again

/-- Bytes written at a place, with the serial of the write where memory took it. -/
def State.putAt (s : State) (x : Cmd) (q v : Nat) (p : Nat × Nat) (bs : List Byte) : List Nat × State :=
  let c := coreOf x.thr
  if isScr v then ([s.serial + 1], s.write x.thr q (scratchObj c) p.1 bs)
  else match targetOf p.1 with
  | .io => ([], s.ioWrite p.1 (s.block c).owner.toNat bs)
  | .fabric => ([], s)
  | _ => ([s.serial + 1], s.write x.thr (pathVia q p.2) (s.cmdObj x v) p.1 bs)

/-- An engine's write of bytes at a copy address. -/
def State.engStore (s : State) (x : Cmd) (q v : Nat) (bs : List Byte) : Except MemFault (List Nat) × State :=
  match s.engPlace x v bs.length .write with
  | (.error f, s) => (.error f, s)
  | (.ok p, s) => let r := s.putAt x q v p bs; (.ok r.1, r.2)

/-- The newest bytes at a place, for a read that is one step with its write (R271). -/
def State.newestAt (s : State) (v n : Nat) (p : Nat × Nat) : List Byte × State :=
  if isScr v then (s.bytesAt p.1 n, s)
  else match targetOf p.1 with
  | .io => s.ioRead p.1 n
  | .fabric => s.anyBytes n
  | _ => (s.bytesAt p.1 n, s)

/-! ## A command's units -/

/-- What one unit of a command gives: a fault, or the serials of its writes. -/
abbrev Unit_ := Except MemFault (List Nat) × State

/-- A unit of a command done, with the serials of its writes: a replay is over with it (R179). -/
def Cmd.advance (x : Cmd) (ws : List Nat) : Cmd :=
  { x with progress := x.progress + 1, wrote := x.wrote ++ ws, acc := { x.acc with again := false } }

/-- Units of a command from its progress on, until one faults (DESIGN CHOICE, log entry 45). -/
def State.runUnits (s : State) (x : Cmd) (unit : State → Cmd → Nat → Unit_) :
    Nat → Cmd × Option MemFault × State
  | 0 => (x, none, s)
  | n + 1 =>
    match unit s x x.progress with
    | (.error f, s') => (x, some f, s')
    | (.ok ws, s') => State.runUnits s' (x.advance ws) unit n

/-- A command run unit by unit to its end or its fault. -/
def State.runCmd (s : State) (c e : Nat) (x : Cmd) (total : Nat) (unit : State → Cmd → Nat → Unit_) : State :=
  match s.runUnits x unit (total - x.progress) with
  | (y, none, s') => s'.completeCmd c e y
  | (y, some f, s') => s'.stopCmd c e y f

/-! ## Guards (R251) -/

inductive GuardTest where
  | run | hold | discard
  deriving DecidableEq, Repr

/-- The test of a guard slot. -/
def Block.guardTest (b : Block) : Option Nat → GuardTest
  | none => .run
  | some g =>
    match b.guards.get g 0 with
    | 0 => .hold
    | 1 => .run
    | _ => .discard

/-! ## Copies (R247, R248) -/

/-- One 4-byte unit of a COPY: both addresses and the count are multiples of 4. -/
def copyUnit (src dst : Nat) (s : State) (x : Cmd) (k : Nat) : Unit_ :=
  match s.engLoad x pathCopy ((src + 4 * k) % 2 ^ 64) 4 with
  | (.error f, s) => (.error f, s)
  | (.ok bs, s) => s.engStore x pathCopy ((dst + 4 * k) % 2 ^ 64) bs

/-- Reads of an engine at several copy addresses, in order. -/
def State.engLoads (s : State) (x : Cmd) (q : Nat) : List (Nat × Nat) → Except MemFault (List (List Byte)) × State
  | [] => (.ok [], s)
  | p :: r =>
    match s.engLoad x q (p.1 % 2 ^ 64) p.2 with
    | (.error f, s) => (.error f, s)
    | (.ok bs, s) =>
      match State.engLoads s x q r with
      | (.error f, s) => (.error f, s)
      | (.ok bss, s) => (.ok (bs :: bss), s)

/-- One group of four of a COPY.X24: two kept values, each read at its own address, a metadata nibble, four dense
elements. -/
def x24Unit (src dst aux e : Nat) (s : State) (x : Cmd) (g : Nat) : Unit_ :=
  match s.engLoads x pathCopy [(src + 2 * g * e, e), (src + (2 * g + 1) * e, e), (aux + g / 2, 1)] with
  | (.error f, s) => (.error f, s)
  | (.ok rs, s) =>
    let val (k : Nat) : Nat := natOfBytes (rs.getD k [])
    let m := val 2 / 16 ^ (g % 2) % 16
    let r := expandGroup (m % 4) (m / 4) (val 0) (val 1)
    let s := if r.2 then s.modBlock (coreOf x.thr) fun b => { b with x24err := true } else s
    s.engStore x pathCopy ((dst + 4 * g * e) % 2 ^ 64) (r.1.flatMap fun v => bytesOfNat e v)

/-- What COPY checks of its operands (R247). -/
def copyAligned (src dst count : Nat) : Bool := src % 4 = 0 && dst % 4 = 0 && count % 4 = 0
/-- What COPY.X24 checks of its operands (R289). -/
def x24Aligned (src dst count e : Nat) : Bool := count % 8 = 0 && src % e = 0 && dst % 4 = 0

end Sys2Proof.Machine
end

