-- ==== Sys2Proof/Machine/Filigree.lean ====
section
/-! DEFINITION. The copy unit and Filigree (R240-R248, R288-R293): copies, slice descriptors, slices and
operand queues. -/

namespace Sys2Proof.Machine

/-! ## COPY and COPY.X24 (R288, R289) -/

/-- The guard slot of a control word or GUARD byte: bit 7 with the slot in [2:0]. -/
def guardOf (w : Nat) : Option Nat := if bitOf w 7 then some (w % 8) else none

/-- A copy address whose bits [62:32] are not 0 beside bit 63 (R247). -/
def badScr (v : Nat) : Bool := isScr v && bitsOf v 62 32 ≠ 0

def execCopy (sc : Scope) (a : BitVec 7) (p : BitVec 3) (s : State) : Out :=
  onIssue s fun i => s.eachOr i sc p.toNat 0 fun s t =>
    let src := (s.pairReg t a.toNat).toNat
    let dst := (s.pairReg t (a.toNat + 2)).toNat
    let n := (s.reg t (a.toNat + 4)).toNat
    let ctl := (s.reg t (a.toNat + 5)).toNat
    if bitsOf ctl 31 8 ≠ 0 ∨ bitsOf ctl 6 3 ≠ 0 then ranBad s (plainFault clsBudget)
    else if !copyAligned src dst n then ranBad s (plainFault clsAlign)
    else if badScr src ∨ badScr dst then ranBad s rangeFault
    else ran (s.enterCmd i sc t engCopy (guardOf ctl) (.copy src dst n))

def execCopyX24 (sc : Scope) (a : BitVec 7) (p : BitVec 3) (s : State) : Out :=
  onIssue s fun i => s.eachOr i sc p.toNat 0 fun s t =>
    let src := (s.pairReg t a.toNat).toNat
    let dst := (s.pairReg t (a.toNat + 2)).toNat
    let n := (s.reg t (a.toNat + 4)).toNat
    let ctl := (s.reg t (a.toNat + 5)).toNat
    let aux := (s.pairReg t (a.toNat + 6)).toNat
    let e := if bitOf ctl 8 then 2 else 1
    if bitsOf ctl 31 9 ≠ 0 ∨ bitsOf ctl 6 3 ≠ 0 then ranBad s (plainFault clsBudget)
    else if !x24Aligned src dst n e then ranBad s (plainFault clsAlign)
    else if !isScr dst then ranBad s rangeFault
    else if badScr src ∨ badScr dst ∨ badScr aux then ranBad s rangeFault
    else ran (s.enterCmd i sc t engCopy (guardOf ctl) (.x24 src dst n aux e))

/-- The copy unit starts the command at the head of a block's queue, under its guard (R251, R289). -/
def State.startCopy (s : State) (c : Nat) : State :=
  match s.engq c engCopy with
  | [] => s
  | x :: _ =>
    if x.stopped || x.held then s
    else match (if x.started then .run else (s.block c).guardTest x.guard) with
    | .hold => s
    | .discard => s.completeCmd c engCopy x
    | .run =>
      let x := { x with started := true }
      match x.body with
      | .copy src dst n => s.runCmd c engCopy x (n / 4) (copyUnit src dst)
      | .x24 src dst n aux e => s.runCmd c engCopy x (n / 4) (x24Unit src dst aux e)
      | _ => s.completeCmd c engCopy x

/-! ## Slice descriptors (R240) -/

/-- The descriptor of 80 bytes; `none` where it breaks R240. -/
def sliceOf (bs : List Byte) : Option SliceDesc :=
  let mode := fieldOf bs 12 1
  let levels := fieldOf bs 13 1
  let guard := fieldOf bs 14 1
  let counts := (List.range 5).map fun k => fieldOf bs (16 + 12 * k) 4
  let strides := (List.range 5).map fun k => fieldOf bs (20 + 12 * k) 8
  let ok := bitsOf mode 7 5 = 0 && bitsOf mode 4 3 ≠ 3 && (bitOf mode 0 || fieldOf bs 8 4 = 0)
    && 1 ≤ levels && levels ≤ 5 && bitsOf guard 6 3 = 0 && fieldOf bs 15 1 = 0 && fieldOf bs 76 4 = 0
    && (counts.take levels).all (fun n => 1 ≤ n && n ≤ 2 ^ 24)
    && (counts.drop levels).all (fun n => n = 0) && (strides.drop levels).all fun n => n = 0
  if ok then some
    { base := fieldOf bs 0 8, sdst := fieldOf bs 8 4, esz := bitsOf mode 4 3, qnum := bitsOf mode 2 1
      toScratch := bitOf mode 0, guard := guardOf guard, counts := counts.take levels
      strides := strides.take levels }
  else none

/-- The number of elements (R241). -/
def SliceDesc.total (d : SliceDesc) : Nat := d.counts.foldl (fun n c => n * c) 1

/-- The offset of element n by its levels (R241). -/
def sliceOff : List Nat → List Nat → Nat → Nat
  | c :: cs, st :: ss, n => n % c * st + sliceOff cs ss (n / c)
  | _, _, _ => 0

/-- Addr(n) (R241). -/
def SliceDesc.addr (d : SliceDesc) (n : Nat) : Nat := (d.base + sliceOff d.counts d.strides n) % 2 ^ 64

/-! ## Filigree's commands (R290, R291) -/

/-- The FIL.RUN of a slot in Filigree's queue. -/
def State.runOf (s : State) (c slot : Nat) : Option Cmd :=
  (s.engq c engFil).find? fun x => x.body = .filRun slot

/-- The started slice of a slot, by its FIL.RUN. -/
def State.sliceOn (s : State) (c slot : Nat) : Option Cmd :=
  (s.engq c engFil).find? fun x => x.body = .filRun slot && x.started

/-- The queue a started slice feeds. -/
def State.feeds (s : State) (c : Nat) (x : Cmd) : Option Nat :=
  match x.body with
  | .filRun slot =>
    if x.started then
      match (s.block c).slots.find slot with
      | some d => if d.toScratch then none else some d.qnum
      | none => none
    else none
  | _ => none

/-- Whether a started slice feeds queue k. -/
def State.fed (s : State) (c k : Nat) : Bool := (s.engq c engFil).any fun x => s.feeds c x = some k

/-- END set on the queue that a slot's descriptor feeds (R245). -/
def State.setEnd (s : State) (c slot : Nat) : State :=
  match (s.block c).slots.find slot with
  | some d =>
    if d.toScratch then s
    else s.modBlock c fun b => { b with opq := b.opq.put d.qnum { b.queue d.qnum with fin := true } }
  | none => s

def execFilLoad (sc : Scope) (a : BitVec 7) (p : BitVec 3) (lit : Word) (s : State) : Out :=
  onIssue s fun i => s.eachOr i sc p.toNat 1 fun s t =>
    let addr := s.pairReg t a.toNat
    let slot := lit.toNat % 4
    if addr.toNat % 16 ≠ 0 then ranBad s { plainFault clsAlign with va := addr }
    else if (s.runOf (coreOf t) slot).isSome then ranBad s (plainFault clsBudget)
    else ran (s.enterCmd i sc t engFil none (.filLoad addr.toNat slot))

/-- Whether a slice may start on the queue that its descriptor names: a scratchpad slice always, another where the
queue is enabled and no started slice feeds it (R243). -/
def State.mayFeed (s : State) (c : Nat) (d : SliceDesc) : Bool :=
  d.toScratch || (((s.block c).queue d.qnum).en && !s.fed c d.qnum)

/-- What FIL.RUN checks at issue (R291): the slot's descriptor. -/
def State.runnable (s : State) (c slot : Nat) : Option SliceDesc :=
  match (s.block c).slots.find slot with
  | none => none
  | some d =>
    if (s.sliceOn c slot).isSome then none else if s.mayFeed c d then some d else none

/-- FIL.RUN enters the queue; its guard is that of the descriptor that its slot holds when it reaches the head
(R240, R251, R291). -/
def execFilRun (sc : Scope) (b : BitVec 7) (p : BitVec 3) (s : State) : Out :=
  onIssue s fun i => s.eachOr i sc p.toNat 0 fun s t =>
    if (s.runnable (coreOf t) b.toNat).isNone then ranBad s (plainFault clsBudget)
    else ran (s.enterCmd i sc t engFil none (.filRun b.toNat))

/-- A slice stopped and waiting FIL.RUNs removed, with END on the fed queue; the flag of each clears with FIL.STOP's
(R242, R291). -/
def State.stopSlice (s : State) (c slot : Nat) : State :=
  ((s.engq c engFil).filter fun x => x.body = .filRun slot && x.halting).foldl
    (fun s x => (s.setEnd c slot).completeCmd c engFil x) s

/-- FIL.STOP passes the queue (R291) (DEDUCED, log entry 46). -/
def execFilStop (sc : Scope) (b : BitVec 7) (p : BitVec 3) (s : State) : Out :=
  memWord sc p.toNat true (fun s _ _ => (.ok (.filStop b.toNat), s)) s

/-- Whether Filigree has still to start a command: descriptors are read whole, and a halted FIL.RUN is passed. -/
def Cmd.toStart (x : Cmd) : Bool := match x.body with | .filLoad .. => true | _ => !x.started && !x.halting

/-- Filigree starts the next command of its queue (R239): descriptors are read whole; a guarded FIL.RUN is
held or discarded; a slice starts when its slot is free, and ends with BUDGET where its queue cannot take it any more
(R243) (DEDUCED, log entry 46). -/
def State.startFil (s : State) (c : Nat) : State :=
  match (s.engq c engFil).find? Cmd.toStart with
  | none => s
  | some x =>
    if x.stopped || x.held then s
    else match x.body with
    | .filLoad addr slot =>
      match s.engUnits x pathCopy addr 8 10 with
      | (.error f, s) => s.stopCmd c engFil x f
      | (.ok bs, s) =>
        match sliceOf bs with
        | none => s.stopCmd c engFil x (plainFault clsBudget)
        | some d => (s.modBlock c fun b => { b with slots := b.slots.put slot d }).completeCmd c engFil x
    | .filRun slot =>
      match (s.block c).slots.find slot with
      | none => s.stopCmd c engFil x (plainFault clsBudget)
      | some d =>
        match (s.block c).guardTest d.guard with
        | .hold => s
        | .discard => s.completeCmd c engFil x
        | .run =>
          let busy := (s.engq c engFil).any fun y => y.op ≠ x.op && y.started && y.body = .filRun slot
          if busy then s
          else if s.mayFeed c d then s.putCmd c engFil { x with started := true }
          else s.stopCmd c engFil x (plainFault clsBudget)
    | _ => s.completeCmd c engFil x

/-- The write of an element to its lane ring or to the scratchpad (R241-R243). -/
def State.deliver (s : State) (c : Nat) (x : Cmd) (d : SliceDesc) (n : Nat) (bs : List Byte) : Unit_ :=
  if d.toScratch then
    let off := d.sdst + n * 2 ^ d.esz
    if s.scratchSize x.thr < off + bs.length then (.error rangeFault, s)
    else (.ok [s.serial + 1], s.write x.thr pathCopy (scratchObj c) (scratchAddr c off) bs)
  else
    let q := (s.block c).queue d.qnum
    let h := n % 32
    let tl := q.tails.get h 0
    let s' := s.write x.thr pathCopy (scratchObj c) (scratchAddr c (q.slotAddr tl h)) bs
    (.ok [s.serial + 1], s'.modBlock c fun b =>
      { b with opq := b.opq.put d.qnum { q with tails := q.tails.put h (tl + 1) } })

/-- Whether the next element has room: the ring of its home lane is not full (R243). -/
def State.hasRoom (s : State) (c : Nat) (d : SliceDesc) (n : Nat) : Bool :=
  let q := (s.block c).queue d.qnum
  d.toScratch || q.fill (n % 32) < 2 ^ q.log2d

/-- A slice that ends: END on its queue, and its FIL.RUN completes. -/
def State.endSlice (s : State) (c slot : Nat) (x : Cmd) : State := (s.setEnd c slot).completeCmd c engFil x

/-- SLICE_ELEMENT_DELIVERY: the next element of a slot's started slice (R242, R245). -/
def execSliceElementDelivery (c slot : Nat) (s : State) : Out :=
  .next <|
    if !s.enginesRun c then s else
    match s.sliceOn c slot, (s.block c).slots.find slot with
    | some x, some d =>
      if x.stopped || x.halting || !s.hasRoom c d x.progress then s
      else
        let a := d.addr x.progress
        let bad (f : MemFault) (s : State) : State :=
          if f.parks then s.stopCmd c engFil x f else (s.setEnd c slot).stopCmd c engFil x f
        if a % 2 ^ d.esz ≠ 0 then (bad { plainFault clsAlign with va := d64 a } s).settle x.thr
        else match s.engGlobal x pathCopy a (2 ^ d.esz) with
        | (.error f, s) => (bad f s).settle x.thr
        | (.ok bs, s) =>
          match s.deliver c x d x.progress bs with
          | (.error f, s) => (bad f s).settle x.thr
          | (.ok ws, s) =>
            let y := x.advance ws
            if y.progress < d.total then s.putCmd c engFil y else (s.endSlice c slot y).settle x.thr
    | _, _ => s

/-! ## Operand queues (R243, R292, R293) -/

/-- The bytes of a queue's area. -/
def OpQueue.size (q : OpQueue) : Nat := 32 * 2 ^ q.log2d * 2 ^ q.esz

def OpQueue.overlaps (q r : OpQueue) : Bool := q.base < r.base + r.size && r.base < q.base + q.size

def execQcfg (sc : Scope) (a : BitVec 7) (q : BitVec 2) (en sgn : BitVec 1) (z : BitVec 2) (l : BitVec 3)
    (s : State) : Out :=
  onIssue s fun i => s.eachOr i sc 0 0 fun s t =>
    let c := coreOf t
    let k := q.toNat
    let new : OpQueue :=
      { OpQueue.off with en := true, esz := z.toNat, sgn := sgn = 1, log2d := l.toNat, base := (s.reg t a.toNat).toNat }
    let others := (List.range 4).filter fun n => n ≠ k && ((s.block c).queue n).en
    if s.fed c k then ranBad s (plainFault clsBudget)
    else if en = 0 then ran (s.modBlock c fun b => { b with opq := b.opq.del k })
    else if z.toNat = 3 ∨ l.toNat = 0 ∨ new.base % 128 ≠ 0 ∨ s.scratchSize t < new.base + new.size
        ∨ others.any fun n => new.overlaps ((s.block c).queue n) then ranBad s (plainFault clsBudget)
    else ran (s.modBlock c fun b => { b with opq := b.opq.put k new })

/-- QSTAT's word for a home lane (R246). -/
def OpQueue.stat (q : OpQueue) (h : Nat) : Word :=
  w32n ((if q.en then 2 ^ 31 else 0) + (if q.fin then 2 ^ 30 else 0) + q.esz * 2 ^ 28
    + (if q.sgn then 2 ^ 27 else 0) + q.log2d * 2 ^ 24 + q.fill h % 2 ^ 16)

def execQstat (sc : Scope) (d : BitVec 7) (q : BitVec 2) (s : State) : Out :=
  onIssue s fun i => s.eachOr i sc 0 0 fun s t =>
    ran (s.setReg t (s.destWarps i sc t) d.toNat (((s.block (coreOf t)).queue q.toNat).stat (laneOf t)))

end Sys2Proof.Machine
end

