-- ==== Sys2Proof/Machine/Trellis.lean ====
section
/-! DEFINITION. Trellis (R258-R273, R276-R287): the issue-time checks and captures of its commands, and
their execution in issue order. -/

namespace Sys2Proof.Machine

/-! ## Accumulator rows and windows (R265-R267, R276) -/

/-- The first accumulator byte of a row in a core. -/
def accAddr (c row col : Nat) : Nat := c * 2 ^ 24 + 256 * row + 4 * col

def State.accWord (s : State) (c row col : Nat) : Word := BitVec.ofNat 32 (s.accm.num (accAddr c row col) 4)

def State.setAcc (s : State) (c row col : Nat) (w : Word) : State :=
  { s with accm := s.accm.writeN (accAddr c row col) (bytesOfWord w) }

/-- Whether a window word admits a row (R266). -/
def winHas (w : Word) (row : Nat) : Bool := bitsOf w.toNat 12 0 ≤ row && row ≤ bitsOf w.toNat 28 16

/-- Rows of a member: sixteen from a first row. -/
def rows16 (r : Nat) : List Nat := (List.range 16).map fun k => r + k

/-- A warp that a command covers: its key, or one that no thread has where another warp has taken its slot, its first
row, and its window word. -/
structure Cover where
  warp : Nat
  row : Nat
  win : Word

/-- The set numbers of a thread's set, by member index. -/
def State.setMembers (s : State) (t : Nat) : List Nat :=
  match s.setOf (warpKeyOf t) with
  | some k => s.setNumbers (coreOf t) k
  | none => []

/-- The warps a command covers with their first rows, for a tile and a row group (R267, R276). -/
def State.coverage (s : State) (sc : Scope) (t tile group : Nat) : List Cover :=
  let c := coreOf t
  match sc with
  | .set => (s.setMembers t).zipIdx.map fun p =>
      { warp := (s.memberKey c p.1).getD (ghostWarp c), row := 64 * tile + 16 * p.2, win := (s.member c p.1).win }
  | _ => [{ warp := warpKeyOf t, row := 64 * tile + 16 * group, win := (s.warp (warpKeyOf t)).win }]

/-- Whether every covered row lies in its warp's window. -/
def windowsOk (cov : List Cover) : Bool := cov.all fun p => (rows16 p.row).all (winHas p.win)

/-- An accumulator selector's fields, `none` where it breaks R276. -/
structure Selector where
  tile : Nat
  group : Nat
  cp : Nat
  n : Nat

def selectorOf (sc : Scope) (rw : Bool) (w : Word) : Option Selector :=
  let x := w.toNat
  let r : Selector := { tile := bitsOf x 23 16, group := bitsOf x 15 14, cp := bitsOf x 12 8, n := bitsOf x 3 0 }
  if bitsOf x 31 24 ≠ 0 ∨ bitsOf x 13 13 ≠ 0 ∨ bitsOf x 7 4 ≠ 0 then none
  else if sc = .set && r.group ≠ 0 then none
  else if rw && !(1 ≤ r.n && r.n ≤ 8 && r.cp + r.n ≤ 32) then none
  else some r

/-- The members of the issuing set number more than four (R267). -/
def State.tooMany (s : State) (sc : Scope) (t : Nat) : Bool := sc = .set && 4 < (s.setMembers t).length

/-- An accumulator command: the checks of R280 and R267 in order, then the command. `n` gives the number of
registers from `d` that the quota must hold, for a selector. -/
def accCmd (sc : Scope) (a p : Nat) (rw : Bool) (d : Nat) (regs : Word → Nat)
    (body : State → Nat → Selector → List Cover → CmdBody) (s : State) : Out :=
  onIssue s fun i => s.eachOr i sc p 0 fun s t =>
    let w := s.reg t a
    if s.tooMany sc t then ranBad s (plainFault clsIllegalScope)
    else if 0 < regs w && (s.warp (warpKeyOf t)).quota < d + regs w then ranBad s (plainFault clsRegRange)
    else match selectorOf sc rw w with
    | none => ranBad s (plainFault clsBudget)
    | some sel =>
      let cov := s.coverage sc t sel.tile sel.group
      if windowsOk cov then ran (s.enterCmd i sc t engTrellis none (body s t sel cov))
      else ranBad s (plainFault clsAccWindow)

/-- The rows of a coverage. -/
def covRows (cov : List Cover) : List Nat := cov.flatMap fun p => rows16 p.row

/-- Per lane of the coverage: thread, row, and half (R276). -/
def covLanes (cov : List Cover) : List (Nat × Nat × Nat) :=
  cov.flatMap fun p => (List.range 32).map fun l => (p.warp * 32 + l, p.row + l % 16, l / 16)

/-- ACC.RD's and ACC.WR's map: thread, register, row and column (R276). -/
def accMap (s : State) (sel : Selector) (d : Nat) (cov : List Cover) : List (Nat × Nat × Nat × Nat) :=
  ((covLanes cov).filter fun x => (s.thr x.1).live).flatMap fun x =>
    (List.range sel.n).map fun j => (x.1, d + j, x.2.1, 2 * (sel.cp + j) + x.2.2)

/-- N of a selector, for the quota check of ACC.RD and ACC.WR. -/
def selN (w : Word) : Nat := w.toNat % 16

def execAccZero (sc : Scope) (a : BitVec 7) (p : BitVec 3) (s : State) : Out :=
  accCmd sc a.toNat p.toNat false 0 (fun _ => 0) (fun _ _ _ cov => .accZero (covRows cov)) s

def execAccRd (sc : Scope) (d a : BitVec 7) (p : BitVec 3) (s : State) : Out :=
  accCmd sc a.toNat p.toNat true d.toNat selN
    (fun s _ sel cov => .accRd d.toNat ((accMap s sel d.toNat cov).map fun x =>
      (x.1, x.2.1, 256 * x.2.2.1 + 4 * x.2.2.2))) s

def execAccWr (sc : Scope) (d a : BitVec 7) (p : BitVec 3) (s : State) : Out :=
  accCmd sc a.toNat p.toNat true d.toNat selN
    (fun s _ sel cov => .accWr ((accMap s sel d.toNat cov).map fun x =>
      (256 * x.2.2.1 + 4 * x.2.2.2, s.reg x.1 x.2.1))) s

/-- ACC.SCALE's factors: home lanes 0-15 of each covered warp; 1.0 from a lane without a live thread
(R281). -/
def execAccScale (sc : Scope) (a b : BitVec 7) (p : BitVec 3) (s : State) : Out :=
  accCmd sc a.toNat p.toNat false b.toNat (fun _ => 1)
    (fun s _ _ cov => .accScale (cov.flatMap fun x => (List.range 16).map fun k =>
      (x.row + k, if (s.thr (x.warp * 32 + k)).live then s.reg (x.warp * 32 + k) b.toNat else 0x3F800000))) s

def execAccCvtF32I32 (sc : Scope) (a : BitVec 7) (p : BitVec 3) (s : State) : Out :=
  accCmd sc a.toNat p.toNat false 0 (fun _ => 0) (fun _ _ _ cov => .accCvt false (covRows cov)) s

def execAccCvtI32F32 (sc : Scope) (a : BitVec 7) (p : BitVec 3) (s : State) : Out :=
  accCmd sc a.toNat p.toNat false 0 (fun _ => 0) (fun _ _ _ cov => .accCvt true (covRows cov)) s

/-- Rows with the threads that receive their results: home lanes i and i + 16 (R276). -/
def rowTargets (cov : List Cover) : List (Nat × List Nat) :=
  cov.flatMap fun x => (List.range 16).map fun k => (x.row + k, [x.warp * 32 + k, x.warp * 32 + k + 16])

def execRowmax (sc : Scope) (d a : BitVec 7) (p : BitVec 3) (s : State) : Out :=
  accCmd sc a.toNat p.toNat false d.toNat (fun _ => 1)
    (fun _ _ _ cov => .rowFold false d.toNat (rowTargets cov)) s

def execRowsum (sc : Scope) (d a : BitVec 7) (p : BitVec 3) (s : State) : Out :=
  accCmd sc a.toNat p.toNat false d.toNat (fun _ => 1)
    (fun _ _ _ cov => .rowFold true d.toNat (rowTargets cov)) s

/-! ## MMA (R258-R264, R277, R278) -/

/-- One element code of A: R259's member, home lane, register and bits; an empty lane supplies 0. -/
def State.mmaA (s : State) (form : Nat) (ws : List Nat) (d r k : Nat) : Nat :=
  let h := mmaK form / 2
  let n := 4 / mmaE form
  let t := ws.getD (r / 16) 0 * 32 + (r % 16 + 16 * (k / h))
  if (s.thr t).live then
    let j := k % h
    bitsOf (s.reg t (d + j / n)).toNat (8 * mmaE form * (j % n + 1) - 1) (8 * mmaE form * (j % n))
  else 0

/-- The scales of R263: block l from the half-word h of the scale register of home lane l of member 0. -/
def State.mmaScales (s : State) (w vs h : Nat) : List Nat :=
  (List.range 32).map fun l =>
    if (s.thr (w * 32 + l)).live then bitsOf (s.reg (w * 32 + l) vs).toNat (16 * h + 15) (16 * h) else 0

/-- An MMA form: the checks of R278 in order, the capture of A and the scales, the command (DEDUCED, log entry 49). -/
def mmaWord (form : Nat) (sc : Scope) (d a b : BitVec 7) (p : BitVec 3) (lit : Word) (lits : Nat) (s : State) :
    Out :=
  onIssue s fun i => s.eachOr i sc p.toNat lits fun s t =>
    let quota := (s.warp (warpKeyOf t)).quota
    let vs := bitsOf lit.toNat 6 0
    let off := (s.reg t b.toNat).toNat
    let cov := s.coverage .set t d.toNat 0
    let ws := cov.map Cover.warp
    if s.tooMany .set t then ranBad s (plainFault clsIllegalScope)
    else if mmaScaled form && 96 ≤ vs then ranBad s (plainFault clsIllegalOp)
    else if quota < a.toNat + mmaRegs form || (mmaScaled form && quota ≤ vs) then
      ranBad s (plainFault clsRegRange)
    else if off % 16 ≠ 0 then ranBad s (plainFault clsAlign)
    else if 262144 ≤ off then ranBad s rangeFault
    else if !windowsOk cov then ranBad s (plainFault clsAccWindow)
    else
      let rows := (List.range (16 * ws.length)).map fun r =>
        (List.range (mmaK form)).map fun k => s.mmaA form ws a.toNat r k
      let scales := if mmaScaled form then s.mmaScales (ws.headD 0) vs (bitsOf lit.toNat 7 7) else []
      ran (s.enterCmd i sc t engTrellis none (.mma form (64 * d.toNat) rows off scales))

def execMmaT8 (sc : Scope) (d a b : BitVec 7) (p : BitVec 3) (s : State) : Out := mmaWord 0 sc d a b p 0 0 s
def execMmaI8 (sc : Scope) (d a b : BitVec 7) (p : BitVec 3) (s : State) : Out := mmaWord 1 sc d a b p 0 0 s
def execMmaE4 (sc : Scope) (d a b : BitVec 7) (p : BitVec 3) (s : State) : Out := mmaWord 2 sc d a b p 0 0 s
def execMmaE5 (sc : Scope) (d a b : BitVec 7) (p : BitVec 3) (s : State) : Out := mmaWord 3 sc d a b p 0 0 s
def execMmaBf (sc : Scope) (d a b : BitVec 7) (p : BitVec 3) (s : State) : Out := mmaWord 4 sc d a b p 0 0 s
def execMmaH (sc : Scope) (d a b : BitVec 7) (p : BitVec 3) (s : State) : Out := mmaWord 5 sc d a b p 0 0 s
def execMmaF32 (sc : Scope) (d a b : BitVec 7) (p : BitVec 3) (s : State) : Out := mmaWord 6 sc d a b p 0 0 s
def execMmaT8s (sc : Scope) (d a b : BitVec 7) (p : BitVec 3) (lit : Word) (s : State) : Out :=
  mmaWord 7 sc d a b p lit 1 s
def execMmaI8s (sc : Scope) (d a b : BitVec 7) (p : BitVec 3) (lit : Word) (s : State) : Out :=
  mmaWord 8 sc d a b p lit 1 s

/-- A byte of a core's weight buffer. -/
def wbufKey (c off : Nat) : Nat := c * 2 ^ 24 + off

/-- The accumulation of an MMA over its rows and columns, and whether a sum overflowed (R264). -/
def State.mmaRun (s : State) (c form row0 : Nat) (a : List (List Nat)) (cols : List (List Nat))
    (scales : List Nat) : State × Bool :=
  ((List.range a.length).zip a).foldl (fun acc ra =>
    ((List.range 64).zip cols).foldl (fun acc cc =>
      let e := mmaElem form (acc.1.accWord c (row0 + ra.1) cc.1) ra.2 cc.2 (scales.getD (cc.1 / 2) 0)
      (acc.1.setAcc c (row0 + ra.1) cc.1 e.1, acc.2 || e.2)) acc) (s, false)

/-- An MMA executed: B decoded from its records, then the accumulation; a record past the buffer's end, or one with an
uncorrectable error, has no effect but its fault (R183, R262, R278) (DEDUCED, log entry 49). -/
def State.execMma (s : State) (c : Nat) (x : Cmd) (form row0 : Nat) (a : List (List Nat)) (off : Nat)
    (scales : List Nat) : State :=
  let rd (o n : Nat) : List Byte := s.wbuf.readN (wbufKey c o) n
  let lines := if mmaIsT8 form then 13 else 32
  match denseLines rd off lines with
  | none => s.stopCmd c engTrellis x rangeFault
  | some (dense, bad) =>
    if s.poisoned (wbufAddr c off) (recSpan rd off lines) then s.stopCmd c engTrellis x localPoison else
    let r := s.mmaRun c form row0 a (mmaCols form dense) scales
    let bits := (if mmaFmtErr form dense then fmterrBit else 0) ||| (if r.2 then ovfBit else 0)
      ||| (if bad then wfmtBit else 0)
    (r.1.modBlock c fun b => { b with tstat := b.tstat ||| bits }).completeCmd c engTrellis x

/-! ## WLOAD (R260, R279) -/

def execWload (sc : Scope) (d a b : BitVec 7) (p : BitVec 3) (s : State) : Out :=
  onIssue s fun i => s.eachOr i sc p.toNat 0 fun s t =>
    let w := (s.reg t d.toNat).toNat
    let src := s.pairReg t a.toNat
    let n := (s.reg t b.toNat).toNat
    if w % 16 ≠ 0 ∨ src.toNat % 16 ≠ 0 ∨ n % 16 ≠ 0 then ranBad s (plainFault clsAlign)
    else if 262144 < w + n then ranBad s rangeFault
    else if 2 ^ 48 ≤ src.toNat then ranBad s { causeFault clsAccess causeNoncanon with va := src }
    else ran (s.enterCmd i sc t engTrellis none (.wload w src.toNat n))

/-- One 16-byte unit of a WLOAD. -/
def wloadUnit (c w src : Nat) (s : State) (x : Cmd) (k : Nat) : Unit_ :=
  match s.engGlobal x pathMtx (src + 16 * k) 16 with
  | (.error f, s) => (.error f, s)
  | (.ok bs, s) => (.ok [], { s with wbuf := s.wbuf.writeN (wbufKey c (w + 16 * k)) bs })

/-! ## Windows (R266, R284, R285) -/

/-- Whether WINSET accepts a window word (R266). -/
def winWordOk (acc : Nat) (w : Word) : Bool :=
  let base := bitsOf w.toNat 12 0
  let limit := bitsOf w.toNat 28 16
  bitsOf w.toNat 31 29 = 0 && bitsOf w.toNat 15 13 = 0 && !(base ≤ limit && 64 * acc ≤ limit)

def execWinset (sc : Scope) (a b : BitVec 7) (p : BitVec 3) (s : State) : Out :=
  onIssue s fun i => s.eachOr i sc p.toNat 0 fun s t =>
    let c := coreOf t
    let w := s.reg t a.toNat
    let mask := (s.pairReg t b.toNat).toNat
    if !winWordOk (s.block c).acc w then ranBad s (plainFault clsBudget)
    else if 2 ^ (s.block c).nwarps ≤ mask then ranBad s (plainFault clsBudget)
    else ran ((maskBits mask 63).foldl (fun s n => s.modMember c n fun wp => { wp with win := w }) s)

/-- WINGET: the window word of a non-spawned warp, else an empty window; it never faults (R285). -/
def execWinget (sc : Scope) (d a : BitVec 7) (p : BitVec 3) (s : State) : Out :=
  onIssue s fun i => s.eachOr i sc p.toNat 0 fun s t =>
    let n := (s.reg t a.toNat).toNat % 256
    let w := if n < (s.block (coreOf t)).nwarps then (s.member (coreOf t) n).win else 1
    ran (s.setReg t (s.destWarps i sc t) d.toNat w)

/-! ## Drains (R270-R272, R286, R287) -/

/-- The rows a drain touches: row of the tile and absolute row (R267). -/
def State.drainRows (s : State) (sc : Scope) (t tile : Nat) : List (Nat × Nat) :=
  match sc with
  | .set => (List.range (16 * (s.setMembers t).length)).map fun r => (r, 64 * tile + r)
  | _ => (List.range 64).map fun r => (r, 64 * tile + r)

/-- Whether the drain's rows lie in their windows (R267). -/
def State.drainOk (s : State) (sc : Scope) (t tile : Nat) : Bool :=
  match sc with
  | .set => windowsOk (s.coverage .set t tile 0)
  | _ => (List.range 64).all fun r => winHas (s.warp (warpKeyOf t)).win (64 * tile + r)

/-- Whether a drain control word keeps R286. -/
def drainCtlOk (w : Nat) : Bool :=
  bitsOf w 31 24 = 0 && bitsOf w 15 11 = 0 && bitsOf w 7 1 = 0 && bitsOf w 10 8 ≤ 4

/-- TSTORE and TSTORE.ADD: the checks of R287 in order, then the command. -/
def drainWord (add : Bool) (sc : Scope) (a : BitVec 7) (p : BitVec 3) (s : State) : Out :=
  onIssue s fun i => s.eachOr i sc p.toNat 0 fun s t =>
    let dst := (s.pairReg t a.toNat).toNat
    let stride := (s.reg t (a.toNat + 2)).toNat
    let ctl := (s.reg t (a.toNat + 3)).toNat
    let res := (s.pairReg t (a.toNat + 4)).toNat
    let fmt := bitsOf ctl 10 8
    let hasRes := bitOf ctl 0
    let tile := bitsOf ctl 23 16
    if s.tooMany sc t then ranBad s (plainFault clsIllegalScope)
    else if !drainCtlOk ctl || (hasRes && fmt ≤ 1) || stride < 64 * drainSize fmt then
      ranBad s (plainFault clsBudget)
    else if dst % 16 ≠ 0 ∨ stride % 16 ≠ 0 ∨ (hasRes ∧ res % 64 ≠ 0) then ranBad s (plainFault clsAlign)
    else if (hasRes ∧ isScr res) ∨ (isScr dst ∧ bitsOf dst 62 32 ≠ 0) then ranBad s rangeFault
    else if !s.drainOk sc t tile then ranBad s (plainFault clsAccWindow)
    else ran (s.enterCmd i sc t engTrellis none
      (.tstore add (s.drainRows sc t tile) dst stride fmt (if hasRes then some res else none)))

def execTstore (sc : Scope) (a : BitVec 7) (p : BitVec 3) (s : State) : Out := drainWord false sc a p s
def execTstoreAdd (sc : Scope) (a : BitVec 7) (p : BitVec 3) (s : State) : Out := drainWord true sc a p s

/-- A drained element's bits from an accumulator word and, with a residual, its old value: the element and
the new residual (R270, R272). -/
def drainElem (fmt : Nat) (acc : Word) (res : Option Word) : Nat × Word :=
  if fmt ≤ 1 then (acc.toNat, 0)
  else match res with
    | none => (quant fmt (f32 acc), 0)
    | some r =>
      let x := roundF32 ((f32 acc).add (f32 r))
      let q := quant fmt (f32 x)
      (q, roundF32 ((f32 x).add (unquant fmt q).neg))

/-- The bits a TSTORE.ADD leaves in a unit (R271). -/
def drainSum (fmt old new : Nat) : Nat :=
  match fmt with
  | 0 => (roundF32 ((fmtF32.decode old).add (fmtF32.decode new))).toNat
  | 1 => (old + new) % 2 ^ 32
  | _ => quant fmt ((unquant fmt old).add (unquant fmt new))

/-- The write of a drained element at its place: a plain store, or one step with the read of the unit (R270, R271). -/
def State.drainPut (s : State) (x : Cmd) (add : Bool) (fmt v : Nat) (p : Nat × Nat) (bits : Nat) : List Nat × State :=
  let n := drainSize fmt
  if add then
    let r := s.newestAt v n p
    r.2.putAt x pathMtx v p (bytesOfNat n (drainSum fmt (natOfBytes r.1) bits))
  else s.putAt x pathMtx v p (bytesOfNat n bits)

/-- One element of a drain. A residual is read on the MTX path and written back (R197, R272); both addresses are
translated before anything is written, so that a fault of either stops the command with the element and its residual
unwritten, and each is written once (R272, R273). -/
def drainUnit (c : Nat) (add : Bool) (rows : List (Nat × Nat)) (dst stride fmt : Nat) (res : Option Nat)
    (s : State) (x : Cmd) (k : Nat) : Unit_ :=
  let rr := rows.getD (k / 64) (0, 0)
  let col := k % 64
  let acc := s.accWord c rr.2 col
  if s.poisoned (accEcc c (256 * rr.2 + 4 * col)) 4 then (.error localPoison, s) else
  let v := (dst + rr.1 * stride + col * drainSize fmt) % 2 ^ 64
  match s.engPlace x v (drainSize fmt) (if add then .rw else .write) with
  | (.error f, s) => (.error f, s)
  | (.ok p, s) =>
    match res with
    | none => let r := s.drainPut x add fmt v p (drainElem fmt acc none).1; (.ok r.1, r.2)
    | some r =>
      let rv := r + 256 * rr.1 + 4 * col
      match s.engGlobal x pathMtx rv 4 with
      | (.error f, s) => (.error f, s)
      | (.ok old, s) =>
        match s.engPlace x rv 4 .write with
        | (.error f, s) => (.error f, s)
        | (.ok pr, s) =>
          let e := drainElem fmt acc (some (w32n (natOfBytes old)))
          let a := s.drainPut x add fmt v p e.1
          let b := a.2.putAt x pathMtx rv pr (bytesOfWord e.2)
          (.ok (a.1 ++ b.1), b.2)

/-- Whether another core has a TSTORE.ADD to the global space that a fault has stopped part-way: none that could share
a unit with it starts before it has gone on (R271) (DEDUCED, log entry 118). -/
def State.addsPart (s : State) (c : Nat) : Bool :=
  s.blocks.any fun e => e.1 ≠ c && (e.2.engq.get engTrellis []).any fun y =>
    y.progress ≠ 0 && match y.body with | .tstore true _ dst _ _ _ => !isScr dst | _ => false

/-! ## Execution in issue order (R268) -/

/-- A register result of a command written in a live thread whose quota holds the register (DESIGN CHOICE, log entry 47). -/
def State.giveReg (s : State) (a : Access) (t d : Nat) (w : Word) : State :=
  if d < s.resultLimit t a then s.setVec t d w else s

/-- Maps the 64 elements of rows. -/
def State.mapRows (s : State) (c : Nat) (rows : List Nat) (f : Nat → Word → Word) : State :=
  rows.foldl (fun s r => (List.range 64).foldl (fun s col => s.setAcc c r col (f r (s.accWord c r col))) s) s

/-- ROWMAX's and ROWSUM's result of a row (R283) (DESIGN CHOICE, log entry 47). -/
def State.rowResult (s : State) (c r : Nat) (sum : Bool) : Word :=
  let ws := (List.range 64).map fun col => s.accWord c r col
  if sum then roundF32 (sumVals (ws.map f32))
  else ws.foldl (fun m w => fminmax atomModes true m w) (BitVec.ofNat 32 fmtF32.nan)

/-- FP32 bits rounded to an INT32 (R282). -/
def f32ToI32 (w : Word) : Word := cvtValue atomModes 0 2 false w
/-- INT32 bits rounded to FP32 (R282). -/
def i32ToF32 (w : Word) : Word := cvtValue atomModes 2 0 false w

/-- The accumulator words that a command reads at once, by their first bytes; a drain reads its own one by one. -/
def CmdBody.accReads : CmdBody → List Nat
  | .mma _ row0 a _ _ => (List.range a.length).flatMap fun r => (List.range 64).map fun k => 256 * (row0 + r) + 4 * k
  | .accRd _ cells => cells.map fun p => p.2.2
  | .accScale fs => fs.flatMap fun p => (List.range 64).map fun k => 256 * p.1 + 4 * k
  | .accCvt _ rows => rows.flatMap fun r => (List.range 64).map fun k => 256 * r + 4 * k
  | .rowFold _ _ rows => rows.flatMap fun p => (List.range 64).map fun k => 256 * p.1 + 4 * k
  | _ => []

/-- Whether a command reads accumulator storage with an uncorrectable error (R183). -/
def State.accBad (s : State) (c : Nat) (b : CmdBody) : Bool :=
  !s.poison.isEmpty && b.accReads.any fun a => s.poisoned (accEcc c a) 4

/-- The Trellis command at the head of a block's queue executed. -/
def State.startTrellis (s : State) (c : Nat) : State :=
  match s.engq c engTrellis with
  | [] => s
  | x :: _ =>
    if x.stopped || x.held then s
    else if s.accBad c x.body then s.stopCmd c engTrellis x localPoison
    else match x.body with
    | .mma form row0 a off scales => s.execMma c x form row0 a off scales
    | .wload w src n => s.runCmd c engTrellis x (n / 16) (wloadUnit c w src)
    | .accZero rows => (s.mapRows c rows fun _ _ => 0).completeCmd c engTrellis x
    | .accRd _ cells =>
      (cells.foldl (fun s p => s.giveReg x.acc p.1 p.2.1 (w32n (s.accm.num (c * 2 ^ 24 + p.2.2) 4))) s).completeCmd
        c engTrellis x
    | .accWr cells =>
      (cells.foldl (fun (s : State) p => { s with accm := s.accm.writeN (c * 2 ^ 24 + p.1) (bytesOfWord p.2) })
        s).completeCmd c engTrellis x
    | .accScale fs =>
      (fs.foldl (fun s p => s.mapRows c [p.1] fun _ e => roundF32 ((f32 e).mul (f32 p.2))) s).completeCmd
        c engTrellis x
    | .accCvt toInt rows =>
      (s.mapRows c rows fun _ e => if toInt then f32ToI32 e else i32ToF32 e).completeCmd c engTrellis x
    | .rowFold sum d rows =>
      let rs := rows.map fun p => (s.rowResult c p.1 sum, p.2)
      (rs.foldl (fun s p => p.2.foldl (fun s t => s.giveReg x.acc t d p.1) s) s).completeCmd c engTrellis x
    | .tstore add rows dst stride fmt res =>
      if add && !isScr dst && x.progress = 0 && s.addsPart c then s
      else s.runCmd c engTrellis x (64 * rows.length) (drainUnit c add rows dst stride fmt res)
    | _ => s.completeCmd c engTrellis x

end Sys2Proof.Machine
end

