-- ==== Sys2Proof/Machine/Graph.lean ====
section
/-! DEFINITION. The dependence graph (R249-R252, R294), guard slots (R251, R295), engine status (R296), the
start of engine commands, and the resuming of stopped ones (R445). -/

namespace Sys2Proof.Machine

/-! ## Node records (R249) -/

/-- Whether the bytes a kind does not use are 0 and its fields in range (R247, R249) (DEDUCED, log entry 46). -/
def nodeOk (bs : List Byte) : Bool :=
  let kind := fieldOf bs 0 1
  let count := fieldOf bs 4 4
  let src := fieldOf bs 8 8
  let dst := fieldOf bs 16 8
  let aux := fieldOf bs 24 8
  let common := bitsOf (fieldOf bs 1 1) 6 3 = 0 && fieldOf bs 3 1 = 0
  let esz := fieldOf bs 2 1
  common && match kind with
  | 1 => esz = 0 && aux = 0 && !badScr src && !badScr dst
  | 2 => esz ≤ 1 && !badScr src && !badScr dst && !badScr aux
  | 3 => esz = 0 && 1 ≤ count && count ≤ 1024 && src < 2 ^ 32 && dst = 0 && aux < 2 ^ 48 && aux % 4 = 0
  | 4 => esz = 0 && count ≤ 1 && src < 2 ^ 19 && aux = 0
  | _ => false

/-- The node of a record. -/
def nodeOf (bs : List Byte) : GNode :=
  { kind := fieldOf bs 0 1, guard := guardOf (fieldOf bs 1 1), esz := fieldOf bs 2 1, count := fieldOf bs 4 4
    src := fieldOf bs 8 8, dst := fieldOf bs 16 8, aux := fieldOf bs 24 8, succ := [], left := 0, phase := 0
    progress := 0, stopped := false, wrote := [] }

/-! ## Running the graph (R250) -/

def State.setGraph (s : State) (c : Nat) (g : List GNode) : State := s.modBlock c fun b => { b with graph := g }

def State.modNode (s : State) (c n : Nat) (f : GNode → GNode) : State :=
  s.modBlock c fun b => { b with graph := b.graph.modify n f }

/-- A node finished: each successor's count falls by 1. -/
def finishNode (g : List GNode) (n : Nat) : List GNode :=
  match g[n]? with
  | none => g
  | some x =>
    x.succ.foldl (fun g v => g.modify v fun y => { y with left := y.left - 1 })
      (g.modify n fun y => { y with phase := 2 })

/-- A node whose count is 0 launches, is discarded as finished under a FALSE guard, or waits under an UNRESOLVED one,
which holds no other node back (R250, R251) (DESIGN CHOICE, log entry 126). -/
def launchNode (b : Block) (g : List GNode) (n : Nat) : List GNode :=
  match g[n]? with
  | none => g
  | some x =>
    if x.phase = 0 && x.left = 0 then
      match b.guardTest x.guard with
      | .hold => g
      | .run => g.modify n fun y => { y with phase := 1 }
      | .discard => finishNode g n
    else g

/-- Every launch that is due, until nothing changes. -/
def launchAll (b : Block) (g : List GNode) : Nat → List GNode
  | 0 => g
  | fuel + 1 => launchAll b ((List.range g.length).foldl (launchNode b) g) fuel

/-- The graph advances: due nodes launch; when every node has finished the graph is finished. -/
def State.graphStep (s : State) (c : Nat) : State :=
  let b := s.block c
  if b.armed then
    let g := launchAll b b.graph (b.graph.length + 1)
    let fin := g.all fun x => x.phase = 2
    s.setBlock c { b with graph := g, armed := !fin, gdone := fin }
  else s

/-- Whether some nodes are reached from node n by edges, within a number of rounds. -/
def reachFrom (g : List GNode) : Nat → List Nat → List Nat
  | 0, ns => ns
  | k + 1, ns => reachFrom g k (distinct (ns ++ ns.flatMap fun n => (g[n]?.map GNode.succ).getD []))

/-- Whether the graph holds a cycle. -/
def cyclic (g : List GNode) : Bool :=
  (List.range g.length).any fun n =>
    (reachFrom g g.length ((g[n]?.map GNode.succ).getD [])).contains n

/-- The copy nodes from which a node is reached, as the serials they wrote (R252). -/
def ancestorWrites (g : List GNode) (n : Nat) : List Nat :=
  ((List.range g.length).filter fun m => (reachFrom g g.length ((g[m]?.map GNode.succ).getD [])).contains n).flatMap
    fun m => match g[m]? with | some x => if x.kind ≤ 2 then x.wrote else [] | none => []

/-- The ancestors' writes as a party that acquired them with {COPY} sees them (R252). -/
def State.ancestorSeen (s : State) (c n : Nat) : List Seen :=
  (ancestorWrites (s.block c).graph n).map fun k => { serial := k, paths := 2 ^ pathCopy, via := viaAny }

/-- A node that has finished, with what it wrote. -/
def State.nodeDone (s : State) (c n : Nat) (wrote : List Nat) : State :=
  let s := s.modNode c n fun y => { y with wrote := y.wrote ++ wrote }
  (s.setGraph c (finishNode (s.block c).graph n)).graphStep c

/-- A fault of a node: on a translation cause it stops, on any other it counts as finished (R250, R445). -/
def State.nodeFault (s : State) (c n : Nat) (x : Cmd) (y : Cmd) (f : MemFault) : State :=
  if f.parks then
    (s.modNode c n fun z => { z with progress := y.progress, stopped := true, wrote := y.wrote, again := false }).engineFault
      x f
  else ((s.modNode c n fun z => { z with wrote := y.wrote }).nodeDone c n []).engineFault x f

/-- A copy node run unit by unit for the group that armed the graph. -/
def State.runCopyNode (s : State) (c n : Nat) (x : Cmd) (g : GNode) (total : Nat)
    (unit : State → Cmd → Nat → Unit_) : State :=
  match s.runUnits { x with progress := g.progress, wrote := g.wrote, acc := { x.acc with again := g.again } } unit (total - g.progress) with
  | (y, none, s) => (s.modNode c n fun z => { z with wrote := y.wrote }).nodeDone c n []
  | (y, some f, s) => s.nodeFault c n x y f

/-- The spawns of a SPAWN node from its progress on; the node finishes when its last has entered a bin (R249). -/
def State.spawnNode (s : State) (c n : Nat) (x : Cmd) (g : GNode) : Nat → State
  | 0 => if (s.block c).overflow.any fun y => y.node = some n then s else s.nodeDone c n []
  | k + 1 =>
    let i := g.count - (k + 1)
    if (s.block c).spawnCount + 1 ≥ 2 ^ 24 then s.nodeFault c n x x (plainFault clsBudget)
    else
      let req : SpawnReq :=
        { entry := BitVec.ofNat 48 g.aux, a := w32n i, b := w32n g.src, id := s.nextSpawnId c }
      match s.trySpawn c { req := req, task := none, frag := none, seen := s.ancestorSeen c n, node := some n } with
      | (false, s) => s
      | (true, s) =>
        let s := s.modBlock c fun b => { b with spawnCount := b.spawnCount + 1 }
        State.spawnNode (s.modNode c n fun z => { z with progress := i + 1 }) c n x g k

/-- A SIGNAL node: a releasing write with mask {COPY} that covers its ancestor copies' writes in the regions
bound to the word (R252); a refusal of its word's ingress is the node's fault (R398, R445). -/
def State.signalNode (s : State) (c n : Nat) (x : Cmd) (g : GNode) : State :=
  let v := (s.tagOf x.thr).1
  if (s.grant v).2 ≤ g.src then s.nodeFault c n x x rangeFault
  else if s.turning v g.src then s
  else
    let obj := objKey 6 0 (s.sigIndex v g.src)
    let ws := (s.ancestorSeen c n).filterMap fun z =>
      match s.writeEv z.serial with
      | some e => if boundTo e.obj obj then some { z with via := obj } else none
      | none => none
    match s.signalGate x.thr g.src (if g.count = 0 then 1 else 2) with
    | (.error f, s) => s.nodeFault c n x x f
    | (.ok _, s) => (s.hubSignal v g.src (g.count ≠ 0) (d64 g.dst) ws).nodeDone c n []

/-- A launched node runs to its end, its fault, or a wait for a bin. -/
def State.runNode (s : State) (c n : Nat) : State :=
  match (s.block c).graph[n]?, (s.block c).garm with
  | some g, some x =>
    if g.phase ≠ 1 || g.stopped then s
    else match g.kind with
    | 1 =>
      if copyAligned g.src g.dst g.count then s.runCopyNode c n x g (g.count / 4) (copyUnit g.src g.dst)
      else s.nodeFault c n x x (plainFault clsAlign)
    | 2 =>
      let e := g.esz + 1
      if !x24Aligned g.src g.dst g.count e then s.nodeFault c n x x (plainFault clsAlign)
      else if !isScr g.dst then s.nodeFault c n x x rangeFault
      else s.runCopyNode c n x g (g.count / 4) (x24Unit g.src g.dst g.aux e)
    | 3 => s.spawnNode c n x g (g.count - g.progress)
    | _ => s.signalNode c n x g
  | _, _ => s

/-- GWAITs whose graph has finished complete, with the graph's writes to be observed (R294, R196). -/
def State.wakeGwait (s : State) (c : Nat) : State :=
  match s.engq c engGraph with
  | [] => s
  | x :: _ =>
    if x.body = .gwait && !x.held && !(s.block c).armed then
      let ws := if (s.block c).gdone then (s.block c).graph.flatMap GNode.wrote else []
      s.completeCmd c engGraph { x with wrote := ws }
    else s

/-- GRAPH_NODE_FINISH (R250). -/
def execGraphNodeFinish (c n : Nat) (s : State) : Out :=
  let t := match (s.block c).garm with | some x => x.thr | none => mkThread c 0 0 0
  .next (if s.enginesRun c then ((s.runNode c n).wakeGwait c).settle t else s)

/-! ## The graph walker's commands (R294) -/

/-- Whether an edge may be added (R250). -/
def edgeOk (g : List GNode) (u v : Nat) : Bool :=
  v < g.length && match g[u]? with
  | some x => !x.succ.contains v && x.succ.length < 8
  | none => false

/-- Whether the walker would run a command at once: its queue is empty, so the graph at issue is the graph
the command finds. -/
def State.walkerIdle (s : State) (c : Nat) : Bool := (s.engq c engGraph).isEmpty

/-- The BUDGET checks of a graph command on the graph it finds (R250, R294) (DEDUCED, log entry 46). -/
def graphOk (b : Block) : CmdBody → Bool
  | .gnode .. => !b.armed
  | .gedge u v => !b.armed && edgeOk b.graph u v
  | .garm => !b.armed && !cyclic b.graph
  | .garmClr => !b.armed
  | _ => true

/-- Whether a graph command raises BUDGET at issue: on any command but GWAIT while the graph is armed and unfinished,
and on what the graph holds where the walker is idle (R294). -/
def State.graphBad (s : State) (c : Nat) (body : CmdBody) : Bool :=
  (body ≠ .gwait && (s.block c).armed) || (s.walkerIdle c && !graphOk (s.block c) body)

/-- A graph command: checked at issue, then entered (R294). -/
def graphWord (sc : Scope) (p lits : Nat) (body : State → Nat → CmdBody) (pre : State → Nat → Option MemFault)
    (s : State) : Out :=
  onIssue s fun i => s.eachOr i sc p lits fun s t =>
    let c := coreOf t
    match pre s t with
    | some f => ranBad s f
    | none =>
      if s.graphBad c (body s t) then ranBad s (plainFault clsBudget)
      else ran (s.enterCmd i sc t engGraph none (body s t))

/-- DEDUCED, log entry 46. -/
def noCheck (_ : State) (_ : Nat) : Option MemFault := none

/-- GNODE's record address: Pair(A) + Sext(literal, 32). -/
def State.nodeAddr (s : State) (t a : Nat) (lit : Word) : Dword := s.pairReg t a + BitVec.ofInt 64 lit.toInt

def execGnode (sc : Scope) (d a : BitVec 7) (p : BitVec 3) (lit : Word) (s : State) : Out :=
  graphWord sc p.toNat 1 (fun s t => .gnode (s.nodeAddr t a.toNat lit).toNat d.toNat)
    (fun s t => if (s.nodeAddr t a.toNat lit).toNat % 8 ≠ 0 then
      some { plainFault clsAlign with va := s.nodeAddr t a.toNat lit } else none) s

def execGedge (sc : Scope) (a b : BitVec 7) (p : BitVec 3) (s : State) : Out :=
  graphWord sc p.toNat 0 (fun s t => .gedge (s.reg t a.toNat).toNat (s.reg t b.toNat).toNat) noCheck s

def execGarm (sc : Scope) (p : BitVec 3) (s : State) : Out :=
  graphWord sc p.toNat 0 (fun _ _ => .garm) noCheck s

def execGarmClr (sc : Scope) (p : BitVec 3) (s : State) : Out :=
  graphWord sc p.toNat 0 (fun _ _ => .garmClr) noCheck s

def execGwait (sc : Scope) (p : BitVec 3) (s : State) : Out :=
  graphWord sc p.toNat 0 (fun _ _ => .gwait) noCheck s

/-- Arming: each node's count becomes its number of incoming edges (R250). -/
def armGraph (g : List GNode) : List GNode :=
  (List.range g.length).filterMap fun n => g[n]?.map fun x =>
    { x with left := (g.filter fun y => y.succ.contains n).length, phase := 0, progress := 0, stopped := false
             wrote := [], again := false }

/-- The graph walker's command at the head of its queue (R294). GARM.CLR sets DONE to 0 (DESIGN CHOICE, log entry
127). -/
def State.startGraph (s : State) (c : Nat) : State :=
  match s.engq c engGraph with
  | [] => s
  | x :: _ =>
    let b := s.block c
    if x.stopped || x.held then s
    else if !graphOk b x.body then s.stopCmd c engGraph x (plainFault clsBudget)
    else match x.body with
    | .gnode addr d =>
      match s.engUnits x pathCopy addr 8 4 with
      | (.error f, s) => s.stopCmd c engGraph x f
      | (.ok bs, s) =>
        if !nodeOk bs || 64 ≤ b.graph.length then s.stopCmd c engGraph x (plainFault clsBudget)
        else
          let s := s.setGraph c ((s.block c).graph ++ [nodeOf bs])
          (s.setReg x.thr (s.landWarps x.thr x.acc) d (w32n b.graph.length)).completeCmd c engGraph x
    | .gedge u v => (s.modNode c u fun y => { y with succ := y.succ ++ [v] }).completeCmd c engGraph x
    | .garm =>
      let s := s.setBlock c { b with graph := armGraph b.graph, armed := true, gdone := false, garm := some x }
      (s.graphStep c).completeCmd c engGraph x
    | .garmClr => (s.setBlock c { b with graph := [], gdone := false, garm := none }).completeCmd c engGraph x
    | _ => s.wakeGwait c

/-! ## Guards and status (R295, R296) -/

def execGset (sc : Scope) (v : BitVec 2) (g : BitVec 3) (s : State) : Out :=
  onIssue s fun i => s.eachOr i sc 0 0 fun s t =>
    let c := coreOf t
    ran (((s.modBlock c fun b => { b with guards := b.guards.put g.toNat v.toNat }).graphStep c).wakeGwait c)

/-- The status words of R269 and R296. -/
def Block.engStat (b : Block) (fil : List Cmd) (n : Nat) : Word :=
  match n with
  | 0 => w32n (b.tstat + (if (b.engq.get engTrellis []).isEmpty then 0 else 1))
  | 1 => w32n ((if b.x24err then 2 else 0) + (if (b.engq.get engCopy []).isEmpty then 0 else 1))
  | 2 =>
    let run := (List.range 4).filter fun k => fil.any fun x => x.body = .filRun k
    let loaded := (List.range 4).filter fun k => (b.slots.find k).isSome
    w32n (16 * maskOf run + maskOf loaded)
  | _ =>
    let left := (b.graph.filter fun x => x.phase ≠ 2).length
    w32n ((if b.armed then 2 ^ 17 else 0) + (if b.gdone then 2 ^ 16 else 0) + b.graph.length * 256
      + (if b.armed then left else 0))

/-- Whether a status word reports its engine idle. -/
def Block.engIdle (b : Block) (fil : List Cmd) (n : Nat) : Bool :=
  match n with
  | 0 => (b.engq.get engTrellis []).isEmpty
  | 1 => (b.engq.get engCopy []).isEmpty
  | 2 => !fil.any fun x => match x.body with | .filRun _ => true | _ => false
  | _ => !b.armed

/-- ENG.STAT: the word, and the observation of an idle engine's completions (R196, R296). -/
def execEngStat (sc : Scope) (d : BitVec 7) (n : BitVec 10) (s : State) : Out :=
  onIssue s fun i => s.eachOr i sc 0 0 fun s t =>
    let c := coreOf t
    let b := s.block c
    let fil := s.engq c engFil
    let s1 := s.setReg t (s.destWarps i sc t) d.toNat (b.engStat fil n.toNat)
    ran (if b.engIdle fil n.toNat then
        (s.tied i sc t).foldl (fun s m => s.observe m fun k => k / 16 = n.toNat) s1
      else s1)

/-! ## Starting and resuming commands -/

/-- ENGINE_COMMAND_START: an engine of a core starts the next command of its block's queue (R239) (DESIGN
CHOICE, log entry 45). -/
def execEngineCommandStart (c e : Nat) (s : State) : Out :=
  let t := match s.engq c e with | x :: _ => x.thr | [] => mkThread c 0 0 0
  .next <| if !s.enginesRun c then s else (match e with
    | 0 => s.startTrellis c
    | 1 => s.startCopy c
    | 2 => s.startFil c
    | 3 => (s.startGraph c).wakeGwait c
    | _ => s).settle t

/-- RESUME reaches the stopped commands and nodes whose issuing group holds a named thread: CONTINUE lets
them go on, SKIP and KILL discard the rest of them (R348, R445). -/
def State.resumeCmds (s : State) (c : Nat) (ts : List Nat) (go : Bool) : State :=
  let mine (x : Cmd) : Bool := x.acc.members.any fun t => ts.contains t
  let s := [engTrellis, engCopy, engFil, engGraph].foldl (fun s e =>
    (s.engq c e).foldl (fun s x =>
      if x.stopped && mine x then
        if go then s.putCmd c e { x with stopped := false, acc := { x.acc with again := true } }
        else match x.body with
          | .filRun slot => s.endSlice c slot x
          | _ => s.completeCmd c e x
      else s) s) s
  match (s.block c).garm with
  | some x =>
    if mine x then
      (List.range (s.block c).graph.length).foldl (fun s n =>
        match (s.block c).graph[n]? with
        | some g =>
          if g.stopped then
            let s := s.modNode c n fun z => { z with stopped := false, again := go }
            if go then s else s.nodeDone c n []
          else s
        | none => s) s
    else s
  | none => s

end Sys2Proof.Machine
end

