-- ==== Sys2Proof/Machine/Par.lean ====
section
/-! DEFINITION. Parallel execution (R145-R161): join masks, barriers, exchange, reductions, sets, quotas,
tiles and yielding. -/

namespace Sys2Proof.Machine

/-! ## Join masks (R146-R149) -/

def execJinit (sc : Scope) (d : BitVec 7) (p : BitVec 3) (s : State) : Out :=
  onIssue s fun i => s.eachOr i sc p.toNat 0 fun s t =>
    let w := warpKeyOf t
    ran (s.modWarp w fun wp => { wp with j := wp.j.put d.toNat (w32n (maskOf ((s.liveOf w).map laneOf))) })

def execJwait (sc : Scope) (d : BitVec 7) (p : BitVec 3) (s : State) : Out :=
  onIssue s fun i => s.eachOr i sc p.toNat 0 fun s t => ran (s.joinWait t d.toNat)

def execJleave (sc : Scope) (l : BitVec 8) (s : State) : Out :=
  onIssue s fun i => s.eachOr i sc 0 0 fun s t => ran (s.joinLeave t (maskBits l.toNat 8))

/-- BRK: the bits clear, then the transfer; other lanes go on (R149). -/
def execBrk (sc : Scope) (j : BitVec 8) (p : BitVec 3) (lit : Word) (s : State) : Out :=
  onIssue s fun i => s.eachOr i sc p.toNat 1 fun s t =>
    let target := i.target lit.toInt
    if s.badTarget t target then (s, some (plainFault clsIllegalClause, target))
    else (s.joinLeave t (maskBits j.toNat 8)).transfer t target

/-! ## Barriers (R150, R151) -/

/-- A barrier word for each thread of the group: ILLEGAL_OP for a number that names no barrier, or for a
warp that is no member (R117, R150) (DEDUCED, log entry 28). -/
def barWord (sc : Scope) (n : Nat) (k : State → Nat → State) (s : State) : Out :=
  onIssue s fun i => s.eachMember i sc 0 fun s t =>
    if n < 28 && s.barMember t n then ran (k s t) else ranBad s (plainFault clsIllegalOp)

def execBarSync (sc : Scope) (b : BitVec 10) (s : State) : Out :=
  barWord sc b.toNat (fun s t => s.barArrive t b.toNat true) s
def execBarArrive (sc : Scope) (b : BitVec 10) (s : State) : Out :=
  barWord sc b.toNat (fun s t => s.barArrive t b.toNat false) s
def execBarWait (sc : Scope) (b : BitVec 10) (s : State) : Out :=
  barWord sc b.toNat (fun s t => s.barWait t b.toNat) s
def execBarInit (sc : Scope) (b : BitVec 10) (s : State) : Out :=
  onIssue s fun i => s.eachOr i sc 0 0 fun s t =>
    if b.toNat < 16 then ran (s.barInit (coreOf t) b.toNat) else ranBad s (plainFault clsIllegalOp)

/-! ## Exchange and reduction (R152-R156) -/

/-- The source of every member in element order: pops happen in that order (R152, R154). -/
def State.readAll (s : State) (i : Issue) (c : Nat) : List Nat → Except MemFault (List (Nat × Word)) × State
  | [] => (.ok [], s)
  | t :: ts =>
    match s.source i t c with
    | (.error f, s') => (.error f, s')
    | (.ok x, s') =>
      match State.readAll s' i c ts with
      | (.error f, s'') => (.error f, s'')
      | (.ok xs, s'') => (.ok ((t, x) :: xs), s'')

/-- SHFL's source lane for a thread: -1 and 32 upward name no lane (R152). -/
def shflSrc (lane : Nat) (b : Word) : Int :=
  let c : Int := (b.extractLsb' 0 5).toNat
  match (b.extractLsb' 5 2).toNat with
  | 0 => c
  | 1 => lane - c
  | 2 => lane + c
  | _ => (lane ^^^ (b.extractLsb' 0 5).toNat : Nat)

/-- The value SHFL gives a thread: the member's in its source lane, or its own (R152). -/
def shflVal (vals : List (Nat × Word)) (t : Nat) (own b : Word) : Word :=
  match vals.find? fun x => (laneOf x.1 : Int) = shflSrc (laneOf t) b with
  | some x => x.2
  | none => own

/-- A value for each participant: a vector destination in each, a uniform one from t0 (R152, R155). -/
def State.giveEach (s : State) (i : Issue) (d : Nat) (rs : List (Nat × Word)) : State :=
  if d < 96 then rs.foldl (fun s x => s.setVec x.1 d x.2) s
  else match rs with
    | (t, x) :: _ => if some t = i.group.head? then s.setReg t (s.dstWarps i t) d x else s
    | [] => s

/-- SHFL (R152). Each member pops a queue port in A and one in B, whatever its guard (DESIGN CHOICE, log entry 122). -/
def execShfl (sc : Scope) (d a b : BitVec 7) (p : BitVec 3) (s : State) : Out :=
  onIssue s fun i =>
    match s.readAll i a.toNat i.group with
    | (.error f, _) => s.raiseMany i sc 0 1 [(i.group.headD 0, (f, 0))]
    | (.ok vals, s') =>
      match s'.readAll i b.toNat i.group with
      | (.error f, _) => s.raiseMany i sc 0 1 [(i.group.headD 0, (f, 0))]
      | (.ok bs, s'') =>
        let rs := ((vals.zip bs).filter fun x => s''.pred x.1.1 p.toNat).map
          fun x => (x.1.1, shflVal vals x.1.1 x.1.2 x.2.2)
        s''.giveEach i d.toNat rs

/-- VOTE's result over the participants' operands (R153). -/
def voteResult (c : Nat) (l : List Bool) : Bool :=
  match c with
  | 0 => l.all id
  | 1 => l.any id
  | _ => l.all id || l.all not

def execVote (_ : Scope) (c pd : BitVec 3) (na : BitVec 1) (pa : BitVec 3) (b : BitVec 7) (p : BitVec 3)
    (s : State) : Out :=
  onIssue s fun i =>
    let ps := s.guarded i p.toNat
    let ballot := ps.filter fun t => s.predOperand t na pa
    let s1 := s.setPreds i.group pd.toNat (voteResult c.toNat (ps.map fun t => s.predOperand t na pa))
    if i.group.isEmpty then s1
    else s1.setReg (i.group.headD 0) (s.dstWarps i (i.group.headD 0)) b.toNat (w32n (maskOf (ballot.map laneOf)))

/-- The step of a reduction function (R154). -/
def reduxStep (md : Modes) (f : Nat) (x y : Word) : Word :=
  match f with
  | 0 => x + y
  | 1 => iminW x y
  | 2 => imaxW x y
  | 3 => if u32 x ≤ u32 y then x else y
  | 4 => if u32 y ≤ u32 x then x else y
  | 5 => x &&& y
  | 6 => x ||| y
  | 7 => x ^^^ y
  | 8 => fadd md x y
  | 9 => fminmax md false x y
  | _ => fminmax md true x y
where
  iminW (x y : Word) : Word := if s32 x ≤ s32 y then x else y
  imaxW (x y : Word) : Word := if s32 y ≤ s32 x then x else y

/-- The identity of a reduction function (R154). -/
def reduxId (f : Nat) : Word :=
  match f with
  | 1 => 0x7FFFFFFF
  | 2 => 0x80000000
  | 3 | 5 => 0xFFFFFFFF
  | 9 | 10 => 0x7FC00000
  | _ => 0

/-- The inclusive prefixes of values from an accumulator (R155, R156). -/
def prefixes (md : Modes) (f : Nat) (r : Word) : List (Nat × Word) → List (Nat × Word)
  | [] => []
  | (t, x) :: rest => let r' := reduxStep md f r x; (t, r') :: prefixes md f r' rest

/-- The fold of the participants' values. -/
def reduxFold (md : Modes) (f : Nat) (l : List (Nat × Word)) : Word :=
  l.foldl (fun r x => reduxStep md f r x.2) (reduxId f)

def execRedux (sc : Scope) (d a f : BitVec 7) (p : BitVec 3) (s : State) : Out :=
  onIssue s fun i =>
    let ps := s.guarded i p.toNat
    match s.readAll i a.toNat ps with
    | (.error e, _) => s.raiseMany i sc 0 1 [(i.group.headD 0, (e, 0))]
    | (.ok vals, s') =>
      let t0 := i.group.headD 0
      let r := reduxFold (s.modes t0) f.toNat vals
      if d.toNat < 96 then ps.foldl (fun s t => s.setVec t d.toNat r) s'
      else if i.group.isEmpty then s'
      else s'.setReg t0 (s'.dstWarps i t0) d.toNat r

def execScan (sc : Scope) (d a f : BitVec 7) (p : BitVec 3) (s : State) : Out :=
  onIssue s fun i =>
    match s.readAll i a.toNat (s.guarded i p.toNat) with
    | (.error e, _) => s.raiseMany i sc 0 1 [(i.group.headD 0, (e, 0))]
    | (.ok vals, s') =>
      if d.toNat < 96 then
        (prefixes (s.modes (i.group.headD 0)) f.toNat (reduxId f.toNat) vals).foldl
          (fun s x => s.setVec x.1 d.toNat x.2) s'
      else s'

/-! ## Sets and quotas (R110, R114, R157, R158) -/

/-- The quota of warp w of a block. -/
def State.quotaOf (s : State) (c w : Nat) : Nat := (s.member c w).quota

/-- Whether set masks keep R110 and R157 for a block of n warps. -/
def setsOk (quota : Nat → Nat) (n : Nat) (masks : List Nat) : Bool :=
  let ms := masks.map fun m => maskBits m 64
  ms.all (fun m => m.length ≤ 8 && m.all fun w => w < n)
    && (let all := ms.flatten; (distinct all).length = all.length)
    && ms.all fun m => match m with | [] => true | w :: r => r.all fun x => quota x = quota w

def execSetdecl (sc : Scope) (a : BitVec 7) (p : BitVec 3) (lit : Word) (s : State) : Out :=
  onIssue s fun i => s.eachOr i sc p.toNat 1 fun s t =>
    let c := coreOf t
    let b := s.block c
    let masks := (List.range 4).map fun k =>
      if lit.getLsbD k then b.sets.getD k 0 else (s.pairReg t (a.toNat + 2 * k)).toNat
    if setsOk (s.quotaOf c) b.nwarps masks then ran (s.setBlock c { b with sets := masks })
    else ranBad s (plainFault clsBudget)

/-- An access made in a warp whose quota falls: results for the registers it loses are discarded, even where a
later move gains the registers back (R114). -/
def Access.lose (w q : Nat) (a : Access) : Access :=
  if a.members.any fun m => warpKeyOf m = w then { a with cuts := a.cuts.put w (min (a.cuts.get w 96) q) } else a

/-- The results still to come of a warp's accesses and commands cut to a new quota (R114). -/
def State.loseResults (s : State) (w q : Nat) : State :=
  let s : State := { s with ops := s.ops.map fun e => (e.1, { e.2 with acc := e.2.acc.lose w q }) }
  let s := s.modBlock (w / 128) fun b => { b with
    engq := b.engq.map fun e => (e.1, e.2.map fun x => { x with acc := x.acc.lose w q }) }
  { s with threads := s.threads.map fun e => (e.1, { e.2 with deferred := e.2.deferred.map (Access.lose w q) }) }

/-- A warp's new quota: vectors at or above it are lost with what is still to come for them, and gained ones read 0
(R114). -/
def State.setQuota (s : State) (w q : Nat) : State :=
  let s := (s.loseResults w q).modWarp w fun wp => { wp with quota := q }
  (List.range 32).foldl (fun s l => s.modThr (w * 32 + l) fun th =>
    { th with v := th.v.filter fun e => e.1 < q }) s

/-- A set member's new quota. -/
def State.setMemberQuota (s : State) (c q : Nat) (n : Nat) : State :=
  match s.memberKey c n with
  | some w => s.setQuota w q
  | none => s.modMember c n fun wp => { wp with quota := q }

/-- The capacity rule of R113 for a core. -/
def State.capacityOk (s : State) (c : Nat) : Bool :=
  (List.range 4).all fun k => s.quotaUsed c k ≤ 32 * (s.block c).vrf

/-- QUOTA: the move of R114, or BUDGET with nothing changed (R158). -/
def execQuota (sc : Scope) (x y : BitVec 2) (n : BitVec 4) (s : State) : Out :=
  onIssue s fun i => s.eachOr i sc 0 0 fun s t =>
    let c := coreOf t
    let b := s.block c
    let src := s.setNumbers c x.toNat
    let dst := s.setNumbers c y.toNat
    let ks := src.length
    let kt := dst.length
    let qs := s.quotaOf c (src.headD 0)
    let qt := s.quotaOf c (dst.headD 0)
    let g := 8 * n.toNat * ks / kt
    if n.toNat ≠ 0 && x ≠ y && ks ≠ 0 && kt ≠ 0 && ks * n.toNat % kt = 0 && g % 8 = 0
        && 8 + 8 * n.toNat ≤ qs && qt + g ≤ 96 then
      let s' := src.foldl (State.setMemberQuota · c (qs - 8 * n.toNat)) s
      let s' := dst.foldl (State.setMemberQuota · c (qt + g)) s'
      if s'.capacityOk c && b.active then ran s' else ranBad s (plainFault clsBudget)
    else ranBad s (plainFault clsBudget)

/-! ## Tiles (R126-R128, R159, R394) -/

/-- Field i's width and extent of a record's work identifier (R126). -/
def Record.fieldList (r : Record) : List (Nat × Nat) :=
  (List.range r.fields).map fun k => (r.widths.getD k 1, r.extents.getD k 0 + 1)

/-- N_work (R126). -/
def Record.nWork (r : Record) : Nat := r.fieldList.foldl (fun n f => n * f.2) 1

/-- The work identifier of a linear index (R126). -/
def workIdOf (fields : List (Nat × Nat)) (q shift : Nat) : Nat :=
  match fields with
  | [] => 0
  | (w, e) :: r => q % e * 2 ^ shift + workIdOf r (q / e) (shift + w)

def Record.workId (r : Record) (l : Nat) : Dword := d64 (workIdOf r.fieldList l 0)

/-- Indices that a die's run still holds. -/
def Run.left (r : Run) : Bool := r.next < r.stop

def Launch.run (x : Launch) (die : Nat) : Run := x.runs.getD die { next := 0, stop := 0 }

/-- The die whose run serves a die's requests: its own; where that is empty, the run of a die on which a restore has
left no block, so that no index is lost (R128, R162) (DEDUCED, log entry 119). -/
def Launch.runDie (x : Launch) (die : Nat) : Nat :=
  if (x.run die).left then die
  else ((List.range 2).find? fun d => (x.run d).left && !x.installed.any fun c => dieOfCore c = d).getD die

/-- Serves a TILE.NEXT from its die's run: an index, the exhausted result, or a wait for a refill. -/
def State.serveTile (s : State) (l die : Nat) : Option (List Word) × State :=
  match s.launch? l with
  | none => (some [0xFFFFFFFF, 0xFFFFFFFF, 1], s)
  | some x =>
    let d := x.runDie die
    let run := x.run d
    if run.left then
      let id := x.record.workId run.next
      (some [loW id, hiW id, 0],
        s.setLaunch l { x with runs := x.runs.set d { run with next := run.next + 1 } })
    else if x.record.nWork ≤ x.homeCounter then (some [0xFFFFFFFF, 0xFFFFFFFF, 1], s)
    else (none, s.setLaunch l { x with refills := x.refills.put die 1 })

/-- A TILE.NEXT that waits served for the die that its block stands on now (R128). -/
def State.serveOp (s : State) (id : Nat) : State :=
  match s.ops.find id with
  | none => s
  | some o =>
    match o.acc.acc, o.result with
    | .tile _ _, none =>
      let r := s.serveTile (s.block (coreOf o.thr)).launch (dieOfCore (coreOf o.thr))
      { r.2 with ops := r.2.ops.put id { o with result := r.1 } }
    | _, _ => s

/-- TILE.NEXT: an operation whose result comes from the dispenser of the executing core's die (R127,
R159). -/
def execTileNext (sc : Scope) (pd : BitVec 3) (a : BitVec 7) (p : BitVec 3) (s : State) : Out :=
  onIssue s fun i =>
    match s.rep i p.toNat with
    | none => s
    | some t =>
      let acc := s.mkAccess i sc t true (.tile a.toNat pd.toNat)
      let s := s.setFlags acc
      let r := s.serveTile (s.block (coreOf t)).launch (dieOfCore (coreOf t))
      r.2.opFor t acc 0 0 r.1

/-- DISPENSER_REFILL: the fetch-and-add of BATCH on the home counter sets the die's run, clamped to
N_work, and the waiting TILE.NEXTs of the die take from it; a saved launch asks again after its restore (R128, R162,
R394) (DEDUCED, log entry 119). -/
def execDispenserRefill (l die : Nat) (s : State) : Out :=
  .next <|
    match s.launch? l with
    | none => s
    | some x =>
      if (x.refills.find die).isSome && die < 2 && x.phase = .running then
        let n := x.record.nWork
        let batch := if x.record.batch = 0 then 64 else x.record.batch
        let run : Run := { next := min x.homeCounter n, stop := min (x.homeCounter + batch) n }
        let s := s.setLaunch l { x with
          homeCounter := x.homeCounter + batch, runs := x.runs.set die run, refills := x.refills.del die }
        (s.ops.filter fun e => (s.block (coreOf e.2.thr)).launch = l && dieOfCore (coreOf e.2.thr) = die).foldl
          (fun s e => s.serveOp e.1) s
      else s

/-! ## Yielding (R161) -/

/-- DEDUCED, log entry 44. -/
def execYield (sc : Scope) (p : BitVec 3) (s : State) : Out :=
  onIssue s fun i =>
    s.modThrs (if sc = .lane then s.guarded i p.toNat else (match s.rep i p.toNat with | some _ => i.group | none => []))
      fun th => { th with yielded := true }

end Sys2Proof.Machine
end

