-- ==== Sys2Proof/Machine/Launch.lean ====
section
/-! DEFINITION. From a launch record to a ticket (R131-R144): reads by the hub, the checks of a record, the
phases of a queue, the ticket, and the choice of the queue that gives up its slot. -/

namespace Sys2Proof.Machine

/-! ## Reads and writes by the hub and the context engine

They walk the tables with the registers as they stand, and read the newest value of memory. -/

/-- Translation of a hub access of n bytes: stage 2 only, or both stages of a context, and the faults of the target,
an I/O target's TYPE among them (DESIGN CHOICE, log entry 41; DESIGN CHOICE, log entry 121). An address with any of bits
[51:48] set is NONCANON, whether stage 2 is on or not (DESIGN CHOICE, log entry 132). -/
def State.hubTranslate (s : State) (v : Nat) (x : Option Nat) (va n : Nat) (kind : AKind) : Got Nat :=
  let s2 := (s.vdev v).s2tb
  if 2 ^ 48 ≤ va then (.error { causeFault clsAccess causeNoncanon with va := d64 va }, s)
  else
    let r := match x with
      | none => s.stage2 s2 (d64 va) kind va
      | some c => s.walkBoth ((s.ctx? v c).map Ctx.ttb |>.getD 0) s2 (d64 va) kind
    match r with
    | (.error f, s) => (.error f, s)
    | (.ok l, s) =>
      match s.reach (d64 va) l.pa n l.mt kind true with
      | (.error f, s) => (.error f, s)
      | (.ok p, s) => (.ok p.1, s)

/-- n bytes of a physical address below a page's end: this module's memory, or values that nothing constrains. -/
def State.physBytes (s : State) (pa n : Nat) : List Byte × State :=
  match targetOf pa with
  | .fabric => s.anyBytes n
  | _ => (s.bytesAt pa n, s)

/-- Bytes read by the hub, page by page (DESIGN CHOICE, log entry 12). -/
def State.hubRead (s : State) (v : Nat) (x : Option Nat) (va : Nat) : Nat → Nat → Got (List Byte)
  | 0, _ => (.ok [], s)
  | fuel + 1, n =>
    if n = 0 then (.ok [], s)
    else
      let k := min n (4096 - va % 4096)
      match s.hubTranslate v x va k .read with
      | (.error f, s) => (.error f, s)
      | (.ok pa, s) =>
        let r := s.physBytes pa k
        match State.hubRead r.2 v x (va + k) fuel (n - k) with
        | (.error f, s) => (.error f, s)
        | (.ok bs, s) => (.ok (r.1 ++ bs), s)

/-- A read of n bytes. -/
def State.hubGet (s : State) (v : Nat) (x : Option Nat) (va n : Nat) : Got (List Byte) :=
  s.hubRead v x va (n / 4096 + 2) n

/-! ## The record (R131, R133) -/

/-- A WAIT or DONE entry: SIG, CODE and VALUE; `none` where it is absent. -/
def entryOf (bs : List Byte) : Option (Nat × Nat × Dword) :=
  let sig := fieldOf bs 0 4
  if bitOf sig 31 then some (sig % 2 ^ 19, fieldOf bs 4 1, d64 (fieldOf bs 8 8)) else none

/-- The 16 bytes of entry k: WAIT0-WAIT3, then DONE. -/
def entryBytes (bs : List Byte) (k : Nat) : List Byte := (bs.drop (168 + 16 * k)).take 16

/-- The record of 256 bytes. -/
def recordOf (bs : List Byte) : Record :=
  { code := fieldOf bs 0 8, args := fieldOf bs 8 8, stack := fieldOf bs 16 8, spstack := fieldOf bs 24 8
    ovfl := fieldOf bs 32 8, regions := fieldOf bs 40 8, barmask := fieldOf bs 48 8, budget := fieldOf bs 56 1
    warps := fieldOf bs 57 1, prio := fieldOf bs 58 1 % 4, fields := fieldOf bs 59 1, part := fieldOf bs 60 4
    batch := fieldOf bs 64 4, spawnT := fieldOf bs 68 2, stackSz := fieldOf bs 70 2, ovflN := fieldOf bs 72 4
    regionN := fieldOf bs 76 4, extents := (List.range 6).map fun k => fieldOf bs (80 + 4 * k) 4
    widths := (List.range 6).map fun k => fieldOf bs (104 + k) 1, argsSz := fieldOf bs 110 2
    cores := fieldOf bs 112 18, sets := (List.range 4).map fun k => fieldOf bs (136 + 8 * k) 8
    waits := (List.range 4).filterMap fun k => entryOf (entryBytes bs k), done := entryOf (entryBytes bs 4) }

/-- The reserved bytes and bits of an entry: all of an absent one, and the unused ones of a present one. -/
def entryRsvOk (bs : List Byte) : Bool :=
  if bitOf (fieldOf bs 0 4) 31 then bitsOf (fieldOf bs 0 4) 30 19 = 0 && fieldOf bs 5 3 = 0
  else bs.all fun b => b = 0

/-- An entry's validity (R133): its index below the granted words, its CODE below a bound. -/
def entryOk (words bound : Nat) (e : Nat × Nat × Dword) : Bool := e.1 < words && e.2.1 < bound

/-- The partition word's fields: VRF, SCR, ACC (R165). -/
def partVrf (p : Nat) : Nat := p % 256
def partScr (p : Nat) : Nat := bitsOf p 15 8
def partAcc (p : Nat) : Nat := bitsOf p 23 16

/-- R165 and the capacity rule of R113 for W warps at a quota. -/
def partOk (p w q : Nat) : Bool :=
  bitsOf p 31 24 = 0 && partAcc p ≤ 92 && partScr p ≤ 92 && partVrf p % 4 = 0 && 4 ≤ partVrf p
    && partVrf p ≤ 48 && partVrf p + partScr p + partAcc p ≤ 96
    && (List.range 4).all fun k => ((List.range w).filter fun n => n % 4 = k).length * q ≤ 32 * partVrf p

/-- FIELDS, widths and extents (R126). -/
def Record.fieldsOk (r : Record) : Bool :=
  1 ≤ r.fields && r.fields ≤ 6
    && (r.widths.take r.fields).all (fun w => 1 ≤ w && w ≤ 32)
    && ((r.extents.take r.fields).zip r.widths).all (fun p => p.1 + 1 ≤ 2 ^ p.2)
    && (r.widths.take r.fields).sum ≤ 64

/-- Checks 1 to 9 of R140: the first that fails. A set mask with its bit 63 set fails check 5 (DESIGN CHOICE, log entry
133). -/
def recordErr (bs : List Byte) (r : Record) (share : List Nat) (sigWords : Nat) : Option Nat :=
  let cores := coresOf r.cores
  let present := r.waits.all (entryOk sigWords 4) && (r.done.toList).all (entryOk sigWords 2)
  let unused := (r.extents.drop r.fields).all (fun n => n = 0) && (r.widths.drop r.fields).all fun n => n = 0
  let rsv := bitsOf (fieldOf bs 58 1) 7 2 = 0 && unused && fieldOf bs 130 6 = 0 && fieldOf bs 248 8 = 0
    && (List.range 5).all fun k => entryRsvOk (entryBytes bs k)
  if r.code % 4 ≠ 0 ∨ 2 ^ 48 ≤ r.code then some 1
  else if r.budget % 8 ≠ 0 ∨ r.budget < 8 ∨ 96 < r.budget ∨ r.warps < 1 ∨ 63 < r.warps then some 2
  else if !partOk r.part r.warps r.budget then some 3
  else if !r.fieldsOk then some 4
  else if !setsOk (fun _ => r.budget) r.warps r.sets then some 5
  else if cores.isEmpty ∨ cores.any (fun c => !share.contains c) then some 6
  else if r.args % 8 ≠ 0 ∨ 4096 < r.argsSz ∨ r.stack % 16 ≠ 0 ∨ r.spstack % 16 ≠ 0
      ∨ (r.ovflN ≠ 0 ∧ r.ovfl % 32 ≠ 0) then some 7
  else if !present then some 8
  else if !rsv then some 9
  else none

/-! ## The region table (R192) -/

def tableRegion (bs : List Byte) : Region :=
  { base := fieldOf bs 0 8, size := fieldOf bs 8 8, obj := w32n (fieldOf bs 16 4) }

/-- Whether an object word names an object of its kind (R190). -/
def State.objWordOk (s : State) (v : Nat) (w : Word) : Bool :=
  let idx := bitsOf w.toNat 18 0
  bitsOf w.toNat 27 19 = 0 && match bitsOf w.toNat 31 28 with
  | 1 => idx < 16
  | 2 => idx < 8
  | 3 => idx < 4
  | 4 => idx < 32
  | 5 => idx < 4096
  | 6 => idx < (s.grant v).2
  | _ => false

def State.regionOk (s : State) (v : Nat) (bs : List Byte) : Bool :=
  let r := tableRegion bs
  r.base % 64 = 0 && r.base < 2 ^ 48 && r.size % 64 = 0 && r.size ≠ 0 && r.base + r.size ≤ 2 ^ 48
    && fieldOf bs 20 12 = 0 && s.objWordOk v r.obj

def regionsOverlap (r q : Region) : Bool := r.base < q.base + q.size && q.base < r.base + r.size

/-- Whether no two regions of a list overlap. -/
def disjointRegions : List Region → Bool
  | [] => true
  | r :: rs => rs.all (fun q => !regionsOverlap r q) && disjointRegions rs

/-- The region table's entries, 32 bytes each. -/
def chunks (k : Nat) (bs : List Byte) : Nat → List (List Byte)
  | 0 => []
  | n + 1 => bs.take k :: chunks k (bs.drop k) n

/-- The region list; `none` is ERR 12. -/
def State.readRegions (s : State) (v x : Nat) (r : Record) : Option (List Region) × State :=
  if 64 < r.regionN then (none, s)
  else match s.hubGet v (some x) r.regions (32 * r.regionN) with
  | (.error _, s) => (none, s)
  | (.ok bs, s) =>
    let es := chunks 32 bs r.regionN
    let rs := es.map tableRegion
    (if es.all (s.regionOk v) && disjointRegions rs then some rs else none, s)

/-! ## A record becomes current (R140) -/

/-- A queue whose ring is overrun (R137). -/
def Queue.overrun (q : Queue) : Bool := q.size < (q.tail + 2 ^ 32 - q.head) % 2 ^ 32

/-- The arguments and the barrier masks, read and held at the check (R134). -/
def State.readArgs (s : State) (v x : Nat) (r : Record) :
    Option (List Byte × List Nat) × State :=
  match s.hubGet v (some x) r.args r.argsSz with
  | (.error _, s) => (none, s)
  | (.ok args, s) =>
    if r.barmask = 0 then (some (args, List.replicate 16 (2 ^ 63 - 1)), s)
    else match s.hubGet v (some x) r.barmask 128 with
    | (.error _, s) => (none, s)
    | (.ok ms, s) => (some (args, (List.range 16).map fun k => fieldOf ms (8 * k) 8), s)

/-- The launch of a checked record. -/
def newLaunch (v q x : Nat) (r : Record) (ceil : Nat) (args : List Byte) (masks : List Nat)
    (regions : List Region) : Launch :=
  { vdev := v, queue := q, ctx := x, record := r, cls := max r.prio ceil, argBytes := args, masks := masks
    regions := regions, latched := r.waits.map fun _ => false, acquired := [], ticket := none, phase := .waiting, cores := []
    reserved := [], installed := [], homeCounter := 0, runs := [{ next := 0, stop := 0 }, { next := 0, stop := 0 }], cbars := [], gbars := [], refills := []
    spec := Spec.empty, pass := none }

/-- RECORD_CHECK (R140): the checks in their order; the first that fails halts the queue (DEDUCED, log entry
75; DEDUCED, log entry 99). -/
def State.checkRecord (s : State) (v q : Nat) : State :=
  let qu := s.queue v q
  let x := qu.ctxid
  if qu.overrun then s.haltQueue v q 10
  else if (s.ctx? v x).isNone then s.haltQueue v q 16
  else match s.hubGet v none (bitsOf qu.ring.toNat 51 12 * 4096 + 256 * (qu.head % qu.size)) 256 with
  | (.error _, s) => s.haltQueue v q 11
  | (.ok bs, s) =>
    let r := recordOf bs
    match recordErr bs r (s.vdev v).shareCores ((s.vdev v).profile.getD 11 0).toNat with
    | some e => s.haltQueue v q e
    | none =>
      match s.readArgs v x r with
      | (none, s) => s.haltQueue v q 11
      | (some (args, masks), s) =>
        match s.readRegions v x r with
        | (none, s) => s.haltQueue v q 12
        | (some regions, s) =>
          let l := s.nextLaunch
          let s := { s.setLaunch l (newLaunch v q x r qu.ceil args masks regions) with nextLaunch := l + 1 }
          (s.modQueue v q fun y => { y with current := some l }).latchLaunch l |>.refusedConds l

/-! ## Pre-emption of a queue (R139, R144) -/

/-- The queue that gives up its slot to a pending one: preemptible, of a class ceiling no higher, the
lowest class first, then the one bound longest (R139). -/
def State.victim (s : State) (v q : Nat) : Option (Nat × Nat) :=
  let mine := s.queue v q
  let cs := s.allQueues.filter fun p =>
    let x := s.queue p.1 p.2
    x.phase = 2 && x.preemptible && mine.ceil ≤ x.ceil
  cs.foldl (fun best p =>
    match best with
    | none => some p
    | some b =>
      let x := s.queue p.1 p.2
      let y := s.queue b.1 b.2
      if y.ceil < x.ceil ∨ (y.ceil = x.ceil ∧ x.bound < y.bound) then some p else some b) none

/-- A queue pre-empted out of its slot: the slot goes to the pending queue whose turn it is, and this queue
becomes PENDING (R138, R144). -/
def State.yieldSlot (s : State) (v q : Nat) : State :=
  let s := (s.modQueue v q fun x => { x with phase := 0, slot := none }).bindNext
  s.modQueue v q fun x => { x with phase := 1 }

/-- Whether a launch is resident: placed, running, or being saved or restored. -/
def Launch.resident (x : Launch) : Bool :=
  match x.phase with
  | .running | .placing | .saving .. | .restoring .. => true
  | _ => false

/-- The resident launch of a queue. -/
def State.residentOf (s : State) (v q : Nat) : Option Nat :=
  match (s.queue v q).current with
  | none => none
  | some l =>
    match s.launch? l with
    | some x => if x.resident then some l else none
    | none => none

/-- Whether a launch's queue lets it start: it is BOUND, and the launch is its current one (R138, R144). -/
def State.mayStart (s : State) (l : Nat) (x : Launch) : Bool :=
  let q := s.queue x.vdev x.queue
  q.phase = 2 && q.current = some l

/-- The cores that a launch is to stand on: its mask when ticketed; when saved, with its queue bound again, those
chosen for the restore (R142, R352) (DEDUCED, log entry 84; DESIGN CHOICE, log entry 114). -/
def State.dueCores (s : State) (l : Nat) (x : Launch) : List Nat :=
  if (s.vdev x.vdev).halted then []
  else match x.phase with
  | .ticketed => coresOf x.record.cores
  | .saved _ =>
    if s.mayStart l x then (if x.cores.isEmpty then (s.restoreCores l x).getD [] else x.cores) else []
  | _ => []

/-- The cores that may be reserved for a launch now: only a BOUND queue starts launches (R138). -/
def State.chosenCores (s : State) (l : Nat) (x : Launch) : List Nat :=
  if s.mayStart l x then s.dueCores l x else []

end Sys2Proof.Machine
end

