-- ==== Sys2Proof/Machine/Raster.lean ====
section
/-! DEFINITION. Drawing: triangles and the pass (R302-R305, R330, R331), the fragment instructions (R329,
R332-R338), tile passes (R306, R307) and the resolve (R311, R312, R315), with the raster faults of R446. -/

namespace Sys2Proof.Machine

/-! ## Exact geometry (R304, R305) -/

/-- The exact value of a finite F32. -/
def ratOf (w : Word) : Option Rat :=
  match f32 w with
  | .fin neg n d => some ((if neg then -(n : Rat) else n) / d)
  | _ => none

/-- A rational as a value to round. -/
def valOf (q : Rat) : FVal := .fin (decide (q < 0)) q.num.natAbs q.den

/-- A point of the target's plane. -/
structure Pt where
  x : Rat
  y : Rat

/-- Twice the signed area of a triangle. -/
def area2 (a b c : Pt) : Rat := (b.x - a.x) * (c.y - a.y) - (c.x - a.x) * (b.y - a.y)

/-- Word k of a list as a number; 0 past the end. -/
def ratAt (ws : List Word) (k : Nat) : Rat := (ratOf (ws.getD k 0)).getD 0

/-- The vertices of a triangle's nine words. -/
def ptAt (ws : List Word) (i : Nat) : Pt := { x := ratAt ws (3 * i), y := ratAt ws (3 * i + 1) }

/-- Twice the signed area of a triangle's nine words. -/
def areaOf (ws : List Word) : Rat := area2 (ptAt ws 0) (ptAt ws 1) (ptAt ws 2)

/-- Whether a triangle is dropped: a NaN or an infinity among its coordinates, a vertex's x and y, no area, or CULL
(R304) (DEDUCED, log entry 66). -/
def dropped (cull : Nat) (ws : List Word) : Bool :=
  ([0, 1, 3, 4, 6, 7].any fun k => (ratOf (ws.getD k 0)).isNone) || areaOf ws = 0 || (cull = 1 && areaOf ws < 0)
    || (cull = 2 && 0 < areaOf ws)

/-- The vertex numbers of a triangle, ordered so that its area is positive. -/
def windOf (ws : List Word) : List Nat := if areaOf ws < 0 then [0, 2, 1] else [0, 1, 2]

/-- Whether a point on or inside an edge is covered by it. -/
def edgeCovers (a b p : Pt) : Bool :=
  let e := area2 a b p
  0 < e || (e = 0 && (b.y < a.y || (b.y = a.y && a.x < b.x)))

/-- The centre of a pixel. -/
def centre (x y : Nat) : Pt := { x := x + 1 / 2, y := y + 1 / 2 }

/-- Whether a triangle covers a pixel (R305). -/
def covers (ws : List Word) (x y : Nat) : Bool :=
  match (windOf ws).map (ptAt ws) with
  | [a, b, c] => edgeCovers a b (centre x y) && edgeCovers b c (centre x y) && edgeCovers c a (centre x y)
  | _ => false

/-- The barycentric weights of the vertices in the order of `windOf`. -/
def weights (ws : List Word) (x y : Nat) : List Rat :=
  match (windOf ws).map (ptAt ws) with
  | [a, b, c] =>
    let n := area2 a b c
    let p := centre x y
    [area2 b c p / n, area2 c a p / n, area2 a b p / n]
  | _ => []

/-- The interpolation of one word of each vertex: `at_` gives vertex i's word. -/
def interpolate (ws : List Word) (x y : Nat) (at_ : Nat → Word) : Word :=
  roundF32 (((windOf ws).zip (weights ws x y)).foldl (fun v p => v.add ((f32 (at_ p.1)).mul (valOf p.2)))
    (.fin false 0 1))

/-! ## The pass (R302, R330) -/

/-- The descriptor's address: the argument at constant offset 0. -/
def Launch.descAddr (x : Launch) : Nat := fieldOf x.argBytes 0 8

def Pass.binbuf (p : Pass) : Nat := fieldOf p.desc 0 8
def Pass.binsz (p : Pass) : Nat := fieldOf p.desc 8 4
def Pass.targetH (p : Pass) : Nat := fieldOf p.desc 12 2
def Pass.zvalid (p : Pass) : Bool := bitOf (fieldOf p.desc 16 4) 31
def Pass.zsurfH (p : Pass) : Nat := fieldOf p.desc 16 2
def Pass.frag (p : Pass) : Nat := fieldOf p.desc 24 8
def Pass.cull (p : Pass) : Nat := fieldOf p.desc 33 1
def Pass.loadc (p : Pass) : Bool := bitOf p.flags 0
def Pass.loadz (p : Pass) : Bool := bitOf p.flags 1
def Pass.clearc (p : Pass) : Word := w32n (fieldOf p.desc 36 4)
def Pass.clearz (p : Pass) : Word := w32n (fieldOf p.desc 40 4)

/-- An absent surface entry. -/
def noSurf : Nat := 0xFF * 2 ^ 128

/-- The entry of a handle as a virtual device's contexts reach it; absent where they do not. -/
def State.entryFor (s : State) (v h : Nat) : Nat :=
  match s.surface v h with
  | some _ => s.bezel.surf h
  | none => noSurf

/-- Whether a descriptor keeps the table of R302. -/
def State.descOk (s : State) (v scratch : Nat) (p : Pass) : Bool :=
  let d := p.desc
  let tgt := surfOf (s.entryFor v p.targetH)
  let zs := if p.zvalid then surfOf (s.entryFor v p.zsurfH) else none
  p.binbuf % 64 = 0 && p.binsz % 64 = 0 && fieldOf d 14 2 = 0 && bitsOf (fieldOf d 16 4) 30 16 = 0
    && p.tboff % 128 = 0 && p.tboff + 8192 ≤ scratch && p.vars ≤ 16 && p.cull ≤ 2 && p.flags < 16
    && fieldOf d 35 1 = 0 && fieldOf d 44 52 = 0
    && (match tgt with | some x => x.fmt = 0 | none => true)
    && (match zs with
      | some z => z.fmt = 2 && (match tgt with | some x => z.w = x.w && z.h = x.h | none => true)
      | none => true)

/-- Bytes of a descriptor read on the LANE path, page by page. -/
def State.laneRead (s : State) (t va : Nat) : Nat → Nat → Except MemFault (List Byte) × State
  | 0, _ => (.ok [], s)
  | fuel + 1, n =>
    if n = 0 then (.ok [], s)
    else
      let k := min n (8 - va % 8)
      match s.translate t (d64 va) k .read true with
      | (.error f, s) => (.error f, s)
      | (.ok (pa, _), s) =>
        let r := s.readPhys t pathLane (s.regionObj t va) pa k s.serial
        match State.laneRead r.2 t (va + k) fuel (n - k) with
        | (.error f, s) => (.error f, s)
        | (.ok bs, s) => (.ok (r.1 ++ bs), s)

/-- The read that opens the pass: a fault of the read, which parks the lane whatever its cause (R330), or of a descriptor
that breaks the table (DEDUCED, log entry 67). -/
def State.openPass (s : State) (t : Nat) : Option MemFault × State :=
  match s.launch? (s.launchOf t) with
  | none => (some (plainFault clsBudget), s)
  | some x =>
    if isAgent t || x.record.argsSz < 8 then (some (plainFault clsBudget), s)
    else match s.laneRead t x.descAddr 97 96 with
    | (.error f, s) => (some { f with soft := true }, s)
    | (.ok bs, s) =>
      let p : Pass :=
        { desc := bs, target := s.entryFor x.vdev (fieldOf bs 12 2)
          zsurf := if bitOf (fieldOf bs 16 4) 31 then s.entryFor x.vdev (fieldOf bs 16 2) else noSurf, prims := [], binUsed := 0, frags := 0
          discards := 0, cmperr := false, targeterr := false, spawnlim := false, logged := false, finished := false }
      if s.descOk x.vdev (s.scratchSize t) p then
        (none, s.modLaunch (s.launchOf t) fun y => { y with pass := some p })
      else (some (plainFault clsBudget), s)

/-! ## Tesserae (R305) -/

/-- The target's size as the pass opened; 0 where it was absent. -/
def Pass.width (p : Pass) : Nat := ((surfOf p.target).map Surf.w).getD 0
def Pass.height (p : Pass) : Nat := ((surfOf p.target).map Surf.h).getD 0
/-- Tesserae in a row, and in all. -/
def Pass.tw (p : Pass) : Nat := (p.width + 31) / 32
def Pass.tessCount (p : Pass) : Nat := p.tw * ((p.height + 31) / 32)

/-- The pixels of a tessera inside the target, by ascending 32y + x. -/
def Pass.pixels (p : Pass) (n : Nat) : List (Nat × Nat) :=
  ((List.range 1024).map fun k => (32 * (n % p.tw) + k % 32, 32 * (n / p.tw) + k / 32)).filter
    fun q => q.1 < p.width && q.2 < p.height

/-- The tesserae that a triangle touches. -/
def Pass.touched (p : Pass) (ws : List Word) : List Nat :=
  (List.range p.tessCount).filter fun n => (p.pixels n).any fun q => covers ws q.1 q.2

/-! ## PRIM.EMIT and ATTR.EMIT (R304, R330, R331) -/

/-- A thread of a spawned warp. -/
def State.isSpawned (s : State) (t : Nat) : Bool := (s.warp (warpKeyOf t)).spawned

/-- The staged attribute words of a thread, VARS for each vertex. -/
def Thread.stagedWords (th : Thread) (vars : Nat) : List Word :=
  (List.range (3 * vars)).map fun k => th.staged.get (16 * (k / vars) + k % vars) 0

/-- One triangle under an open pass: dropped, past BINSZ, or emitted; the binner's bytes remain to be
written (R304) (DEDUCED, log entry 70). -/
def State.emit (s : State) (t : Nat) (p : Pass) (ws : List Word) : Ran :=
  let clear (s : State) : State := s.modThr t fun th => { th with staged := [] }
  if dropped p.cull ws then ran (clear s)
  else
    let need := 48 + 12 * p.vars + 8 * (p.touched ws).length
    if p.binsz < p.binUsed + need then ranBad s (plainFault clsBudget)
    else
      let prim : Prim := { xyz := ws, attrs := (s.thr t).stagedWords p.vars }
      let s := s.modLaunch (s.launchOf t) fun x =>
        { x with pass := some { p with prims := p.prims ++ [prim], binUsed := p.binUsed + need } }
      let s := s.modBlock (coreOf t) fun b => { b with binWork := b.binWork ++ [(p.binbuf + p.binUsed, need)] }
      ran (clear s)

/-- PRIM.EMIT of one thread (DEDUCED, log entry 70). -/
def State.primOne (s : State) (a : Nat) (t : Nat) : Ran :=
  if s.isSpawned t then ranBad s (plainFault clsIllegalOp)
  else match s.passOf (s.launchOf t) with
  | some p => s.emit t p (s.regRun t a 9)
  | none => ran s

/-- PRIM.EMIT: a clause that holds one starts only where no ordering instruction of its threads is outstanding (R216), so
that it reads and emits at once (R330). -/
def execPrimEmit (sc : Scope) (a : BitVec 7) (p : BitVec 3) (s : State) : Out :=
  onIssue s fun i =>
    let ts := (s.actors i sc p.toNat).filter fun t => !s.isSpawned t
    let r := match ts with
      | t :: _ => if (s.passOf (s.launchOf t)).isNone then s.openPass t else (none, s)
      | [] => (none, s)
    match r.1 with
    | none => r.2.eachOr i sc p.toNat 0 fun s t => s.primOne a.toNat t
    | some f => r.2.eachOr i sc p.toNat 0 fun s t => ranBad s (if s.isSpawned t then plainFault clsIllegalOp else f)

/-- ATTR.EMIT of one thread. -/
def State.attrOne (s : State) (i : Issue) (a v k : Nat) (t : Nat) : Ran :=
  if s.isSpawned t || 3 ≤ v then ranBad s (plainFault clsIllegalOp)
  else match s.source i t a with
  | (.error f, s) => ranBad s f
  | (.ok x, s) => ran (s.modThr t fun th => { th with staged := th.staged.put (16 * v + k) x })

def execAttrEmit (sc : Scope) (a : BitVec 7) (v : BitVec 2) (k : BitVec 4) (p : BitVec 3) (s : State) : Out :=
  onIssue s fun i => s.eachOr i sc p.toNat 0 fun s t => s.attrOne i a.toNat v.toNat k.toNat t

/-! ## Fragment words (R329, R332, R335-R337) -/

/-- A fragment-only word; ILLEGAL_OP in any other thread. -/
def prepFrag (k : State → Issue → Nat → Prepared × State) (s : State) (i : Issue) (t : Nat) : Prepared × State :=
  if (s.thr t).frag.isSome then k s i t else (.error (plainFault clsIllegalOp), s)

/-- An access made from one source operand. -/
def prepSrc (a : BitVec 7) (mk : Word → Acc) (s : State) (i : Issue) (t : Nat) : Prepared × State :=
  match s.source i t a.toNat with
  | (.error f, s) => (.error f, s)
  | (.ok x, s) => (.ok (mk x), s)

def execAttrIn (sc : Scope) (d c : BitVec 7) (p : BitVec 3) (s : State) : Out :=
  memWord sc p.toNat true (prepFrag fun s _ _ =>
    if c.toNat ≤ 16 then (.ok (.attrIn c.toNat d.toNat), s) else (.error (plainFault clsIllegalOp), s)) s
def execTbLd (sc : Scope) (d : BitVec 7) (w1 : BitVec 1) (p : BitVec 3) (s : State) : Out :=
  memWord sc p.toNat true (prepFrag fun s _ _ => (.ok (.tbLd w1.toNat d.toNat), s)) s
def execTbSt (sc : Scope) (a : BitVec 7) (w1 : BitVec 1) (p : BitVec 3) (s : State) : Out :=
  memWord sc p.toNat false (prepFrag (prepSrc a fun x => .tbSt w1.toNat x)) s
def execTbBlend (sc : Scope) (a : BitVec 7) (p : BitVec 3) (s : State) : Out :=
  memWord sc p.toNat false (prepFrag (prepSrc a fun x => .tbBlend [x])) s
def execDepthT (sc : Scope) (c pd : BitVec 3) (a : BitVec 7) (p : BitVec 3) (s : State) : Out :=
  memWord sc p.toNat true (prepFrag (prepSrc a fun x => .depthT c.toNat pd.toNat x)) s

/-- FRAG.KILL ends a fragment thread as EXIT does (R336). -/
def execFragKill (sc : Scope) (p : BitVec 3) (s : State) : Out :=
  onIssue s fun i => (s.eachOr i sc p.toNat 0 fun s t =>
    if (s.thr t).frag.isSome then s.leave t else ranBad s (plainFault clsIllegalOp)).settle (i.group.headD 0)

/-! ## TEX (R318, R333) and HALL.Q (R338) -/

/-- The records of one TEX issue: the lowest denied home lane's, and a count of the others (R318). -/
def State.texRecords (s : State) (ts : List Nat) (h : Nat) : State :=
  let ds := ts.filterMap fun t => (s.texDenied (s.tagOf t).1 (s.ownerOf t) h).map fun k => (t, k)
  match ds with
  | [] => s
  | (t, k) :: r =>
    (s.tmLog (s.tagOf t).1 (tmRecord k (s.ownerOf t) 0 0 0 0 h)).tmMiss (s.tagOf t).1 r.length

/-- A TEX lane: its decision is made now, and a denied lane keeps an absent entry. -/
def prepTex (form : Nat) (d a : BitVec 7) (lit : Word) (s : State) (_ : Issue) (t : Nat) : Prepared × State :=
  let h := lit.toNat % 2 ^ 16
  let ent := if (s.texDenied (s.tagOf t).1 (s.ownerOf t) h).isNone then s.bezel.surf h else noSurf
  let uv := s.pairReg t a.toNat
  (.ok (.tex form ent (loW uv) (hiW uv) (bitsOf lit.toNat 17 16) d.toNat), s)

/-- A TEX word. -/
def texWord (form : Nat) (sc : Scope) (d a : BitVec 7) (p : BitVec 3) (lit : Word) (s : State) : Out :=
  memWord sc p.toNat true (prepTex form d a lit)
    (match s.issue with
      | some i => s.texRecords (s.actors i sc p.toNat) (lit.toNat % 2 ^ 16)
      | none => s)

def execTexS (sc : Scope) (d a : BitVec 7) (p : BitVec 3) (lit : Word) (s : State) : Out := texWord 0 sc d a p lit s
def execTexL (sc : Scope) (d a : BitVec 7) (p : BitVec 3) (lit : Word) (s : State) : Out := texWord 1 sc d a p lit s
def execTexF (sc : Scope) (d a : BitVec 7) (p : BitVec 3) (lit : Word) (s : State) : Out := texWord 2 sc d a p lit s
def execTexG (sc : Scope) (d a : BitVec 7) (p : BitVec 3) (lit : Word) (s : State) : Out := texWord 3 sc d a p lit s

def execHallQPix (sc : Scope) (d a : BitVec 7) (p : BitVec 3) (s : State) : Out :=
  memWord sc p.toNat true (fun s _ t => (.ok (.hallPix (s.pairReg t a.toNat) d.toNat), s)) s
def execHallQGrant (sc : Scope) (d a : BitVec 7) (p : BitVec 3) (s : State) : Out :=
  memWord sc p.toNat true (prepSrc a fun x => .hallGrant x d.toNat) s

/-! ## The raster unit's own accesses (R311, R446) -/


/-- A thread number that names a core's raster unit for its translations and its reads: no thread has it, and its place
keeps what the unit sees (R202). -/
def rasterThread (c : Nat) : Nat := mkThread c 63 1 31

/-- One piece of a raster write at its physical place. -/
def State.rasPut (s : State) (c pa : Nat) (bs : List Byte) : State :=
  s.putPhys (rasterParty c) pathRas (s.defaultObj (rasterThread c)) (s.block c).owner.toNat pa bs

/-- A write on the RAS path at an intermediate address. It is translated in each page that it reaches, and nothing of
it is written where one of them faults (R311, R446) (DEDUCED, log entry 50). -/
def State.rasWrite (s : State) (c ia : Nat) (bs : List Byte) : Option MemFault × State :=
  let root := s.rootOf (rasterThread c)
  let n := min bs.length (4096 - ia % 4096)
  match s.stage2Place root ia n .write with
  | (.error f, s) => (some f, s)
  | (.ok (pa, _), s) =>
    if n = bs.length then (none, s.rasPut c pa bs)
    else match s.stage2Place root (ia + n) (bs.length - n) .write with
    | (.error f, s) => (some f, s)
    | (.ok (qa, _), s) => (none, (s.rasPut c pa (bs.take n)).rasPut c qa (bs.drop n))

/-- One piece of a raster write at a global address, at its physical place. -/
def State.rasPutGlobal (s : State) (c va pa : Nat) (bs : List Byte) : State :=
  s.putPhys (rasterParty c) pathRas (s.regionObj (rasterThread c) va) (s.block c).owner.toNat pa bs

/-- A write on the RAS path at a global address of the launch's context. It is translated in each page that it reaches,
and nothing of it is written where one of them faults; a replay walks again (R179, R302, R446). -/
def State.rasGlobal (s : State) (c va : Nat) (bs : List Byte) : Option MemFault × State :=
  let t := rasterThread c
  let n := min bs.length (4096 - va % 4096)
  let again := (s.block c).rwalk
  match s.translate t (d64 va) n .write true again with
  | (.error f, s) => (some f, s)
  | (.ok (pa, _), s) =>
    if n = bs.length then (none, s.rasPutGlobal c va pa bs)
    else match s.translate t (d64 (va + n)) (bs.length - n) .write true again with
    | (.error f, s) => (some f, s)
    | (.ok (qa, _), s) => (none, (s.rasPutGlobal c va pa (bs.take n)).rasPutGlobal c (va + n) qa (bs.drop n))

/-- A fault of a core's raster work: one record that names no thread, and the work stands still (R446). -/
def State.rasFault (s : State) (c : Nat) (detail : Nat) (f : MemFault) : State :=
  let r : FaultRec :=
    { cls := f.cls, cause := f.cause, stage := f.stage, level := f.level, walk := f.walk, scope := .lane, word := 0
      warp := 0, swcode := 0, lanes := 0, warpId := 0, pc := 0, va := f.recordVa, ia := f.ia, detail := d64 detail }
  (s.modBlock c fun b => pushRecs { b with rfault := some f.parks, rwalk := false } [r]).startHandler c

/-- The binner's waiting bytes written in pieces of at most 64, their values open (R302, R304) (DESIGN CHOICE,
log entry 20). -/
def State.binStep (s : State) (c : Nat) : Nat → State
  | 0 => s
  | fuel + 1 =>
    match (s.block c).binWork with
    | [] => s
    | (a, n) :: r =>
      let k := min n (64 - a % 64)
      let bs := s.anyBytes k
      match bs.2.rasGlobal c a bs.1 with
      | (some f, s) => s.rasFault c 0 f
      | (none, s) =>
        (s.modBlock c fun b =>
          { b with binWork := if n ≤ k then r else (a + k, n - k) :: r, rwalk := false }).binStep c fuel

/-! ## The start of a tile pass (R306, R307) -/

/-- Whether an entry's surface may be written by the context of a core's block. -/
def State.mayWrite (s : State) (c : Nat) (ent : Nat) : Option Surf :=
  match surfOf ent with
  | some x => if x.vdev = (s.block c).vdev && (x.owner = (s.block c).owner.toNat || x.owner = 255) then some x else none
  | none => none

/-- Whether a launch's geometry has ended: every non-spawned thread has exited, and the binner is done (R303). -/
def State.geometryDone (s : State) (x : Launch) : Bool :=
  x.installed.all fun c => (s.block c).binWork.isEmpty
    && (s.threads.all fun e => !(userThread c e.1 && bankOf e.1 = 0 && e.2.live && !s.isSpawned e.1))

/-- The tessera that a block takes next, of those assigned to it (R305). -/
def State.nextTessOf (s : State) (c : Nat) (x : Launch) (p : Pass) : Option Nat :=
  let n := (s.block c).rank + x.installed.length * (s.block c).nextTess
  if n < p.tessCount then some n else none

/-- The fragments of a tessera: by ascending primitive, then by ascending 32y + x (R307). They start at the low 48 bits of
FRAG, whatever its other bits hold (DESIGN CHOICE, log entry 125). -/
def Pass.fragments (p : Pass) (n : Nat) : List Spawned :=
  ((List.range p.prims.length).flatMap fun k =>
    match p.prims[k]? with
    | none => []
    | some t => (p.pixels n).filterMap fun q =>
      if covers t.xyz q.1 q.2 then
        some
          { req := { entry := BitVec.ofNat 48 p.frag, a := w32n (q.1 + 65536 * q.2), b := w32n k, id := 0 }
            task := none, seen := []
            frag := some
              { x := q.1, y := q.2, prim := k, z := interpolate t.xyz q.1 q.2 fun i => t.xyz.getD (3 * i + 2) 0
                attrs := (List.range p.vars).map fun j =>
                  interpolate t.xyz q.1 q.2 fun i => t.attrs.getD (i * p.vars + j) 0 } }
      else none)

/-- The number of a pixel in its tessera. -/
def pixNo (q : Nat × Nat) : Nat := 32 * (q.2 % 32) + q.1 % 32

/-- The scratchpad address of a pixel's colour (0) or depth (1) word. -/
def tbAddr (c : Nat) (p : Pass) (half n : Nat) : Nat := scratchAddr c (p.tboff + 4 * n + 4096 * half)

/-- A tile-buffer word written by the raster unit. -/
def State.tbFill (s : State) (c : Nat) (p : Pass) (half n : Nat) (x : Word) : State :=
  s.write (rasterParty c) pathRas (scratchObj c) (tbAddr c p half n) (bytesOfWord x)

/-- A tile-buffer word as the raster unit reads it: it sees every write of the tessera's fragments (R329). -/
def State.tbGet (s : State) (c : Nat) (p : Pass) (half n : Nat) : Word :=
  w32n (natOfBytes (s.bytesAt (tbAddr c p half n) 4))

/-- The 8×8 blocks of a list of pixels, by the first pixel that lies in each. -/
def blocksOf (ps : List (Nat × Nat)) : List (Nat × Nat) :=
  distinctPairs (ps.map fun q => (q.1 / 8 * 8, q.2 / 8 * 8))
where
  distinctPairs (l : List (Nat × Nat)) : List (Nat × Nat) :=
    l.foldl (fun acc x => if acc.contains x then acc else acc ++ [x]) []

/-- The 64 pixels of a block (DEDUCED, log entry 68). -/
def blockPixels (b : Nat × Nat) : List (Nat × Nat) := (List.range 64).map fun i => (b.1 + i % 8, b.2 + i / 8)

/-- A unit of the raster unit's reads and writes. -/
inductive RUnit where
  /-- a pixel of a surface into or out of a half of the tile buffer -/
  | pixel (half : Nat) (x : Surf) (q : Nat × Nat)
  /-- a compressed block, by its first pixel -/
  | cblock (x : Surf) (q : Nat × Nat)
  /-- a written pixel of a screen target, with its map entry -/
  | screen (q : Nat × Nat) (ent : Nat)

/-- The units of one surface (DEDUCED, log entry 69). -/
def unitsOf (half : Nat) (x : Surf) (ps : List (Nat × Nat)) : List RUnit :=
  let ps := ps.filter fun q => q.1 < x.w && q.2 < x.h
  if x.cmp then (blocksOf ps).map (RUnit.cblock x) else ps.map (RUnit.pixel half x)

/-- The reads of a tile start (R306). A screen surface has no pixels of its own, so none of a ZSURF of that kind is
read or written (R301) (DEDUCED, log entry 69). -/
def State.startUnits (s : State) (c : Nat) (p : Pass) (z : Tile) : List RUnit :=
  let ps := p.pixels z.tess
  let colour := match s.mayWrite c z.target with
    | some x => if p.loadc && !x.screen then unitsOf 0 x ps else []
    | none => []
  let depth := match s.mayWrite c z.zsurf with
    | some x => if p.loadz && !x.screen then unitsOf 1 x ps else []
    | none => []
  colour ++ depth

/-- One read of a tile start: the words go into the tile buffer. -/
def State.startUnit (s : State) (c : Nat) (p : Pass) : RUnit → Option MemFault × State
  | .pixel half x q =>
    match s.rasBytes (rasterThread c) (x.pixel q.1 q.2) 4 with
    | (.error f, s) => (some f, s)
    | (.ok bs, s) => (none, s.tbFill c p half (pixNo q) (w32n (natOfBytes bs)))
  | .cblock x q =>
    match s.readBlock (rasterThread c) (x.slot q.1 q.2) with
    | (.error f, s) => (some f, s)
    | (.ok (ws, bad), s) =>
      let s := if bad then s.setCmpErr (s.block c).launch else s
      (none, ((blockPixels q).zip ws).foldl (fun s e => s.tbFill c p 0 (pixNo e.1) (w32n e.2)) s)
  | .screen .. => (none, s)

/-- DETAIL of a tessera's raster fault. -/
def Pass.tessDetail (p : Pass) (n : Nat) : Nat := n % p.tw + 65536 * (n / p.tw)

/-- Units run from the one that the tile has reached, until one faults. -/
def State.rasterUnits (s : State) (c : Nat) (p : Pass) (z : Tile) (run : State → RUnit → Option MemFault × State) :
    List RUnit → State
  | [] => s
  | u :: r =>
    match run s u with
    | (some f, s) => s.rasFault c (p.tessDetail z.tess) f
    | (none, s) =>
      State.rasterUnits (s.modBlock c fun b => { b with tile := b.tile.map fun z => { z with unit := z.unit + 1 } })
        c p z run r

/-- The entry of a pass's surface as it stands: one that was absent as the pass opened stays absent for it (R302)
(DEDUCED, log entry 67). -/
def State.entryNow (s : State) (v opened h : Nat) : Nat := if (surfOf opened).isSome then s.entryFor v h else noSurf

/-- The tile buffer at its start values, and the entries latched (R306). A layer's surface that the context does not
reach is absent (R301, R315) (DEDUCED, log entry 67). -/
def State.beginTile (s : State) (c : Nat) (x : Launch) (p : Pass) (n : Nat) : State :=
  let tgt := s.entryNow x.vdev p.target p.targetH
  let zs := s.entryNow x.vdev p.zsurf p.zsurfH
  let screen := ((surfOf tgt).map Surf.screen).getD false
  let disp := ((surfOf tgt).map Surf.disp).getD 0
  let s := (List.range 1024).foldl (fun s k =>
    (s.tbFill c p 0 k (if screen then 0 else p.clearc)).tbFill c p 1 k p.clearz) s
  let layer := (s.layerFor disp (s.block c).owner.toNat).map fun e => s.entryFor x.vdev (laySurf e.1)
  let entries := (p.pixels n).map fun q => s.mapEntry disp q.1 q.2
  let z : Tile :=
    { tess := n, target := tgt, zsurf := zs, entries := if screen then entries else []
      layer := if screen then layer else none, written := [], pend := [], started := false, unit := 0
      discarded := 0 }
  s.modBlock c fun b => { b with nextTess := b.nextTess + 1, tile := some z }

/-- The start's reads from the unit reached; with the last of them done, the fragments are spawned. -/
def State.startTile (s : State) (c : Nat) (p : Pass) : State :=
  match (s.block c).tile with
  | none => s
  | some z =>
    let s := s.rasterUnits c p z (fun s u => s.startUnit c p u) ((s.startUnits c p z).drop z.unit)
    if (s.block c).rfault.isNone then
      (s.modBlock c fun b => { b with tile := b.tile.map fun z =>
        { z with started := true, unit := 0, pend := p.fragments z.tess } }).feedAll c
    else s

/-- Whether the tessera's display has a fill under way: the latch waits for its end (R322). -/
def State.fillRuns (s : State) (d : Nat) : Bool :=
  match s.bezel.fills with
  | f :: _ => f.disp = d
  | [] => false

/-- TILE_PASS_START: the binner's work goes on; with the geometry ended, the block's next tessera starts, or its
start goes on (R303, R306). -/
def execTilePassStart (c : Nat) (s : State) : Out :=
  .next <|
    if s.drains (s.block c).vdev then s else
    let b := s.block c
    match s.launch? b.launch with
    | none => s
    | some x =>
      match x.pass with
      | none => s
      | some p =>
        if x.phase ≠ .running || b.rfault.isSome || p.finished then s
        else if !b.binWork.isEmpty then s.binStep c ((b.binWork.map fun w => w.2 / 64 + 2).sum)
        else match b.tile with
        | some z => if z.started then s else s.startTile c p
        | none =>
          match s.nextTessOf c x p with
          | none => s
          | some n =>
            let e := surfOf (s.entryNow x.vdev p.target p.targetH)
            if !s.geometryDone x || (e.any fun y => y.screen && s.fillRuns y.disp) then s
            else (s.beginTile c x p n).startTile c p

/-! ## Compressed blocks (R312) -/

/-- Channel c of a pixel. -/
def chanN (p c : Nat) : Nat := p / 256 ^ c % 256

/-- The least width that holds a number. -/
def widthOf (n : Nat) : Nat := ((List.range 9).find? fun w => n < 2 ^ w).getD 8

/-- The bytes of a block of 64 pixels (DEDUCED, log entry 68). -/
def encodeBlock (ps : List Nat) : List Byte :=
  let base := (List.range 4).map fun c => ps.foldl (fun m p => min m (chanN p c)) 255
  let ws := (List.range 4).map fun c => widthOf (ps.foldl (fun m p => max m (chanN p c - base.getD c 0)) 0)
  if ps.all fun p => p = ps.headD 0 then 1 :: bytesOfNat 4 (ps.headD 0)
  else if 7 + 8 * ws.sum < 257 then
    let stream := (List.range 4).foldl (fun n c =>
      let before := 64 * (ws.take c).sum
      ((List.range 64).zip ps).foldl (fun n e =>
        n + (chanN e.2 c - base.getD c 0) * 2 ^ (before + e.1 * ws.getD c 0)) n) 0
    2 :: (base.map (BitVec.ofNat 8) ++ [BitVec.ofNat 8 (ws.getD 0 0 + 16 * ws.getD 1 0),
      BitVec.ofNat 8 (ws.getD 2 0 + 16 * ws.getD 3 0)] ++ bytesOfNat (8 * ws.sum) stream)
  else 0 :: ps.flatMap (bytesOfNat 4)

/-! ## The resolve (R311, R315) -/

/-- A pass changed. -/
def State.modPass (s : State) (l : Nat) (f : Pass → Pass) : State :=
  s.modLaunch l fun x => { x with pass := x.pass.map f }

/-- A discarded pixel: counted in the pass; the first 16 of a tessera each write a record (R315, R316). -/
def State.discard (s : State) (c : Nat) (p : Pass) (kind disp : Nat) (q : Nat × Nat) : State :=
  let b := s.block c
  match b.tile with
  | none => s
  | some z =>
    let s := s.modPass b.launch fun p => { p with discards := p.discards + 1 }
    let s := if z.discarded < 16 then
        s.tmLog b.vdev (tmRecord kind b.owner.toNat disp q.1 q.2 (p.tessDetail z.tess) 0xFFFFFFFF)
      else s.tmMiss b.vdev 1
    s.modBlock c fun b => { b with tile := b.tile.map fun z => { z with discarded := z.discarded + 1 } }

/-- The Touchmark check of one written pixel and its write (R315, R341). -/
def State.screenUnit (s : State) (c : Nat) (p : Pass) (q : Nat × Nat) (e : Nat) : Option MemFault × State :=
  let b := s.block c
  match b.tile with
  | none => (none, s)
  | some z =>
    let o := b.owner.toNat
    let disp := ((surfOf z.target).map Surf.disp).getD 0
    if o = 255 || (o ≠ e / 256 && o ≠ e % 256) then (none, s.discard c p 1 disp q)
    else match z.layer.bind surfOf with
    | none => (none, s.discard c p 2 disp q)
    | some x => s.rasWrite c (x.pixel q.1 q.2) (bytesOfWord (s.tbGet c p 0 (pixNo q)))

/-- One write of the resolve (DEDUCED, log entry 69). -/
def State.resolveUnit (s : State) (c : Nat) (p : Pass) : RUnit → Option MemFault × State
  | .pixel half x q => s.rasWrite c (x.pixel q.1 q.2) (bytesOfWord (s.tbGet c p half (pixNo q)))
  | .cblock x q =>
    s.rasWrite c (x.slot q.1 q.2) (encodeBlock ((blockPixels q).map fun q => (s.tbGet c p 0 (pixNo q)).toNat))
  | .screen q e => s.screenUnit c p q e

/-- The writes of a tessera's resolve (DEDUCED, log entry 69). -/
def State.resolveUnits (s : State) (c : Nat) (p : Pass) (z : Tile) : List RUnit :=
  let ps := p.pixels z.tess
  let screen := ((surfOf z.target).map Surf.screen).getD false
  let colour := match s.mayWrite c z.target with
    | some x =>
      if x.screen then ((ps.zip z.entries).filter fun e => z.written.contains (pixNo e.1)).map fun e => .screen e.1 e.2
      else unitsOf 0 x ps
    | none => []
  let depth := match s.mayWrite c z.zsurf with
    | some x => if p.zwrite && p.zvalid && !screen && !x.screen then unitsOf 1 x ps else []
    | none => []
  colour ++ depth

/-- TARGETERR, and the pass's one record of kind TARGET (R311). -/
def State.targetCheck (s : State) (c : Nat) (p : Pass) (target zsurf : Nat) : State :=
  let b := s.block c
  let tBad := (s.mayWrite c target).isNone
  let zBad := p.zvalid && (s.mayWrite c zsurf).isNone
  if tBad || zBad then
    let s := if p.logged then s
      else s.tmLog b.vdev (tmRecord 6 b.owner.toNat 0 0 0 0 (if tBad then p.targetH else p.zsurfH))
    s.modPass b.launch fun p => { p with targeterr := true, logged := true }
  else s

/-- Whether a fragment of a core's tessera has not exited, or has exited with a write still to be performed (R93,
R308, R311). -/
def State.fragsLeft (s : State) (c : Nat) : Bool :=
  (s.threads.any fun e => userThread c e.1 && bankOf e.1 = 0 && (e.2.live || !e.2.deferred.isEmpty) && e.2.frag.isSome)
    || (s.waitingSpawns c).any fun w => w.frag.isSome

/-- Bytes 96-127 of the descriptor at the finish (R302). -/
def Pass.status (p : Pass) : List Byte :=
  bytesOfNat 4 p.prims.length ++ bytesOfNat 4 p.frags ++ bytesOfNat 4 p.discards
    ++ bytesOfNat 1 ((if p.cmperr then 1 else 0) + (if p.targeterr then 2 else 0) + if p.spawnlim then 4 else 0)
    ++ zeros 19

/-- Whether every tessera of a launch has been resolved. -/
def State.tesseraeDone (s : State) (x : Launch) (p : Pass) : Bool :=
  x.installed.all fun c => (s.block c).tile.isNone && (s.nextTessOf c x p).isNone

/-- The status bytes written, after which the pass is finished (R303). -/
def State.writeStatus (s : State) (c : Nat) (x : Launch) (p : Pass) : State :=
  let s := if p.tessCount = 0 then
      s.targetCheck c p (s.entryNow x.vdev p.target p.targetH) (s.entryNow x.vdev p.zsurf p.zsurfH)
    else s
  match s.passOf (s.block c).launch with
  | none => s
  | some p =>
    match s.rasGlobal c (x.descAddr + 96) p.status with
    | (some f, s) => s.rasFault c 0 f
    | (none, s) => s.modPass (s.block c).launch fun p => { p with finished := true }

/-- TESSERA_RESOLVE: with every fragment of the tessera exited, its resolve runs from the unit reached; after the
launch's last tessera the status is written, and the launch may finish (R303, R311). -/
def execTesseraResolve (c : Nat) (s : State) : Out :=
  .next <|
    if s.drains (s.block c).vdev then s else
    let b := s.block c
    match s.launch? b.launch with
    | none => s
    | some x =>
      match x.pass with
      | none => s
      | some p =>
        if x.phase ≠ .running || b.rfault.isSome || p.finished then s
        else match b.tile with
        | some z =>
          if !z.started || !z.pend.isEmpty || s.fragsLeft c then s
          else
            let s := if z.unit = 0 then s.targetCheck c p z.target z.zsurf else s
            let s := s.rasterUnits c p z (fun s u => s.resolveUnit c p u) ((s.resolveUnits c p z).drop z.unit)
            if (s.block c).rfault.isNone then s.modBlock c fun b => { b with tile := none } else s
        | none =>
          if s.geometryDone x && s.tesseraeDone x p && c = x.installed.headD 0 then
            (s.writeStatus c x p).finishLaunch b.launch
          else s

/-! ## RESUME of raster work (R446) -/

/-- The unit at the fault passed over. -/
def State.skipUnit (s : State) (c : Nat) : State :=
  s.modBlock c fun b => match b.binWork, b.tile with
    | (a, n) :: r, _ =>
      let k := min n (64 - a % 64)
      { b with binWork := if n ≤ k then r else (a + k, n - k) :: r }
    | [], some z => { b with tile := some { z with unit := z.unit + 1 } }
    | [], none => b

/-- RESUME naming warp 0 acts on the raster work: 0 CONTINUE, 1 SKIP, 2 KILL. -/
def State.resumeRaster (s : State) (c mode : Nat) : State :=
  let b := s.block c
  match b.rfault with
  | none => s
  | some parks =>
    let free (s : State) : State := s.modBlock c fun b => { b with rfault := none }
    let atStatus := b.binWork.isEmpty && b.tile.isNone
    let pastIt (s : State) : State :=
      if atStatus then (s.modPass b.launch fun p => { p with finished := true }).finishLaunch b.launch
      else s.skipUnit c
    match mode with
    | 0 => if parks then (free s).modBlock c fun b => { b with rwalk := true } else pastIt (free s)
    | 1 => pastIt (free s)
    | _ =>
      let count := match s.launch? b.launch with
        | some x => match x.pass with | some p => p.tessCount / max 1 x.installed.length + 1 | none => 0
        | none => 0
      let s := (free s).modPass b.launch fun p => { p with targeterr := true }
      let s := s.modBlock c fun b => { b with binWork := [], tile := none, nextTess := count }
      if atStatus then (s.modPass b.launch fun p => { p with finished := true }).finishLaunch b.launch else s

end Sys2Proof.Machine
end

