-- ==== Sys2Proof/Machine/Spec.lean ====
section
/-! DEFINITION. The instructions of speculative tasks (R359, R387-R390) and the abort of a task (R366). -/

namespace Sys2Proof.Machine

/-- Where a thread stands for the table of R359: a non-task thread, a task outside a bracket, in one, or in an
inverse routine. -/
inductive SpecPlace where
  | plain | outside | bracket | inverse
  deriving DecidableEq, Repr

def State.specPlace (s : State) (t : Nat) : SpecPlace :=
  match (s.thr t).task with
  | none => .plain
  | some k => if k.phase = .inverse then .inverse else if k.bracket.isSome then .bracket else .outside

/-- A word's effect where the table of R359 allows it; ILLEGAL_OP elsewhere. It has no effect for a thread whose abort
has been taken in the course of the word (R393). -/
def State.specWhere (s : State) (t : Nat) (ok : SpecPlace → Bool) (k : State → Ran) : Ran :=
  if (s.thr t).task.map Task.phase = some .abort then ran s
  else if ok (s.specPlace t) then k s else ranBad s (plainFault clsIllegalOp)

/-! ## SPAWN.SPEC (R356, R357, R387) -/

/-- SPAWN.SPEC for one thread: an entry as SPAWN checks it, a control word with reserved bits or a key below the
commit floor is BUDGET. -/
def State.spawnSpecOne (s : State) (d a b : Nat) (t : Nat) : Ran :=
  s.specWhere t (fun p => p ≠ .inverse) fun s =>
    let entry := s.pairReg t d
    let args := s.pairReg t a
    let ts := (loW (s.pairReg t b)).toNat
    let ctl := (hiW (s.pairReg t b)).toNat
    let key : TaskKey := (ts, (s.nextSpawnId (coreOf t)).toNat)
    let below := match (s.specOf (s.launchOf t)).floor with
      | some f => keyLt key f
      | none => false
    if entry.toNat ≥ 2 ^ 48 || entry.toNat % 4 ≠ 0 then ranBad s (plainFault clsIllegalClause)
    else if 4 ≤ ctl || (bitOf ctl 0 && below) then ranBad s (plainFault clsBudget)
    else s.spawnFor t (entry.setWidth 48) (loW args) (hiW args) (some
      { ts := ts, ordered := bitOf ctl 0, discard := bitOf ctl 1, entry := entry.setWidth 48, a := loW args
        b := hiW args, undoTop := 0, bracket := none, request := false, killed := false, phase := .run })

/-- DEDUCED, log entry 112. -/
def execSpawnSpec (sc : Scope) (d a b : BitVec 7) (p : BitVec 3) (s : State) : Out :=
  onIssue s fun i => s.eachOr i sc p.toNat 0 fun s t => s.spawnSpecOne d.toNat a.toNat b.toNat t

/-! ## SPEC.OP (R388) -/

/-- SPEC.OP for one thread: held behind earlier ordering instructions, or compared at once. A fault of the
push stops the thread at SPEC.OP (R360). -/
def State.specOpOne (s : State) (i : Issue) (sc : Scope) (d a b kind : Nat) (t : Nat) : Ran :=
  s.specWhere t (fun p => p = .outside) fun s =>
    let inv := s.pairReg t d
    if inv.toNat ≥ 2 ^ 48 || inv.toNat % 4 ≠ 0 then ranBad s (plainFault clsIllegalClause)
    else
      let args := s.pairReg t b
      let handle := s.pairReg t a
      let acc := s.mkAccess i sc t true (.specOp kind inv handle (loW args) (hiW args))
      let s := s.setFlags acc
      if s.blocked t then
        let s : State := { s.modThr t fun th => { th with deferred := th.deferred ++ [acc] } with nextOp := s.nextOp + 1 }
        ran (if ((s.thr t).task.map Task.request).getD false then s.takeAbort t false else s)
      else match s.specAttempt t acc kind inv handle (loW args) (hiW args) with
        | (none, s) => ran s
        | (some f, s) => ranBad (s.clearFlags acc.flag acc.members) f

def execSpecOp (sc : Scope) (d a b : BitVec 7) (p : BitVec 3) (lit : Word) (s : State) : Out :=
  onIssue s fun i => s.eachOr i sc p.toNat 1 fun s t =>
    s.specOpOne i sc d.toNat a.toNat b.toNat (lit.toNat % 16) t

/-! ## The other words (R389, R390) -/

/-- SPEC.END: the bracket closes, and a deferred abort is taken (R365). -/
def State.specEndOne (s : State) (t : Nat) : Ran :=
  s.specWhere t (fun p => p = .bracket) fun s =>
    let s := s.modTask t fun k => { k with bracket := none }
    if ((s.thr t).task.map Task.request).getD false then ran (s.takeAbort t false) else ran s

def execSpecEnd (sc : Scope) (p : BitVec 3) (s : State) : Out :=
  onIssue s fun i => s.eachOr i sc p.toNat 0 State.specEndOne

/-- SPEC.COMMIT: at once, or an operation that waits for every older ordered task (R367). -/
def State.specCommitOne (s : State) (i : Issue) (sc : Scope) (t : Nat) : Ran :=
  s.specWhere t (fun p => p = .outside) fun s =>
    let acc := s.mkAccess i sc t true .specCommit
    let s := s.setFlags acc
    if s.mayCommit t then ran (((s.opFor t acc 0 0 (some [])).commitTask t).afterTasks)
    else
      let s := s.opFor t acc 0 0 none
      ran (if ((s.thr t).task.map Task.request).getD false then s.takeAbort t false else s)

/-- DEDUCED, log entry 65. -/
def execSpecCommit (sc : Scope) (p : BitVec 3) (s : State) : Out :=
  onIssue s fun i => (s.eachOr i sc p.toNat 0 fun s t => s.specCommitOne i sc t).settle (i.group.headD 0)

/-- SPEC.ABORT: the abort is taken at once (R366). -/
def execSpecAbort (sc : Scope) (p : BitVec 3) (s : State) : Out :=
  onIssue s fun i => s.eachOr i sc p.toNat 0 fun s t =>
    s.specWhere t (fun p => p = .outside || p = .bracket) fun s => ran (s.takeAbort t false)

/-- SPEC.DRAIN: an operation that completes when the launch has no live task (R367). -/
def execSpecDrain (sc : Scope) (p : BitVec 3) (s : State) : Out :=
  onIssue s fun i => s.eachOr i sc p.toNat 0 fun s t =>
    s.specWhere t (fun p => p = .plain) fun s =>
      let acc := s.mkAccess i sc t true .specDrain
      let done := (s.liveTasks (s.launchOf t)).isEmpty
      ran ((s.setFlags acc).opFor t acc 0 0 (if done then some [] else none))

/-- SPEC.TABLE's read of one thread: ILLEGAL_OP in a task, BUDGET while the launch has a live task, ALIGN
(R359, R390) (DEDUCED, log entry 65). -/
def prepSpecTable (a : BitVec 7) (s : State) (_ : Issue) (t : Nat) : Prepared × State :=
  let va := s.pairReg t a.toNat
  if s.specPlace t ≠ .plain then (.error (plainFault clsIllegalOp), s)
  else if !(s.liveTasks (s.launchOf t)).isEmpty then (.error (plainFault clsBudget), s)
  else if va.toNat % 16 ≠ 0 then (.error { plainFault clsAlign with va := va }, s)
  else (.ok (.specTable va), s)

def execSpecTable (sc : Scope) (a : BitVec 7) (p : BitVec 3) (s : State) : Out :=
  memWord sc p.toNat true (prepSpecTable a) s

/-! ## The abort of a task (R366) -/

/-- TASK_ABORT: once the aborting thread's flags are clear, its open bracket closes and its inverse routines
run, most recent first (DEDUCED, log entry 63). -/
def execTaskAbort (t : Nat) (s : State) : Out :=
  .next <|
    match (s.thr t).task with
    | none => s
    | some k =>
      if (s.thr t).live && k.phase = .abort && (s.thr t).cf = 0 && !(s.thr t).parked && !(s.thr t).susp && !s.away t then
        (s.modTask t fun k => { k with bracket := none }).abortNext t |>.settle t
      else s

end Sys2Proof.Machine
end

