-- ==== Sys2Proof/Machine/Sched.lean ====
section
/-! DEFINITION. The picker (R101-R104), rendezvous (R105-R108), the fetch and check of a whole clause
(R42, R43), the end of a clause (R10, R11), and the completion of operations. -/

namespace Sys2Proof.Machine

/-! ## The clause at a thread's program counter (R43) -/

/-- What the fetch of a whole clause gives: the header first, then its words. -/
inductive Look where
  | headFault (f : MemFault)
  | badHead
  | wordFault (h : Header) (f : MemFault)
  | clause (h : Header) (ws : List Word)
  deriving DecidableEq, Repr

/-- The clause at a thread's program counter. -/
def State.look (s : State) (t : Nat) : Look :=
  let pc := (s.thr t).pc.toNat
  match (s.fetch t pc).1 with
  | .error f => .headFault f
  | .ok w =>
    match decodeHeader w with
    | none => .badHead
    | some h =>
      match (s.fetchN t (pc + 4) h.count).1 with
      | .error f => .wordFault h f
      | .ok ws => .clause h ws

/-- The scope of a clause: that of its first word; lane where a word of it cannot be read (DEDUCED, log entry 33;
DESIGN CHOICE, log entry 122). -/
def Look.scope : Look → Scope
  | .clause _ (w :: _) => fSc w
  | _ => .lane

/-- The WAIT mask of a clause; nothing is waited for where the header cannot be read. -/
def Look.wait : Look → BitVec 12
  | .clause h _ | .wordFault h _ => h.wait
  | _ => 0

/-! ## The checks of R42 on a whole clause -/

/-- An instruction of a word's opcode, its operand fields 0: what the opcode alone says. -/
def opInstr (c : Cls) (w : Word) : Option Instr :=
  match decodeWord c (w &&& 0xFF000000) [0] with
  | .ok i => some i
  | .error _ =>
    match decodeWord c ((w &&& 0xFF000000) ||| 8) [0] with
    | .ok i => some i
    | .error _ => none

/-- The literals that a word's opcode takes; a BRM takes the n of its B field from 1 to 4, and none where n is above 4
(DESIGN CHOICE, log entry 122). -/
def opLits (c : Cls) (w : Word) : Nat :=
  match opInstr c w with
  | some (.brm ..) => if (fB w).toNat ≤ 4 then (fB w).toNat else 0
  | some i => i.litCount
  | none => 0

/-- An instruction word of a clause: its number from 1, the word, and its reading. -/
structure Parsed where
  n : Nat
  word : Word
  res : Except DecodeErr Instr

/-- The instruction words of a clause; `skip` counts literals still to pass. -/
def parseClause (c : Cls) : Nat → Nat → List Word → List Parsed
  | _, _, [] => []
  | k + 1, n, _ :: ws => parseClause c k (n + 1) ws
  | 0, n, w :: ws => { n := n, word := w, res := decodeWord c w ws } :: parseClause c (opLits c w) (n + 1) ws

/-- The word at which ILLEGAL_CLAUSE arises (R42): a scope unlike the first word's, a third long-latency
instruction, a literal past COUNT, or what follows a control transfer. -/
def clauseErr (c : Cls) (sc : Scope) (ll : Nat) : List Parsed → Option Nat
  | [] => none
  | p :: r =>
    let long := match opInstr c p.word with | some i => i.longLatency | none => false
    let jump := match opInstr c p.word with | some i => i.transfer | none => false
    if fSc p.word ≠ sc || (long && ll = 2)
        || (match p.res with | .error .illegalClause => true | _ => false) then some p.n
    else match jump, r with
      | true, q :: _ => some q.n
      | _, _ => clauseErr c sc (if long then ll + 1 else ll) r

/-- Where the code of a thread runs, for the places of R27 and R373. -/
inductive Place where
  | user | handler | agent
  deriving DecidableEq, Repr

def placeOf (t : Nat) : Place := if isAgent t then .agent else if isHandler t then .handler else .user

/-- Whether a SYS instruction may run in a place (R27, R373). -/
def sysOk (pl : Place) : Instr → Bool
  | .srd .. | .swr .. | .tlbInv .. => pl ≠ .user
  | .eret .. | .ctxRd .. | .ctxWr .. | .faultRd .. | .resumeContinue .. | .resumeSkip .. | .resumeKill .. =>
    pl = .handler
  | .wfi .. | .agentClaim .. | .blkStart .. | .blkStop .. | .ctxSave .. | .ctxLoad .. | .vdevDrain ..
  | .poolClr .. => pl = .agent
  | _ => true

/-- The lowest word whose reading fails a check. -/
def firstBad (bad : Parsed → Bool) (ps : List Parsed) : Option Nat := (ps.find? bad).map Parsed.n

/-- The checks of R42 in the order of R43: the class of the fault and the word it names. `legal` says
whether the scope has a group for the threads (R105) (DEDUCED, log entry 33). -/
def checkWords (c : Cls) (ps : List Parsed) (sc : Scope) (legal : Bool) (pl : Place) (quota : Nat) :
    Option (Nat × Nat) :=
  match clauseErr c sc 0 ps with
  | some n => some (clsIllegalClause, n)
  | none =>
    match firstBad (fun p => match p.res with | .ok i => !i.opOk || !sysOk pl i | .error _ => true) ps with
    | some n => some (clsIllegalOp, n)
    | none =>
      match firstBad (fun p => match p.res with | .ok i => !i.scopeOk || !legal | .error _ => true) ps with
      | some n => some (clsIllegalScope, n)
      | none =>
        (firstBad (fun p => match p.res with | .ok i => !i.rangeOk quota | .error _ => true) ps).map
          fun n => (clsRegRange, n)

/-! ## Readiness (R101, R106, R244, R245) -/

/-- Whether the agent of a core may issue (R382, R440, R447). -/
def State.agentRuns (s : State) (c : Nat) : Bool :=
  !(s.core c).fwStopped && (s.core c).wfi.isNone && !(s.core c).parked

/-- Whether a task holds its thread: it aborts, waits at an EXIT for its commit, or waits at SPEC.OP (R361,
R364, R366, R367) (DEDUCED, log entry 65). -/
def State.taskHeld (s : State) (t : Nat) : Bool :=
  match (s.thr t).task with
  | none => false
  | some k => k.phase = .abort || k.phase = .exiting || k.phase = .leaving || !(s.specOpsOf t).isEmpty

/-- Whether a thread is held at arrivals that wait behind its stores: at one that is to hold it, and at a second arrival
while the phase of the first is not complete (R118). -/
def State.arrivalHolds (s : State) (t : Nat) : List Access → List Nat → Bool
  | [], _ => false
  | a :: r, before =>
    match a.acc with
    | .arrive b sync =>
      sync || before.contains b || (s.thr t).arr.find b = some (s.barrier (coreOf t) b).phase
        || s.arrivalHolds t r (b :: before)
    | _ => s.arrivalHolds t r before

/-- What the words of a clause hold its thread for from the clause's end on: JWAIT, barriers, SPAWN (R145). -/
def State.clauseHeld (s : State) (t : Nat) : Bool :=
  let th := s.thr t
  !th.jwait.isEmpty || !th.bwait.isEmpty || !th.rearm.isEmpty || !th.spawning.isEmpty
    || s.arrivalHolds t th.deferred []

/-- Whether a drain of its virtual device holds a thread: it fetches no clause and issues no word meanwhile, so that no
request of it leaves (R386) (DEDUCED, log entry 82). -/
def State.drainHolds (s : State) (t : Nat) : Bool := !isAgent t && coreOf t < 144 && s.drains (s.tagOf t).1

/-- Whether something holds a thread before its next clause, or before the rest of one that it stopped in, its flags
and its rendezvous apart (R101, R145). -/
def State.held (s : State) (t : Nat) : Bool :=
  let th := s.thr t
  !th.live || th.parked || th.susp || s.inClause t || (th.stop.isNone && s.clauseHeld t)
    || th.brx.isSome || th.refill.isSome || s.taskHeld t || s.drainHolds t
    || (isHandler t && (s.block (coreOf t)).ending)
    || !(if isAgent t then s.agentRuns (coreOf t) else s.blockRuns (coreOf t))

/-- Pops that a word makes from queue k in one thread. -/
def popsOf (k : Nat) (i : Instr) : Nat :=
  (i.regs.filter fun rc => match rc.1 with | .src => rc.2.toNat = 124 + k | _ => false).length

/-- Words whose sources are read in every member of a wider scope (R152, R154). -/
def Instr.popsEach : Instr → Bool
  | .shfl .. | .redux .. | .scan .. => true
  | _ => false

/-- Pops that some words of a group make from the ring of home lane h of queue k: of each thread at lane scope, of t0
or of every member at a wider one, guards apart (R64, R154, R244) (DEDUCED, log entry 37). -/
def groupPops (sc : Scope) (ms : List Nat) (ps : List Parsed) (k h : Nat) : Nat :=
  let here := (ms.filter fun t => laneOf t = h).length
  let one := if laneOf (ms.headD 0) = h then 1 else 0
  ps.foldl (fun n p => match p.res with
    | .ok i => n + popsOf k i * (if sc = .lane || Instr.popsEach i then here else one)
    | .error _ => n) 0

/-- The instruction words of the clause looked at. -/
def Look.parsed : Look → List Parsed
  | .clause h ws => parseClause h.cls 0 1 ws
  | _ => []

/-- The engine whose queue an instruction enters: 0 Trellis, 1 copy unit, 2 Filigree, 3 graph walker. -/
def Instr.engine : Instr → Option Nat
  | .mmaT8 .. | .mmaI8 .. | .mmaE4 .. | .mmaE5 .. | .mmaBf .. | .mmaH .. | .mmaF32 .. | .mmaT8s ..
  | .mmaI8s .. | .wload .. | .accZero .. | .accRd .. | .accWr .. | .accScale .. | .accCvtF32I32 ..
  | .accCvtI32F32 .. | .tstore .. | .tstoreAdd .. | .rowmax .. | .rowsum .. => some 0
  | .copy .. | .copyX24 .. => some 1
  | .filLoad .. | .filRun .. => some 2
  | .gnode .. | .gedge .. | .garm .. | .garmClr .. | .gwait .. => some 3
  | _ => none

/-- Instructions of a clause with a property (DEDUCED, log entry 72). -/
def countOf (ps : List Parsed) (f : Instr → Bool) : Nat :=
  (ps.filter fun p => match p.res with | .ok i => f i | .error _ => false).length

/-- The words of a clause that a thread has still to issue: all, or those from its stop point on. -/
def State.rest (s : State) (l : Look) (t : Nat) : List Parsed :=
  let pos := match (s.thr t).stop with | some p => p.word | none => 0
  l.parsed.filter fun p => pos < p.n

/-- The words that a clause in progress has still to issue. -/
def Issue.rest (i : Issue) : List Parsed := (parseClause i.head.cls 0 1 i.words).filter fun p => i.pos < p.n

/-- The clauses in progress on a core, and those that a pre-emption has halted there (R11). -/
def State.underWay (s : State) (c : Nat) : List Issue :=
  ((s.issues.filter fun e => e.1 / 4 = c) ++ s.halted.filter fun e => e.1 / 4 = c).map Prod.snd

/-- Whether the engines' queues have room for a clause's commands beside those of the clauses in progress (R239, R268)
(DEDUCED, log entry 72). -/
def State.roomIn (s : State) (ps : List Parsed) (c : Nat) : Bool :=
  (List.range 4).all fun e =>
    let enters (ps : List Parsed) : Nat := countOf ps fun i => Instr.engine i = some e
    enters ps = 0
      || ((s.block c).engq.get e []).length + enters ps + ((s.underWay c).map fun i => enters i.rest).sum ≤ 16

/-- Elements that the clauses in progress on a core have still to pop from a ring: threads pop a shared ring in the
order of issue (R244). -/
def State.claimed (s : State) (c k h : Nat) : Nat :=
  ((s.underWay c).map fun i => groupPops i.scope i.group i.rest k h).sum

/-- Elements that a thread's ring of queue k lacks for a clause of a group; a disabled queue lacks none (R244). -/
def State.lacks (s : State) (l : Look) (ms : List Nat) (k t : Nat) : Bool :=
  let q := (s.block (coreOf t)).queue k
  q.en && q.fill (laneOf t) < groupPops l.scope ms (s.rest l (ms.headD 0)) k (laneOf t)

/-- Whether the operand queues let a group start a clause: each ring holds what the clause pops from it, or END is set
(R244, R245) (DEDUCED, log entry 37). -/
def State.queuesOk (s : State) (l : Look) (ms : List Nat) : Bool :=
  let ps := s.rest l (ms.headD 0)
  ms.all fun t => (List.range 4).all fun k =>
    let q := (s.block (coreOf t)).queue k
    !q.en || groupPops l.scope ms ps k (laneOf t) = 0
      || (s.claimed (coreOf t) k (laneOf t) = 0 && (!s.lacks l ms k t || q.fin))

/-- The words that reach a pixel's tile-buffer words in primitive order (R308). -/
def Instr.tileWord : Instr → Bool
  | .tbLd .. | .tbSt .. | .tbBlend .. | .depthT .. => true
  | _ => false

/-- Whether a fragment of a lower primitive of the same pixel has not exited, or its accesses still wait (R308). -/
def State.fragBehind (s : State) (t : Nat) (f : Frag) : Bool :=
  let c := coreOf t
  let lower (g : Frag) : Bool := g.x = f.x && g.y = f.y && g.prim < f.prim
  let waits := s.waitingSpawns c ++ (((s.block c).tile.map Tile.pend).getD [])
  (s.threads.any fun e => userThread c e.1 && bankOf e.1 = 0 && (e.2.live || !e.2.deferred.isEmpty)
      && e.2.frag.any lower)
    || waits.any fun w => w.frag.any lower

/-- Whether the order of fragments lets a thread start a clause. -/
def State.fragOk (s : State) (ps : List Parsed) (t : Nat) : Bool :=
  match (s.thr t).frag with
  | none => true
  | some f => countOf ps Instr.tileWord = 0 || !s.fragBehind t f

/-- Whether a thread's flags let it start a clause: a clause stopped between two words has waited already (R14, R15). -/
def State.flagsOk (s : State) (l : Look) (t : Nat) : Bool :=
  (s.thr t).stop.isSome || (s.thr t).cf &&& l.wait = 0

/-- Words that read memory and feed the raster unit as they issue (R330). -/
def Instr.emits : Instr → Bool
  | .primEmit .. => true
  | _ => false

/-- Whether the accesses that are held back let a thread start a clause: an emitting word waits for every ordering
instruction before it (R216) (DEDUCED, log entry 116). -/
def State.emitOk (s : State) (ps : List Parsed) (t : Nat) : Bool := countOf ps Instr.emits = 0 || !s.blocked t

/-- Whether the flags, the queues, the engines, the order of fragments and what is held back let a group start a clause
(R14, R216, R239, R244, R245, R308). -/
def State.canStart (s : State) (l : Look) (ms : List Nat) : Bool :=
  let ps := s.rest l (ms.headD 0)
  ms.all (s.flagsOk l) && s.roomIn ps (coreOf (ms.headD 0)) && ms.all (s.fragOk ps) && ms.all (s.emitOk ps) && s.queuesOk l ms

/-- The threads that pop more elements than their ring holds while END is set (R245). -/
def State.shortThreads (s : State) (l : Look) (ms : List Nat) : List Nat :=
  ms.filter fun t => (List.range 4).any fun k => s.lacks l ms k t

/-- The live threads of the warps on a partition, trap banks among them. -/
def State.threadsOn (s : State) (c p : Nat) : List Nat :=
  (s.threads.filterMap fun e =>
    if partOf e.1 = c * 4 + p && !isAgent e.1 && e.2.live then some e.1 else none)
    ++ (if p = 3 then s.liveOf (mkWarp c 63 0) else [])

/-- Whether a thread stands at a wider-scope clause whose scope has a group for it (R105). -/
def State.arriving (s : State) (t : Nat) : Option Scope :=
  match (s.look t).scope with
  | .lane => none
  | sc => if (s.scopeWarps t sc).isSome then some sc else none

/-- Threads that stand at a wider-scope clause arrive at its rendezvous (R106) (DEDUCED, log entry 36). -/
def State.arriveAll (s : State) (ts : List Nat) : State :=
  ts.foldl (fun s' t =>
    if s.held t || (s.thr t).rdv.isSome then s'
    else match s.arriving t with
      | some sc => s'.modThr t fun th => { th with rdv := some sc }
      | none => s') s

/-- Whether every member of a scope group is held at a rendezvous of it, none parked or suspended. -/
def State.allArrived (s : State) (ms : List Nat) (sc : Scope) : Bool :=
  ms.all fun m => (s.thr m).rdv = some sc && !s.held m

/-- Whether all of some threads stand at one header. -/
def State.oneHeader (s : State) (ms : List Nat) : Bool :=
  match ms with
  | [] => true
  | m :: r => r.all fun x => (s.thr x).pc = (s.thr m).pc

/-- A scope group with a mismatch among the arrived threads: a member and its scope (R108). -/
def State.mismatch (s : State) (ts : List Nat) : Option (Nat × Scope) :=
  ts.findSome? fun t =>
    match (s.thr t).rdv with
    | none => none
    | some sc =>
      let ms := s.scopeMembers t sc
      if s.allArrived ms sc && !s.oneHeader ms then some (t, sc) else none

/-- SCOPE_MISMATCH for every live member of the scope group; each stays at its own header (R108) (DEDUCED, log entry 34). -/
def State.raiseMismatch (s : State) (t : Nat) (sc : Scope) : State :=
  let ms := s.scopeMembers t sc
  let t0 := ms.headD t
  let hdr := (s.thr t0).pc
  s.raise ms { hdr := hdr, word := 0, scope := sc, swcode := 0, detail := hdr.setWidth 64 }
    (plainFault clsScopeMismatch) none

/-- The completed rendezvous that an arrived thread belongs to, as its members (R106). -/
def State.completed (s : State) (t : Nat) : Option (List Nat) :=
  match (s.thr t).rdv with
  | none => none
  | some sc =>
    let ms := s.scopeMembers t sc
    let l := s.look t
    if s.allArrived ms sc && s.oneHeader ms && s.canStart l ms then some ms else none

/-- Ready threads of a partition (R101): at lane scope those that nothing holds; of a completed
rendezvous those whose representative resides there (R106). -/
def State.ready (s : State) (c p : Nat) (t : Nat) : Bool :=
  if (s.thr t).rdv.isSome then
    match s.completed t with
    | some ms => partOf (ms.headD t) = c * 4 + p
    | none => false
  else !s.held t && s.canStart (s.look t) [t]

/-! ## The pick (R102) -/

/-- The priority class: the agent's own above the four (R100). -/
def State.classOf (s : State) (t : Nat) : Nat :=
  if isAgent t then 0
  else match s.launch? (s.block (coreOf t)).launch with
    | some x => 1 + x.cls
    | none => 4

/-- Ties of R102: lowest warp, then lowest home lane. -/
def State.tieKey (s : State) (t : Nat) : Nat := (s.warp (warpKeyOf t)).no * 4096 + bankOf t * 32 + laneOf t

/-- Whether thread a is the better leader of the two, both old (R102). -/
def State.olderLeader (s : State) (a b : Nat) : Bool :=
  (s.thr b).age < (s.thr a).age || ((s.thr b).age = (s.thr a).age && s.tieKey a < s.tieKey b)

/-- Whether thread a is the better leader of the two, none old (R102). -/
def State.betterLeader (s : State) (a b : Nat) : Bool :=
  if s.classOf a ≠ s.classOf b then s.classOf a < s.classOf b
  else if (s.thr a).depth ≠ (s.thr b).depth then (s.thr b).depth < (s.thr a).depth
  else if (s.thr a).pc ≠ (s.thr b).pc then (s.thr a).pc.toNat < (s.thr b).pc.toNat
  else s.tieKey a < s.tieKey b

/-- The best of a list under an order. -/
def bestOf (better : Nat → Nat → Bool) : List Nat → Option Nat
  | [] => none
  | t :: ts => some (ts.foldl (fun b x => if better x b then x else b) t)

/-- The leader among the ready threads: the oldest old thread, else by class, depth and program counter;
threads that yielded stand back while another is ready (R102, R161). -/
def State.leader (s : State) (ready : List Nat) : Option Nat :=
  let eager := ready.filter fun t => !(s.thr t).yielded
  let pool := if eager.isEmpty then ready else eager
  let old := pool.filter fun t => 1024 ≤ (s.thr t).age
  if old.isEmpty then bestOf s.betterLeader pool else bestOf s.olderLeader old

/-- Whether a ready thread may join a leader's lane-scope group (R102): its program counter, block and
quota are the leader's, and so is its place inside the clause. -/
def State.joins (s : State) (l t : Nat) : Bool :=
  (s.thr t).pc = (s.thr l).pc && coreOf t = coreOf l && bankOf t = bankOf l && isAgent t = isAgent l
    && (s.warp (warpKeyOf t)).quota = (s.warp (warpKeyOf l)).quota && (s.thr t).stop.map StopAt.word = (s.thr l).stop.map StopAt.word
    && (s.thr t).rdv.isNone

/-- Whether candidate a is gathered before b for one home lane: age, the leader's warp, lowest warp. -/
def State.gatherBefore (s : State) (l a b : Nat) : Bool :=
  if (s.thr a).age ≠ (s.thr b).age then (s.thr b).age < (s.thr a).age
  else if warpKeyOf b = warpKeyOf l then false
  else if warpKeyOf a = warpKeyOf l then true
  else (s.warp (warpKeyOf a)).no < (s.warp (warpKeyOf b)).no

/-- The lane-scope group of a leader, by ascending home lane (R102). -/
def State.gather (s : State) (ready : List Nat) (l : Nat) : List Nat :=
  (List.range 32).filterMap fun h =>
    if h = laneOf l then some l
    else bestOf (s.gatherBefore l) (ready.filter fun t => laneOf t = h && s.joins l t)

/-- The smallest quota in a group: where a block-scope group spans sets of unequal quota, REG_RANGE is judged against it
for every word, sources of t0 among them (DESIGN CHOICE, log entry 122). -/
def State.minQuota (s : State) (g : List Nat) : Nat :=
  g.foldl (fun q t => min q (s.warp (warpKeyOf t)).quota) 96

/-- Ages after a pick of some cycles: ready threads that were passed over age, the group's fall to 0; what
was yielded is spent (R101, R102, R161) (DEDUCED, log entry 35). -/
def State.ageAfter (s : State) (on ready g : List Nat) (cycles : Nat) : State :=
  let s := s.modThrs (ready.filter fun t => !g.contains t) fun th => { th with age := th.age + cycles }
  let s := s.modThrs g fun th => { th with age := 0 }
  s.modThrs on fun th => if th.yielded then { th with yielded := false } else th

/-- A fault charged to a clause before it issues: the group stops at the header (R43, R342) (DEDUCED, log entry 33). -/
def State.raiseCheck (s : State) (g : List Nat) (hdr : BitVec 48) (sc : Scope) (legal : Bool) (word : Nat)
    (f : MemFault) : State :=
  s.raise g { hdr := hdr, word := word, scope := sc, swcode := 0, detail := 0, gathered := !legal } f none

/-- Long-latency words among those before a position. -/
def llBefore (ps : List Parsed) (pos : Nat) : Nat :=
  (ps.filter fun p => p.n ≤ pos && match p.res with | .ok i => i.longLatency | .error _ => false).length

/-- The clause issues to a group: the flags it waited on are observed, and its words stand ready
(R11, R196). -/
def State.open_ (s : State) (g : List Nat) (hdr : BitVec 48) (h : Header) (ws : List Word) (short : List Nat) :
    State :=
  let pos := match (s.thr (g.headD 0)).stop with | some p => p.word | none => 0
  let s := g.foldl (fun s t => s.observe t fun n => h.wait.getLsbD (n % 16)) s
  let s := s.modThrs g fun th => { th with stop := none, rdv := none, npc := none }
  { s with nextOp := s.nextOp + 1 }.setIssue
    { hdr := hdr, head := h, scope := (Look.clause h ws).scope, words := ws, pos := pos
      ll := llBefore (parseClause h.cls 0 1 ws) pos, group := g, all := g, short := short, born := s.nextOp + 1 }

/-- The clause at the leader's program counter is checked and issued to its group (R43). -/
def State.issueTo (s : State) (g : List Nat) (l : Nat) : State :=
  let hdr := (s.thr l).pc
  match s.look l with
  | .headFault f => s.raiseCheck g hdr .lane true 0 f
  | .badHead => s.raiseCheck g hdr .lane true 0 (plainFault clsIllegalClause)
  | .wordFault _ f => s.raiseCheck g hdr .lane true 0 f
  | .clause h ws =>
    let sc := (Look.clause h ws).scope
    let legal := g.all fun t => (s.scopeWarps t sc).isSome
    match checkWords h.cls (parseClause h.cls 0 1 ws) sc legal (placeOf l) (s.minQuota g) with
    | some (cls, n) => s.raiseCheck g hdr sc legal n (plainFault cls)
    | none => s.open_ g hdr h ws (s.shortThreads (.clause h ws) g)

/-- The cycles a clause occupies its partition: its header and words (R103) (DEDUCED, log entry 35). -/
def Look.cycles : Look → Nat
  | .clause h _ | .wordFault h _ => h.count + 1
  | _ => 1

/-- Abort requests taken at a clause boundary: by tasks outside a bracket that nothing holds (R365) (DEDUCED,
log entry 62). -/
def State.takeRequests (s : State) (ts : List Nat) : State :=
  ts.foldl (fun s t =>
    match (s.thr t).task with
    | none => s
    | some k => if k.request && k.bracket.isNone && k.phase = .run && !s.held t then s.takeAbort t false else s) s

/-- What tasks of a partition wait for, tried again before its pick: an entry of the conflict unit may have been freed,
or an access held back may have left (R361, R367) (DEDUCED, log entry 57). -/
def State.retryTasks (s : State) (on : List Nat) : State :=
  if on.any s.taskWaits then s.afterTasks.settle (on.headD 0) else s

/-- One pick on a partition with no clause in progress (R102). -/
def State.pickOn (s : State) (c p : Nat) : State :=
  let s := s.retryTasks (s.threadsOn c p)
  let on := s.threadsOn c p
  let s := (s.takeRequests on).arriveAll on
  match s.mismatch on with
  | some (t, sc) => s.raiseMismatch t sc
  | none =>
    let ready := on.filter (s.ready c p)
    match s.leader ready with
    | none => s
    | some l =>
      let look := s.look l
      let g := match (s.thr l).rdv with
        | some _ => (s.completed l).getD [l]
        | none => s.gather ready l
      let s := s.ageAfter on ready g look.cycles
      s.issueTo g l

/-! ## WFI (R382) -/

/-- Whether a launch waits for a core's agent to reserve the core for it (R142, R352). -/
def State.wantsCore (s : State) (c l : Nat) (x : Launch) : Bool :=
  (s.chosenCores l x).contains c && (s.core c).reserved ≠ some l

/-- The pending events of a core's agent (R382) (DEDUCED, log entry 83). -/
def State.agentEvents (s : State) (c : Nat) : Nat :=
  let going := s.launches.any fun e => (e.2.reserved.contains c || e.2.installed.contains c)
    && (e.2.evict || match e.2.phase with | .saving .. => true | _ => false)
  (if s.launches.any fun e => s.wantsCore c e.1 e.2 then 1 else 0)
    + (if going then 2 else 0) + (if (s.core c).finished then 4 else 0)
    + if (s.core c).sysRst.toNat % 8 ≠ 0 then 16 else 0

/-- WFI ends when an awaited event is pending: the uniform destination receives every pending event, the named ones that
the step itself serves among them (R382) (DEDUCED, log entry 83). -/
def State.wakeAgentFor (s : State) (c more : Nat) : State :=
  match (s.core c).wfi with
  | none => s
  | some (mask, d) =>
    if (s.core c).parked then s
    else
    let ev := s.agentEvents c ||| more
    if ev &&& mask = 0 then s
    else ((s.modCore c fun k => { k with wfi := none }).setReg (mkThread c 63 0 0) [mkWarp c 63 0] d (w32n ev))

def State.wakeAgent (s : State) (c : Nat) : State := s.wakeAgentFor c 0

/-- The clause that a pre-emption halted on the partition that moves, where its launch runs again. -/
def State.haltedHere (s : State) (c : Nat) : Option Issue := if s.blockRuns c then s.halted.find s.cur else none

/-- A halted clause goes on at its next word, with the threads of its group (R11, R48). -/
def State.reissue (s : State) (i : Issue) : State := { s with halted := s.halted.del s.cur }.setIssue i

/-- PICK (R102): the partition's picker chooses, unless a clause is in progress there or one that was halted goes on
(DESIGN CHOICE, log entry 14). -/
def execPick (c p : Nat) (s : State) : Out :=
  .next <|
    if c < 144 && p < 4 then
      let s := { s with cur := c * 4 + p }
      match s.issue, s.haltedHere c with
      | some _, _ => s
      | none, some i => s.reissue i
      | none, none => (if p = 3 then s.wakeAgent c else s).pickOn c p
    else s

/-! ## After a word and after a clause (R10, R11) -/

/-- A thread at the end of its clause: it stands at the target it chose or falls through; an engine fault
suspends it at this boundary (R445) (DEDUCED, log entry 44). -/
def Thread.endClause (th : Thread) (i : Issue) : Thread :=
  { th with
    pc := th.npc.getD (BitVec.ofNat 48 i.nextH), npc := none
    yielded := th.yielded || i.head.yield
    susp := th.susp || th.suspNext, suspNext := false }

/-- The word in progress is done: the next word of the clause, or the end of the clause. -/
def State.afterWord (s : State) (x : Instr) : State :=
  match s.issue with
  | none => s
  | some i =>
    let s := s.modThrs (i.group.filter fun t => (s.thr t).again) fun th => { th with again := false }
    let i := { i with
      pos := i.pos + 1 + x.litCount
      ll := if x.longLatency then i.ll + 1 else i.ll
      group := i.group.filter fun t => (s.thr t).live }
    if i.pos < i.words.length && !i.group.isEmpty then s.setIssue i
    else
      let s := { s with issues := s.issues.del s.cur }
      let s := (s.modThrs i.group fun th => th.endClause i).joinTests i.group
      { s with cur := (s.cur + 1) % 576 }

/-! ## Completion (R14) -/

/-- ERET's wait: once the trap bank has no operation left, the handler ends (R377). -/
def State.eretTest (s : State) (c : Nat) : State :=
  let b := s.block c
  let busy := (s.ops.any fun e => coreOf e.2.thr = c && isHandler e.2.thr)
    || s.threads.any fun e => coreOf e.1 = c && isHandler e.1 && !e.2.deferred.isEmpty
  if b.ending && !busy then
    (match b.handler with | some slot => s.vacateGates (mkWarp c slot 1) | none => s).endHandler c
  else s

/-- What an operation does as it completes: a slice that FIL.STOP ends stops, and both flags clear together (R291). -/
def State.atCompletion (s : State) (o : Op) : State :=
  match o.acc.acc with
  | .filStop slot => s.stopSlice (coreOf o.thr) slot
  | _ => s

/-- OPERATION_COMPLETE: the operation's destination is written and its flag clears; a launch whose last
work it was finishes (R14, R143). What a pre-emption has saved completes on resumption alone (R349) (DESIGN CHOICE, log
entry 10; DESIGN CHOICE, log entry 13). -/
def execOperationComplete (op : Nat) (s : State) : Out :=
  .next <|
    match s.ops.find op with
    | none => s
    | some o =>
      if s.away o.thr then s
      else (((s.atCompletion o).completeOp op).eretTest (coreOf o.thr)).settle o.thr

end Sys2Proof.Machine
end

