-- ==== Sys2Proof/Machine/Reset.lean ====
section
/-! DEFINITION. The reset of one virtual device (R413-R416, R421): the steps that sys.rst presents to the agents
of its share, and the state that it leaves. -/

namespace Sys2Proof.Machine

/-! ## What sys.rst shows (R421) -/

/-- Whether two shares have a core in common. -/
def sharesMeet (a b : Vdev) : Bool := a.shareCores.any fun c => b.shareCores.contains c

/-- The launches of a virtual device that the agent of a core must stop: those whose block of rank 0 stands there or is
being restored there and, for the leader, the saved ones; each by its hub queue slot. -/
def State.stopsFor (s : State) (v c : Nat) : List Nat :=
  let leader := (s.vdev v).shareCores.headD 0 = c
  (s.launches.filter fun e => e.2.vdev = v && match e.2.phase with
    | .placing => e.2.cores.headD 1000 = c && e.2.installed.contains c
    | .running | .saving .. | .restoring .. => e.2.cores.headD 1000 = c
    | .saved _ => leader
    | _ => false).filterMap fun e => (s.queue v e.2.queue).slot

/-- sys.rst of a core in a step. -/
def rstWord (slot v step : Nat) (leader : Bool) : Dword :=
  d64 (slot * 2 ^ 16 + v * 2 ^ 8 + (if leader then 128 else 0) + step)

/-- A step shown to the agent of a core. -/
def State.showStep (s : State) (v step c : Nat) : State :=
  let slot := if step = 1 then (s.stopsFor v c).headD 0x3F else 0x3F
  s.modCore c fun k => { k with sysRst := rstWord slot v step ((s.vdev v).shareCores.headD 0 = c) }

/-- A step begun on every core of the share. -/
def State.startStep (s : State) (v step : Nat) : State :=
  let s := s.modVdev v fun d => { d with rstStep := step, rstAcks := [], rstWork := [] }
  (s.vdev v).shareCores.foldl (fun s c => s.showStep v step c) s

/-! ## Step 5 (R415, R416) -/

/-- The feature profile fixed at creation (R95, R416). -/
def State.newProfile (s : State) (v : Nat) : List Word :=
  let d := s.vdev v
  let id := Config.serialNumber.toNat % 2 ^ 16 * 2 ^ 48 + Config.moduleNumber.toNat * 2 ^ 45 + v * 2 ^ 40
    + (s.made + 1) % 2 ^ 40
  [1, w32n id, w32n (id / 2 ^ 32), 0, w32n d.shareCores.length, 32, 96, 96, 0xFF, 0x7F,
    w32n (d.save.toNat % 4), w32n (bitsOf d.sig.toNat 50 32)]

/-- The first reset creates the virtual device (R416). -/
def State.createVdev (s : State) (v : Nat) : State :=
  if (s.vdev v).created then s
  else { s.modVdev v fun d => { d with created := true, profile := s.newProfile v } with made := s.made + 1 }

/-- A queue after a reset. -/
def Queue.afterReset (q : Queue) : Queue :=
  { q with ctl := q.ctl &&& ~~~16, tail := 0, head := 0, err := 0, phase := 0, slot := none, overdue := false
           current := none }

/-- A present entry whose surface lies in the virtual device. -/
def State.presentOf (s : State) (v : Nat) (e : Nat × Nat × Dword) : Bool :=
  match surfOf (s.bezel.surf e.1) with
  | some x => x.vdev = v
  | none => false

/-- The state that a reset leaves; a slot that it frees goes to a queue that waits (DEDUCED, log entry 74). -/
def State.clearVdev (s : State) (v : Nat) : State :=
  let s := (s.launches.filter fun e => e.2.vdev = v).foldl (fun s e => s.dropLaunch e.1) s
  let s := s.modVdev v fun d => { d with
    queues := d.queues.map fun q => (q.1, q.2.afterReset), dgates := [], tmptr := 0, tmcount := 0
    ctl := d.ctl &&& ~~~6, savefault := 0, draining := false, rstStep := 0, rstAcks := []
    rstWork := [] }
  let g := s.grant v
  let s := (List.range g.2).foldl (fun s k => { s with
    signals := s.signals.del (g.1 + k), sigMods := s.sigMods.put (g.1 + k) (s.sigMods.get (g.1 + k) 0 + 1) }) s
  let s : State := { s with bezel := { s.bezel with
    presents := s.bezel.presents.map fun p => (p.1, { p.2 with q := p.2.q.filter fun e => !s.presentOf v e }) } }
  let s := (List.range 64).foldl (fun s _ => s.bindNext) s
  (s.createVdev v).irq irqResetDone v

/-! ## The sequence (R421) -/

/-- Resets that may begin: one whose share meets that of no reset before it (DEDUCED, log entry 73). -/
def State.startResets (s : State) : State :=
  (s.resets.zipIdx).foldl (fun s e =>
    let before := s.resets.take e.2
    if (s.vdev e.1).rstStep = 0 && before.all fun w => !sharesMeet (s.vdev w) (s.vdev e.1) then s.startStep e.1 1
    else s) s

/-- ACTION 1: BUSY is set, and the reset begins or waits its turn (R413, R414, R421). -/
def State.beginReset (s : State) (v : Nat) : State :=
  if s.resets.contains v then s
  else State.startResets
    { s.modVdev v fun d => { d with ctl := d.ctl ||| 4, rstStep := 0 } with resets := s.resets ++ [v] }

/-- Whether the work of a step has been done: in step 1 no launch is left to stop, in step 2 the drain has ended, in step
3 the storage of the virtual device on every core is clear, in step 4 the leader's TLB.INV has completed (R414, R421)
(DEDUCED, log entry 73). -/
def State.stepDone (s : State) (v : Nat) : Bool :=
  let d := s.vdev v
  match d.rstStep with
  | 1 => d.shareCores.all fun c => (s.stopsFor v c).isEmpty
  | 2 => (d.draining || d.shareCores.isEmpty) && !s.inFlight v
  | 3 => d.shareCores.all fun c => (s.core c).storageOf ≠ some v || d.rstWork.contains c
  | 4 => d.shareCores.isEmpty || d.rstWork.contains (d.shareCores.headD 0)
  | _ => true

/-- The next step once every agent has acknowledged; after step 4 the hub performs step 5. A saved launch without
a hub queue slot goes with step 1 (DEDUCED, log entry 73). -/
def State.advanceReset (s : State) (v : Nat) : Nat → State
  | 0 => s
  | fuel + 1 =>
    let d := s.vdev v
    if d.rstStep = 0 || !(d.shareCores.all fun c => d.rstAcks.contains c) || !s.stepDone v then s
    else if d.rstStep = 4 then
      State.startResets { s.clearVdev v with resets := s.resets.filter fun w => w ≠ v }
    else
      let s := if d.rstStep = 1 then
          (s.launches.filter fun e => e.2.vdev = v).foldl (fun s e => s.dropLaunch e.1) s
        else s
      (s.startStep v (d.rstStep + 1)).advanceReset v fuel

/-- An agent's acknowledgement: the value read, written back; while the agent still has launches to stop, STEP
stays at 1 and shows the next one. -/
def State.rstAck (s : State) (c : Nat) (w : Dword) : State :=
  let r := (s.core c).sysRst.toNat
  let v := bitsOf r 12 8
  if r % 8 = 0 ∨ w.toNat % 8 ≠ r % 8 then s
  else if r % 8 = 1 && !(s.stopsFor v c).isEmpty then s.showStep v 1 c
  else
    let s := s.modCore c fun k => { k with sysRst := d64 (r / 8 * 8 % 2 ^ 16 + 0x3F * 2 ^ 16) }
    (s.modVdev v fun d => { d with rstAcks := c :: d.rstAcks }).advanceReset v 5

/-- Resets whose agents have all acknowledged a step go on once its work has ended (R421). -/
def State.testResets (s : State) : State := s.resets.foldl (fun s v => s.advanceReset v 5) s

/-- VDEV_RESET: ignored while an action is in progress (R413, R414). -/
def execVdevReset (v : Nat) (s : State) : Out :=
  .next <| if v < 32 && !(s.vdev v).busy then (s.beginReset v).advanceReset v 5 else s

/-- SYS_RST_ACK: an agent writes sys.rst (R421). -/
def execSysRstAck (c : Nat) (w : Dword) (s : State) : Out := .next (s.rstAck c w)

end Sys2Proof.Machine
end

