-- ==== Sys2Proof/Machine/Gang.lean ====
section
/-! DEFINITION. Pre-emption of a launch as a gang (R349-R354, R369, R370): the halt and the drain, the save
area, and the restore. A saved launch's blocks stand on cores whose numbers lie above every core's. -/

namespace Sys2Proof.Machine

/-! ## Moving a block to another core

Everything that names a core by number follows a map of cores. -/

/-- A map of core numbers. -/
abbrev CoreMap := Nat → Nat

def CoreMap.thr (m : CoreMap) (t : Nat) : Nat :=
  if isAgent t ∨ 2 ^ 40 ≤ t then t else m (coreOf t) * 4096 + t % 4096
/-- The maker of a write: a thread, also one whose warp slot another has taken, or a core's raster unit. -/
def CoreMap.party (m : CoreMap) (p : Nat) : Nat :=
  match partyCore p with
  | some c => p - 4096 * c + 4096 * m c
  | none => p
def CoreMap.warp (m : CoreMap) (w : Nat) : Nat := m.thr (w * 32) / 32
def CoreMap.obj (m : CoreMap) (k : Nat) : Nat :=
  if keyKind k = 1 ∨ keyKind k = 4 ∨ keyKind k = 8 ∨ keyKind k = 10 then
    objKey (keyKind k) (m (keyQual k)) (k % 2 ^ 20)
  else k
/-- An address of the log: scratchpad bytes move with their core. -/
def CoreMap.addr (m : CoreMap) (a : Nat) : Nat :=
  if a < scratchBase then a
  else scratchAddr (m ((a - scratchBase) / 2 ^ 24)) ((a - scratchBase) % 2 ^ 24)
/-- A gate's owner code. -/
def CoreMap.owner (m : CoreMap) (o : Nat) : Nat :=
  let n := o / 2 ^ 32
  (match n % 4 with
    | 0 => 4 * m.thr (n / 4)
    | 3 => 4 * m (n / 4) + 3
    | k => 4 * m.warp (n / 4) + k) * 2 ^ 32 + o % 2 ^ 32
def CoreMap.seen (m : CoreMap) (l : List Seen) : List Seen := l.map fun z => { z with via := m.obj z.via }
/-- A table whose keys move. -/
def moveKeys {α : Type} (f : Nat → Nat) (t : Tab α) : Tab α := t.foldl (fun t e => Tab.put t (f e.1) e.2) []
def CoreMap.acc (m : CoreMap) : Acc → Acc
  | .gateAcq o who => .gateAcq o (m.owner who)
  | .gateTry o who pd => .gateTry o (m.owner who) pd
  | .gateRel o who => .gateRel o (m.owner who)
  | a => a
def CoreMap.access (m : CoreMap) (a : Access) : Access :=
  { a with
    acc := m.acc a.acc, members := a.members.map m.thr, warps := a.warps.map m.warp, region := m.obj a.region
    regions := a.regions.map m.obj, cuts := moveKeys m.warp a.cuts }
def CoreMap.op (m : CoreMap) (o : Op) : Op :=
  { o with
    thr := m.thr o.thr, acc := m.access o.acc
    pa := match o.acc.acc with
      | .acq .. | .gateAcq .. | .gateTry .. => m.obj o.pa
      | .lds .. => m.addr o.pa
      | _ => o.pa }
def CoreMap.body (m : CoreMap) : CmdBody → CmdBody
  | .accRd d cells => .accRd d (cells.map fun c => (m.thr c.1, c.2))
  | .rowFold sum d rows => .rowFold sum d (rows.map fun r => (r.1, r.2.map m.thr))
  | b => b
def CoreMap.cmd (m : CoreMap) (x : Cmd) : Cmd :=
  { x with body := m.body x.body, acc := m.access x.acc, thr := m.thr x.thr, seen := m.seen x.seen }
def CoreMap.spawned (m : CoreMap) (x : Spawned) : Spawned :=
  { x with seen := m.seen x.seen, parent := x.parent.map fun p => (m.thr p.1, p.2) }
def CoreMap.held (m : CoreMap) (h : HeldRead) : HeldRead := { h with region := m.obj h.region }
def CoreMap.thread (m : CoreMap) (th : Thread) : Thread :=
  { th with
    deferred := th.deferred.map m.access, spawning := th.spawning.map m.spawned, seen := m.seen th.seen
    brx := th.brx.map m.held, refill := th.refill.map m.held
    pendRel := th.pendRel.map fun p => (m.obj p.1, p.2.1, m.seen p.2.2), covered := moveKeys m.obj th.covered
    lastRead := moveKeys (fun k => m.addr (8 * k) / 8) th.lastRead }
/-- A clause that has been halted. -/
def CoreMap.issue (m : CoreMap) (i : Issue) : Issue :=
  { i with group := i.group.map m.thr, all := i.all.map m.thr, short := i.short.map m.thr }
def CoreMap.gate (m : CoreMap) (g : Gate) : Gate :=
  { owner := g.owner.map m.owner, wait := g.wait.map fun w => (m.owner w.1, w.2) }
def CoreMap.block (m : CoreMap) (b : Block) : Block :=
  { b with
    gates := b.gates.map fun g => (g.1, m.gate g.2)
    bins := b.bins.map fun n => { n with members := n.members.map m.spawned }
    overflow := b.overflow.map m.spawned, engq := b.engq.map fun q => (q.1, q.2.map m.cmd)
    garm := b.garm.map m.cmd
    tile := b.tile.map fun z => { z with pend := z.pend.map m.spawned } }
/-- Bytes of per-core storage, 2^24 for each core, moved with their cores: what stood on a core that they move to is
gone, where no block has moved from there. -/
def CoreMap.bytes (m : CoreMap) (src dst : List Nat) (b : Mem) : Mem :=
  (b.filter fun e => src.contains (e.1 / 2 ^ 24) || !dst.contains (e.1 / 2 ^ 24)).foldl
    (fun b e => Mem.write b (m (e.1 / 2 ^ 24) * 2 ^ 24 + e.1 % 2 ^ 24) e.2) []

/-- The map that takes the cores of a list to those of another, place by place. -/
def mapOf (src dst : List Nat) : CoreMap := fun c =>
  match (src.zip dst).find? fun p => p.1 = c with
  | some p => p.2
  | none => c

/-- Everything that stands on the cores of a list moved to those of another, place by place; what names no such core
stays. -/
def State.moveCores (s : State) (src dst : List Nat) : State :=
  let m := mapOf src dst
  { s with
    threads := moveKeys m.thr (s.threads.map fun e => (e.1, if isAgent e.1 then e.2 else m.thread e.2))
    warps := moveKeys m.warp s.warps
    blocks := moveKeys m (s.blocks.map fun e => (e.1, m.block e.2))
    halted := moveKeys (fun k => m (k / 4) * 4 + k % 4) (s.halted.map fun e => (e.1, m.issue e.2))
    ops := s.ops.map fun e => (e.1, m.op e.2)
    scratch := m.bytes src dst s.scratch, accm := m.bytes src dst s.accm, wbuf := m.bytes src dst s.wbuf
    wlog := s.wlog.map fun e => { e.mapParty m.party with addr := m.addr e.addr, obj := m.obj e.obj }
    rels := moveKeys m.obj (s.rels.map fun e =>
      (e.1, e.2.map fun r => { r with writes := m.seen r.writes }))
    vdevs := s.vdevs.map fun v =>
      (v.1, { v.2 with dgates := v.2.dgates.map fun g => (g.1, m.gate g.2) }) }

/-- The places of n blocks of a launch while it is saved: the first 144 above every core that no launch stands on. -/
def State.savedCores (s : State) (n : Nat) : List Nat :=
  let taken (k : Nat) : Bool := s.launches.any fun e => e.2.installed.any fun c => 1000 ≤ c && (c - 1000) / 144 = k
  let k := ((List.range 1024).find? fun k => !taken k).getD 1024
  (List.range n).map (1000 + 144 * k + ·)

/-! ## Halt and drain (R350, steps 1 and 2) -/

/-- A clause in progress halted before its next word: its position and its group are kept (R11, R350). -/
def State.haltIssue (s : State) (k : Nat) (i : Issue) : State :=
  { s with issues := s.issues.del k, halted := s.halted.put k i }

/-- The clauses in progress of a launch's blocks. -/
def State.issuesOf (s : State) (cores : List Nat) : List (Nat × Issue) :=
  s.issues.filter fun e => cores.contains (e.1 / 4) && (e.2.all.headD 0 |> fun t => !isAgent t)

/-- What a pre-emption keeps of an access already sent: its result; no translation of it is in flight (R187, R349). -/
def State.landOp (s : State) (id : Nat) : State :=
  match s.ops.find id with
  | some o => if o.acc.acc.translated then { s with ops := s.ops.put id { o with landed := true } } else s
  | none => s

/-- One access in flight drained: loads fill their registers; a wait for a signal is to be tested afresh, and a
gate request that waits is withdrawn (R230, R349). -/
def State.drainOp (s : State) (id : Nat) : State :=
  match s.ops.find id with
  | none => s
  | some o =>
    match o.acc.acc, o.result with
    | .load .., _ | .lds .., _ | .specTable _, none | .ldc .., _ | .sigLd .., _ | .tex .., _ | .tbLd .., _
    | .attrIn .., _ | .hallPix .., _ | .hallGrant .., _ => s.completeOp id
    | .sigWait .., _ => { s with ops := s.ops.put id { o with result := none } }
    | .gateAcq .., none => s.withdraw id
    | _, _ => s.landOp id

/-- The operations of the blocks on some cores. -/
def State.opsOn (s : State) (cs : List Nat) : List Nat :=
  (s.ops.filter fun e => cs.contains (coreOf e.2.thr) && !isAgent e.2.thr).map Prod.fst

/-- The gang halted and drained. -/
def State.haltGang (s : State) (x : Launch) : State :=
  let s := (s.issuesOf x.installed).foldl (fun s e => s.haltIssue e.1 e.2) s
  (s.opsOn x.installed).foldl State.drainOp s

/-! ## The save area (R351, R370) -/

/-- A byte whose value the layout states, or an open one. -/
abbrev SaveByte := Option Byte

def known (bs : List Byte) : List SaveByte := bs.map some
/-- DESIGN CHOICE, log entry 19. -/
def openBytes (n : Nat) : List SaveByte := List.replicate n none

/-- Where the pool's storage stands in a block's share, in granule order: the register file, the scratchpad, then the
accumulator storage (R166, R351) (DESIGN CHOICE, log entry 19). -/
def Block.poolScr (b : Block) : Nat := 163840 + 16384 * b.vrf
def Block.poolAcc (b : Block) : Nat := b.poolScr + 16384 * b.scr
def Block.poolEnd (b : Block) : Nat := b.poolAcc + 16384 * b.acc

/-- Byte o of a block's share of 1,952 KiB: uniform registers, the constant store, the records of the queue, the pool's
scratchpad and accumulator storage, and the weight buffer have a stated layout (DESIGN CHOICE, log entry 19). -/
def State.blockByte (s : State) (c o : Nat) : SaveByte :=
  if 16384 ≤ o ∧ o < 22528 then
    let r := o - 16384
    some ((bytesOfWord ((s.warp (mkWarp c (r / 96) 0)).s.get (r % 96 / 4) 0)).getD (r % 4) 0)
  else if 22528 ≤ o ∧ o < 26624 then some ((s.block c).const.getD (o - 22528) 0)
  else if 26624 ≤ o ∧ o < 28160 then
    let r := o - 26624
    ((s.block c).recs[r / 48]?).bind fun q => (q.toWords.flatMap bytesOfWord)[r % 48]?
  else if (s.block c).poolScr ≤ o ∧ o < (s.block c).poolAcc then
    some (s.scratch.read (c * 2 ^ 24 + (o - (s.block c).poolScr)))
  else if (s.block c).poolAcc ≤ o ∧ o < (s.block c).poolEnd then
    some (s.accm.read (c * 2 ^ 24 + (o - (s.block c).poolAcc)))
  else if 1736704 ≤ o then some (s.wbuf.read (c * 2 ^ 24 + (o - 1736704)))
  else none

/-- A byte replaced in a number. -/
def putByteOf (x k : Nat) (b : Byte) : Nat := x - bitsOf x (8 * k + 7) (8 * k) * 2 ^ (8 * k) + b.toNat * 2 ^ (8 * k)

/-- A byte of a block's share as a restore finds it, put where it belongs (R352). -/
def State.putBlockByte (s : State) (c o : Nat) (b : Byte) : State :=
  let blk := s.block c
  if 16384 ≤ o ∧ o < 22528 then
    let r := o - 16384
    s.modWarp (mkWarp c (r / 96) 0) fun w =>
      { w with s := w.s.put (r % 96 / 4) (w32n (putByteOf (w.s.get (r % 96 / 4) 0).toNat (r % 4) b)) }
  else if 22528 ≤ o ∧ o < 26624 then
    let k := o - 22528
    s.setBlock c { blk with const := (blk.const ++ zeros (k + 1 - blk.const.length)).set k b }
  else if 26624 ≤ o ∧ o < 28160 then
    let r := o - 26624
    let fix (q : FaultRec) : FaultRec := FaultRec.ofWords
      (q.toWords.set (r % 48 / 4) (w32n (putByteOf (q.toWords.getD (r % 48 / 4) 0).toNat (r % 4) b)))
    s.setBlock c { blk with recs := blk.recs.modify (r / 48) fix }
  else if blk.poolScr ≤ o ∧ o < blk.poolAcc then
    { s with scratch := s.scratch.write (c * 2 ^ 24 + (o - blk.poolScr)) b }
  else if blk.poolAcc ≤ o ∧ o < blk.poolEnd then
    { s with accm := s.accm.write (c * 2 ^ 24 + (o - blk.poolAcc)) b }
  else if 1736704 ≤ o then { s with wbuf := s.wbuf.write (c * 2 ^ 24 + (o - 1736704)) b }
  else s

/-- Bytes of a block's share. -/
def blockShare : Nat := 1952 * 1024

/-- The threads of a launch's blocks that hold staged words, with their block numbers. -/
def State.stagedThreads (s : State) (x : Launch) : List (Nat × Nat) :=
  x.installed.flatMap fun c => (s.threads.filter fun e =>
    userThread c e.1 && bankOf e.1 = 0 && e.2.live && !e.2.staged.isEmpty).map fun e => ((s.block c).rank, e.1)

/-- Replay records of a launch: operations in flight, accesses not yet sent, and the reads that hold a thread at a BRX
or a RET (R349). -/
def State.replayCount (s : State) (x : Launch) : Nat :=
  (s.ops.filter fun e => x.installed.contains (coreOf e.2.thr) && !isAgent e.2.thr).length
    + ((s.threads.filter fun e => x.installed.contains (coreOf e.1)).map fun e =>
        e.2.deferred.length + (if e.2.brx.isSome then 1 else 0) + if e.2.refill.isSome then 1 else 0).sum

/-- The extension section and, at the next multiple of 64, the speculation section. -/
def State.saveTail (s : State) (l : Nat) (x : Launch) : List SaveByte :=
  let n := s.replayCount x
  let st := s.stagedThreads x
  let ext := known (bytesOfNat 8 n) ++ openBytes (64 * n) ++ known (bytesOfNat 8 st.length)
    ++ st.flatMap fun p => openBytes 4
      ++ known ((List.range 48).flatMap fun k => bytesOfWord ((s.thr p.2).staged.get k 0))
  let live := s.liveTasks l
  let f := x.spec.floor.getD (0, 0)
  ext ++ openBytes ((64 - ext.length % 64) % 64)
    ++ known (bytesOfNat 64 x.spec.pairs ++ bytesOfNat 2 x.spec.present ++ zeros 14
      ++ bytesOfNat 8 x.spec.stat.toNat ++ bytesOfNat 4 live.length ++ bytesOfNat 4 x.spec.ents.length
      ++ bytesOfNat 4 f.1 ++ bytesOfNat 4 f.2 ++ zeros 8)
    ++ openBytes (32 * live.length + 24 * x.spec.ents.length)

/-- The pages of a launch's save area. -/
def State.savePages (s : State) (l : Nat) (x : Launch) : Nat :=
  1 + 488 * x.installed.length + ((s.saveTail l x).length + 4095) / 4096

/-- The bytes of a page of the save area. -/
def State.savePage (s : State) (l : Nat) (x : Launch) (k : Nat) : List SaveByte :=
  if k = 0 then openBytes 4096
  else if k ≤ 488 * x.installed.length then
    let c := x.installed.getD ((k - 1) / 488) 0
    (List.range 4096).map fun j => s.blockByte c (4096 * ((k - 1) % 488) + j)
  else ((s.saveTail l x).drop (4096 * (k - 1 - 488 * x.installed.length))).take 4096

/-- The bytes of a page of the save area as a restore finds them: what differs from a byte with a stated layout in a block's
share is restored as it stands there (R352) (DESIGN CHOICE, log entry 19). -/
def State.loadPage (s : State) (x : Launch) (k : Nat) (bs : List Byte) : State :=
  if 1 ≤ k ∧ k ≤ 488 * x.installed.length then
    let c := x.installed.getD ((k - 1) / 488) 0
    bs.zipIdx.foldl (fun s e =>
      let o := 4096 * ((k - 1) % 488) + e.2
      match s.blockByte c o with
      | some b => if b = e.1 then s else s.putBlockByte c o e.1
      | none => s) s
  else s

/-- Open bytes given values that nothing constrains (DESIGN CHOICE, log entry 19). -/
def State.fillOpen (s : State) : List SaveByte → List Byte × State
  | [] => ([], s)
  | some b :: r => let x := s.fillOpen r; (b :: x.1, x.2)
  | none :: r =>
    let w := s.anyWord
    let x := w.2.fillOpen r
    (w.1.extractLsb' 0 8 :: x.1, x.2)

/-- The place of a page of the save area: through stage 2, or in the fallback area; else the address that faulted, and
whether the fault is one of the area's contents (R353-R355). -/
def State.savePlace (s : State) (v : Nat) (fb : Bool) (k : Nat) (kind : AKind) : Except (Nat × Bool) Nat × State :=
  let d := s.vdev v
  let a := (if fb then bitsOf d.savefb.toNat 51 12 else bitsOf d.save.toNat 47 12) * 4096 + 4096 * k
  match (if fb then s.reach 0 a 4096 0 kind true else s.stage2Place d.s2tb a 4096 kind) with
  | (.error f, s) => (.error (a, f.cause = causePoison), s)
  | (.ok p, s) => (.ok p.1, s)

/-- A page written on the LANE path. -/
def State.putPage (s : State) (pa : Nat) (bs : List Byte) : State :=
  s.putPhys hubParty pathLane 0 noOwner pa bs

/-- vdev.savefault with a fault pending, and the interrupt (R353, R354). -/
def State.saveFault (s : State) (v ia : Nat) (restore : Bool) : State :=
  (s.modVdev v fun d => { d with
    savefault := d64 (2 ^ 63 + (if restore then 2 ^ 62 else 0) + bitsOf ia 47 12 * 4096) }).irq irqSaveFault v

/-- A virtual device lost: each of its launches goes, every queue of it halts with ERR 14, and it is reset (R354)
(DEDUCED, log entry 77). -/
def State.loseVdev (s : State) (v : Nat) : State :=
  let s := (s.launches.filter fun e => e.2.vdev = v).foldl (fun s e => s.dropLaunch e.1) s
  let s := (List.range 16).foldl (fun s q => s.haltQueue v q 14) s
  (s.modVdev v fun d => { d with ctl := d.ctl ||| 2, savefault := 0 }).beginReset v

/-! ## The end of a save, and of a restore -/

/-- Operations of agents that wait for a save or a restore of a launch complete. -/
def State.gangDone (s : State) (l : Nat) (load : Bool) : State :=
  { s with ops := s.ops.map fun e =>
      match e.2.acc.acc with
      | .gang n b => if n = l && b = load then (e.1, { e.2 with result := some [] }) else e
      | _ => e }

/-- A launch's cores freed (R350, step 4). -/
def State.freeCores (s : State) (l : Nat) (cs : List Nat) : State :=
  cs.foldl (fun s c => s.modCore c fun k =>
    { k with reserved := if k.reserved = some l then none else k.reserved }) s

/-- The part of a launch in a virtual-device image: what stands on the cores of its blocks. -/
def State.launchImage (s : State) (l : Nat) (x : Launch) : LaunchImage :=
  let on (c : Nat) : Bool := x.installed.contains c
  let bytes (m : Mem) : Mem := m.filter fun e => on (e.1 / 2 ^ 24)
  { id := l, launch := x
    threads := s.threads.filter fun e => on (coreOf e.1) && !isAgent e.1
    warps := s.warps.filter fun e => on (coreOf (e.1 * 32)) && !isAgent (e.1 * 32)
    blocks := s.blocks.filter fun e => on e.1
    halted := s.halted.filter fun e => on (e.1 / 4)
    ops := s.ops.filter fun e => on (coreOf e.2.thr) && !isAgent e.2.thr
    scratch := bytes s.scratch, accm := bytes s.accm, wbuf := bytes s.wbuf }

/-- The present entries of each queue whose surfaces lie in a virtual device. -/
def State.presentsOf (s : State) (v : Nat) : Tab (List (Nat × Nat × Dword)) :=
  s.bezel.presents.map fun p => (p.1, p.2.q.filter fun e => s.presentOf v e)

/-- The image of a virtual device (R417). -/
def State.imageOf (s : State) (v : Nat) : VImage :=
  let d := s.vdev v
  let g := s.grant v
  { module := Config.moduleNumber.toNat, profile := d.profile, queues := d.queues, dgates := d.dgates
    signals := (List.range g.2).map fun k => s.signal (g.1 + k)
    presents := s.presentsOf v
    launches := (s.launches.filter fun e => e.2.vdev = v).map fun e => s.launchImage e.1 e.2 }

/-- A freeze in progress ends once no launch of the virtual device is resident: the image is written, FROZEN is set
and BUSY clears (R417) (DESIGN CHOICE, log entry 100). -/
def State.tryFreeze (s : State) (v : Nat) : State :=
  let d := s.vdev v
  if d.busy && !s.resets.contains v && !(s.launches.any fun e => e.2.vdev = v && e.2.resident) then
    s.modVdev v fun d => { d with ctl := (d.ctl ||| 8) &&& ~~~4, image := some (s.imageOf v) }
  else s

/-- The save is complete: the cores are freed and the queue gives up its slot and becomes PENDING; where no
other queue takes the slot it is bound again at once (R138, R139, R350). -/
def State.finishSave (s : State) (l : Nat) (x : Launch) (fb : Bool) : State :=
  let away := s.savedCores x.installed.length
  let s := (s.moveCores x.installed away).freeCores l x.reserved
  let s := s.setLaunch l { x with phase := .saved fb, cores := [], reserved := [], installed := away, refills := [], evict := false }
  let s := s.gangDone l false
  let s := if (s.queue x.vdev x.queue).phase = 2 then (s.yieldSlot x.vdev x.queue).bindNext else s
  s.tryFreeze x.vdev

/-- The pages of a save from one on; a fault pauses it, and in the fallback area the virtual device is
lost (R354). -/
def State.saveFrom (s : State) (l : Nat) (x : Launch) (fb : Bool) (k : Nat) : Nat → State
  | 0 => s.finishSave l x fb
  | n + 1 =>
    match s.savePlace x.vdev fb k .write with
    | (.error e, s) =>
      if fb then s.loseVdev x.vdev
      else (s.modLaunch l fun y => { y with phase := .saving k fb }).saveFault x.vdev e.1 false
    | (.ok pa, s) =>
      let r := s.fillOpen (s.savePage l x k)
      (r.2.putPage pa r.1).saveFrom l x fb (k + 1) n

/-- The save of a halted launch from a page on (DESIGN CHOICE, log entry 19). -/
def State.saveRun (s : State) (l : Nat) : State :=
  match s.launch? l with
  | none => s
  | some x =>
    match x.phase with
    | .saving k fb => s.saveFrom l x fb k (s.savePages l x - k)
    | _ => s

/-- THE PRE-EMPTION OF A LAUNCH as a gang (R350). One that is being placed or restored is pre-empted once it runs
(R355). -/
def State.preempt (s : State) (l : Nat) : State :=
  match s.launch? l with
  | none => s
  | some x =>
    match x.phase with
    | .running =>
      ((s.haltGang x).modLaunch l fun y => { y with phase := .saving 0 false, evict := false }).saveRun l
    | .placing | .restoring .. => s.setLaunch l { x with evict := true }
    | _ => s

/-! ## Clock-ratio locking (R22, R23) -/

/-- A context changed, where it exists. -/
def State.modCtx (s : State) (v x : Nat) (f : Ctx → Ctx) : State :=
  match s.ctx? v x with
  | some k => s.setCtx v x (f k)
  | none => s

/-- Whether the lock of a mode word cannot be held: its frequency is above the profile's clock, or its display is
not enabled. -/
def State.lockFails (s : State) (w : Dword) : Bool :=
  let cyc := bitsOf w.toNat 63 40
  let mode := (s.display (bitsOf w.toNat 19 18)).mode
  let limit := (if s.capped then 1350000000 else 1800000000) * 100
  w.getLsbD 16 && cyc ≠ 0 && (!mode.getLsbD 63 || limit < bitsOf mode.toNat 47 32 * cyc)

/-- LKERR set in a context whose installed lock cannot be held. -/
def State.testLock (s : State) (v x : Nat) (w : Dword) : State :=
  if s.lockFails w then s.modCtx v x fun k => { k with legacy := k.legacy ||| 0x20000 } else s

/-- The locks of all resident blocks tested (DEDUCED, log entry 90). -/
def State.testLocks (s : State) : State :=
  s.blocks.foldl (fun s e => if e.2.active && e.1 < 144 then s.testLock e.2.vdev e.2.ctx e.2.legacy else s) s

/-! ## Restore (R352) -/

/-- What a restored access does: waits are tested, gate requests are made again at the tail of their wait
lists, and a TILE.NEXT asks the dispenser of the die where it stands now (R128, R230, R349). -/
def State.restoreOp (s : State) (id : Nat) : State :=
  match s.ops.find id with
  | none => s
  | some o =>
    match o.acc.acc, o.result with
    | .sigWait _ cond v _, none =>
      let w := s.signal o.pa
      if o.pa < awayBase && condHolds cond w v then
        { s with ops := s.ops.put id { o with result := some [loW w, hiW w], serial := s.sigMods.get o.pa 0 } }
      else s
    | .gateAcq _ who, none =>
      let g := s.gate o.pa
      match g.owner with
      | none =>
        { s.setGate o.pa { g with owner := some who } with
          ops := s.ops.put id { o with result := some [], serial := s.relCount o.pa } }
      | some w =>
        if w = who then { s with ops := s.ops.put id { o with result := some [], serial := s.relCount o.pa } }
        else s.setGate o.pa { g with wait := g.wait ++ [(who, id)] }
    | .tile _ _, none => s.serveOp id
    | _, _ => s

/-- The restore is complete: the blocks stand on their cores with their locks tested, and the launch issues again,
unless its queue is to give up its slot (R23, R139, R352). -/
def State.finishRestore (s : State) (l : Nat) (x : Launch) : State :=
  let cs := x.cores
  let s := s.moveCores x.installed cs
  let s := s.setLaunch l { x with phase := .running, installed := cs }
  let s := cs.foldl (fun s c => s.testLock (s.block c).vdev (s.block c).ctx (s.block c).legacy) s
  let s := ((((s.opsOn cs).foldl State.restoreOp s).afterTasks).gangDone l true).finishLaunch l
  if x.evict then s.preempt l else s

/-- The pages of a restore from one on; a fault pauses it, and in the fallback area, or where an uncorrectable error is
found in the area's contents, the virtual device is lost (R354, R355). -/
def State.restoreFrom (s : State) (l : Nat) (x : Launch) (fb : Bool) (k : Nat) : Nat → State
  | 0 => s.finishRestore l x
  | n + 1 =>
    match s.savePlace x.vdev fb k .read with
    | (.error e, s) =>
      if fb || e.2 then s.loseVdev x.vdev
      else (s.modLaunch l fun y => { y with phase := .restoring k fb }).saveFault x.vdev e.1 true
    | (.ok pa, s) =>
      let r := s.physBytes pa 4096
      (r.2.loadPage x k r.1).restoreFrom l x fb (k + 1) n

/-- The restore of a launch from a page on, once its cores are reserved for it (DESIGN CHOICE, log entry 19;
DEDUCED, log entry 77). -/
def State.restoreRun (s : State) (l : Nat) : State :=
  match s.launch? l with
  | none => s
  | some x =>
    match x.phase with
    | .restoring k fb => s.restoreFrom l x fb k (s.savePages l x - k)
    | _ => s

/-! ## The events (R350, R354, R411) -/

/-- PREEMPTION_REQUEST: the launch is halted, drained and saved, its cores are freed, and its queue becomes
PENDING (R350). -/
def execPreemptionRequest (l : Nat) (s : State) : Out := .next (s.preempt l)

/-- Whether a queue of another virtual device waits whose class ceiling is no lower than a launch's class
(R411). -/
def State.rival (s : State) (x : Launch) : Bool :=
  s.allQueues.any fun q => q.1 ≠ x.vdev && (s.queue q.1 q.2).phase = 1
    && (s.queue q.1 q.2).ceil ≤ (s.queue x.vdev x.queue).ceil

/-- SLICE of a share register (R407). -/
def Vdev.slice (d : Vdev) : Nat := bitsOf d.share.toNat 49 36

/-- TIME_SLICE_EXPIRY: the launch's slice has ended while a rival waits: it is pre-empted (R411). -/
def execTimeSliceExpiry (l : Nat) (s : State) : Out :=
  .next <|
    match s.launch? l with
    | none => s
    | some x =>
      if x.phase = .running && (s.vdev x.vdev).slice ≠ 0 && (s.queue x.vdev x.queue).preemptible && s.rival x
      then s.preempt l else s

/-- The launches of a virtual device whose save or restore stands on a fault. -/
def State.faulted (s : State) (v : Nat) : List Nat :=
  (s.launches.filter fun e => e.2.vdev = v && match e.2.phase with
    | .saving .. | .restoring .. => true
    | _ => false).map Prod.fst

def State.savePend (s : State) (v : Nat) : Bool := (s.vdev v).savefault.getLsbD 63

/-- An ACTION of vdev.savefault taken up: agents of the share that wait for it find event 3 pending, and PEND clears
(R353, R382) (DEDUCED, log entry 83). -/
def State.serveAction (s : State) (v : Nat) : State :=
  let s := (s.vdev v).shareCores.foldl (fun s c => s.wakeAgentFor c 8) s
  s.modVdev v fun d => { d with savefault := 0 }

/-- VDEV_SAVEFAULT_RETRY: the save or the restore goes on from the faulting page (R354). -/
def execVdevSavefaultRetry (v : Nat) (s : State) : Out :=
  .next <|
    if s.savePend v then (s.faulted v).foldl (fun s l => (s.saveRun l).restoreRun l) (s.serveAction v) else s

/-- A save or a restore begun again in the fallback area (R354). -/
def Launch.fallBack (x : Launch) : Launch :=
  { x with phase := match x.phase with
    | .saving .. => .saving 0 true
    | .restoring .. => .restoring 0 true
    | p => p }

/-- VDEV_SAVEFAULT_UNMAPPABLE: the whole save, or the whole restore, starts again in the fallback area; with none, the
virtual device is lost (R354) (DEDUCED, log entry 77). -/
def execVdevSavefaultUnmappable (v : Nat) (s : State) : Out :=
  .next <|
    if s.savePend v then
      if (s.vdev v).savefb.getLsbD 0 then
        (s.faulted v).foldl (fun s l => ((s.modLaunch l Launch.fallBack).saveRun l).restoreRun l)
          (s.serveAction v)
      else (s.serveAction v).loseVdev v
    else s

end Sys2Proof.Machine
end

