-- ==== Sys2Proof/Machine/Trap.lean ====
section
/-! DEFINITION. What a trap handler does (R347, R348, R377-R380): the end of the handler, the items of a warp's
context, fault records, and RESUME. -/

namespace Sys2Proof.Machine

/-- ERET: the handler's threads leave their clause; once no operation of the trap bank is outstanding the bank is
discarded, and the handler starts again while records remain (R377). -/
def execEret (sc : Scope) (p : BitVec 3) (s : State) : Out :=
  onIssue s fun i =>
    match s.actors i sc p.toNat with
    | [] => s
    | t :: _ =>
      let c := coreOf t
      (((s.leaveIssues i.group).modBlock c fun b => { b with ending := true }).eretTest c).settle t

/-! ## Warps by name (R347) -/

/-- The warp key that a warp name names in a block, where that warp is resident. -/
def State.namedWarp (s : State) (c name : Nat) : Option Nat :=
  let slot := slotOfName name
  let w := mkWarp c slot 0
  if (if name < 0x8000 then name < 63 else slot < 63) && s.warpResident w
      && (s.warp w).spawned == decide (0x8000 ≤ name) then some w
  else none

/-- The threads of a warp, live or not, with the home lanes that have none left out. -/
def State.threadsOf (s : State) (w : Nat) : List Nat :=
  ((List.range 32).map fun l => w * 32 + l).filter fun t => (s.threads.find t).isSome

/-- A thread that a RESUME may name: suspended or parked (DEDUCED, log entry 81). -/
def Thread.stopped (th : Thread) : Bool := th.susp || th.parked

/-- Where a clause in progress stops a thread of its group: at its next word; at its header before the first. -/
def Issue.stopPoint (i : Issue) : Option StopAt :=
  if i.pos = 0 then none else some (i.here (opLits i.head.cls (i.words.getD i.pos 0)))

/-- The threads of a warp that are not suspended stop at their next word boundary, and count as suspended
(R348). -/
def State.stopWarp (s : State) (w : Nat) : State :=
  let ts := (s.liveOf w).filter fun t => !(s.thr t).stopped
  let s := (s.issues ++ s.halted).foldl (fun s e =>
    s.modThrs (e.2.group.filter ts.contains) fun th => { th with pc := e.2.hdr, stop := e.2.stopPoint }) s
  (s.leaveIssues ts).modThrs ts fun th =>
    { th with susp := true, npc := none, rdv := none, stop := th.stop.map fun q => { q with parks := false } }

/-! ## CTX.RD and CTX.WR (R378) -/

/-- A context selector: the warp name, the item and its index. -/
structure CtxSel where
  name : Nat
  item : Nat
  index : Nat

def ctxSelOf (w : Word) : CtxSel :=
  { name := bitsOf w.toNat 15 0, item := bitsOf w.toNat 23 16, index := bitsOf w.toNat 31 24 }

/-- Whether a selector names an item of a warp with a quota. -/
def CtxSel.ok (x : CtxSel) (quota : Nat) : Bool :=
  match x.item with
  | 0 => x.index < quota
  | 1 => x.index < 24
  | 6 => x.index < 8
  | 2 | 3 | 4 | 5 | 7 | 8 | 9 => x.index = 0
  | _ => false

/-- Whether a thread is parked: behind a recorded access, or at the instruction that a translation cause stopped (R182). -/
def Thread.isParked (th : Thread) : Bool := th.parked || (th.susp && th.stop.any StopAt.parks)

/-- The status item (DEDUCED, log entry 81). -/
def Thread.status (th : Thread) : Word :=
  let task := th.task
  w32n ((if th.live then 0 else 1) + (if th.stopped then 2 else 0) + (if th.isParked then 4 else 0)
    + (if (task.bind Task.bracket).isSome then 8 else 0) + if task.isSome then 16 else 0)

/-- An item of a thread or of its warp. -/
def State.ctxItem (s : State) (t : Nat) (x : CtxSel) : Word :=
  let th := s.thr t
  let wp := s.warp (warpKeyOf t)
  match x.item with
  | 0 => th.v.get x.index 0
  | 1 => wp.s.get x.index 0
  | 2 => predWord th.p
  | 3 => th.cf.setWidth 32
  | 4 => th.pc.setWidth 32
  | 5 => w32n (th.pc.toNat / 2 ^ 32)
  | 6 => wp.j.get x.index 0
  | 7 => th.status
  | 8 => th.sp.setWidth 32
  | _ => w32n (th.sp.toNat / 2 ^ 32)

/-- Whether an item belongs to the warp. -/
def CtxSel.perWarp (x : CtxSel) : Bool := x.item = 1 || x.item = 6

/-- CTX.RD for the handler: the target stops, and each lane receives its item (DEDUCED, log entry 80). -/
def State.ctxRead (s : State) (i : Issue) (sc : Scope) (d a t : Nat) : Ran :=
  let x := ctxSelOf (s.reg t a)
  match s.namedWarp (coreOf t) x.name with
  | none => ranBad s (plainFault clsBudget)
  | some w =>
    if !x.ok (s.warp w).quota then ranBad s (plainFault clsBudget)
    else
      let s := s.stopWarp w
      let lane (l : Nat) : Word :=
        if x.perWarp || (s.threads.find (w * 32 + l)).isSome then s.ctxItem (w * 32 + l) x else 0
      let acc := s.mkAccess i sc t true (.priv d)
      ran ((s.setFlags acc).opFor t acc 0 0 (some ((List.range 32).map lane)))

def execCtxRd (sc : Scope) (d a : BitVec 7) (p : BitVec 3) (s : State) : Out :=
  onIssue s fun i => s.eachOr i sc p.toNat 0 fun s t => s.ctxRead i sc d.toNat a.toNat t

/-- Whether CTX.WR may write an item, and a value into it. -/
def CtxSel.takes (x : CtxSel) (v : Word) : Bool :=
  match x.item with
  | 0 | 1 | 2 | 6 => true
  | 4 => v.toNat % 4 = 0
  | 5 | 9 => v.toNat < 2 ^ 16
  | 8 => v.toNat % 16 = 0
  | _ => false

/-- The high or the low part of a 48-bit value replaced. -/
def setPart48 (x : BitVec 48) (high : Bool) (v : Word) : BitVec 48 :=
  BitVec.ofNat 48 (if high then v.toNat % 2 ^ 16 * 2 ^ 32 + x.toNat % 2 ^ 32 else x.toNat / 2 ^ 32 * 2 ^ 32 + v.toNat)

/-- A thread sent to another address: nothing of the clause where it stood is left (DEDUCED, log entry 78). -/
def Thread.sendTo (th : Thread) (pc : BitVec 48) : Thread :=
  { th with pc := pc, npc := none, stop := none, rdv := none, brx := none, refill := none, popped := none }

/-- An item written. -/
def State.putItem (s : State) (t : Nat) (x : CtxSel) (v : Word) : State :=
  let w := warpKeyOf t
  match x.item with
  | 0 => s.setVec t x.index v
  | 1 => s.setUni w x.index v
  | 2 => s.modThr t fun th => { th with p := v.setWidth 8 &&& 0xFE }
  | 4 => s.modThr t fun th => th.sendTo (setPart48 th.pc false v)
  | 5 => s.modThr t fun th => th.sendTo (setPart48 th.pc true v)
  | 6 => (s.modWarp w fun wp => { wp with j := wp.j.put x.index v }).joinTest w x.index
  | 8 => s.modThr t fun th => { th with sp := setPart48 th.sp false v }
  | 9 => s.modThr t fun th => { th with sp := setPart48 th.sp true v }
  | _ => s

/-- CTX.WR for the guarded lanes: the target stops, and their values are written in ascending lane (DEDUCED,
log entry 80). -/
def State.ctxWrite (s : State) (i : Issue) (sc : Scope) (a b : Nat) (lanes : List Nat) (t : Nat) : Ran :=
  let x := ctxSelOf (s.reg t a)
  match s.namedWarp (coreOf t) x.name with
  | none => ranBad s (plainFault clsBudget)
  | some w =>
    let has (m : Nat) : Bool := (s.threads.find (w * 32 + laneOf m)).isSome
    let ms := lanes.filter has
    if !x.ok (s.warp w).quota || x.item = 3 || x.item = 7 || ms.any fun m => !x.takes (s.reg m b) then
      ranBad s (plainFault clsBudget)
    else
      let vs := ms.map fun m => (w * 32 + laneOf m, s.reg m b)
      let s := vs.foldl (fun s e => s.putItem e.1 x e.2) (s.stopWarp w)
      let acc := s.mkAccess i sc t true (.priv 120)
      ran ((s.setFlags acc).opFor t acc 0 0 (some []))

def execCtxWr (sc : Scope) (a b : BitVec 7) (p : BitVec 3) (s : State) : Out :=
  onIssue s fun i =>
    let lanes := s.guarded i p.toNat
    match i.group, lanes with
    | t :: _, _ :: _ =>
      let r := s.ctxWrite i sc a.toNat b.toNat lanes t
      match r.2 with
      | none => r.1
      | some f => r.1.raiseMany i sc 0 1 [(t, f)]
    | _, _ => s

/-! ## FAULT.RD (R347, R379) -/

/-- FAULT.RD: the oldest record leaves the queue, a waiting one takes its place; zeros where there is none. -/
def State.faultRead (s : State) (i : Issue) (sc : Scope) (d t : Nat) : State :=
  let c := coreOf t
  let acc := s.mkAccess i sc t true (.priv d)
  let ws := match (s.block c).recs with
    | r :: _ => r.toWords
    | [] => List.replicate 12 0
  let s := s.modBlock c fun b => pushRecs { b with recs := b.recs.drop 1, waitRecs := [] } b.waitRecs
  (s.setFlags acc).opFor t acc 0 0 (some ws)

def execFaultRd (sc : Scope) (d : BitVec 7) (p : BitVec 3) (s : State) : Out :=
  onIssue s fun i => s.eachOr i sc p.toNat 0 fun s t => ran (s.faultRead i sc d.toNat t)

/-! ## RESUME (R348, R380) -/

/-- Next(H) of the header at an address, from COUNT of the word there; a fetch that faults is a fault anew
(DEDUCED, log entry 108). -/
def State.skipClause (s : State) (t : Nat) : State :=
  let pc := (s.thr t).pc
  match s.fetch t pc.toNat with
  | (.error f, s) => s.raise [t] { hdr := pc, word := 0, scope := .lane, swcode := 0, detail := 0 } f none
  | (.ok w, s) => s.modThr t fun th => th.sendTo (pc + BitVec.ofNat 48 (4 * (w.toNat % 16 + 1)))

/-- Literals of the word at a place of the clause at a thread's program counter. -/
def Look.litsAt (l : Look) (pos : Nat) : Nat :=
  match l with
  | .clause h ws => opLits h.cls (ws.getD pos 0)
  | _ => 0

/-- The recorded work of a parked thread discarded; what an ordering instruction holds back of any other thread still
leaves (R93, R348). -/
def State.dropRecorded (s : State) (t : Nat) : State := if (s.thr t).parked then s.dropDeferred t else s

/-- SKIP of one thread: after TRAP the group goes on at Next(H) in every mode (R96, R348) (DEDUCED, log entry 108). -/
def State.resumeSkip (s : State) (t : Nat) : State :=
  let s := s.dropRecorded t
  let th := s.thr t
  let s := s.modThr t fun th => { th with susp := false, parked := false, trapped := false }
  match th.stop with
  | some p =>
    if p.count ≤ p.next then
      s.modThr t fun th => th.sendTo (th.pc + BitVec.ofNat 48 (4 * (p.count + 1)))
    else
      let q : StopAt := { p with word := p.next, next := p.next + 1 + (s.look t).litsAt p.next }
      s.modThr t fun th => { th.sendTo th.pc with stop := some q }
  | none => if th.parked || th.trapped then s else s.skipClause t

/-- CONTINUE of one thread: it is suspended no longer, and its recorded accesses may leave again (DEDUCED, log entry
43). -/
def State.resumeContinue (s : State) (t : Nat) : State :=
  s.modThr t fun th => { th with susp := false, parked := false, trapped := false }

/-- KILL of one thread: a task aborts, any other thread exits (DEDUCED, log entry 64). -/
def State.resumeKill (s : State) (t : Nat) : State :=
  let s := s.dropRecorded t
  match (s.thr t).task with
  | none => s.exitThread t
  | some k =>
    match k.phase with
    | .abort | .inverse | .leaving =>
      (s.modThr t fun th => { th with susp := false, parked := false, trapped := false }).modTask t fun k => { k with killed := true }
    | _ => s.takeAbort t true

/-- One thread resumed in a mode: 0 CONTINUE, 1 SKIP, 2 KILL. Of a thread that has exited, the accesses that still wait
go on or are discarded (DEDUCED, log entry 81; DEDUCED, log entry 116). -/
def State.resumeOne (s : State) (mode t : Nat) : State :=
  match mode, (s.thr t).live with
  | 0, _ => s.resumeContinue t
  | _, false => (s.dropRecorded t).resumeContinue t
  | 1, true => s.resumeSkip t
  | _, true => s.resumeKill t

/-- The lanes that a RESUME names, in a warp: threads, or exited ones whose accesses still wait. -/
def State.namedLanes (s : State) (w : Nat) (lanes : Word) : List Nat :=
  ((maskBits lanes.toNat 32).map fun l => w * 32 + l).filter fun t =>
    ((s.thr t).live || !(s.thr t).deferred.isEmpty) && (s.thr t).stopped

/-- RESUME: the raster work of warp 0, the engine commands of the named threads, then the threads, whose recorded work
is replayed in its order once all of them go on; their launch may then finish (R343, R348, R445, R446). -/
def State.resume (s : State) (mode name : Nat) (lanes : Word) (t : Nat) : Ran :=
  let c := coreOf t
  let go (s : State) (w : Nat) : State :=
    let ts := s.namedLanes w lanes
    ((ts.foldl (fun s m => s.resumeOne mode m) (s.resumeCmds c ts (mode = 0))).drainCore c).joinTests ts
  match s.namedWarp c name with
  | some w => ran ((go (if name = 0 then s.resumeRaster c mode else s) w).settle t)
  | none => if name = 0 then ran ((s.resumeRaster c mode).settle t) else ranBad s (plainFault clsBudget)

/-- RESUME in a mode. -/
def resumeMode (mode : Nat) (sc : Scope) (a b : BitVec 7) (p : BitVec 3) (s : State) : Out :=
  onIssue s fun i => s.eachOr i sc p.toNat 0 fun s t =>
    s.resume mode ((s.reg t a.toNat).toNat % 2 ^ 16) (s.reg t b.toNat) t

def execResumeContinue (sc : Scope) (a b : BitVec 7) (p : BitVec 3) (s : State) : Out := resumeMode 0 sc a b p s
def execResumeSkip (sc : Scope) (a b : BitVec 7) (p : BitVec 3) (s : State) : Out := resumeMode 1 sc a b p s
def execResumeKill (sc : Scope) (a b : BitVec 7) (p : BitVec 3) (s : State) : Out := resumeMode 2 sc a b p s

end Sys2Proof.Machine
end

