-- ==== Sys2Proof/Machine/Agent.lean ====
section
/-! DEFINITION. The system registers (R374-R376), TLB.INV (R381), and what the firmware agent does (R142, R383-R386,
R422): claims, the installing and stopping of blocks, saves and restores, drains and the clearing of storage. -/

namespace Sys2Proof.Machine

/-! ## The registers of a context (R21, R300, R344, R175) -/

def legacyMask : Dword := 0xFFFFFFFFFF0D02C9
def trapMask : Dword := 0x0000FFFFFFFFFFFD
def rootMask : Dword := 0x000FFFFFFFFFF001

/-- ctx.legacy written: LKERR clears (R21, R23). -/
def State.putLegacy (s : State) (v x : Nat) (w : Dword) : State :=
  s.modCtx v x fun k => { k with legacy := w &&& legacyMask }

/-- Whether vdev.owner lets a context of a virtual device take an owner (R375). -/
def Vdev.ownerOk (d : Vdev) (o : Nat) : Bool :=
  o = 255 || (d.owner.toNat % 256 ≤ o && o ≤ bitsOf d.owner.toNat 15 8)

/-- ctx.owner written, or ignored. -/
def State.putOwner (s : State) (v x : Nat) (w : Dword) : State :=
  if (s.vdev v).ownerOk (w.toNat % 256) then s.modCtx v x fun k => { k with owner := d64 (w.toNat % 256) } else s

def State.putTrap (s : State) (v x : Nat) (w : Dword) : State :=
  s.modCtx v x fun k => { k with trap := w &&& trapMask }

def State.putTtb (s : State) (v x : Nat) (w : Dword) : State :=
  s.modCtx v x fun k => { k with ttb := w &&& rootMask }

/-! ## SRD and SWR (R374-R376, R421) -/

/-- The context that ctx.* reach: sys.sel's in the agent, the block's own in a handler. -/
def State.sysCtx (s : State) (t : Nat) (f : Ctx → Dword) : Dword :=
  let tag := s.tagOf t
  ((s.ctx? tag.1 tag.2).map f).getD 0

/-- spec.stat: of the handler's launch, or of the launch of the selected context whose block is on the agent's
core. -/
def State.sysSpec (s : State) (t : Nat) : Dword :=
  let b := s.block (coreOf t)
  if isAgent t && !(b.active && (b.vdev, b.ctx) = s.tagOf t && (s.ctx? b.vdev b.ctx).isSome) then 0
  else (s.specOf b.launch).stat

/-- The value of a system register in an agent or a handler; `none` where it is not reached (DEDUCED, log entry 90). -/
def State.sysRead (s : State) (t n : Nat) : Option Dword :=
  let v := (s.tagOf t).1
  let ag := isAgent t
  match n with
  | 0 => some (s.sysCtx t Ctx.legacy)
  | 1 => some (s.sysCtx t Ctx.owner)
  | 2 => some (s.sysCtx t Ctx.trap)
  | 3 => some (s.sysCtx t Ctx.ttb)
  | 4 => some (s.sysSpec t)
  | 23 => some (s.vdev v).owner
  | 16 => if ag then some (s.vdev v).s2tb else none
  | 17 => if ag then some (s.vdev v).save else none
  | 18 => if ag then some (s.vdev v).savefb else none
  | 19 => if ag then some (s.vdev v).savefault else none
  | 20 => if ag then some (s.vdev v).tmlog else none
  | 21 => if ag then some (s.vdev v).tmptr else none
  | 22 => if ag then some (s.vdev v).tmcount else none
  | 32 => if ag then some s.hotCfg else none
  | 33 => if ag then some s.hotRing else none
  | 34 => if ag then some s.hotPtr else none
  | 35 => if ag then some s.qepoch else none
  | 36 => if ag then some s.qstat else none
  | 48 => if ag then some (s.core (coreOf t)).sysSel else none
  | 49 => if ag then some (s.core (coreOf t)).sysRst else none
  | _ => none

/-- HEAD of vdev.tmptr written; TAIL is kept (R316). -/
def State.putTmptr (s : State) (v : Nat) (w : Dword) : State :=
  s.modVdev v fun d => { d with tmptr := (d.tmptr &&& 0xFFFFFFFF00000000) ||| (w &&& 0xFFFFFFFF) }

/-- vdev.tmcount written (R316). -/
def State.putTmcount (s : State) (v : Nat) (w : Dword) : State :=
  s.modVdev v fun d => { d with tmcount := w &&& 0xFFFFFFFF }

/-- A system register written by an agent; a register that is read-only to it keeps its value. -/
def State.sysWrite (s : State) (t n : Nat) (w : Dword) : State :=
  let tag := s.tagOf t
  if !isAgent t then s
  else match n with
  | 0 => s.putLegacy tag.1 tag.2 w
  | 1 => s.putOwner tag.1 tag.2 w
  | 2 => s.putTrap tag.1 tag.2 w
  | 3 => s.putTtb tag.1 tag.2 w
  | 21 => s.putTmptr tag.1 w
  | 22 => s.putTmcount tag.1 w
  | 48 => s.modCore (coreOf t) fun k => { k with sysSel := w &&& 0x0000FFFF0000001F }
  | 49 => s.rstAck (coreOf t) w
  | _ => s

/-- SRD for one thread. -/
def State.srdOne (s : State) (i : Issue) (sc : Scope) (d n t : Nat) : Ran :=
  match s.sysRead t n with
  | none => ranBad s (plainFault clsIllegalOp)
  | some w => ran (s.setRegs t (s.destWarps i sc t) d [loW w, hiW w])

def execSrd (sc : Scope) (d : BitVec 7) (n : BitVec 10) (s : State) : Out :=
  onIssue s fun i => s.eachOr i sc 0 0 fun s t => s.srdOne i sc d.toNat n.toNat t

/-- SWR for one thread. -/
def State.swrOne (s : State) (a n t : Nat) : Ran :=
  match s.sysRead t n with
  | none => ranBad s (plainFault clsIllegalOp)
  | some _ => ran (s.sysWrite t n (s.pairReg t a))

def execSwr (sc : Scope) (a : BitVec 7) (n : BitVec 10) (s : State) : Out :=
  onIssue s fun i => s.eachOr i sc 0 0 fun s t => s.swrOne a.toNat n.toNat t

/-! ## TLB.INV (R381) -/

/-- Whether an invalidation removes an entry. -/
def TlbEnt.named (e : TlbEnt) (kind v x : Nat) (a : Dword) : Bool :=
  e.vdev = v && match kind with
    | 0 => e.ctx = x && e.va ≤ a.toNat && a.toNat < e.va + e.size
    | 1 => e.ctx = x
    | 2 => true
    | _ => e.ia / 2 ^ e.z2 = a.toNat / 2 ^ e.z2

/-- New roots put in force on a core (R175) (DEDUCED, log entry 109). -/
def State.newRoots (s : State) (kind v x : Nat) (k : Core) : Core :=
  match kind with
  | 1 => { k with ttbs := k.ttbs.put (v * 65536 + x) (((s.ctx? v x).map Ctx.ttb).getD 0) }
  | 2 =>
    let keep := k.ttbs.filter fun e => e.1 / 65536 ≠ v
    { k with
      ttbs := (s.vdev v).ctxs.foldl (fun t c => Tab.put t (v * 65536 + c.1) c.2.ttb) keep
      s2tbs := k.s2tbs.put v (s.vdev v).s2tb }
  | _ => k

/-- The entries that an invalidation names removed from a core's TLB, and its roots put in force (DEDUCED, log entry 82). -/
def State.invalidate (s : State) (core kind v x : Nat) (a : Dword) : State :=
  s.modCore core fun k => s.newRoots kind v x { k with tlb := k.tlb.filter fun e => !e.named kind v x a }

/-- The cores that an invalidation covers. -/
def coveredCores (core : Nat) (all : Bool) : List Nat := if all then List.range 144 else [core]

/-- TLB.INV for the issuing group: a bad control word, or one that leaves a handler's own context, is BUDGET. -/
def State.tlbInvOne (s : State) (i : Issue) (sc : Scope) (a b t : Nat) : Ran :=
  let c := coreOf t
  let w := (s.reg t b).toNat
  let v := bitsOf w 12 8
  let x := bitsOf w 31 16
  let all := bitOf w 4
  let kind := w % 8
  if bitsOf w 15 13 ≠ 0 || bitsOf w 7 5 ≠ 0 || bitOf w 3 || 3 < kind || (isHandler t && ((v, x) ≠ s.tagOf t || all)) then
    ranBad s (plainFault clsBudget)
  else
    let s := (coveredCores c all).foldl (fun s k => s.invalidate k kind v x (s.pairReg t a)) s
    let acc := s.mkAccess i sc t true (.tlbInv kind v x all)
    ran ((s.setFlags acc).opFor t acc 0 0 (some []))

/-- DEDUCED, log entry 82. -/
def execTlbInv (sc : Scope) (a b : BitVec 7) (p : BitVec 3) (s : State) : Out :=
  onIssue s fun i => s.eachOr i sc p.toNat 0 fun s t => s.tlbInvOne i sc a.toNat b.toNat t

/-! ## AGENT.CLAIM (R142, R383) -/

/-- The launch of the lowest ticket not yet placed that names a core; the one that the core is reserved for
already comes first. Ticket order is never bypassed: while that launch's queue is out of its slot, the core serves no
later ticket (R138, R144) (DEDUCED, log entry 84). -/
def State.claimable (s : State) (c : Nat) : Option Nat :=
  let due := s.launches.filter fun e => (s.dueCores e.1 e.2).contains c
  let first := match (if (s.block c).active then none else (s.core c).reserved) with
    | some l => due.find? fun e : Nat × Launch => e.1 = l
    | none => (sortBy (fun e : Nat × Launch => e.2.ticket.getD 0) due).head?
  match first with
  | some e => if (s.chosenCores e.1 e.2).contains c then some e.1 else none
  | none => none

/-- Whether a launch may pre-empt the resident grid of a core: that grid's class is lower, and its queue is
preemptible (R139, R142). -/
def State.outranks (s : State) (l c : Nat) : Bool :=
  match s.launch? l, s.launch? (s.block c).launch with
  | some x, some y => x.cls < y.cls && (s.queue y.vdev y.queue).preemptible
  | _, _ => false

/-- The words of a claim: ticket, slot and virtual device, context, and the rank of the core. -/
def State.claimWords (s : State) (c : Nat) (x : Launch) (cores : List Nat) : List Word :=
  let slot := ((s.queue x.vdev x.queue).slot).getD 0
  [w32n (x.ticket.getD 0), w32n (slot + x.vdev * 2 ^ 8), w32n x.ctx, w32n (cores.idxOf c)]

/-! ## Placement (R142, R384) -/

/-- A thread at its start: its stack pointer from the low 48 bits of the record's stack (R132, R384), and what placing
acquired (R202) (DESIGN CHOICE, log entry 122). -/
def startThread (x : Launch) (rank tid : Nat) : Thread :=
  let r := x.record
  let n := 2048 * rank + tid
  { Thread.empty with
    live := true, pc := BitVec.ofNat 48 r.code, seen := x.acquired
    sp := BitVec.ofNat 48 (r.stack + (n + 1) * 16 * r.stackSz)
    base := BitVec.ofNat 48 (r.stack + n * 16 * r.stackSz) }

/-- A block at its start (R25, R165, R384); sr.workid is 0 before its first TILE.NEXT (DESIGN CHOICE, log entry 130). -/
def startBlock (l : Nat) (x : Launch) (c rank : Nat) (k : Ctx) : Block :=
  let r := x.record
  { Block.empty with
    active := true, launch := l, rank := rank, vdev := x.vdev, ctx := x.ctx, cluster := clusterOfCore c
    die := dieOfCore c, legacy := k.legacy, owner := k.owner.setWidth 8, trap := k.trap, nwarps := r.warps
    vrf := partVrf r.part, scr := partScr r.part, acc := partAcc r.part, budget := r.budget, sets := r.sets
    const := x.argBytes, barmask := x.masks, regions := x.regions }

/-- The window word at BLK.START (R266). -/
def startWindow (acc : Nat) : Word := if acc = 0 then 1 else w32n ((64 * acc - 1) * 2 ^ 16)

/-- The storage of a core written to 0 (DEDUCED, log entry 89). -/
def State.zeroStorage (s : State) (c : Nat) : State :=
  { s with
    scratch := s.scratch.clear (c * 2 ^ 24) (2 ^ 24), accm := s.accm.clear (c * 2 ^ 24) (2 ^ 24)
    wbuf := s.wbuf.clear (c * 2 ^ 24) (2 ^ 24) }

/-- A block's warp w and its 32 threads at their start. -/
def State.startWarp (s : State) (x : Launch) (c rank w : Nat) : State :=
  let key := mkWarp c (warpSlot w) 0
  let s := s.setWarp key { Warp.empty with
    used := true, no := w, quota := x.record.budget, win := startWindow (partAcc x.record.part) }
  (List.range 32).foldl (fun s h => s.setThr (key * 32 + h) (startThread x rank (32 * w + h))) s

/-- The block of a rank installed on a core (DEDUCED, log entry 76). -/
def State.install (s : State) (l : Nat) (x : Launch) (c : Nat) : State :=
  let rank := x.cores.idxOf c
  let k := (s.ctx? x.vdev x.ctx).getD Ctx.empty
  let s := ((s.clearBlock c).zeroStorage c).setBlock c (startBlock l x c rank k)
  let s := (List.range x.record.warps).foldl (fun s w => s.startWarp x c rank w) s
  let s := s.setThr (rasterThread c) { Thread.empty with seen := x.acquired }
  let s := s.modCore c fun z => { z with storageOf := some x.vdev, finished := false }
  (s.testLock x.vdev x.ctx k.legacy).modLaunch l fun y => { y with installed := sortBy id (c :: y.installed) }

/-- Operations of one kind of access, not yet answered. -/
def State.asking (s : State) (f : Acc → Bool) : List Nat :=
  (s.ops.filter fun e => e.2.result.isNone && f e.2.acc.acc).map Prod.fst

/-- Operations answered with nothing to deliver. -/
def State.answerOps (s : State) (ids : List Nat) : State :=
  ids.foldl (fun s k => match s.ops.find k with
    | some o => { s with ops := s.ops.put k { o with result := some [] } }
    | none => s) s

/-- A waiting BLK.START of a core of a launch that is being placed installs its block. -/
def State.installOn (s : State) (l c : Nat) : State :=
  match s.launch? l with
  | none => s
  | some x =>
    let ids := s.asking fun a => match a with | .blkStart k => k = c | _ => false
    if x.phase = .placing && !ids.isEmpty && !x.installed.contains c then (s.install l x c).answerOps ids else s

/-- Placement, once every core of the launch is reserved; the launch issues once every block is installed, unless its
queue is to give up its slot (R139, R142). -/
def State.tryPlace (s : State) (l : Nat) : State :=
  let ready (x : Launch) : Bool := x.phase = .ticketed && s.mayStart l x
    && (coresOf x.record.cores).all fun c => (s.core c).reserved = some l
  let s := s.modLaunch l fun x =>
    if ready x then { x with phase := .placing, cores := coresOf x.record.cores, homeCounter := 0, runs := [{ next := 0, stop := 0 }, { next := 0, stop := 0 }] } else x
  match s.launch? l with
  | none => s
  | some x =>
    let s := x.cores.foldl (fun s c => s.installOn l c) s
    let s := s.modLaunch l fun x =>
      if x.phase = .placing && x.installed.length = x.cores.length then { x with phase := .running } else x
    let freezing := (s.vdev x.vdev).busy && !s.resets.contains x.vdev
    if (s.asking fun a => a = .gang l false).isEmpty && !freezing && !x.evict then s else s.preempt l

/-- The restore starts once every chosen core is reserved and its agent has issued CTX.LOAD (R352, R385)
(DEDUCED, log entry 87). -/
def State.tryRestore (s : State) (l : Nat) : State :=
  match s.launch? l with
  | none => s
  | some x =>
    let asked := (s.ops.filter fun e => e.2.acc.acc = .gang l true && e.2.result.isNone).map fun e => coreOf e.2.thr
    match x.phase with
    | .saved fb =>
      if !x.cores.isEmpty && x.cores.all fun c => (s.core c).reserved = some l && asked.contains c then
        (s.modLaunch l fun y => { y with phase := .restoring 0 fb }).restoreRun l
      else s
    | _ => s

/-- A claim: a resident grid of a lower class gives way; the core is reserved, and the launch is placed or restored if
that was all it waited for (R142, R383) (DEDUCED, log entry 84). -/
def State.claim (s : State) (c : Nat) : List Word × State :=
  let none4 : List Word := List.replicate 4 0xFFFFFFFF
  match s.claimable c with
  | none => (none4, s)
  | some l =>
    let s := if (s.block c).active && s.outranks l c then s.preempt (s.block c).launch else s
    match s.launch? l, (s.block c).active with
    | some x, false =>
      let cores := s.chosenCores l x
      let ws := s.claimWords c x cores
      let s := s.modCore c fun k => { k with reserved := some l, finished := false }
      let s := s.modLaunch l fun y => { y with
        reserved := if y.reserved.contains c then y.reserved else c :: y.reserved
        cores := match y.phase with | .saved _ => cores | _ => y.cores }
      (ws, (s.tryPlace l).tryRestore l)
    | _, _ => (none4, s)

def execAgentClaim (sc : Scope) (d : BitVec 7) (p : BitVec 3) (s : State) : Out :=
  onIssue s fun i => s.eachOr i sc p.toNat 0 fun s t =>
    let r := s.claim (coreOf t)
    let acc := r.2.mkAccess i sc t true (.priv d.toNat)
    ran ((r.2.setFlags acc).opFor t acc 0 0 (some r.1))

/-! ## BLK.START, BLK.STOP, CTX.SAVE and CTX.LOAD (R384, R385) -/

/-- The launch of the queue bound to a hub queue slot. -/
def State.launchOfSlot (s : State) (slot : Nat) : Option Nat :=
  match s.allQueues.find? fun q => (s.queue q.1 q.2).slot = some slot with
  | some q => (s.queue q.1 q.2).current
  | none => none

/-- The launch that a slot names and that has reserved a core. -/
def State.reservedSlot (s : State) (c slot : Nat) : Option (Nat × Launch) :=
  match s.launchOfSlot slot with
  | none => none
  | some l => if (s.core c).reserved = some l then (s.launch? l).map fun x => (l, x) else none

/-- A long-latency word of the agent that waits for an answer. -/
def State.ask (s : State) (i : Issue) (sc : Scope) (t : Nat) (acc : Acc) : State :=
  let a := s.mkAccess i sc t true acc
  (s.setFlags a).opFor t a 0 0 none

/-- BLK.START of one agent. -/
def State.blkStart (s : State) (i : Issue) (sc : Scope) (a t : Nat) : Ran :=
  let c := coreOf t
  match s.reservedSlot c (s.reg t a).toNat with
  | none => ranBad s (plainFault clsBudget)
  | some (l, x) =>
    if (x.phase = .ticketed || x.phase = .placing) && !x.installed.contains c then
      ran ((s.ask i sc t (.blkStart c)).tryPlace l)
    else ranBad s (plainFault clsBudget)

/-- DEDUCED, log entry 85. -/
def execBlkStart (sc : Scope) (a : BitVec 7) (p : BitVec 3) (s : State) : Out :=
  onIssue s fun i => s.eachOr i sc p.toNat 0 fun s t => s.blkStart i sc a.toNat t

/-- A launch stopped on every core: its threads end, its queue halts with ERR 15, and agents that wait for it go
on (DEDUCED, log entry 86). -/
def State.stopLaunch (s : State) (l : Nat) (x : Launch) : State :=
  let ids := s.asking fun a => match a with
    | .blkStart k => x.reserved.contains k
    | .gang n _ => n = l
    | _ => false
  (s.answerOps ids).abortLaunch l 15

/-- BLK.STOP of one agent: the slot's launch has reserved this core, or sys.rst names the slot (R384, R421)
(DEDUCED, log entry 86). -/
def State.blkStop (s : State) (i : Issue) (sc : Scope) (a t : Nat) : Ran :=
  let c := coreOf t
  let slot := (s.reg t a).toNat
  let r := (s.core c).sysRst.toNat
  let named := match s.launchOfSlot slot with
    | none => none
    | some l => if r % 8 = 1 && bitsOf r 21 16 = slot then (s.launch? l).map fun x => (l, x) else none
  match (s.reservedSlot c slot).orElse fun _ => named with
  | none => ranBad s (plainFault clsBudget)
  | some (l, x) => ran (((s.ask i sc t (.priv 120)).stopLaunch l x).answerOps [s.nextOp])

def execBlkStop (sc : Scope) (a : BitVec 7) (p : BitVec 3) (s : State) : Out :=
  onIssue s fun i => s.eachOr i sc p.toNat 0 fun s t => s.blkStop i sc a.toNat t

/-- CTX.SAVE of one agent: the save is made, or one under way is joined (DEDUCED, log entry 87). -/
def State.ctxSave (s : State) (i : Issue) (sc : Scope) (a t : Nat) : Ran :=
  match s.reservedSlot (coreOf t) (s.reg t a).toNat with
  | none => ranBad s (plainFault clsBudget)
  | some (l, x) =>
    if !x.resident || x.installed.isEmpty then ranBad s (plainFault clsBudget)
    else ran ((s.ask i sc t (.gang l false)).preempt l)

def execCtxSave (sc : Scope) (a : BitVec 7) (p : BitVec 3) (s : State) : Out :=
  onIssue s fun i => s.eachOr i sc p.toNat 0 fun s t => s.ctxSave i sc a.toNat t

/-- CTX.LOAD of one agent (DEDUCED, log entry 87). -/
def State.ctxLoad (s : State) (i : Issue) (sc : Scope) (a t : Nat) : Ran :=
  match s.reservedSlot (coreOf t) (s.reg t a).toNat with
  | none => ranBad s (plainFault clsBudget)
  | some (l, x) =>
    let saved := match x.phase with | .saved _ => true | _ => false
    if !saved || (s.vdev x.vdev).shareCores.length < x.installed.length then ranBad s (plainFault clsBudget)
    else ran ((s.ask i sc t (.gang l true)).tryRestore l)

def execCtxLoad (sc : Scope) (a : BitVec 7) (p : BitVec 3) (s : State) : Out :=
  onIssue s fun i => s.eachOr i sc p.toNat 0 fun s t => s.ctxLoad i sc a.toNat t

/-! ## VDEV.DRAIN and POOL.CLR (R386, R422) -/

/-- VDEV.DRAIN: requests of the virtual device are held until those in flight are gone (DEDUCED, log entry 88). -/
def State.vdevDrain (s : State) (i : Issue) (sc : Scope) (a t : Nat) : Ran :=
  let v := (s.reg t a).toNat
  if 32 ≤ v then ranBad s (plainFault clsBudget)
  else ran ((s.modVdev v fun d => { d with draining := true }).ask i sc t (.vdrain v))

def execVdevDrain (sc : Scope) (a : BitVec 7) (p : BitVec 3) (s : State) : Out :=
  onIssue s fun i => s.eachOr i sc p.toNat 0 fun s t => s.vdevDrain i sc a.toNat t

/-- A thread whose state in the core's storage is 0: registers, predicates, flags, program counter, return stack, call
depth, stack pointer and staged words (R386). -/
def Thread.zeroed (th : Thread) : Thread :=
  { th with v := [], p := 0, cf := 0, pc := 0, npc := none, ret := [], spilled := 0, depth := 0, sp := 0, base := 0
            stop := none, arr := [], rdv := none, staged := [] }

/-- The pool, the weight buffer, the constant store and the thread state of a core written to 0 (DEDUCED,
log entry 89). -/
def State.zeroCore (s : State) (c : Nat) : State :=
  let s := s.zeroStorage c
  let s := if (s.block c).active then s.modBlock c fun b => { b with const := [] } else s
  { s with
    threads := s.threads.map fun e => if userThread c e.1 then (e.1, e.2.zeroed) else e
    warps := s.warps.map fun e => if userThread c (e.1 * 32) then (e.1, { e.2 with s := [], j := [] }) else e }

/-- POOL.CLR (DEDUCED, log entry 89). -/
def State.poolClr (s : State) (i : Issue) (sc : Scope) (a t : Nat) : Ran :=
  let c := coreOf t
  let v := (s.reg t a).toNat
  if 32 ≤ v then ranBad s (plainFault clsBudget)
  else
    let s := if (s.core c).storageOf = some v then s.zeroCore c else s
    let s := if (s.vdev v).rstStep = 3 then s.stepWork v c else s
    let acc := s.mkAccess i sc t true (.priv 120)
    ran ((s.setFlags acc).opFor t acc 0 0 (some []))

def execPoolClr (sc : Scope) (a : BitVec 7) (p : BitVec 3) (s : State) : Out :=
  onIssue s fun i => s.eachOr i sc p.toNat 0 fun s t => s.poolClr i sc a.toNat t

end Sys2Proof.Machine
end

