-- ==== Sys2Proof/Machine/Queues.lean ====
section
/-! DEFINITION. The events of the hardware queues (R136-R139): notifies, SKIP, the check of a record, and the
slot-overdue interrupt. -/

namespace Sys2Proof.Machine

/-- A queue that has work asks for a slot: a free one, else the slot of the queue that R139 pre-empts, whose
resident launch is saved as a gang; else it waits. The choice is made when the queue becomes PENDING by a notify or a
SKIP (DESIGN CHOICE, log entry 121). -/
def State.seekSlot (s : State) (v q : Nat) : State :=
  let s := { s.modQueue v q fun x => { x with notified := s.nextNotify, phase := 1 } with nextNotify := s.nextNotify + 1 }
  match s.freeSlot with
  | some n => s.bindQueue v q n
  | none =>
    match s.victim v q with
    | none => s
    | some (w, p) =>
      match s.residentOf w p with
      | some l => s.preempt l
      | none => s.yieldSlot w p

/-- A queue halted by an overrun of its ring; a launch that is current goes on (R137) (DEDUCED, log entry 75). -/
def State.overrunHalt (s : State) (v q : Nat) : State :=
  (s.modQueue v q fun x => { x with err := 10 }).leaveSlot v q 3

/-- What a notify does to a queue whose TAIL stands: an overrun halts it; an idle queue that is enabled and has records
is bound, or waits (R137, R138, R140, R409, R416) (DEDUCED, log entry 99). -/
def State.notified (s : State) (v q : Nat) : State :=
  let x := s.queue v q
  if !x.enabled || !(s.vdev v).created || (s.vdev v).halted then s
  else if x.overrun && x.phase ≠ 3 then s.overrunHalt v q
  else if x.phase = 0 && x.tail ≠ x.head then s.seekSlot v q
  else s

/-- NOTIFY: TAIL takes the new value; the value it holds already is no notify (R136, R144). -/
def execNotify (v q : Nat) (tail : Word) (s : State) : Out :=
  .next <|
    if v < 32 && q < 16 && (s.queue v q).tail ≠ tail.toNat then
      (s.modQueue v q fun x => { x with tail := tail.toNat }).notified v q
    else s

/-- Q_STATE_SKIP: a halted queue finishes the failed record and leaves HALTED, as for a notify (R138, R144). -/
def execQStateSkip (v q : Nat) (s : State) : Out :=
  .next <|
    if (s.queue v q).phase = 3 then
      (s.modQueue v q fun x => { x with head := (x.head + 1) % 2 ^ 32, err := 0, phase := 0 }).notified v q
    else s

/-- A BOUND queue with nothing current takes its next record, or leaves its slot when none is left or it is
disabled; a launch that kept its ticket while the queue was out of its slot is placed (R138, R140, R144). -/
def execRecordCheck (v q : Nat) (s : State) : Out :=
  let qu := s.queue v q
  .next <|
    if qu.phase ≠ 2 || (s.vdev v).halted then s
    else match qu.current with
    | some l => s.tryPlace l
    | none =>
      if !qu.enabled || qu.head = qu.tail then s.leaveSlot v q 0
      else s.checkRecord v q

/-- HOLD of q.ctl. -/
def Queue.hold (q : Queue) : Nat := bitsOf q.ctl.toNat 63 32

/-- SLOT_OVERDUE: a non-preemptible holder has exceeded its bound while a queue waits: the interrupt names the
holder and the queue that the next free slot goes to, once for each binding (R139). -/
def execSlotOverdue (v q : Nat) (s : State) : Out :=
  .next <|
    let x := s.queue v q
    match s.nextPending with
    | some (w, p) =>
      if x.phase = 2 && !x.preemptible && !x.overdue && x.hold ≠ 0xFFFFFFFF then
        (s.modQueue v q fun y => { y with overdue := true }).irq irqSlotOverdue ((v * 16 + q) * 1024 + w * 16 + p)
      else s
    | none => s

end Sys2Proof.Machine
end

