-- ==== Sys2Proof/Machine/Bezel.lean ====
section
/-! DEFINITION. The compositor Bezel (R319-R327, R340): its register window, fills of the pixel maps, display modes,
present queues, composition and capture. -/

namespace Sys2Proof.Machine

/-! ## Who may write (R319) -/

def statModeErr : Nat := 2
def statLayerFlt : Nat := 4
def statCfgIgn : Nat := 8
def statFillOvf : Nat := 16

/-- A sticky bit of bz.stat set. -/
def State.bezelFlag (s : State) (m : Nat) : State := { s with bezel := { s.bezel with stat := s.bezel.stat ||| m } }

/-- A write of owner 0 acts; any other is ignored, sets CFGIGN and raises the configuration interrupt (DEDUCED,
log entry 91). -/
def State.asCompositor (s : State) (owner : Nat) (k : State → State) : State :=
  if owner = 0 then k s else (s.bezelFlag statCfgIgn).irq irqCompositor owner

/-- A display changed. -/
def State.modDisplay (s : State) (d : Nat) (f : Display → Display) : State :=
  { s with bezel := { s.bezel with displays := s.bezel.displays.put d (f (s.display d)) } }

/-! ## The tables (R321) -/

/-- BZ_TSEL_WRITE: the selection; gathered bytes are discarded. -/
def execBzTselWrite (owner : Nat) (v : Dword) (s : State) : Out :=
  .next <| s.asCompositor owner fun s =>
    { s with bezel := { s.bezel with tsel := v &&& 0xF000FFFF, gathered := [] } }

/-- The bytes of the selected entry. -/
def Bezel.entryBytes (b : Bezel) : Nat := if b.table = 2 then 8 else 32

/-- The entry that a replacement makes: gathered bytes over the bytes as they stand. -/
def Bezel.merged (b : Bezel) : Nat :=
  natOfBytes ((List.range b.entryBytes).map fun j =>
    b.gathered.get j ((bytesOfNat b.entryBytes b.selected).getD j 0))

/-- The selected entry replaced. -/
def Bezel.replace (b : Bezel) (e : Nat) : Bezel :=
  match b.table with
  | 0 => { b with surfs := b.surfs.put b.index e }
  | 1 => { b with grants := b.grants.put b.index e }
  | _ => { b with layers := b.layers.put (64 * b.tdisp + b.index) e }

/-- INDEX advanced; nothing gathered is left. -/
def Bezel.advance (b : Bezel) : Bezel :=
  { b with tsel := (b.tsel &&& 0xFFFFFFFFFFFF0000) ||| d64 ((b.index + 1) % 65536), gathered := [] }

/-- bz.tdata k written. -/
def Bezel.putData (b : Bezel) (k : Nat) (v : Dword) : Bezel :=
  if !b.inTable || (b.table = 2 && k ≠ 0) then b
  else
    let b := { b with
      gathered := (List.range 8).foldl (fun t j => Tab.put t (8 * k + j) (v.extractLsb' (8 * j) 8)) b.gathered }
    if k = 3 || b.table = 2 then (b.replace b.merged).advance else b

/-- BZ_TDATA_WRITE: bytes are gathered; the write of the last data register replaces the entry. -/
def execBzTdataWrite (owner k : Nat) (v : Dword) (s : State) : Out :=
  .next <| s.asCompositor owner fun s => { s with bezel := if k < 4 then s.bezel.putData k v else s.bezel }

/-! ## Fills (R322) -/

/-- A map entry after a fill of a part: 0 whole, 1 top byte, 2 base byte. -/
def fillEntry (part old new : Nat) : Nat :=
  match part with
  | 0 => new
  | 1 => new / 256 * 256 + old % 256
  | _ => old / 256 * 256 + new % 256

/-- The pixels of a rectangle clipped to a display. -/
def Fill.pixels (f : Fill) (w h : Nat) : List (Nat × Nat) :=
  let xs := List.range (min f.x1 w - f.x0)
  (List.range (min f.y1 h - f.y0)).flatMap fun j => xs.map fun i => (f.x0 + i, f.y0 + j)

/-- A fill's effect. -/
def State.applyFill (s : State) (f : Fill) : State :=
  let z := s.display f.disp
  let at_ (p : Nat × Nat) : Nat := mapBase f.disp + 2 * (p.2 * z.width + p.1)
  let mem := (f.pixels z.width z.height).foldl (fun (m : Mem) p =>
    m.setNum (at_ p) 2 (fillEntry f.part (m.num (at_ p) 2) f.entry)) s.mem
  { s with mem := mem }

/-- The running fill completes in one step, and the next one runs. -/
def State.completeFill (s : State) : State :=
  match s.bezel.fills with
  | [] => s
  | f :: r => let s := s.applyFill f; { s with bezel := { s.bezel with fills := r } }

/-- The fill of a write of bz.fill.b. -/
def Bezel.fillOf (b : Bezel) (v : Dword) : Fill :=
  let a := b.fillA.toNat
  { disp := bitsOf v.toNat 17 16, part := bitsOf v.toNat 19 18, entry := v.toNat % 65536, x0 := bitsOf a 15 0
    x1 := bitsOf a 47 32, y0 := bitsOf a 31 16, y1 := bitsOf a 63 48 }

/-- BZ_FILL: the fill runs or waits; PART 3 is ignored, and a write that finds 16 waiting sets FILLOVF. -/
def execBzFill (owner : Nat) (v : Dword) (s : State) : Out :=
  .next <| s.asCompositor owner fun s =>
    if bitsOf v.toNat 19 18 = 3 then s
    else if 17 ≤ s.bezel.fills.length then s.bezelFlag statFillOvf
    else { s with bezel := { s.bezel with fills := s.bezel.fills ++ [s.bezel.fillOf v] } }

/-- BZ_FILL_COMPLETE. -/
def execBzFillComplete (s : State) : Out := .next s.completeFill

/-! ## Display modes (R323) -/

def modeWidth (m : Dword) : Nat := bitsOf m.toNat 15 0
def modeHeight (m : Dword) : Nat := bitsOf m.toNat 31 16
def modeRate (m : Dword) : Nat := bitsOf m.toNat 47 32
def modeEn (m : Dword) : Bool := m.getLsbD 63

/-- Whether a mode lies in its ranges. -/
def modeOk (m : Dword) : Bool :=
  1 ≤ modeWidth m && modeWidth m ≤ 7680 && 1 ≤ modeHeight m && modeHeight m ≤ 4320
    && 2400 ≤ modeRate m && modeRate m ≤ 12000 && bitsOf m.toNat 57 56 ≤ 1

/-- A new map of a display, every entry 0xFFFF. -/
def State.resetMap (s : State) (d w h : Nat) : State :=
  let s := { s with mem := s.mem.writeN (mapBase d) (List.replicate (2 * w * h) 0xFF) }
  s.modDisplay d fun z => { z with width := w, height := h }

/-- A mode takes effect. -/
def State.setMode (s : State) (d : Nat) (m : Dword) : State :=
  let z := s.display d
  let s := if modeEn m && (modeWidth m ≠ z.width || modeHeight m ≠ z.height) then s.resetMap d (modeWidth m) (modeHeight m)
    else s
  (s.modDisplay d fun z => { z with mode := m, next := none, live := z.live && modeEn m }).testLocks

/-- BZ_MODE_WRITE: `carried` says whether the sink and the link can carry the mode (DEDUCED, log entry 96). -/
def execBzModeWrite (owner d : Nat) (v : Dword) (carried : Bool) (s : State) : Out :=
  .next <| s.asCompositor owner fun s =>
    let m := v &&& 0x8300FFFFFFFFFFFF
    if 4 ≤ d then s
    else if modeEn m && !(modeOk m && carried) then s.bezelFlag statModeErr
    else if modeEn (s.display d).mode then s.modDisplay d fun z => { z with next := some m }
    else s.setMode d m

/-! ## Present queues (R327) -/

/-- The entry of a layer table that an owner's frames go to: the one that composition uses, else the lowest-numbered
one that names the owner. -/
def State.presentLayer (s : State) (d o : Nat) : Option Nat :=
  let mine (k : Nat) : Bool := layOwner (s.bezel.layer d k) = o
  ((List.range 64).find? fun k => mine k && (s.layerOk d (s.bezel.layer d k)).isSome).orElse
    fun _ => (List.range 64).find? mine

/-- Whether a present entry is bad: its surface absent, or its index outside the grant. -/
def State.presentBad (s : State) (e : Nat × Nat × Dword) : Bool :=
  match surfOf (s.bezel.surf e.1) with
  | none => true
  | some x => (s.grant x.vdev).2 ≤ e.2.1

/-- Whether a present entry is complete (DESIGN CHOICE, log entry 93). -/
def State.presentDone (s : State) (e : Nat × Nat × Dword) : Bool :=
  match surfOf (s.bezel.surf e.1) with
  | none => false
  | some x =>
    match s.sigRoute x.vdev e.2.1 0 with
    | .here i => e.2.2.toNat ≤ (s.signal i).toNat
    | .refused _ => false
    | .away _ => Config.freeNat (s.free + e.2.1) % 2 = 1

/-- Entries up to the last one with a property, and those after it. -/
def splitLast {α : Type} (f : α → Bool) (l : List α) : Option α × List α :=
  match (l.reverse.dropWhile fun x => !f x) with
  | [] => (none, l)
  | x :: _ => (some x, (l.reverse.takeWhile fun x => !f x).reverse)

/-- A layer entry that shows another surface. -/
def withSurf (e h : Nat) : Nat := e / 2 ^ 32 * 2 ^ 32 + h * 2 ^ 16 + e % 2 ^ 16

/-- A latch of an owner's queue on a display: the frame shows at once, in the table and in the entries in force
(DEDUCED, log entry 92). -/
def State.latchPresent (s : State) (o d : Nat) : State :=
  let p := s.presentQ o d
  let good := p.q.filter fun e => !s.presentBad e
  let r := splitLast s.presentDone good
  let p := { p with badsig := p.badsig || good.length < p.q.length, q := r.2 }
  let put (s : State) (p : PresentQ) : State :=
    { s with bezel := { s.bezel with presents := s.bezel.presents.put (4 * o + d) p } }
  let s := { s with free := s.free + 2 ^ 20 }
  match r.1 with
  | none => put s p
  | some e =>
    let p := { p with latched := (s.display d).count }
    match s.presentLayer d o with
    | none => put s { p with nolayer := true }
    | some k =>
      let s := put s { p with nolayer := false }
      let n := 64 * d + k
      let show_ (t : Tab Nat) : Tab Nat := if layOwner (t.get n 0) = o then t.put n (withSurf (t.get n 0) e.1) else t
      { s with bezel := { s.bezel with layers := show_ s.bezel.layers, inForce := show_ s.bezel.inForce } }

/-- Whether an owner's context holds a clock-ratio lock on a display's refreshes (R22, R23) (DEDUCED, log entry 94). -/
def State.lockedOn (s : State) (o d : Nat) : Bool :=
  s.blocks.any fun e => e.2.active && e.1 < 144 && e.2.owner.toNat = o && e.2.legacy.getLsbD 16
    && bitsOf e.2.legacy.toNat 63 40 ≠ 0 && bitsOf e.2.legacy.toNat 19 18 = d && !s.lockFails e.2.legacy

/-- The latches of a display's own refresh (DEDUCED, log entry 92). -/
def State.latchAll (s : State) (d : Nat) : State :=
  (s.bezel.presents.keys).foldl (fun s k =>
    if k % 4 = d && !(s.presentQ (k / 4) d).q.isEmpty && !s.lockedOn (k / 4) d then s.latchPresent (k / 4) d else s) s

/-- PR_B_WRITE: an entry is queued, or OVF is set. -/
def execPrBWrite (o d : Nat) (v : Dword) (s : State) : Out :=
  .next <|
    if o < 255 && d < 4 then
      let p := s.presentQ o d
      let p := if 8 ≤ p.q.length then { p with ovf := true }
        else { p with q := p.q ++ [(p.a.toNat % 65536, bitsOf p.a.toNat 50 32, v)] }
      { s with bezel := { s.bezel with presents := s.bezel.presents.put (4 * o + d) p } }
    else s

/-! ## Composition (R324, R325) -/

/-- The word of a layer's pixel as Bezel reads it; `none` where the read meets a fault. A pixel that another module or
a device holds is a value that nothing constrains; each pixel has open values of its own (DESIGN CHOICE, log entry 20). -/
def State.layerPixel (s : State) (x : Surf) (i j : Nat) : Option Word :=
  match ({ s with free := s.free + 64 * x.pixel i j }).stage2Place (s.vdev x.vdev).s2tb (x.pixel i j) 4 .read with
  | (.error _, _) => none
  | (.ok (pa, _), z) =>
    match targetOf pa with
    | .fabric | .io => some z.anyWord.1
    | _ => some (w32n (natOfBytes (s.bytesAt pa 4)))

/-- A pixel of an owner's layer; `none` where the owner has no enabled layer. A fault reads as 0. -/
def State.layerWord (s : State) (d o i j : Nat) : Option Word :=
  if o = 255 then none else (s.layerFor d o).map fun l => (s.layerPixel l.2 i j).getD 0

/-- Whether the read of a pixel of an owner's layer meets a fault. -/
def State.layerFault (s : State) (d o i j : Nat) : Bool :=
  o ≠ 255 && match s.layerFor d o with
    | some l => (s.layerPixel l.2 i j).isNone
    | none => false

/-- The background colour as a word. -/
def Display.background (z : Display) : Word := w32n (z.bg.toNat % 2 ^ 24)

/-- The base image at a pixel. -/
def State.basePixel (s : State) (d i j : Nat) : Word :=
  (s.layerWord d (s.mapEntry d i j % 256) i j).getD (s.display d).background

/-- BlurAllowed (R325). -/
def State.blurAllowed (s : State) (d b t : Nat) : Bool :=
  b = t || match s.layerFor d b with
    | none => false
    | some l => b ≠ 255 && s.grants.any fun g => g.grantor = b && g.grantee = t && g.rights % 4 ≠ 0
        && g.surf = laySurf l.1 && s.holds g

/-- The weights of one axis of a blur kernel. -/
def blurAxis (effect : Nat) : List Nat := if effect = 1 then [1, 2, 1] else [1, 4, 6, 4, 1]

/-- A coordinate moved by a kernel place, clamped to the display. -/
def clampTo (n i k half : Nat) : Nat := min (i + k - half) (n - 1)

/-- One channel of the blurred base image. -/
def State.blurChannel (s : State) (d effect i j c : Nat) : Nat :=
  let z := s.display d
  let ks := blurAxis effect
  let half := ks.length / 2
  let b := s.mapEntry d i j % 256
  let own := chanOf (s.basePixel d i j) c
  let sum := (ks.zipIdx).foldl (fun n y => (ks.zipIdx).foldl (fun n x =>
    let p := clampTo z.width i x.2 half
    let q := clampTo z.height j y.2 half
    let v := if s.mapEntry d p q % 256 = b then chanOf (s.basePixel d p q) c else own
    n + x.1 * y.1 * v) n) 0
  let total := ks.sum * ks.sum
  (sum + total / 2) / total

/-- The blurred base image at a pixel. -/
def State.blurred (s : State) (d effect i j : Nat) : Word :=
  w32n ((List.range 3).foldl (fun n c => n + s.blurChannel d effect i j c * 256 ^ c) 0)

/-- The composed pixel. -/
def State.composed (s : State) (d i j : Nat) : Word :=
  let e := s.mapEntry d i j
  let base := s.basePixel d i j
  let out := match s.layerWord d (e / 256) i j with
    | none => base
    | some t =>
      let eff := ((s.layerFor d (e / 256)).map fun (l : Nat × Surf) => layEffect l.1).getD 0
      let base := if eff ≠ 0 && s.blurAllowed d (e % 256) (e / 256) then s.blurred d eff i j else base
      blendWord false t base
  w32n (255 * 2 ^ 24 + out.toNat % 2 ^ 24)

/-- The pixels of a display, row by row. -/
def Display.pixels (z : Display) : List (Nat × Nat) :=
  (List.range z.height).flatMap fun j => (List.range z.width).map fun i => (i, j)

/-- Whether the composition meets a fault. -/
def State.composeFault (s : State) (d : Nat) : Bool :=
  (s.display d).pixels.any fun p =>
    s.layerFault d (s.mapEntry d p.1 p.2 / 256) p.1 p.2 || s.layerFault d (s.mapEntry d p.1 p.2 % 256) p.1 p.2

/-! ## Capture (R326) -/

/-- Whether a pixel's owners let a grant see it. -/
def Grant.sees (g : Grant) (e : Nat) : Bool :=
  let ok (o : Nat) : Bool := o = g.grantor || o = g.grantee || o = 255
  ok (e / 256) && ok (e % 256)

/-- One pixel written into a capture surface on the RAS path, or dropped with LAYERFLT set. -/
def State.capturePixel (s : State) (x : Surf) (i j : Nat) (w : Word) : State :=
  if x.w ≤ i || x.h ≤ j then s
  else match s.stage2Place (s.vdev x.vdev).s2tb (x.pixel i j) 4 .write with
  | (.error _, s) => s.bezelFlag statLayerFlt
  | (.ok (pa, _), s) =>
    if s.poisoned pa 4 then s.bezelFlag statLayerFlt else s.putPhys hubParty pathRas 0 noOwner pa (bytesOfWord w)

/-- The writes from a serial on, as seen by an acquirer of a release with mask RAS. -/
def State.rasWrites (s : State) (base : Nat) : List Seen :=
  (s.wlog.filter fun e => base < e.serial && e.party = hubParty).map fun e =>
    { serial := e.serial, paths := 2 ^ pathRas, via := viaAny }

/-- A capture grant served after a refresh: its surface receives the composed image, and its signal word the refresh
count, as a releasing write with mask RAS (DEDUCED, log entry 95). -/
def State.capture (s : State) (d : Nat) (g : Grant) : State :=
  match surfOf (s.bezel.surf g.surf) with
  | none => s
  | some x =>
    if x.cmp || x.screen || x.owner ≠ g.grantee then s
    else
      let z := s.display d
      let base := s.serial
      let s := (z.pixels.zip z.frame).foldl (fun s p =>
        s.capturePixel x p.1.1 p.1.2 (if g.sees (s.mapEntry d p.1.1 p.1.2) then p.2 else 0)) s
      match g.sig with
      | none => s
      | some n =>
        if (s.grant x.vdev).2 ≤ n then s
        else
          s.hubSignal x.vdev n false (d64 z.count) (s.rasWrites base)

/-! ## The refresh (R314, R323, R324) -/

/-- The layer entries of a display put in force (R321). -/
def Bezel.enforce (b : Bezel) (d : Nat) : Bezel :=
  { b with inForce := (List.range 64).foldl (fun t k => Tab.put t (64 * d + k) (b.layer d k)) b.inForce }

/-- A refresh of a running display: COUNT, the latches, the composition and the captures (DESIGN CHOICE, log
entry 20; DEDUCED, log entry 92). -/
def State.refresh (s : State) (d : Nat) : State :=
  let s := s.modDisplay d fun z => { z with count := (z.count + 1) % 2 ^ 32 }
  let s := if s.fillRuns d then s.completeFill else s
  let s := ({ s with bezel := s.bezel.enforce d }).latchAll d
  let frame := (s.display d).pixels.map fun p => s.composed d p.1 p.2
  let s := if s.composeFault d then s.bezelFlag statLayerFlt else s
  let s := { s.modDisplay d fun z => { z with frame := frame } with free := s.free + 2 ^ 58 }
  (s.grants.filter fun g => bitOf g.rights 2 && g.disp = d && s.holds g).foldl (fun s g => s.capture d g) s

/-- BEZEL_REFRESH: at the boundary a mode that waits takes effect; a running display then refreshes. -/
def execBezelRefresh (d : Nat) (s : State) : Out :=
  .next <|
    let z := s.display d
    if d < 4 && modeEn z.mode && z.live then
      let s := match z.next with | some m => s.setMode d m | none => s
      if modeEn (s.display d).mode then s.refresh d else s
    else s

/-- DISPLAY_LINK_TRAINED: an enabled display whose link has been trained begins its first refresh. -/
def execDisplayLinkTrained (d : Nat) (s : State) : Out :=
  .next <|
    let z := s.display d
    if d < 4 && modeEn z.mode && !z.live then
      let s := match z.next with | some m => s.setMode d m | none => s
      if modeEn (s.display d).mode then (s.modDisplay d fun z => { z with live := true }).refresh d else s
    else s

/-- The owners under which a context's blocks stand, with the display of each lock, as owner × 4 + display. -/
def State.lockPairs (s : State) (v x : Nat) : List Nat :=
  distinct ((s.blocks.filter fun e => e.2.active && e.1 < 144 && e.2.vdev = v && e.2.ctx = x).map fun e =>
    4 * e.2.owner.toNat + bitsOf e.2.legacy.toNat 19 18)

/-- LOCKED_REFRESH: a refresh is presented to a locked context's owner on display LDISP (R22, R327) (DEDUCED,
log entry 94). -/
def execLockedRefresh (v x : Nat) (s : State) : Out :=
  .next <| (s.lockPairs v x).foldl (fun s k =>
    if s.lockedOn (k / 4) (k % 4) then s.latchPresent (k / 4) (k % 4) else s) s

end Sys2Proof.Machine
end

