-- ==== Sys2Proof/Machine/Hot.lean ====
section
/-! DEFINITION. Hotness counting (R185, R186), the quarantine of freed pages (R187, R188), and the publication of
bandwidth (R412). -/

namespace Sys2Proof.Machine

/-! ## Hotness (R185, R186) -/

def State.hotEn (s : State) : Bool := s.hotCfg.getLsbD 0
def State.hotThresh (s : State) : Nat := bitsOf s.hotCfg.toNat 47 32
def State.hotDrops (s : State) : Nat := bitsOf s.hotCfg.toNat 31 24
def State.hotSize (s : State) : Nat := 2 ^ (s.hotRing.toNat % 16)
def State.hotTail (s : State) : Nat := bitsOf s.hotPtr.toNat 63 32
def State.hotHead (s : State) : Nat := bitsOf s.hotPtr.toNat 31 0

/-- DROPS of a configuration raised by one; it saturates. -/
def addDrop (cfg : Dword) : Dword :=
  if bitsOf cfg.toNat 31 24 = 255 then cfg else cfg + 0x1000000

/-- A notification record (R186). -/
def hotRecord (block req v usec : Nat) : List Byte :=
  bytesOfNat 8 (block * 65536) ++ bytesOfNat 1 req ++ bytesOfNat 1 v ++ zeros 2 ++ bytesOfNat 4 usec

/-- A record written to the ring with the HOST path's coherence, or dropped and counted (R186). Outside stack and CXL
memory no byte is written, while TAIL and the interrupt stand (DESIGN CHOICE, log entry 134). -/
def State.hotNotify (s : State) (block req v : Nat) : State :=
  if (s.hotTail + 2 ^ 32 - s.hotHead) % 2 ^ 32 = s.hotSize then { s with hotCfg := addDrop s.hotCfg }
  else
    let pa := bitsOf s.hotRing.toNat 51 12 * 4096 + 16 * (s.hotTail % s.hotSize)
    let s := if targetOf pa = .stack ∨ targetOf pa = .cxl then s.write hubParty pathHost 0 pa (hotRecord block req v s.usec)
      else s
    { s with hotPtr := d64 ((s.hotTail + 1) % 2 ^ 32 * 2 ^ 32 + s.hotHead) }.irq irqHotness 0

/-- A requester is remote to a die when it is the other die or a fabric module. -/
def remoteTo (die req : Nat) : Bool := (req < 2 && req ≠ die) || (8 ≤ req && req < 16)

/-- The counters of a die after one request, least recently counted first, and the count reached (DEDUCED, log entry 97). -/
def countHot (l : List (Nat × Nat × Nat)) (block req : Nat) : List (Nat × Nat × Nat) × Nat :=
  let mine (e : Nat × Nat × Nat) : Bool := e.1 = block && e.2.1 = req
  match l.find? mine with
  | some e =>
    let n := min (e.2.2 + 1) 65535
    ((l.filter fun e => !mine e) ++ [(block, req, n)], n)
  | none => ((if 16384 ≤ l.length then l.drop 1 else l) ++ [(block, req, 1)], 1)

/-- Whether an address lies in the stacks of a die, the part reserved to the hub apart (R172). -/
def inStacks (die pa : Nat) : Bool := targetOf pa = .stack && pa / 0x3000000000 = die

/-- REMOTE_SECTOR_REQUEST: the request is counted at the die whose stacks it is made to; a count that reaches THRESH is
notified and set to 0, also where the record is dropped (DESIGN CHOICE, log entry 121). -/
def execRemoteSectorRequest (die req v pa : Nat) (s : State) : Out :=
  .next <|
    if s.hotEn && remoteTo die req && die < 2 && inStacks die pa then
      let block := pa / 65536
      let r := countHot (s.hotCnt.get die []) block req
      let hit := s.hotThresh ≠ 0 && s.hotThresh ≤ r.2
      let l := if hit then r.1.map fun e => if e.1 = block && e.2.1 = req then (block, req, 0) else e else r.1
      let s := { s with hotCnt := s.hotCnt.put die l }
      if hit then s.hotNotify block req v else s
    else s

/-- HOTNESS_DECAY: every counter is halved; DECAY 0 means no decay. -/
def execHotnessDecay (s : State) : Out :=
  .next <|
    if bitsOf s.hotCfg.toNat 23 20 = 0 then s
    else { s with hotCnt := s.hotCnt.map fun d => (d.1, d.2.map fun e => (e.1, e.2.1, e.2.2 / 2)) }

/-- MEM_HOT_CFG_WRITE: EN 0 clears every counter. -/
def execMemHotCfgWrite (v : Dword) (s : State) : Out :=
  let cfg := v &&& 0x0000FFFFFFF00001
  .next { s with hotCfg := cfg, hotCnt := if cfg.getLsbD 0 then s.hotCnt else [] }

/-! ## The quarantine (R188) -/

/-- MEM_QPUSH: the page is stamped with EPOCH, which rises by 1; SIZE 7 is ignored, and a full queue sets QFULL. -/
def execMemQpush (v : Dword) (s : State) : Out :=
  let w := (v &&& 0x000FFFFFFFFFF007).toNat
  .next <|
    if w % 8 = 7 then s
    else if 4096 ≤ s.quar.length then { s with qfull := true }
    else { s with quar := s.quar ++ [(w, s.epoch)], epoch := s.epoch + 1 }

/-- MEM_QPOP: the oldest entry leaves, if it is released. -/
def execMemQpop (s : State) : Out := .next s.takeQpop

/-! ## Bandwidth (R412) -/

/-- BW of a share register. -/
def Vdev.bw (d : Vdev) : Nat := bitsOf d.share.toNat 57 50

/-- The throttle level after a publication. -/
def nextLevel (congested over_ : Bool) (l : Nat) : Nat := if congested && over_ then min (l + 1) 7 else l - 1

/-- BANDWIDTH_PUBLICATION: the bytes served in the microsecond, by virtual device. Every core of a cluster keeps its
cluster's levels (DESIGN CHOICE, log entry 98). -/
def execBandwidthPublication (shares : List Nat) (congested : Bool) (s : State) : Out :=
  let total := shares.sum
  let past (v : Nat) : Bool := (s.vdev v).bw = 0 || (s.vdev v).bw * total < shares.getD v 0 * 256
  let level (k : Core) (v : Nat) : Nat := nextLevel congested (past v) (k.throttle.get v 0)
  let s := { s with usec := s.usec + 1 }
  .next <| (List.range 144).foldl (fun s c => s.modCore c fun k =>
    { k with throttle := (List.range 32).foldl (fun t v => Tab.put t v (level k v)) [] }) s

end Sys2Proof.Machine
end

