-- ==== Sys2Proof/Machine/Fabric.lean ====
section
/-! DEFINITION. Requests that arrive from other modules (R398, R401), forwarding stubs (R418), and failed routes
(R403). -/

namespace Sys2Proof

open Machine

/-- Whether a request is one for a signal word (R398). -/
def FabOp.signal : FabOp → Bool
  | .sigLd | .sigSt _ | .sigAdd _ | .sigCas .. | .sigWait .. => true
  | _ => false

/-- The bytes that a memory request reaches. -/
def FabOp.size : FabOp → Nat
  | .load n => n
  | .store bs => bs.length
  | .atom .. => 4
  | .sum fmt _ => drainSize fmt
  | _ => 8

/-- The right that a request needs: 0 READ, 1 WRITE, 2 ATOMIC (R397, R398). -/
def FabOp.right : FabOp → Nat
  | .load _ | .sigLd | .sigWait .. => 0
  | .store _ | .sigSt _ => 1
  | _ => 2

/-- The kind of a memory request. -/
def FabOp.kind : FabOp → AKind
  | .load _ => .read
  | .store _ => .write
  | _ => .rw

/-- Whether a request is an atomic, a reduction, a drain's sum or a 128-bit access (R180). -/
def FabOp.big (o : FabOp) : Bool := o.right = 2 || o.size = 16

/-- The bytes that a memory request leaves, from those it finds; none where it writes nothing: a load, and a
compare-and-swap that fails (R220, R271, R402). -/
def FabOp.leaves (o : FabOp) (old : Nat) : Option (List Byte) :=
  match o with
  | .store bs => some bs
  | .atom .cas b c => if w32n old = b then some (bytesOfWord c) else none
  | .atom f b c => some (bytesOfWord (f.apply (w32n old) b c))
  | .sum fmt bits => some (bytesOfNat (drainSize fmt) (drainSum fmt old bits))
  | _ => none

end Sys2Proof

namespace Sys2Proof.Machine

/-- Whether the ingress admits a request before it is translated (R398). -/
def State.passes (s : State) (r : FabricReq) : Bool :=
  let e := s.importOf r.window
  r.window < 256 && s.admits e r.source (if r.op.signal then 2 else 1) r.op.right r.key
    && if r.op.signal then
        r.offset % 8 = 0 && r.offset / 8 < impSize e
          && impBase e % 2 ^ 19 + r.offset / 8 < (s.grant (impVdev e)).2
      else r.offset + r.op.size ≤ impSize e

def State.answer (s : State) (a : FabAns) : State := { s with fabAnswers := a :: s.fabAnswers }

/-- A refusal, with the fabric-fault interrupt. -/
def State.refuse (s : State) (window : Nat) : State := (s.answer .refused).irq irqFabric window

/-- The bytes that a request finds at its target; a store of the I/O range reads nothing there (R180). -/
def State.requested (s : State) (r : FabricReq) (pa : Nat) : List Byte × State :=
  match targetOf pa with
  | .io => if r.op.right = 0 then s.ioRead pa r.op.size else (zeros r.op.size, s)
  | _ => s.physBytes pa r.op.size

/-- A memory request performed on the FAB path, one step with the read of its bytes (R171, R271, R402). A store that
reaches a register carries no context, and so not the owner that may write the compositor's (R319) (DEDUCED, log entry
123). -/
def State.serveMemory (s : State) (r : FabricReq) (pa : Nat) : State :=
  let x := s.requested r pa
  let s := match r.op.leaves (natOfBytes x.1) with
    | none => x.2
    | some bs => match targetOf pa with
      | .fabric => x.2
      | .io => x.2.ioWrite pa noOwner bs
      | _ => x.2.write (moduleParty r.source) pathFab 0 pa bs
  s.answer (.done (if r.op.right = 1 then [] else x.1))

/-- A signal request performed on a word: a wait that does not hold yet waits here (R233, R400). -/
def State.serveSignal (s : State) (r : FabricReq) (i : Nat) : State :=
  let old := s.signal i
  let put (v : Dword) : State := (s.moduleRelease i r.source).sigWrite i v
  let done (s : State) : State := s.answer (.done (bytesOfNat 8 old.toNat))
  match r.op with
  | .sigSt v => done (put v)
  | .sigAdd v => done (put (old + v))
  | .sigCas e n => done (if old = e then put n else s)
  | .sigWait c v =>
    if condHolds c old v then done s else { s with fabWaits := s.fabWaits ++ [(i, c, v)] }
  | _ => done s

/-- A request performed, or refused (R398). -/
def State.serve (s : State) (r : FabricReq) : State :=
  let e := s.importOf r.window
  if !s.passes r then s.refuse r.window
  else if r.op.signal then s.serveSignal r ((s.grant (impVdev e)).1 + impBase e % 2 ^ 19 + r.offset / 8)
  else match s.ingressMemory r.source r.window r.offset r.op.size r.op.kind r.key r.op.big with
  | (none, s) => s.refuse r.window
  | (some pa, s) => s.serveMemory r pa

/-- A request sent on to the same window and offset of module DEST, where it is checked again (R418) (DEDUCED, log entry
101). -/
def State.forward (s : State) (v : Nat) (r : FabricReq) : State :=
  { s with forwarded := ((s.vdev v).dest, r) :: s.forwarded }

/-- FABRIC_INGRESS_REQUEST: a stub holds an admitted request, or forwards it once the thaw is reported. -/
def execFabricIngressRequest (r : FabricReq) (s : State) : Out :=
  .next <|
    let v := impVdev (s.importOf r.window)
    if s.passes r && s.stubbed r.window then
      (if (s.vdev v).stubThawed then s.forward v r
        else s.modVdev v fun d => { d with stubHeld := d.stubHeld ++ [r] }).answer .held
    else s.serve r

/-- STUB_THAW_REPORT: the held requests go on to module DEST, in order of arrival; later ones follow at once. -/
def execStubThawReport (v : Nat) (s : State) : Out :=
  .next <|
    if (s.vdev v).frozen && (s.vdev v).stub then
      ((s.vdev v).stubHeld.foldl (fun s r => s.forward v r) s).modVdev v fun d =>
        { d with stubThawed := true, stubHeld := [] }
    else s

/-- The end of a stub: requests that it still holds are refused (R418) (DEDUCED, log entry 101). -/
def State.endStub (s : State) (v : Nat) : State :=
  let held := (s.vdev v).stubHeld
  let s := s.modVdev v fun d => { d with ctl := d.ctl &&& ~~~16, stubHeld := [], stubThawed := false }
  held.foldl (fun s r => s.refuse r.window) s

/-- VDEV_STUB_CLEAR. -/
def execVdevStubClear (v : Nat) (s : State) : Out := .next <| if (s.vdev v).stub then s.endStub v else s

/-- LINK_ROUTE_FAILURE: a request in flight completes once, or comes back as ACCESS with cause NOTARGET and its thread
parks (R403) (DESIGN CHOICE, log entry 102). -/
def execLinkRouteFailure (op : Nat) (completed : Bool) (s : State) : Out :=
  .next <|
    match s.ops.find op with
    | none => s
    | some o =>
      if !o.remote then s
      else if completed || !(s.thr o.thr).live then (s.completeOp op).settle o.thr
      else
        let va := match o.acc.acc.global with | some (va, _, _) => va | none => 0
        ({ s with ops := s.ops.del op }).park [(o.thr, o.acc)] { causeFault clsAccess causeNotarget with va := va }

end Sys2Proof.Machine
end

