-- ==== Sys2Proof/Machine/Vdevs.lean ====
section
/-! DEFINITION. What the hypervisor does to a virtual device (R353, R407-R410, R417, R418), and the application cores'
accesses of signal words (R203). -/

namespace Sys2Proof.Machine

/-! ## Freeze and thaw (R417) -/

/-- VDEV_FREEZE: every launch is saved as a gang, one that is being placed or restored once it runs; the freeze ends when
none is resident (R355, R417) (DESIGN CHOICE, log entry 100). -/
def execVdevFreeze (v : Nat) (s : State) : Out :=
  .next <|
    if (s.vdev v).busy then s
    else
      let s := s.modVdev v fun d => { d with ctl := d.ctl ||| 4 }
      (((s.launches.filter fun e => e.2.vdev = v).map Prod.fst).foldl State.preempt s).tryFreeze v

/-- Whether a profile may be thawed here: it differs at most in words 1, 2 and 3 (R416). -/
def Vdev.fits (d : Vdev) (p : List Word) : Bool :=
  p.length = d.profile.length && ((p.zip d.profile).zipIdx).all fun e => (1 ≤ e.2 && e.2 ≤ 3) || e.1.1 = e.1.2

/-- Whether an image came from another module. -/
def VImage.foreign (i : VImage) : Bool := i.module ≠ Config.moduleNumber.toNat

/-- The profile of a thawed virtual device: a new instance id, and one more migration where the image came from another
module (R95, R417). -/
def State.thawProfile (s : State) (v : Nat) (i : VImage) : List Word :=
  let p := s.newProfile v
  (i.profile.zipIdx).map fun e =>
    if e.2 = 1 || e.2 = 2 then p.getD e.2 0 else if e.2 = 3 && i.foreign then e.1 + 1 else e.1

/-! ### The launches of an image that this module does not hold

Their operations take new numbers, k above the old ones. What the writers of the other module had ordered is done: its
writes stand in the memory that the hypervisor has copied, and none of them is in this module's order (R199, R417). -/

def Access.reborn (k : Nat) (a : Access) : Access := { a with seq := a.seq + k, group := a.group + k, ups := [] }

def Spawned.reborn (k : Nat) (x : Spawned) : Spawned :=
  { x with seen := [], parent := x.parent.map fun p => (p.1, p.2 + k) }

def Cmd.reborn (k serial : Nat) (x : Cmd) : Cmd :=
  { x with op := x.op + k, acc := x.acc.reborn k, serial := serial, seen := [], wrote := [] }

def Op.reborn (k serial epoch : Nat) (o : Op) : Op :=
  { o with acc := o.acc.reborn k, serial := serial, epoch := epoch, floors := [] }

def Thread.reborn (k : Nat) (th : Thread) : Thread :=
  { th with
    deferred := th.deferred.map (Access.reborn k), spawning := th.spawning.map (Spawned.reborn k), seen := []
    lastRead := [], pendRel := th.pendRel.map (fun p => (p.1, p.2.1, [])), sigRead := [], covered := [], unobs := [] }

def Block.reborn (k serial : Nat) (b : Block) : Block :=
  { b with
    bins := b.bins.map fun n => { n with members := n.members.map (Spawned.reborn k) }
    overflow := b.overflow.map (Spawned.reborn k), engq := b.engq.map fun q => (q.1, q.2.map (Cmd.reborn k serial))
    garm := b.garm.map (Cmd.reborn k serial), graph := b.graph.map fun g => { g with wrote := [] }
    tile := b.tile.map fun z => { z with pend := z.pend.map (Spawned.reborn k) } }

/-- A launch of an image set up here as a saved one, under a new number. -/
def State.putLaunch (s : State) (i : LaunchImage) : State :=
  let n := i.launch.installed.length
  let away := s.savedCores n
  let m := mapOf i.launch.installed away
  let k := s.nextOp
  let top := (i.ops.keys ++ i.threads.flatMap fun e => e.2.deferred.map Access.seq).foldl max 0
  let bytes (b : Mem) (old : Mem) : Mem :=
    b.foldl (fun x e => Mem.write x (m (e.1 / 2 ^ 24) * 2 ^ 24 + e.1 % 2 ^ 24) e.2) old
  let put {α : Type} (t : Tab α) (es : Tab α) : Tab α := es.foldl (fun t e => Tab.put t e.1 e.2) t
  let l := s.nextLaunch
  let x := { i.launch with installed := away, cores := [], reserved := [], acquired := [], refills := [] }
  { s with
    nextOp := k + top + 1, nextLaunch := l + 1, launches := s.launches.put l x
    threads := put s.threads (i.threads.map fun e => (m.thr e.1, (m.thread e.2).reborn k))
    warps := put s.warps (i.warps.map fun e => (m.warp e.1, e.2))
    blocks := put s.blocks (i.blocks.map fun e => (m e.1, { (m.block e.2).reborn k s.serial with launch := l }))
    halted := put s.halted (i.halted.map fun e => (m (e.1 / 4) * 4 + e.1 % 4, m.issue e.2))
    ops := put s.ops (i.ops.map fun e => (e.1 + k, (m.op e.2).reborn k s.serial s.epoch))
    scratch := bytes i.scratch s.scratch, accm := bytes i.accm s.accm, wbuf := bytes i.wbuf s.wbuf
    vdevs := s.vdevs.map fun v =>
      if v.1 = x.vdev then
        (v.1, { v.2 with
          dgates := v.2.dgates.map fun g => (g.1, m.gate g.2)
          queues := v.2.queues.map fun q => (q.1, if q.2.current = some i.id then { q.2 with current := some l } else q.2) })
      else v }

/-- The launches of a virtual device that an image does not hold go, and those of the image that are not here come. -/
def State.loadLaunches (s : State) (v : Nat) (i : VImage) : State :=
  let here (l : Nat) : Bool := !i.foreign && (s.launches.find l).any fun x => x.vdev = v
  let s := (s.launches.filter fun e =>
    e.2.vdev = v && !(here e.1 && i.launches.any fun y => y.id = e.1)).foldl (fun s e => s.dropLaunch e.1) s
  (i.launches.filter fun y => !here y.id).foldl (fun s y => s.putLaunch { y with launch := { y.launch with vdev := v } }) s

/-- The image loaded: the queue registers, a queue that was bound at another module waiting here to be bound again, gates, signal
words, presents and launches (R417). -/
def State.loadImage (s : State) (v : Nat) (i : VImage) : State :=
  let s := s.modVdev v fun d => { d with
    queues := i.queues.map fun q => (q.1, if i.foreign then { q.2 with phase := min q.2.phase 1, slot := none } else q.2)
    dgates := i.dgates }
  let g := s.grant v
  let s := (i.signals.take g.2).zipIdx.foldl (fun s e => { s with
    signals := s.signals.put (g.1 + e.2) e.1, sigMods := s.sigMods.put (g.1 + e.2) (s.sigMods.get (g.1 + e.2) 0 + 1) }) s
  let s : State := { s with bezel := { s.bezel with
    presents := s.bezel.presents.map fun p =>
      (p.1, { p.2 with q := (p.2.q.filter fun e => !s.presentOf v e) ++ i.presents.get p.1 [] }) } }
  s.loadLaunches v i

/-- Work of a virtual device that waited while it was frozen goes on: conditions are tested afresh, queues are bound,
and requests that a stub still holds are served (DEDUCED, log entry 101). -/
def State.wakeVdev (s : State) (v : Nat) : State :=
  let ls := (s.launches.filter fun e => e.2.vdev = v).map Prod.fst
  let s := ls.foldl State.latchLaunch s
  let s := (List.range 64).foldl (fun s _ => s.bindNext) s
  let held := (s.vdev v).stubHeld
  held.foldl State.serve (s.modVdev v fun d => { d with stubHeld := [], stubThawed := false })

/-- VDEV_THAW: the image in the save area is loaded, the virtual device takes a new instance id, and its launches wait to
be restored. With no image there, or one whose profile does not fit, the thaw is refused (R95, R416, R417) (DESIGN CHOICE,
log entry 100). -/
def execVdevThaw (v : Nat) (s : State) : Out :=
  .next <|
    let d := s.vdev v
    if d.busy then s
    else match d.image with
    | none => s.modVdev v fun d => { d with ctl := d.ctl ||| 1 }
    | some i =>
      if (d.frozen || i.foreign) && d.fits i.profile then
        let p := s.thawProfile v i
        let s := s.loadImage v i
        ({ s.modVdev v fun d =>
            { d with ctl := d.ctl &&& ~~~9, image := none, profile := if d.created then p else d.profile }
          with made := s.made + 1 }).wakeVdev v
      else s.modVdev v fun d => { d with ctl := d.ctl ||| 1 }

/-- An image of another module copied into a virtual device's save area by the hypervisor (R417, step 2) (DESIGN CHOICE, log
entry 100). -/
def State.copyImage (s : State) (v : Nat) (i : VImage) : State :=
  if i.foreign then s.modVdev v fun d => { d with image := some i } else s

/-! ## The share and the signal grant (R407, R408) -/

/-- Bits set in a number of n bits. -/
def popCount (x n : Nat) : Nat := (maskBits x n).length

/-- VDEV_SHARE_WRITE. -/
def execVdevShareWrite (v : Nat) (w : Dword) (s : State) : Out :=
  .next <|
    let x := w &&& 0x03FFFFFFFFFFFFFF
    let d := s.vdev v
    let n := popCount x.toNat 36
    let others := ((s.vdevs.filter fun e => e.1 ≠ v).map fun e => e.2.bw).sum
    if n = 0 || (d.created && 4 * n < (d.profile.getD 4 0).toNat) || 256 < others + bitsOf x.toNat 57 50 then s
    else s.modVdev v fun d => { d with share := x }

/-- Whether two grants have a word in common. -/
def grantsMeet (a b : Nat × Nat) : Bool := a.2 ≠ 0 && b.2 ≠ 0 && a.1 < b.1 + b.2 && b.1 < a.1 + a.2

/-- VDEV_SIG_WRITE (DEDUCED, log entry 74). -/
def execVdevSigWrite (v : Nat) (w : Dword) (s : State) : Out :=
  .next <|
    let x := w &&& 0x0007FFFF0007FFFF
    let d := s.vdev v
    let g : Nat × Nat := (x.toNat % 2 ^ 19, bitsOf x.toNat 50 32)
    if g.1 < 4096 || 524288 < g.1 + g.2 || (s.vdevs.any fun e => e.1 ≠ v && grantsMeet g (s.grant e.1))
        || (d.created && g.2 < (d.profile.getD 11 0).toNat) then s
    else s.modVdev v fun d => { d with sig := x }

/-! ## Queues (R409) -/

/-- A queue that has been disabled with nothing current becomes IDLE and frees its slot. -/
def State.idleQueue (s : State) (v q : Nat) : State :=
  let x := s.queue v q
  if x.enabled || x.current.isSome then s
  else if x.phase = 2 then s.leaveSlot v q 0
  else if x.phase = 1 then s.modQueue v q fun x => { x with phase := 0 }
  else s

/-- Q_CTL_WRITE: before creation EN stays 0 (R416). -/
def execQCtlWrite (v q : Nat) (w : Dword) (s : State) : Out :=
  .next <|
    if v < 32 && q < 16 then
      let x := w &&& 0xFFFFFFFFFFFF001B
      let x := if (s.vdev v).created then x else x &&& ~~~16
      (s.modQueue v q fun y => { y with ctl := x }).idleQueue v q
    else s

/-- q.ring written: only while the queue is IDLE and disabled. -/
def State.putRing (s : State) (v q : Nat) (w : Dword) : State :=
  let x := s.queue v q
  let n := w.toNat % 32
  let ring := (w &&& 0x000FFFFFFFFFF000) ||| d64 (if 4 ≤ n ∧ n ≤ 16 then n else 4)
  if x.enabled || x.phase ≠ 0 then s else s.modQueue v q fun y => { y with ring := ring }

/-! ## Contexts (R410) -/

/-- vdev.ctxcmd after an action: the id it named, and whether it was refused. -/
def Vdev.ctxAction (d : Vdev) (x : Nat) (err : Bool) : Vdev :=
  { d with ctxcmd := d64 (x % 65536 * 2 ^ 32 + if err then 4 else 0) }

/-- CTX_CREATE. -/
def execCtxCreate (v x : Nat) (s : State) : Out :=
  .next <| s.modVdev v fun d =>
    if 1023 < x || (d.ctxs.find x).isSome then d.ctxAction x true
    else { d.ctxAction x false with ctxs := d.ctxs.put x Ctx.empty, selected := some x }

/-- Whether a context may not be destroyed yet: an enabled queue names it, or a launch of it is past its waits. -/
def State.ctxInUse (s : State) (v x : Nat) : Bool :=
  ((s.vdev v).queues.any fun q => q.2.enabled && q.2.ctxid = x)
    || s.launches.any fun e => e.2.vdev = v && e.2.ctx = x && e.2.phase ≠ .waiting

/-- CTX_DESTROY: the context's entries leave every TLB. -/
def execCtxDestroy (v x : Nat) (s : State) : Out :=
  .next <|
    if (s.ctx? v x).isNone || s.ctxInUse v x then s.modVdev v fun d => d.ctxAction x true
    else
      let s := s.modVdev v fun d =>
        { d.ctxAction x false with
          ctxs := d.ctxs.del x, selected := if d.selected = some x then none else d.selected }
      (List.range 144).foldl (fun s c => s.invalidate c 1 v x 0) s

/-- CTX_SELECT: a free id clears SEL. -/
def execCtxSelect (v x : Nat) (s : State) : Out :=
  .next <| s.modVdev v fun d =>
    if (d.ctxs.find x).isSome then { d.ctxAction x false with selected := some x }
    else { d.ctxAction x true with selected := none }

/-- A write through the aperture to the selected context. -/
def State.aperture (s : State) (v : Nat) (put : State → Nat → State) : State :=
  match (s.vdev v).selected with
  | some x => put s x
  | none => s

/-- CTX_LEGACY_WRITE through the aperture of a control page (R23, R410). -/
def execCtxLegacyWrite (v : Nat) (w : Dword) (s : State) : Out :=
  .next <| s.aperture v fun s x => s.putLegacy v x w

/-- CTX_OWNER_WRITE through the aperture of a control page (R375, R410). -/
def execCtxOwnerWrite (v : Nat) (w : Dword) (s : State) : Out :=
  .next <| s.aperture v fun s x => s.putOwner v x w

/-! ## The save registers (R353) -/

/-- vdev.save: CLASS 3 reads back as 2. -/
def saveValue (w : Dword) : Dword :=
  let x := w &&& 0x0000FFFFFFFFF003
  if x.toNat % 4 = 3 then x - 1 else x

/-- vdev.savefb: PA is fixed at creation (DEDUCED, log entry 103). -/
def Vdev.putSavefb (d : Vdev) (w : Dword) : Vdev :=
  let pa := if d.created then d.savefb else w
  { d with savefb := (pa &&& 0x000FFFFFFFFFF000) ||| (w &&& 1) }

/-! ## PCIe requests in a drain (R386) -/

/-- DRAIN_PCIE_TIMEOUT: a read of a PCIe target that has not completed answers ones in every word. -/
def execDrainPcieTimeout (v : Nat) (s : State) : Out :=
  let stuck := (s.ops.filter fun e =>
    e.2.result.isNone && e.2.acc.acc.translated && targetOf e.2.pa = .io && e.2.pa < regBase
      && !isAgent e.2.thr && coreOf e.2.thr < 144 && (s.tagOf e.2.thr).1 = v).map Prod.fst
  .next <|
    if s.drains v then
      stuck.foldl (fun s id =>
        match s.ops.find id with
        | some o =>
          match o.acc.acc with
          | .load _ n sgn d =>
            ((s.writeResult o.thr o.acc d (loadWords n sgn (List.replicate n 0xFF))).retire id o).settle o.thr
          | _ => s
        | none => s) s
    else s

/-! ## The application cores (R203) -/

/-- The writes that a release of the application cores on an object covers: those of the HOST path that they have
acquired, in regions bound to it (R196, R203). -/
def State.hostCovered (s : State) (obj : Nat) : List Seen :=
  (s.hostSeen.filter fun z => match s.writeEv z.serial with
    | some e => e.path = pathHost && boundTo e.obj obj
    | none => false).map fun z => { z with via := obj }

/-- HOST_SIGNAL_STORE: a releasing write with mask HOST (DESIGN CHOICE, log entry 104). -/
def execHostSignalStore (idx : Nat) (v : Dword) (s : State) : Out :=
  .next <|
    if idx < 524288 then
      let obj := objKey 6 0 idx
      (s.releaseAt obj (s.sigMods.get idx 0 + 1) (s.hostCovered obj)).sigWrite idx v
    else s

/-- HOST_SIGNAL_LOAD: an acquire event with every path. -/
def execHostSignalLoad (idx : Nat) (s : State) : Out :=
  let zs := (s.rels.get (objKey 6 0 idx) []).flatMap RelEv.writes
  .next { s with hostSeen := zs.foldl addSeen s.hostSeen }

end Sys2Proof.Machine
end

