-- ==== Sys2Proof/Machine/Regs.lean ====
section
/-! DEFINITION. REGISTER_WRITE: a 64-bit write of the hub's registers (R5, R173), sent to the register at its address. -/

namespace Sys2Proof.Machine

/-- The state after a device step, which always gives one. -/
def afterStep (o : Out) (s : State) : State :=
  match o with
  | .next s' => s'
  | _ => s

/-! ## Doorbell pages (R136) -/

def State.writeDoorbell (s : State) (v off : Nat) (w : Dword) : State :=
  if off < 0x400 then
    match off % 0x40 with
    | 0x00 => afterStep (execNotify v (off / 0x40) (loW w) s) s
    | 0x10 => if w.getLsbD 4 then afterStep (execQStateSkip v (off / 0x40) s) s else s
    | _ => s
  else s

/-! ## Control pages (R405) -/

/-- vdev.ctl: DEST and STUB are stored; an ACTION is ignored while BUSY (R413, R418). -/
def State.writeCtl (s : State) (v : Nat) (w : Dword) : State :=
  let was := s.vdev v
  let s := if was.stub && !w.getLsbD 4 then s.endStub v else s
  let s := s.modVdev v fun d => { d with ctl := (d.ctl &&& ~~~0xF0) ||| (w &&& 0xF0) }
  if was.busy then s
  else match bitsOf w.toNat 9 8 with
  | 1 => afterStep (execVdevReset v s) s
  | 2 => afterStep (execVdevFreeze v s) s
  | 3 => afterStep (execVdevThaw v s) s
  | _ => s

/-- vdev.savefault: ACTION acts while PEND (R353, R354). -/
def State.writeSavefault (s : State) (v : Nat) (w : Dword) : State :=
  match w.toNat % 4 with
  | 1 => afterStep (execVdevSavefaultRetry v s) s
  | 2 => afterStep (execVdevSavefaultUnmappable v s) s
  | _ => s

/-- A ring of 2^LOG2N records: values 4 to 12, others read back as 4 (R185, R316). -/
def ringSize (w : Dword) : Dword :=
  let n := w.toNat % 16
  d64 (if 4 ≤ n ∧ n ≤ 12 then n else 4)

/-- vdev.ctxcmd: CTXID is stored and the ACTION acts (R410). -/
def State.writeCtxcmd (s : State) (v : Nat) (w : Dword) : State :=
  let x := bitsOf w.toNat 47 32
  match w.toNat % 4 with
  | 1 => afterStep (execCtxCreate v x s) s
  | 2 => afterStep (execCtxDestroy v x s) s
  | 3 => afterStep (execCtxSelect v x s) s
  | _ => s.modVdev v fun d => { d with ctxcmd := (d.ctxcmd &&& 4) ||| d64 (x * 2 ^ 32) }

/-- A queue's registers (R409). -/
def State.writeQueueReg (s : State) (v off : Nat) (w : Dword) : State :=
  match off % 0x10 with
  | 0 => s.putRing v (off / 0x10) w
  | 8 => afterStep (execQCtlWrite v (off / 0x10) w s) s
  | _ => s

def State.writeControl (s : State) (v off : Nat) (w : Dword) : State :=
  if 0x100 ≤ off && off < 0x200 then s.writeQueueReg v (off - 0x100) w
  else match off with
  | 0x000 => s.writeCtl v w
  | 0x008 => afterStep (execVdevShareWrite v w s) s
  | 0x010 => afterStep (execVdevSigWrite v w s) s
  | 0x018 => s.modVdev v fun d => { d with s2tb := w &&& rootMask }
  | 0x020 => s.modVdev v fun d => { d with save := saveValue w }
  | 0x028 => s.modVdev v fun d => d.putSavefb w
  | 0x030 => s.writeSavefault v w
  | 0x038 => s.modVdev v fun d => { d with tmlog := (w &&& 0x0000FFFFFFFFF000) ||| ringSize w }
  | 0x040 => s.putTmptr v w
  | 0x048 => s.putTmcount v w
  | 0x050 => s.modVdev v fun d => { d with owner := w &&& 0xFFFF }
  | 0x058 => s.writeCtxcmd v w
  | 0x060 => afterStep (execCtxLegacyWrite v w s) s
  | 0x068 => afterStep (execCtxOwnerWrite v w s) s
  | 0x070 => s.aperture v fun s x => s.putTrap v x w
  | 0x078 => s.aperture v fun s x => s.putTtb v x w
  | _ => s

/-! ## The fabric table page (R397-R399) -/

/-- Eight bytes of an import entry replaced. -/
def putEight (e k : Nat) (w : Dword) : Nat :=
  let lo := 64 * k
  e / 2 ^ (lo + 64) * 2 ^ (lo + 64) + w.toNat * 2 ^ lo + e % 2 ^ lo

/-- A proxy entry rewritten: requests in flight through the old target are noted, and later ones wait for their
acknowledgements (R419). -/
def State.turnProxy (s : State) (n : Nat) (e : Dword) : State :=
  let sent := (s.ops.filter fun o => o.2.acc.acc.signal.isSome && o.2.pa = awayBase + n).map Prod.fst
  { s with proxies := s.proxies.put n e, turned := if s.proxyAt n = e then s.turned else s.turned.put n sent }

def State.writeFabric (s : State) (off : Nat) (w : Dword) : State :=
  if off < 0x2000 then
    { s with imports := s.imports.put (off / 32) (putEight (s.importOf (off / 32)) (off % 32 / 8) w) }
  else if off < 0x4000 then
    let n := (off - 0x2000) / 4
    { s with fabKeys := (s.fabKeys.put n (loW w)).put (n + 1) (hiW w) }
  else if off < 0xC000 then
    s.turnProxy ((off - 0x4000) / 8) (w &&& 0xFFFFFFFFFFFFFE00)
  else s

/-! ## Present pages (R327) -/

def State.writePresent (s : State) (o off : Nat) (w : Dword) : State :=
  let d := off / 0x40
  let p := s.presentQ o d
  let put (p : PresentQ) : State :=
    { s with bezel := { s.bezel with presents := s.bezel.presents.put (4 * o + d) p } }
  if off < 0x100 then
    match off % 0x40 with
    | 0x00 => put { p with a := w &&& 0x0007FFFF0000FFFF }
    | 0x08 => afterStep (execPrBWrite o d w s) s
    | 0x10 => put { p with badsig := p.badsig && !w.getLsbD 6, ovf := p.ovf && !w.getLsbD 4 }
    | _ => s
  else s

/-! ## The hub global page (R185-R188, R447) -/

def State.writeGlobal (s : State) (off : Nat) (w : Dword) : State :=
  match off with
  | 0x000 => afterStep (execMemHotCfgWrite w s) s
  | 0x008 => { s with hotRing := (w &&& 0x000FFFFFFFFFF000) ||| ringSize w }
  | 0x010 => { s with hotPtr := (s.hotPtr &&& 0xFFFFFFFF00000000) ||| (w &&& 0xFFFFFFFF) }
  | 0x020 => afterStep (execMemQpush w s) s
  | 0x030 => { s with qfull := s.qfull && !w.getLsbD 31 }
  | 0x038 => if w.getLsbD 63 then { s with fwfault := 0 } else s
  | _ => s

/-! ## The compositor's window (R320) -/

/-- A display's registers: the mode, whose carrying by the sink and the link is open here, and the background
(DEDUCED, log entry 96). -/
def State.writeDisplay (s : State) (owner off : Nat) (w : Dword) : State :=
  let d := off / 0x40
  match off % 0x40 with
  | 0x00 =>
    let c := s.choose 2
    afterStep (execBzModeWrite owner d w (c.1 = 0) c.2) s
  | 0x08 => s.asCompositor owner fun s => s.modDisplay d fun z => { z with bg := w &&& 0xFFFFFF }
  | 0x10 => s.asCompositor owner id
  | _ => s

/-- DEDUCED, log entry 91. -/
def State.writeBezel (s : State) (owner off : Nat) (w : Dword) : State :=
  if 0x100 ≤ off && off < 0x200 then s.writeDisplay owner (off - 0x100) w
  else match off with
  | 0x000 => afterStep (execBzTselWrite owner w s) s
  | 0x008 => afterStep (execBzTdataWrite owner 0 w s) s
  | 0x010 => afterStep (execBzTdataWrite owner 1 w s) s
  | 0x018 => afterStep (execBzTdataWrite owner 2 w s) s
  | 0x020 => afterStep (execBzTdataWrite owner 3 w s) s
  | 0x040 => s.asCompositor owner fun s => { s with bezel := { s.bezel with fillA := w } }
  | 0x048 => afterStep (execBzFill owner w s) s
  | 0x050 => s.asCompositor owner fun s =>
    { s with bezel := { s.bezel with stat := ((d64 s.bezel.stat) &&& ~~~(w &&& 0x1E)).toNat } }
  | _ => s

/-! ## The map (R173) -/

/-- A register written. The Assay mailbox carries messages, and no register is written there. -/
def State.writeReg (s : State) (pa owner : Nat) (w : Dword) : State :=
  let o := pa - regBase
  if pa < regBase || pa % 8 ≠ 0 then s
  else if o < 0x20000 then s.writeDoorbell (o / 0x1000) (o % 0x1000) w
  else if o < 0x40000 then s.writeControl ((o - 0x20000) / 0x1000) (o % 0x1000) w
  else if o < 0x50000 then s.writeFabric (o - 0x40000) w
  else if o < 0x14F000 then s.writePresent ((o - 0x50000) / 0x1000) (o % 0x1000) w
  else if o < 0x150000 then s
  else if o < 0x160000 then s.writeGlobal (o - 0x150000) w
  else if o < 0x170000 then s.writeBezel owner (o - 0x160000) w
  else s

/-- The bits of the register at an address that a 1 clears (R5, R188, R320, R327, R447). -/
def clearMask (pa : Nat) : Dword :=
  let o := pa - regBase
  if 0x50000 ≤ o && o < 0x14F000 then (if o % 0x1000 < 0x100 && o % 0x40 = 0x10 then 0x50 else 0)
  else if o = 0x150030 then 0x80000000
  else if o = 0x150038 then 0x8000000000000000
  else if o = 0x160050 then 0x1E
  else 0

/-- A write of some bytes of a register: the others keep their value, and of the bits that a 1 clears only those
written count (R5) (DESIGN CHOICE, log entry 25). -/
def State.storeReg (s : State) (pa owner : Nat) (bs : List Byte) : State :=
  let base := pa / 8 * 8
  let old := bytesOfNat 8 ((s.regRead base).1 &&& ~~~clearMask base).toNat
  s.writeReg base owner (d64 (natOfBytes (old.take (pa % 8) ++ bs ++ old.drop (pa % 8 + bs.length))))

/-- What waited for a register's write to arrive leaves (R180). -/
def State.drainAll (s : State) : State := s.drainWhere fun _ _ => true

/-- The write of some bytes of a register. -/
def execRegisterStore (pa owner : Nat) (bs : List Byte) (s : State) : Out := .next (s.storeReg pa owner bs).drainAll

/-- REGISTER_WRITE (DESIGN CHOICE, log entry 25). -/
def execRegisterWrite (pa owner : Nat) (v : Dword) (s : State) : Out := .next (s.writeReg pa owner v).drainAll

end Sys2Proof.Machine
end

