-- ==== Sys2Proof/Machine/Sha.lean ====
section
/-! DEFINITION. SHA-384 (FIPS 180-4): the digest of a firmware image (R435), and what an extend of a measurement register
computes (R436). The constants are not listed but computed from what defines them: the first 64 bits of the fractions of
roots of primes (PRESUMED, log entry 22). -/

namespace Sys2Proof.Machine

/-! ## Constants -/

/-- The primes below n, in order. -/
def primesBelow (n : Nat) : List Nat :=
  (List.range n).filter fun p => 2 ≤ p && (List.range p).all fun d => d < 2 || p % d ≠ 0

/-- r with its low k bits chosen, the highest first, so that its power e comes nearest to n from below. -/
def rootFrom (e n : Nat) : Nat → Nat → Nat
  | 0, r => r
  | k + 1, r => rootFrom e n k (if (r + 2 ^ k) ^ e ≤ n then r + 2 ^ k else r)

/-- The first 64 bits of the fraction of the e-th root of a number below 2^(3 e). -/
def rootFraction (e p : Nat) : Dword := BitVec.ofNat 64 (rootFrom e (p * 2 ^ (64 * e)) 67 0)

/-- The key of each of the 80 rounds: cube roots of the first 80 primes. -/
def roundKeys : List Dword := (primesBelow 410).map (rootFraction 3)

/-- The chaining value that a hash starts from: square roots of the ninth to the sixteenth prime. -/
def hashStart : List Dword := ((primesBelow 54).drop 8).map (rootFraction 2)

/-! ## Mixing -/

/-- The exclusive or of some rotations of a word. -/
def spun (by_ : List Nat) (x : Dword) : Dword := by_.foldl (fun m n => m ^^^ x.rotateRight n) 0

/-- The word of the schedule that follows sixteen or more, the newest first. -/
def scheduleNext (w : List Dword) : Dword :=
  let old := w.getD 14 0
  let new := w.getD 1 0
  w.getD 15 0 + (spun [1, 8] old ^^^ (old >>> 7)) + w.getD 6 0 + (spun [19, 61] new ^^^ (new >>> 6))

/-- The schedule of a block, the newest word first, with n words added. -/
def schedule (w : List Dword) : Nat → List Dword
  | 0 => w
  | n + 1 => schedule (scheduleNext w :: w) n

/-- One round on the eight working words, with the sum of its key and its schedule word. -/
def hashRound (v : List Dword) (kw : Dword) : List Dword :=
  match v with
  | [a, b, c, d, e, f, g, h] =>
    let x := kw + h + (g ^^^ (e &&& (f ^^^ g))) + spun [14, 18, 41] e
    let y := spun [28, 34, 39] a + ((a &&& b) ||| (c &&& (a ||| b)))
    [x + y, a, b, c, d + x, e, f, g]
  | _ => v

/-- The chaining value after a block of sixteen words. -/
def hashBlock (start block : List Dword) : List Dword :=
  let kws := List.zipWith (· + ·) roundKeys (schedule block.reverse 64).reverse
  List.zipWith (· + ·) start (kws.foldl hashRound start)

/-! ## Messages -/

/-- Sixteen words of 128 bytes, the first byte of a word its most significant one. -/
def blockWords (bs : List Byte) : List Dword :=
  (List.range 16).map fun k => d64 (natOfBytes ((bs.drop (8 * k)).take 8).reverse)

/-- What fills a message of n bytes up to whole blocks: one bit, zeros, and the length in bits. -/
def shaPadding (n : Nat) : List Byte :=
  (0x80 : Byte) :: (zeros ((239 - n % 128) % 128) ++ (bytesOfNat 16 (8 * n)).reverse)

/-- The chaining value after some blocks. -/
def hashBlocks (start : List Dword) (bs : List Byte) : Nat → List Dword
  | 0 => start
  | n + 1 => hashBlocks (hashBlock start (blockWords bs)) (bs.drop 128) n

/-- The SHA-384 digest of a message. -/
def sha384 (m : List Byte) : BitVec 384 :=
  let bs := m ++ shaPadding m.length
  ((hashBlocks hashStart bs (bs.length / 128)).take 6).foldl
    (fun (n : BitVec 384) (w : Dword) => (n <<< 64) ||| w.setWidth 384) 0

/-- The 48 bytes of a digest, the first one its most significant. -/
def digestBytes (d : BitVec 384) : List Byte := (List.range 48).map fun k => d.extractLsb' (8 * (47 - k)) 8

/-- SHA-384(m ∥ d) (R436). -/
def sha384Pair (m d : BitVec 384) : BitVec 384 := sha384 (digestBytes m ++ digestBytes d)

end Sys2Proof.Machine
end

