-- ==== Sys2Proof/Machine/Assay.lean ====
section
/-! DEFINITION. The Assay unit (R434-R444): measurements and their log, firmware acceptance and hand-over, the SPDM
responder, and the starts of the module. -/

namespace Sys2Proof.Machine

/-! ## Measurements (R436, R437) -/

def evImage : Nat := 0
def evCold : Nat := 1
def evWarm : Nat := 2
def evSafe : Nat := 3
def evHandover : Nat := 4
def evConfig : Nat := 5
def evExternal : Nat := 6

/-- The 64 bytes of a log entry (R437). -/
def LogEnt.bytes (e : LogEnt) : List Byte :=
  [BitVec.ofNat 8 e.reg, BitVec.ofNat 8 e.event, 0, 0] ++ bytesOfWord e.gen ++ zeros 8 ++ digestBytes e.digest

/-- MEASk extended with a digest under a generation; the log holds at most 1,024 entries (DEDUCED, log entry 105). -/
def Assay.extendAs (a : Assay) (k event : Nat) (gen : Word) (d : BitVec 384) : Assay :=
  let e : LogEnt := { reg := k, event := event, gen := gen, digest := d }
  { a with
    meas := a.meas.set k (sha384Pair (a.meas.getD k 0) d)
    log := if a.log.length < 1024 then a.log ++ [e] else a.log }

/-- DEDUCED, log entry 105. -/
def Assay.extend (a : Assay) (k event : Nat) (d : BitVec 384) : Assay := a.extendAs k event a.gen d

def State.modAssay (s : State) (f : Assay → Assay) : State := { s with assay := f s.assay }

/-- ASSAY_EXTEND: a request of the application cores, for MEAS8 to MEAS15; a full log refuses it. -/
def execAssayExtend (k : Nat) (digest : BitVec 384) (s : State) : Out :=
  .next <|
    if (s.started || s.safe) && 8 ≤ k && k < 16 && s.assay.log.length < 1024 then
      s.modAssay fun a => a.extend k evExternal digest
    else s

/-- assay.state (R441). -/
def State.assayState (s : State) : Dword :=
  let a := s.assay
  d64 (a.gen.toNat * 2 ^ 32 + a.hphase * 2 ^ 16 + min a.wfail 2 * 2 ^ 8 + (if s.safe then 4 else 0) + a.start)

/-! ## Images and their acceptance (R435) -/

/-- A firmware image as its signature block presents it. -/
structure Image where
  kind : Nat
  svn : Nat
  /-- the bytes before the block, and their SHA-384 digest -/
  code : List Byte
  digest : BitVec 384
  ecdsa : List Byte
  lms : List Byte
  deriving DecidableEq, Repr

/-- Whether a signature block stands at a place of an image and ends it: MAGIC, the reserved bytes, SIZE and LMSLEN fit. -/
def blockAt (bs : List Byte) (at_ : Nat) : Bool :=
  let b := bs.drop at_
  116 ≤ b.length && fieldOf b 0 4 = 0x53474953 && fieldOf b 5 3 = 0 && fieldOf b 12 4 = at_
    && fieldOf b 112 4 = b.length - 116

/-- An image read from its bytes; none where no signature block ends it (DESIGN CHOICE, log entry 21). -/
def readImage (bs : List Byte) : Option Image :=
  ((List.range bs.length).find? (blockAt bs)).map fun at_ =>
    let b := bs.drop at_
    { kind := fieldOf b 4 1, svn := fieldOf b 8 4, code := bs.take at_, digest := sha384 (bs.take at_)
      ecdsa := (b.drop 16).take 96, lms := b.drop 116 }

/-- Whether an image of a KIND is accepted: both signatures verify against the fused keys of the KIND, and SVN is at least
the fused minimum for it. -/
def Image.accepted (x : Image) (kind : Nat) : Bool :=
  x.kind = kind && Config.ecdsaOk kind x.digest x.ecdsa && Config.lmsOk kind x.digest x.lms && Config.minSvn kind ≤ x.svn

/-- The image in some bytes, where it is accepted as one of a KIND. -/
def acceptedImage (kind : Nat) (bs : List Byte) : Option Image := (readImage bs).filter fun x => x.accepted kind

/-! ## Code areas (R440) -/

/-- An image copied to a code area: its bytes before the signature block, in memory at the area's address (DESIGN CHOICE,
log entry 106). -/
def State.putArea (s : State) (k : Nat) (x : Image) : State :=
  { s with mem := s.mem.writeN (Config.codeArea k) x.code, assay := { s.assay with areas := s.assay.areas.put k x.code } }

/-- The address at which agents start: the entry of the firmware in the current code area (DESIGN CHOICE, log entry 106). -/
def Assay.entry (a : Assay) : BitVec 48 :=
  BitVec.ofNat 48 (Config.codeArea a.area + Config.firmwareEntry (a.areas.get a.area []))

/-- The agents' threads as a start leaves them, at an address. -/
def agentsAt (pc : BitVec 48) : Tab Thread :=
  (List.range 144).flatMap fun c => (List.range 32).map fun k =>
    (mkThread c 63 0 k, { Thread.default (mkThread c 63 0 k) with pc := pc })

/-- Every agent at the entry of the firmware, with what a start gives its registers. -/
def State.restartAgents (s : State) : State :=
  { s with
    threads := (s.threads.filter fun e => !isAgent e.1).foldl (fun t e => Tab.put t e.1 e.2) (agentsAt s.assay.entry)
    warps := s.warps.filter fun e => !isAgent (e.1 * 32)
    issues := s.issues.filter fun e => !isAgent (e.2.all.headD 0)
    cores := s.cores.map fun e => (e.1, { e.2 with wfi := none, parked := false, fwStopped := false }) }

/-! ## Hand-over (R440) -/

/-- The agents that wait at WFI, or that a firmware fault has stopped, park (DESIGN CHOICE, log entry 106). -/
def State.parkAgents (s : State) : State :=
  (List.range 144).foldl (fun s c =>
    if (s.core c).wfi.isSome || (s.core c).fwStopped then s.modCore c fun k => { k with parked := true } else s) s

/-- The indivisible step of the commit: MEAS2 and MEAS5 extended, 1 added to GEN, and the new code area made current. -/
def Assay.commit (a : Assay) (x : Image) : Assay :=
  let g := a.gen + 1
  { (a.extendAs 2 evImage g x.digest).extendAs 5 evHandover g (Config.eventDigest evHandover) with
    gen := g, hphase := 0, stage := none, area := 1 - a.area }

/-- The commit, once every agent has parked, after which the agents restart (DESIGN CHOICE, log entry 106). -/
def State.tryCommit (s : State) : State :=
  match s.assay.hphase, s.assay.stage.bind readImage with
  | 2, some x =>
    let s := s.parkAgents
    if (List.range 144).all fun c => (s.core c).parked then (s.modAssay fun a => a.commit x).restartAgents else s
  | _, _ => s

/-- HANDOVER_STAGE: an accepted image is copied to the idle code area and staged, and the agents are to quiesce; any other
request ends with nothing changed, an abandoned hand-over being over with it (R440, R441) (DESIGN CHOICE, log entry 106). -/
def execHandoverStage (bs : List Byte) (s : State) : Out :=
  .next <|
    if !s.started || s.assay.hphase = 1 || s.assay.hphase = 2 then s
    else match acceptedImage 2 bs with
    | none => s.modAssay fun a => { a with hphase := 0 }
    | some x =>
      let s := (s.putArea (1 - s.assay.area) x).modAssay fun a => { a with stage := some bs, hphase := 1 }
      { s with agenda := s.agenda ++ [.quiesce] }

/-- The agents begin to quiesce (R440, step 2). -/
def State.quiesce (s : State) : State :=
  if s.assay.hphase = 1 then (s.modAssay fun a => { a with hphase := 2 }).tryCommit else s

/-- HANDOVER_TIMEOUT: where some agent has not parked the hand-over is abandoned, and the agents go on with the old
firmware. -/
def execHandoverTimeout (s : State) : Out :=
  .next <|
    let s := s.tryCommit
    if s.assay.hphase = 2 then
      (List.range 144).foldl (fun s c => s.modCore c fun k => { k with parked := false })
        (s.modAssay fun a => { a with stage := none, hphase := 3 })
    else s

/-- WFI holds the agent from the end of its clause until an event of the mask is pending; in a hand-over it parks
there (R382, R440) (DEDUCED, log entry 83). -/
def execWfi (sc : Scope) (d a : BitVec 7) (p : BitVec 3) (s : State) : Out :=
  onIssue s fun i => s.eachOr i sc p.toNat 0 fun s t =>
    ran (s.modCore (coreOf t) fun k => { k with wfi := some ((s.reg t a.toNat).toNat, d.toNat) }).tryCommit

/-! ## The SPDM responder (R438, R439) -/

/-- An answer built from the snapshot, when the responder runs. -/
def State.respond (s : State) (x : Answer) : State :=
  if s.started || s.safe then s.modAssay fun a => { a with answer := x } else s

/-- An unsigned answer with some bytes. -/
def plainAnswer (code : Nat) (data : List Byte) : Answer := { Answer.empty with code := code, data := data }

/-- ERROR with UnsupportedRequest. -/
def unsupported : Answer := plainAnswer 127 [0x07]

/-- A signed answer over one snapshot: its registers, its log and its generation, and both signatures over the transcript's
digest. -/
def signedAnswer (code : Nat) (nonce : Dword) (blocks : List (Nat × List Byte)) (a : Assay) : Answer :=
  let d := Config.transcriptDigest code nonce blocks
  { code := code, data := [], blocks := blocks, meas := a.meas, log := a.log.flatMap LogEnt.bytes, gen := a.gen
    digest := d, ecdsa := Config.signature d, lms := Config.lmsSignature d }

/-- GET_VERSION: SPDM 1.2. -/
def execGetVersion (s : State) : Out := .next (s.respond (plainAnswer 1 [0x12]))

def execGetCapabilities (s : State) : Out := .next (s.respond (plainAnswer 2 (bytesOfWord Config.capabilities)))

/-- NEGOTIATE_ALGORITHMS: the requester's masks must offer ECDSA P-384 and SHA-384, which are selected (PRESUMED, log entry
23). -/
def execNegotiateAlgorithms (asym hash : Nat) (s : State) : Out :=
  .next (s.respond (if bitOf asym 7 && bitOf hash 1 then plainAnswer 3 [0x80, 0x02] else unsupported))

/-- GET_DIGESTS and GET_CERTIFICATE answer for slot 0 only; the chain is stood for by its digest (DESIGN CHOICE, log entry
24). -/
def certAnswer (code slot : Nat) : Answer :=
  if slot = 0 then plainAnswer code (digestBytes (Config.certificateDigest 0)) else unsupported

def execGetDigests (slot : Nat) (s : State) : Out := .next (s.respond (certAnswer 4 slot))

def execGetCertificate (slot : Nat) (s : State) : Out := .next (s.respond (certAnswer 5 slot))

def execChallenge (slot : Nat) (nonce : Dword) (s : State) : Out :=
  .next (s.respond (if slot = 0 then signedAnswer 6 nonce [] s.assay else unsupported))

/-- The measurement block of an index: 1 to 16 a register as a raw digest, 17 the generation as 4 bytes. -/
def measBlock (a : Assay) (k : Nat) : Nat × List Byte :=
  (k, if k = 17 then bytesOfWord a.gen else digestBytes (a.meas.getD (k - 1) 0))

/-- The measurement blocks of an index: 0 none, 255 all; `none` for an index without a block (PRESUMED, log entry 23). -/
def measBlocks (a : Assay) (index : Nat) : Option (List (Nat × List Byte)) :=
  if index = 0 then some []
  else if index ≤ 17 then some [measBlock a index]
  else if index = 255 then some ((List.range 17).map fun k => measBlock a (k + 1))
  else none

/-- DESIGN CHOICE, log entry 24. -/
def execGetMeasurements (index : Nat) (nonce : Dword) (s : State) : Out :=
  .next (s.respond (match measBlocks s.assay index with
    | some bs => signedAnswer 7 nonce bs s.assay
    | none => unsupported))

/-- Any other request (R438). -/
def State.otherRequest (s : State) : State := s.respond unsupported

/-! ## Starts (R442-R444) -/

/-- Assay after step 1: the registers reset, and MEAS0 extended with the boot ROM's digest. The log that goes with the
registers starts again, and the generation is 1 (R441) (DEDUCED, log entry 105). -/
def Assay.begin_ (a : Assay) : Assay :=
  { a with
    meas := List.replicate 16 0, log := [], gen := 1, hphase := 0, stage := none, areas := [], area := 0
    recovery := none, upset := false, answer := Answer.empty }.extend 0 evImage (sha384 Config.bootRom)

/-- How far a start has come: Assay, the last step of R442 that has run, and the firmware that it starts. -/
structure Start where
  assay : Assay
  step : Nat
  firmware : Option Image

/-- The steps of a start in order, up to the first that fails; a warm start skips steps 3 and 4. -/
def Assay.steps (a : Assay) (i : StartInput) (warm : Bool) : Start :=
  let a := a.begin_
  match acceptedImage 1 i.assay with
  | none => { assay := a, step := 2, firmware := none }
  | some x =>
    let a := a.extend 1 evImage x.digest
    if !warm && !i.trained then { assay := a, step := 3, firmware := none }
    else if !warm && !i.scrubbed then { assay := a, step := 4, firmware := none }
    else match acceptedImage 2 i.hub with
    | none => { assay := a, step := 6, firmware := none }
    | some h =>
      let a := a.extend 2 evImage h.digest
      match acceptedImage 3 i.boot with
      | none => { assay := a, step := 6, firmware := none }
      | some b =>
        let minima := (List.range 4).map fun k => Config.minSvn (k + 1)
        let a := (a.extend 3 evImage b.digest).extend 4 evConfig (Config.configDigest i.capped Config.cxlBytes minima)
        let e := if warm then evWarm else evCold
        { assay := a.extend 5 e (Config.eventDigest e), step := 8, firmware := some h }

/-- The module at a start that has come to a step: everything at its reset value, but for memory until the scrub of a cold
start, step 4, and for the storage of the cores until step 5 (R442) (DESIGN CHOICE, log entry 2; DEDUCED, log entry 107). -/
def State.fresh (s : State) (x : Start) (warm : Bool) : State :=
  let keepMem := warm || x.step < 4
  let keepPool := x.step < 5
  { State.reset with
    free := s.free, corrected := s.corrected, assay := x.assay
    mem := if keepMem then s.mem else []
    scratch := if keepPool then s.scratch else [], accm := if keepPool then s.accm else []
    wbuf := if keepPool then s.wbuf else []
    poison := s.poison.filter fun a => if a < scratchBase then keepMem else keepPool }

/-- A start that has succeeded: the firmware stands in the code area, and the agents and application cores start (R442,
step 8). -/
def State.startAll (s : State) (h : Image) (capped : Bool) (start : Nat) : State :=
  let s := (s.putArea 0 h).modAssay fun a => { a with wfail := 0, start := start }
  { s with started := true, capped := capped }.restartAgents

/-- The displays of safe mode: display 0 shows the fixed status image (R443). -/
def safeBezel : Bezel :=
  { Bezel.empty with displays := [(0, { Display.empty with live := true, frame := Config.statusImage })] }

/-- Safe mode: MEAS5 is extended with SAFE, and application core 0 runs only an accepted recovery image (R443). -/
def State.enterSafe (s : State) (i : StartInput) : State :=
  let s := s.modAssay fun a => { a.extend 5 evSafe (Config.eventDigest evSafe) with
    start := 0, recovery := (acceptedImage 4 i.recovery).map Image.code }
  { s with safe := true, bezel := safeBezel }

/-- A cold start: a failure leads to safe mode (R442, R443) (DESIGN CHOICE, log entry 2; DEDUCED, log entry 107). -/
def State.coldStart (s : State) (i : StartInput) : State :=
  let r := s.assay.steps i false
  let s := s.fresh r false
  match r.firmware with
  | some h => s.startAll h i.capped 0
  | none => s.enterSafe i

/-- COLD_START. -/
def execColdStart (i : StartInput) (s : State) : Out := .next (s.coldStart i)

/-- WARM_START: a failure is counted; once three have failed, or an uncorrectable error has been found in Assay's memory,
the start is cold (R443, R444) (DEDUCED, log entry 107). -/
def execWarmStart (i : StartInput) (s : State) : Out :=
  .next <|
    if 3 ≤ s.assay.wfail || s.assay.upset then s.coldStart i
    else
      let r := s.assay.steps i true
      let s := s.fresh r true
      match r.firmware with
      | some h => s.startAll h i.capped 1
      | none => s.modAssay fun a => { a with wfail := a.wfail + 1, start := 1 }

/-! ## Soft errors (R444) -/

/-- An uncorrectable error in Assay's memory or log. -/
def State.assayUpset (s : State) : State := s.modAssay fun a => { a with upset := true }

end Sys2Proof.Machine
end

