-- ==== Sys2Proof/Machine/Dispatch.lean ====
section
/-! DEFINITION. The meaning of each instruction and device step. -/

namespace Sys2Proof.Machine

def exec (i : Instr) (s : State) : Host.Outcome State Fault Refusal :=
  match i with
  | .mov sc d a p => Sys2Proof.Machine.execMov sc d a p s
  | .movi sc d imm => Sys2Proof.Machine.execMovi sc d imm s
  | .movl sc d p lit => Sys2Proof.Machine.execMovl sc d p lit s
  | .sel sc d a b p => Sys2Proof.Machine.execSel sc d a b p s
  | .iadd sc d a b p => Sys2Proof.Machine.execIadd sc d a b p s
  | .iaddi sc d a imm => Sys2Proof.Machine.execIaddi sc d a imm s
  | .isub sc d a b p => Sys2Proof.Machine.execIsub sc d a b p s
  | .imul sc d a b p => Sys2Proof.Machine.execImul sc d a b p s
  | .imulh sc d a b p => Sys2Proof.Machine.execImulh sc d a b p s
  | .imulhUi sc d a b p => Sys2Proof.Machine.execImulhUi sc d a b p s
  | .imad sc d a b p => Sys2Proof.Machine.execImad sc d a b p s
  | .imin sc d a b p => Sys2Proof.Machine.execImin sc d a b p s
  | .iminUi sc d a b p => Sys2Proof.Machine.execIminUi sc d a b p s
  | .imax sc d a b p => Sys2Proof.Machine.execImax sc d a b p s
  | .imaxUi sc d a b p => Sys2Proof.Machine.execImaxUi sc d a b p s
  | .iabs sc d a p => Sys2Proof.Machine.execIabs sc d a p s
  | .and_ sc d a b p => Sys2Proof.Machine.execAnd sc d a b p s
  | .andi sc d a imm => Sys2Proof.Machine.execAndi sc d a imm s
  | .or_ sc d a b p => Sys2Proof.Machine.execOr sc d a b p s
  | .ori sc d a imm => Sys2Proof.Machine.execOri sc d a imm s
  | .xor sc d a b p => Sys2Proof.Machine.execXor sc d a b p s
  | .xori sc d a imm => Sys2Proof.Machine.execXori sc d a imm s
  | .shl sc d a b p => Sys2Proof.Machine.execShl sc d a b p s
  | .shr sc d a b p => Sys2Proof.Machine.execShr sc d a b p s
  | .sar sc d a b p => Sys2Proof.Machine.execSar sc d a b p s
  | .shfiShl sc d a c => Sys2Proof.Machine.execShfiShl sc d a c s
  | .shfiShr sc d a c => Sys2Proof.Machine.execShfiShr sc d a c s
  | .shfiSar sc d a c => Sys2Proof.Machine.execShfiSar sc d a c s
  | .shfiRol sc d a c => Sys2Proof.Machine.execShfiRol sc d a c s
  | .rol sc d a b p => Sys2Proof.Machine.execRol sc d a b p s
  | .bfe sc d a b p => Sys2Proof.Machine.execBfe sc d a b p s
  | .bfi sc d a b p => Sys2Proof.Machine.execBfi sc d a b p s
  | .popc sc d a p => Sys2Proof.Machine.execPopc sc d a p s
  | .clz sc d a p => Sys2Proof.Machine.execClz sc d a p s
  | .brev sc d a p => Sys2Proof.Machine.execBrev sc d a p s
  | .isetp sc c u pd a b p => Sys2Proof.Machine.execIsetp sc c u pd a b p s
  | .isetpi sc c u pd a imm p => Sys2Proof.Machine.execIsetpi sc c u pd a imm p s
  | .fadd sc d a b p => Sys2Proof.Machine.execFadd sc d a b p s
  | .fsub sc d a b p => Sys2Proof.Machine.execFsub sc d a b p s
  | .fmul sc d a b p => Sys2Proof.Machine.execFmul sc d a b p s
  | .ffma sc d a b p => Sys2Proof.Machine.execFfma sc d a b p s
  | .fmin sc d a b p => Sys2Proof.Machine.execFmin sc d a b p s
  | .fmax sc d a b p => Sys2Proof.Machine.execFmax sc d a b p s
  | .fsetp sc c pd a b p => Sys2Proof.Machine.execFsetp sc c pd a b p s
  | .fabs sc d a p => Sys2Proof.Machine.execFabs sc d a p s
  | .fneg sc d a p => Sys2Proof.Machine.execFneg sc d a p s
  | .frcp sc d a p => Sys2Proof.Machine.execFrcp sc d a p s
  | .frsq sc d a p => Sys2Proof.Machine.execFrsq sc d a p s
  | .fsqrt sc d a p => Sys2Proof.Machine.execFsqrt sc d a p s
  | .fex2 sc d a p => Sys2Proof.Machine.execFex2 sc d a p s
  | .flg2 sc d a p => Sys2Proof.Machine.execFlg2 sc d a p s
  | .fsin sc d a p => Sys2Proof.Machine.execFsin sc d a p s
  | .fcos sc d a p => Sys2Proof.Machine.execFcos sc d a p s
  | .ffloor sc d a p => Sys2Proof.Machine.execFfloor sc d a p s
  | .fceil sc d a p => Sys2Proof.Machine.execFceil sc d a p s
  | .ftrunc sc d a p => Sys2Proof.Machine.execFtrunc sc d a p s
  | .frint sc d a p => Sys2Proof.Machine.execFrint sc d a p s
  | .ffract sc d a p => Sys2Proof.Machine.execFfract sc d a p s
  | .hadd2 sc d a b p => Sys2Proof.Machine.execHadd2 sc d a b p s
  | .hmul2 sc d a b p => Sys2Proof.Machine.execHmul2 sc d a b p s
  | .hfma2 sc d a b p => Sys2Proof.Machine.execHfma2 sc d a b p s
  | .badd2 sc d a b p => Sys2Proof.Machine.execBadd2 sc d a b p s
  | .bmul2 sc d a b p => Sys2Proof.Machine.execBmul2 sc d a b p s
  | .bfma2 sc d a b p => Sys2Proof.Machine.execBfma2 sc d a b p s
  | .cvt sc d a b p => Sys2Proof.Machine.execCvt sc d a b p s
  | .plop sc c pd na pa nb pb p => Sys2Proof.Machine.execPlop sc c pd na pa nb pb p s
  | .pmovGet sc d p => Sys2Proof.Machine.execPmovGet sc d p s
  | .pmovPut sc a p => Sys2Proof.Machine.execPmovPut sc a p s
  | .idp4 sc d a b p => Sys2Proof.Machine.execIdp4 sc d a b p s
  | .ldUi8 sc d a off p => Sys2Proof.Machine.execLdUi8 sc d a off p s
  | .ldI8 sc d a off p => Sys2Proof.Machine.execLdI8 sc d a off p s
  | .ldUi16 sc d a off p => Sys2Proof.Machine.execLdUi16 sc d a off p s
  | .ldI16 sc d a off p => Sys2Proof.Machine.execLdI16 sc d a off p s
  | .ld32 sc d a off p => Sys2Proof.Machine.execLd32 sc d a off p s
  | .ld64 sc d a off p => Sys2Proof.Machine.execLd64 sc d a off p s
  | .ld128 sc d a off p => Sys2Proof.Machine.execLd128 sc d a off p s
  | .st8 sc d a off p => Sys2Proof.Machine.execSt8 sc d a off p s
  | .st16 sc d a off p => Sys2Proof.Machine.execSt16 sc d a off p s
  | .st32 sc d a off p => Sys2Proof.Machine.execSt32 sc d a off p s
  | .st64 sc d a off p => Sys2Proof.Machine.execSt64 sc d a off p s
  | .st128 sc d a off p => Sys2Proof.Machine.execSt128 sc d a off p s
  | .lds32 sc d a off p => Sys2Proof.Machine.execLds32 sc d a off p s
  | .lds64 sc d a off p => Sys2Proof.Machine.execLds64 sc d a off p s
  | .lds128 sc d a off p => Sys2Proof.Machine.execLds128 sc d a off p s
  | .sts32 sc d a off p => Sys2Proof.Machine.execSts32 sc d a off p s
  | .sts64 sc d a off p => Sys2Proof.Machine.execSts64 sc d a off p s
  | .sts128 sc d a off p => Sys2Proof.Machine.execSts128 sc d a off p s
  | .ldc32 sc d a off p => Sys2Proof.Machine.execLdc32 sc d a off p s
  | .atomAdd sc d a b p => Sys2Proof.Machine.execAtomAdd sc d a b p s
  | .atomMin sc d a b p => Sys2Proof.Machine.execAtomMin sc d a b p s
  | .atomMax sc d a b p => Sys2Proof.Machine.execAtomMax sc d a b p s
  | .atomMinUi sc d a b p => Sys2Proof.Machine.execAtomMinUi sc d a b p s
  | .atomMaxUi sc d a b p => Sys2Proof.Machine.execAtomMaxUi sc d a b p s
  | .atomAnd sc d a b p => Sys2Proof.Machine.execAtomAnd sc d a b p s
  | .atomOr sc d a b p => Sys2Proof.Machine.execAtomOr sc d a b p s
  | .atomXor sc d a b p => Sys2Proof.Machine.execAtomXor sc d a b p s
  | .atomExch sc d a b p => Sys2Proof.Machine.execAtomExch sc d a b p s
  | .atomCas sc d a b p => Sys2Proof.Machine.execAtomCas sc d a b p s
  | .atomInc sc d a b p => Sys2Proof.Machine.execAtomInc sc d a b p s
  | .atomFadd sc d a b p => Sys2Proof.Machine.execAtomFadd sc d a b p s
  | .redAdd sc a b p => Sys2Proof.Machine.execRedAdd sc a b p s
  | .redMin sc a b p => Sys2Proof.Machine.execRedMin sc a b p s
  | .redMax sc a b p => Sys2Proof.Machine.execRedMax sc a b p s
  | .redAnd sc a b p => Sys2Proof.Machine.execRedAnd sc a b p s
  | .redOr sc a b p => Sys2Proof.Machine.execRedOr sc a b p s
  | .redXor sc a b p => Sys2Proof.Machine.execRedXor sc a b p s
  | .redFadd sc a b p => Sys2Proof.Machine.execRedFadd sc a b p s
  | .bind sc a p => Sys2Proof.Machine.execBind sc a p s
  | .unbind sc a p => Sys2Proof.Machine.execUnbind sc a p s
  | .acq sc a m => Sys2Proof.Machine.execAcq sc a m s
  | .rel sc a m => Sys2Proof.Machine.execRel sc a m s
  | .gateAcq sc a => Sys2Proof.Machine.execGateAcq sc a s
  | .gateTry sc pd a p => Sys2Proof.Machine.execGateTry sc pd a p s
  | .gateRel sc a => Sys2Proof.Machine.execGateRel sc a s
  | .sigLd sc d a p => Sys2Proof.Machine.execSigLd sc d a p s
  | .sigSt sc d a p => Sys2Proof.Machine.execSigSt sc d a p s
  | .sigAdd sc d a b p => Sys2Proof.Machine.execSigAdd sc d a b p s
  | .sigCas sc d a b p => Sys2Proof.Machine.execSigCas sc d a b p s
  | .sigWait sc d a b p => Sys2Proof.Machine.execSigWait sc d a b p s
  | .fence sc f => Sys2Proof.Machine.execFence sc f s
  | .xfence sc x y => Sys2Proof.Machine.execXfence sc x y s
  | .cflush sc a b p => Sys2Proof.Machine.execCflush sc a b p s
  | .cinv sc a b p => Sys2Proof.Machine.execCinv sc a b p s
  | .prefetch sc a off p => Sys2Proof.Machine.execPrefetch sc a off p s
  | .mmaT8 sc d a b p => Sys2Proof.Machine.execMmaT8 sc d a b p s
  | .mmaI8 sc d a b p => Sys2Proof.Machine.execMmaI8 sc d a b p s
  | .mmaE4 sc d a b p => Sys2Proof.Machine.execMmaE4 sc d a b p s
  | .mmaE5 sc d a b p => Sys2Proof.Machine.execMmaE5 sc d a b p s
  | .mmaBf sc d a b p => Sys2Proof.Machine.execMmaBf sc d a b p s
  | .mmaH sc d a b p => Sys2Proof.Machine.execMmaH sc d a b p s
  | .mmaF32 sc d a b p => Sys2Proof.Machine.execMmaF32 sc d a b p s
  | .mmaT8s sc d a b p lit => Sys2Proof.Machine.execMmaT8s sc d a b p lit s
  | .mmaI8s sc d a b p lit => Sys2Proof.Machine.execMmaI8s sc d a b p lit s
  | .wload sc d a b p => Sys2Proof.Machine.execWload sc d a b p s
  | .accZero sc a p => Sys2Proof.Machine.execAccZero sc a p s
  | .accRd sc d a p => Sys2Proof.Machine.execAccRd sc d a p s
  | .accWr sc d a p => Sys2Proof.Machine.execAccWr sc d a p s
  | .accScale sc a b p => Sys2Proof.Machine.execAccScale sc a b p s
  | .accCvtF32I32 sc a p => Sys2Proof.Machine.execAccCvtF32I32 sc a p s
  | .accCvtI32F32 sc a p => Sys2Proof.Machine.execAccCvtI32F32 sc a p s
  | .tstore sc a p => Sys2Proof.Machine.execTstore sc a p s
  | .tstoreAdd sc a p => Sys2Proof.Machine.execTstoreAdd sc a p s
  | .winset sc a b p => Sys2Proof.Machine.execWinset sc a b p s
  | .winget sc d a p => Sys2Proof.Machine.execWinget sc d a p s
  | .rowmax sc d a p => Sys2Proof.Machine.execRowmax sc d a p s
  | .rowsum sc d a p => Sys2Proof.Machine.execRowsum sc d a p s
  | .copy sc a p => Sys2Proof.Machine.execCopy sc a p s
  | .copyX24 sc a p => Sys2Proof.Machine.execCopyX24 sc a p s
  | .filLoad sc a p lit => Sys2Proof.Machine.execFilLoad sc a p lit s
  | .filRun sc b p => Sys2Proof.Machine.execFilRun sc b p s
  | .filStop sc b p => Sys2Proof.Machine.execFilStop sc b p s
  | .qcfg sc a q en sgn z l => Sys2Proof.Machine.execQcfg sc a q en sgn z l s
  | .qstat sc d q => Sys2Proof.Machine.execQstat sc d q s
  | .gnode sc d a p lit => Sys2Proof.Machine.execGnode sc d a p lit s
  | .gedge sc a b p => Sys2Proof.Machine.execGedge sc a b p s
  | .garm sc p => Sys2Proof.Machine.execGarm sc p s
  | .garmClr sc p => Sys2Proof.Machine.execGarmClr sc p s
  | .gwait sc p => Sys2Proof.Machine.execGwait sc p s
  | .gset sc v g => Sys2Proof.Machine.execGset sc v g s
  | .engStat sc d n => Sys2Proof.Machine.execEngStat sc d n s
  | .nop sc p => Sys2Proof.Machine.execNop sc p s
  | .bra sc off => Sys2Proof.Machine.execBra sc off s
  | .brm sc lits => Sys2Proof.Machine.execBrm sc lits s
  | .call sc off => Sys2Proof.Machine.execCall sc off s
  | .callI sc a p => Sys2Proof.Machine.execCallI sc a p s
  | .ret sc p => Sys2Proof.Machine.execRet sc p s
  | .exit sc p => Sys2Proof.Machine.execExit sc p s
  | .jinit sc d p => Sys2Proof.Machine.execJinit sc d p s
  | .jwait sc d p => Sys2Proof.Machine.execJwait sc d p s
  | .jleave sc l => Sys2Proof.Machine.execJleave sc l s
  | .brk sc j p lit => Sys2Proof.Machine.execBrk sc j p lit s
  | .barSync sc b => Sys2Proof.Machine.execBarSync sc b s
  | .barArrive sc b => Sys2Proof.Machine.execBarArrive sc b s
  | .barWait sc b => Sys2Proof.Machine.execBarWait sc b s
  | .barInit sc b => Sys2Proof.Machine.execBarInit sc b s
  | .shfl sc d a b p => Sys2Proof.Machine.execShfl sc d a b p s
  | .vote sc c pd na pa b p => Sys2Proof.Machine.execVote sc c pd na pa b p s
  | .redux sc d a f p => Sys2Proof.Machine.execRedux sc d a f p s
  | .scan sc d a f p => Sys2Proof.Machine.execScan sc d a f p s
  | .setdecl sc a p lit => Sys2Proof.Machine.execSetdecl sc a p lit s
  | .quota sc x y n => Sys2Proof.Machine.execQuota sc x y n s
  | .tileNext sc pd a p => Sys2Proof.Machine.execTileNext sc pd a p s
  | .spawn sc d a b p => Sys2Proof.Machine.execSpawn sc d a b p s
  | .yield sc p => Sys2Proof.Machine.execYield sc p s
  | .s2r sc d n => Sys2Proof.Machine.execS2r sc d n s
  | .featq sc d n => Sys2Proof.Machine.execFeatq sc d n s
  | .trap sc c => Sys2Proof.Machine.execTrap sc c s
  | .spawnSpec sc d a b p => Sys2Proof.Machine.execSpawnSpec sc d a b p s
  | .specOp sc d a b p lit => Sys2Proof.Machine.execSpecOp sc d a b p lit s
  | .specEnd sc p => Sys2Proof.Machine.execSpecEnd sc p s
  | .specCommit sc p => Sys2Proof.Machine.execSpecCommit sc p s
  | .specAbort sc p => Sys2Proof.Machine.execSpecAbort sc p s
  | .specDrain sc p => Sys2Proof.Machine.execSpecDrain sc p s
  | .specTable sc a p => Sys2Proof.Machine.execSpecTable sc a p s
  | .brx sc d a b p => Sys2Proof.Machine.execBrx sc d a b p s
  | .primEmit sc a p => Sys2Proof.Machine.execPrimEmit sc a p s
  | .attrEmit sc a v k p => Sys2Proof.Machine.execAttrEmit sc a v k p s
  | .attrIn sc d c p => Sys2Proof.Machine.execAttrIn sc d c p s
  | .texS sc d a p lit => Sys2Proof.Machine.execTexS sc d a p lit s
  | .texL sc d a p lit => Sys2Proof.Machine.execTexL sc d a p lit s
  | .texF sc d a p lit => Sys2Proof.Machine.execTexF sc d a p lit s
  | .texG sc d a p lit => Sys2Proof.Machine.execTexG sc d a p lit s
  | .tbLd sc d w1 p => Sys2Proof.Machine.execTbLd sc d w1 p s
  | .tbSt sc a w1 p => Sys2Proof.Machine.execTbSt sc a w1 p s
  | .tbBlend sc a p => Sys2Proof.Machine.execTbBlend sc a p s
  | .fragKill sc p => Sys2Proof.Machine.execFragKill sc p s
  | .hallQPix sc d a p => Sys2Proof.Machine.execHallQPix sc d a p s
  | .hallQGrant sc d a p => Sys2Proof.Machine.execHallQGrant sc d a p s
  | .depthT sc c pd a p => Sys2Proof.Machine.execDepthT sc c pd a p s
  | .srd sc d n => Sys2Proof.Machine.execSrd sc d n s
  | .swr sc a n => Sys2Proof.Machine.execSwr sc a n s
  | .eret sc p => Sys2Proof.Machine.execEret sc p s
  | .ctxRd sc d a p => Sys2Proof.Machine.execCtxRd sc d a p s
  | .ctxWr sc a b p => Sys2Proof.Machine.execCtxWr sc a b p s
  | .ctxSave sc a p => Sys2Proof.Machine.execCtxSave sc a p s
  | .ctxLoad sc a p => Sys2Proof.Machine.execCtxLoad sc a p s
  | .tlbInv sc a b p => Sys2Proof.Machine.execTlbInv sc a b p s
  | .wfi sc d a p => Sys2Proof.Machine.execWfi sc d a p s
  | .agentClaim sc d p => Sys2Proof.Machine.execAgentClaim sc d p s
  | .blkStart sc a p => Sys2Proof.Machine.execBlkStart sc a p s
  | .blkStop sc a p => Sys2Proof.Machine.execBlkStop sc a p s
  | .vdevDrain sc a p => Sys2Proof.Machine.execVdevDrain sc a p s
  | .poolClr sc a p => Sys2Proof.Machine.execPoolClr sc a p s
  | .faultRd sc d p => Sys2Proof.Machine.execFaultRd sc d p s
  | .resumeContinue sc a b p => Sys2Proof.Machine.execResumeContinue sc a b p s
  | .resumeSkip sc a b p => Sys2Proof.Machine.execResumeSkip sc a b p s
  | .resumeKill sc a b p => Sys2Proof.Machine.execResumeKill sc a b p s
  | .pick core part => Sys2Proof.Machine.execPick core part s
  | .operationComplete op => Sys2Proof.Machine.execOperationComplete op s
  | .refillArrival thr => Sys2Proof.Machine.execRefillArrival thr s
  | .brxEntryArrival thr => Sys2Proof.Machine.execBrxEntryArrival thr s
  | .spawnBinTimer core bin => Sys2Proof.Machine.execSpawnBinTimer core bin s
  | .binLaunch core => Sys2Proof.Machine.execBinLaunch core s
  | .dispenserRefill launch die => Sys2Proof.Machine.execDispenserRefill launch die s
  | .notify vdev q tail => Sys2Proof.Machine.execNotify vdev q tail s
  | .qStateSkip vdev q => Sys2Proof.Machine.execQStateSkip vdev q s
  | .recordCheck vdev q => Sys2Proof.Machine.execRecordCheck vdev q s
  | .slotOverdue vdev q => Sys2Proof.Machine.execSlotOverdue vdev q s
  | .timeSliceExpiry launch => Sys2Proof.Machine.execTimeSliceExpiry launch s
  | .preemptionRequest launch => Sys2Proof.Machine.execPreemptionRequest launch s
  | .vdevSavefaultRetry vdev => Sys2Proof.Machine.execVdevSavefaultRetry vdev s
  | .vdevSavefaultUnmappable vdev => Sys2Proof.Machine.execVdevSavefaultUnmappable vdev s
  | .remoteSectorRequest die req vdev pa => Sys2Proof.Machine.execRemoteSectorRequest die req vdev pa s
  | .hotnessDecay => Sys2Proof.Machine.execHotnessDecay s
  | .memHotCfgWrite v => Sys2Proof.Machine.execMemHotCfgWrite v s
  | .memQpush v => Sys2Proof.Machine.execMemQpush v s
  | .memQpop => Sys2Proof.Machine.execMemQpop s
  | .engineCommandStart core engine => Sys2Proof.Machine.execEngineCommandStart core engine s
  | .sliceElementDelivery core slot => Sys2Proof.Machine.execSliceElementDelivery core slot s
  | .graphNodeFinish core node => Sys2Proof.Machine.execGraphNodeFinish core node s
  | .taskAbort thr => Sys2Proof.Machine.execTaskAbort thr s
  | .tilePassStart core => Sys2Proof.Machine.execTilePassStart core s
  | .tesseraResolve core => Sys2Proof.Machine.execTesseraResolve core s
  | .bezelRefresh disp => Sys2Proof.Machine.execBezelRefresh disp s
  | .lockedRefresh vdev ctx => Sys2Proof.Machine.execLockedRefresh vdev ctx s
  | .bzFill owner v => Sys2Proof.Machine.execBzFill owner v s
  | .bzFillComplete => Sys2Proof.Machine.execBzFillComplete s
  | .bzTselWrite owner v => Sys2Proof.Machine.execBzTselWrite owner v s
  | .bzTdataWrite owner k v => Sys2Proof.Machine.execBzTdataWrite owner k v s
  | .bzModeWrite owner disp v carried => Sys2Proof.Machine.execBzModeWrite owner disp v carried s
  | .displayLinkTrained disp => Sys2Proof.Machine.execDisplayLinkTrained disp s
  | .prBWrite owner disp v => Sys2Proof.Machine.execPrBWrite owner disp v s
  | .fabricIngressRequest r => Sys2Proof.Machine.execFabricIngressRequest r s
  | .stubThawReport vdev => Sys2Proof.Machine.execStubThawReport vdev s
  | .linkRouteFailure op completed => Sys2Proof.Machine.execLinkRouteFailure op completed s
  | .bandwidthPublication shares congested => Sys2Proof.Machine.execBandwidthPublication shares congested s
  | .vdevReset vdev => Sys2Proof.Machine.execVdevReset vdev s
  | .vdevFreeze vdev => Sys2Proof.Machine.execVdevFreeze vdev s
  | .vdevThaw vdev => Sys2Proof.Machine.execVdevThaw vdev s
  | .vdevStubClear vdev => Sys2Proof.Machine.execVdevStubClear vdev s
  | .vdevShareWrite vdev v => Sys2Proof.Machine.execVdevShareWrite vdev v s
  | .vdevSigWrite vdev v => Sys2Proof.Machine.execVdevSigWrite vdev v s
  | .qCtlWrite vdev q v => Sys2Proof.Machine.execQCtlWrite vdev q v s
  | .ctxCreate vdev ctx => Sys2Proof.Machine.execCtxCreate vdev ctx s
  | .ctxDestroy vdev ctx => Sys2Proof.Machine.execCtxDestroy vdev ctx s
  | .ctxSelect vdev ctx => Sys2Proof.Machine.execCtxSelect vdev ctx s
  | .ctxLegacyWrite vdev v => Sys2Proof.Machine.execCtxLegacyWrite vdev v s
  | .ctxOwnerWrite vdev v => Sys2Proof.Machine.execCtxOwnerWrite vdev v s
  | .sysRstAck core v => Sys2Proof.Machine.execSysRstAck core v s
  | .drainPcieTimeout vdev => Sys2Proof.Machine.execDrainPcieTimeout vdev s
  | .hostSignalStore idx v => Sys2Proof.Machine.execHostSignalStore idx v s
  | .hostSignalLoad idx => Sys2Proof.Machine.execHostSignalLoad idx s
  | .registerWrite pa owner v => Sys2Proof.Machine.execRegisterWrite pa owner v s
  | .getVersion => Sys2Proof.Machine.execGetVersion s
  | .getCapabilities => Sys2Proof.Machine.execGetCapabilities s
  | .negotiateAlgorithms asym hash => Sys2Proof.Machine.execNegotiateAlgorithms asym hash s
  | .getDigests slot => Sys2Proof.Machine.execGetDigests slot s
  | .getCertificate slot => Sys2Proof.Machine.execGetCertificate slot s
  | .challenge slot nonce => Sys2Proof.Machine.execChallenge slot nonce s
  | .getMeasurements index nonce => Sys2Proof.Machine.execGetMeasurements index nonce s
  | .assayExtend k digest => Sys2Proof.Machine.execAssayExtend k digest s
  | .handoverStage image => Sys2Proof.Machine.execHandoverStage image s
  | .handoverTimeout => Sys2Proof.Machine.execHandoverTimeout s
  | .coldStart img => Sys2Proof.Machine.execColdStart img s
  | .warmStart img => Sys2Proof.Machine.execWarmStart img s

end Sys2Proof.Machine
end

