-- ==== Sys2Proof/Machine/Ecc.lean ====
section
/-! DEFINITION. Uncorrectable errors of the register file: a word that reads a vector register with one raises ACCESS with
cause POISON (R166, R183, R342). -/

namespace Sys2Proof.Machine

/-- The guard of an instruction's word (R64); 0 where it has none. SEL's PRED field selects and does not guard (R66). -/
def Instr.guard : Instr → Nat
  | .mov (p := p) .. | .movl (p := p) .. | .iadd (p := p) .. | .isub (p := p) .. | .imul (p := p) ..
  | .imulh (p := p) .. | .imulhUi (p := p) .. | .imad (p := p) .. | .imin (p := p) .. | .iminUi (p := p) ..
  | .imax (p := p) .. | .imaxUi (p := p) .. | .iabs (p := p) .. | .and_ (p := p) .. | .or_ (p := p) ..
  | .xor (p := p) .. | .shl (p := p) .. | .shr (p := p) .. | .sar (p := p) .. | .rol (p := p) .. | .bfe (p := p) ..
  | .bfi (p := p) .. | .popc (p := p) .. | .clz (p := p) .. | .brev (p := p) .. | .isetp (p := p) ..
  | .isetpi (p := p) .. | .fadd (p := p) .. | .fsub (p := p) .. | .fmul (p := p) .. | .ffma (p := p) ..
  | .fmin (p := p) .. | .fmax (p := p) .. | .fsetp (p := p) .. | .fabs (p := p) .. | .fneg (p := p) ..
  | .frcp (p := p) .. | .frsq (p := p) .. | .fsqrt (p := p) .. | .fex2 (p := p) .. | .flg2 (p := p) ..
  | .fsin (p := p) .. | .fcos (p := p) .. | .ffloor (p := p) .. | .fceil (p := p) .. | .ftrunc (p := p) ..
  | .frint (p := p) .. | .ffract (p := p) .. | .hadd2 (p := p) .. | .hmul2 (p := p) .. | .hfma2 (p := p) ..
  | .badd2 (p := p) .. | .bmul2 (p := p) .. | .bfma2 (p := p) .. | .cvt (p := p) .. | .plop (p := p) ..
  | .pmovGet (p := p) .. | .pmovPut (p := p) .. | .idp4 (p := p) .. | .ldUi8 (p := p) .. | .ldI8 (p := p) ..
  | .ldUi16 (p := p) .. | .ldI16 (p := p) .. | .ld32 (p := p) .. | .ld64 (p := p) .. | .ld128 (p := p) ..
  | .st8 (p := p) .. | .st16 (p := p) .. | .st32 (p := p) .. | .st64 (p := p) .. | .st128 (p := p) ..
  | .lds32 (p := p) .. | .lds64 (p := p) .. | .lds128 (p := p) .. | .sts32 (p := p) .. | .sts64 (p := p) ..
  | .sts128 (p := p) .. | .ldc32 (p := p) .. | .atomAdd (p := p) .. | .atomMin (p := p) .. | .atomMax (p := p) ..
  | .atomMinUi (p := p) .. | .atomMaxUi (p := p) .. | .atomAnd (p := p) .. | .atomOr (p := p) ..
  | .atomXor (p := p) .. | .atomExch (p := p) .. | .atomCas (p := p) .. | .atomInc (p := p) ..
  | .atomFadd (p := p) .. | .redAdd (p := p) .. | .redMin (p := p) .. | .redMax (p := p) .. | .redAnd (p := p) ..
  | .redOr (p := p) .. | .redXor (p := p) .. | .redFadd (p := p) .. | .bind (p := p) .. | .unbind (p := p) ..
  | .gateTry (p := p) .. | .sigLd (p := p) .. | .sigSt (p := p) .. | .sigAdd (p := p) .. | .sigCas (p := p) ..
  | .sigWait (p := p) .. | .cflush (p := p) .. | .cinv (p := p) .. | .prefetch (p := p) .. | .mmaT8 (p := p) ..
  | .mmaI8 (p := p) .. | .mmaE4 (p := p) .. | .mmaE5 (p := p) .. | .mmaBf (p := p) .. | .mmaH (p := p) ..
  | .mmaF32 (p := p) .. | .mmaT8s (p := p) .. | .mmaI8s (p := p) .. | .wload (p := p) .. | .accZero (p := p) ..
  | .accRd (p := p) .. | .accWr (p := p) .. | .accScale (p := p) .. | .accCvtF32I32 (p := p) ..
  | .accCvtI32F32 (p := p) .. | .tstore (p := p) .. | .tstoreAdd (p := p) .. | .winset (p := p) ..
  | .winget (p := p) .. | .rowmax (p := p) .. | .rowsum (p := p) .. | .copy (p := p) .. | .copyX24 (p := p) ..
  | .filLoad (p := p) .. | .filRun (p := p) .. | .filStop (p := p) .. | .gnode (p := p) .. | .gedge (p := p) ..
  | .garm (p := p) .. | .garmClr (p := p) .. | .gwait (p := p) .. | .nop (p := p) .. | .callI (p := p) ..
  | .ret (p := p) .. | .exit (p := p) .. | .jinit (p := p) .. | .jwait (p := p) .. | .brk (p := p) ..
  | .shfl (p := p) .. | .vote (p := p) .. | .redux (p := p) .. | .scan (p := p) .. | .setdecl (p := p) ..
  | .tileNext (p := p) .. | .spawn (p := p) .. | .yield (p := p) .. | .spawnSpec (p := p) .. | .specOp (p := p) ..
  | .specEnd (p := p) .. | .specCommit (p := p) .. | .specAbort (p := p) .. | .specDrain (p := p) ..
  | .specTable (p := p) .. | .brx (p := p) .. | .primEmit (p := p) .. | .attrEmit (p := p) .. | .attrIn (p := p) ..
  | .texS (p := p) .. | .texL (p := p) .. | .texF (p := p) .. | .texG (p := p) .. | .tbLd (p := p) ..
  | .tbSt (p := p) .. | .tbBlend (p := p) .. | .fragKill (p := p) .. | .hallQPix (p := p) ..
  | .hallQGrant (p := p) .. | .depthT (p := p) .. | .eret (p := p) .. | .ctxRd (p := p) .. | .ctxWr (p := p) ..
  | .ctxSave (p := p) .. | .ctxLoad (p := p) .. | .tlbInv (p := p) .. | .wfi (p := p) .. | .agentClaim (p := p) ..
  | .blkStart (p := p) .. | .blkStop (p := p) .. | .vdevDrain (p := p) .. | .poolClr (p := p) ..
  | .faultRd (p := p) .. | .resumeContinue (p := p) .. | .resumeSkip (p := p) .. | .resumeKill (p := p) .. => p.toNat
  | _ => 0

/-- How many consecutive registers a field reads, as its role alone tells. -/
def Role.reads : Role → Nat
  | .src | .anyReg => 1
  | .srcPair | .vecPair => 2
  | .srcQuad => 4
  | _ => 0

/-- The registers that an instruction reads beside those of its source roles: a stored or accumulated D, the runs that a
command captures, and the pair that SWR writes from. -/
def State.alsoReads (s : State) (t : Nat) : Instr → List (Nat × Nat)
  | .st8 _ d .. | .st16 _ d .. | .st32 _ d .. | .sts32 _ d .. | .brx _ d .. | .imad _ d .. | .ffma _ d .. | .bfi _ d ..
  | .hfma2 _ d .. | .bfma2 _ d .. | .idp4 _ d .. => [(d.toNat, 1)]
  | .mmaI8 _ _ a .. | .mmaE4 _ _ a .. | .mmaE5 _ _ a .. | .mmaBf _ _ a .. | .mmaH _ _ a .. | .mmaF32 _ _ a .. =>
    [(a.toNat, 4)]
  | .mmaT8 _ _ a .. => [(a.toNat, 8)]
  | .mmaT8s _ _ a _ _ lit => [(a.toNat, 8), (bitsOf lit.toNat 6 0, 1)]
  | .mmaI8s _ _ a _ _ lit => [(a.toNat, 4), (bitsOf lit.toNat 6 0, 1)]
  | .accWr _ d a _ => [(d.toNat, selN (s.reg t a.toNat))]
  | .accScale _ _ b _ | .ctxWr _ _ b _ => [(b.toNat, 1)]
  | .primEmit _ a _ => [(a.toNat, 9)]
  | .swr _ a _ => [(a.toNat, 2)]
  | _ => []

/-- The vector registers that an instruction reads in a thread. -/
def State.vecReads (s : State) (t : Nat) (x : Instr) : List Nat :=
  ((x.regs.map fun rc => (rc.2.toNat, Role.reads rc.1)) ++ s.alsoReads t x).flatMap fun r =>
    ((List.range r.2).map fun k => r.1 + k).filter fun c => c < 96

/-- Whether a wider scope's word reads the registers of every member, not of the representative alone (R64). -/
def Instr.gathers : Instr → Bool
  | .shfl .. | .redux .. | .scan .. | .mmaT8 .. | .mmaI8 .. | .mmaE4 .. | .mmaE5 .. | .mmaBf .. | .mmaH .. | .mmaF32 ..
  | .mmaT8s .. | .mmaI8s .. | .accWr .. | .accScale .. | .ctxWr .. | .texS .. | .texL .. | .texF .. | .texG .. => true
  | _ => false

/-- The threads whose registers a word reads (R9, R64). -/
def State.readers (s : State) (i : Issue) (x : Instr) : List Nat :=
  match s.actors i x.scope (Instr.guard x) with
  | [] => []
  | ts => if x.scope ≠ .lane && Instr.gathers x then i.group else ts

/-- Those of them that read a register with an uncorrectable error. -/
def State.regBad (s : State) (i : Issue) (x : Instr) : List Nat :=
  if s.poison.isEmpty then []
  else (s.readers i x).filter fun t => (s.vecReads t x).any fun c => s.poisoned (regEcc t c) 4

/-- A word meets the errors of the registers that it reads: those lanes stop at it, or the whole group of a wider scope
(R183, R342) (DEDUCED, log entry 42). -/
def State.checkRegs (s : State) (i : Issue) (x : Instr) : State :=
  match s.regBad i x with
  | [] => s
  | ts => s.raise (if x.scope = .lane then ts else i.group) { i.faultAt with scope := x.scope } localPoison
      (some (i.here x.litCount))

/-! ## Soft errors as they arise (R183, R355, R444) -/

/-- An uncorrectable error in a byte. -/
def State.upset (s : State) (a : Nat) : State := if s.poison.contains a then s else { s with poison := a :: s.poison }

/-- A single-bit error corrected, and counted. -/
def State.correct (s : State) : State := { s with corrected := s.corrected + 1 }

/-- A parity error in the control state of a core's block: a double fault (R355). -/
def State.parityError (s : State) (c : Nat) : State := if (s.block c).active then s.doubleFault c else s

end Sys2Proof.Machine
end

