-- ==== Sys2Proof/Machine/Run.lean ====
section
/-! DEFINITION. What a partition does in one step: its pick, or the next word of its clause (R11, R102). -/

namespace Sys2Proof.Machine

/-- What an outcome becomes when more is done after it. -/
def thenDo (o : Out) (k : State → State) : Out :=
  match o with
  | .next s => .next (k s)
  | .fault r => .fault r
  | .refused r => .refused r

/-- The next partition moves. -/
def State.turn (s : State) : State := { s with cur := (s.cur + 1) % 576 }

/-- The pick of the partition that moves; where no clause issues, the next partition moves. -/
def State.pickStep (s : State) : Out :=
  thenDo (exec (.pick (s.cur / 4) (s.cur % 4)) s) fun s' =>
    match s'.issue with
    | some _ => s'
    | none => s'.turn

/-- The clause in progress dropped: its word is none that a checked clause can hold (R43). -/
def State.dropClause (s : State) : State := { s with issues := s.issues.del s.cur }

/-- Words counted in open brackets (R358): SPEC.OP and SPEC.END are not. -/
def Instr.inBracket : Instr → Bool
  | .specOp .. | .specEnd .. => false
  | _ => true

/-- The words that a thread has issued in its open bracket. -/
def Thread.bracketWords (th : Thread) : Option Nat := th.task.bind Task.bracket

/-- A word is counted by the threads of its group that have a bracket open; at a thread's 257th it is
BRACKET_LENGTH (R358) (DEDUCED, log entry 38). -/
def State.countWord (s : State) (i : Issue) (x : Instr) : State :=
  if Instr.inBracket x then
    let late := i.group.filter fun t => (s.thr t).bracketWords.any fun n => 256 ≤ n
    let more := i.group.filter fun t => (s.thr t).bracketWords.any fun n => n < 256
    let s := s.modThrs more fun th =>
      { th with task := th.task.map fun k => { k with bracket := k.bracket.map fun n => n + 1 } }
    if late.isEmpty then s
    else s.raise (if x.scope = .lane then late else i.group) { i.faultAt with scope := x.scope }
      (plainFault clsBracketLength) (some (i.here x.litCount))
  else s

/-- The word at the clause's position decoded and executed. -/
def State.wordStep (s : State) (i : Issue) : Out :=
  match i.words.drop i.pos with
  | [] => .next s.dropClause
  | w :: rest =>
    match decodeWord i.head.cls w rest with
    | .ok x => thenDo (exec x ((s.countWord i x).checkRegs i x)) fun s' => ({ s' with cur := s.cur }).afterWord x
    | .error _ => .next s.dropClause

/-- The partition that moves: the next word of its clause, unless a drain holds its threads, or its pick (R386) (DESIGN
CHOICE, log entry 8). -/
def State.partStep (s : State) : Out :=
  match s.issue with
  | some i => if s.drainHolds (i.group.headD 0) then .next s.turn else s.wordStep i
  | none => s.pickStep

/-- What goes on by itself once its condition holds: the next step of a reset whose agents have acknowledged and whose
work has ended (R421), and the commit of a hand-over whose agents are all parked (R440, R447). -/
def State.goOn (s : State) : State := s.testResets.tryCommit

/-- What the outside does that is no step of the table: soft errors (R183, R355, R444), another module's write of a signal
word that a WAIT is proxied to (R141), an image carried over (R417), a request that the responder does not implement (R438);
and the quiescing that a stage leads to (R440). -/
def State.outside (s : State) : Agenda → State
  | .upset a => s.upset a
  | .corrected => s.correct
  | .parity c => s.parityError c
  | .assayUpset => s.assayUpset
  | .awayWrite => s.testConds
  | .copyImage v i => s.copyImage v i
  | .quiesce => s.quiesce
  | .otherRequest => s.otherRequest
  | _ => s

end Sys2Proof.Machine
end

