-- ==== Sys2Proof/Machine/Step.lean ====
section
/-! DEFINITION. One step of the module: a device step that is due, or what the partition that moves does
next. -/

namespace Sys2Proof.Machine

/-- One step (log entry 8): a device step that is due, or a named partition, comes first; then the partition
that moves. In safe mode no core has power; a module that has not started waits. -/
def step (s : State) : Host.Outcome State Fault Refusal :=
  match s.agenda with
  | .event i :: r => thenDo (exec i { s with agenda := r }) State.goOn
  | .write pa owner v :: r => execRegisterWrite pa owner v { s with agenda := r }
  | .store pa owner bs :: r => execRegisterStore pa owner bs { s with agenda := r }
  | .part c p :: r => .next { s with agenda := r, cur := (c * 4 + p) % 576 }
  | a :: r => .next (({ s with agenda := r }).outside a).goOn
  | [] => if s.safe then .fault .safeMode else if s.started then thenDo s.partStep State.goOn else .next s

/-- The threads of core 0's agent. -/
def agent0 : List Nat := (List.range 32).map (mkThread 0 63 0)

/-- A header for a clause of one instruction: no flags, no waits. -/
def plainHeader (c : Cls) : Header :=
  { setb := none, seta := none, wait := 0, cls := c, yield := false, count := 5 }

/-- The state with an instruction as the next word of the clause in progress on the partition that
moves: the clause is core 0's agent's, in partition 3 (DESIGN CHOICE, log entry 5; DESIGN CHOICE, log entry 8). -/
def State.withFetchWord (s : State) (nbits w : Nat) : State :=
  if 0 < nbits ∧ nbits ≤ 32 then
    match tableDecode w with
    | none => s
    | some (c, i) =>
      { s with
        started := true, safe := false, agenda := [], cur := 3
        issues := s.issues.put 3
          { hdr := 0, head := plainHeader c, scope := i.scope, words := tableWords w, pos := 0, ll := 0
            group := agent0, all := agent0, short := [] } }
  else s

end Sys2Proof.Machine
end

