-- ==== Sys2Proof/Safety.lean ====
section
/-! DEFINITION. What counts as a safe run: one in which no step stops the machine; and the words that the
statements are written in. -/

namespace Sys2Proof.Safety

open Sys2Proof.Machine

/-- The state after `n` steps, if no step stops. -/
def after : Nat → State → Option State
  | 0, s => some s
  | n + 1, s =>
    match step s with
    | .next s' => after n s'
    | .fault _ => none
    | .refused _ => none

/-- A run of `n` steps from a state is safe: each of them gives a next state. -/
def SafeFor (n : Nat) (s : State) : Prop := ∃ s', after n s = some s'

/-- A state from which every run is safe. -/
def Safe (s : State) : Prop := ∀ n, SafeFor n s

/-- The one way a step stops: the module is in safe mode and nothing is due (R443). -/
def Stopped (s : State) : Prop := s.agenda = [] ∧ s.safe = true

end Sys2Proof.Safety

namespace Sys2Proof.Claims

open Sys2Proof.Machine

/-! ## The words of the statements -/

/-- A clause is in progress on the partition that moves; a thread stands in its group once. -/
def Setting (s : State) (i : Issue) : Prop := s.issue = some i ∧ i.group.Nodup

/-- A register code that is no queue port (R31). -/
def plain (c : BitVec 7) : Prop := c.toNat < 124

/-- A destination that the scope allows: a vector register or z at lane scope, a uniform register or z
elsewhere (R9, R31). -/
def allowed (sc : Scope) (d : BitVec 7) : Prop :=
  match sc with
  | .lane => d.toNat < 96 ∨ 120 ≤ d.toNat
  | _ => 96 ≤ d.toNat

/-- A word that writes register D completes; `val` is the value a thread computes. At lane scope each guarded
lane writes its own vector register; at a wider scope the representative, if its guard is true, writes the
uniform register of every warp of the scope; z discards. Nothing else changes: no other register, predicate,
flag, special register or accumulator, and no byte of memory. -/
def WritesReg (s : State) (i : Issue) (sc : Scope) (p d : Nat) (val : Nat → Word) (o : Out) : Prop :=
  ∃ t, o = .next t ∧ t = { s with threads := t.threads, warps := t.warps } ∧
    match sc with
    | .lane => t.warps = s.warps ∧ ∀ k, t.thr k =
        if k ∈ i.group ∧ s.pred k p = true ∧ d < 96 then { s.thr k with v := (s.thr k).v.put d (val k) } else s.thr k
    | _ =>
      match i.group with
      | [] => t = s
      | r :: _ => t.threads = s.threads ∧ ∀ w, t.warp w =
          if w ∈ s.dstWarps i r ∧ s.pred r p = true ∧ d < 120
          then { s.warp w with s := (s.warp w).s.put (d - 96) (val r) } else s.warp w

/-- The thread whose operands decide the predicate that a word writes in thread k: k itself at lane scope when
its guard is true, and at a wider scope the guarded representative, for every live thread of the group. -/
def decider (s : State) (i : Issue) (sc : Scope) (p k : Nat) : Option Nat :=
  match sc with
  | .lane => if k ∈ i.group ∧ s.pred k p = true then some k else none
  | _ =>
    match i.group with
    | [] => none
    | r :: _ => if k ∈ i.group ∧ s.pred r p = true ∧ (s.thr k).live = true then some r else none

/-- A word that writes predicate `pd` completes; p0 discards. Nothing else changes. -/
def WritesPred (s : State) (i : Issue) (sc : Scope) (p pd : Nat) (val : Nat → Bool) (o : Out) : Prop :=
  ∃ t, o = .next t ∧ t = { s with threads := t.threads } ∧ ∀ k, t.thr k =
    match decider s i sc p k with
    | some r => if pd = 0 then s.thr k else { s.thr k with p := setBit8 (s.thr k).p pd (val r) }
    | none => s.thr k

/-- A word that changes the threads it acts on completes, and nothing else changes. -/
def ChangesThreads (s : State) (i : Issue) (sc : Scope) (p : Nat) (val : Nat → Thread → Thread) (o : Out) : Prop :=
  ∃ t, o = .next t ∧ t = { s with threads := t.threads } ∧ ∀ k, t.thr k =
    match decider s i sc p k with
    | some r => val r (s.thr k)
    | none => s.thr k

/-- Nothing holds back the accesses of a word that acts for thread `t`: neither `t` nor, at a wider scope, another
thread of the group is parked, has an access waiting, or stands behind an ordering instruction or a drain, and no other
thread holds an earlier access of the same clause (R84, R205, R216, R343). -/
def Free (s : State) (i : Issue) (sc : Scope) (t : Nat) : Prop :=
  s.blocked t = false ∧ (sc ≠ .lane → ∀ m ∈ i.group, s.blocked m = false) ∧
    ∀ e ∈ s.threads, ∀ a ∈ e.2.deferred, a.group = i.born → i.born = 0

/-- A word acts for one thread, the one guarded lane of a group or the guarded representative of a wider scope, and
nothing holds back its accesses (R64). -/
def OneActor (s : State) (i : Issue) (sc : Scope) (p t : Nat) : Prop :=
  Setting s i ∧ s.actors i sc p = [t] ∧ Free s i sc t

/-- What a translation may change: the TLB of the core, the counter of free choices, and an interrupt that this
module's own ingress raises. -/
def Walked (s t : State) : Prop := t = { s with free := t.free, cores := t.cores, irqs := t.irqs }

/-- The access of a word, with its flag, its members and its place. -/
def access (s : State) (i : Issue) (sc : Scope) (t : Nat) (ll : Bool) (a : Acc) : Access := s.mkAccess i sc t ll a

/-- The state in which a word's access is made: its instruction is numbered, and its flag is set. -/
def issuing (s : State) (a : Access) : State := ({ s with nextOp := s.nextOp + 1 } : State).setFlags a

/-- Where the global access of a word goes, of `n` bytes at `va`, or the fault it meets (R178-R180). -/
def placed (s : State) (a : Access) (t : Nat) (va : Dword) (n : Nat) (kind : AKind) (big : Bool) : Got (Nat × Nat) :=
  match (issuing s a).translateFor (coreOf t) (s.tagOf t).1 (s.tagOf t).2 va kind false with
  | (.error f, u) => (.error f, u)
  | (.ok (pa, mt), u) => u.reach va pa n mt kind big

/-- A launch whose restore is complete, before a pre-emption that waits for it: its blocks stand on their cores, their locks
are tested, and what waited in the saved accesses is tried again (R23, R352, R355). -/
def restored (s : State) (l : Nat) (x : Launch) : State :=
  let s := (s.moveCores x.installed x.cores).setLaunch l { x with phase := .running, installed := x.cores }
  let s := x.cores.foldl (fun s c => s.testLock (s.block c).vdev (s.block c).ctx (s.block c).legacy) s
  ((((s.opsOn x.cores).foldl State.restoreOp s).afterTasks).gangDone l true).finishLaunch l

/-- The operation that a word puts in flight: the newest of the state after it, which the state before it lacks. -/
def newOp (s t : State) : Option Op := if s.nextOp < t.nextOp then t.ops.find (t.nextOp - 1) else none

/-- The access is in flight: its flag is set in its members, and one operation of it has joined those in flight. -/
def InFlight (s t : State) (a : Access) (thr pa mt : Nat) (result : Option (List Word)) : Prop :=
  t.threads = (s.setFlags a).threads ∧
  (newOp s t).map (fun o => (o.thr, o.acc, o.pa, o.mt, o.result)) = some (thr, a, pa, mt, result) ∧
  (newOp s t).map (fun o => (o.serial, o.epoch, o.landed)) = some (t.serial, t.epoch, false) ∧
  ∀ n, n + 1 ≠ t.nextOp → t.ops.find n = s.ops.find n

/-- Each byte of memory and of the scratchpads reads as before. -/
def SameBytes (s t : State) : Prop := ∀ a, t.byteAt a = s.byteAt a

/-- The bytes from `lo` on read as `bs`, and every other byte as before. -/
def Stored (s t : State) (lo : Nat) (bs : List Byte) : Prop :=
  t.bytesAt lo bs.length = bs ∧ ∀ a, (a < lo ∨ lo + bs.length ≤ a) → t.byteAt a = s.byteAt a

/-- Every register code of every thread reads as before. -/
def SameRegs (s t : State) : Prop := ∀ k c, t.reg k c = s.reg k c

/-- A command enters an engine's queue: the flag of the word is set in its members, an operation waits for the
command, and the command stands last in the queue of the core's engine, held there where an ordering instruction holds
back the thread's accesses; no register, no byte of memory, of the accumulators or of the weight buffer changes. -/
def Queued (s : State) (i : Issue) (sc : Scope) (t engine : Nat) (guard : Option Nat) (body : CmdBody) (r : State) : Prop :=
  ∃ x, SameBytes s r ∧ SameRegs s r ∧ r.accm = s.accm ∧ r.wbuf = s.wbuf ∧
    (∀ k, { r.thr k with deferred := [] } =
      { (s.setFlags (access s i sc t true (.engine engine))).thr k with deferred := [] }) ∧
    (newOp s r).map (fun o => (o.thr, o.result)) = some (t, none) ∧
    r.engq (coreOf t) engine = s.engq (coreOf t) engine ++ [x] ∧
    x.body = body ∧ x.guard = guard ∧ x.op = s.nextOp ∧ x.thr = t ∧ x.started = false ∧
    (Free s i sc t → x.held = false)

end Sys2Proof.Claims
end

