-- ==== Sys2Proof/Certificates/Slice0/Obligations.lean ====
section
/-! DEFINITION. The statements for the provers. -/

open Sys2Proof Sys2Proof.Machine Sys2Proof.Claims

/-! ## The ALU class -/

/-- Moves and integer arithmetic (R66-R68): each word completes and gives each acting thread the stated function
of its sources, to its own register D, and changes nothing else. -/
def Obligations.MovesAndIntegerArithmetic : Prop :=
  ∀ (s : State) (i : Issue) (sc : Scope) (d a b : BitVec 7) (p : BitVec 3) (imm : BitVec 17) (imm10 : BitVec 10)
    (lit : Word), Setting s i → allowed sc d → plain a → plain b →
    let A := fun k => s.reg k a.toNat
    let B := fun k => s.reg k b.toNat
    let D := fun k => s.reg k d.toNat
    let put := WritesReg s i sc p.toNat d.toNat
    let putAll := WritesReg s i sc 0 d.toNat
    put A (exec (.mov sc d a p) s) ∧
    putAll (fun _ => imm.signExtend 32) (exec (.movi sc d imm) s) ∧
    put (fun _ => lit) (exec (.movl sc d p lit) s) ∧
    putAll (fun k => if s.pred k p.toNat then A k else B k) (exec (.sel sc d a b p) s) ∧
    put (fun k => A k + B k) (exec (.iadd sc d a b p) s) ∧
    putAll (fun k => A k + imm10.signExtend 32) (exec (.iaddi sc d a imm10) s) ∧
    put (fun k => A k - B k) (exec (.isub sc d a b p) s) ∧
    put (fun k => A k * B k) (exec (.imul sc d a b p) s) ∧
    put (fun k => BitVec.ofInt 32 ((A k).toInt * (B k).toInt / 2 ^ 32)) (exec (.imulh sc d a b p) s) ∧
    put (fun k => BitVec.ofNat 32 ((A k).toNat * (B k).toNat / 2 ^ 32)) (exec (.imulhUi sc d a b p) s) ∧
    put (fun k => A k * B k + D k) (exec (.imad sc d a b p) s) ∧
    put (fun k => if (A k).toInt ≤ (B k).toInt then A k else B k) (exec (.imin sc d a b p) s) ∧
    put (fun k => if (A k).toNat ≤ (B k).toNat then A k else B k) (exec (.iminUi sc d a b p) s) ∧
    put (fun k => if (A k).toInt ≤ (B k).toInt then B k else A k) (exec (.imax sc d a b p) s) ∧
    put (fun k => if (A k).toNat ≤ (B k).toNat then B k else A k) (exec (.imaxUi sc d a b p) s) ∧
    put (fun k => if (A k).toInt < 0 then 0 - A k else A k) (exec (.iabs sc d a p) s) ∧
    put (fun k => BitVec.ofInt 32 ((D k).toInt
      + (BitVec.extractLsb' 0 8 (A k)).toInt * (BitVec.extractLsb' 0 8 (B k)).toInt
      + (BitVec.extractLsb' 8 8 (A k)).toInt * (BitVec.extractLsb' 8 8 (B k)).toInt
      + (BitVec.extractLsb' 16 8 (A k)).toInt * (BitVec.extractLsb' 16 8 (B k)).toInt
      + (BitVec.extractLsb' 24 8 (A k)).toInt * (BitVec.extractLsb' 24 8 (B k)).toInt)) (exec (.idp4 sc d a b p) s)

/-- Logic, shifts and rotations (R69-R71): a count of the full width or more leaves 0, or the sign for SAR; a
rotation takes its count modulo 32. -/
def Sys2Proof.Claims.LogicShiftsAndRotations : Prop :=
  ∀ (s : State) (i : Issue) (sc : Scope) (d a b : BitVec 7) (p : BitVec 3) (imm10 : BitVec 10) (c : BitVec 5),
    Setting s i → allowed sc d → plain a → plain b →
    let A := fun k => s.reg k a.toNat
    let B := fun k => s.reg k b.toNat
    let n := fun k => (s.reg k b.toNat).toNat % 256
    let put := WritesReg s i sc p.toNat d.toNat
    let putAll := WritesReg s i sc 0 d.toNat
    put (fun k => A k &&& B k) (exec (.and_ sc d a b p) s) ∧
    putAll (fun k => A k &&& imm10.setWidth 32) (exec (.andi sc d a imm10) s) ∧
    put (fun k => A k ||| B k) (exec (.or_ sc d a b p) s) ∧
    putAll (fun k => A k ||| imm10.setWidth 32) (exec (.ori sc d a imm10) s) ∧
    put (fun k => A k ^^^ B k) (exec (.xor sc d a b p) s) ∧
    putAll (fun k => A k ^^^ imm10.setWidth 32) (exec (.xori sc d a imm10) s) ∧
    put (fun k => A k <<< n k) (exec (.shl sc d a b p) s) ∧
    put (fun k => A k >>> n k) (exec (.shr sc d a b p) s) ∧
    put (fun k => (A k).sshiftRight (n k)) (exec (.sar sc d a b p) s) ∧
    putAll (fun k => A k <<< c.toNat) (exec (.shfiShl sc d a c) s) ∧
    putAll (fun k => A k >>> c.toNat) (exec (.shfiShr sc d a c) s) ∧
    putAll (fun k => (A k).sshiftRight c.toNat) (exec (.shfiSar sc d a c) s) ∧
    putAll (fun k => (A k).rotateLeft c.toNat) (exec (.shfiRol sc d a c) s) ∧
    put (fun k => (A k).rotateLeft (n k % 32)) (exec (.rol sc d a b p) s)

/-- Bit fields and bit counts (R72, R73), bit by bit: BFE's bit j is A's bit POS + j below the effective width and the
extension above it; BFI's bit j is A's bit j - POS in the field and D's bit j outside it. -/
def Sys2Proof.Claims.BitFieldsAndCounts : Prop :=
  ∀ (s : State) (i : Issue) (sc : Scope) (d a b : BitVec 7) (p : BitVec 3), Setting s i → allowed sc d → plain a → plain b →
    let A := fun k => s.reg k a.toNat
    let B := fun k => s.reg k b.toNat
    let D := fun k => s.reg k d.toNat
    let pos := fun k => (B k).toNat % 32
    let width := fun k => min ((B k).toNat / 256 % 64) (32 - pos k)
    let put := WritesReg s i sc p.toNat d.toNat
    (∃ val, put val (exec (.bfe sc d a b p) s) ∧ ∀ k j, j < 32 → (val k).getLsbD j =
      if j < width k then (A k).getLsbD (pos k + j)
      else (B k).getLsbD 16 && decide (width k ≠ 0) && (A k).getLsbD (pos k + width k - 1)) ∧
    (∃ val, put val (exec (.bfi sc d a b p) s) ∧ ∀ k j, j < 32 → (val k).getLsbD j =
      if pos k ≤ j ∧ j < pos k + width k then (A k).getLsbD (j - pos k) else (D k).getLsbD j) ∧
    (∃ val, put val (exec (.popc sc d a p) s) ∧ ∀ k, (val k).toNat = ((List.range 32).filter (A k).getLsbD).length) ∧
    (∃ val, put val (exec (.clz sc d a p) s) ∧ ∀ k, (val k).toNat ≤ 32 ∧
      (∀ j, 32 - (val k).toNat ≤ j → (A k).getLsbD j = false) ∧
      ((val k).toNat < 32 → (A k).getLsbD (31 - (val k).toNat) = true)) ∧
    (∃ val, put val (exec (.brev sc d a p) s) ∧ ∀ k j, j < 32 → (val k).getLsbD j = (A k).getLsbD (31 - j))

/-- Comparisons and predicate logic (R74-R76): integers are compared signed, or unsigned where UNS is 1, and ISETPI's
immediate is extended alike; FSETP compares F32 values under the block's modes; PLOP combines two predicates, each
inverted where its NEG bit is 1. -/
def Sys2Proof.Claims.ComparisonsAndPredicateLogic : Prop :=
  ∀ (s : State) (i : Issue) (sc : Scope) (c pd p pa pb : BitVec 3) (u na nb : BitVec 1) (a b imm : BitVec 7),
    Setting s i → plain a → plain b →
    let A := fun k => s.reg k a.toNat
    let B := fun k => s.reg k b.toNat
    let put := WritesPred s i sc p.toNat pd.toNat
    let rel : Int → Int → Bool := fun x y =>
      if c = 0 then x = y else if c = 1 then x ≠ y else if c = 2 then x < y else if c = 3 then x ≤ y
      else if c = 4 then x > y else x ≥ y
    put (fun k => if u = 1 then rel (A k).toNat (B k).toNat else rel (A k).toInt (B k).toInt)
      (exec (.isetp sc c u pd a b p) s) ∧
    put (fun k => if u = 1 then rel (A k).toNat imm.toNat else rel (A k).toInt imm.toInt)
      (exec (.isetpi sc c u pd a imm p) s) ∧
    put (fun k => fcmp (s.modes k) c.toNat (A k) (B k)) (exec (.fsetp sc c pd a b p) s) ∧
    put (fun k =>
        let x := s.pred k pa.toNat != (na == 1)
        let y := s.pred k pb.toNat != (nb == 1)
        if c = 0 then x && y else if c = 1 then x || y else x != y)
      (exec (.plop sc c pd na pa nb pb p) s)

/-- Predicate moves (R77): PMOV.GET reads p7 to p1 into bits [7:1] with bit 0 set; PMOV.PUT sets p7 to p1 from bits
[7:1] of A in every thread that the word reaches. -/
def Sys2Proof.Claims.PredicateMoves : Prop :=
  ∀ (s : State) (i : Issue) (sc : Scope) (d a : BitVec 7) (p : BitVec 3), Setting s i → plain a →
    (allowed sc d → WritesReg s i sc p.toNat d.toNat (fun k =>
      BitVec.ofNat 32 ((List.range 8).foldl (fun n j => n + if s.pred k j then 2 ^ j else 0) 0))
      (exec (.pmovGet sc d p) s)) ∧
    (∃ t, exec (.pmovPut sc a p) s = .next t ∧ t = { s with threads := t.threads } ∧ ∀ k,
      match decider s i sc p.toNat k with
      | some r => { t.thr k with p := 0 } = { s.thr k with p := 0 } ∧
          ∀ n, n < 8 → t.pred k n = (n = 0 || (s.reg r a.toNat).getLsbD n)
      | none => t.thr k = s.thr k)

/-- Floating-point words (R78, R79): each word completes with the model's value function of its sources under the
block's modes, and changes nothing else; FABS and FNEG act on bit 31 alone. -/
def Sys2Proof.Claims.FloatWords : Prop :=
  ∀ (s : State) (i : Issue) (sc : Scope) (d a b : BitVec 7) (p : BitVec 3), Setting s i → allowed sc d → plain a → plain b →
    let A := fun k => s.reg k a.toNat
    let B := fun k => s.reg k b.toNat
    let D := fun k => s.reg k d.toNat
    let M := fun k => s.modes k
    let put := WritesReg s i sc p.toNat d.toNat
    put (fun k => fadd (M k) (A k) (B k)) (exec (.fadd sc d a b p) s) ∧
    put (fun k => fsub (M k) (A k) (B k)) (exec (.fsub sc d a b p) s) ∧
    put (fun k => fmul (M k) (A k) (B k)) (exec (.fmul sc d a b p) s) ∧
    put (fun k => ffma (M k) (A k) (B k) (D k)) (exec (.ffma sc d a b p) s) ∧
    put (fun k => fminmax (M k) false (A k) (B k)) (exec (.fmin sc d a b p) s) ∧
    put (fun k => fminmax (M k) true (A k) (B k)) (exec (.fmax sc d a b p) s) ∧
    put (fun k => A k &&& 0x7FFFFFFF) (exec (.fabs sc d a p) s) ∧
    put (fun k => A k ^^^ 0x80000000) (exec (.fneg sc d a p) s) ∧
    put (fun k => transc (M k) .rcp (A k)) (exec (.frcp sc d a p) s) ∧
    put (fun k => transc (M k) .rsq (A k)) (exec (.frsq sc d a p) s) ∧
    put (fun k => transc (M k) .sqrt (A k)) (exec (.fsqrt sc d a p) s) ∧
    put (fun k => transc (M k) .ex2 (A k)) (exec (.fex2 sc d a p) s) ∧
    put (fun k => transc (M k) .lg2 (A k)) (exec (.flg2 sc d a p) s) ∧
    put (fun k => transc (M k) .sin (A k)) (exec (.fsin sc d a p) s) ∧
    put (fun k => transc (M k) .cos (A k)) (exec (.fcos sc d a p) s) ∧
    put (fun k => fintegral (M k) 0 (A k)) (exec (.ffloor sc d a p) s) ∧
    put (fun k => fintegral (M k) 1 (A k)) (exec (.fceil sc d a p) s) ∧
    put (fun k => fintegral (M k) 2 (A k)) (exec (.ftrunc sc d a p) s) ∧
    put (fun k => fintegral (M k) 3 (A k)) (exec (.frint sc d a p) s) ∧
    put (fun k => ffract (M k) (A k)) (exec (.ffract sc d a p) s)

/-- Packed words (R80): each completes with the model's packed sum, product or fused product of its sources and D, the
two halves apart, under the block's modes, and changes nothing else. -/
def Sys2Proof.Claims.PackedAndConversions : Prop :=
  ∀ (s : State) (i : Issue) (sc : Scope) (d a b : BitVec 7) (p : BitVec 3), Setting s i → allowed sc d → plain a → plain b →
    let A := fun k => s.reg k a.toNat
    let B := fun k => s.reg k b.toNat
    let D := fun k => s.reg k d.toNat
    let put := WritesReg s i sc p.toNat d.toNat
    put (fun k => padd fmtF16 (A k) (B k) (D k)) (exec (.hadd2 sc d a b p) s) ∧
    put (fun k => pmul fmtF16 (A k) (B k) (D k)) (exec (.hmul2 sc d a b p) s) ∧
    put (fun k => pfma fmtF16 (A k) (B k) (D k)) (exec (.hfma2 sc d a b p) s) ∧
    put (fun k => padd fmtBF16 (A k) (B k) (D k)) (exec (.badd2 sc d a b p) s) ∧
    put (fun k => pmul fmtBF16 (A k) (B k) (D k)) (exec (.bmul2 sc d a b p) s) ∧
    put (fun k => pfma fmtBF16 (A k) (B k) (D k)) (exec (.bfma2 sc d a b p) s)

/-- CVT (R81, R60): with both type codes below 7 each acting thread's D takes the converted value, rounded toward zero
where RZ is 1; with a type code of 7 the guarded threads take ILLEGAL_OP at the word and write nothing. -/
def Sys2Proof.Claims.Conversions : Prop :=
  ∀ (s : State) (i : Issue) (sc : Scope) (d a b : BitVec 7) (p : BitVec 3), Setting s i → allowed sc d → plain a →
    (b.toNat / 16 ≠ 7 → b.toNat / 2 % 8 ≠ 7 →
      WritesReg s i sc p.toNat d.toNat
        (fun k => cvtValue (s.modes k) (b.toNat / 16) (b.toNat / 2 % 8) (b.getLsbD 0) (s.reg k a.toNat))
        (exec (.cvt sc d a b p) s)) ∧
    (∀ k, (b.toNat / 16 = 7 ∨ b.toNat / 2 % 8 = 7) → s.actors i sc p.toNat = [k] →
      exec (.cvt sc d a b p) s =
        .next (s.raise (if sc = .lane then [k] else i.group) i.faultAt (plainFault clsIllegalOp) (some (i.here 0))))

/-! ## The values of F32 words -/

/-- An F32 encoding that is neither an infinity nor a NaN (R49). -/
def Sys2Proof.Claims.f32Finite (w : Word) : Prop := w.toNat / 2 ^ 23 % 2 ^ 8 ≠ 255

/-- The number that a finite F32 encoding stands for (R49). -/
def Sys2Proof.Claims.f32Value (w : Word) : ℚ :=
  let e : ℕ := w.toNat / 2 ^ 23 % 2 ^ 8
  let f : ℕ := w.toNat % 2 ^ 23
  (if w.getLsbD 31 then -1 else 1) * (if e = 0 then (f : ℚ) / 2 ^ 149 else (2 ^ 23 + (f : ℚ)) * 2 ^ e / 2 ^ 150)

/-- `r` is the number `x`, not 0, rounded once: toward zero the finite number of greatest size not beyond `x`; to nearest
the nearest finite number, of two the one with an even fraction, or an infinity from half a step past the greatest. -/
def Sys2Proof.Claims.f32Rounded (rz : Bool) (x : ℚ) (r : Word) : Prop :=
  r.getLsbD 31 = decide (x < 0) ∧
  (rz = true → f32Finite r ∧ |f32Value r| ≤ |x| ∧
    ∀ w, f32Finite w → |f32Value w| ≤ |x| → |f32Value w| ≤ |f32Value r|) ∧
  (rz = false → 2 ^ 128 - 2 ^ 103 ≤ |x| → r.toNat % 2 ^ 31 = 0x7F800000) ∧
  (rz = false → |x| < 2 ^ 128 - 2 ^ 103 → f32Finite r ∧ ∀ w, f32Finite w →
    |f32Value r - x| ≤ |f32Value w - x| ∧
    (|f32Value r - x| = |f32Value w - x| → f32Value w = f32Value r ∨ r.getLsbD 0 = false))

/-- F32 arithmetic (R52, R53, R55): FADD, FSUB, FMUL and FFMA round the exact result once in the block's mode; a zero sum of
opposite signs is +0 and of one sign keeps it; a NaN, the difference of infinities and zero times infinity give the
canonical NaN. With DENORM 1 the sources and the result are flushed. FMIN and FMAX put -0 below +0 and pass over one NaN;
FSETP takes the zeros as equal and tells NaNs. -/
def Obligations.F32Arithmetic : Prop :=
  ∀ (m : Modes) (a b c : Word),
    let nan := fun (w : Word) => 0x7F800000 < w.toNat % 2 ^ 31
    let inf := fun (w : Word) => w.toNat % 2 ^ 31 = 0x7F800000
    let zero := fun (neg : Bool) => if neg then (0x80000000 : Word) else 0
    let sgn := fun (w : Word) => w.getLsbD 31
    let flush := fun (w : Word) => if w.toNat / 2 ^ 23 % 2 ^ 8 = 0 then w &&& 0x80000000 else w
    let num := fun (w : Word) => if sgn w then -((w.toNat % 2 ^ 31 : Nat) : Int) else ((w.toNat % 2 ^ 31 : Nat) : Int)
    let canon : Word := 0x7FC00000
    let off := { m with daz := false }
    (m.daz = true → fadd m a b = flush (fadd off (flush a) (flush b)) ∧ fsub m a b = flush (fsub off (flush a) (flush b)) ∧
      fmul m a b = flush (fmul off (flush a) (flush b)) ∧
      ffma m a b c = flush (ffma off (flush a) (flush b) (flush c)) ∧
      (∀ mx, fminmax m mx a b = fminmax off mx (flush a) (flush b)) ∧
      (∀ k, fcmp m k a b = fcmp off k (flush a) (flush b))) ∧
    (m.daz = false →
      ((nan a ∨ nan b ∨ (inf a ∧ inf b ∧ sgn a ≠ sgn b)) → fadd m a b = canon) ∧
      (inf a → ¬ nan b → (inf b → sgn a = sgn b) → fadd m a b = a ∧ fadd m b a = a) ∧
      (∀ mm, fsub mm a b = if nan b then canon else fadd mm a (b ^^^ 0x80000000)) ∧
      ((nan a ∨ nan b ∨ (inf a ∧ b.toNat % 2 ^ 31 = 0) ∨ (a.toNat % 2 ^ 31 = 0 ∧ inf b)) → fmul m a b = canon) ∧
      (inf a → ¬ nan b → b.toNat % 2 ^ 31 ≠ 0 → fmul m a b = zero (sgn a != sgn b) + 0x7F800000 ∧
        fmul m b a = zero (sgn a != sgn b) + 0x7F800000) ∧
      (f32Finite a → f32Finite b →
        (f32Value a + f32Value b = 0 → fadd m a b = zero (sgn a && sgn b)) ∧
        (f32Value a + f32Value b ≠ 0 → f32Rounded m.rz (f32Value a + f32Value b) (fadd m a b)) ∧
        (f32Value a * f32Value b = 0 → fmul m a b = zero (sgn a != sgn b)) ∧
        (f32Value a * f32Value b ≠ 0 → f32Rounded m.rz (f32Value a * f32Value b) (fmul m a b))) ∧
      (f32Finite a → f32Finite b → f32Finite c →
        (f32Value a * f32Value b + f32Value c = 0 → ffma m a b c = zero ((sgn a != sgn b) && sgn c)) ∧
        (f32Value a * f32Value b + f32Value c ≠ 0 →
          f32Rounded m.rz (f32Value a * f32Value b + f32Value c) (ffma m a b c))) ∧
      ((nan a ∨ nan b ∨ nan c ∨ (inf a ∧ b.toNat % 2 ^ 31 = 0) ∨ (a.toNat % 2 ^ 31 = 0 ∧ inf b) ∨
        ((inf a ∨ inf b) ∧ inf c ∧ (sgn a != sgn b) ≠ sgn c)) → ffma m a b c = canon) ∧
      (inf a → ¬ nan b → b.toNat % 2 ^ 31 ≠ 0 → ¬ nan c → (inf c → (sgn a != sgn b) = sgn c) →
        ffma m a b c = zero (sgn a != sgn b) + 0x7F800000 ∧ ffma m b a c = zero (sgn a != sgn b) + 0x7F800000) ∧
      (f32Finite a → f32Finite b → inf c → ffma m a b c = c) ∧
      (nan a → nan b → ∀ mx, fminmax m mx a b = canon) ∧
      (nan a → ¬ nan b → ∀ mx, fminmax m mx a b = b ∧ fminmax m mx b a = b) ∧
      (¬ nan a → ¬ nan b →
        fminmax m false a b = (if num a < num b ∨ (num a = num b ∧ sgn a = true) then a else b) ∧
        fminmax m true a b = (if num b < num a ∨ (num a = num b ∧ sgn b = true) then a else b) ∧
        fcmp m 0 a b = decide (num a = num b) ∧ fcmp m 1 a b = decide (num a ≠ num b) ∧
        fcmp m 2 a b = decide (num a < num b) ∧ fcmp m 3 a b = decide (num a ≤ num b) ∧
        fcmp m 4 a b = decide (num b < num a) ∧ fcmp m 5 a b = decide (num b ≤ num a) ∧
        fcmp m 6 a b = true ∧ fcmp m 7 a b = false) ∧
      ((nan a ∨ nan b) →
        fcmp m 0 a b = false ∧ fcmp m 1 a b = true ∧ fcmp m 2 a b = false ∧ fcmp m 3 a b = false ∧
        fcmp m 4 a b = false ∧ fcmp m 5 a b = false ∧ fcmp m 6 a b = false ∧ fcmp m 7 a b = true))

/-! ## The values of the other floating words -/

/-- An encoding, of `e` exponent and `m` fraction bits, that is neither an infinity nor a NaN (R49). -/
def Sys2Proof.Claims.fltFinite (e m w : ℕ) : Prop := w / 2 ^ m % 2 ^ e ≠ 2 ^ e - 1

/-- An encoding of an infinity (R49). -/
def Sys2Proof.Claims.fltInf (e m w : ℕ) : Prop := w / 2 ^ m % 2 ^ e = 2 ^ e - 1 ∧ w % 2 ^ m = 0

/-- An encoding of a NaN (R49). -/
def Sys2Proof.Claims.fltNan (e m w : ℕ) : Prop := w / 2 ^ m % 2 ^ e = 2 ^ e - 1 ∧ w % 2 ^ m ≠ 0

/-- The sign of an encoding (R49). -/
def Sys2Proof.Claims.fltNeg (e m w : ℕ) : Bool := w / 2 ^ (e + m) % 2 = 1

/-- The number that a finite encoding stands for (R49). -/
def Sys2Proof.Claims.fltValue (e m w : ℕ) : ℚ :=
  let x : ℕ := w / 2 ^ m % 2 ^ e
  let f : ℕ := w % 2 ^ m
  let bias : ℕ := 2 ^ (e - 1) - 1
  (if fltNeg e m w then -1 else 1)
    * (if x = 0 then (f : ℚ) / 2 ^ (bias - 1 + m) else (2 ^ m + (f : ℚ)) * 2 ^ x / 2 ^ (bias + m))

/-- A magnitude with a sign. -/
def Sys2Proof.Claims.fltSigned (e m : ℕ) (neg : Bool) (mag : ℕ) : ℕ := (if neg then 2 ^ (e + m) else 0) + mag

/-- The encodings of +infinity and of the canonical NaN (R49, R51). -/
def Sys2Proof.Claims.fltTop (e m : ℕ) : ℕ := (2 ^ e - 1) * 2 ^ m
def Sys2Proof.Claims.fltCanon (e m : ℕ) : ℕ := fltTop e m + 2 ^ (m - 1)

/-- `r` encodes the number `x`, not 0, rounded once (R52): toward zero the finite number of greatest size not beyond `x`; to
nearest the nearest finite number, of two the one with an even fraction, or an infinity from half a step past the
greatest. -/
def Sys2Proof.Claims.fltRounded (e m : ℕ) (rz : Bool) (x : ℚ) (r : ℕ) : Prop :=
  let top : ℚ := 2 ^ (2 ^ (e - 1)) - 2 ^ (2 ^ (e - 1) - 1) / 2 ^ (m + 1)
  fltNeg e m r = decide (x < 0) ∧ r < 2 ^ (1 + e + m) ∧
  (rz = true → fltFinite e m r ∧ |fltValue e m r| ≤ |x| ∧
    ∀ w, fltFinite e m w → |fltValue e m w| ≤ |x| → |fltValue e m w| ≤ |fltValue e m r|) ∧
  (rz = false → top ≤ |x| → fltInf e m r) ∧
  (rz = false → |x| < top → fltFinite e m r ∧ ∀ w, fltFinite e m w →
    |fltValue e m r - x| ≤ |fltValue e m w - x| ∧
    (|fltValue e m r - x| = |fltValue e m w - x| → fltValue e m w = fltValue e m r ∨ r % 2 = 0))

/-- `r` encodes the number `x` rounded once, a zero with the sign given. -/
def Sys2Proof.Claims.fltIs (e m : ℕ) (rz : Bool) (x : ℚ) (neg : Bool) (r : ℕ) : Prop :=
  (x = 0 → r = fltSigned e m neg 0) ∧ (x ≠ 0 → fltRounded e m rz x r)

/-- `r` is x × y + z rounded once to nearest (R52, R54), the product alone where `z` is none. -/
def Sys2Proof.Claims.fltFused (e m x y : ℕ) (z : Option ℕ) (r : ℕ) : Prop :=
  let nan := fltNan e m
  let inf := fltInf e m
  let zero := fun (w : ℕ) => w % 2 ^ (e + m) = 0
  let neg := fltNeg e m x != fltNeg e m y
  let big := inf x ∨ inf y
  let bad := nan x ∨ nan y ∨ (inf x ∧ zero y) ∨ (zero x ∧ inf y)
  match z with
  | none => (bad → r = fltCanon e m) ∧ (¬ bad → big → r = fltSigned e m neg (fltTop e m)) ∧
      (fltFinite e m x → fltFinite e m y → fltIs e m false (fltValue e m x * fltValue e m y) neg r)
  | some z => ((bad ∨ nan z ∨ (big ∧ inf z ∧ neg ≠ fltNeg e m z)) → r = fltCanon e m) ∧
      (¬ bad → big → ¬ nan z → (inf z → neg = fltNeg e m z) → r = fltSigned e m neg (fltTop e m)) ∧
      (fltFinite e m x → fltFinite e m y → inf z → r = z) ∧
      (fltFinite e m x → fltFinite e m y → fltFinite e m z →
        fltIs e m false (fltValue e m x * fltValue e m y + fltValue e m z) (neg && fltNeg e m z) r)

/-- Packed halves (R54): each half of a packed sum, product or fused product is the exact one of the source halves rounded
once to nearest in its own format, whatever the modes; infinities, NaNs and zeros as for F32. -/
def Sys2Proof.Claims.PackedHalves : Prop :=
  ∀ (a b d : Word) (k : ℕ), k < 2 →
    let half := fun (w : Word) => w.toNat / 2 ^ (16 * k) % 2 ^ 16
    let each := fun (e m : ℕ) (f : Fmt) =>
      let x := half a
      let y := half b
      let one := (2 ^ (e - 1) - 1) * 2 ^ m
      fltFused e m x one (some y) (half (padd f a b d)) ∧ fltFused e m x y none (half (pmul f a b d)) ∧
      fltFused e m x y (some (half d)) (half (pfma f a b d))
    each 5 10 fmtF16 ∧ each 8 7 fmtBF16

/-- Rounding to integral values (R56): FFLOOR, FCEIL, FTRUNC and FRINT give the integral number on their side, a zero with
the sign of the source; an infinity comes back and a NaN is canonical. FFRACT gives x - floor x rounded to nearest, at
most 0x3F7FFFFF. Under DENORM 1 the source is flushed first. -/
def Sys2Proof.Claims.IntegralValues : Prop :=
  ∀ (md : Modes) (a : Word),
    let x := if md.daz = true ∧ a.toNat / 2 ^ 23 % 2 ^ 8 = 0 then a &&& 0x80000000 else a
    let v := f32Value x
    let nan := 0x7F800000 < x.toNat % 2 ^ 31
    let inf := x.toNat % 2 ^ 31 = 0x7F800000
    let whole := fun (mode : ℕ) (p : ℤ → Prop) =>
      let r := fintegral md mode a
      (nan → r = 0x7FC00000) ∧ (inf → r = x) ∧
      (f32Finite x → f32Finite r ∧ (∃ n : ℤ, f32Value r = n ∧ p n) ∧ (f32Value r = 0 → r.getLsbD 31 = x.getLsbD 31))
    whole 0 (fun n => n = ⌊v⌋) ∧ whole 1 (fun n => n = ⌈v⌉) ∧
    whole 2 (fun n => n = if 0 ≤ v then ⌊v⌋ else ⌈v⌉) ∧
    whole 3 (fun n => |(n : ℚ) - v| ≤ 1 / 2 ∧ (|(n : ℚ) - v| = 1 / 2 → n % 2 = 0)) ∧
    ((nan ∨ inf) → ffract md a = 0x7FC00000) ∧
    (f32Finite x → (v = ⌊v⌋ → ffract md a = 0) ∧ (v ≠ ⌊v⌋ → ∃ q, f32Rounded false (v - ⌊v⌋) q ∧
      ffract md a = if 0x3F7FFFFF < q.toNat then 0x3F7FFFFF else q))

/-- The seven functions of opcode 41 (R57-R59). In every generation the special sources give the table's results; a
denormal source counts as the zero of its sign under DENORM 1 and, before the table, in a legacy generation (the model's
choice, log 128). In the current generation FRCP is 1/x, FSQRT √x and FRSQ 1/√x rounded to nearest; FEX2 of an integer and
FLG2 of a power of two are exact. In a legacy generation FRCP and FSQRT are cut toward zero to K fraction bits. -/
def Sys2Proof.Claims.TranscendentalValues : Prop :=
  ∀ (md : Modes) (a : Word),
    let x := if (md.daz = true ∨ md.trans ≠ 0) ∧ a.toNat / 2 ^ 23 % 2 ^ 8 = 0 then a &&& 0x80000000 else a
    let v := f32Value x
    let f := fun (f : TFun) => transc md f a
    let canon : Word := 0x7FC00000
    let one : Word := 0x3F800000
    let top : Word := 0x7F800000
    let sign := x &&& 0x80000000
    (0x7F800000 < x.toNat % 2 ^ 31 → ∀ g, f g = canon) ∧
    (x.toNat % 2 ^ 31 = 0 → f .rcp = (sign ||| top) ∧ f .rsq = (sign ||| top) ∧ f .sqrt = x ∧ f .ex2 = one ∧
      f .lg2 = 0xFF800000 ∧ f .sin = x ∧ f .cos = one) ∧
    (x = top → f .rcp = 0 ∧ f .rsq = 0 ∧ f .sqrt = top ∧ f .ex2 = top ∧ f .lg2 = top ∧ f .sin = canon ∧ f .cos = canon) ∧
    (x = 0xFF800000 → f .rcp = 0x80000000 ∧ f .rsq = canon ∧ f .sqrt = canon ∧ f .ex2 = 0 ∧ f .lg2 = canon ∧
      f .sin = canon ∧ f .cos = canon) ∧
    (f32Finite x → v < 0 → f .rsq = canon ∧ f .sqrt = canon ∧ f .lg2 = canon) ∧
    (f32Finite x → 128 ≤ v → f .ex2 = top) ∧ (x = one → f .lg2 = 0) ∧
    (f32Finite x → ∀ n : ℤ, (v = n → -126 ≤ n → n ≤ 127 → f32Finite (f .ex2) ∧ f32Value (f .ex2) = (2 : ℚ) ^ n) ∧
      (v = (2 : ℚ) ^ n → f32Finite (f .lg2) ∧ f32Value (f .lg2) = n) ∧
      (md.trans = 0 → md.daz = false → v = n → -149 ≤ n → n ≤ 127 → f32Value (f .ex2) = (2 : ℚ) ^ n) ∧
      (v = n → n ≤ -150 → f .ex2 = 0)) ∧
    (md.trans = 0 → md.daz = false → f32Finite x → v ≠ 0 →
      f32Rounded false (1 / v) (f .rcp) ∧
      (0 < v → (let r := f32Value (f .sqrt)
        f32Finite (f .sqrt) ∧ 0 < r ∧ ∀ w, f32Finite w → 0 ≤ f32Value w →
          (r < f32Value w → v ≤ ((r + f32Value w) / 2) ^ 2) ∧ (f32Value w < r → ((r + f32Value w) / 2) ^ 2 ≤ v)) ∧
       (let r := f32Value (f .rsq)
        f32Finite (f .rsq) ∧ 0 < r ∧ ∀ w, f32Finite w → 0 ≤ f32Value w →
          (r < f32Value w → 1 ≤ v * ((r + f32Value w) / 2) ^ 2) ∧
          (f32Value w < r → v * ((r + f32Value w) / 2) ^ 2 ≤ 1)))) ∧
    (md.trans = 0 → md.daz = true → ∀ g,
      let y := transc { md with daz := false } g x
      f g = if y.toNat / 2 ^ 23 % 2 ^ 8 = 0 then y &&& 0x80000000 else y) ∧
    (md.trans ∈ [1, 2, 3] → f32Finite x → v ≠ 0 →
      let k := fun (l : List ℕ) => l.getD (md.trans - 1) 0
      (|v| ≤ 2 ^ 126 → let r := f32Value (f .rcp)
        0 < r * v ∧ r * v ≤ 1 ∧ 1 - r * v < 1 / 2 ^ k [16, 20, 22] ∧ (f .rcp).toNat % 2 ^ (23 - k [16, 20, 22]) = 0) ∧
      (0 < v → let r := f32Value (f .sqrt)
        0 < r ∧ r ^ 2 ≤ v ∧ v * (1 - 1 / 2 ^ k [16, 21, 23]) ^ 2 < r ^ 2 ∧
        (f .sqrt).toNat % 2 ^ (23 - k [16, 21, 23]) = 0))

/-- Conversions (R60, R61): an integer saturates to an integer range and is rounded once into a float; a float is rounded
once into a float, and into an integer by RZ and then saturated; a NaN is canonical or 0, an infinity stays or gives the
range's limit. An F32 source and result are flushed under DENORM 1; the bits above the source's type are ignored. -/
def Sys2Proof.Claims.ConversionValues : Prop :=
  ∀ (md : Modes) (dt st : ℕ) (rz : Bool) (a : Word), dt < 7 → st < 7 →
    let flush := fun (w : ℕ) => if md.daz = true ∧ w / 2 ^ 23 % 2 ^ 8 = 0 then w / 2 ^ 31 * 2 ^ 31 else w
    let e := fun (t : ℕ) => if t = 3 then 5 else 8
    let m := fun (t : ℕ) => if t = 2 then 23 else if t = 3 then 10 else 7
    let int := fun (t : ℕ) => t = 0 ∨ t = 1 ∨ t = 5 ∨ t = 6
    let lo : ℤ := if dt = 0 then -2 ^ 31 else if dt = 5 then -128 else 0
    let hi : ℤ := if dt = 0 then 2 ^ 31 - 1 else if dt = 1 then 2 ^ 32 - 1 else if dt = 5 then 127 else 255
    let sat := fun (n : ℤ) => BitVec.ofInt 32 (max lo (min hi n))
    let n : ℤ := if st = 0 then a.toInt else if st = 1 then a.toNat
      else if st = 5 then (BitVec.ofNat 8 a.toNat).toInt else ((a.toNat % 256 : ℕ) : ℤ)
    let w := if st = 2 then flush a.toNat else a.toNat % 2 ^ 16
    let v := fltValue (e st) (m st) w
    let neg := fltNeg (e st) (m st) w
    let r := cvtValue md dt st rz a
    (int st → int dt → r = sat n) ∧
    (int st → ¬ int dt → fltIs (e dt) (m dt) rz n false r.toNat) ∧
    (¬ int st → int dt →
      (fltNan (e st) (m st) w → r = 0) ∧ (fltInf (e st) (m st) w → r = BitVec.ofInt 32 (if neg then lo else hi)) ∧
      (fltFinite (e st) (m st) w → ∃ k : ℤ, r = sat k ∧
        (rz = true → |(k : ℚ)| ≤ |v| ∧ |v| - |(k : ℚ)| < 1 ∧ 0 ≤ (k : ℚ) * v) ∧
        (rz = false → |(k : ℚ) - v| ≤ 1 / 2 ∧ (|(k : ℚ) - v| = 1 / 2 → k % 2 = 0)))) ∧
    (¬ int st → ¬ int dt →
      (fltNan (e st) (m st) w → r.toNat = fltCanon (e dt) (m dt)) ∧
      (fltInf (e st) (m st) w → r.toNat = fltSigned (e dt) (m dt) neg (fltTop (e dt) (m dt))) ∧
      (fltFinite (e st) (m st) w → ∃ q, fltIs (e dt) (m dt) rz v neg q ∧ r.toNat = if dt = 2 then flush q else q))

/-! ## The MEM class -/

/-- Global loads (R82, R14): at an aligned, canonical address that translates, the load goes in flight with its
address, size and extension as the operands stood at issue, its flag is set in the threads tied to it, and no
register and no byte of memory changes before it completes. A load of the I/O range goes in flight as well, and so does
one of a window on another module. In these statements no request of the page to an old target is outstanding (R419). -/
def Sys2Proof.Claims.GlobalLoadsGoInFlight : Prop :=
  ∀ (s : State) (i : Issue) (sc : Scope) (d a off : BitVec 7) (p : BitVec 3) (t : Nat), OneActor s i sc p.toNat t →
    let load := fun (size : Nat) (sgn : Bool) (o : Out) =>
      let ea : Dword := s.pairReg t a.toNat + BitVec.ofInt 64 (off.toInt * size)
      let acc := access s i sc t true (.load ea size sgn d.toNat)
      ∀ pa mt s', ea.toNat % size = 0 → ea.toNat < 2 ^ 48 →
        placed s acc t ea size .read (size = 16) = (.ok (pa, mt), s') →
        s.windowOps t (ea.toNat / 4096) = [] →
        ∃ r, o = .next r ∧ SameBytes s r ∧ SameRegs s r ∧
          (targetOf pa ≠ .io → InFlight s r acc t pa mt none ∧ r = { s' with ops := r.ops, nextOp := r.nextOp }) ∧
          (targetOf pa = .io → (newOp s r).map (fun o => (o.thr, o.acc, o.pa, o.mt)) = some (t, acc, pa, mt))
    load 1 false (exec (.ldUi8 sc d a off p) s) ∧ load 1 true (exec (.ldI8 sc d a off p) s) ∧
    load 2 false (exec (.ldUi16 sc d a off p) s) ∧ load 2 true (exec (.ldI16 sc d a off p) s) ∧
    load 4 false (exec (.ld32 sc d a off p) s) ∧ load 8 false (exec (.ld64 sc d a off p) s) ∧
    load 16 false (exec (.ld128 sc d a off p) s)

/-- Global stores to stack or CXL memory (R82, R83, R199): the low bytes of D and the registers after it stand at the
translated address, little-endian, as the newest write of the coherence order; every other byte and every register is
unchanged. -/
def Sys2Proof.Claims.GlobalStoresWriteTheirBytes : Prop :=
  ∀ (s : State) (i : Issue) (sc : Scope) (d a off : BitVec 7) (p : BitVec 3) (t : Nat), OneActor s i sc p.toNat t →
    s.mem.wf = true →
    let store := fun (size : Nat) (o : Out) =>
      let ea : Dword := s.pairReg t a.toNat + BitVec.ofInt 64 (off.toInt * size)
      let bs := ((s.regRun t d.toNat ((size + 3) / 4)).flatMap bytesOfWord).take size
      ∀ pa mt s', ea.toNat % size = 0 → ea.toNat < 2 ^ 48 →
        placed s (access s i sc t false (.store ea bs)) t ea size .write (size = 16) = (.ok (pa, mt), s') →
        (targetOf pa = .stack ∨ targetOf pa = .cxl) → s.windowOps t (ea.toNat / 4096) = [] →
        ∃ r, o = .next r ∧ bs.length = size ∧ Stored s r pa bs ∧ SameRegs s r ∧
          r = { s' with mem := r.mem, wlog := r.wlog, serial := s.serial + 1 } ∧
          (r.wlog.head?.map fun e => (e.serial, e.addr, e.new, e.party)) = some (s.serial + 1, pa, bs, t)
    store 1 (exec (.st8 sc d a off p) s) ∧ store 2 (exec (.st16 sc d a off p) s) ∧
    store 4 (exec (.st32 sc d a off p) s) ∧ store 8 (exec (.st64 sc d a off p) s) ∧
    store 16 (exec (.st128 sc d a off p) s)

/-- An address that is not a multiple of the access size (R82, R219, R221): the thread, or at a wider scope the whole
group, takes ALIGN at the word, before any translation; the record carries the address. -/
def Sys2Proof.Claims.MisalignedAccessesTakeAlign : Prop :=
  ∀ (s : State) (i : Issue) (sc : Scope) (d a b off : BitVec 7) (p : BitVec 3) (t : Nat), Setting s i →
    s.actors i sc p.toNat = [t] → plain b →
    let traps := fun (size : Nat) (ea : Dword) (o : Out) => ea.toNat % size ≠ 0 →
      o = .next (s.raise (if sc = .lane then [t] else i.group) i.faultAt { plainFault clsAlign with va := ea }
        (some (i.here 0)))
    let at_ := fun (size : Nat) => s.pairReg t a.toNat + BitVec.ofInt 64 (off.toInt * size)
    traps 2 (at_ 2) (exec (.ldUi16 sc d a off p) s) ∧ traps 2 (at_ 2) (exec (.ldI16 sc d a off p) s) ∧
    traps 4 (at_ 4) (exec (.ld32 sc d a off p) s) ∧ traps 8 (at_ 8) (exec (.ld64 sc d a off p) s) ∧
    traps 16 (at_ 16) (exec (.ld128 sc d a off p) s) ∧ traps 2 (at_ 2) (exec (.st16 sc d a off p) s) ∧
    traps 4 (at_ 4) (exec (.st32 sc d a off p) s) ∧ traps 8 (at_ 8) (exec (.st64 sc d a off p) s) ∧
    traps 16 (at_ 16) (exec (.st128 sc d a off p) s) ∧
    traps 4 (s.pairReg t a.toNat) (exec (.atomAdd sc d a b p) s) ∧
    traps 4 (s.pairReg t a.toNat) (exec (.atomCas sc d a b p) s) ∧
    traps 4 (s.pairReg t a.toNat) (exec (.redAdd sc a b p) s)

/-- Atomics on stack or CXL memory (R220-R222): the word takes its new value at once as the newest write, the old value
stands in an operation in flight for D, and every other byte and every register is unchanged; a compare-and-swap whose
comparison fails writes nothing. -/
def Sys2Proof.Claims.AtomicsUpdateTheirWord : Prop :=
  ∀ (s : State) (i : Issue) (sc : Scope) (d a b : BitVec 7) (p : BitVec 3) (t : Nat), OneActor s i sc p.toNat t →
    s.mem.wf = true →
    let ea := s.pairReg t a.toNat
    let x := s.reg t b.toNat
    let atom := fun (f : AtomOp) (y z : Word) (new : Word → Word) (o : Out) =>
      let acc := access s i sc t true (.atom ea f y z d.toNat)
      ∀ pa mt s', ea.toNat % 4 = 0 → ea.toNat < 2 ^ 48 →
        placed s acc t ea 4 .rw true = (.ok (pa, mt), s') → (targetOf pa = .stack ∨ targetOf pa = .cxl) →
        s.windowOps t (ea.toNat / 4096) = [] →
        let old : Word := BitVec.ofNat 32 (natOfBytes (s.bytesAt pa 4))
        ∃ r, o = .next r ∧ SameRegs s r ∧ Stored s r pa (bytesOfWord (new old)) ∧
          (f = .cas → old ≠ y → r.serial = s.serial) ∧
          (newOp s r).map (fun o => (o.thr, o.acc, o.pa, o.result)) = some (t, acc, pa, some [old])
    (plain b →
      atom .add x 0 (fun o => o + x) (exec (.atomAdd sc d a b p) s) ∧
      atom .min x 0 (fun o => if o.toInt ≤ x.toInt then o else x) (exec (.atomMin sc d a b p) s) ∧
      atom .max x 0 (fun o => if x.toInt ≤ o.toInt then o else x) (exec (.atomMax sc d a b p) s) ∧
      atom .minUi x 0 (fun o => if o.toNat ≤ x.toNat then o else x) (exec (.atomMinUi sc d a b p) s) ∧
      atom .maxUi x 0 (fun o => if x.toNat ≤ o.toNat then o else x) (exec (.atomMaxUi sc d a b p) s) ∧
      atom .and x 0 (fun o => o &&& x) (exec (.atomAnd sc d a b p) s) ∧
      atom .or x 0 (fun o => o ||| x) (exec (.atomOr sc d a b p) s) ∧
      atom .xor x 0 (fun o => o ^^^ x) (exec (.atomXor sc d a b p) s) ∧
      atom .exch x 0 (fun _ => x) (exec (.atomExch sc d a b p) s) ∧
      atom .inc x 0 (fun o => if x.toNat ≤ o.toNat then 0 else o + 1) (exec (.atomInc sc d a b p) s) ∧
      atom .fadd x 0 (fun o => fadd { rz := false, daz := false, trans := 0 } o x) (exec (.atomFadd sc d a b p) s)) ∧
    (let e := loW (s.pairReg t b.toNat)
     let n := hiW (s.pairReg t b.toNat)
     atom .cas e n (fun o => if o = e then n else o) (exec (.atomCas sc d a b p) s))

/-- Reductions on stack or CXL memory (R220, R223): the word takes its new value; no register is written, and the
operation in flight only holds the flag. -/
def Sys2Proof.Claims.ReductionsUpdateTheirWord : Prop :=
  ∀ (s : State) (i : Issue) (sc : Scope) (a b : BitVec 7) (p : BitVec 3) (t : Nat), OneActor s i sc p.toNat t →
    plain b → s.mem.wf = true →
    let ea := s.pairReg t a.toNat
    let x := s.reg t b.toNat
    let red := fun (f : AtomOp) (new : Word → Word) (o : Out) =>
      let acc := access s i sc t true (.red ea f x)
      ∀ pa mt s', ea.toNat % 4 = 0 → ea.toNat < 2 ^ 48 →
        placed s acc t ea 4 .rw true = (.ok (pa, mt), s') → (targetOf pa = .stack ∨ targetOf pa = .cxl) →
        s.windowOps t (ea.toNat / 4096) = [] →
        let old : Word := BitVec.ofNat 32 (natOfBytes (s.bytesAt pa 4))
        ∃ r, o = .next r ∧ SameRegs s r ∧ Stored s r pa (bytesOfWord (new old)) ∧
          (newOp s r).map (fun o => (o.thr, o.acc, o.pa, o.result)) = some (t, acc, pa, some [])
    red .add (fun o => o + x) (exec (.redAdd sc a b p) s) ∧
    red .min (fun o => if o.toInt ≤ x.toInt then o else x) (exec (.redMin sc a b p) s) ∧
    red .max (fun o => if x.toInt ≤ o.toInt then o else x) (exec (.redMax sc a b p) s) ∧
    red .and (fun o => o &&& x) (exec (.redAnd sc a b p) s) ∧
    red .or (fun o => o ||| x) (exec (.redOr sc a b p) s) ∧
    red .xor (fun o => o ^^^ x) (exec (.redXor sc a b p) s) ∧
    (∀ pa mt s', ea.toNat % 4 = 0 → ea.toNat < 2 ^ 48 →
      placed s (access s i sc t true (.red ea .fadd x)) t ea 4 .rw true = (.ok (pa, mt), s') →
      (targetOf pa = .stack ∨ targetOf pa = .cxl) → s.windowOps t (ea.toNat / 4096) = [] →
      let old : Word := BitVec.ofNat 32 (natOfBytes (s.bytesAt pa 4))
      let md : Modes := { rz := false, daz := false, trans := 0 }
      ∃ r, exec (.redFadd sc a b p) s = .next r ∧ SameRegs s r ∧
        (Stored s r pa (bytesOfWord (fadd md old x)) ∨ Stored s r pa (bytesOfWord (fadd md x old))))

/-- Scratchpad and constant accesses (R218, R219): within its limit an aligned access completes: a load goes in flight,
a constant load with the block's constant bytes; a store's bytes stand in the core's scratchpad and every other byte is
unchanged. A misaligned offset takes ALIGN, one past the limit ACCESS with cause RANGE. -/
def Obligations.ScratchpadAndConstantAccesses : Prop :=
  ∀ (s : State) (i : Issue) (sc : Scope) (d a off : BitVec 7) (p : BitVec 3) (t : Nat), OneActor s i sc p.toNat t →
    plain a → s.scratch.wf = true →
    let limit := 16384 * (s.block (coreOf t)).scr
    let ea := fun (size : Nat) => (s.reg t a.toNat + BitVec.ofInt 32 (off.toInt * size) : Word).toNat
    let who := if sc = .lane then [t] else i.group
    let traps := fun (size lim : Nat) (o : Out) =>
      (ea size % size ≠ 0 → o = .next (s.raise who i.faultAt (plainFault clsAlign) (some (i.here 0)))) ∧
      (ea size % size = 0 → lim < ea size + size → o = .next (s.raise who i.faultAt rangeFault (some (i.here 0))))
    let load := fun (size : Nat) (o : Out) => traps size limit o ∧
      (ea size % size = 0 → ea size + size ≤ limit → s.poisoned (scratchAddr (coreOf t) (ea size)) size = false →
        ∃ r, o = .next r ∧ SameBytes s r ∧ SameRegs s r ∧
          InFlight s r (access s i sc t true (.lds (ea size) size d.toNat)) t (scratchAddr (coreOf t) (ea size)) 0 none)
    let store := fun (size : Nat) (o : Out) => traps size limit o ∧
      (ea size % size = 0 → ea size + size ≤ limit → ∃ r, o = .next r ∧ SameRegs s r ∧
        Stored s r (scratchAddr (coreOf t) (ea size))
          (((s.regRun t d.toNat ((size + 3) / 4)).flatMap bytesOfWord).take size))
    load 4 (exec (.lds32 sc d a off p) s) ∧ load 8 (exec (.lds64 sc d a off p) s) ∧
    load 16 (exec (.lds128 sc d a off p) s) ∧
    store 4 (exec (.sts32 sc d a off p) s) ∧ store 8 (exec (.sts64 sc d a off p) s) ∧
    store 16 (exec (.sts128 sc d a off p) s) ∧
    traps 4 4096 (exec (.ldc32 sc d a off p) s) ∧
    (ea 4 % 4 = 0 → ea 4 + 4 ≤ 4096 → s.poisoned (constAddr (coreOf t) (ea 4)) 4 = false → ∃ r, exec (.ldc32 sc d a off p) s = .next r ∧ SameBytes s r ∧ SameRegs s r ∧
      InFlight s r (access s i sc t true (.ldc (ea 4) d.toNat)) t 0 0
        (some [BitVec.ofNat 32 (natOfBytes (((s.block (coreOf t)).const.drop (ea 4)).take 4))]))

/-- An access whose translation meets a cause that parks (R181-R183, R343): the thread is parked on its access with its
flag set, at a wider scope every live thread of the group with it, one record of the cause names them, and nothing else
happens. -/
def Sys2Proof.Claims.TranslationFaultsPark : Prop :=
  ∀ (s : State) (i : Issue) (sc : Scope) (d a off : BitVec 7) (p : BitVec 3) (t : Nat), OneActor s i sc p.toNat t →
    let ea : Dword := s.pairReg t a.toNat + BitVec.ofInt 64 (off.toInt * 4)
    let acc := access s i sc t true (.load ea 4 false d.toNat)
    let who := if sc = .lane then [t] else i.group
    ∀ f s', ea.toNat % 4 = 0 → ea.toNat < 2 ^ 48 → (sc ≠ .lane → ∀ m ∈ i.group, (s.thr m).live = true) →
      placed s acc t ea 4 .read false = (.error f, s') → f.parks = true → s.windowOps t (ea.toNat / 4096) = [] →
      exec (.ld32 sc d a off p) s = .next
        (((s'.modThr t fun th => { th with deferred := { acc with again := true } :: th.deferred }).modThrs (who ++ [t])
          fun th => { th with parked := true }).record who
          { hdr := i.hdr, word := i.pos + 1, scope := sc, swcode := 0, detail := 0 } f)

/-- Regions (R224, R225): BIND appends the region of five uniform registers to the block's list when its numbers, its
object word and the list allow it, and takes BUDGET otherwise; UNBIND removes the region that starts at the pair; both
change nothing but the block's list. -/
def Sys2Proof.Claims.RegionsJoinAndLeaveTheList : Prop :=
  ∀ (s : State) (i : Issue) (sc : Scope) (a : BitVec 7) (p : BitVec 3) (t : Nat), Setting s i →
    s.actors i sc p.toNat = [t] →
    let base := (s.pairReg t a.toNat).toNat
    let size := (s.pairReg t (a.toNat + 2)).toNat
    let obj := s.reg t (a.toNat + 4)
    let old := (s.block (coreOf t)).regions
    let ok := base % 64 = 0 ∧ size % 64 = 0 ∧ size ≠ 0 ∧ base + size ≤ 2 ^ 48 ∧ (s.objOf t obj).isSome = true ∧
      (∀ q ∈ old, ¬ (base < q.base + q.size ∧ q.base < base + size)) ∧ old.length < 64
    (ok → ∃ r, exec (.bind sc a p) s = .next r ∧ r = { s with blocks := r.blocks } ∧ ∀ c, r.block c =
      if c = coreOf t then { s.block c with regions := old ++ [{ base := base, size := size, obj := obj }] } else s.block c) ∧
    (¬ ok → exec (.bind sc a p) s = .next (s.raise (if sc = .lane then [t] else i.group) i.faultAt
      (plainFault clsBudget) (some (i.here 0)))) ∧
    (∃ r, exec (.unbind sc a p) s = .next r ∧ r = { s with blocks := r.blocks } ∧ ∀ c, r.block c =
      if c = coreOf t then { s.block c with regions := old.filter fun q => q.base ≠ base } else s.block c)

/-- Objects (R190, R215, R226, R228): ACQ, REL and the gates name an object by a word of register A; an invalid word, or
for a gate one of another kind, takes ACCESS with cause RANGE. ACQ goes in flight as the acquire event it will be; REL
adds a pending release of the object to each thread of the access. -/
def Sys2Proof.Claims.ReleaseAndAcquire : Prop :=
  ∀ (s : State) (i : Issue) (sc : Scope) (a : BitVec 7) (p pd : BitVec 3) (m : BitVec 6) (t : Nat), Setting s i →
    plain a → Free s i sc t →
    let w := s.reg t a.toNat
    let refuse := fun (o : Out) =>
      o = .next (s.raise (if sc = .lane then [t] else i.group) i.faultAt rangeFault (some (i.here 0)))
    (s.actors i sc 0 = [t] →
      (s.objOf t w = none → refuse (exec (.acq sc a m) s) ∧ refuse (exec (.rel sc a m) s) ∧
        refuse (exec (.gateAcq sc a) s) ∧ refuse (exec (.gateRel sc a) s)) ∧
      (∀ k, s.objOf t w = some k → keyKind k ≠ 4 → keyKind k ≠ 5 →
        refuse (exec (.gateAcq sc a) s) ∧ refuse (exec (.gateRel sc a) s)) ∧
      (∀ k, s.objOf t w = some k →
        (let acc := access s i sc t true (.acq w m.toNat)
         ∃ r, exec (.acq sc a m) s = .next r ∧ r.threads = (s.setFlags acc).threads ∧ SameBytes s r ∧ SameRegs s r ∧
          (newOp s r).map (fun o => (o.thr, o.acc.acc, o.pa)) = some (t, .acq w m.toNat, k)) ∧
        (let acc := access s i sc t false (.rel w m.toNat)
         exec (.rel sc a m) s = .next (acc.members.foldl (fun s n => s.relPending n k m.toNat) (issuing s acc))))) ∧
    (s.actors i sc p.toNat = [t] → s.objOf t w = none → refuse (exec (.gateTry sc pd a p) s))

/-- Gates (R228-R230): a free gate becomes HELD by the party, and a party that holds it holds on; a GATE.ACQ on another
party's gate joins the wait list and its operation waits, a GATE.TRY answers 0; GATE.REL by the holder releases the
gate's object for every thread of the access and passes the gate to the head of the wait list, and by anyone else does
nothing. -/
def Sys2Proof.Claims.GatesPassBetweenParties : Prop :=
  ∀ (s : State) (i : Issue) (sc : Scope) (a : BitVec 7) (p pd : BitVec 3) (t k : Nat), Setting s i →
    plain a → Free s i sc t → s.objOf t (s.reg t a.toNat) = some k → (keyKind k = 4 ∨ keyKind k = 5) →
    let w := s.reg t a.toNat
    let me := s.who sc t
    let g := s.gate k
    let result := fun (r : State) => (newOp s r).map (fun o => (o.thr, o.pa, o.result))
    (s.actors i sc 0 = [t] →
      (g.owner = none → ∃ r, exec (.gateAcq sc a) s = .next r ∧ r.gate k = { g with owner := some me } ∧
        result r = some (t, k, some []) ∧ SameBytes s r ∧ SameRegs s r) ∧
      (g.owner = some me → ∃ r, exec (.gateAcq sc a) s = .next r ∧ r.gate k = g ∧ result r = some (t, k, some []) ∧
        SameBytes s r ∧ SameRegs s r) ∧
      (∀ o, g.owner = some o → o ≠ me → ∃ r, exec (.gateAcq sc a) s = .next r ∧
        r.gate k = { g with wait := g.wait ++ [(me, r.nextOp - 1)] } ∧ result r = some (t, k, none) ∧
        SameBytes s r ∧ SameRegs s r) ∧
      (let acc := access s i sc t false (.gateRel w me)
       (g.owner = some me → exec (.gateRel sc a) s = .next
         ((acc.members.foldl (fun s n => s.releaseObj n k (s.relCount k + 1)) (issuing s acc)).passGate k)) ∧
       (g.owner ≠ some me → exec (.gateRel sc a) s = .next (issuing s acc)))) ∧
    (s.actors i sc p.toNat = [t] →
      ∃ r, exec (.gateTry sc pd a p) s = .next r ∧ SameBytes s r ∧ SameRegs s r ∧
        r.gate k = (if g.owner = none then { g with owner := some me } else g) ∧
        result r = some (t, k, some [if g.owner = none ∨ g.owner = some me then 1 else 0]))

/-- A gate that is passed (R229): without waiting requests it becomes FREE; otherwise its first waiting request holds it
and that request's operation is ready. -/
def Sys2Proof.Claims.APassedGateGoesToItsFirstRequest : Prop :=
  ∀ (s : State) (k : Nat),
    ((s.gate k).wait = [] → (s.passGate k).gate k = { owner := none, wait := [] }) ∧
    (∀ who op r, (s.gate k).wait = (who, op) :: r →
      (s.passGate k).gate k = { owner := some who, wait := r } ∧
      ∀ o, s.ops.find op = some o → (s.passGate k).ops.find op = some { o with result := some [], serial := s.relCount k })

/-- Signal words of this module (R231-R233): at an index below the grant SIG.ST stores the pair D, SIG.ADD adds the pair B
and SIG.CAS stores the pair after B where the pair B matches; the old value stands in the operation in flight for D;
SIG.WAIT's operation has its value at once where its condition holds, and waits otherwise. An index at or above the
grant takes ACCESS with cause RANGE. -/
def Obligations.SignalWords : Prop :=
  ∀ (s : State) (i : Issue) (sc : Scope) (d a b : BitVec 7) (p : BitVec 3) (t : Nat), OneActor s i sc p.toNat t →
    plain a →
    let w := (s.reg t a.toNat).toNat
    let idx := w % 2 ^ 19
    let v := (s.tagOf t).1
    let B := s.pairReg t b.toNat
    let refuse := fun (o : Out) =>
      o = .next (s.raise (if sc = .lane then [t] else i.group) i.faultAt rangeFault (some (i.here 0)))
    ((s.grant v).2 ≤ idx → refuse (exec (.sigLd sc d a p) s) ∧ refuse (exec (.sigSt sc d a p) s) ∧
      refuse (exec (.sigAdd sc d a b p) s) ∧ refuse (exec (.sigCas sc d a b p) s) ∧ refuse (exec (.sigWait sc d a b p) s)) ∧
    (idx < (s.grant v).2 → s.proxyFor v idx = none → s.turning v idx = false → (s.grant v).1 + idx < 2 ^ 19 →
      let n := (s.grant v).1 + idx
      let old := s.signal n
      let answers := fun (o : Out) (x : Option (List Word)) => ∃ r, o = .next r ∧ SameRegs s r ∧
        (newOp s r).map (fun o => (o.thr, o.pa, o.result)) = some (t, n, x)
      answers (exec (.sigLd sc d a p) s) (some [loW old, hiW old]) ∧
      answers (exec (.sigAdd sc d a b p) s) (some [loW old, hiW old]) ∧
      answers (exec (.sigCas sc d a b p) s) (some [loW old, hiW old]) ∧
      answers (exec (.sigWait sc d a b p) s)
        (if condHolds (w / 2 ^ 29 % 4) old B then some [loW old, hiW old] else none) ∧
      (∃ r, exec (.sigSt sc d a p) s = .next r ∧ SameRegs s r) ∧
      (n ≠ 0 →
        (∃ r, exec (.sigSt sc d a p) s = .next r ∧ r.signal n = s.pairReg t d.toNat) ∧
        (∃ r, exec (.sigAdd sc d a b p) s = .next r ∧ r.signal n = old + B) ∧
        (∃ r, exec (.sigCas sc d a b p) s = .next r ∧
          r.signal n = if old = B then s.pairReg t (b.toNat + 2) else old)))

/-- Fences, cache maintenance and prefetch (R216, R234-R237): FENCE and XFENCE go in flight as ordering instructions,
so that the thread's later accesses wait; CFLUSH and CINV of a range that ends above 2^48 take NONCANON, and of no bytes
or of bytes of one page that translates go in flight; PREFETCH changes nothing. No word of these writes a register or a
byte of memory. -/
def Sys2Proof.Claims.FencesMaintenanceAndPrefetch : Prop :=
  ∀ (s : State) (i : Issue) (sc : Scope) (a b off : BitVec 7) (p : BitVec 3) (f : BitVec 1) (x y : BitVec 6) (t : Nat),
    Setting s i → Free s i sc t → plain b →
    let va := s.pairReg t a.toNat
    let n := (s.reg t b.toNat).toNat
    (s.actors i sc 0 = [t] →
      (∃ r, exec (.fence sc f) s = .next r ∧ SameBytes s r ∧ SameRegs s r ∧ r.fenced t = true ∧
        (newOp s r).map (fun o => (o.thr, o.acc.acc)) = some (t, .fence (f == 1))) ∧
      (∃ r, exec (.xfence sc x y) s = .next r ∧ SameBytes s r ∧ SameRegs s r ∧ r.fenced t = true ∧
        (newOp s r).map (fun o => (o.thr, o.acc.acc)) = some (t, .xfence y.toNat x.toNat))) ∧
    (s.actors i sc p.toNat = [t] →
      (n ≠ 0 → 2 ^ 48 < va.toNat + n →
        let f : MemFault := { causeFault clsAccess causeNoncanon with stage := 1, va := va }
        let o := .next (s.raise (if sc = .lane then [t] else i.group) i.faultAt f (some (i.here 0)))
        exec (.cflush sc a b p) s = o ∧ exec (.cinv sc a b p) s = o) ∧
      (let range := fun (inv : Bool) (o : Out) =>
        let acc := access s i sc t true (.cmaint inv va n)
        (n = 0 → o = .next ((issuing s acc).opFor t acc 0 0 (some []))) ∧
        (∀ pa mt s', n ≠ 0 → va.toNat + n ≤ 2 ^ 48 → va.toNat % 4096 + n ≤ 4096 →
          (issuing s acc).translateFor (coreOf t) (s.tagOf t).1 (s.tagOf t).2 va .read false = (.ok (pa, mt), s') →
          o = .next (s'.opFor t acc 0 0 (some [])) ∧ SameBytes s s' ∧ SameRegs s s') ∧
        (va.toNat + n ≤ 2 ^ 48 → ∃ r, o = .next r ∧ SameBytes s r)
       range false (exec (.cflush sc a b p) s) ∧ range true (exec (.cinv sc a b p) s))) ∧
    exec (.prefetch sc a off p) s = .next s

/-- A completed operation (R14, R82, R143): a load's bytes reach register D of a live thread whose quota holds it, sign-
or zero-extended, and an atomic's old value or a constant load's word reaches D; then the operation leaves and its flag
clears, the handler that waited for it ends, and a launch whose last work it was finishes. An operation that still waits
does nothing, nor does one of a launch that is saved (R349), nor a number that names none. -/
def Obligations.OperationsComplete : Prop :=
  ∀ (s : State) (id : Nat),
    let done := fun (o : Op) (w : State) =>
      exec (.operationComplete id) s = .next (((w.retire id o).eretTest (coreOf o.thr)).settle o.thr)
    (s.ops.find id = none → exec (.operationComplete id) s = .next s) ∧
    (∀ o, s.ops.find id = some o → s.away o.thr = true → exec (.operationComplete id) s = .next s) ∧
    (∀ o d ws, s.ops.find id = some o → s.away o.thr = false → o.result = some ws →
      ((∃ va f b c, o.acc.acc = .atom va f b c d) ∨ (∃ off, o.acc.acc = .ldc off d)) →
      done o (s.writeResult o.thr o.acc d ws)) ∧
    (∀ o va f b, s.ops.find id = some o → s.away o.thr = false → o.acc.acc = .red va f b → o.result = some [] → done o s) ∧
    (∀ o idx cond v d, s.ops.find id = some o → s.away o.thr = false → o.acc.acc = .sigWait idx cond v d → o.result = none →
      o.pa < awayBase →
      exec (.operationComplete id) s = .next ((s.eretTest (coreOf o.thr)).settle o.thr)) ∧
    (∀ o va n sgn d, s.ops.find id = some o → s.away o.thr = false → o.acc.acc = .load va n sgn d → o.result = none →
      (targetOf o.pa = .stack ∨ targetOf o.pa = .cxl) → n ≤ 8 → d + 1 < s.resultLimit o.thr o.acc →
      (s.wlog.all fun e => !e.touches o.pa n) = true →
      let bs := s.bytesAt o.pa n
      ∃ w, done o w ∧ SameBytes s w ∧ (∀ k, (w.ops.find k).map Op.acc = (s.ops.find k).map Op.acc) ∧
        (n = 1 → sgn = false → w.reg o.thr d = BitVec.ofNat 32 (natOfBytes bs)) ∧
        (n = 2 → sgn = true → w.reg o.thr d = BitVec.ofInt 32 (BitVec.ofNat 16 (natOfBytes bs)).toInt) ∧
        (n = 4 → w.reg o.thr d = BitVec.ofNat 32 (natOfBytes bs)) ∧
        (n = 8 → w.reg o.thr d = BitVec.ofNat 32 (natOfBytes (bs.take 4)) ∧
          w.reg o.thr (d + 1) = BitVec.ofNat 32 (natOfBytes (bs.drop 4))))

/-! ## The CTRL class -/

/-- Transfers (R10, R86, R87): a BRA chooses H + 4 × OFF as the next clause of every thread of the group, and a BRM the
offset of the first literal whose predicate, inverted under NEG, is true in the thread (at a wider scope in the first of
the group), and none where no literal's is; nothing else changes. -/
def Sys2Proof.Claims.BranchesChooseTheNextClause : Prop :=
  ∀ (s : State) (i : Issue) (sc : Scope) (off : BitVec 24) (lits : List Word), Setting s i →
    let target := fun (off : Int) => (BitVec.ofInt 64 (i.hdr.toNat + 4 * off) : Dword)
    let goes := fun (choice : Nat → Option Int) (o : Out) =>
      (∀ k ∈ i.group, ∀ off, choice k = some off → s.badTarget k (target off) = false) →
      ∃ t, o = .next t ∧ t = { s with threads := t.threads } ∧ ∀ k, t.thr k =
        match (if k ∈ i.group then choice k else none) with
        | some off => { s.thr k with npc := some ((target off).setWidth 48) }
        | none => s.thr k
    let chosen := fun (k : Nat) => (lits.find? fun l =>
      s.pred (if sc = .lane then k else i.group.headD k) (l.toNat / 2 ^ 29) != l.getLsbD 28).map fun l =>
        (BitVec.ofNat 28 l.toNat).toInt
    goes (fun _ => some off.toInt) (exec (.bra sc off) s) ∧ goes chosen (exec (.brm sc lits) s)

/-- Targets that fail (R10, R18): one that is not a multiple of 4 or has nonzero bits [63:48] fails, and so does one whose
word is no clause header; a BRA, a CALL or a CALL.I to it takes ILLEGAL_CLAUSE at the word with the target in DETAIL, and
the thread's call stack stays as it was. -/
def Sys2Proof.Claims.FailingTargetsTakeIllegalClause : Prop :=
  ∀ (s : State) (i : Issue) (off : BitVec 24) (a : BitVec 7) (p : BitVec 3) (t : Nat), Setting s i →
    let target := (BitVec.ofInt 64 (i.hdr.toNat + 4 * off.toInt) : Dword)
    let traps := fun (x : Dword) (o : Out) => o = .next (s.raise [t] { i.faultAt with detail := x }
      (plainFault clsIllegalClause) (some (i.here 0)))
    (∀ x : Dword, (x.toNat % 4 ≠ 0 ∨ 2 ^ 48 ≤ x.toNat) → s.badTarget t x = true) ∧
    (∀ x w s', s.fetch t x.toNat = (.ok w, s') → decodeHeader w = none → s.badTarget t x = true) ∧
    (i.group = [t] → s.badTarget t target = true →
      traps target (exec (.bra .lane off) s) ∧ traps target (exec (.call .lane off) s)) ∧
    (s.actors i .lane p.toNat = [t] → ((s.pairReg t a.toNat).toNat % 4 ≠ 0 ∨ 2 ^ 48 ≤ (s.pairReg t a.toNat).toNat) →
      traps (s.pairReg t a.toNat) (exec (.callI .lane a p) s))

/-- Calls (R16, R90): a CALL pushes Next(H) with the next depth on the thread's return stack and transfers; with four
entries on chip the oldest goes first to the 16 bytes below sr.sp, behind no store of the thread that waits. CALL.I does the same for the target in its pair, whose
function word allows the warp's quota (R91). -/
def Sys2Proof.Claims.CallsPushTheReturnAddress : Prop :=
  ∀ (s : State) (i : Issue) (sc : Scope) (off : BitVec 24) (a : BitVec 7) (p : BitVec 3), Setting s i →
    let target := (BitVec.ofInt 64 (i.hdr.toNat + 4 * off.toInt) : Dword)
    let called := fun (x : Dword) (th : Thread) => { th with
      ret := { addr := BitVec.ofNat 48 (i.hdr.toNat + 4 * (i.head.count + 1)), depth := th.depth + 1 } :: th.ret
      depth := th.depth + 1, npc := some (x.setWidth 48) }
    ((∀ k ∈ i.group, s.badTarget k target = false ∧ (s.thr k).ret.length < 4) →
      ∃ t, exec (.call sc off) s = .next t ∧ t = { s with threads := t.threads } ∧ ∀ k, t.thr k =
        if k ∈ i.group then called target (s.thr k) else s.thr k) ∧
    (∀ t w s', s.actors i sc p.toNat = [t] →
      let x := s.pairReg t a.toNat
      x.toNat % 4 = 0 → x.toNat < 2 ^ 48 → s.fetch t (x - 4).toNat = (.ok w, s') →
      (∀ n, functionBudget w = some n → n ≤ (s.warp (warpKeyOf t)).quota → s'.badTarget t x = false →
        (s.thr t).ret.length < 4 →
        ∃ r, exec (.callI sc a p) s = .next r ∧ r.thr t = called x (s.thr t) ∧ SameBytes s r) ∧
      (functionBudget w = none → exec (.callI sc a p) s = .next (s'.raise (if sc = .lane then [t] else i.group)
        { i.faultAt with detail := x } (plainFault clsIllegalClause) (some (i.here 0)))) ∧
      (∀ n, functionBudget w = some n → (s.warp (warpKeyOf t)).quota < n → exec (.callI sc a p) s =
        .next (s'.raise (if sc = .lane then [t] else i.group) i.faultAt (plainFault clsBudget) (some (i.here 0))))) ∧
    (∀ t e0 e1 e2 e3 pa mt s', i.group = [t] → s.badTarget t target = false → (s.thr t).ret = [e0, e1, e2, e3] →
      isHandler t = false → (s.thr t).task = none → s.mem.wf = true → s.waitsOf t = [] →
      let sp := (s.thr t).sp - 16
      sp.toNat % 16 = 0 → s.translate t (sp.setWidth 64) 16 .write true = (.ok (pa, mt), s') → targetOf pa = .stack →
      ∃ r, s'.writePhys t (pathVia pathLane mt) (s'.regionObj t sp.toNat) pa
          (bytesOfNat 8 e3.addr.toNat ++ bytesOfWord e3.depth ++ zeros 4) = r ∧
        (r.badTarget t target = false → ∃ q, exec (.call sc off) s = .next q ∧
          Stored s q pa (bytesOfNat 8 e3.addr.toNat ++ bytesOfWord e3.depth ++ zeros 4) ∧
          q.thr t = called target { s.thr t with sp := sp, ret := [e0, e1, e2], spilled := (s.thr t).spilled + 1 }))

/-- Returns (R16, R92, R164): with an entry on chip RET pops it and transfers to its address; with none on chip and a
depth above 0 it starts the read of the record at sr.sp, which holds the thread at the word; at depth 0 it is an EXIT.
The launch finishes if that was its last thread. -/
def Sys2Proof.Claims.ReturnsPopOrRefillOrExit : Prop :=
  ∀ (s : State) (i : Issue) (sc : Scope) (p : BitVec 3) (t : Nat), Setting s i → s.actors i sc p.toNat = [t] →
    let th := s.thr t
    let fin := fun (r : State) => exec (.ret sc p) s = .next (r.settle (i.group.headD 0))
    (∀ e r, th.ret = e :: r → th.depth ≠ 0 → s.badTarget t (e.addr.setWidth 64) = false →
      fin ((s.modThr t fun th => { th with ret := r, depth := th.depth - 1 }).modThr t fun th =>
        { th with npc := some e.addr })) ∧
    (∀ pa mt s', th.ret = [] → th.depth ≠ 0 → th.sp.toNat % 16 = 0 →
      s.translate t (th.sp.setWidth 64) 16 .read true = (.ok (pa, mt), s') →
      fin (s'.modThr t fun th => { th with
        stop := some (i.here 0), npc := some i.hdr, refill := some { va := th.sp.setWidth 64, region := s'.regionObj t th.sp.toNat } })) ∧
    (th.depth = 0 → th.task = none → fin (s.exitThread t) ∧
      exec (.exit sc p) s = .next ((s.exitThread t).settle (i.group.headD 0)))

/-- The exit of a thread (R93, R115, R119, R230): it is no longer live and is held by nothing, its bit is 0 in every join
register of its warp, and no byte of memory changes; of its waiting accesses all but its own requests for gates are still
to be performed. -/
def Sys2Proof.Claims.AThreadThatExitsLeavesEveryGroup : Prop :=
  ∀ (s : State) (t : Nat), (s.thr t).live = true →
    let r := s.exitThread t
    (r.thr t).live = false ∧ (r.thr t).susp = false ∧ (r.thr t).deferred = (s.thr t).deferred.filter (s.keepsAtExit t) ∧
    ((s.thr t).deferred = [] → (r.thr t).parked = false) ∧
    (r.thr t).jwait = [] ∧ (r.thr t).brx = none ∧ (r.thr t).refill = none ∧ (r.thr t).spawning = [] ∧
    (∀ n, n < 8 → ((r.warp (warpKeyOf t)).j.get n 0).getLsbD (laneOf t) = false) ∧ SameBytes s r

/-- BRX (R88): an index at or above the bound falls through; otherwise the read of the entry at the table's base plus 8
times the index, B or what an interrupted run of the word took from it, starts and holds the thread at the word, a misaligned entry taking ALIGN. When the entry arrives, its
read behind every store that the thread has placed before it (R13), the thread goes on at its address, and a refill's
record returns the thread to its address with sr.sp 16 above the record's (R349). -/
def Obligations.TableBranchesAndRefillsArrive : Prop :=
  (∀ (s : State) (i : Issue) (sc : Scope) (d a b : BitVec 7) (p : BitVec 3) (t : Nat), Setting s i → plain b →
    s.actors i sc p.toNat = [t] →
    let bound := (s.reg t d.toNat).toNat
    let idx := ((s.thr t).popped.getD (s.reg t b.toNat)).toNat
    let e : Dword := s.pairReg t a.toNat + BitVec.ofNat 64 (8 * idx)
    (bound ≤ idx → exec (.brx sc d a b p) s = .next (s.modThr t fun th => { th with popped := none })) ∧
    (idx < bound → e.toNat % 8 ≠ 0 → exec (.brx sc d a b p) s = .next (s.raise (if sc = .lane then [t] else i.group)
      i.faultAt { plainFault clsAlign with va := e } (some (i.here 0)))) ∧
    (∀ x s', idx < bound → e.toNat % 8 = 0 → s.translate t e 8 .read false = (.ok x, s') →
      exec (.brx sc d a b p) s = .next (s'.modThr t fun th =>
        { th with
          stop := some (i.here 0), npc := some i.hdr, brx := some { va := e, region := s'.regionObj t e.toNat }, popped := none }))) ∧
  (∀ (s : State) (t : Nat) (h : HeldRead) (pa mt : Nat) (s' : State), (s.thr t).brx = some h → s.mayArrive t = true →
    s.translate t h.va 8 .read false = (.ok (pa, mt), s') →
    (∀ e ∈ s.ops, e.2.thr = t → e.2.readsUnit pa 8 = false) →
    (targetOf pa = .stack ∨ targetOf pa = .cxl) → (s.wlog.all fun w => !w.touches pa 8) = true →
    let x : Dword := BitVec.ofNat 64 (natOfBytes (s.bytesAt pa 8))
    s'.badTarget t x = false →
    ∃ r, exec (.brxEntryArrival t) s = .next r ∧ r.thr t =
      { s.thr t with pc := x.setWidth 48, stop := none, brx := none, refill := none, popped := none
                     again := false, jwait := (r.thr t).jwait }) ∧
  (∀ (s : State) (t : Nat) (h : HeldRead) (pa mt : Nat) (s' : State), (s.thr t).refill = some h → s.mayArrive t = true →
    s.translate t h.va 16 .read true = (.ok (pa, mt), s') →
    (∀ e ∈ s.ops, e.2.thr = t → e.2.readsUnit pa 16 = false) →
    (targetOf pa = .stack ∨ targetOf pa = .cxl) → (s.wlog.all fun w => !w.touches pa 8 && !w.touches (pa + 8) 8) = true →
    let x : Dword := BitVec.ofNat 64 (natOfBytes (s.bytesAt pa 8))
    s'.badTarget t x = false →
    ∃ r, exec (.refillArrival t) s = .next r ∧ r.thr t =
      { s.thr t with
        sp := h.va.setWidth 48 + 16, spilled := (s.thr t).spilled - 1, depth := (s.thr t).depth - 1
        pc := x.setWidth 48, stop := none, brx := none, refill := none, popped := none, again := false
        jwait := (r.thr t).jwait }) ∧
  (∀ (s : State) (t : Nat), s.mayArrive t = true ↔ (s.thr t).live = true ∧ (s.thr t).susp = false ∧ s.away t = false ∧
    ∀ a ∈ s.waitsOf t, a.acc.writes = false)

/-- Special registers and features (R19, R94, R95): S2R writes the thread number, the lane, the warp, the set, the block,
the cluster, the die, the work id, the virtual device, the spawn id, sr.sp and the core by number, and takes ILLEGAL_OP
from 16 on; FEATQ writes the word of the virtual device's profile, 0 past the list; the clock's read writes the low word
of a count that has not gone back. NOP changes nothing. -/
def Sys2Proof.Claims.SpecialRegistersAndFeatures : Prop :=
  ∀ (s : State) (i : Issue) (d : BitVec 7) (n : BitVec 10) (p : BitVec 3) (sc : Scope), Setting s i →
    (∀ sc, allowed sc d →
      let reads := fun (n : BitVec 10) (val : Nat → Word) => WritesReg s i sc 0 d.toNat val (exec (.s2r sc d n) s)
      reads 0 (fun k => BitVec.ofNat 32 (32 * (s.warp (warpKeyOf k)).no + laneOf k)) ∧
      reads 1 (fun k => BitVec.ofNat 32 (laneOf k)) ∧
      reads 2 (fun k => BitVec.ofNat 32 (s.warp (warpKeyOf k)).no) ∧
      reads 3 (fun k => match s.setOf (warpKeyOf k) with | some x => BitVec.ofNat 32 x | none => 0xFFFFFFFF) ∧
      reads 4 (fun k => BitVec.ofNat 32 (s.block (coreOf k)).rank) ∧
      reads 5 (fun k => BitVec.ofNat 32 (s.block (coreOf k)).cluster) ∧
      reads 6 (fun k => BitVec.ofNat 32 (s.block (coreOf k)).die) ∧
      reads 7 (fun k => (s.block (coreOf k)).workid.extractLsb' 0 32) ∧
      reads 8 (fun k => (s.block (coreOf k)).workid.extractLsb' 32 32) ∧
      reads 9 (fun k => BitVec.ofNat 32 (s.tagOf k).1) ∧
      reads 10 (fun k => (s.thr k).spawnid) ∧
      reads 11 (fun k => BitVec.ofNat 32 (s.thr k).sp.toNat) ∧
      reads 12 (fun k => BitVec.ofNat 32 ((s.thr k).sp.toNat / 2 ^ 32)) ∧
      reads 13 (fun k => BitVec.ofNat 32 (coreOf k)) ∧
      WritesReg s i sc 0 d.toNat (fun k => (s.vdev (s.tagOf k).1).profile.getD n.toNat 0) (exec (.featq sc d n) s)) ∧
    (∀ t, 16 ≤ n.toNat → s.actors i .lane 0 = [t] → exec (.s2r .lane d n) s =
      .next (s.raise [t] i.faultAt (plainFault clsIllegalOp) (some (i.here 0)))) ∧
    (∀ t, s.actors i .lane 0 = [t] → d.toNat < 96 → ∃ r, exec (.s2r .lane d 15) s = .next r ∧
      (s.core (coreOf t)).clock ≤ (r.core (coreOf t)).clock ∧
      r.reg t d.toNat = BitVec.ofNat 32 (r.core (coreOf t)).clock) ∧
    exec (.nop sc p) s = .next s

/-- TRAP (R96, R342): every thread of the group takes the class TRAP with the code in SWCODE; its stop point is the next
clause. -/
def Sys2Proof.Claims.TrapTakesItsException : Prop :=
  ∀ (s : State) (i : Issue) (sc : Scope) (code : BitVec 10), Setting s i →
    exec (.trap sc code) s = .next ((s.modThrs i.group fun th =>
      { th with pc := BitVec.ofNat 48 (i.hdr.toNat + 4 * (i.head.count + 1)), trapped := true }).raise i.group
        { hdr := i.hdr, word := i.pos + 1, scope := sc, swcode := code.toNat, detail := 0 } (plainFault 14) none)

/-! ## Parallel words -/

/-- Join masks (R115, R146-R149): JINIT sets exactly the bits of the live lanes of the warp; JWAIT of a thread whose bit
is clear holds nothing, and of one whose bit is set holds it; the release test releases the threads of a mask that are
all held there, between clauses and not parked, and else nothing; JLEAVE clears the thread's bit in the listed registers;
BRK clears bits and transfers. -/
def Obligations.JoinMasks : Prop :=
  (∀ (s : State) (w n : Nat),
    let mask := (s.warp w).j.get n 0
    (mask ≠ 0 → (∀ b, b < 32 → mask.getLsbD b = true → s.heldAt n (w * 32 + b) = true) →
      ∀ b, b < 32 → mask.getLsbD b = true → n ∉ ((s.joinTest w n).thr (w * 32 + b)).jwait) ∧
    (∀ b, b < 32 → mask.getLsbD b = true → s.heldAt n (w * 32 + b) = false → s.joinTest w n = s)) ∧
  ∀ (s : State) (i : Issue) (sc : Scope) (d : BitVec 7) (l : BitVec 8) (p : BitVec 3) (lit : Word) (t : Nat), Setting s i →
    let w := warpKeyOf t
    let mask := fun (s : State) (n : Nat) => (s.warp w).j.get n 0
    (s.actors i sc p.toNat = [t] →
      (∃ r, exec (.jinit sc d p) s = .next r ∧ r = { s with warps := r.warps } ∧
        (∀ k, k ≠ w → r.warp k = s.warp k) ∧ (∀ n, n ≠ d.toNat → mask r n = mask s n) ∧
        ∀ b, b < 32 → (mask r d.toNat).getLsbD b = (s.thr (w * 32 + b)).live) ∧
      ((mask s d.toNat).getLsbD (laneOf t) = false → exec (.jwait sc d p) s = .next s) ∧
      ((mask s d.toNat).getLsbD (laneOf t) = true → exec (.jwait sc d p) s =
        .next (s.modThr t fun th => { th with jwait := th.jwait ++ [d.toNat] })) ∧
      (s.badTarget t (BitVec.ofInt 64 (i.hdr.toNat + 4 * lit.toInt)) = false →
        exec (.brk sc l p lit) s = .next ((s.joinLeave t (maskBits l.toNat 8)).modThr t fun th =>
          { th with npc := some (BitVec.ofInt 48 (i.hdr.toNat + 4 * lit.toInt)) }))) ∧
    (s.actors i sc 0 = [t] → ∃ r, exec (.jleave sc l) s = .next r ∧ SameBytes s r ∧ SameRegs s r ∧
      ∀ n, n < 8 → l.getLsbD n = true → (mask r n).getLsbD (laneOf t) = false)

/-- Hardware barriers (R117, R118, R120, R150, R151): a number that names none, or a barrier that the thread's warp is no
member of, is ILLEGAL_OP. BAR.ARRIVE by a thread that has not yet arrived in the phase counts one arrival; BAR.SYNC holds
the thread as well while more are expected; BAR.WAIT after an arrival of the pending phase holds the thread; BAR.INIT of
a core barrier forgets every arrival and expects every live member. An arrival behind writes, RELs or XFENCEs that wait, or
behind an XFENCE outstanding, waits with them (R195, R198, R217). -/
def Sys2Proof.Claims.HardwareBarriers : Prop :=
  ∀ (s : State) (i : Issue) (sc : Scope) (b : BitVec 10) (t : Nat), Setting s i → i.group = [t] →
    let n := b.toNat
    let x := s.barrier (coreOf t) n
    let waits := s.crossing t || (s.waitsOf t).any fun a => a.acc.beforeArrival
    let illegal := .next (s.raise [t] i.faultAt (plainFault clsIllegalOp) (some (i.here 0)))
    ((28 ≤ n ∨ s.barMember t n = false) →
      exec (.barSync sc b) s = illegal ∧ exec (.barArrive sc b) s = illegal ∧ exec (.barWait sc b) s = illegal) ∧
    (n < 28 → s.barMember t n = true → waits = true →
      ∃ r, exec (.barArrive sc b) s = .next r ∧ r.barrier (coreOf t) n = x ∧ SameBytes s r ∧ SameRegs s r ∧
        (r.thr t).deferred.length = (s.thr t).deferred.length + 1) ∧
    (n < 16 → s.barMember t n = true → waits = false →
      (s.thr t).arr.find n ≠ some x.phase → x.count + 1 < x.expected →
      (∃ r, exec (.barArrive sc b) s = .next r ∧ r.barrier (coreOf t) n = { x with count := x.count + 1 } ∧
        (r.thr t).bwait = (s.thr t).bwait ∧ (r.thr t).arr.find n = some x.phase ∧ SameBytes s r ∧ SameRegs s r) ∧
      (∃ r, exec (.barSync sc b) s = .next r ∧ r.barrier (coreOf t) n = { x with count := x.count + 1 } ∧
        (r.thr t).bwait = (s.thr t).bwait ++ [(n, x.phase)] ∧ SameBytes s r ∧ SameRegs s r)) ∧
    (n < 28 → s.barMember t n = true → (s.thr t).arr.find n = some x.phase → (s.thr t).arriving n = false →
      ((s.thr t).rearm.all fun r => r.1 ≠ n) = true →
      exec (.barWait sc b) s = .next (s.modThr t fun th => { th with bwait := th.bwait ++ [(n, x.phase)] })) ∧
    (s.actors i sc 0 = [t] →
      (16 ≤ n → exec (.barInit sc b) s = illegal) ∧
      (n < 16 → ∃ r, exec (.barInit sc b) s = .next r ∧ SameBytes s r ∧ SameRegs s r ∧
        r.barrier (coreOf t) n = { phase := 0, count := 0, expected := (s.barMembers (coreOf t) n).length,
                                    later := (s.barMembers (coreOf t) n).length }))

/-- A phase completes at its last arrival (R118): the arrival that reaches the expected count starts the next phase with
no arrivals, and releases every member held on the old one. -/
def Sys2Proof.Claims.TheLastArrivalCompletesThePhase : Prop :=
  ∀ (s : State) (c b : Nat), b < 16 →
    let x := s.barrier c b
    0 < x.count → x.expected ≤ x.count → (∀ t ∈ s.barMembers c b, (s.thr t).rearm = []) →
    let r := s.barTest c b 1
    r.barrier c b = { phase := (x.phase + 1) % 2 ^ 32, count := 0, expected := x.later, later := x.later } ∧
    ∀ t ∈ s.barMembers c b, (b, x.phase) ∉ (r.thr t).bwait

/-- Exchange, votes, reductions and scans (R152-R156): SHFL gives each guarded thread the source of the member in the
lane that its B names, or its own; VOTE writes ALL, ANY or UNIFORM of the guarded threads' operands to every thread of the
group and the ballot to the uniform register; REDUX gives the fold of the guarded threads' sources in element order,
starting at the function's identity; SCAN gives each its inclusive prefix. A uniform destination receives the first
member's value, in every warp of the scope. -/
def Sys2Proof.Claims.ExchangeVotesReductionsAndScans : Prop :=
  ∀ (s : State) (i : Issue) (sc : Scope) (d a b f : BitVec 7) (p c pd pa : BitVec 3) (na : BitVec 1) (r0 : Nat) (g : List Nat),
    Setting s i → i.group = r0 :: g → plain a → plain b →
    let who := i.group.filter fun k => s.pred k p.toNat
    let A := fun k => s.reg k a.toNat
    let step := reduxStep (s.modes r0) f.toNat
    let fold := fun (l : List Nat) => (l.map A).foldl step (reduxId f.toNat)
    let sent := fun (k : Nat) => ((i.group.find? fun m => (laneOf m : Int) = shflSrc (laneOf k) (s.reg k b.toNat)).map A).getD (A k)
    let each := fun (o : Out) (val : Nat → Word) => ∃ r, o = .next r ∧ r = { s with threads := r.threads } ∧
      ∀ k, r.thr k = if k ∈ who then { s.thr k with v := (s.thr k).v.put d.toNat (val k) } else s.thr k
    let uniform := fun (r : State) (n : Nat) (w : Word) => ∀ k, r.warp k =
      if k ∈ s.dstWarps i r0 ∧ n < 120 then { s.warp k with s := (s.warp k).s.put (n - 96) w } else s.warp k
    (d.toNat < 96 → each (exec (.shfl sc d a b p) s) sent ∧ each (exec (.redux sc d a f p) s) (fun _ => fold who) ∧
      each (exec (.scan sc d a f p) s) (fun k => fold (who.take (who.findIdx (· = k) + 1)))) ∧
    (96 ≤ d.toNat →
      (∃ r, exec (.redux sc d a f p) s = .next r ∧ r = { s with warps := r.warps } ∧ uniform r d.toNat (fold who)) ∧
      (s.pred r0 p.toNat = true →
        ∃ r, exec (.shfl sc d a b p) s = .next r ∧ r = { s with warps := r.warps } ∧ uniform r d.toNat (sent r0))) ∧
    (96 ≤ b.toNat →
      let on := fun (k : Nat) => s.pred k pa.toNat != (na == 1)
      let v := if c = 0 then who.all on else if c = 1 then who.any on else (who.all on || who.all fun k => !on k)
      ∃ r, exec (.vote sc c pd na pa b p) s = .next r ∧ r = { s with threads := r.threads, warps := r.warps } ∧
        (∀ k, r.thr k = if k ∈ i.group ∧ pd ≠ 0 then { s.thr k with p := setBit8 (s.thr k).p pd.toNat v } else s.thr k) ∧
        uniform r b.toNat (BitVec.ofNat 32 (maskOf ((who.filter on).map laneOf))))

/-- The functions of REDUX and SCAN with their identities (R154): sum, minimum and maximum of signed and unsigned words,
and the three bitwise operations. -/
def Sys2Proof.Claims.ReductionFunctions : Prop :=
  ∀ (md : Modes) (x y : Word),
    reduxStep md 0 x y = x + y ∧ (reduxStep md 1 x y).toInt = min x.toInt y.toInt ∧
    (reduxStep md 2 x y).toInt = max x.toInt y.toInt ∧ (reduxStep md 3 x y).toNat = min x.toNat y.toNat ∧
    (reduxStep md 4 x y).toNat = max x.toNat y.toNat ∧ reduxStep md 5 x y = x &&& y ∧ reduxStep md 6 x y = x ||| y ∧
    reduxStep md 7 x y = x ^^^ y ∧ ∀ f, f < 8 → reduxStep md f (reduxId f) x = x

/-- Sets and quotas (R110, R114, R157, R158): SETDECL stores the four masks, an omitted one kept, where each set has at
most 8 member warps of the block with one quota and no warp stands in two sets, and otherwise takes BUDGET and changes
nothing; QUOTA of no granules, or between a set and itself, takes BUDGET. A warp whose quota falls loses the registers
at or above it. -/
def Sys2Proof.Claims.SetsAndQuotas : Prop :=
  (∀ (s : State) (i : Issue) (sc : Scope) (a : BitVec 7) (p : BitVec 3) (lit : Word) (t : Nat), Setting s i →
    s.actors i sc p.toNat = [t] →
    let c := coreOf t
    let masks := (List.range 4).map fun k =>
      if lit.getLsbD k then (s.block c).sets.getD k 0 else (s.pairReg t (a.toNat + 2 * k)).toNat
    let ok := setsOk (s.quotaOf c) (s.block c).nwarps masks = true
    (ok → ∃ r, exec (.setdecl sc a p lit) s = .next r ∧ r = { s with blocks := r.blocks } ∧
      ∀ k, r.block k = if k = c then { s.block c with sets := masks } else s.block k) ∧
    (¬ ok → exec (.setdecl sc a p lit) s = .next (s.raise (if sc = .lane then [t] else i.group) i.faultAt
      (plainFault clsBudget) (some (i.here 1))))) ∧
  (∀ (s : State) (i : Issue) (sc : Scope) (x y : BitVec 2) (n : BitVec 4) (t : Nat), Setting s i → s.actors i sc 0 = [t] →
    ((n = 0 ∨ x = y) → exec (.quota sc x y n) s = .next (s.raise (if sc = .lane then [t] else i.group) i.faultAt
      (plainFault clsBudget) (some (i.here 0))))) ∧
  (∀ (s : State) (w q : Nat), ((s.setQuota w q).warp w).quota = q ∧ SameBytes s (s.setQuota w q) ∧
    ∀ l c, l < 32 → c < 96 → (s.setQuota w q).reg (w * 32 + l) c = if c < q then s.reg (w * 32 + l) c else 0)

/-- QUOTA (R114, R158): with both sets present, room left in the source and at most 96 in the target, each warp of set X
gives up 8 × N registers and each warp of set Y gains its share, where the partitions keep their capacity. -/
def Sys2Proof.Claims.QuotaMovesRegisters : Prop :=
  ∀ (s : State) (i : Issue) (sc : Scope) (x y : BitVec 2) (n : BitVec 4) (t w v : Nat), Setting s i →
    s.actors i sc 0 = [t] →
    let c := coreOf t
    s.setWarps c x.toNat = [w] → s.setWarps c y.toNat = [v] → x ≠ y → n ≠ 0 →
    (maskBits ((s.block c).sets.getD x.toNat 0) 63).length = 1 → (maskBits ((s.block c).sets.getD y.toNat 0) 63).length = 1 →
    8 + 8 * n.toNat ≤ (s.warp w).quota → (s.warp v).quota + 8 * n.toNat ≤ 96 → (s.block c).active = true →
    ((s.setQuota w ((s.warp w).quota - 8 * n.toNat)).setQuota v ((s.warp v).quota + 8 * n.toNat)).capacityOk c = true →
    exec (.quota sc x y n) s =
      .next ((s.setQuota w ((s.warp w).quota - 8 * n.toNat)).setQuota v ((s.warp v).quota + 8 * n.toNat))

/-- Tiles (R126-R128, R159, R394): a TILE.NEXT with an index left in the run that serves its die takes it, and the run's
next index rises by one, so that no other takes it; one with none left while work remains waits for a refill, and one past the last index answers all ones with the exhausted predicate; the refill
takes BATCH indices from the home counter, clamped to the work. -/
def Obligations.TilesAreHandedOut : Prop :=
  (∀ (s : State) (i : Issue) (sc : Scope) (pd : BitVec 3) (a : BitVec 7) (p : BitVec 3) (t l : Nat) (x : Launch), Setting s i →
    s.rep i p.toNat = some t → (s.block (coreOf t)).launch = l → s.launch? l = some x →
    let run := x.run (x.runDie (coreOf t / 72))
    let result := fun (r : State) => (newOp s r).map fun o => (o.thr, o.result)
    (run.next < run.stop → ∃ r, exec (.tileNext sc pd a p) s = .next r ∧ SameBytes s r ∧ SameRegs s r ∧
      result r = some (t, some [(x.record.workId run.next).extractLsb' 0 32, (x.record.workId run.next).extractLsb' 32 32, 0]) ∧
      ∃ y, r.launch? l = some y ∧ y.run (x.runDie (coreOf t / 72)) = { run with next := run.next + 1 } ∧
        (∀ d, d ≠ x.runDie (coreOf t / 72) → y.run d = x.run d) ∧ y.homeCounter = x.homeCounter) ∧
    (run.stop ≤ run.next → x.record.nWork ≤ x.homeCounter → ∃ r, exec (.tileNext sc pd a p) s = .next r ∧
      SameBytes s r ∧ SameRegs s r ∧ result r = some (t, some [0xFFFFFFFF, 0xFFFFFFFF, 1])) ∧
    (run.stop ≤ run.next → x.homeCounter < x.record.nWork → ∃ r, exec (.tileNext sc pd a p) s = .next r ∧
      SameBytes s r ∧ SameRegs s r ∧ result r = some (t, none))) ∧
  (∀ (s : State) (l die : Nat) (x : Launch), s.launch? l = some x → (x.refills.find die).isSome = true → die < 2 →
    x.phase = .running → s.ops = [] → x.runs.length = 2 →
    let batch := if x.record.batch = 0 then 64 else x.record.batch
    ∃ r y, exec (.dispenserRefill l die) s = .next r ∧ r.launch? l = some y ∧ y.homeCounter = x.homeCounter + batch ∧
      y.runs.getD die { next := 0, stop := 0 } =
        { next := min x.homeCounter x.record.nWork, stop := min (x.homeCounter + batch) x.record.nWork } ∧
      y.refills.find die = none ∧ SameBytes s r)

/-- SPAWN (R122, R124, R160): an entry with nonzero bits [63:48] or [1:0] is ILLEGAL_CLAUSE (DETAIL 0: the model's reading,
log entry 112); a block that has spent its identifiers takes BUDGET; otherwise the spawn takes the next identifier 2^24 ×
sr.block + s. It joins the first bin of its entry that has room, which is ready to launch once it holds 32; without one it
takes a free bin; with none free it goes last into the overflow area, and where that is full its spawner is held. -/
def Sys2Proof.Claims.SpawnsEnterBins : Prop :=
  ∀ (s : State) (i : Issue) (sc : Scope) (d a b : BitVec 7) (p : BitVec 3) (t : Nat), Setting s i → plain a → plain b →
    s.actors i sc p.toNat = [t] →
    let entry := s.pairReg t d.toNat
    let bk := s.block (coreOf t)
    let who := if sc = .lane then [t] else i.group
    ((entry.toNat % 4 ≠ 0 ∨ 2 ^ 48 ≤ entry.toNat) → exec (.spawn sc d a b p) s = .next (s.raise who
      i.faultAt (plainFault clsIllegalClause) (some (i.here 0)))) ∧
    (entry.toNat % 4 = 0 → entry.toNat < 2 ^ 48 → 2 ^ 24 ≤ bk.spawnCount + 1 → exec (.spawn sc d a b p) s =
      .next (s.raise who i.faultAt (plainFault clsBudget) (some (i.here 0)))) ∧
    (entry.toNat % 4 = 0 → entry.toNat < 2 ^ 48 → bk.spawnCount + 1 < 2 ^ 24 →
      ∃ (r : State) (x : Spawned), exec (.spawn sc d a b p) s = .next r ∧ r = { s with blocks := r.blocks, threads := r.threads } ∧
        (r.block (coreOf t)).spawnCount = bk.spawnCount + 1 ∧
        x.req = { entry := entry.setWidth 48, a := s.reg t a.toNat, b := s.reg t b.toNat
                  id := BitVec.ofNat 32 (2 ^ 24 * bk.rank + bk.spawnCount) } ∧ x.task = none ∧ x.frag = none ∧ x.node = none ∧
        let room := fun (z : Bin) => z.key = entry.toNat ∧ z.members.length < 32
        let after := (r.block (coreOf t)).bins
        ((∀ z ∈ bk.bins, ¬ room z) → bk.bins.length < 16 → r.threads = s.threads ∧
          after = bk.bins ++ [{ key := entry.toNat, members := [x], ready := none, born := (s.core (coreOf t)).clock }]) ∧
        (∀ (k : Nat) (z : Bin), bk.bins[k]? = some z → room z → (∀ (j : Nat) (y : Bin), j < k → bk.bins[j]? = some y → ¬ room y) →
          r.threads = s.threads ∧ (∀ j, j ≠ k → (after[j]?).map Bin.members = (bk.bins[j]?).map Bin.members) ∧
          ∃ y : Bin, after[k]? = some y ∧ y.key = z.key ∧ y.members = z.members ++ [x] ∧
            (z.ready = none → (y.ready.isSome = true ↔ y.members.length = 32))) ∧
        ((∀ z ∈ bk.bins, ¬ room z) → 16 ≤ bk.bins.length →
          after.map Bin.members = bk.bins.map Bin.members ∧
          (bk.overflow.length < s.ovflSize (coreOf t) → r.threads = s.threads ∧
            (r.block (coreOf t)).overflow = bk.overflow ++ [x]) ∧
          (s.ovflSize (coreOf t) ≤ bk.overflow.length → (r.block (coreOf t)).overflow = bk.overflow ∧
            ∀ k, r.thr k = if k = t then { s.thr t with spawning := (s.thr t).spawning ++ [x] } else s.thr k)))

/-- Bins (R122, R123): a bin's timer makes it ready to launch; a launched bin leaves the list and starts its threads in
the lowest free warp slot that has capacity, each at its entry with its two arguments in v0 and v1 and its identifier, once the stores that its spawner had placed
before it have left (R160). -/
def Sys2Proof.Claims.BinsLaunchWarps : Prop :=
  (∀ (s : State) (c n : Nat) (x : Bin), s.blockRuns c = true → (s.block c).bins[n]? = some x → x.ready = none →
    ∃ r, exec (.spawnBinTimer c n) s = .next r ∧ r = { s with blocks := r.blocks } ∧
      ((r.block c).bins[n]?).map Bin.ready = some (some (s.block c).binOrder)) ∧
  (∀ (s : State) (c slot : Nat) (l : Launch) (x : Spawned) (k : Nat) (born : Nat), s.launch? (s.block c).launch = some l →
    l.phase = .running → s.parentLeft x = true →
    (s.block c).bins = [{ key := k, members := [x], ready := some 0, born := born }] → (s.block c).overflow = [] →
    (s.block c).tile = none → s.findSlot c = some slot → (∀ e ∈ s.threads, e.2.spawning = []) →
    ∃ r, exec (.binLaunch c) s = .next r ∧ (r.block c).bins = [] ∧ SameBytes s r ∧
      (r.warp (mkWarp c slot 0)).spawned = true ∧
      let th := r.thr (mkWarp c slot 0 * 32)
      th.live = true ∧ th.pc = x.req.entry ∧ th.spawnid = x.req.id ∧ th.v.get 0 0 = x.req.a ∧ th.v.get 1 0 = x.req.b)

/-- YIELD (R161): the guarded threads at lane scope, or all of the group where the representative's guard is true, are
marked as having yielded, and nothing else changes. -/
def Sys2Proof.Claims.YieldMarksItsThreads : Prop :=
  ∀ (s : State) (i : Issue) (sc : Scope) (p : BitVec 3), Setting s i →
    ∃ r, exec (.yield sc p) s = .next r ∧ r = { s with threads := r.threads } ∧ ∀ k, r.thr k =
      if k ∈ i.group ∧ (if sc = .lane then s.pred k p.toNat else s.pred (i.group.headD k) p.toNat) = true
      then { s.thr k with yielded := true } else s.thr k

/-! ## Speculative tasks -/

/-- Where the words of speculation may stand (R359, R387-R390): SPEC.OP, SPEC.COMMIT only in a task outside a bracket,
SPEC.END only inside one, SPEC.ABORT in a task that runs no inverse routine, SPEC.DRAIN and SPEC.TABLE only in a thread
that is no task; elsewhere the word is ILLEGAL_OP. A
word does nothing for a task whose abort has been taken in the course of it (R393). -/
def Sys2Proof.Claims.SpeculationWordsInTheWrongPlace : Prop :=
  (∀ (s : State) (i : Issue) (sc : Scope) (d a b : BitVec 7) (p : BitVec 3) (lit : Word) (t : Nat), Setting s i →
    s.actors i sc p.toNat = [t] → (s.thr t).task.map Task.phase ≠ some .abort →
    let place := s.specPlace t
    let who := if sc = .lane then [t] else i.group
    let illegal := fun (lits : Nat) (o : Out) =>
      o = .next (s.raise who i.faultAt (plainFault clsIllegalOp) (some (i.here lits)))
    (place ≠ .outside → illegal 1 (exec (.specOp sc d a b p lit) s)) ∧
    (place ≠ .bracket → illegal 0 (exec (.specEnd sc p) s)) ∧
    (place ≠ .outside → place ≠ .bracket → illegal 0 (exec (.specAbort sc p) s)) ∧
    (place ≠ .plain → illegal 0 (exec (.specDrain sc p) s) ∧ illegal 0 (exec (.specTable sc a p) s)) ∧
    (place = .inverse → illegal 0 (exec (.spawnSpec sc d a b p) s)) ∧
    (place ≠ .outside → exec (.specCommit sc p) s = .next ((s.raise who i.faultAt (plainFault clsIllegalOp)
      (some (i.here 0))).settle (i.group.headD 0)))) ∧
  ∀ (s : State) (i : Issue) (sc : Scope) (p : BitVec 3) (t : Nat), Setting s i → s.actors i sc p.toNat = [t] →
    (s.thr t).task.map Task.phase = some .abort →
    exec (.specEnd sc p) s = .next s ∧ exec (.specAbort sc p) s = .next s ∧
      exec (.specCommit sc p) s = .next (s.settle (i.group.headD 0))

/-- SPAWN.SPEC (R356, R357, R387): reserved bits of the control word are BUDGET; otherwise the task enters a bin with the
key, the order and discard bits and the two arguments of its operands. -/
def Sys2Proof.Claims.SpawnedTasksEnterBins : Prop :=
  ∀ (s : State) (i : Issue) (sc : Scope) (d a b : BitVec 7) (p : BitVec 3) (t : Nat), Setting s i →
    s.actors i sc p.toNat = [t] → s.specPlace t ≠ .inverse →
    (s.thr t).task.map Task.phase ≠ some .abort →
    let entry := s.pairReg t d.toNat
    let args := s.pairReg t a.toNat
    let ts := ((s.pairReg t b.toNat).extractLsb' 0 32).toNat
    let ctl := ((s.pairReg t b.toNat).extractLsb' 32 32 : Word)
    let bk := s.block (coreOf t)
    entry.toNat % 4 = 0 → entry.toNat < 2 ^ 48 →
    (4 ≤ ctl.toNat → exec (.spawnSpec sc d a b p) s = .next (s.raise (if sc = .lane then [t] else i.group) i.faultAt
      (plainFault clsBudget) (some (i.here 0)))) ∧
    (ctl.toNat < 4 → (s.specOf bk.launch).floor = none → bk.spawnCount + 1 < 2 ^ 24 → bk.bins = [] →
      ∃ r x k, exec (.spawnSpec sc d a b p) s = .next r ∧ r = { s with blocks := r.blocks } ∧
        (r.block (coreOf t)).bins.map Bin.members = [[x]] ∧ x.task = some k ∧ k.ts = ts ∧ k.ordered = ctl.getLsbD 0 ∧
        k.discard = ctl.getLsbD 1 ∧ k.entry = entry.setWidth 48 ∧ x.req.a = args.extractLsb' 0 32 ∧
        x.req.b = args.extractLsb' 32 32)

/-- The conflict comparison (R362, R363): kinds missing from the table conflict; a pair code with bit 0 set in either
direction conflicts always; code 2 in either direction conflicts where the first arguments are equal; else nothing does. -/
def Sys2Proof.Claims.ConflictComparison : Prop :=
  ∀ (x : Spec) (e n : Nat) (b a : Word),
    let p := x.pairs / 2 ^ (32 * e + 2 * n) % 4
    let q := x.pairs / 2 ^ (32 * n + 2 * e) % 4
    let here := x.present / 2 ^ e % 2 = 1 ∧ x.present / 2 ^ n % 2 = 1
    (¬ here → x.conflict e b n a = true) ∧ (here → (p % 2 = 1 ∨ q % 2 = 1) → x.conflict e b n a = true) ∧
    (here → p % 2 = 0 → q % 2 = 0 → (p = 2 ∨ q = 2) → x.conflict e b n a = decide (a = b)) ∧
    (here → p = 0 → q = 0 → x.conflict e b n a = false)

/-- SPEC.OP (R358, R360, R361, R388): with no entry of another task on its handle that conflicts and an ordinary entry
free, an operation whose undo record fits is admitted: the record goes to the two addresses at the undo top, the entry
joins the conflict unit, the undo top rises by 32, and the bracket opens with no word counted. -/
def Sys2Proof.Claims.AdmittedOperations : Prop :=
  ∀ (s : State) (i : Issue) (sc : Scope) (d a b : BitVec 7) (p : BitVec 3) (lit : Word) (t : Nat) (k : Task) (x : Launch)
    (pa qa mt mt' : Nat) (s1 s2 : State),
    OneActor s i sc p.toNat t → sc = .lane → (s.thr t).task = some k → k.phase = .run → k.bracket = none →
    s.launch? (s.launchOf t) = some x → s.mem.wf = true →
    let inv := s.pairReg t d.toNat
    let handle := s.pairReg t a.toNat
    let x0 := (s.pairReg t b.toNat).extractLsb' 0 32
    let y0 := (s.pairReg t b.toNat).extractLsb' 32 32
    let kind := lit.toNat % 16
    let top := k.undoTop.toNat
    let acc := access s i sc t true (.specOp kind inv handle x0 y0)
    let s0 := (s.setFlags acc).modSpec (s.launchOf t) fun z => z.count handle (s.taskKey t) kind x0
    inv.toNat % 4 = 0 → inv.toNat < 2 ^ 48 → x.spec.clashes handle (s.taskKey t) kind x0 = [] → s0.roomFor handle = true →
    top + 32 ≤ (s.thr t).sp.toNat → s0.translate t (d64 top) 16 .write false = (.ok (pa, mt), s1) →
    s1.translate t (d64 (top + 16)) 16 .write false = (.ok (qa, mt'), s2) → targetOf pa = .stack → targetOf qa = .stack →
    qa = pa + 16 →
    ∃ r y, exec (.specOp sc d a b p lit) s = .next r ∧
      (r.thr t).task = some { k with undoTop := k.undoTop + 32, bracket := some 0 } ∧
      r.launch? (s.launchOf t) = some y ∧ y.spec.ents = x.spec.ents ++
        [{ ts := k.ts, id := (s.thr t).spawnid.toNat, kind := kind, arg := x0, handle := handle, reserve := false }] ∧
      Stored s r pa (bytesOfNat 8 inv.toNat ++ bytesOfNat 4 x0.toNat ++ bytesOfNat 4 y0.toNat ++ bytesOfNat 8 handle.toNat
        ++ [BitVec.ofNat 8 kind] ++ zeros 7)

/-- The end of a bracket, an abort, a commit and a drain (R365-R367, R389): SPEC.END closes the bracket of a task, and takes
an abort whose request has waited for it; SPEC.ABORT puts the task into its abort, out of its clause; SPEC.COMMIT of an unordered task makes the
thread a non-task thread whose entries are gone, and of an ordered task with an older one live
waits; SPEC.DRAIN of a launch without a live task has its result at once. -/
def Sys2Proof.Claims.TasksEndTheirSpeculation : Prop :=
  ∀ (s : State) (i : Issue) (sc : Scope) (p : BitVec 3) (t : Nat), Setting s i → s.actors i sc p.toNat = [t] →
    (∀ k n, (s.thr t).task = some k → k.phase = .run →
      (k.bracket = some n → k.request = false → exec (.specEnd sc p) s =
        .next (s.modThr t fun th => { th with task := some { k with bracket := none } })) ∧
      (k.bracket = some n → k.request = true → exec (.specEnd sc p) s =
        .next ((s.modThr t fun th => { th with task := some { k with bracket := none } }).takeAbort t false)) ∧
      (exec (.specAbort sc p) s = .next (s.takeAbort t false)) ∧
      (((s.takeAbort t false).thr t).task).map Task.phase = some .abort ∧ (((s.takeAbort t false).thr t)).stop = none ∧
      (k.bracket = none → s.mayCommit t = true →
        exec (.specCommit sc p) s = .next
          (((((s.setFlags (access s i sc t true .specCommit)).opFor t (access s i sc t true .specCommit) 0 0
            (some [])).commitTask t).afterTasks).settle (i.group.headD 0))) ∧
      (k.bracket = none → s.mayCommit t = false → k.request = false → exec (.specCommit sc p) s =
        .next (((s.setFlags (access s i sc t true .specCommit)).opFor t (access s i sc t true .specCommit) 0 0 none).settle
          (i.group.headD 0)))) ∧
    (∀ k, (s.thr t).task = some k → ((s.commitTask t).thr t).task = none ∧
      ∀ x, s.launch? (s.launchOf t) = some x → ∃ y, (s.commitTask t).launch? (s.launchOf t) = some y ∧
        ∀ e ∈ y.spec.ents, (e.ts, e.id) ≠ s.taskKey t) ∧
    ((s.thr t).task = none → s.liveTasks (s.launchOf t) = [] → ∃ r, exec (.specDrain sc p) s = .next r ∧
      SameBytes s r ∧ SameRegs s r ∧
      (newOp s r).map (fun o => (o.thr, o.acc.acc, o.result)) = some (t, .specDrain, some []))

/-- SPEC.TABLE (R390): outside a task and with no live task the aligned read of the table goes in flight; a misaligned
address takes ALIGN, a launch with a live task BUDGET. -/
def Sys2Proof.Claims.TheConflictTableIsRead : Prop :=
  ∀ (s : State) (i : Issue) (sc : Scope) (a : BitVec 7) (p : BitVec 3) (t : Nat), OneActor s i sc p.toNat t →
    (s.thr t).task = none →
    let va := s.pairReg t a.toNat
    let who := if sc = .lane then [t] else i.group
    (s.liveTasks (s.launchOf t) ≠ [] → exec (.specTable sc a p) s =
      .next (s.raise who i.faultAt (plainFault clsBudget) (some (i.here 0)))) ∧
    (s.liveTasks (s.launchOf t) = [] → va.toNat % 16 ≠ 0 → exec (.specTable sc a p) s =
      .next (s.raise who i.faultAt { plainFault clsAlign with va := va } (some (i.here 0)))) ∧
    (∀ x y s', s.liveTasks (s.launchOf t) = [] → va.toNat % 16 = 0 →
      let acc := access s i sc t true (.specTable va)
      (issuing s acc).tablePlace t va false = (.ok (x, y), s') →
      ∃ r, exec (.specTable sc a p) s = .next r ∧ InFlight s r acc t x y none ∧ SameBytes s r ∧ SameRegs s r ∧
        r = { s' with ops := r.ops, nextOp := r.nextOp })

/-- The abort of a task (R366, R368): once its flags are clear its bracket closes. With undo records left the newest is read:
its arguments go to v0 and v1, the call stack empties, and its inverse routine starts; the routine's RET takes the record
off and goes on with the next. With none left, once the accesses that wait have left, its entries are removed, the abort
is counted, and it is discarded, its thread exiting, where DISCARD is set or the abort came from KILL; otherwise it
restarts at its entry with the registers a thread starts with, its arguments in v0 and v1. -/
def Sys2Proof.Claims.AbortedTasksRestart : Prop :=
  ∀ (s : State) (t : Nat) (k : Task), (s.thr t).task = some k →
    (k.phase = .abort → (s.thr t).live = true → (s.thr t).cf = 0 → (s.thr t).parked = false → (s.thr t).susp = false →
      s.away t = false →
      exec (.taskAbort t) s = .next (((s.modTask t fun k => { k with bracket := none }).abortNext t).settle t)) ∧
    (∀ (pa mt qa mt' : Nat) (s1 : State), (s.thr t).base.toNat < k.undoTop.toNat →
      s.undoPlaces t (k.undoTop.toNat - 32) .read = (.ok [(pa, mt), (qa, mt')], s1) →
      (∀ x ∈ [pa, qa], (targetOf x = .stack ∨ targetOf x = .cxl) ∧
        (s.wlog.all fun e => !e.touches x 8 && !e.touches (x + 8) 8) = true) →
      let bs := s.bytesAt pa 16 ++ s.bytesAt qa 16
      let r := s.abortNext t
      (r.thr t).pc = BitVec.ofNat 48 (natOfBytes (bs.take 8)) ∧ r.reg t 0 = BitVec.ofNat 32 (natOfBytes ((bs.drop 8).take 4)) ∧
      r.reg t 1 = BitVec.ofNat 32 (natOfBytes ((bs.drop 12).take 4)) ∧ (r.thr t).ret = [] ∧ (r.thr t).depth = 0 ∧
      (r.thr t).task = some { k with bracket := none, phase := .inverse } ∧ r.launches = s.launches ∧ SameBytes s r) ∧
    (∀ (i : Issue) (sc : Scope) (p : BitVec 3), Setting s i → s.actors i sc p.toNat = [t] → (s.thr t).depth = 0 →
      k.phase = .inverse → exec (.ret sc p) s =
        .next ((((s.leaveIssues [t]).modTask t fun k => { k with undoTop := k.undoTop - 32 }).abortNext t).settle
          (i.group.headD 0))) ∧
    (k.undoTop.toNat ≤ (s.thr t).base.toNat → (s.thr t).deferred = [] → s.abortNext t = (s.finishAbort t).afterTasks) ∧
    (let u := (s.removeEntries t).modSpec (s.launchOf t) fun x => { x with aborts := x.aborts + 1 }
     (∀ x, s.launch? (s.launchOf t) = some x → ∃ y, u.launch? (s.launchOf t) = some y ∧
       y.spec.aborts = x.spec.aborts + 1 ∧ ∀ e ∈ y.spec.ents, (e.ts, e.id) ≠ s.taskKey t) ∧
     ((k.discard = true ∨ k.killed = true) →
       s.finishAbort t = (u.modThr t fun th => { th with task := none }).exitThread t) ∧
     (k.discard = false → k.killed = false → s.finishAbort t = u.restartTask t)) ∧
    (let r := s.restartTask t
     (r.thr t).pc = k.entry ∧ (r.thr t).p = 0 ∧ (r.thr t).cf = 0 ∧ (r.thr t).ret = [] ∧ (r.thr t).depth = 0 ∧
     r.reg t 0 = k.a ∧ r.reg t 1 = k.b ∧ (∀ n, 2 ≤ n → n < 96 → r.reg t n = 0) ∧ (r.thr t).sp = s.stackTop t ∧
     (r.warp (warpKeyOf t)).s = [] ∧ (r.warp (warpKeyOf t)).j = [] ∧
     (r.thr t).task = some { k with undoTop := (s.thr t).base, bracket := none, request := false, phase := .run })

/-! ## Engine commands -/

/-- MMA (R258-R264, R267, R277, R278): a form whose set has at most 4 members, whose quota holds the A registers and the
scale register, whose B offset is a multiple of 16 below 262,144 and whose rows lie in the members' windows enters the
Trellis queue with its first row, B's offset, the rows of A and the scales, as the registers stand at issue: row r comes from
member r / 16 and its home lanes r % 16, for the lower half of K, and r % 16 + 16, an empty lane giving 0; the scales from
the chosen half of the scale register in the lanes of member 0. The word then completes with a next state. The checks are
made in that order, each with its class. -/
def Sys2Proof.Claims.MatrixCommandsEnterTheQueue : Prop :=
  ∀ (s : State) (i : Issue) (sc : Scope) (d a b : BitVec 7) (p : BitVec 3) (lit : Word) (t : Nat), Setting s i →
    s.actors i sc p.toNat = [t] →
    let ws := s.setMembers t
    let quota := (s.warp (warpKeyOf t)).quota
    let off := (s.reg t b.toNat).toNat
    let vs := lit.toNat % 128
    let windows := windowsOk (s.coverage .set t d.toNat 0) = true
    let keys := ws.map fun m => (s.memberKey (coreOf t) m).getD (ghostWarp (coreOf t))
    let lane := fun (m l c : Nat) => let k := keys.getD m 0 * 32 + l; if (s.thr k).live then (s.reg k c).toNat else 0
    let mma := fun (form regs : Nat) (scaled : Bool) (lits : Nat) (o : Out) =>
      let K := if form = 0 ∨ form = 7 then 64 else if form = 6 then 8 else if form = 4 ∨ form = 5 then 16 else 32
      let E := if form = 6 then 4 else if form = 4 ∨ form = 5 then 2 else 1
      let elem := fun (r k : Nat) => let j := k % (K / 2)
        lane (r / 16) (r % 16 + 16 * (k / (K / 2))) (a.toNat + j / (4 / E)) / 2 ^ (8 * E * (j % (4 / E))) % 2 ^ (8 * E)
      let trap := fun (f : MemFault) => o = .next (s.raise (if sc = .lane then [t] else i.group) i.faultAt f (some (i.here lits)))
      (4 < ws.length → trap (plainFault clsIllegalScope)) ∧
      (ws.length ≤ 4 → scaled = true → 96 ≤ vs → trap (plainFault clsIllegalOp)) ∧
      (ws.length ≤ 4 → (scaled = true → vs < 96) → (quota < a.toNat + regs ∨ (scaled = true ∧ quota ≤ vs)) →
        trap (plainFault clsRegRange)) ∧
      (ws.length ≤ 4 → (scaled = true → vs < 96 ∧ vs < quota) → a.toNat + regs ≤ quota →
        (off % 16 ≠ 0 → trap (plainFault clsAlign)) ∧
        (off % 16 = 0 → 262144 ≤ off → trap rangeFault) ∧
        (off % 16 = 0 → off < 262144 → ¬ windows → trap (plainFault clsAccWindow)) ∧
        (off % 16 = 0 → off < 262144 → windows → ∃ r, o = .next r ∧ Queued s i sc t engTrellis none (.mma form (64 * d.toNat)
          ((List.range (16 * ws.length)).map fun r => (List.range K).map fun k => elem r k) off
          (if scaled then (List.range 32).map fun l => lane 0 l vs / 2 ^ (16 * (lit.toNat / 128 % 2)) % 2 ^ 16 else [])) r))
    mma 0 8 false 0 (exec (.mmaT8 sc d a b p) s) ∧ mma 1 4 false 0 (exec (.mmaI8 sc d a b p) s) ∧
    mma 2 4 false 0 (exec (.mmaE4 sc d a b p) s) ∧ mma 3 4 false 0 (exec (.mmaE5 sc d a b p) s) ∧
    mma 4 4 false 0 (exec (.mmaBf sc d a b p) s) ∧ mma 5 4 false 0 (exec (.mmaH sc d a b p) s) ∧
    mma 6 4 false 0 (exec (.mmaF32 sc d a b p) s) ∧ mma 7 8 true 1 (exec (.mmaT8s sc d a b p lit) s) ∧
    mma 8 4 true 1 (exec (.mmaI8s sc d a b p lit) s)

/-- Accumulator commands (R266, R267, R276, R280-R283): with at most four members in the set, registers within the quota, a
selector that keeps its rules and rows inside the windows the command enters the Trellis queue with the rows, the cells or
the factors that it covers, as the registers stand at issue: at set scope each member's sixteen rows of the tile, else the
group's sixteen; lane l of a warp has row l % 16, half l / 16. The checks come in that order: ILLEGAL_SCOPE, REG_RANGE,
BUDGET, ACC_WINDOW. -/
def Sys2Proof.Claims.AccumulatorCommandsEnterTheQueue : Prop :=
  ∀ (s : State) (i : Issue) (sc : Scope) (d a b : BitVec 7) (p : BitVec 3) (t : Nat), Setting s i →
    s.actors i sc p.toNat = [t] →
    let w := (s.reg t a.toNat).toNat
    let quota := (s.warp (warpKeyOf t)).quota
    let c := coreOf t
    let many := sc = .set ∧ 4 < (s.setMembers t).length
    let tile := w / 2 ^ 16 % 256
    let group := w / 2 ^ 14 % 4
    let cp := w / 256 % 32
    let n := w % 16
    let bad := fun (rw : Bool) => w / 2 ^ 24 ≠ 0 ∨ w / 2 ^ 13 % 2 ≠ 0 ∨ w / 16 % 16 ≠ 0 ∨ (sc = .set ∧ group ≠ 0) ∨
      (rw = true ∧ ¬ (1 ≤ n ∧ n ≤ 8 ∧ cp + n ≤ 32))
    let cov : List (Nat × Nat × Word) := if sc = .set then (s.setMembers t).zipIdx.map fun m =>
        ((s.memberKey c m.1).getD (ghostWarp c), 64 * tile + 16 * m.2, (s.member c m.1).win)
      else [(warpKeyOf t, 64 * tile + 16 * group, (s.warp (warpKeyOf t)).win)]
    let inside := ∀ z ∈ cov, ∀ r, r < 16 → z.2.2.toNat % 2 ^ 13 ≤ z.2.1 + r ∧ z.2.1 + r ≤ z.2.2.toNat / 2 ^ 16 % 2 ^ 13
    let live := fun (k l : Nat) => (s.thr (k * 32 + l)).live = true
    let rows := cov.flatMap fun z => (List.range 16).map fun r => z.2.1 + r
    let lanes := cov.flatMap fun z => ((List.range 32).filter fun l => live z.1 l).map fun l => (z.1 * 32 + l, z.2.1, l)
    let targets := cov.flatMap fun z => (List.range 16).map fun r => (z.2.1 + r, [z.1 * 32 + r, z.1 * 32 + r + 16])
    let cell := fun (row l j : Nat) => 256 * (row + l % 16) + 4 * (2 * (cp + j) + l / 16)
    let command := fun (rw : Bool) (first regs : Nat) (o : Out) (body : CmdBody) =>
      let trap := fun (f : MemFault) => o = .next (s.raise (if sc = .lane then [t] else i.group) i.faultAt f (some (i.here 0)))
      let fits := regs = 0 ∨ first + regs ≤ quota
      (many → trap (plainFault clsIllegalScope)) ∧ (¬ many → ¬ fits → trap (plainFault clsRegRange)) ∧
      (¬ many → fits → bad rw → trap (plainFault clsBudget)) ∧
      (¬ many → fits → ¬ bad rw → ¬ inside → trap (plainFault clsAccWindow)) ∧
      (¬ many → fits → ¬ bad rw → inside → ∃ r, o = .next r ∧ Queued s i sc t engTrellis none body r)
    command false 0 0 (exec (.accZero sc a p) s) (.accZero rows) ∧
    command false 0 0 (exec (.accCvtF32I32 sc a p) s) (.accCvt false rows) ∧
    command false 0 0 (exec (.accCvtI32F32 sc a p) s) (.accCvt true rows) ∧
    command true d.toNat n (exec (.accRd sc d a p) s) (.accRd d.toNat (lanes.flatMap fun z =>
      (List.range n).map fun j => (z.1, d.toNat + j, cell z.2.1 z.2.2 j))) ∧
    command true d.toNat n (exec (.accWr sc d a p) s) (.accWr (lanes.flatMap fun z =>
      (List.range n).map fun j => (cell z.2.1 z.2.2 j, s.reg z.1 (d.toNat + j)))) ∧
    command false b.toNat 1 (exec (.accScale sc a b p) s) (.accScale (cov.flatMap fun z => (List.range 16).map fun r =>
      (z.2.1 + r, if (s.thr (z.1 * 32 + r)).live then s.reg (z.1 * 32 + r) b.toNat else 0x3F800000))) ∧
    command false d.toNat 1 (exec (.rowmax sc d a p) s) (.rowFold false d.toNat targets) ∧
    command false d.toNat 1 (exec (.rowsum sc d a p) s) (.rowFold true d.toNat targets)

/-- Loads of weights and drains (R260, R267, R270-R272, R279, R286, R287): operands that keep the rules enter the Trellis
queue, and others take, in this order, for WLOAD: ALIGN, RANGE, NONCANON; for a drain: ILLEGAL_SCOPE for a set of more than
four; BUDGET for a control word with reserved bits or an unknown format, a residual of a 32-bit format, or a stride below 64
elements; ALIGN; RANGE for a residual in the scratchpad or a destination past it; ACC_WINDOW. -/
def Sys2Proof.Claims.WeightLoadsAndDrainsEnterTheQueue : Prop :=
  ∀ (s : State) (i : Issue) (sc : Scope) (d a b : BitVec 7) (p : BitVec 3) (t : Nat), Setting s i →
    s.actors i sc p.toNat = [t] →
    let trap := fun (o : Out) (f : MemFault) =>
      o = .next (s.raise (if sc = .lane then [t] else i.group) i.faultAt f (some (i.here 0)))
    (let w := (s.reg t d.toNat).toNat
     let src := s.pairReg t a.toNat
     let n := (s.reg t b.toNat).toNat
     let o := exec (.wload sc d a b p) s
     let aligned := w % 16 = 0 ∧ src.toNat % 16 = 0 ∧ n % 16 = 0
     (¬ aligned → trap o (plainFault clsAlign)) ∧ (aligned → 262144 < w + n → trap o rangeFault) ∧
     (aligned → w + n ≤ 262144 → 2 ^ 48 ≤ src.toNat → trap o { causeFault clsAccess causeNoncanon with va := src }) ∧
     (aligned → w + n ≤ 262144 → src.toNat < 2 ^ 48 →
       ∃ r, o = .next r ∧ Queued s i sc t engTrellis none (.wload w src.toNat n) r)) ∧
    (let dst := (s.pairReg t a.toNat).toNat
     let stride := (s.reg t (a.toNat + 2)).toNat
     let ctl := (s.reg t (a.toNat + 3)).toNat
     let res := (s.pairReg t (a.toNat + 4)).toNat
     let has := ctl % 2 = 1
     let fmt := ctl / 256 % 8
     let tile := ctl / 2 ^ 16 % 256
     let size := if fmt ≤ 1 then 4 else if fmt = 2 then 2 else 1
     let count := if sc = .set then 16 * (s.setMembers t).length else 64
     let many := sc = .set ∧ 4 < (s.setMembers t).length
     let budget := ctl / 2 ^ 24 ≠ 0 ∨ ctl / 2 ^ 11 % 32 ≠ 0 ∨ ctl / 2 % 128 ≠ 0 ∨ 4 < fmt ∨ (has ∧ fmt ≤ 1) ∨ stride < 64 * size
     let aligned := dst % 16 = 0 ∧ stride % 16 = 0 ∧ (has → res % 64 = 0)
     let range := (has ∧ 2 ^ 63 ≤ res) ∨ (2 ^ 63 ≤ dst ∧ dst / 2 ^ 32 % 2 ^ 31 ≠ 0)
     let drain := fun (add : Bool) (o : Out) =>
       (many → trap o (plainFault clsIllegalScope)) ∧ (¬ many → budget → trap o (plainFault clsBudget)) ∧
       (¬ many → ¬ budget → ¬ aligned → trap o (plainFault clsAlign)) ∧
       (¬ many → ¬ budget → aligned → range → trap o rangeFault) ∧
       (¬ many → ¬ budget → aligned → ¬ range → s.drainOk sc t tile = false → trap o (plainFault clsAccWindow)) ∧
       (¬ many → ¬ budget → aligned → ¬ range → s.drainOk sc t tile = true → ∃ r, o = .next r ∧ Queued s i sc t engTrellis none
         (.tstore add ((List.range count).map fun r => (r, 64 * tile + r)) dst stride fmt (if has then some res else none)) r)
     drain false (exec (.tstore sc a p) s) ∧ drain true (exec (.tstoreAdd sc a p) s))

/-- Windows (R266, R284, R285): WINSET stores an acceptable window word in every warp of its mask, and in no spawned warp,
and takes BUDGET where the word's reserved bits are not 0 or it admits a row past the accumulator; WINGET reads the window of a warp number, and
an empty window past the block's warps. -/
def Obligations.AccumulatorWindows : Prop :=
  ∀ (s : State) (i : Issue) (sc : Scope) (d a b : BitVec 7) (p : BitVec 3), Setting s i →
    (∀ t, s.actors i sc p.toNat = [t] →
      let c := coreOf t
      let w := (s.reg t a.toNat).toNat
      let base := w % 2 ^ 13
      let limit := w / 2 ^ 16 % 2 ^ 13
      let mask := (s.pairReg t b.toNat).toNat
      let bad := w / 2 ^ 29 ≠ 0 ∨ w / 2 ^ 13 % 8 ≠ 0 ∨ (base ≤ limit ∧ 64 * (s.block c).acc ≤ limit)
      ((bad ∨ 2 ^ (s.block c).nwarps ≤ mask) → exec (.winset sc a b p) s = .next (s.raise
        (if sc = .lane then [t] else i.group) i.faultAt (plainFault clsBudget) (some (i.here 0)))) ∧
      (¬ bad → mask < 2 ^ (s.block c).nwarps → (s.block c).nwarps ≤ 63 → ∃ r, exec (.winset sc a b p) s = .next r ∧
        r = { s with warps := r.warps, blocks := r.blocks } ∧ SameRegs s r ∧
        (∀ n, n < 63 → r.member c n =
          if mask / 2 ^ n % 2 = 1 then { s.member c n with win := s.reg t a.toNat } else s.member c n) ∧
        (∀ k, (s.warp k).spawned = true → r.warp k = s.warp k) ∧
        ∀ k, (r.warp k).spawned = (s.warp k).spawned)) ∧
    (allowed sc d → plain a → WritesReg s i sc p.toNat d.toNat (fun k =>
      let n := (s.reg k a.toNat).toNat % 256
      if n < (s.block (coreOf k)).nwarps then (s.member (coreOf k) n).win else 1)
      (exec (.winget sc d a p) s))

/-- Copies and Filigree's commands (R247, R251, R288-R291): operands that keep the rules enter the copy unit's or
Filigree's queue with the guard of their control word; misaligned ones take ALIGN, a control word with reserved bits
BUDGET, a COPY.X24 that does not go to the scratchpad RANGE, a FIL.RUN of a slot that cannot run BUDGET. A FIL.RUN's guard is that of the descriptor its slot holds when it
starts. FIL.STOP stands no slice's turn: it goes in flight, and the slice or waiting FIL.RUN of its slot goes no
further. -/
def Sys2Proof.Claims.CopiesAndSlicesEnterTheirQueues : Prop :=
  ∀ (s : State) (i : Issue) (sc : Scope) (a b : BitVec 7) (p : BitVec 3) (lit : Word) (t : Nat), Setting s i →
    s.actors i sc p.toNat = [t] →
    let src := (s.pairReg t a.toNat).toNat
    let dst := (s.pairReg t (a.toNat + 2)).toNat
    let n := (s.reg t (a.toNat + 4)).toNat
    let ctl := (s.reg t (a.toNat + 5)).toNat
    let aux := (s.pairReg t (a.toNat + 6)).toNat
    let guard := if ctl / 128 % 2 = 1 then some (ctl % 8) else none
    let trap := fun (lits : Nat) (o : Out) (f : MemFault) =>
      o = .next (s.raise (if sc = .lane then [t] else i.group) i.faultAt f (some (i.here lits)))
    (let o := exec (.copy sc a p) s
     ((ctl / 256 ≠ 0 ∨ ctl / 8 % 16 ≠ 0) → trap 0 o (plainFault clsBudget)) ∧
     (ctl / 256 = 0 → ctl / 8 % 16 = 0 → (src % 4 ≠ 0 ∨ dst % 4 ≠ 0 ∨ n % 4 ≠ 0) → trap 0 o (plainFault clsAlign)) ∧
     (ctl / 256 = 0 → ctl / 8 % 16 = 0 → src % 4 = 0 → dst % 4 = 0 → n % 4 = 0 → badScr src = false → badScr dst = false →
       ∃ r, o = .next r ∧ Queued s i sc t engCopy guard (.copy src dst n) r)) ∧
    (let o := exec (.copyX24 sc a p) s
     let e := if ctl / 256 % 2 = 1 then 2 else 1
     ((ctl / 512 ≠ 0 ∨ ctl / 8 % 16 ≠ 0) → trap 0 o (plainFault clsBudget)) ∧
     (ctl / 512 = 0 → ctl / 8 % 16 = 0 → (n % 8 ≠ 0 ∨ src % e ≠ 0 ∨ dst % 4 ≠ 0) → trap 0 o (plainFault clsAlign)) ∧
     (ctl / 512 = 0 → ctl / 8 % 16 = 0 → n % 8 = 0 → src % e = 0 → dst % 4 = 0 → dst < 2 ^ 63 → trap 0 o rangeFault) ∧
     (ctl / 512 = 0 → ctl / 8 % 16 = 0 → n % 8 = 0 → src % e = 0 → dst % 4 = 0 → 2 ^ 63 ≤ dst → badScr src = false →
       badScr dst = false → badScr aux = false → ∃ r, o = .next r ∧ Queued s i sc t engCopy guard (.x24 src dst n aux e) r)) ∧
    (let o := exec (.filLoad sc a p lit) s
     let slot := lit.toNat % 4
     (src % 16 ≠ 0 → trap 1 o { plainFault clsAlign with va := s.pairReg t a.toNat }) ∧
     (src % 16 = 0 → s.runOf (coreOf t) slot ≠ none → trap 1 o (plainFault clsBudget)) ∧
     (src % 16 = 0 → s.runOf (coreOf t) slot = none → ∃ r, o = .next r ∧ Queued s i sc t engFil none (.filLoad src slot) r)) ∧
    (b.toNat < 4 → s.runnable (coreOf t) b.toNat = none → trap 0 (exec (.filRun sc b p) s) (plainFault clsBudget)) ∧
    (b.toNat < 4 → s.runnable (coreOf t) b.toNat ≠ none →
      ∃ r, exec (.filRun sc b p) s = .next r ∧ Queued s i sc t engFil none (.filRun b.toNat) r) ∧
    (b.toNat < 4 → Free s i sc t → ∃ r, exec (.filStop sc b p) s = .next r ∧ SameBytes s r ∧ SameRegs s r ∧
      (newOp s r).map (fun o => (o.thr, o.acc.flag, o.result)) = some (t, i.flag, some []) ∧
      (r.engq (coreOf t) engFil).map Cmd.op = (s.engq (coreOf t) engFil).map Cmd.op ∧
      ((r.engq (coreOf t) engFil).all fun x => x.body ≠ .filRun b.toNat || x.halting) = true)

/-- Operand queues (R243, R246, R292, R293): QCFG with EN 0 disables a queue that no slice feeds, and with EN 1 sets it up
empty where its size code, depth, base and area keep the rules; one that a slice feeds takes BUDGET; QSTAT reads the
queue's fields and the elements held in the thread's own ring. -/
def Sys2Proof.Claims.OperandQueues : Prop :=
  ∀ (s : State) (i : Issue) (sc : Scope) (d a : BitVec 7) (q : BitVec 2) (en sgn : BitVec 1) (z : BitVec 2) (l : BitVec 3),
    Setting s i →
    (∀ t, s.actors i sc 0 = [t] →
      let c := coreOf t
      let base := (s.reg t a.toNat).toNat
      let size := 32 * 2 ^ l.toNat * 2 ^ z.toNat
      let o := exec (.qcfg sc a q en sgn z l) s
      (s.fed c q.toNat = true → o = .next (s.raise (if sc = .lane then [t] else i.group) i.faultAt (plainFault clsBudget)
        (some (i.here 0)))) ∧
      (s.fed c q.toNat = false → en = 0 → ∃ r, o = .next r ∧ r = { s with blocks := r.blocks } ∧
        ((r.block c).queue q.toNat).en = false) ∧
      (s.fed c q.toNat = false → en = 1 → z.toNat ≠ 3 → l.toNat ≠ 0 → base % 128 = 0 →
        base + size ≤ 16384 * (s.block c).scr → (∀ n, n < 4 → n ≠ q.toNat → ((s.block c).queue n).en = false) →
        ∃ r, o = .next r ∧ r = { s with blocks := r.blocks } ∧ (r.block c).queue q.toNat =
          { en := true, fin := false, esz := z.toNat, sgn := sgn = 1, log2d := l.toNat, base := base, heads := []
            tails := [] })) ∧
    (allowed sc d → WritesReg s i sc 0 d.toNat (fun k =>
      let x := (s.block (coreOf k)).queue q.toNat
      BitVec.ofNat 32 ((if x.en then 2 ^ 31 else 0) + (if x.fin then 2 ^ 30 else 0) + x.esz * 2 ^ 28
        + (if x.sgn then 2 ^ 27 else 0) + x.log2d * 2 ^ 24 + (x.tails.get (laneOf k) 0 - x.heads.get (laneOf k) 0) % 2 ^ 16))
      (exec (.qstat sc d q) s))

/-- Pops of operand queues (R244, R245): a source that is the port of an enabled queue takes the oldest element of the
thread's own ring, extended as the queue says, and advances the ring's head by one; a disabled queue is ILLEGAL_OP, and an
empty ring, or one marked short, ACCESS with cause RANGE. A MOV from the port writes the element to D. -/
def Sys2Proof.Claims.QueuePortsPop : Prop :=
  ∀ (s : State) (i : Issue) (t k : Nat) (d a : BitVec 7) (p : BitVec 3), Setting s i → k < 4 → a.toNat = 124 + k → d.toNat < 96 →
    s.actors i .lane p.toNat = [t] →
    let q := (s.block (coreOf t)).queue k
    let h := laneOf t
    let n := q.heads.get h 0
    let e := 2 ^ q.esz
    let bs := s.bytesAt (scratchAddr (coreOf t) (q.base + n % 2 ^ q.log2d * (32 * e) + h * e)) e
    let trap := fun (f : MemFault) => exec (.mov .lane d a p) s = .next (s.raise [t] i.faultAt f (some (i.here 0)))
    (q.en = false → trap (plainFault clsIllegalOp)) ∧
    (q.en = true → (i.short.contains t = true ∨ q.tails.get h 0 ≤ n) → trap rangeFault) ∧
    (q.en = true → i.short.contains t = false → n < q.tails.get h 0 →
      ∃ r, exec (.mov .lane d a p) s = .next r ∧
        r.reg t d.toNat = (if q.sgn then BitVec.ofInt 32 (sextI (natOfBytes bs) (8 * e)) else BitVec.ofNat 32 (natOfBytes bs)) ∧
        (r.block (coreOf t)).queue k = { q with heads := q.heads.put h (n + 1) } ∧ SameBytes s r)

/-- The dependence graph (R249, R250, R294): GNODE, GEDGE, GARM, GARM.CLR and GWAIT enter the walker's queue. While the
graph is armed each but GWAIT takes BUDGET at issue, and so does, while the walker is idle, a command that the graph does
not allow; GNODE of a misaligned record takes ALIGN. -/
def Sys2Proof.Claims.GraphCommandsEnterTheQueue : Prop :=
  ∀ (s : State) (i : Issue) (sc : Scope) (d a b : BitVec 7) (p : BitVec 3) (lit : Word) (t : Nat), Setting s i →
    s.actors i sc p.toNat = [t] →
    let bk := s.block (coreOf t)
    let idle := s.engq (coreOf t) engGraph = []
    let trap := fun (lits : Nat) (o : Out) (f : MemFault) =>
      o = .next (s.raise (if sc = .lane then [t] else i.group) i.faultAt f (some (i.here lits)))
    let word := fun (lits : Nat) (o : Out) (ok : Bool) (body : CmdBody) =>
      ((bk.armed = true ∨ (idle ∧ ok = false)) → trap lits o (plainFault clsBudget)) ∧
      (bk.armed = false → (¬ idle ∨ ok = true) → ∃ r, o = .next r ∧ Queued s i sc t engGraph none body r)
    let addr : Dword := s.pairReg t a.toNat + BitVec.ofInt 64 lit.toInt
    let u := (s.reg t a.toNat).toNat
    let v := (s.reg t b.toNat).toNat
    (addr.toNat % 8 ≠ 0 → trap 1 (exec (.gnode sc d a p lit) s) { plainFault clsAlign with va := addr }) ∧
    (addr.toNat % 8 = 0 → word 1 (exec (.gnode sc d a p lit) s) true (.gnode addr.toNat d.toNat)) ∧
    word 0 (exec (.gedge sc a b p) s) (edgeOk bk.graph u v) (.gedge u v) ∧
    word 0 (exec (.garm sc p) s) (!cyclic bk.graph) .garm ∧
    word 0 (exec (.garmClr sc p) s) true .garmClr ∧
    ∃ r, exec (.gwait sc p) s = .next r ∧ Queued s i sc t engGraph none .gwait r

/-- Guards and engine status (R251, R269, R295, R296): GSET sets the guard slot to UNRESOLVED, TRUE or FALSE and no other
slot, and changes nothing else where no graph is armed and the walker is idle. ENG.STAT writes D with the status word of
Trellis, of the copy unit, of Filigree or of the graph walker. -/
def Sys2Proof.Claims.GuardsAndEngineStatus : Prop :=
  ∀ (s : State) (i : Issue) (sc : Scope) (d : BitVec 7) (v : BitVec 2) (g : BitVec 3) (n : BitVec 10) (t : Nat),
    Setting s i → sc ≠ .lane → s.actors i sc 0 = [t] →
    (v ≠ 3 → ∃ r, exec (.gset sc v g) s = .next r ∧ SameBytes s r ∧ SameRegs s r ∧
        ((s.block (coreOf t)).armed = false → s.engq (coreOf t) engGraph = [] → r = { s with blocks := r.blocks }) ∧
        (r.block (coreOf t)).guards.get g.toNat 0 = v.toNat ∧
        ∀ n, n ≠ g.toNat → (r.block (coreOf t)).guards.get n 0 = (s.block (coreOf t)).guards.get n 0) ∧
    (n.toNat < 4 → 96 ≤ d.toNat →
      let b := s.block (coreOf t)
      let busy := fun (e : Nat) => if s.engq (coreOf t) e = [] then 0 else 1
      let word := match n.toNat with
        | 0 => b.tstat + busy engTrellis
        | 1 => (if b.x24err then 2 else 0) + busy engCopy
        | 2 => ((List.range 4).map fun k => (if s.runOf (coreOf t) k ≠ none then 16 * 2 ^ k else 0)
            + if b.slots.find k ≠ none then 2 ^ k else 0).sum
        | _ => (if b.armed then 2 ^ 17 + (b.graph.filter fun x => x.phase ≠ 2).length else 0)
            + (if b.gdone then 2 ^ 16 else 0) + b.graph.length * 256
      ∃ r, exec (.engStat sc d n) s = .next r ∧ SameBytes s r ∧
        (∀ k c, c < 96 → r.reg k c = s.reg k c) ∧
        ∀ w, r.warp w = if w ∈ s.dstWarps i t ∧ d.toNat < 120
          then { s.warp w with s := (s.warp w).s.put (d.toNat - 96) (BitVec.ofNat 32 word) } else s.warp w)

/-- Engines run their queues in order (R239, R268, R280, R281): with nothing held, the start of Trellis's oldest command
has its whole effect and the command leaves the queue: ACC.ZERO clears every element of its rows, ACC.WR stores its words;
every other accumulator byte is unchanged. A guarded copy whose slot is FALSE is discarded, and one whose slot is
UNRESOLVED waits; so does a FIL.RUN by the guard of the descriptor that its slot holds then. -/
def Sys2Proof.Claims.EnginesRunTheirQueuesInOrder : Prop :=
  (∀ (s : State) (c : Nat) (x : Cmd) (q : List Cmd) (rows : List Nat), s.enginesRun c = true →
    s.engq c engTrellis = x :: q → x.stopped = false → x.held = false → x.body = .accZero rows → s.accm.wf = true →
    ∃ w : State, exec (.engineCommandStart c 0) s = .next ((w.completeCmd c engTrellis x).settle x.thr) ∧
      w = { s with accm := w.accm } ∧ (∀ r ∈ rows, ∀ col, col < 64 → w.accWord c r col = 0) ∧
      (∀ a, (∀ r ∈ rows, a < c * 2 ^ 24 + 256 * r ∨ c * 2 ^ 24 + 256 * r + 256 ≤ a) → w.accm.read a = s.accm.read a)) ∧
  (∀ (s : State) (c : Nat) (x : Cmd) (q : List Cmd) (a : Nat) (v : Word), s.enginesRun c = true →
    s.engq c engTrellis = x :: q → x.stopped = false → x.held = false → x.body = .accWr [(a, v)] → s.accm.wf = true →
    ∃ w : State, exec (.engineCommandStart c 0) s = .next ((w.completeCmd c engTrellis x).settle x.thr) ∧
      w = { s with accm := w.accm } ∧ BitVec.ofNat 32 (w.accm.num (c * 2 ^ 24 + a) 4) = v ∧
      ∀ b, (b < c * 2 ^ 24 + a ∨ c * 2 ^ 24 + a + 4 ≤ b) → w.accm.read b = s.accm.read b) ∧
  (∀ (s : State) (c g : Nat) (x : Cmd) (q : List Cmd), s.enginesRun c = true → s.engq c engCopy = x :: q →
    x.stopped = false → x.held = false → x.started = false → x.guard = some g →
    ((s.block c).guards.get g 0 = 0 → exec (.engineCommandStart c 1) s = .next (s.settle x.thr)) ∧
    ((s.block c).guards.get g 0 = 2 → exec (.engineCommandStart c 1) s =
      .next ((s.completeCmd c engCopy x).settle x.thr))) ∧
  (∀ (s : State) (c slot g : Nat) (x : Cmd) (q : List Cmd) (d : SliceDesc), s.enginesRun c = true →
    s.engq c engFil = x :: q → x.stopped = false → x.held = false → x.started = false → x.halting = false → x.body = .filRun slot →
    (s.block c).slots.find slot = some d → d.guard = some g →
    ((s.block c).guards.get g 0 = 0 → exec (.engineCommandStart c 2) s = .next (s.settle x.thr)) ∧
    ((s.block c).guards.get g 0 = 2 → exec (.engineCommandStart c 2) s =
      .next ((s.completeCmd c engFil x).settle x.thr))) ∧
  (∀ (s : State) (c e : Nat) (x : Cmd), (∀ o, s.ops.find x.op = some o → o.acc.acc.ordering = false) →
    (((s.completeCmd c e x).engq c e).all fun y => y.op ≠ x.op) = true)

/-- Slices and graph nodes (R242, R250): a started slice whose next element reads and has room delivers exactly that
element: the scratchpad takes its bytes at SDST + n × ESZ and its progress rises by one; a node of the graph that has not
been launched does nothing at its finish; and neither moves, nor does an engine start a command, while the block's launch is
not running or a drain of its virtual device is under way (R253, R386). -/
def Sys2Proof.Claims.SlicesAndGraphNodesAdvance : Prop :=
  (∀ (s : State) (c slot : Nat) (x : Cmd) (d : SliceDesc) (bs : List Byte) (s' : State), s.enginesRun c = true →
    s.runOf c slot = some x → (s.block c).slots.find slot = some d → x.started = true → x.stopped = false →
    x.halting = false →
    d.toScratch = true → s.scratch.wf = true → x.thr / 4096 = c →
    d.addr x.progress % 2 ^ d.esz = 0 → s.engGlobal x pathCopy (d.addr x.progress) (2 ^ d.esz) = (.ok bs, s') →
    s'.scratch = s.scratch → s'.blocks = s.blocks → bs.length = 2 ^ d.esz →
    d.sdst + (x.progress + 1) * 2 ^ d.esz ≤ 16384 * (s.block c).scr → x.progress + 1 < d.total →
    ∃ r, exec (.sliceElementDelivery c slot) s = .next r ∧
      r.bytesAt (scratchAddr c (d.sdst + x.progress * 2 ^ d.esz)) (2 ^ d.esz) = bs ∧
      (∀ y ∈ r.engq c engFil, y.op = x.op → y.progress = x.progress + 1)) ∧
  (∀ (s : State) (c n : Nat) (g : GNode) (x : Cmd), s.enginesRun c = true → (s.block c).garm = some x →
    (s.block c).graph[n]? = some g → g.phase ≠ 1 → s.engq c engGraph = [] →
    exec (.graphNodeFinish c n) s = .next (s.settle x.thr)) ∧
  (∀ (s : State) (c n : Nat), (s.blockRuns c = false ∨ s.drains (s.block c).vdev = true) →
    exec (.graphNodeFinish c n) s = .next s ∧ exec (.sliceElementDelivery c n) s = .next s ∧
    exec (.engineCommandStart c n) s = .next s)

/-! ## What the engines do with their commands -/

/-- A command stands first in the queue of a core's engine, which works and is not held, and its block is the core's; no
storage has an uncorrectable error. -/
def Sys2Proof.Claims.AtHead (s : State) (c e : Nat) (x : Cmd) (body : CmdBody) : Prop :=
  s.enginesRun c = true ∧ (∃ q, s.engq c e = x :: q) ∧ x.stopped = false ∧ x.held = false ∧ x.halting = false ∧
    x.started = false ∧ x.progress = 0 ∧ x.acc.again = false ∧ x.body = body ∧ coreOf x.thr = c ∧ s.poison = []

/-- The engine's next start runs the command whole: `w` holds its effect, and the command leaves the queue with its flag. -/
def Sys2Proof.Claims.Runs (s : State) (c e : Nat) (x : Cmd) (w : State) : Prop :=
  exec (.engineCommandStart c e) s = .next ((w.completeCmd c e x).settle x.thr)

/-- The number of an E4 or E5 byte (R256). -/
def Sys2Proof.Claims.narrowValue (e m w : ℕ) : ℚ :=
  let x : ℕ := w / 2 ^ m % 2 ^ e
  let f : ℕ := w % 2 ^ m
  (if w / 128 % 2 = 1 then -1 else 1)
    * (if x = 0 then (f : ℚ) / 2 ^ (2 ^ (e - 1) - 1 + m) else (2 ^ m + (f : ℚ)) * 2 ^ x / 2 ^ (2 ^ (e - 1) + m))

/-- `r` is the E4 or E5 byte nearest to `x`, of two the even one; past the largest the largest (R257). -/
def Sys2Proof.Claims.narrowRounded (e m : ℕ) (x : ℚ) (r : ℕ) : Prop :=
  r < 256 ∧ r ≠ 128 ∧ ∀ w, w < 256 → w ≠ 128 → |narrowValue e m r - x| ≤ |narrowValue e m w - x| ∧
    (|narrowValue e m r - x| = |narrowValue e m w - x| → narrowValue e m w = narrowValue e m r ∨ r % 2 = 0)

/-- Accumulator commands at their turn (R268, R280-R283): ACC.RD writes each cell's word into its register, where the
thread still holds it; ACC.SCALE multiplies each element of a row by the row's factor, rounded to nearest; ACC.CVT rounds
each between an integer and F32; ROWMAX and ROWSUM write a row's greatest element and its exact sum, rounded once, into
the registers of its lanes. Nothing else changes. -/
def Sys2Proof.Claims.AccumulatorCommandsCompute : Prop :=
  ∀ (s : State) (c : Nat) (x : Cmd), s.accm.wf = true →
    let md : Modes := { rz := false, daz := false, trans := 0 }
    let kept := fun (w : State) (rows : List Nat) => w = { s with accm := w.accm } ∧
      ∀ a, (∀ r ∈ rows, a < c * 2 ^ 24 + 256 * r ∨ c * 2 ^ 24 + 256 * r + 256 ≤ a) → w.accm.read a = s.accm.read a
    (∀ d cells, AtHead s c engTrellis x (.accRd d cells) → (cells.map fun p => (p.1, p.2.1)).Nodup →
      ∃ w, Runs s c engTrellis x w ∧ w = { s with threads := w.threads } ∧
        (∀ p ∈ cells, p.2.1 < s.resultLimit p.1 x.acc →
          (w.thr p.1).v.get p.2.1 0 = BitVec.ofNat 32 (s.accm.num (c * 2 ^ 24 + p.2.2) 4)) ∧
        ∀ k n, (∀ p ∈ cells, (p.1, p.2.1) ≠ (k, n)) → (w.thr k).v.get n 0 = (s.thr k).v.get n 0) ∧
    (∀ cells, AtHead s c engTrellis x (.accWr cells) → (cells.map Prod.fst).Nodup → (∀ p ∈ cells, p.1 % 4 = 0) →
      ∃ w, Runs s c engTrellis x w ∧ w = { s with accm := w.accm } ∧
        (∀ p ∈ cells, BitVec.ofNat 32 (w.accm.num (c * 2 ^ 24 + p.1) 4) = p.2) ∧
        ∀ a, (∀ p ∈ cells, a < c * 2 ^ 24 + p.1 ∨ c * 2 ^ 24 + p.1 + 4 ≤ a) → w.accm.read a = s.accm.read a) ∧
    (∀ rows, AtHead s c engTrellis x (.accZero rows) → ∃ w, Runs s c engTrellis x w ∧ kept w rows ∧
      ∀ r ∈ rows, ∀ col, col < 64 → w.accWord c r col = 0) ∧
    (∀ fs, AtHead s c engTrellis x (.accScale fs) → (fs.map Prod.fst).Nodup → ∃ w, Runs s c engTrellis x w ∧
      kept w (fs.map Prod.fst) ∧ ∀ p ∈ fs, ∀ col, col < 64 → w.accWord c p.1 col = fmul md (s.accWord c p.1 col) p.2) ∧
    (∀ toInt rows, AtHead s c engTrellis x (.accCvt toInt rows) → rows.Nodup → ∃ w, Runs s c engTrellis x w ∧
      kept w rows ∧ ∀ r ∈ rows, ∀ col, col < 64 → w.accWord c r col =
        if toInt then cvtValue md 0 2 false (s.accWord c r col) else cvtValue md 2 0 false (s.accWord c r col)) ∧
    (∀ sum d rows, AtHead s c engTrellis x (.rowFold sum d rows) → (rows.flatMap Prod.snd).Nodup →
      ∃ w, Runs s c engTrellis x w ∧ w = { s with threads := w.threads } ∧
        (∀ k n, (n ≠ d ∨ ∀ p ∈ rows, k ∉ p.2) → (w.thr k).v.get n 0 = (s.thr k).v.get n 0) ∧
        ∀ p ∈ rows, ∀ k ∈ p.2, d < s.resultLimit k x.acc →
          let r := (w.thr k).v.get d 0
          let cell := fun (col : Nat) => s.accWord c p.1 col
          let y := ((List.range 64).map fun col => f32Value (cell col)).sum
          (sum = false → r = ((List.range 64).map cell).foldl (fminmax md true) 0x7FC00000) ∧
          (sum = true → (∀ col, col < 64 → f32Finite (cell col)) → (y ≠ 0 → f32Rounded false y r) ∧
            (y = 0 → r = if ((List.range 64).all fun col => cell col == 0x80000000) = true then 0x80000000 else 0)) ∧
          (sum = true → (∃ col, col < 64 ∧ 0x7F800000 < (cell col).toNat % 2 ^ 31) → r = 0x7FC00000))

/-- The products of an MMA at its turn (R255, R256, R258, R261, R263, R264): every element of its rows takes the sum over K
of A's element times B's, B read from the dense lines of its records. An integer form adds the exact sum modulo 2^32 and sets
OVF where a group of eight passes the range; any other form rounds the exact sum of each group of eight once, a scaled one
times its columns' scale, and adds it to the element, rounded again. A NaN operand gives the canonical NaN. The invalid T8
byte sets FMTERR, a bad record WFMT; every other row keeps its bytes. -/
def Sys2Proof.Claims.ProductsAccumulate : Prop :=
  ∀ (s : State) (c : Nat) (x : Cmd) (form row0 off : Nat) (a : List (List Nat)) (scales dense : List Nat) (bad : Bool),
    AtHead s c engTrellis x (.mma form row0 a off scales) → s.accm.wf = true → form < 9 →
    let t8 := form = 0 ∨ form = 7
    let K := if t8 then 64 else if form = 6 then 8 else if form = 4 ∨ form = 5 then 16 else 32
    let E := if form = 6 then 4 else if form = 4 ∨ form = 5 then 2 else 1
    (∀ r ∈ a, r.length = K) →
    denseLines (fun o n => s.wbuf.readN (c * 2 ^ 24 + o) n) off (if t8 then 13 else 32) = some (dense, bad) →
    let md : Modes := { rz := false, daz := false, trans := 0 }
    let codeA := fun (r k : Nat) => (a.getD r []).getD k 0
    let codeB := fun (k col : Nat) =>
      ((List.range E).map fun i => dense.getD ((col * K + k) * E + i) 0 * 256 ^ i).sum
    let intA := fun (r k : Nat) => (BitVec.ofNat 8 (codeA r k)).toInt
    let intB := fun (k col : Nat) =>
      let y := dense.getD (13 * col + k / 5) 0
      if t8 then (if 243 ≤ y then (0 : ℤ) else if y / 3 ^ (k % 5) % 3 = 0 then 0 else if y / 3 ^ (k % 5) % 3 = 1 then 1 else -1)
      else (BitVec.ofNat 8 (codeB k col)).toInt
    let ints := fun (r col lo n : Nat) => ((List.range n).map fun k => intA r (lo + k) * intB (lo + k) col).sum
    let nan := fun (w : ℕ) => if form = 2 ∨ form = 3 then w % 256 = 128
      else if form = 4 then fltNan 8 7 w else if form = 5 then fltNan 5 10 w else fltNan 8 23 w
    let finite := fun (w : ℕ) => if form = 2 ∨ form = 3 then w % 256 ≠ 128
      else if form = 4 then fltFinite 8 7 w else if form = 5 then fltFinite 5 10 w else fltFinite 8 23 w
    let value := fun (w : ℕ) => if form = 2 then narrowValue 4 3 w else if form = 3 then narrowValue 5 2 w
      else if form = 4 then fltValue 8 7 w else if form = 5 then fltValue 5 10 w else fltValue 8 23 w
    let neg := fun (w : ℕ) => w / 2 ^ (8 * E - 1) % 2 = 1
    let old := fun (r col : Nat) => s.accWord c (row0 + r) col
    ∃ w, Runs s c engTrellis x w ∧ w = { s with accm := w.accm, blocks := w.blocks } ∧
      (∀ b, (∀ r, r < a.length → b < c * 2 ^ 24 + 256 * (row0 + r) ∨ c * 2 ^ 24 + 256 * (row0 + r) + 256 ≤ b) →
        w.accm.read b = s.accm.read b) ∧
      (let bit := fun (n : Nat) => (w.block c).tstat / 2 ^ n % 2 = 1
       let was := fun (n : Nat) => (s.block c).tstat / 2 ^ n % 2 = 1
       (bit 1 ↔ was 1 ∨ (t8 ∧ ∃ y ∈ dense, 243 ≤ y)) ∧ (bit 3 ↔ was 3 ∨ bad = true) ∧
       (bit 2 ↔ was 2 ∨ (form ≤ 1 ∧ ∃ r col j, r < a.length ∧ col < 64 ∧ j < K / 8 ∧
        let t := (BitVec.ofInt 32 ((old r col).toInt + ints r col 0 (8 * j))).toInt + ints r col (8 * j) 8
        (t < -2 ^ 31 ∨ 2 ^ 31 ≤ t)))) ∧
      ∀ r col, r < a.length → col < 64 →
        (form ≤ 1 → w.accWord c (row0 + r) col = BitVec.ofInt 32 ((old r col).toInt + ints r col 0 K)) ∧
        (1 < form → ∃ g : ℕ → Word,
          w.accWord c (row0 + r) col = (List.range (K / 8)).foldl (fun acc j => fadd md acc (g j)) (old r col) ∧
          ∀ j, j < K / 8 →
            (7 ≤ form → let sc := scales.getD (col / 2) 0
              (fltFinite 8 7 sc → fltIs 8 23 false (ints r col (8 * j) 8 * fltValue 8 7 sc) false (g j).toNat) ∧
              (fltNan 8 7 sc → g j = 0x7FC00000)) ∧
            (form < 7 → let ks := (List.range 8).map fun k => 8 * j + k
              let y := (ks.map fun k => value (codeA r k) * value (codeB k col)).sum
              ((∃ k ∈ ks, nan (codeA r k) ∨ nan (codeB k col)) → g j = 0x7FC00000) ∧
              ((∀ k ∈ ks, finite (codeA r k) ∧ finite (codeB k col)) → (y ≠ 0 → fltRounded 8 23 false y (g j).toNat) ∧
                (y = 0 → (g j = 0x80000000 ↔ ∀ k ∈ ks, value (codeA r k) * value (codeB k col) = 0 ∧
                  ¬ (neg (codeA r k) ↔ neg (codeB k col))) ∧ (g j = 0x80000000 ∨ g j = 0)))))

/-- Records of the weight buffer (R248, R262): RAW gives its 64 bytes, ZERO zeros, FILL copies of one byte, a header from 5 on
zeros and WFMT; a 2:4 record puts the two kept elements of each group of four at the places that its nibble names, and zeros
and WFMT where the nibble is invalid. -/
def Sys2Proof.Claims.RecordsDecode : Prop :=
  ∀ body : List Byte,
    recLine (0 :: body) = (body.map BitVec.toNat, false) ∧ recLine (1 :: body) = (List.replicate 64 0, false) ∧
    (∀ b, recLine (4 :: b :: body) = (List.replicate 64 b.toNat, false)) ∧
    (∀ h : Byte, 5 ≤ h.toNat → recLine (h :: body) = (List.replicate 64 0, true)) ∧
    (let nib := fun (g : Nat) => (body.getD (32 + g / 2) 0).toNat / 16 ^ (g % 2) % 16
     let place := fun (g i v u : Nat) => let p := nib g % 4; let q := nib g / 4
       if q ≤ p then 0 else if i = p then v else if i = q then u else 0
     (body.length = 40 → let r := recLine (2 :: body)
       r.1.length = 64 ∧ (r.2 = true ↔ ∃ g, g < 16 ∧ nib g / 4 ≤ nib g % 4) ∧
       ∀ g i, g < 16 → i < 4 →
         r.1.getD (4 * g + i) 0 = place g i (body.getD (2 * g) 0).toNat (body.getD (2 * g + 1) 0).toNat) ∧
     (body.length = 36 → let r := recLine (3 :: body)
       let half := fun (n : Nat) => (body.getD (2 * n) 0).toNat + 256 * (body.getD (2 * n + 1) 0).toNat
       r.1.length = 64 ∧ (r.2 = true ↔ ∃ g, g < 8 ∧ nib g / 4 ≤ nib g % 4) ∧
       ∀ g i, g < 8 → i < 4 → r.1.getD (8 * g + 2 * i) 0 + 256 * r.1.getD (8 * g + 2 * i + 1) 0 =
         place g i (half (2 * g)) (half (2 * g + 1))))

/-- WLOAD and drains at their turn (R260, R268, R270-R272): WLOAD writes the bytes of its source, 16 at a time in order, into
the weight buffer; a drain into the scratchpad writes each element at destination + row × stride + column × size in its
format, or adds it there. A residual takes what the rounding lost. -/
def Sys2Proof.Claims.WeightsLoadAndTilesDrain : Prop :=
  (∀ (s : State) (c : Nat) (x : Cmd) (d src n : Nat) (st : Nat → State) (pa : Nat → Nat),
    AtHead s c engTrellis x (.wload d src n) → n % 16 = 0 → s.wbuf.wf = true → st 0 = s →
    (∀ k, k < n / 16 → ∃ u mt, (st k).translate x.thr (BitVec.ofNat 64 (src + 16 * k)) 16 .read false = (.ok (pa k, mt), u) ∧
      (targetOf (pa k) = .stack ∨ targetOf (pa k) = .cxl) ∧ (u.wlog.all fun e => !e.touches (pa k) 16) = true ∧
      st (k + 1) = { u with wbuf := u.wbuf.writeN (c * 2 ^ 24 + d + 16 * k) (u.bytesAt (pa k) 16) }) →
    ∃ y : Cmd, exec (.engineCommandStart c engTrellis) s = .next (((st (n / 16)).completeCmd c engTrellis y).settle x.thr) ∧
      y.op = x.op ∧ y.wrote = x.wrote ∧ SameBytes s (st (n / 16)) ∧
      ∀ k, k < n / 16 → (st (n / 16)).wbuf.readN (c * 2 ^ 24 + d + 16 * k) 16 = s.bytesAt (pa k) 16) ∧
  (∀ (s : State) (c : Nat) (x : Cmd) (add : Bool) (rows : List (Nat × Nat)) (dst stride fmt : Nat),
    AtHead s c engTrellis x (.tstore add rows (2 ^ 63 + dst) stride fmt none) → fmt < 5 → s.scratch.wf = true →
    let size := if fmt ≤ 1 then 4 else if fmt = 2 then 2 else 1
    64 * size ≤ stride → (rows.map Prod.fst).Nodup →
    (∀ p ∈ rows, dst + p.1 * stride + 64 * size ≤ 16384 * (s.block c).scr) → 16384 * (s.block c).scr ≤ 2 ^ 24 →
    ∃ (w : State) (y : Cmd), exec (.engineCommandStart c engTrellis) s = .next ((w.completeCmd c engTrellis y).settle x.thr) ∧ y.op = x.op ∧
      w = { s with scratch := w.scratch, wlog := w.wlog, serial := w.serial } ∧
      (∀ a, (∀ p ∈ rows, a < scratchAddr c (dst + p.1 * stride) ∨ scratchAddr c (dst + p.1 * stride) + 64 * size ≤ a) →
        w.byteAt a = s.byteAt a) ∧
      ∀ p ∈ rows, ∀ col, col < 64 →
        let acc := s.accWord c p.2 col
        let place := scratchAddr c (dst + p.1 * stride + col * size)
        let r := natOfBytes (w.bytesAt place size)
        let was := natOfBytes (s.bytesAt place size)
        let md : Modes := { rz := false, daz := false, trans := 0 }
        (fmt = 0 → r = if add then (fadd md (BitVec.ofNat 32 was) acc).toNat else acc.toNat) ∧
        (fmt = 1 → r = if add then (was + acc.toNat) % 2 ^ 32 else acc.toNat) ∧
        (2 ≤ fmt → ∃ q, (add = false → r = q) ∧
          (fmt = 2 → (f32Finite acc → fltIs 8 7 false (f32Value acc) (acc.getLsbD 31) q) ∧
            (add = true → fltFused 8 7 was 0x3F80 (some q) r)) ∧
          (2 < fmt → let e := if fmt = 3 then 4 else 5
            let m := if fmt = 3 then 3 else 2
            (f32Finite acc → narrowRounded e m (f32Value acc) q) ∧
            (0x7F800000 < acc.toNat % 2 ^ 31 → q = 128) ∧
            (acc.toNat % 2 ^ 31 = 0x7F800000 → q = if acc.getLsbD 31 then 0xFF else 0x7F) ∧
            (add = true → was ≠ 128 → q ≠ 128 → narrowRounded e m (narrowValue e m was + narrowValue e m q) r)))) ∧
  (∀ (acc res : Word) (fmt : Nat), 2 ≤ fmt → fmt < 5 →
    let md : Modes := { rz := false, daz := false, trans := 0 }
    let x := fadd md acc res
    let r := drainElem fmt acc (some res)
    let v := if fmt = 2 then fltValue 8 7 r.1 else if fmt = 3 then narrowValue 4 3 r.1 else narrowValue 5 2 r.1
    f32Finite x → (fmt = 2 → fltFinite 8 7 r.1) →
      (fmt = 2 → fltIs 8 7 false (f32Value x) (x.getLsbD 31) r.1) ∧ (fmt = 3 → narrowRounded 4 3 (f32Value x) r.1) ∧
      (fmt = 4 → narrowRounded 5 2 (f32Value x) r.1) ∧
      (f32Value x - v = 0 → f32Value r.2 = 0) ∧ (f32Value x - v ≠ 0 → f32Rounded false (f32Value x - v) r.2))

/-- Copies at their turn (R247, R248, R288, R289): a copy within the scratchpad leaves its destination with the source's
bytes and nothing else changed; any COPY runs its units of four bytes in order, of which one between addresses of memory
leaves its destination with the source's bytes; COPY.X24 leaves each group of four with its two kept elements at the places that the
group's nibble names and zeros elsewhere, and sets the error bit of an invalid group. -/
def Sys2Proof.Claims.CopiesMoveTheirBytes : Prop :=
  ∀ (s : State) (c : Nat) (x : Cmd) (src dst n : Nat), x.guard = none → s.scratch.wf = true →
    let lim := 16384 * (s.block c).scr
    let quiet := fun (lo len : Nat) => (s.wlog.all fun e => !e.touches (scratchAddr c lo) len) = true
    lim ≤ 2 ^ 24 →
    (AtHead s c engCopy x (.copy (2 ^ 63 + src) (2 ^ 63 + dst) n) → n % 4 = 0 → src % 4 = 0 → dst % 4 = 0 → src + n ≤ lim →
      dst + n ≤ lim → (src + n ≤ dst ∨ dst + n ≤ src) → quiet src n →
      ∃ (w : State) (y : Cmd), exec (.engineCommandStart c engCopy) s = .next ((w.completeCmd c engCopy y).settle x.thr) ∧ y.op = x.op ∧
        w = { s with scratch := w.scratch, wlog := w.wlog, serial := w.serial } ∧
        Stored s w (scratchAddr c dst) (s.bytesAt (scratchAddr c src) n)) ∧
    (∀ aux e, AtHead s c engCopy x (.x24 (2 ^ 63 + src) (2 ^ 63 + dst) n (2 ^ 63 + aux) e) → (e = 1 ∨ e = 2) → n % 8 = 0 →
      src % e = 0 → dst % 4 = 0 → src + n / 2 * e ≤ lim → dst + n * e ≤ lim → aux + n / 8 ≤ lim →
      (src + n / 2 * e ≤ dst ∨ dst + n * e ≤ src) → (aux + n / 8 ≤ dst ∨ dst + n * e ≤ aux) → quiet src (n / 2 * e) →
      quiet aux (n / 8) →
      let byte := fun (o : Nat) => (s.byteAt (scratchAddr c o)).toNat
      let nib := fun (g : Nat) => byte (aux + g / 2) / 16 ^ (g % 2) % 16
      ∃ (w : State) (y : Cmd), exec (.engineCommandStart c engCopy) s = .next ((w.completeCmd c engCopy y).settle x.thr) ∧ y.op = x.op ∧
        (∀ a, (a < scratchAddr c dst ∨ scratchAddr c dst + n * e ≤ a) → w.byteAt a = s.byteAt a) ∧
        ((w.block c).x24err = true ↔ (s.block c).x24err = true ∨ ∃ g, g < n / 4 ∧ nib g / 4 ≤ nib g % 4) ∧
        ∀ g i, g < n / 4 → i < 4 → let p := nib g % 4; let q := nib g / 4
          w.bytesAt (scratchAddr c (dst + (4 * g + i) * e)) e =
            if q ≤ p then zeros e else if i = p then s.bytesAt (scratchAddr c (src + 2 * g * e)) e
            else if i = q then s.bytesAt (scratchAddr c (src + (2 * g + 1) * e)) e else zeros e) ∧
    (∀ (st : Nat → State) (y : Nat → Cmd) (ws : Nat → List Nat), AtHead s c engCopy x (.copy src dst n) → st 0 = s →
      y 0 = { x with started := true } → (∀ k, k < n / 4 → copyUnit src dst (st k) (y k) k = (.ok (ws k), st (k + 1)) ∧
        y (k + 1) = (y k).advance (ws k)) →
      exec (.engineCommandStart c engCopy) s =
        .next (((st (n / 4)).completeCmd c engCopy (y (n / 4))).settle x.thr)) ∧
    (∀ (k pb mb : Nat) (bs : List Byte) (u v : State), v.mem.wf = true → dst + 4 * k < 2 ^ 63 →
      s.engLoad x pathCopy ((src + 4 * k) % 2 ^ 64) 4 = (.ok bs, u) →
      u.translate x.thr (BitVec.ofNat 64 (dst + 4 * k)) bs.length .write false x.acc.again = (.ok (pb, mb), v) →
      (targetOf pb = .stack ∨ targetOf pb = .cxl) →
      ∃ ws w, copyUnit src dst s x k = (.ok ws, w) ∧ Stored v w pb bs) ∧
    (∀ (va pa mt : Nat) (u : State), va < 2 ^ 63 →
      s.translate x.thr (BitVec.ofNat 64 va) 4 .read false x.acc.again = (.ok (pa, mt), u) →
      (targetOf pa = .stack ∨ targetOf pa = .cxl) → (u.wlog.all fun e => !e.touches pa 4) = true →
      (s.engLoad x pathCopy va 4).1 = .ok (u.bytesAt pa 4))

/-- Filigree at its turn (R240-R243, R245, R290, R291): FIL.LOAD puts the descriptor of its 80 bytes into its slot, or takes
BUDGET where they break the rules; FIL.RUN starts its slice on a queue that can take it; an element for a queue goes to the
next place of its home lane's ring, whose count rises by one; the last element ends the slice with END on its queue, and so
does FIL.STOP, after which no FIL.RUN that it reached is left. -/
def Sys2Proof.Claims.FiligreeRunsItsCommands : Prop :=
  (∀ (s : State) (c : Nat) (x : Cmd) (addr slot : Nat) (bs : List Byte) (s1 : State), AtHead s c engFil x (.filLoad addr slot) →
    s.engUnits x pathCopy addr 8 10 = (.ok bs, s1) →
    (sliceOf bs = none → exec (.engineCommandStart c engFil) s =
      .next ((s1.stopCmd c engFil x (plainFault clsBudget)).settle x.thr)) ∧
    (∀ d, sliceOf bs = some d → ∃ w, Runs s c engFil x w ∧ w = { s1 with blocks := w.blocks } ∧
      (w.block c).slots.find slot = some d)) ∧
  (∀ (bs : List Byte) (d : SliceDesc), bs.length = 80 → sliceOf bs = some d →
    let num := fun (o n : Nat) => natOfBytes ((bs.drop o).take n)
    let len := num 13 1
    d.base = num 0 8 ∧ d.sdst = num 8 4 ∧ (d.toScratch = true ↔ num 12 1 % 2 = 1) ∧ d.qnum = num 12 1 / 2 % 4 ∧
    d.esz = num 12 1 / 8 % 4 ∧ d.esz ≠ 3 ∧ d.guard = (if num 14 1 / 128 % 2 = 1 then some (num 14 1 % 8) else none) ∧
    1 ≤ len ∧ len ≤ 5 ∧ d.counts = (List.range len).map (fun k => num (16 + 12 * k) 4) ∧
    d.strides = (List.range len).map (fun k => num (20 + 12 * k) 8) ∧ (∀ n ∈ d.counts, 1 ≤ n ∧ n ≤ 2 ^ 24) ∧
    ∀ n, d.addr n = (d.base + ((List.range len).map fun k =>
      n / ((d.counts.take k).foldl (· * ·) 1) % d.counts.getD k 1 * d.strides.getD k 0).sum) % 2 ^ 64) ∧
  (∀ (s : State) (c slot : Nat) (x : Cmd) (d : SliceDesc), AtHead s c engFil x (.filRun slot) →
    (s.block c).slots.find slot = some d → (d.guard = none ∨ ∃ g, d.guard = some g ∧ (s.block c).guards.get g 0 = 1) →
    s.sliceOn c slot = none → (d.toScratch = true ∨ (((s.block c).queue d.qnum).en = true ∧ s.fed c d.qnum = false)) →
    exec (.engineCommandStart c engFil) s = .next ((s.putCmd c engFil { x with started := true }).settle x.thr)) ∧
  (∀ (s : State) (c slot : Nat) (x : Cmd) (d : SliceDesc) (bs : List Byte) (s1 : State), s.enginesRun c = true →
    s.sliceOn c slot = some x → (s.block c).slots.find slot = some d → x.stopped = false → x.halting = false →
    d.toScratch = false → s.scratch.wf = true → coreOf x.thr = c → d.addr x.progress % 2 ^ d.esz = 0 →
    s.engGlobal x pathCopy (d.addr x.progress) (2 ^ d.esz) = (.ok bs, s1) → s1.scratch = s.scratch → s1.blocks = s.blocks →
    bs.length = 2 ^ d.esz →
    let q := (s.block c).queue d.qnum
    let h := x.progress % 32
    let tl := q.tails.get h 0
    tl - q.heads.get h 0 < 2 ^ q.log2d →
    ∃ w : State, (w.block c).queue d.qnum = { q with tails := q.tails.put h (tl + 1) } ∧
      w.bytesAt (scratchAddr c (q.base + tl % 2 ^ q.log2d * (32 * 2 ^ q.esz) + h * 2 ^ q.esz)) (2 ^ d.esz) = bs ∧
      (x.progress + 1 < d.total → ∃ y : Cmd, y.op = x.op ∧ y.progress = x.progress + 1 ∧
        exec (.sliceElementDelivery c slot) s = .next (w.putCmd c engFil y)) ∧
      (d.total ≤ x.progress + 1 → ∃ y : Cmd, y.op = x.op ∧
        exec (.sliceElementDelivery c slot) s = .next (((w.setEnd c slot).completeCmd c engFil y).settle x.thr) ∧
        (((w.setEnd c slot).block c).queue d.qnum).fin = true)) ∧
  (∀ (s : State) (id slot : Nat) (o : Op), s.ops.find id = some o → s.away o.thr = false → o.acc.acc = .filStop slot →
    o.result = some [] → let c := coreOf o.thr
    ∃ w : State, exec (.operationComplete id) s = .next (((w.retire id o).eretTest c).settle o.thr) ∧
      (∀ y ∈ w.engq c engFil, y.body = .filRun slot → y.halting = false) ∧
      (∀ d, (s.block c).slots.find slot = some d → d.toScratch = false →
        (∃ y ∈ s.engq c engFil, y.body = .filRun slot ∧ y.halting = true) → ((w.block c).queue d.qnum).fin = true))

/-- The graph walker at its turn (R249, R250, R252, R294): GNODE appends the node of its record and writes its number to D;
GEDGE adds the edge; GARM counts each node's incoming edges and launches those with none; GARM.CLR empties the graph; GWAIT
completes once no graph runs. A launched node that finishes takes one from the count of each successor, launches those that
reach none, and ends the graph when it was the last. -/
def Sys2Proof.Claims.TheGraphRuns : Prop :=
  (∀ (s : State) (c : Nat) (x : Cmd),
    let b := s.block c
    let does := fun (w : State) =>
      exec (.engineCommandStart c engGraph) s = .next (((w.completeCmd c engGraph x).wakeGwait c).settle x.thr)
    (∀ addr d bs s1, AtHead s c engGraph x (.gnode addr d) → b.armed = false → b.graph.length < 64 →
      s.engUnits x pathCopy addr 8 4 = (.ok bs, s1) → s1.blocks = s.blocks → bs.length = 32 → 96 ≤ d → d < 120 →
      (nodeOk bs = false → exec (.engineCommandStart c engGraph) s =
        .next (((s1.stopCmd c engGraph x (plainFault clsBudget)).wakeGwait c).settle x.thr)) ∧
      (nodeOk bs = true → ∃ w g, does w ∧ (w.block c).graph = b.graph ++ [g] ∧
        g.kind = (bs.getD 0 0).toNat ∧ g.count = natOfBytes ((bs.drop 4).take 4) ∧ g.src = natOfBytes ((bs.drop 8).take 8) ∧
        g.dst = natOfBytes ((bs.drop 16).take 8) ∧ g.aux = natOfBytes ((bs.drop 24).take 8) ∧ g.succ = [] ∧
        ∀ k ∈ s1.landWarps x.thr x.acc, (w.warp k).s.get (d - 96) 0 = BitVec.ofNat 32 b.graph.length)) ∧
    (∀ u v g, AtHead s c engGraph x (.gedge u v) → b.armed = false → b.graph[u]? = some g → v < b.graph.length →
      v ∉ g.succ → g.succ.length < 8 → ∃ w, does w ∧ (w.block c).graph.length = b.graph.length ∧
        ∀ n, (w.block c).graph[n]? = if n = u then some { g with succ := g.succ ++ [v] } else b.graph[n]?) ∧
    (AtHead s c engGraph x .garm → b.armed = false → cyclic b.graph = false → (∀ g ∈ b.graph, g.guard = none) →
      ∃ w, does w ∧ (w.block c).garm = some x ∧ ((w.block c).armed = true ↔ b.graph ≠ []) ∧
        ((w.block c).gdone = true ↔ b.graph = []) ∧ ∀ n g, b.graph[n]? = some g →
          let left := (b.graph.filter fun y => y.succ.contains n).length
          ∃ y, (w.block c).graph[n]? = some y ∧ y.left = left ∧ y.phase = (if left = 0 then 1 else 0) ∧ y.progress = 0 ∧
            y.succ = g.succ) ∧
    (AtHead s c engGraph x .garmClr → b.armed = false → ∃ w, does w ∧ (w.block c).graph = [] ∧
      (w.block c).garm = none ∧ (w.block c).armed = false) ∧
    (AtHead s c engGraph x .gwait → (b.armed = true → exec (.engineCommandStart c engGraph) s = .next (s.settle x.thr)) ∧
      (b.armed = false → ∃ w : State, exec (.engineCommandStart c engGraph) s = .next (w.settle x.thr) ∧
        ∀ y ∈ w.engq c engGraph, y.op ≠ x.op))) ∧
  (∀ (s : State) (c n : Nat) (g : GNode) (x : Cmd), s.enginesRun c = true → (s.block c).armed = true →
    (s.block c).garm = some x → (s.block c).graph[n]? = some g → g.phase = 1 → g.stopped = false →
    (g.kind = 4 → (s.grant (s.tagOf x.thr).1).2 ≤ 2 ^ 19 → g.src < (s.grant (s.tagOf x.thr).1).2 →
      s.proxyFor (s.tagOf x.thr).1 g.src = none → s.turning (s.tagOf x.thr).1 g.src = false →
      ∃ w : State, exec (.graphNodeFinish c n) s = .next (((w.nodeDone c n []).wakeGwait c).settle x.thr) ∧
        ∃ ws, w = s.hubSignal (s.tagOf x.thr).1 g.src (g.count ≠ 0) (BitVec.ofNat 64 g.dst) ws) ∧
    (∀ (st : Nat → State) (y : Nat → Cmd) (ws : Nat → List Nat), g.kind = 1 → copyAligned g.src g.dst g.count = true →
      g.progress = 0 → st 0 = s → y 0 = { x with progress := 0, wrote := g.wrote, acc := { x.acc with again := g.again } } →
      (∀ k, k < g.count / 4 → copyUnit g.src g.dst (st k) (y k) k = (.ok (ws k), st (k + 1)) ∧
        y (k + 1) = (y k).advance (ws k)) →
      exec (.graphNodeFinish c n) s = .next (((((st (g.count / 4)).modNode c n fun z =>
        { z with wrote := (y (g.count / 4)).wrote }).nodeDone c n []).wakeGwait c).settle x.thr))) ∧
  (∀ (s : State) (c n : Nat) (g : GNode), (s.block c).armed = true → (s.block c).graph[n]? = some g → g.phase = 1 →
    g.succ.Nodup → n ∉ g.succ → (∀ y ∈ (s.block c).graph, y.guard = none) →
    (∀ (m : Nat) (y : GNode), (s.block c).graph[m]? = some y → y.phase = 0 → y.left = 0 → False) →
    let r := (s.nodeDone c n []).block c
    (∃ y : GNode, r.graph[n]? = some y ∧ y.phase = 2) ∧
    (∀ (m : Nat) (y : GNode), m ≠ n → (s.block c).graph[m]? = some y → ∃ z : GNode, r.graph[m]? = some z ∧
      z.left = y.left - (if m ∈ g.succ then 1 else 0) ∧
      z.phase = if y.phase = 0 ∧ m ∈ g.succ ∧ y.left ≤ 1 then 1 else y.phase) ∧
    (r.gdone = true ↔ ∀ m y, m ≠ n → (s.block c).graph[m]? = some y → y.phase = 2) ∧
    (r.armed = true ↔ ∃ m y, m ≠ n ∧ (s.block c).graph[m]? = some y ∧ y.phase ≠ 2))

/-! ## Drawing -/

/-- Triangles and staged attributes (R304, R331): in an open pass PRIM.EMIT reads the three vertices from nine
registers. A dropped triangle only clears the staged words; one that fits the binner's room joins the pass with its
staged words, and one that does not takes BUDGET. ATTR.EMIT stages word 16 × V + K. A thread of a spawned warp, and a
vertex number 3, take ILLEGAL_OP. -/
def Sys2Proof.Claims.TrianglesAndAttributesAreEmitted : Prop :=
  ∀ (s : State) (i : Issue) (sc : Scope) (a : BitVec 7) (v : BitVec 2) (k : BitVec 4) (p : BitVec 3) (t : Nat), Setting s i →
    s.actors i sc p.toNat = [t] → plain a →
    let l := s.launchOf t
    let ws := s.regRun t a.toNat 9
    let trap := fun (cls : Nat) => Host.Outcome.next (s.raise (if sc = .lane then [t] else i.group) i.faultAt
      (plainFault cls) (some (i.here 0)))
    (s.isSpawned t = true → exec (.primEmit sc a p) s = trap clsIllegalOp) ∧
    ((s.isSpawned t = true ∨ v = 3) → exec (.attrEmit sc a v k p) s = trap clsIllegalOp) ∧
    (s.isSpawned t = false → v ≠ 3 → exec (.attrEmit sc a v k p) s = .next (s.modThr t fun th =>
      { th with staged := th.staged.put (16 * v.toNat + k.toNat) (s.reg t a.toNat) })) ∧
    ∀ q, s.isSpawned t = false → s.passOf l = some q →
      let need := 48 + 12 * q.vars + 8 * (q.touched ws).length
      (dropped q.cull ws = true →
        exec (.primEmit sc a p) s = .next (s.modThr t fun th => { th with staged := [] })) ∧
      (dropped q.cull ws = false → q.binsz < q.binUsed + need → exec (.primEmit sc a p) s = trap clsBudget) ∧
      (dropped q.cull ws = false → q.binUsed + need ≤ q.binsz → ∃ r, exec (.primEmit sc a p) s = .next r ∧
        r.passOf l = some { q with prims := q.prims ++ [⟨ws, (s.thr t).stagedWords q.vars⟩], binUsed := q.binUsed + need } ∧
        (r.thr t).staged = [] ∧ r = { s with launches := r.launches, blocks := r.blocks, threads := r.threads } ∧
        SameRegs s r)

/-- Coverage (R305): of the two triangles that share an edge, in opposite directions, exactly one covers a centre that
lies on the line of the edge or to one side of it as far as the edge decides; and a triangle covers no pixel outside the
bounds of its vertices. -/
def Sys2Proof.Claims.ASharedEdgeIsCoveredOnce : Prop :=
  (∀ (a b p : Pt), a ≠ b → edgeCovers b a p = !edgeCovers a b p) ∧
  (∀ (ws : List Word) (x y : Nat), areaOf ws ≠ 0 → covers ws x y = true →
    (∃ i, i < 3 ∧ (ptAt ws i).x ≤ (centre x y).x) ∧ (∃ i, i < 3 ∧ (centre x y).x ≤ (ptAt ws i).x) ∧
    (∃ i, i < 3 ∧ (ptAt ws i).y ≤ (centre x y).y) ∧ (∃ i, i < 3 ∧ (centre x y).y ≤ (ptAt ws i).y))

/-- Fragment words (R309, R310, R332, R335-R337): in a thread that carries no fragment each takes ILLEGAL_OP. In a
fragment's thread ATTR.IN reads an interpolated word or the depth, TB.LD reads a tile word, TB.ST writes one, TB.BLEND
blends over or onto the colour word, DEPTH.T compares with the depth word and writes it where it passes and the pass
writes depth, and FRAG.KILL ends the thread as EXIT does. -/
def Obligations.FragmentWords : Prop :=
  ∀ (s : State) (i : Issue) (sc : Scope) (d a : BitVec 7) (w1 : BitVec 1) (c pd p : BitVec 3) (t : Nat),
    OneActor s i sc p.toNat t → plain a → s.mem.wf = true →
    let x := s.reg t a.toNat
    let trap := Host.Outcome.next (s.raise (if sc = .lane then [t] else i.group) i.faultAt
      (plainFault clsIllegalOp) (some (i.here 0)))
    let reads := fun (o : Out) (acc : Acc) (w : Word) => ∃ r, o = .next r ∧ SameBytes s r ∧ SameRegs s r ∧
      InFlight s r (access s i sc t true acc) t 0 0 (some [w])
    ((s.thr t).frag = none →
      exec (.attrIn sc d a p) s = trap ∧ exec (.tbLd sc d w1 p) s = trap ∧ exec (.tbSt sc a w1 p) s = trap ∧
      exec (.tbBlend sc a p) s = trap ∧ exec (.depthT sc c pd a p) s = trap ∧
      exec (.fragKill sc p) s = .next ((s.raise (if sc = .lane then [t] else i.group) i.faultAt
        (plainFault clsIllegalOp) (some (i.here 0))).settle (i.group.headD 0))) ∧
    (∀ f q, (s.thr t).frag = some f → s.passOf (s.launchOf t) = some q →
      (16 < a.toNat → exec (.attrIn sc d a p) s = trap) ∧
      (a.toNat < 16 → reads (exec (.attrIn sc d a p) s) (.attrIn a.toNat d.toNat) (f.attrs.getD a.toNat 0)) ∧
      (a.toNat = 16 → reads (exec (.attrIn sc d a p) s) (.attrIn 16 d.toNat) f.z) ∧
      reads (exec (.tbLd sc d w1 p) s) (.tbLd w1.toNat d.toNat) (s.tbWord t w1.toNat) ∧
      (∃ r, exec (.tbSt sc a w1 p) s = .next r ∧ r.tbWord t w1.toNat = x ∧ SameRegs s r ∧
        r.tbWord t (1 - w1.toNat) = s.tbWord t (1 - w1.toNat)) ∧
      (∃ r, exec (.tbBlend sc a p) s = .next r ∧ r.tbWord t 0 = blendWord q.blendAdd x (s.tbWord t 0) ∧
        SameRegs s r ∧ r.tbWord t 1 = s.tbWord t 1) ∧
      (let ok := depthPass c.toNat x (s.tbWord t 1)
       ∃ r, exec (.depthT sc c pd a p) s = .next r ∧ SameRegs s r ∧ r.tbWord t 0 = s.tbWord t 0 ∧
        r.tbWord t 1 = (if ok && q.zwrite then x else s.tbWord t 1) ∧
        (newOp s r).map (fun o => (o.thr, o.acc, o.result)) =
          some (t, access s i sc t true (.depthT c.toNat pd.toNat x), some [if ok then 1 else 0])) ∧
      ((s.thr t).task = none → exec (.fragKill sc p) s = .next ((s.exitThread t).settle (i.group.headD 0)))) ∧
    (∀ (n : Nat) (u w : Word), n < 4 → chanOf (blendWord true u w) n = min (chanOf u n + chanOf w n) 255 ∧
      (n < 3 → chanOf (blendWord false u w) n = (chanOf u n * chanOf u 3 + chanOf w n * (255 - chanOf u 3) + 127) / 255) ∧
      chanOf (blendWord false u w) 3 = (chanOf u 3 * 255 + chanOf w 3 * (255 - chanOf u 3) + 127) / 255)

/-- Textures and ownership queries (R318, R333, R338): a lane whose decision is denied reads a quad of zeros; one that
may read gets the sample of its form at its coordinates; HALL.Q answers the state of the ownership map or of the grants
as they stand. -/
def Obligations.TexturesAndOwnershipQueries : Prop :=
  ∀ (s : State) (i : Issue) (sc : Scope) (d a : BitVec 7) (p : BitVec 3) (lit : Word) (t : Nat), OneActor s i sc p.toNat t →
    let h := lit.toNat % 2 ^ 16
    let ch := lit.toNat / 2 ^ 16 % 4
    let v := (s.tagOf t).1
    let u := s.pairReg t a.toNat
    let tex := fun (form : Nat) (o : Out) =>
      ((s.texDenied v (s.ownerOf t) h).isSome = true → ∃ r, o = .next r ∧ SameRegs s r ∧
        (newOp s r).map (fun o => (o.thr, o.acc.flag, o.result)) = some (t, i.flag, some [0, 0, 0, 0])) ∧
      (∀ x ws s', s.texDenied v (s.ownerOf t) h = none → surfOf (s.bezel.surf h) = some x →
        let acc := access s i sc t true (.tex form (s.bezel.surf h) (loW u) (hiW u) ch d.toNat)
        (issuing s acc).sample t form x (loW u) (hiW u) ch = (.ok ws, s') →
        o = .next (s'.opFor t acc 0 0 (some ws)))
    let reads := fun (o : Out) (acc : Acc) (w : Word) => ∃ r, o = .next r ∧ SameBytes s r ∧ SameRegs s r ∧
      InFlight s r (access s i sc t true acc) t 0 0 (some [w])
    tex 0 (exec (.texS sc d a p lit) s) ∧ tex 1 (exec (.texL sc d a p lit) s) ∧ tex 2 (exec (.texF sc d a p lit) s) ∧
    tex 3 (exec (.texG sc d a p lit) s) ∧
    reads (exec (.hallQPix sc d a p) s) (.hallPix u d.toNat) (s.hallPix v (s.ownerOf t) (loW u) (hiW u)) ∧
    (plain a → reads (exec (.hallQGrant sc d a p) s) (.hallGrant (s.reg t a.toNat) d.toNat)
      (s.hallGrant v (s.ownerOf t) (s.reg t a.toNat)))

/-- Tesserae (R306, R308, R311): with the geometry ended a block's next tessera starts with every tile word at its clear
value, the colour of a screen target at 0; with every fragment exited its resolve ends and frees the tile, unless a raster
fault stands; a pixel's write puts the tile word at its place in the surface. -/
def Obligations.TesseraeStartAndResolve : Prop :=
  ∀ (s : State) (c : Nat) (x : Launch) (q : Pass),
    s.drains (s.block c).vdev = false → s.launch? (s.block c).launch = some x → x.pass = some q → x.phase = .running →
    (s.block c).rfault = none → q.finished = false →
    let screen := ((surfOf (s.entryFor x.vdev q.targetH)).map Surf.screen).getD false
    (∀ n, (s.block c).binWork = [] → (s.block c).tile = none → s.nextTessOf c x q = some n → s.geometryDone x = true →
      s.bezel.fills = [] → s.mem.wf = true →
      let b := s.beginTile c x q n
      exec (.tilePassStart c) s = .next (b.startTile c q) ∧ (b.block c).tile.map Tile.tess = some n ∧
      (b.block c).nextTess = (s.block c).nextTess + 1 ∧
      ∀ k, k < 1024 → b.tbGet c q 0 k = (if screen then 0 else q.clearc) ∧ b.tbGet c q 1 k = q.clearz) ∧
    (∀ z, (s.block c).tile = some z → z.started = true → z.pend = [] → s.fragsLeft c = false →
      ∃ r, exec (.tesseraResolve c) s = .next r ∧ ((r.block c).rfault = none → (r.block c).tile = none) ∧
        (z.unit = 0 → s.mayWrite c z.target = none → (r.block c).rfault = none →
          r.passOf (s.block c).launch = some { q with targeterr := true, logged := true })) ∧
    (∀ half f xy pa mt s1, s.mem.wf = true → f.pixel xy.1 xy.2 % 4096 ≤ 4092 →
      s.stage2Place (s.rootOf (rasterThread c)) (f.pixel xy.1 xy.2) 4 .write = (.ok (pa, mt), s1) →
      (targetOf pa = .stack ∨ targetOf pa = .cxl) →
      ∃ s', s.resolveUnit c q (.pixel half f xy) = (none, s') ∧
        Stored s s' pa (bytesOfWord (s.tbGet c q half (pixNo xy))))

/-! ## System words -/

/-- System registers (R374-R376): the agent reaches numbers 0-4, 16-23, 32-36, 48 and 49, a handler 0-4 and 23, and any
other number takes ILLEGAL_OP. SRD writes the register into a pair; SWR changes a register that its reader may write, and
leaves a read-only one. -/
def Obligations.SystemRegisters : Prop :=
  ∀ (s : State) (i : Issue) (sc : Scope) (d a : BitVec 7) (n : BitVec 10) (t : Nat), Setting s i →
    s.actors i sc 0 = [t] →
    let k := n.toNat
    let c := coreOf t
    let v := (s.tagOf t).1
    let w := s.pairReg t a.toNat
    let both : List Nat := [0, 1, 2, 3, 4, 23]
    let agents : List Nat := [16, 17, 18, 19, 20, 21, 22, 32, 33, 34, 35, 36, 48, 49]
    let reached := k ∈ both ∨ (isAgent t = true ∧ k ∈ agents)
    let trap := Host.Outcome.next (s.raise (if sc = .lane then [t] else i.group) i.faultAt
      (plainFault clsIllegalOp) (some (i.here 0)))
    let reads := fun (x : Dword) =>
      (sc = .lane → d.toNat + 1 < 96 → ∃ r, exec (.srd sc d n) s = .next r ∧ r = { s with threads := r.threads } ∧
        r.thr t = { s.thr t with v := ((s.thr t).v.put d.toNat (loW x)).put (d.toNat + 1) (hiW x) } ∧
        ∀ m, m ≠ t → r.thr m = s.thr m) ∧
      (sc ≠ .lane → 96 ≤ d.toNat → d.toNat + 1 < 120 → ∃ r, exec (.srd sc d n) s = .next r ∧
        r = { s with warps := r.warps } ∧ ∀ m, if m ∈ s.dstWarps i t
          then (r.warp m).s.get (d.toNat - 96) 0 = loW x ∧ (r.warp m).s.get (d.toNat - 95) 0 = hiW x
          else r.warp m = s.warp m)
    (¬ reached → exec (.srd sc d n) s = trap ∧ exec (.swr sc a n) s = trap) ∧
    (k = 23 → reads (s.vdev v).owner) ∧ (k = 4 → isAgent t = false → reads (s.specOf (s.block c).launch).stat) ∧
    (∀ z, s.ctx? v (s.tagOf t).2 = some z →
      (k = 0 → reads z.legacy) ∧ (k = 1 → reads z.owner) ∧ (k = 2 → reads z.trap) ∧ (k = 3 → reads z.ttb)) ∧
    (s.ctx? v (s.tagOf t).2 = none → k < 4 → reads 0 ∧ exec (.swr sc a n) s = .next s) ∧
    (isAgent t = true →
      (k = 16 → reads (s.vdev v).s2tb) ∧ (k = 17 → reads (s.vdev v).save) ∧ (k = 18 → reads (s.vdev v).savefb) ∧
      (k = 19 → reads (s.vdev v).savefault) ∧ (k = 20 → reads (s.vdev v).tmlog) ∧ (k = 21 → reads (s.vdev v).tmptr) ∧
      (k = 22 → reads (s.vdev v).tmcount) ∧ (k = 32 → reads s.hotCfg) ∧ (k = 33 → reads s.hotRing) ∧
      (k = 34 → reads s.hotPtr) ∧ (k = 35 → reads s.qepoch) ∧ (k = 36 → reads s.qstat) ∧
      (k = 48 → reads (s.core c).sysSel) ∧ (k = 49 → reads (s.core c).sysRst) ∧
      (k = 4 ∨ (16 ≤ k ∧ k ≤ 20) ∨ k = 23 ∨ (32 ≤ k ∧ k ≤ 36) → exec (.swr sc a n) s = .next s) ∧
      (k = 49 → exec (.swr sc a n) s = exec (.sysRstAck c w) s) ∧
      (k = 48 → ∃ r, exec (.swr sc a n) s = .next r ∧ r = { s with cores := r.cores } ∧
        (r.core c).sysSel = w &&& 0x0000FFFF0000001F) ∧
      (k = 21 → ∃ r, exec (.swr sc a n) s = .next r ∧ r = { s with vdevs := r.vdevs } ∧
        (r.vdev v).tmptr = ((s.vdev v).tmptr &&& 0xFFFFFFFF00000000) ||| (w &&& 0xFFFFFFFF)) ∧
      (k = 22 → ∃ r, exec (.swr sc a n) s = .next r ∧ r = { s with vdevs := r.vdevs } ∧
        (r.vdev v).tmcount = w &&& 0xFFFFFFFF) ∧
      (∀ z, s.ctx? v (s.tagOf t).2 = some z → k < 4 → ∃ r y, exec (.swr sc a n) s = .next r ∧
        r = { s with vdevs := r.vdevs } ∧ r.ctx? v (s.tagOf t).2 = some y ∧
        (k = 0 → y = { z with legacy := w &&& 0xFFFFFFFFFF0D02C9 }) ∧
        (k = 1 → y = if (s.vdev v).ownerOk (w.toNat % 256) then { z with owner := BitVec.ofNat 64 (w.toNat % 256) } else z) ∧
        (k = 2 → y = { z with trap := w &&& 0x0000FFFFFFFFFFFD }) ∧
        (k = 3 → y = { z with ttb := w &&& 0x000FFFFFFFFFF001 }))) ∧
    (isAgent t = false → k ∈ both → exec (.swr sc a n) s = .next s)

/-- The end of a handler (R377): with no operation of the trap bank outstanding, ERET discards the bank; with no record
left no handler runs, and with one left the handler starts again on it. While an operation of the bank is outstanding the
bank stays. -/
def Sys2Proof.Claims.TheHandlerEnds : Prop :=
  ∀ (s : State) (i : Issue) (sc : Scope) (p : BitVec 3) (t slot : Nat) (g : List Nat), Setting s i →
    s.actors i sc p.toNat = t :: g → (s.block (coreOf t)).handler = some slot → isAgent t = false →
    let c := coreOf t
    (s.ops = [] → (∀ e ∈ s.threads, e.2.deferred = []) →
      ∃ w : State, exec (.eret sc p) s = .next (w.settle t) ∧
        ((s.block c).recs = [] → (w.block c).handler = none ∧ ∀ l, l < 32 → (w.thr (mkThread c slot 1 l)).live = false) ∧
        (∀ r rest, (s.block c).recs = r :: rest → (s.block c).trap.getLsbD 0 = true →
          (w.block c).handler = some (slotOfName r.warp) ∧ (w.block c).recs = r :: rest) ∧
        (((s.block c).recs = [] ∨ (s.block c).trap.getLsbD 0 = true) →
          ∀ m, warpKeyOf m ≠ mkWarp c slot 1 → isHandler m = false → w.thr m = s.thr m)) ∧
    (∀ o x, s.ops.find o = some x → isHandler x.thr = true → coreOf x.thr = c →
      ∃ w : State, exec (.eret sc p) s = .next (w.settle t) ∧ (w.block c).handler = some slot ∧ (w.block c).ending = true)

/-- Items of a warp's context (R347, R348, R378): CTX.RD and CTX.WR of a warp that the name names stop its threads, which
then count as suspended; CTX.RD answers the item of each home lane, and CTX.WR writes the guarded lane's value. A name of
no resident warp, a bad item, a read-only one, or a value that breaks the item's rule takes BUDGET. -/
def Sys2Proof.Claims.ContextItems : Prop :=
  ∀ (s : State) (i : Issue) (sc : Scope) (d a b : BitVec 7) (p : BitVec 3) (t : Nat), Setting s i → plain a → plain b →
    let x := s.reg t a.toNat
    let name := x.toNat % 2 ^ 16
    let item := x.toNat / 2 ^ 16 % 256
    let idx := x.toNat / 2 ^ 24
    let v := s.reg t b.toNat
    let trap := Host.Outcome.next (s.raise (if sc = .lane then [t] else i.group) i.faultAt
      (plainFault clsBudget) (some (i.here 0)))
    let answer := fun (r : State) => ((newOp s r).map fun o => (o.thr, o.result)).getD (0, none)
    (s.actors i sc p.toNat = [t] →
      (s.namedWarp (coreOf t) name = none → exec (.ctxRd sc d a p) s = trap) ∧
      (∀ w, s.namedWarp (coreOf t) name = some w →
        ((9 < item ∨ (item = 0 ∧ (s.warp w).quota ≤ idx) ∨ (item = 1 ∧ 24 ≤ idx) ∨ (item = 6 ∧ 8 ≤ idx)) →
          exec (.ctxRd sc d a p) s = trap) ∧
        (item = 0 → idx < (s.warp w).quota → ∃ r, exec (.ctxRd sc d a p) s = .next r ∧ (answer r).1 = t ∧
          (∀ l, l < 32 → ((answer r).2.getD []).getD l 0 = (s.thr (w * 32 + l)).v.get idx 0) ∧ SameBytes s r ∧ SameRegs s r ∧
          ∀ m ∈ s.liveOf w, (r.thr m).susp = true ∨ (r.thr m).parked = true) ∧
        (item = 4 → idx = 0 → w ≠ warpKeyOf t → (∀ e ∈ s.issues ++ s.halted, ∀ m ∈ e.2.group, warpKeyOf m ≠ w) →
          ∃ r, exec (.ctxRd sc d a p) s = .next r ∧
          ∀ l, l < 32 → ((answer r).2.getD []).getD l 0 = (s.thr (w * 32 + l)).pc.setWidth 32))) ∧
    (i.group = [t] → s.pred t p.toNat = true →
      let l := laneOf t
      (s.namedWarp (coreOf t) name = none → exec (.ctxWr sc a b p) s = trap) ∧
      (∀ w, s.namedWarp (coreOf t) name = some w → (s.threads.find (w * 32 + l)).isSome = true →
        ((item = 3 ∨ item = 7 ∨ 9 < item ∨ (item = 4 ∧ v.toNat % 4 ≠ 0) ∨ (item = 5 ∧ 2 ^ 16 ≤ v.toNat) ∨
          (item = 8 ∧ v.toNat % 16 ≠ 0) ∨ (item = 9 ∧ 2 ^ 16 ≤ v.toNat)) → exec (.ctxWr sc a b p) s = trap) ∧
        (item = 0 → idx < (s.warp w).quota → ∃ r, exec (.ctxWr sc a b p) s = .next r ∧ (answer r).1 = t ∧
          (r.thr (w * 32 + l)).v.get idx 0 = v ∧ SameBytes s r ∧
          ∀ k c, (k ≠ w * 32 + l ∨ c ≠ idx) → r.reg k c = s.reg k c) ∧
        (item = 4 → idx = 0 → v.toNat % 4 = 0 → w ≠ warpKeyOf t →
          (∀ e ∈ s.issues ++ s.halted, ∀ m ∈ e.2.group, warpKeyOf m ≠ w) →
          ∃ r, exec (.ctxWr sc a b p) s = .next r ∧ SameRegs s r ∧ (r.thr (w * 32 + l)).stop = none ∧
          (r.thr (w * 32 + l)).pc.toNat = (s.thr (w * 32 + l)).pc.toNat / 2 ^ 32 * 2 ^ 32 + v.toNat)))

/-- Fault records (R345, R379): FAULT.RD takes the oldest record out of the queue as twelve words in flight for D, and a
waiting record takes the place; with none it answers zeros. -/
def Sys2Proof.Claims.FaultRecordsAreRead : Prop :=
  ∀ (s : State) (i : Issue) (sc : Scope) (d : BitVec 7) (p : BitVec 3) (t : Nat), Setting s i →
    s.actors i sc p.toNat = [t] →
    let b := s.block (coreOf t)
    ∃ r, exec (.faultRd sc d p) s = .next r ∧ SameBytes s r ∧ SameRegs s r ∧
      InFlight s r (access s i sc t true (.priv d.toNat)) t 0 0 (some (match b.recs with
        | x :: _ => x.toWords
        | [] => List.replicate 12 0)) ∧
      (r.block (coreOf t)).recs = (b.recs.drop 1 ++ b.waitRecs).take 32 ∧
      (r.block (coreOf t)).waitRecs = (b.recs.drop 1 ++ b.waitRecs).drop 32

/-- RESUME (R348, R380) of one stopped thread of a named warp, whose block has no engine command and no raster fault:
CONTINUE lets it run again from its stop point; SKIP takes it past the word where it stopped, or past the clause after a
last word; KILL ends it as EXIT does. A name of no resident warp takes BUDGET. -/
def Sys2Proof.Claims.ResumedThreads : Prop :=
  ∀ (s : State) (i : Issue) (sc : Scope) (a b : BitVec 7) (p : BitVec 3) (t : Nat), Setting s i → plain a → plain b →
    s.actors i sc p.toNat = [t] →
    let c := coreOf t
    let name := (s.reg t a.toNat).toNat % 2 ^ 16
    let trap := Host.Outcome.next (s.raise (if sc = .lane then [t] else i.group) i.faultAt
      (plainFault clsBudget) (some (i.here 0)))
    (name ≠ 0 → s.namedWarp c name = none → exec (.resumeContinue sc a b p) s = trap ∧
      exec (.resumeSkip sc a b p) s = trap ∧ exec (.resumeKill sc a b p) s = trap) ∧
    (∀ w m, s.namedWarp c name = some w → s.namedLanes w (s.reg t b.toNat) = [m] → (s.block c).rfault = none →
      (s.block c).engq = [] → (s.block c).garm = none → (∀ e ∈ s.threads, e.2.deferred = [] ∧ e.2.jwait = []) →
      exec (.resumeContinue sc a b p) s =
        .next ((s.modThr m fun th => { th with susp := false, parked := false, trapped := false }).settle t) ∧
      ((s.thr m).stop = none → (s.thr m).trapped = true → exec (.resumeSkip sc a b p) s =
        .next ((s.modThr m fun th => { th with susp := false, parked := false, trapped := false }).settle t)) ∧
      (∀ q, (s.thr m).stop = some q → ∃ r : State, exec (.resumeSkip sc a b p) s = .next (r.settle t) ∧
        (r.thr m).susp = false ∧ (r.thr m).parked = false ∧ SameBytes s r ∧ SameRegs s r ∧
        (q.count ≤ q.next → (r.thr m).stop = none ∧
          (r.thr m).pc = (s.thr m).pc + BitVec.ofNat 48 (4 * (q.count + 1))) ∧
        (q.next < q.count → (r.thr m).pc = (s.thr m).pc ∧ (r.thr m).stop.map StopAt.word = some q.next)) ∧
      ((s.thr m).task = none → ∃ r : State, exec (.resumeKill sc a b p) s = .next (r.settle t) ∧ (r.thr m).live = false ∧
        (r.thr m).susp = false ∧ SameBytes s r))

/-- TLB.INV (R175, R381): a control word with a reserved bit set or a kind above 3, or one that leaves a handler's own
context, takes BUDGET; otherwise no named entry is left on a covered core, every other entry stays, kinds 1 and 2 put new
roots in force, and the flag waits on an operation in flight. -/
def Sys2Proof.Claims.TranslationsAreInvalidated : Prop :=
  ∀ (s : State) (i : Issue) (sc : Scope) (a b : BitVec 7) (p : BitVec 3) (t : Nat), Setting s i → plain b →
    s.actors i sc p.toNat = [t] →
    let w := (s.reg t b.toNat).toNat
    let kind := w % 8
    let v := w / 2 ^ 8 % 32
    let x := w / 2 ^ 16
    let all := w / 16 % 2 = 1
    let covered := fun (c : Nat) => if all then c < 144 else c = coreOf t
    let bad := w / 2 ^ 13 % 8 ≠ 0 ∨ w / 2 ^ 5 % 8 ≠ 0 ∨ w / 8 % 2 = 1 ∨ 3 < kind ∨
      (isHandler t = true ∧ ((v, x) ≠ s.tagOf t ∨ all))
    (bad → exec (.tlbInv sc a b p) s = .next (s.raise (if sc = .lane then [t] else i.group) i.faultAt
      (plainFault clsBudget) (some (i.here 0)))) ∧
    (¬ bad → ∃ r, exec (.tlbInv sc a b p) s = .next r ∧ SameBytes s r ∧ SameRegs s r ∧
      (newOp s r).map (fun o => (o.thr, o.acc.flag)) = some (t, i.flag) ∧
      ∀ c, (covered c → (r.core c).tlb = (s.core c).tlb.filter (fun e => !e.named kind v x (s.pairReg t a.toNat)) ∧
          (kind = 1 → (r.core c).ttbs.get (v * 65536 + x) 0 = ((s.ctx? v x).map Ctx.ttb).getD 0) ∧
          (kind = 2 → (r.core c).s2tbs.get v 0 = (s.vdev v).s2tb) ∧
          (kind = 0 ∨ kind = 3 → (r.core c).ttbs = (s.core c).ttbs ∧ (r.core c).s2tbs = (s.core c).s2tbs)) ∧
        (¬ covered c → r.core c = s.core c))

/-- WFI (R382, R440): outside a hand-over it holds the agent with its mask and destination, and changes nothing else; while
agents quiesce, and another has not, it parks there too. -/
def Sys2Proof.Claims.TheAgentWaits : Prop :=
  ∀ (s : State) (i : Issue) (sc : Scope) (d a : BitVec 7) (p : BitVec 3) (t : Nat), Setting s i → plain a →
    s.actors i sc p.toNat = [t] →
    let held := fun (c : Nat) => { s.core c with wfi := some ((s.reg t a.toNat).toNat, d.toNat) }
    (s.assay.hphase ≠ 2 → ∃ r, exec (.wfi sc d a p) s = .next r ∧ r = { s with cores := r.cores } ∧
      ∀ c, r.core c = if c = coreOf t then held c else s.core c) ∧
    (s.assay.hphase = 2 → (s.assay.stage.bind readImage).isSome = true → coreOf t < 144 →
      (∃ c, c < 144 ∧ c ≠ coreOf t ∧ (s.core c).wfi = none ∧ (s.core c).fwStopped = false ∧ (s.core c).parked = false) →
      ∃ r, exec (.wfi sc d a p) s = .next r ∧ r = { s with cores := r.cores } ∧
        r.core (coreOf t) = { held (coreOf t) with parked := true })

/-- Claims and placement (R142, R166, R383, R384): with no ticket that names the core, or with a block on it that the
ticket's launch does not outrank, AGENT.CLAIM answers all ones and reserves nothing; a resident grid of a lower class
whose queue is preemptible is pre-empted; without one the claim answers the ticket's words and reserves the core.
BLK.START of a
launch of one core installs its block: active, its threads at the record's entry with their stacks, and its storage 0.
BLK.STOP ends the launch and halts its queue with ERR 15. A slot whose launch has not reserved the core takes BUDGET. -/
def Sys2Proof.Claims.BlocksStartAndStop : Prop :=
  ∀ (s : State) (i : Issue) (sc : Scope) (d a : BitVec 7) (p : BitVec 3) (t : Nat), Setting s i → plain a →
    s.actors i sc p.toNat = [t] →
    let c := coreOf t
    let slot := (s.reg t a.toNat).toNat
    let answer := fun (r : State) => (newOp s r).map fun o => (o.thr, o.result)
    let trap := Host.Outcome.next (s.raise (if sc = .lane then [t] else i.group) i.faultAt
      (plainFault clsBudget) (some (i.here 0)))
    ((s.claimable c = none ∨ ((s.block c).active = true ∧ ∀ l, s.claimable c = some l → s.outranks l c = false)) →
      ∃ r, exec (.agentClaim sc d p) s = .next r ∧
      answer r = some (t, some [0xFFFFFFFF, 0xFFFFFFFF, 0xFFFFFFFF, 0xFFFFFFFF]) ∧ r.cores = s.cores ∧
      r.launches = s.launches ∧ SameRegs s r) ∧
    (∀ l y, (s.block c).active = true → s.claimable c = some l → s.outranks l c = true → s.ops = [] →
      s.launch? (s.block c).launch = some y → y.phase = .running →
      ∃ r z, exec (.agentClaim sc d p) s = .next r ∧ r.launch? (s.block c).launch = some z ∧ z.phase ≠ .running) ∧
    (∀ l x, (s.block c).active = false → s.claimable c = some l → s.launch? l = some x → x.phase = .ticketed → s.ops = [] →
      x.evict = false → (s.vdev x.vdev).busy = false → ∃ r, exec (.agentClaim sc d p) s = .next r ∧ SameBytes s r ∧
        answer r = some (t, some [BitVec.ofNat 32 (x.ticket.getD 0),
          BitVec.ofNat 32 (((s.queue x.vdev x.queue).slot).getD 0 + 256 * x.vdev), BitVec.ofNat 32 x.ctx,
          BitVec.ofNat 32 ((s.chosenCores l x).idxOf c)]) ∧
        (r.core c).reserved = some l) ∧
    (s.reservedSlot c slot = none → exec (.blkStart sc a p) s = trap) ∧
    (∀ l x z, s.reservedSlot c slot = some (l, x) → x.phase = .ticketed → coresOf x.record.cores = [c] → x.installed = [] →
      s.mayStart l x = true → x.evict = false → s.ops = [] → (s.vdev x.vdev).busy = false → isAgent t = true → c < 144 → s.ctx? x.vdev x.ctx = some z →
      x.record.warps ≤ 63 → ∃ r, exec (.blkStart sc a p) s = .next r ∧ answer r = some (t, some []) ∧
        (r.launch? l).map (fun y => (y.phase, y.installed)) = some (.running, [c]) ∧
        (r.block c).active = true ∧ (r.block c).launch = l ∧ (r.block c).rank = 0 ∧ (r.block c).trap = z.trap ∧
        (r.block c).owner = z.owner.setWidth 8 ∧ (r.core c).storageOf = some x.vdev ∧
        (∀ n, n < 2 ^ 24 → r.byteAt (scratchAddr c n) = 0) ∧
        ∀ w h, w < x.record.warps → h < 32 →
          let th := r.thr (mkThread c (warpSlot w) 0 h)
          th.live = true ∧ th.pc = BitVec.ofNat 48 x.record.code ∧ th.v = [] ∧
          th.sp = BitVec.ofNat 48 (x.record.stack + (32 * w + h + 1) * 16 * x.record.stackSz)) ∧
    (∀ l x, s.reservedSlot c slot = some (l, x) → isAgent t = true →
      ∃ r, exec (.blkStop sc a p) s = .next r ∧ r.launch? l = none ∧ (r.queue x.vdev x.queue).err = 15 ∧
        (r.queue x.vdev x.queue).phase = 3 ∧ answer r = some (t, some []) ∧
        ∀ k ∈ x.installed, (r.block k).active = false)

/-- The saves and restores that an agent asks for (R350, R352, R355, R385): CTX.SAVE of a launch without a resident block,
and CTX.LOAD of one without a complete save, take BUDGET; otherwise the word goes in flight and the save is made, at once or,
for a launch that is being placed or restored, once it runs; and the restore once every chosen core's agent has asked. -/
def Obligations.AgentsSaveAndRestore : Prop :=
  ∀ (s : State) (i : Issue) (sc : Scope) (a : BitVec 7) (p : BitVec 3) (t : Nat), Setting s i → plain a →
    s.actors i sc p.toNat = [t] →
    let c := coreOf t
    let slot := (s.reg t a.toNat).toNat
    let trap := Host.Outcome.next (s.raise (if sc = .lane then [t] else i.group) i.faultAt
      (plainFault clsBudget) (some (i.here 0)))
    let asked := fun (load : Bool) (l : Nat) =>
      let acc := access s i sc t true (.gang l load)
      (s.setFlags acc).addOp { thr := t, acc := acc, pa := 0, mt := 0, epoch := s.epoch, serial := s.serial, result := none }
    (s.reservedSlot c slot = none → exec (.ctxSave sc a p) s = trap ∧ exec (.ctxLoad sc a p) s = trap) ∧
    (∀ l x, s.reservedSlot c slot = some (l, x) →
      ((x.resident = false ∨ x.installed = []) → exec (.ctxSave sc a p) s = trap) ∧
      ((∀ fb, x.phase ≠ .saved fb) → exec (.ctxLoad sc a p) s = trap) ∧
      (x.resident = true → x.installed ≠ [] → exec (.ctxSave sc a p) s = .next ((asked false l).preempt l)) ∧
      ((x.phase = .placing ∨ ∃ k fb, x.phase = .restoring k fb) →
        (asked false l).preempt l = (asked false l).setLaunch l { x with evict := true }) ∧
      (∀ fb, x.phase = .saved fb →
        ((s.vdev x.vdev).shareCores.length < x.installed.length → exec (.ctxLoad sc a p) s = trap) ∧
        (x.installed.length ≤ (s.vdev x.vdev).shareCores.length →
          (∃ k ∈ x.cores, (s.core k).reserved ≠ some l) → exec (.ctxLoad sc a p) s = .next (asked true l)) ∧
        (x.installed.length ≤ (s.vdev x.vdev).shareCores.length → x.cores = [c] → (s.core c).reserved = some l →
          exec (.ctxLoad sc a p) s = .next (((asked true l).modLaunch l fun y => { y with phase := .restoring 0 fb }).restoreRun l))))

/-- Drains and the clearing of storage (R386, R422): a number above 31 takes BUDGET. VDEV.DRAIN holds the virtual device's
new requests while its operation is outstanding, and the operation stays while one of its requests is in flight.
POOL.CLR clears the core's storage and its threads' state where they belong to the virtual device, and nothing otherwise; in
step 3 of a reset the core's work is then done. -/
def Sys2Proof.Claims.DrainsAndClears : Prop :=
  (∀ (s : State) (i : Issue) (sc : Scope) (a : BitVec 7) (p : BitVec 3) (t : Nat), Setting s i → plain a →
    s.actors i sc p.toNat = [t] →
    let v := (s.reg t a.toNat).toNat
    let c := coreOf t
    let trap := Host.Outcome.next (s.raise (if sc = .lane then [t] else i.group) i.faultAt
      (plainFault clsBudget) (some (i.here 0)))
    (32 ≤ v → exec (.vdevDrain sc a p) s = trap ∧ exec (.poolClr sc a p) s = trap) ∧
    (v < 32 →
      (∃ r, exec (.vdevDrain sc a p) s = .next r ∧ SameBytes s r ∧ SameRegs s r ∧ r.drains v = true ∧
        ∀ m, isAgent m = false → (s.block (coreOf m)).vdev = v → r.blocked m = true) ∧
      (∃ r, exec (.poolClr sc a p) s = .next r ∧
        (newOp s r).map (fun o => (o.thr, o.result)) = some (t, some []) ∧ r.mem = s.mem ∧
        ((s.core c).storageOf ≠ some v → SameBytes s r ∧ SameRegs s r ∧ r.accm = s.accm ∧ r.wbuf = s.wbuf) ∧
        ((s.core c).storageOf = some v → (∀ n, n < 2 ^ 24 → r.byteAt (scratchAddr c n) = 0 ∧
          Mem.read r.wbuf (c * 2 ^ 24 + n) = 0 ∧ Mem.read r.accm (c * 2 ^ 24 + n) = 0) ∧
          (∀ m k, coreOf m = c → isAgent m = false → r.reg m k = 0) ∧
          ∀ m th, s.threads.find m = some th → m ∉ i.group → coreOf m = c → isAgent m = false →
            (r.thr m).pc = 0 ∧ (r.thr m).ret = [] ∧ (r.thr m).p = 0 ∧ (r.thr m).cf = 0 ∧ (r.thr m).depth = 0 ∧ (r.thr m).sp = 0) ∧
        ((s.vdev v).rstStep = 3 → (r.vdev v).rstWork = c :: (s.vdev v).rstWork)))) ∧
  (∀ (s : State) (id : Nat) (o : Op) (v : Nat), s.ops.find id = some o → s.away o.thr = false → o.acc.acc = .vdrain v →
    (s.inFlight v = true → exec (.operationComplete id) s = .next ((s.eretTest (coreOf o.thr)).settle o.thr)) ∧
    (s.inFlight v = false → (∀ e ∈ s.threads, e.2.deferred = []) →
      exec (.operationComplete id) s = .next (((s.retire id o).eretTest (coreOf o.thr)).settle o.thr)))

/-! ## Device steps: the hub -/

/-- Queues (R136-R139, R409, R416): NOTIFY sets the tail; an idle, enabled queue with work is bound to a free slot, waits
where there is none. A notify that overruns the ring halts the queue with ERR 10, whatever is current. SKIP takes a halted
queue past its record. SLOT_OVERDUE raises
one interrupt for each binding. Writing q.ctl keeps EN at 0 before creation and frees the slot of a disabled queue with
nothing current. -/
def Sys2Proof.Claims.QueuesAreNotified : Prop :=
  ∀ (s : State) (v q : Nat) (w : Word) (ctl : Dword), v < 32 → q < 16 →
    let x := s.queue v q
    let y := { x with tail := w.toNat }
    (s.victim v q = none → ∃ r, exec (.notify v q w) s = .next r ∧ (r.queue v q).tail = w.toNat ∧ SameBytes s r ∧
      SameRegs s r) ∧
    (x.tail ≠ w.toNat → x.enabled = true → (s.vdev v).created = true → (s.vdev v).halted = false →
      (y.overrun = false → x.phase = 0 → w.toNat ≠ x.head → ∃ r, exec (.notify v q w) s = .next r ∧
        (∀ n, s.freeSlot = some n → (r.queue v q).phase = 2 ∧ (r.queue v q).slot = some n) ∧
        (s.freeSlot = none → s.victim v q = none → (r.queue v q).phase = 1)) ∧
      (y.overrun = true → x.phase ≠ 3 → ∃ r, exec (.notify v q w) s = .next r ∧
        (r.queue v q).phase = 3 ∧ (r.queue v q).err = 10 ∧ (r.queue v q).slot = none ∧ (r.queue v q).current = x.current)) ∧
    (x.phase ≠ 3 → exec (.qStateSkip v q) s = .next s) ∧
    (x.phase = 3 → { x with head := (x.head + 1) % 2 ^ 32 }.overrun = false → s.victim v q = none →
      ∃ r, exec (.qStateSkip v q) s = .next r ∧ (r.queue v q).head = (x.head + 1) % 2 ^ 32 ∧
      (r.queue v q).err = 0 ∧ (r.queue v q).current = x.current ∧
      ((x.head + 1) % 2 ^ 32 = x.tail → (r.queue v q).phase = 0)) ∧
    (∀ p, s.nextPending = some p → x.phase = 2 → x.preemptible = false → x.overdue = false → x.hold ≠ 0xFFFFFFFF →
      ∃ r, exec (.slotOverdue v q) s = .next r ∧ (r.queue v q).overdue = true ∧
        r.irqs = (0, (v * 16 + q) * 1024 + p.1 * 16 + p.2) :: s.irqs ∧ exec (.slotOverdue v q) r = .next r) ∧
    (s.nextPending = none → exec (.slotOverdue v q) s = .next s) ∧
    (∃ r, exec (.qCtlWrite v q ctl) s = .next r ∧
      (r.queue v q).ctl = (ctl &&& 0xFFFFFFFFFFFF001B) &&& (if (s.vdev v).created then BitVec.allOnes 64 else ~~~16) ∧
      (ctl.getLsbD 4 = false → x.current = none → x.phase = 2 → (r.queue v q).phase = 0 ∧ (r.queue v q).slot = none))

/-- Records (R138, R140, R141, R143): a bound queue with nothing current leaves its slot when it is empty or disabled. A
record halts it with ERR 10 on an overrun, 16 where the context is not there, 11 where the record cannot be read, and the
number of the first check that fails; a good record without waits becomes a launch with the next ticket. -/
def Sys2Proof.Claims.RecordsBecomeLaunches : Prop :=
  ∀ (s : State) (v q : Nat), (s.queue v q).phase = 2 → (s.queue v q).current = none → (s.vdev v).halted = false →
    let x := s.queue v q
    let halts := fun (n : Nat) => ∃ r, exec (.recordCheck v q) s = .next r ∧ (r.queue v q).phase = 3 ∧
      (r.queue v q).err = n ∧ (r.queue v q).slot = none ∧ r.launches = s.launches
    ((x.enabled = false ∨ x.head = x.tail) → ∃ r, exec (.recordCheck v q) s = .next r ∧ (r.queue v q).phase = 0 ∧
      (r.queue v q).slot = none ∧ r.launches = s.launches) ∧
    (x.enabled = true → x.head ≠ x.tail →
      (x.overrun = true → halts 10) ∧
      (x.overrun = false → s.ctx? v x.ctxid = none → halts 16) ∧
      (x.overrun = false → (s.ctx? v x.ctxid).isSome = true →
        let place := x.ring.toNat / 2 ^ 12 % 2 ^ 40 * 4096 + 256 * (x.head % x.size)
        (∀ f s', s.hubGet v none place 256 = (.error f, s') → halts 11) ∧
        (∀ bs s', s.hubGet v none place 256 = (.ok bs, s') →
          let rec_ := recordOf bs
          (∀ n, recordErr bs rec_ (s'.vdev v).shareCores ((s'.vdev v).profile.getD 11 0).toNat = some n → halts n) ∧
          (recordErr bs rec_ (s'.vdev v).shareCores ((s'.vdev v).profile.getD 11 0).toNat = none →
            ∀ args masks regs s1 s2, s'.readArgs v x.ctxid rec_ = (some (args, masks), s1) →
              s1.readRegions v x.ctxid rec_ = (some regs, s2) → rec_.waits = [] →
              ∃ r y, exec (.recordCheck v q) s = .next r ∧ (r.queue v q).current = some s.nextLaunch ∧
                r.launch? s.nextLaunch = some y ∧ y.record = rec_ ∧ y.phase = .ticketed ∧ y.cls = max rec_.prio x.ceil ∧
                y.argBytes = args ∧ y.regions = regs ∧ y.ticket = some (s.signal 0 + 1).toNat ∧
                r.signal 0 = s.signal 0 + 1))))

/-- Pre-emption as a gang (R350, R351, R354, R355, R411): with no access in flight, a running launch that is pre-empted is
saved, its cores freed, or its save stands on a page with a fault pending. A request while the launch is being placed or
restored is recorded, and once the restore is complete the pre-emption runs (R355); a launch in any other phase is
untouched. A slice's end pre-empts where a rival waits. RETRY lets the last page go on, and UNMAPPABLE starts the whole save
or restore again in the fallback area or, without one, loses the virtual device: each of its launches goes, every queue
halts with ERR 14, and it is reset. -/
def Obligations.LaunchesAreSaved : Prop :=
  (∀ (s : State) (l : Nat) (x : Launch), s.launch? l = some x →
    ((x.phase = .placing ∨ ∃ k fb, x.phase = .restoring k fb) →
      exec (.preemptionRequest l) s = .next (s.setLaunch l { x with evict := true })) ∧
    (x.phase ≠ .running → x.phase ≠ .placing → (∀ k fb, x.phase ≠ .restoring k fb) →
      exec (.preemptionRequest l) s = .next s) ∧
    s.finishRestore l x = (if x.evict then (Claims.restored s l x).preempt l else Claims.restored s l x) ∧
    (∀ i, (i = .preemptionRequest l ∨ (i = .timeSliceExpiry l ∧ (s.vdev x.vdev).slice ≠ 0 ∧
        (s.queue x.vdev x.queue).preemptible = true ∧ s.rival x = true)) →
      x.phase = .running → s.ops = [] → ∃ r y, exec i s = .next r ∧ r.launch? l = some y ∧ y.evict = false ∧
      ((y.phase = .saved false ∧ y.reserved = [] ∧ y.installed.length = x.installed.length ∧
          ∀ c ∈ x.reserved, (r.core c).reserved ≠ some l) ∨
        ∃ k, y.phase = .saving k false ∧ r.savePend x.vdev = true)) ∧
    ((x.phase ≠ .running ∨ (s.vdev x.vdev).slice = 0 ∨ (s.queue x.vdev x.queue).preemptible = false ∨ s.rival x = false) →
      exec (.timeSliceExpiry l) s = .next s)) ∧
  (∀ (s : State) (v l k pa : Nat) (x : Launch) (fb : Bool), s.launch? l = some x → x.vdev = v →
    s.faulted v = [l] → s.savePend v = true →
    let z := s.serveAction v
    (∀ s1, x.phase = .saving k fb → z.savePages l x = k + 1 → z.savePlace v fb k .write = (.ok pa, s1) →
      ∃ r y, exec (.vdevSavefaultRetry v) s = .next r ∧ r.launch? l = some y ∧ y.phase = .saved fb) ∧
    (∀ s1, x.phase = .restoring k fb → z.savePages l x = k + 1 → z.savePlace v fb k .read = (.ok pa, s1) →
      exec (.vdevSavefaultRetry v) s =
        .next (((s1.physBytes pa 4096).2.loadPage x k (s1.physBytes pa 4096).1).finishRestore l x)) ∧
    ((s.vdev v).savefb.getLsbD 0 = true →
      (x.phase = .saving k fb → exec (.vdevSavefaultUnmappable v) s =
        .next ((z.modLaunch l fun x => { x with phase := .saving 0 true }).saveRun l |>.restoreRun l)) ∧
      (x.phase = .restoring k fb → exec (.vdevSavefaultUnmappable v) s =
        .next ((z.modLaunch l fun x => { x with phase := .restoring 0 true }).saveRun l |>.restoreRun l))) ∧
    ((s.vdev v).savefb.getLsbD 0 = false → s.resets.contains v = false →
      ∃ r, exec (.vdevSavefaultUnmappable v) s = .next r ∧ (∀ n y, r.launch? n = some y → y.vdev ≠ v) ∧
        (r.vdev v).ctl.getLsbD 1 = true ∧ (r.vdev v).busy = true ∧ r.resets.contains v = true ∧
        ∀ q, q < 16 → (r.queue v q).err = 14 ∧ (r.queue v q).phase = 3)) ∧
  (∀ (s : State) (v : Nat), s.savePend v = false →
    exec (.vdevSavefaultRetry v) s = .next s ∧ exec (.vdevSavefaultUnmappable v) s = .next s)

/-- Reset of a virtual device (R413-R416, R421): an ACTION while BUSY is set changes nothing; otherwise the reset sets BUSY
and shows step 1 to the agents of the share. An acknowledgement of another step changes nothing. A step ends once every
agent has acknowledged it and its work is done: the acknowledgement of step 3 waits for the other agents and for storage
that no POOL.CLR has cleared, and the end of step 4, after the leader's TLB.INV, leaves the virtual device created, its
queues empty and disabled, its signal words 0, BUSY clear, and raises the interrupt. -/
def Obligations.ResetsRunTheirSteps : Prop :=
  (∀ (s : State) (v : Nat),
    ((s.vdev v).busy = true → exec (.vdevReset v) s = .next s) ∧
    (v < 32 → (s.vdev v).busy = false → s.resets = [] → (s.vdev v).shareCores ≠ [] →
      ∃ r, exec (.vdevReset v) s = .next r ∧ r.resets = [v] ∧ (r.vdev v).busy = true ∧ (r.vdev v).rstStep = 1 ∧
      (r.vdev v).rstAcks = [] ∧ (r.vdev v).rstWork = [] ∧ SameBytes s r ∧ SameRegs s r ∧
      ∀ c ∈ (s.vdev v).shareCores, (r.core c).sysRst.toNat % 8 = 1 ∧ (r.core c).sysRst.toNat / 2 ^ 8 % 32 = v ∧
        ((r.core c).sysRst.getLsbD 7 = true ↔ (s.vdev v).shareCores.headD 0 = c))) ∧
  (∀ (s : State) (c : Nat) (w : Dword),
    let v := (s.core c).sysRst.toNat / 2 ^ 8 % 32
    let k := (s.core c).sysRst.toNat % 8
    let d := s.vdev v
    let all := ∀ m ∈ d.shareCores, m = c ∨ m ∈ d.rstAcks
    ((k = 0 ∨ w.toNat % 8 ≠ k) → exec (.sysRstAck c w) s = .next s) ∧
    (k = 3 → w.toNat % 8 = 3 → d.rstStep = 3 →
      (¬ all ∨ (∃ m ∈ d.shareCores, (s.core m).storageOf = some v ∧ m ∉ d.rstWork)) →
      ∃ r, exec (.sysRstAck c w) s = .next r ∧ (r.vdev v).rstAcks = c :: d.rstAcks ∧
        (r.vdev v).rstStep = 3 ∧ (r.core c).sysRst.toNat % 8 = 0) ∧
    (k = 3 → w.toNat % 8 = 3 → d.rstStep = 3 → d.shareCores ≠ [] → all →
      (∀ m ∈ d.shareCores, (s.core m).storageOf ≠ some v ∨ m ∈ d.rstWork) →
      ∃ r, exec (.sysRstAck c w) s = .next r ∧ (r.vdev v).rstStep = 4 ∧ (r.vdev v).rstAcks = [] ∧
        ∀ m ∈ d.shareCores, (r.core m).sysRst.toNat % 8 = 4) ∧
    (k = 4 → w.toNat % 8 = 4 → d.rstStep = 4 → d.shareCores ≠ [] → d.shareCores.headD 0 ∉ d.rstWork →
      ∃ r, exec (.sysRstAck c w) s = .next r ∧ (r.vdev v).rstStep = 4 ∧ (r.vdev v).busy = d.busy ∧ r.irqs = s.irqs) ∧
    (k = 4 → w.toNat % 8 = 4 → d.rstStep = 4 → s.resets = [v] → all →
      (d.shareCores = [] ∨ d.shareCores.headD 0 ∈ d.rstWork) →
      ∃ r, exec (.sysRstAck c w) s = .next r ∧ r.resets = [] ∧ (r.vdev v).busy = false ∧ (r.vdev v).created = true ∧
        (r.vdev v).rstStep = 0 ∧ (r.vdev v).tmptr = 0 ∧ (r.vdev v).tmcount = 0 ∧ (r.vdev v).dgates = [] ∧
        (r.vdev v).draining = false ∧
        (∀ q, ((r.queue v q).tail = 0 ∧ (r.queue v q).head = 0 ∧ (r.queue v q).err = 0 ∧ (r.queue v q).enabled = false)
          ∨ d.queues.find q = none) ∧
        (∀ n, n < (s.grant v).2 → r.signals.get ((s.grant v).1 + n) 0 = 0) ∧ r.irqs = (4, v) :: s.irqs))

/-- Hotness and the quarantine (R185-R188): a remote request is counted for its block and requester, and at THRESH the
count starts again with one record and one interrupt; decay halves every count; writing mem.hot.cfg with EN 0 clears them.
mem.qpush stamps a page with the epoch and raises it, or sets QFULL; mem.qpop takes the oldest entry once released. -/
def Sys2Proof.Claims.HotnessAndQuarantine : Prop :=
  ∀ (s : State) (die req v pa : Nat) (w : Dword),
    let block := pa / 65536
    let count := fun (s : State) => ((s.hotCnt.get die []).find? fun e => e.1 = block && e.2.1 = req).map fun e => e.2.2
    ((s.hotEn = false ∨ remoteTo die req = false ∨ inStacks die pa = false) →
      exec (.remoteSectorRequest die req v pa) s = .next s) ∧
    (s.hotEn = true → die < 2 → remoteTo die req = true → inStacks die pa = true →
      let n := min ((count s).getD 0 + 1) 65535
      ((s.hotThresh = 0 ∨ n < s.hotThresh) → ∃ r, exec (.remoteSectorRequest die req v pa) s = .next r ∧
        r = { s with hotCnt := r.hotCnt } ∧ count r = some n ∧ ∀ d, d ≠ die → r.hotCnt.get d [] = s.hotCnt.get d []) ∧
      (s.hotThresh ≠ 0 → s.hotThresh ≤ n → (s.hotTail + 2 ^ 32 - s.hotHead) % 2 ^ 32 ≠ s.hotSize →
        ∃ r, exec (.remoteSectorRequest die req v pa) s = .next r ∧ count r = some 0 ∧
          r.irqs = (1, 0) :: s.irqs ∧ r.hotTail = (s.hotTail + 1) % 2 ^ 32)) ∧
    (s.hotCfg.toNat / 2 ^ 20 % 16 = 0 → exec .hotnessDecay s = .next s) ∧
    (s.hotCfg.toNat / 2 ^ 20 % 16 ≠ 0 → ∃ r, exec .hotnessDecay s = .next r ∧ r = { s with hotCnt := r.hotCnt } ∧
      ∀ d, r.hotCnt.get d [] = (s.hotCnt.get d []).map fun e => (e.1, e.2.1, e.2.2 / 2)) ∧
    (∃ r, exec (.memHotCfgWrite w) s = .next r ∧ r = { s with hotCfg := w &&& 0x0000FFFFFFF00001, hotCnt := r.hotCnt } ∧
      r.hotCnt = if w.getLsbD 0 then s.hotCnt else []) ∧
    (let page := (w &&& 0x000FFFFFFFFFF007).toNat
     (page % 8 = 7 → exec (.memQpush w) s = .next s) ∧
     (page % 8 ≠ 7 → 4096 ≤ s.quar.length → exec (.memQpush w) s = .next { s with qfull := true }) ∧
     (page % 8 ≠ 7 → s.quar.length < 4096 →
       exec (.memQpush w) s = .next { s with quar := s.quar ++ [(page, s.epoch)], epoch := s.epoch + 1 })) ∧
    (s.quar = [] → exec .memQpop s = .next s) ∧
    (∀ e r, s.quar = e :: r → exec .memQpop s = .next (if s.released e.2 then { s with quar := r } else s))

/-! ## Device steps: Bezel -/

/-- Bezel's window (R319-R323, R327): a write by an owner other than 0 changes only CFGIGN and raises the interrupt.
bz.tsel selects; bz.tdata gathers, and the last data register replaces the selected entry and advances (a layer entry
comes into force at a refresh); outside the table it is ignored; a fill waits its turn, and completes over its rectangle; a mode that cannot be carried sets MODEERR; pr.b queues an entry or sets OVF. -/
def Sys2Proof.Claims.BezelIsWritten : Prop :=
  ∀ (s : State) (o k d : Nat) (w : Dword) (carried : Bool),
    let ignored := Host.Outcome.next { s with bezel := { s.bezel with stat := s.bezel.stat ||| 8 }, irqs := (2, o) :: s.irqs }
    (o ≠ 0 → exec (.bzTselWrite o w) s = ignored ∧ exec (.bzTdataWrite o k w) s = ignored ∧
      exec (.bzFill o w) s = ignored ∧ exec (.bzModeWrite o d w carried) s = ignored) ∧
    exec (.bzTselWrite 0 w) s = .next { s with bezel := { s.bezel with tsel := w &&& 0xF000FFFF, gathered := [] } } ∧
    (s.bezel.inTable = true → s.bezel.table ≠ 2 → k < 3 → ∃ r, exec (.bzTdataWrite 0 k w) s = .next r ∧
      r = { s with bezel := { s.bezel with gathered := r.bezel.gathered } } ∧
      ∀ j, j < 8 → r.bezel.gathered.find (8 * k + j) = some (w.extractLsb' (8 * j) 8)) ∧
    (s.bezel.inTable = true → s.bezel.table ≠ 2 → ∃ r, exec (.bzTdataWrite 0 3 w) s = .next r ∧
      (if s.bezel.table = 0 then r.bezel.surf s.bezel.index else r.bezel.grant s.bezel.index) / 2 ^ 192 = w.toNat ∧
      r.bezel.gathered = [] ∧ r.bezel.index = (s.bezel.index + 1) % 65536 ∧ r.bezel.layers = s.bezel.layers ∧
      SameBytes s r ∧ SameRegs s r) ∧
    (s.bezel.inTable = true → s.bezel.table = 2 → ∃ r, exec (.bzTdataWrite 0 0 w) s = .next r ∧
      r.bezel.layer s.bezel.tdisp s.bezel.index = w.toNat ∧ r.bezel.inForce = s.bezel.inForce ∧ r.bezel.gathered = [] ∧
      r.bezel.index = (s.bezel.index + 1) % 65536 ∧ SameBytes s r ∧ SameRegs s r) ∧
    ((s.bezel.inTable = false ∨ (s.bezel.table = 2 ∧ k ≠ 0) ∨ 4 ≤ k) → exec (.bzTdataWrite 0 k w) s = .next s) ∧
    (let part := w.toNat / 2 ^ 18 % 4
     (part = 3 → exec (.bzFill 0 w) s = .next s) ∧
     (part ≠ 3 → 17 ≤ s.bezel.fills.length → exec (.bzFill 0 w) s =
       .next { s with bezel := { s.bezel with stat := s.bezel.stat ||| 16 } }) ∧
     (part ≠ 3 → s.bezel.fills.length < 17 → exec (.bzFill 0 w) s =
       .next { s with bezel := { s.bezel with fills := s.bezel.fills ++ [s.bezel.fillOf w] } })) ∧
    (s.bezel.fills = [] → exec .bzFillComplete s = .next s) ∧
    (∀ f rest, s.bezel.fills = f :: rest → f.disp < 4 → (s.display f.disp).width ≤ 7680 → (s.display f.disp).height ≤ 4320 →
      s.mem.wf = true → f.entry < 65536 → ∃ r, exec .bzFillComplete s = .next r ∧ r.bezel.fills = rest ∧
        ∀ x y, x < (s.display f.disp).width → y < (s.display f.disp).height →
          r.mapEntry f.disp x y = if f.x0 ≤ x ∧ x < f.x1 ∧ f.y0 ≤ y ∧ y < f.y1
            then fillEntry f.part (s.mapEntry f.disp x y) f.entry else s.mapEntry f.disp x y) ∧
    (let m := w &&& 0x8300FFFFFFFFFFFF
     d < 4 → (modeEn m = true → (modeOk m = false ∨ carried = false) → exec (.bzModeWrite 0 d w carried) s =
       .next { s with bezel := { s.bezel with stat := s.bezel.stat ||| 2 } }) ∧
      ((modeEn m = false ∨ (modeOk m = true ∧ carried = true)) →
        (modeEn (s.display d).mode = true → ∃ r, exec (.bzModeWrite 0 d w carried) s = .next r ∧
          (r.display d).next = some m ∧ (r.display d).mode = (s.display d).mode ∧ SameBytes s r) ∧
        (modeEn (s.display d).mode = false → ∃ r, exec (.bzModeWrite 0 d w carried) s = .next r ∧
          (r.display d).mode = m ∧ (r.display d).next = none))) ∧
    (o < 255 → d < 4 →
      let p := s.presentQ o d
      ∃ r, exec (.prBWrite o d w) s = .next r ∧ r = { s with bezel := { s.bezel with presents := r.bezel.presents } } ∧
        r.presentQ o d = if 8 ≤ p.q.length then { p with ovf := true }
          else { p with q := p.q ++ [(p.a.toNat % 65536, p.a.toNat / 2 ^ 32 % 2 ^ 19, w)] })

/-- Refreshes (R314, R319, R321, R323, R324): a refresh of a running display counts and puts the layer entries in force,
and each pixel of its frame is the composition over the base owner's layer, or the background where that owner has none, of
the top owner's layer by OVER, alpha all ones; without grants only an owner's own base is blurred. A display begins when its
link has been trained. A locked refresh latches the owner's present queue while the lock holds. -/
def Sys2Proof.Claims.DisplaysRefresh : Prop :=
  ∀ (s : State) (d v x : Nat), d < 4 →
    let z := s.display d
    let u : State := { s with bezel := s.bezel.enforce d }
    let chan := fun (w : Word) (c : Nat) => w.toNat / 256 ^ c % 256
    (modeEn z.mode = true → z.live = true → z.next = none → s.bezel.grants = [] → s.bezel.presents = [] →
      s.bezel.fills = [] →
      ∃ r, exec (.bezelRefresh d) s = .next r ∧ (r.display d).count = (z.count + 1) % 2 ^ 32 ∧ SameBytes s r ∧
        (r.display d).frame.length = z.width * z.height ∧
        ∀ i j, i < z.width → j < z.height →
          let e := s.mapEntry d i j
          let layer := fun (o : Nat) => if o = 255 then none else u.layerFor d o
          let pixel := fun (l : Nat × Surf) => (u.layerPixel l.2 i j).getD 0
          let base : Word := match layer (e % 256) with
            | some l => pixel l
            | none => BitVec.ofNat 32 (z.bg.toNat % 2 ^ 24)
          ∃ w, (r.display d).frame[j * z.width + i]? = some w ∧ w.toNat / 2 ^ 24 = 255 ∧ ∀ c, c < 3 →
            chan w c = match layer (e / 256) with
              | none => chan base c
              | some l =>
                let under := if layEffect l.1 ≠ 0 ∧ e % 256 = e / 256 then u.blurred d (layEffect l.1) i j else base
                (chan (pixel l) c * chan (pixel l) 3 + chan under c * (255 - chan (pixel l) 3) + 127) / 255) ∧
    ((modeEn z.mode = false ∨ z.live = false) → exec (.bezelRefresh d) s = .next s) ∧
    (modeEn z.mode = true → z.live = false → z.next = none → s.bezel.grants = [] → s.bezel.presents = [] →
      s.bezel.fills = [] → ∃ r, exec (.displayLinkTrained d) s = .next r ∧ (r.display d).live = true ∧
        (r.display d).count = (z.count + 1) % 2 ^ 32) ∧
    ((modeEn z.mode = false ∨ z.live = true) → exec (.displayLinkTrained d) s = .next s) ∧
    (∀ o k, s.lockPairs v x = [4 * o + k] → k < 4 → exec (.lockedRefresh v x) s =
      .next (if s.lockedOn o k = true then s.latchPresent o k else s)) ∧
    ((∀ e ∈ s.blocks, (e.2.vdev, e.2.ctx) ≠ (v, x)) → exec (.lockedRefresh v x) s = .next s)

/-! ## Device steps: the fabric and the hypervisor -/

/-- Requests from other modules (R398, R400-R403, R418): a request that the import table does not admit is refused with
the interrupt; an admitted request of a signal word reads or changes it, and a wait answers once its condition holds; a
store, an atomic or a drain's sum leaves its bytes at the place that the window translates it to, and a load answers what
stands there. A stub holds an admitted request until the thaw is reported, then forwards all that it holds in order of
arrival, and later ones at once. A failed route completes a request, or parks its thread with NOTARGET. -/
def Obligations.FabricRequests : Prop :=
  (∀ (s : State) (q : FabricReq),
    let e := s.importOf q.window
    let v := impVdev e
    let i := (s.grant v).1 + impBase e % 2 ^ 19 + q.offset / 8
    let old := s.signal i
    (s.passes q = false → exec (.fabricIngressRequest q) s =
      .next { s with fabAnswers := .refused :: s.fabAnswers, irqs := (6, q.window) :: s.irqs }) ∧
    (s.passes q = true → s.stubbed q.window = true →
      ((s.vdev v).stubThawed = false → ∃ r, exec (.fabricIngressRequest q) s = .next r ∧
        r = { s with vdevs := r.vdevs, fabAnswers := .held :: s.fabAnswers } ∧
        (r.vdev v).stubHeld = (s.vdev v).stubHeld ++ [q]) ∧
      ((s.vdev v).stubThawed = true → exec (.fabricIngressRequest q) s =
        .next { s with forwarded := ((s.vdev v).dest, q) :: s.forwarded, fabAnswers := .held :: s.fabAnswers })) ∧
    (s.passes q = true → s.stubbed q.window = false → q.op.signal = true → i ≠ 0 →
      ∃ r, exec (.fabricIngressRequest q) s = .next r ∧ SameBytes s r ∧
        r.signal i = (match q.op with
          | .sigSt w => w
          | .sigAdd w => old + w
          | .sigCas x w => if old = x then w else old
          | _ => old) ∧
        ((∀ c w, q.op = .sigWait c w → condHolds c old w = true) →
          r.fabAnswers.head? = some (.done (bytesOfNat 8 old.toNat))) ∧
        (∀ c w, q.op = .sigWait c w → condHolds c old w = false →
          r = { s with fabWaits := s.fabWaits ++ [(i, c, w)] })) ∧
    (∀ pa s1, s.passes q = true → s.stubbed q.window = false → q.op.signal = false → s.mem.wf = true →
      s.ingressMemory q.source q.window q.offset q.op.size q.op.kind q.key q.op.big = (some pa, s1) →
      (targetOf pa = .stack ∨ targetOf pa = .cxl) →
      ∃ r, exec (.fabricIngressRequest q) s = .next r ∧
        let was := s.bytesAt pa q.op.size
        (∀ n, q.op = .load n → SameBytes s r ∧ r.fabAnswers = .done was :: s.fabAnswers) ∧
        (∀ bs, q.op = .store bs → Stored s r pa bs ∧ r.fabAnswers = .done [] :: s.fabAnswers) ∧
        (∀ f x y, q.op = .atom f x y → f ≠ .cas →
          Stored s r pa (bytesOfWord (f.apply (w32n (natOfBytes was)) x y)) ∧ r.fabAnswers = .done was :: s.fabAnswers) ∧
        (∀ x y, q.op = .atom .cas x y → r.fabAnswers = .done was :: s.fabAnswers ∧
          (w32n (natOfBytes was) = x → Stored s r pa (bytesOfWord y)) ∧
          (w32n (natOfBytes was) ≠ x → SameBytes s r)) ∧
        (∀ fmt bits, q.op = .sum fmt bits →
          Stored s r pa (bytesOfNat (drainSize fmt) (drainSum fmt (natOfBytes was) bits))))) ∧
  (∀ (s : State) (v : Nat),
    ((s.vdev v).frozen = true → (s.vdev v).stub = true → ∃ r, exec (.stubThawReport v) s = .next r ∧
      r = { s with vdevs := r.vdevs, forwarded := r.forwarded } ∧
      r.forwarded = ((s.vdev v).stubHeld.map fun q => ((s.vdev v).dest, q)).reverse ++ s.forwarded ∧
      (r.vdev v).stubThawed = true ∧ (r.vdev v).stubHeld = []) ∧
    (((s.vdev v).frozen = false ∨ (s.vdev v).stub = false) → exec (.stubThawReport v) s = .next s) ∧
    ((s.vdev v).stub = false → exec (.vdevStubClear v) s = .next s) ∧
    ((s.vdev v).stub = true → ∃ r, exec (.vdevStubClear v) s = .next r ∧ (r.vdev v).stub = false ∧
      (r.vdev v).stubHeld = [] ∧ r.fabAnswers.length = s.fabAnswers.length + (s.vdev v).stubHeld.length ∧
      SameBytes s r ∧ SameRegs s r)) ∧
  (∀ (s : State) (id : Nat) (o : Op), s.ops.find id = some o →
    (o.remote = false → ∀ b, exec (.linkRouteFailure id b) s = .next s) ∧
    (o.remote = true → exec (.linkRouteFailure id true) s = .next ((s.completeOp id).settle o.thr)) ∧
    (∀ va n sgn d, o.acc.acc = .load va n sgn d → targetOf o.pa = .fabric → (s.thr o.thr).live = true →
      exec (.linkRouteFailure id false) s = .next (({ s with ops := s.ops.del id }).park [(o.thr, o.acc)]
        { causeFault clsAccess causeNotarget with va := va })))

/-- What the hypervisor writes (R353, R407-R410, R413, R416, R417): an action while BUSY is set changes nothing. A freeze of
a virtual device with nothing resident ends at once with FROZEN set and an image of its queues, gates, signal words and
launches. A thaw without an image that fits sets MIGERR; one of an image brings back its registers, gates and signal words,
clears FROZEN, takes a new instance id, and counts a migration where the image is another module's. A share or a signal
grant is ignored where its rules do not hold, and else stored. Contexts are created, selected and destroyed by number, with
CTXERR where that may not be; the aperture writes the selected context. -/
def Obligations.TheHypervisorWrites : Prop :=
  ∀ (s : State) (v x : Nat) (w : Dword),
    let d := s.vdev v
    let y := d.ctxs.find x
    let g := s.grant v
    (d.busy = true → exec (.vdevFreeze v) s = .next s ∧ exec (.vdevThaw v) s = .next s) ∧
    (d.busy = false → (∀ e ∈ s.launches, e.2.vdev = v → s.launch? e.1 = some e.2 ∧ e.2.resident = false) →
      s.resets.contains v = false →
      ∃ r i, exec (.vdevFreeze v) s = .next r ∧ r = { s with vdevs := r.vdevs } ∧ (r.vdev v).frozen = true ∧
        (r.vdev v).busy = false ∧ (r.vdev v).image = some i ∧ i.module = Config.moduleNumber.toNat ∧
        i.profile = d.profile ∧ i.queues = d.queues ∧ i.dgates = d.dgates ∧
        i.signals = (List.range g.2).map (fun k => s.signal (g.1 + k)) ∧
        (i.launches.map fun z => (z.id, z.launch)) = s.launches.filter fun e => e.2.vdev = v) ∧
    (d.busy = false → (∀ i, d.image = some i → (d.frozen = false ∧ i.foreign = false) ∨ d.fits i.profile = false) →
      ∃ r, exec (.vdevThaw v) s = .next r ∧ r = { s with vdevs := r.vdevs } ∧ r.vdev v = { d with ctl := d.ctl ||| 1 }) ∧
    (∀ i, d.busy = false → d.image = some i → (d.frozen = true ∨ i.foreign = true) → d.fits i.profile = true →
      d.stubHeld = [] → (∀ e ∈ s.launches, e.2.vdev ≠ v) → i.launches = [] →
      ∃ r, exec (.vdevThaw v) s = .next r ∧ (r.vdev v).frozen = false ∧ (r.vdev v).ctl.getLsbD 0 = false ∧
        (r.vdev v).image = none ∧ r.made = s.made + 1 ∧ SameBytes s r ∧ (r.vdev v).dgates = i.dgates ∧
        (∀ q z, i.queues.find q = some z → (r.queue v q).ctl = z.ctl ∧ (r.queue v q).head = z.head ∧
          (r.queue v q).tail = z.tail ∧ (r.queue v q).err = z.err ∧ (r.queue v q).ring = z.ring) ∧
        (∀ k, k < i.signals.length → k < g.2 → r.signal (g.1 + k) = i.signals.getD k 0) ∧
        (d.created = true → (r.vdev v).profile.length = i.profile.length ∧ ∀ k, k < i.profile.length →
          (r.vdev v).profile.getD k 0 =
            if k = 1 ∨ k = 2 then (s.newProfile v).getD k 0
            else if k = 3 ∧ i.foreign = true then i.profile.getD k 0 + 1 else i.profile.getD k 0)) ∧
    (let share := w &&& 0x03FFFFFFFFFFFFFF
     let n := popCount share.toNat 36
     let others := ((s.vdevs.filter fun e => e.1 ≠ v).map fun e => e.2.bw).sum
     let bad := n = 0 ∨ (d.created = true ∧ 4 * n < (d.profile.getD 4 0).toNat) ∨ 256 < others + share.toNat / 2 ^ 50 % 256
     (bad → exec (.vdevShareWrite v w) s = .next s) ∧
     (¬ bad → ∃ r, exec (.vdevShareWrite v w) s = .next r ∧ r = { s with vdevs := r.vdevs } ∧
       r.vdev v = { d with share := share })) ∧
    (let g := w &&& 0x0007FFFF0007FFFF
     let lo := g.toNat % 2 ^ 19
     let n := g.toNat / 2 ^ 32
     let bad := lo < 4096 ∨ 524288 < lo + n ∨ (∃ e ∈ s.vdevs, e.1 ≠ v ∧ n ≠ 0 ∧ (s.grant e.1).2 ≠ 0 ∧
       lo < (s.grant e.1).1 + (s.grant e.1).2 ∧ (s.grant e.1).1 < lo + n) ∨
       (d.created = true ∧ n < (d.profile.getD 11 0).toNat)
     (bad → exec (.vdevSigWrite v w) s = .next s) ∧
     (¬ bad → ∃ r, exec (.vdevSigWrite v w) s = .next r ∧ r = { s with vdevs := r.vdevs } ∧ r.vdev v = { d with sig := g })) ∧
    (x < 1024 → y = none → ∃ r, exec (.ctxCreate v x) s = .next r ∧ r = { s with vdevs := r.vdevs } ∧
      (r.vdev v).ctxs.find x = some Ctx.empty ∧ (r.vdev v).selected = some x ∧ (r.vdev v).ctxcmd.getLsbD 2 = false) ∧
    ((1024 ≤ x ∨ y ≠ none) → ∃ r, exec (.ctxCreate v x) s = .next r ∧ (r.vdev v).ctxs = d.ctxs ∧
      (r.vdev v).ctxcmd.getLsbD 2 = true) ∧
    ((y = none ∨ s.ctxInUse v x = true) → ∃ r, exec (.ctxDestroy v x) s = .next r ∧ (r.vdev v).ctxs = d.ctxs ∧
      (r.vdev v).ctxcmd.getLsbD 2 = true) ∧
    (y ≠ none → s.ctxInUse v x = false → ∃ r, exec (.ctxDestroy v x) s = .next r ∧ (r.vdev v).ctxs.find x = none ∧
      (r.vdev v).ctxcmd.getLsbD 2 = false ∧
      ∀ c, c < 144 → ∀ t ∈ (r.core c).tlb, (t.vdev, t.ctx) ≠ (v, x)) ∧
    (∃ r, exec (.ctxSelect v x) s = .next r ∧ r = { s with vdevs := r.vdevs } ∧ (r.vdev v).ctxs = d.ctxs ∧
      (r.vdev v).selected = (if y = none then none else some x)) ∧
    (d.selected = none → exec (.ctxLegacyWrite v w) s = .next s ∧ exec (.ctxOwnerWrite v w) s = .next s) ∧
    (∀ k z, d.selected = some k → d.ctxs.find k = some z →
      (∃ r, exec (.ctxLegacyWrite v w) s = .next r ∧ r = { s with vdevs := r.vdevs } ∧
        (r.vdev v).ctxs.find k = some { z with legacy := w &&& 0xFFFFFFFFFF0D02C9 }) ∧
      (∃ r, exec (.ctxOwnerWrite v w) s = .next r ∧ r = { s with vdevs := r.vdevs } ∧
        (r.vdev v).ctxs.find k = some (if d.ownerOk (w.toNat % 256)
          then { z with owner := BitVec.ofNat 64 (w.toNat % 256) } else z)))

/-- The rest of the hub (R173, R203, R386, R412): a store of a signal word by the application cores sets it; a load changes
no word and no byte; a write of a register below its window or off its alignment does nothing, and of mem.hot.cfg writes
it; a publication moves each level by the rule; a drain's end answers a PCIe read with ones. -/
def Sys2Proof.Claims.TheHubServes : Prop :=
  (∀ (s : State) (n : Nat) (w : Dword),
    (524288 ≤ n → exec (.hostSignalStore n w) s = .next s) ∧
    (0 < n → n < 524288 → ∃ r, exec (.hostSignalStore n w) s = .next r ∧ r.signal n = w ∧ SameBytes s r ∧ SameRegs s r ∧
      ∀ k, k ≠ n → k ≠ 0 → r.signal k = s.signal k) ∧
    (∃ r, exec (.hostSignalLoad n) s = .next r ∧ r = { s with hostSeen := r.hostSeen })) ∧
  (∀ (s : State) (pa o : Nat) (w : Dword),
    ((pa < regBase ∨ pa % 8 ≠ 0) → exec (.registerWrite pa o w) s = .next s) ∧
    exec (.registerWrite (regBase + 0x150000) o w) s = .next { s with
      hotCfg := w &&& 0x0000FFFFFFF00001, hotCnt := if w.getLsbD 0 then s.hotCnt else [] } ∧
    (∀ v, v < 32 → exec (.registerWrite (regBase + 0x20008 + 0x1000 * v) o w) s = exec (.vdevShareWrite v w) s)) ∧
  (∀ (s : State) (shares : List Nat) (busy : Bool),
    ∃ r, exec (.bandwidthPublication shares busy) s = .next r ∧ r = { s with usec := r.usec, cores := r.cores } ∧
      r.usec = s.usec + 1 ∧ ∀ c v, c < 144 → v < 32 →
        let bw := (s.vdev v).share.toNat / 2 ^ 50 % 256
        let past := bw = 0 ∨ bw * shares.sum < shares.getD v 0 * 256
        let old := (s.core c).throttle.get v 0
        (r.core c).throttle.get v 0 = if busy = true ∧ past then min (old + 1) 7 else old - 1) ∧
  (∀ (s : State) (v id : Nat) (o : Op) (va : Dword) (n d : Nat) (sgn : Bool),
    (s.drains v = false → exec (.drainPcieTimeout v) s = .next s) ∧
    (s.drains v = true → s.ops = [(0, { o with acc := { o.acc with acc := .vdrain v } }), (id, o)] → 0 < id →
      o.acc.acc = .load va n sgn d → o.result = none → targetOf o.pa = .io → o.pa < regBase → isAgent o.thr = false →
      coreOf o.thr < 144 → (s.tagOf o.thr).1 = v →
      exec (.drainPcieTimeout v) s = .next (((s.writeResult o.thr o.acc d
        (loadWords n sgn (List.replicate n 0xFF))).retire id o).settle o.thr)))

/-! ## Device steps: Assay -/

/-- Assay (R436-R441): an extension by the application cores goes to registers 8 to 15 while the log has room, each new
value being the SHA-384 digest of the old one and the digest. An accepted image is copied to the idle code area and staged,
and the agents are to quiesce; any other request ends with nothing staged. At a timeout with an agent that has not parked
the hand-over is abandoned; once all have parked the commit extends registers 2 and 5, adds 1 to GEN, makes the new area
current and starts the agents at its firmware's entry. Every SPDM request is answered from the registers, the log and the
generation as they stand, and changes only the answer. -/
def Sys2Proof.Claims.AssayMeasuresAndAnswers : Prop :=
  ∀ (s : State) (k : Nat) (d : BitVec 384) (bs : List Byte) (asym hash slot index : Nat) (nonce : Dword), s.started = true →
    let a := s.assay
    let answers := fun (o : Out) (f : Answer → Prop) => ∃ r, o = .next r ∧
      r = { s with assay := { a with answer := r.assay.answer } } ∧ f r.assay.answer
    let signed := fun (code : Nat) (x : Answer) => x.code = code ∧ x.meas = a.meas ∧ x.gen = a.gen ∧
      x.log = a.log.flatMap LogEnt.bytes ∧ x.ecdsa = Config.signature x.digest ∧ x.lms = Config.lmsSignature x.digest
    let quiet := fun (c : Nat) => (s.core c).wfi ≠ none ∨ (s.core c).fwStopped = true ∨ (s.core c).parked = true
    ((k < 8 ∨ 16 ≤ k ∨ 1024 ≤ a.log.length) → exec (.assayExtend k d) s = .next s) ∧
    (8 ≤ k → k < 16 → a.log.length < 1024 → a.meas.length = 16 → ∃ r, exec (.assayExtend k d) s = .next r ∧
      r = { s with assay := { a with meas := r.assay.meas, log := r.assay.log } } ∧
      r.assay.log = a.log ++ [{ reg := k, event := 6, gen := a.gen, digest := d }] ∧
      ∀ n, n < 16 → r.assay.meas.getD n 0 = if n = k then sha384Pair (a.meas.getD k 0) d else a.meas.getD n 0) ∧
    ((a.hphase = 1 ∨ a.hphase = 2) → exec (.handoverStage bs) s = .next s) ∧
    (a.hphase ≠ 1 → a.hphase ≠ 2 → acceptedImage 2 bs = none →
      exec (.handoverStage bs) s = .next { s with assay := { a with hphase := 0 } }) ∧
    (∀ x, a.hphase ≠ 1 → a.hphase ≠ 2 → acceptedImage 2 bs = some x →
      exec (.handoverStage bs) s = .next { s with
        mem := s.mem.writeN (Config.codeArea (1 - a.area)) x.code
        assay := { a with areas := a.areas.put (1 - a.area) x.code, stage := some bs, hphase := 1 }
        agenda := s.agenda ++ [.quiesce] }) ∧
    (a.hphase ≠ 2 → exec .handoverTimeout s = .next s) ∧
    (a.hphase = 2 → (∃ c, c < 144 ∧ ¬ quiet c) →
      ∃ r, exec .handoverTimeout s = .next r ∧ r.assay = { a with stage := none, hphase := 3 } ∧
        ∀ c, c < 144 → (r.core c).parked = false) ∧
    (∀ x, a.hphase = 2 → a.stage = some bs → readImage bs = some x → (∀ c, c < 144 → quiet c) → a.meas.length = 16 →
      ∃ r, exec .handoverTimeout s = .next r ∧ r.assay.gen = a.gen + 1 ∧ r.assay.hphase = 0 ∧ r.assay.stage = none ∧
        r.assay.area = 1 - a.area ∧
        (∀ n, n < 16 → r.assay.meas.getD n 0 = if n = 2 then sha384Pair (a.meas.getD 2 0) x.digest
          else if n = 5 then sha384Pair (a.meas.getD 5 0) (Config.eventDigest 4) else a.meas.getD n 0) ∧
        (∀ c l, c < 144 → l < 32 → (r.thr (mkThread c 63 0 l)).live = true ∧ (r.thr (mkThread c 63 0 l)).pc =
          BitVec.ofNat 48 (Config.codeArea (1 - a.area) + Config.firmwareEntry (a.areas.get (1 - a.area) []))) ∧
        ∀ c, c < 144 → (r.core c).parked = false ∧ (r.core c).wfi = none ∧ (r.core c).fwStopped = false) ∧
    answers (exec .getVersion s) (fun x => x.code = 1 ∧ x.data = [0x12]) ∧
    answers (exec .getCapabilities s) (fun x => x.code = 2) ∧
    answers (exec (.negotiateAlgorithms asym hash) s)
      (fun x => x.code = if asym / 2 ^ 7 % 2 = 1 ∧ hash / 2 % 2 = 1 then 3 else 127) ∧
    answers (exec (.getDigests slot) s) (fun x => x.code = if slot = 0 then 4 else 127) ∧
    answers (exec (.getCertificate slot) s) (fun x => x.code = if slot = 0 then 5 else 127) ∧
    answers (exec (.challenge slot nonce) s) (fun x => if slot = 0 then signed 6 x else x.code = 127) ∧
    answers (exec (.getMeasurements index nonce) s) (fun x =>
      (index = 0 → signed 7 x ∧ x.blocks = []) ∧
      (1 ≤ index → index ≤ 16 → signed 7 x ∧ x.blocks = [(index, digestBytes (a.meas.getD (index - 1) 0))]) ∧
      (index = 17 → signed 7 x ∧ x.blocks = [(17, bytesOfWord a.gen)]) ∧
      (index = 255 → signed 7 x ∧ x.blocks.length = 17 ∧ ∀ n, n < 17 → x.blocks.getD n (0, []) =
        (n + 1, if n = 16 then bytesOfWord a.gen else digestBytes (a.meas.getD n 0))) ∧
      (17 < index → index ≠ 255 → x.code = 127)) ∧
    answers (.next s.otherRequest) (fun x => x.code = 127)

/-- Starts (R435, R436, R440, R442-R444): either start begins with the measurement of the boot ROM in register 0. A cold
start with every image accepted measures each in its order, leaves memory empty but for the firmware in code area 0, and
starts the agents at its entry; one that fails leaves the module in safe mode, with the status image on display 0 and the
recovery image where it is accepted, and memory kept where the scrub was not reached. A warm start keeps memory; a failure
is counted, and after three, or after an uncorrectable error in Assay's memory, the start is cold. -/
def Sys2Proof.Claims.StartsOfTheModule : Prop :=
  ∀ (s : State) (x : StartInput),
    let ok := fun (k : Nat) (bs : List Byte) => (acceptedImage k bs).isSome = true
    let good := ok 1 x.assay ∧ ok 2 x.hub ∧ ok 3 x.boot
    let rom := fun (r : State) => r.assay.meas.getD 0 0 = sha384Pair 0 (sha384 Config.bootRom) ∧ r.assay.gen = 1
    let begun := fun (r : State) (capped : Bool) (event : Nat) (m : Mem) => r.started = true ∧ r.safe = false ∧
      r.capped = capped ∧ r.assay.wfail = 0 ∧ rom r ∧ r.assay.log.map LogEnt.reg = [0, 1, 2, 3, 4, 5] ∧
      r.assay.meas.getD 4 0 = sha384Pair 0 (Config.configDigest capped Config.cxlBytes
        ((List.range 4).map fun k => Config.minSvn (k + 1))) ∧
      r.assay.meas.getD 5 0 = sha384Pair 0 (Config.eventDigest event) ∧
      ∀ i h b, acceptedImage 1 x.assay = some i → acceptedImage 2 x.hub = some h → acceptedImage 3 x.boot = some b →
        r.assay.meas.getD 1 0 = sha384Pair 0 i.digest ∧ r.assay.meas.getD 2 0 = sha384Pair 0 h.digest ∧
        r.assay.meas.getD 3 0 = sha384Pair 0 b.digest ∧ r.mem = m.writeN (Config.codeArea 0) h.code ∧
        r.threads = agentsAt (BitVec.ofNat 48 (Config.codeArea 0 + Config.firmwareEntry h.code))
    (good → x.trained = true → x.scrubbed = true → ∃ r, exec (.coldStart x) s = .next r ∧ begun r x.capped 1 [] ∧
      r.assay.start = 0) ∧
    ((¬ good ∨ x.trained = false ∨ x.scrubbed = false) → ∃ r, exec (.coldStart x) s = .next r ∧ r.started = false ∧
      r.safe = true ∧ rom r ∧ r.threads = [] ∧ r.assay.meas.getD 5 0 = sha384Pair 0 (Config.eventDigest 3) ∧
      r.assay.recovery = (acceptedImage 4 x.recovery).map Image.code ∧ (r.display 0).frame = Config.statusImage ∧
      (acceptedImage 1 x.assay = none ∨ x.trained = false → r.mem = s.mem) ∧
      (ok 1 x.assay → x.trained = true → r.mem = [])) ∧
    ((3 ≤ s.assay.wfail ∨ s.assay.upset = true) → exec (.warmStart x) s = exec (.coldStart x) s) ∧
    (s.assay.wfail < 3 → s.assay.upset = false →
      (good → ∃ r, exec (.warmStart x) s = .next r ∧ begun r x.capped 2 s.mem ∧ r.assay.start = 1) ∧
      (¬ good → ∃ r, exec (.warmStart x) s = .next r ∧ r.started = false ∧ r.safe = false ∧
        r.mem = s.mem ∧ r.assay.wfail = s.assay.wfail + 1 ∧ rom r))

/-! ## Decoding -/

/-- Decoding inverts encoding (R28-R40): every well-formed instruction of a class, whatever its operands, is read back
from its words, whatever follows them; and a word that decodes is the first word of what its instruction encodes to, its
literals after it, so that no bit of a word is dropped. -/
def Obligations.DecodingInvertsEncoding : Prop :=
  (∀ (i : Instr) (c : Cls) (quota : Nat) (rest : List Word), i.wf quota = true → i.cls = some c →
    ∃ w lits, encode i = w :: lits ∧ lits.length = i.litCount ∧ decodeWord c w (lits ++ rest) = .ok i) ∧
  (∀ (i : Instr) (c : Cls) (w : Word) (rest : List Word), decodeWord c w rest = .ok i →
    i.cls = some c ∧ encode i = w :: rest.take i.litCount)

/-- Words of the spec's examples decode to what they stand for (R26, R69, R73, R82, R83, R85, R86, R376, R281). -/
def Obligations.WordsOfTheSpecDecode : Prop :=
  decodeHeader 0xA4302423 = some { setb := some 4, seta := some 3, wait := 0x024, cls := .mem, yield := false, count := 3 } ∧
  decodeWord .mem 0x04021020 [] = .ok (.ld32 .lane 1 4 4 0) ∧ decodeWord .mem 0x090E1002 [] = .ok (.st32 .lane 7 4 0 2) ∧
  decodeWord .alu 0x25080410 [] = .ok (.ffma .lane 4 1 2 0) ∧ decodeWord .alu 0x20420818 [] = .ok (.isetp .lane 2 0 1 2 3 0) ∧
  decodeWord .ctrl 0x01FFFFF8 [] = .ok (.bra .lane (-8)) ∧ decodeWord .ctrl 0x0A030004 [5] = .ok (.brk .lane 3 4 5) ∧
  decodeWord .mtx 0xC9CD8B28 [] = .ok (.wload .block 102 98 101 0) ∧
  decodeWord .async 0xC0018000 [] = .ok (.copy .block 96 0) ∧ decodeWord .gfx 0x01000E28 [] = .ok (.attrEmit .lane 3 2 5 0) ∧
  decodeWord .sys 0x40C40000 [] = .ok (.srd .warp 98 0)

/-! ## The machine -/

/-- A step (R10, R11): with nothing due, a started module outside safe mode whose partition has a clause in progress runs
the instruction that the word at the clause's position decodes to, in the state as it stands where no thread of the group
runs a task and no byte has an uncorrectable error; it then goes on to the word after it and its literals while words and
threads are left, and else to the end of the clause, where each thread of the group stands at the target it chose or at the
clause that follows. A drain holds the clause (R386). A device step that is due comes first. After either, a reset whose
agents have acknowledged and a hand-over whose agents have parked go on; with neither under way, nothing does. -/
def Obligations.AStepRunsTheDecodedWord : Prop :=
  (∀ (s : State) (i : Issue) (w : Word) (rest : List Word) (x : Instr), s.agenda = [] → s.safe = false → s.started = true →
    s.issue = some i → i.words.drop i.pos = w :: rest → decodeWord i.head.cls w rest = .ok x →
    (s.drainHolds (i.group.headD 0) = true → step s = .next ({ s with cur := (s.cur + 1) % 576 } : State).goOn) ∧
    (s.drainHolds (i.group.headD 0) = false → ∀ r, exec x ((s.countWord i x).checkRegs i x) = .next r →
      step s = .next (({ r with cur := s.cur } : State).afterWord x).goOn) ∧
    ((∀ t ∈ i.group, (s.thr t).task = none) → s.poison = [] → (s.countWord i x).checkRegs i x = s)) ∧
  (∀ (s : State) (i : Issue) (x : Instr), s.issue = some i →
    let n := i.pos + 1 + x.litCount
    let g := i.group.filter fun t => (s.thr t).live
    (n < i.words.length → g ≠ [] → ∃ j, s.afterWord x =
        (s.modThrs (i.group.filter fun t => (s.thr t).again) fun th => { th with again := false }).setIssue j ∧ j.pos = n ∧ j.group = g ∧ j.words = i.words ∧ j.hdr = i.hdr) ∧
    ((i.words.length ≤ n ∨ g = []) → (s.afterWord x).cur = (s.cur + 1) % 576 ∧ (s.afterWord x).issues.find s.cur = none ∧
      (g.Nodup → ∀ t ∈ g, ((s.afterWord x).thr t).npc = none ∧
        ((s.afterWord x).thr t).pc = match (s.thr t).npc with
          | some a => a
          | none => BitVec.ofNat 48 (i.hdr.toNat + 4 * (i.head.count + 1))))) ∧
  (∀ (s t : State) (x : Instr) (r : List Agenda), s.agenda = .event x :: r → exec x { s with agenda := r } = .next t →
    step s = .next t.goOn) ∧
  (∀ s : State, s.resets = [] → s.assay.hphase ≠ 2 → s.goOn = s)

/-- Every instruction completes, in every state; and a step stops only where nothing is due and the module is in safe
mode (R443), with the fault of that name. -/
def Obligations.EveryStepCompletes : Prop :=
  (∀ (i : Instr) (s : State), ∃ t, exec i s = .next t) ∧
  (∀ s : State, (Safety.Stopped s → step s = .fault .safeMode) ∧ (¬ Safety.Stopped s → ∃ t, step s = .next t))

/-- The pick (R42, R43, R101, R102): a ready thread alone on its partition, at a clause of lane scope, starts the clause
where it stands in it, if the clause passes its checks; else it takes the exception of the first check that fails, at the
word that fails. While a flag of the clause's wait mask is set, nothing starts. -/
def Sys2Proof.Claims.AReadyThreadStartsItsClause : Prop :=
  ∀ (s : State) (c p t : Nat) (h : Header) (ws : List Word), c < 144 → p < 3 → s.issues = [] → s.threadsOn c p = [t] →
    (s.thr t).task = none → s.held t = false → (s.thr t).rdv = none → s.look t = .clause h ws →
    (Look.clause h ws).scope = .lane →
    let ps := parseClause h.cls 0 1 ws
    let check := checkWords h.cls ps .lane true (placeOf t) (s.minQuota [t])
    ((s.thr t).cf &&& h.wait ≠ 0 → ∃ r, exec (.pick c p) s = .next r ∧ r.issues = [] ∧ SameRegs s r ∧ SameBytes s r) ∧
    (s.canStart (.clause h ws) [t] = true →
      (check = none → ∃ r i, exec (.pick c p) s = .next r ∧ r.issue = some i ∧ i.hdr = (s.thr t).pc ∧ i.head = h ∧
        i.words = ws ∧ i.group = [t] ∧ i.pos = ((s.thr t).stop.map StopAt.word).getD 0 ∧ SameRegs s r ∧ SameBytes s r) ∧
      (∀ cls n, check = some (cls, n) → ∃ u : State, SameRegs s u ∧ SameBytes s u ∧ u.blocks = s.blocks ∧
        exec (.pick c p) s = .next (u.raise [t]
          { hdr := (s.thr t).pc, word := n, scope := .lane, swcode := 0, detail := 0 } (plainFault cls) none)))

/-- Privilege (R27, R42, R373): every word of the system class is refused to user code: no user thread's clause that holds
one passes the checks, and where no word of it fails the clause's own rules the fault is ILLEGAL_OP. Words that only a
handler or only the agent may run are refused to the other. -/
def Sys2Proof.Claims.SystemWordsArePrivileged : Prop :=
  (∀ (w : Word) (rest : List Word) (i : Instr), decodeWord .sys w rest = .ok i →
    sysOk .user i = false ∧ (sysOk .handler i = true ∨ sysOk .agent i = true)) ∧
  (∀ (c : Cls) (ps : List Parsed) (sc : Scope) (legal : Bool) (pl : Place) (quota : Nat) (p : Parsed) (i : Instr),
    p ∈ ps → p.res = .ok i → sysOk pl i = false →
    (∃ n, checkWords c ps sc legal pl quota = some n) ∧
    (clauseErr c sc 0 ps = none → ∃ n, checkWords c ps sc legal pl quota = some (1, n))) ∧
  (∀ (sc : Scope) (a b d : BitVec 7) (p : BitVec 3),
    sysOk .agent (.eret sc p) = false ∧ sysOk .agent (.ctxRd sc d a p) = false ∧ sysOk .agent (.ctxWr sc a b p) = false ∧
    sysOk .agent (.faultRd sc d p) = false ∧ sysOk .agent (.resumeKill sc a b p) = false ∧
    sysOk .handler (.wfi sc d a p) = false ∧ sysOk .handler (.agentClaim sc d p) = false ∧
    sysOk .handler (.blkStart sc a p) = false ∧ sysOk .handler (.blkStop sc a p) = false ∧
    sysOk .handler (.ctxSave sc a p) = false ∧ sysOk .handler (.ctxLoad sc a p) = false ∧
    sysOk .handler (.vdevDrain sc a p) = false ∧ sysOk .handler (.poolClr sc a p) = false)

/-- Taking an exception (R342-R347, R447): a user thread is suspended at its stop point, no other thread and no byte
changes, and its record joins the block's queue of 32. With a handler enabled and none running, the handler starts: 32
threads at ctx.trap, and the frame of the oldest record in s0 to s5. With none enabled, or in a handler's own thread, the
launch ends and its queue halts with ERR 13. In the agent it is a firmware fault: the agent stops and the hub records the
first of them. -/
def Obligations.ExceptionsAreTaken : Prop :=
  ∀ (s : State) (t : Nat) (w : FaultAt) (f : MemFault) (stop : Option StopAt),
    let c := coreOf t
    let b := s.block c
    let r := s.raise [t] w f stop
    let rec_ := s.mkRec (warpKeyOf t) [t] w f
    let ended := ∀ x, s.launch? b.launch = some x →
      r.launch? b.launch = none ∧ (r.queue x.vdev x.queue).err = 13 ∧ (r.queue x.vdev x.queue).phase = 3
    (isAgent t = false → isHandler t = false →
      (b.handler.isSome = true ∨ b.trap.getLsbD 0 = true →
        r.thr t = (s.thr t).suspend stop f.parks ∧ (r.thr t).susp = true ∧ (r.thr t).pc = (s.thr t).pc ∧
        (∀ m, m ≠ t → bankOf m = 0 → r.thr m = s.thr m) ∧ SameBytes s r ∧
        (r.block c).recs = (b.recs ++ b.waitRecs ++ [rec_]).take 32 ∧
        (r.block c).waitRecs = (b.recs ++ b.waitRecs ++ [rec_]).drop 32) ∧
      (b.handler = none → b.trap.getLsbD 0 = true → b.recs = [] → b.waitRecs = [] →
        let slot := slotOfName rec_.warp
        let u := mkWarp c slot 1
        (r.block c).handler = some slot ∧ (r.warp u).quota = 16 ∧
        (∀ l, l < 32 → (r.thr (mkThread c slot 1 l)).live = true ∧
          (r.thr (mkThread c slot 1 l)).pc = BitVec.ofNat 48 (b.trap.toNat / 4 * 4)) ∧
        (r.warp u).s.get 0 0 = BitVec.ofNat 32 (f.cls + 256 * w.scope.bits.toNat) ∧
        (r.warp u).s.get 1 0 = BitVec.ofNat 32 rec_.warp ∧ (r.warp u).s.get 2 0 = BitVec.ofNat 32 rec_.lanes ∧
        (r.warp u).s.get 3 0 = BitVec.ofNat 32 w.hdr.toNat ∧
        (r.warp u).s.get 4 0 = BitVec.ofNat 32 (w.hdr.toNat / 2 ^ 32) ∧ (r.warp u).s.get 5 0 = 1) ∧
      (b.handler = none → b.trap.getLsbD 0 = false → ended)) ∧
    (isAgent t = false → isHandler t = true → ended) ∧
    (isAgent t = true → (r.core c).fwStopped = true ∧ r.irqs = (5, c) :: s.irqs ∧ SameBytes s r ∧ r.blocks = s.blocks ∧
      r.fwfault = if s.fwfault.getLsbD 63 then s.fwfault else BitVec.ofNat 64 (2 ^ 63 + f.cls * 256 + c))

/-- Memory (R4, R84, R199): a write's bytes are what its place then reads, every other byte reads as before, it is the
newest of the coherence order with what it replaced, and the memories keep their canonical form; two memories of that
form that read alike are equal. -/
def Sys2Proof.Claims.MemoryReadsWhatWasWritten : Prop :=
  (∀ (s : State) (party path obj a : Nat) (bs : List Byte), s.mem.wf = true → s.scratch.wf = true → a + bs.length ≤ scratchBase ∨ scratchBase ≤ a →
    let r := s.write party path obj a bs
    Stored s r a bs ∧ r.mem.wf = true ∧ r.scratch.wf = true ∧ r.serial = s.serial + 1 ∧
    r.wlog = { serial := s.serial + 1, addr := a, old := s.bytesAt a bs.length, new := bs, path := path, party := party, obj := obj } :: s.wlog) ∧
  (∀ m n : Mem, m.wf = true → n.wf = true → (∀ a, m.read a = n.read a) → m = n)

/-- Message passing (R194-R197): what a thread stored on the LANE path before it releases an object is what another
thread's LANE read of a region bound to the object returns, once it has acquired the object; and a thread reads its own
newest store. -/
def Sys2Proof.Claims.AReleasedWriteIsSeenByItsAcquirer : Prop :=
  ∀ (s : State) (a b k reg pa : Nat) (bs : List Byte), 0 < bs.length → pa % 8 + bs.length ≤ 8 → (∀ e ∈ s.wlog, e.serial ≤ s.serial) →
    (∀ t n x, (s.thr t).lastRead.find n = some x → x ≤ s.serial) →
    let s1 := s.write a pathLane k pa bs
    let s3 := (s1.releaseObj a k 0).acquire b k 0 maskDefault
    let reads := fun (s : State) (t : Nat) =>
      (s.readUnit t (s.floorOf t pathLane reg pa bs.length) pa bs.length s.serial).1
    reads s1 a = bs ∧ (boundTo reg k = true → reads s3 b = bs)

/-- What reset leaves (R21, R173-R175, R185, R187, R300, R344, R374, R375, R409, R421, R436): the values that the spec
gives; nothing runs, no memory is listed. -/
def Obligations.ResetLeavesTheStatedValues : Prop :=
  let s := State.reset
  s.started = false ∧ s.safe = false ∧ s.mem = [] ∧ s.hotCfg = 0 ∧ s.hotPtr = 0 ∧ s.hotCnt = [] ∧ s.quar = [] ∧
  s.epoch = 0 ∧ s.fwfault = 0 ∧ (∀ n, s.signal n = 0) ∧
  (∀ v, (s.vdev v).owner = 0xFE01 ∧ (s.vdev v).ctl = 0 ∧ (s.vdev v).s2tb = 0 ∧ (s.vdev v).savefault = 0 ∧
    (s.vdev v).tmcount = 0 ∧ (s.vdev v).created = false) ∧
  (∀ c, (s.core c).sysSel = 0 ∧ (s.core c).sysRst.toNat % 8 = 0 ∧ (s.core c).tlb = [] ∧ (s.block c).active = false) ∧
  (∀ v q, (s.queue v q).tail = 0 ∧ (s.queue v q).head = 0 ∧ (s.queue v q).phase = 0 ∧ (s.queue v q).enabled = false) ∧
  Ctx.empty.legacy = 0 ∧ Ctx.empty.owner = 0xFF ∧ Ctx.empty.trap = 0 ∧ Ctx.empty.ttb = 0 ∧
  (∀ n, n < 16 → s.assay.meas.getD n 1 = 0) ∧
  (∀ h, surfOf (s.bezel.surf h) = none) ∧ (∀ n, grantOf (s.bezel.grant n) = none) ∧
  s.mem.wf = true ∧ s.scratch.wf = true ∧ s.accm.wf = true ∧ s.wbuf.wf = true

/-- No step breaks the canonical form of memory, of the scratchpads, of the accumulators or of the weight buffers. -/
def Obligations.EveryStepKeepsTheCanonicalForm : Prop :=
  ∀ s t : State, s.mem.wf = true → s.scratch.wf = true → s.accm.wf = true → s.wbuf.wf = true →
    Machine.step s = .next t → t.mem.wf = true ∧ t.scratch.wf = true ∧ t.accm.wf = true ∧ t.wbuf.wf = true

/-! ## Statements of several parts -/

/-- Integer logic, shifts, rotations, bit fields and counts: the parts, each stated above. -/
def Obligations.IntegerLogicAndFields : Prop :=
  Sys2Proof.Claims.LogicShiftsAndRotations ∧ Sys2Proof.Claims.BitFieldsAndCounts

/-- Comparisons, predicate logic and predicate moves: the parts, each stated above. -/
def Obligations.ComparisonsAndPredicates : Prop :=
  Sys2Proof.Claims.ComparisonsAndPredicateLogic ∧ Sys2Proof.Claims.PredicateMoves

/-- F32 words, packed halves and conversions: the parts, each stated above. -/
def Obligations.FloatsAndConversions : Prop :=
  Sys2Proof.Claims.FloatWords ∧ Sys2Proof.Claims.PackedAndConversions ∧ Sys2Proof.Claims.Conversions

/-- Misaligned accesses, and accesses whose translation faults: the parts, each stated above. -/
def Obligations.BadAddressesStopTheirThreads : Prop :=
  Sys2Proof.Claims.MisalignedAccessesTakeAlign ∧ Sys2Proof.Claims.TranslationFaultsPark

/-- Atomics and reductions: the parts, each stated above. -/
def Obligations.AtomicsAndReductions : Prop :=
  Sys2Proof.Claims.AtomicsUpdateTheirWord ∧ Sys2Proof.Claims.ReductionsUpdateTheirWord

/-- Regions, fences, cache maintenance and prefetch: the parts, each stated above. -/
def Obligations.RegionsAndMaintenance : Prop :=
  Sys2Proof.Claims.RegionsJoinAndLeaveTheList ∧ Sys2Proof.Claims.FencesMaintenanceAndPrefetch

/-- Releases, acquires and gates: the parts, each stated above. -/
def Obligations.ReleasesAcquiresAndGates : Prop :=
  Sys2Proof.Claims.ReleaseAndAcquire ∧ Sys2Proof.Claims.GatesPassBetweenParties ∧ Sys2Proof.Claims.APassedGateGoesToItsFirstRequest

/-- Branches, and targets that fail: the parts, each stated above. -/
def Obligations.BranchesAndTheirTargets : Prop :=
  Sys2Proof.Claims.BranchesChooseTheNextClause ∧ Sys2Proof.Claims.FailingTargetsTakeIllegalClause

/-- Calls, returns and exits: the parts, each stated above. -/
def Obligations.CallsReturnsAndExits : Prop :=
  Sys2Proof.Claims.CallsPushTheReturnAddress ∧ Sys2Proof.Claims.ReturnsPopOrRefillOrExit ∧ Sys2Proof.Claims.AThreadThatExitsLeavesEveryGroup

/-- Special registers, features and TRAP: the parts, each stated above. -/
def Obligations.SpecialRegistersAndTraps : Prop :=
  Sys2Proof.Claims.SpecialRegistersAndFeatures ∧ Sys2Proof.Claims.TrapTakesItsException

/-- Hardware barriers: the parts, each stated above. -/
def Obligations.BarriersAndTheirPhases : Prop :=
  Sys2Proof.Claims.HardwareBarriers ∧ Sys2Proof.Claims.TheLastArrivalCompletesThePhase

/-- Exchange, votes, reductions, scans and YIELD: the parts, each stated above. -/
def Obligations.GroupOperations : Prop :=
  Sys2Proof.Claims.ExchangeVotesReductionsAndScans ∧ Sys2Proof.Claims.ReductionFunctions ∧ Sys2Proof.Claims.YieldMarksItsThreads

/-- Sets and quotas: the parts, each stated above. -/
def Obligations.SetsAndTheirQuotas : Prop :=
  Sys2Proof.Claims.SetsAndQuotas ∧ Sys2Proof.Claims.QuotaMovesRegisters

/-- Spawns, bins and spawned warps: the parts, each stated above. -/
def Obligations.SpawnsAndTheirBins : Prop :=
  Sys2Proof.Claims.SpawnsEnterBins ∧ Sys2Proof.Claims.BinsLaunchWarps

/-- Speculative tasks from spawn to end or restart: the parts, each stated above. -/
def Obligations.SpeculativeTasks : Prop :=
  Sys2Proof.Claims.SpeculationWordsInTheWrongPlace ∧ Sys2Proof.Claims.SpawnedTasksEnterBins ∧ Sys2Proof.Claims.TasksEndTheirSpeculation ∧ Sys2Proof.Claims.AbortedTasksRestart

/-- The conflict unit and its table: the parts, each stated above. -/
def Obligations.TheConflictUnit : Prop :=
  Sys2Proof.Claims.ConflictComparison ∧ Sys2Proof.Claims.AdmittedOperations ∧ Sys2Proof.Claims.TheConflictTableIsRead

/-- Commands of the matrix engine: the parts, each stated above. -/
def Obligations.TrellisCommands : Prop :=
  Sys2Proof.Claims.MatrixCommandsEnterTheQueue ∧ Sys2Proof.Claims.AccumulatorCommandsEnterTheQueue ∧ Sys2Proof.Claims.WeightLoadsAndDrainsEnterTheQueue

/-- Commands of the copy unit, of Filigree and of the graph walker: the parts, each stated above. -/
def Obligations.CopySliceAndGraphCommands : Prop :=
  Sys2Proof.Claims.CopiesAndSlicesEnterTheirQueues ∧ Sys2Proof.Claims.GraphCommandsEnterTheQueue ∧ Sys2Proof.Claims.GuardsAndEngineStatus

/-- Operand queues and queue ports: the parts, each stated above. -/
def Obligations.OperandQueuesAndTheirPorts : Prop :=
  Sys2Proof.Claims.OperandQueues ∧ Sys2Proof.Claims.QueuePortsPop

/-- What the engines do: the parts, each stated above. -/
def Obligations.EnginesRunTheirWork : Prop :=
  Sys2Proof.Claims.EnginesRunTheirQueuesInOrder ∧ Sys2Proof.Claims.SlicesAndGraphNodesAdvance

/-- Triangles, attributes and coverage: the parts, each stated above. -/
def Obligations.TrianglesAndCoverage : Prop :=
  Sys2Proof.Claims.TrianglesAndAttributesAreEmitted ∧ Sys2Proof.Claims.ASharedEdgeIsCoveredOnce

/-- The end of a handler, and fault records: the parts, each stated above. -/
def Obligations.HandlersAndTheirRecords : Prop :=
  Sys2Proof.Claims.TheHandlerEnds ∧ Sys2Proof.Claims.FaultRecordsAreRead

/-- TLB invalidation, drains and the clearing of storage: the parts, each stated above. -/
def Obligations.InvalidationsDrainsAndClears : Prop :=
  Sys2Proof.Claims.TranslationsAreInvalidated ∧ Sys2Proof.Claims.DrainsAndClears

/-- What the agent does to place and stop blocks, and its waits: the parts, each stated above. -/
def Obligations.AgentsPlaceBlocks : Prop :=
  Sys2Proof.Claims.BlocksStartAndStop ∧ Sys2Proof.Claims.TheAgentWaits

/-- Queues and their records: the parts, each stated above. -/
def Obligations.QueuesAndTheirRecords : Prop :=
  Sys2Proof.Claims.QueuesAreNotified ∧ Sys2Proof.Claims.RecordsBecomeLaunches

/-- Bezel's window and its refreshes: the parts, each stated above. -/
def Obligations.TheCompositor : Prop :=
  Sys2Proof.Claims.BezelIsWritten ∧ Sys2Proof.Claims.DisplaysRefresh

/-- Assay, SPDM, hand-over and the starts of the module: the parts, each stated above. -/
def Obligations.AssayAndStarts : Prop :=
  Sys2Proof.Claims.AssayMeasuresAndAnswers ∧ Sys2Proof.Claims.StartsOfTheModule

/-- The pick, the checks of a clause, and privilege: the parts, each stated above. -/
def Obligations.ClausesStartWhereTheyMay : Prop :=
  Sys2Proof.Claims.AReadyThreadStartsItsClause ∧ Sys2Proof.Claims.SystemWordsArePrivileged

/-- Memory, and what a release makes visible: the parts, each stated above. -/
def Obligations.MemoryAndItsOrder : Prop :=
  Sys2Proof.Claims.MemoryReadsWhatWasWritten ∧ Sys2Proof.Claims.AReleasedWriteIsSeenByItsAcquirer

/-- Loads and stores of global memory: the parts, each stated above. -/
def Obligations.GlobalAccesses : Prop :=
  Sys2Proof.Claims.GlobalLoadsGoInFlight ∧ Sys2Proof.Claims.GlobalStoresWriteTheirBytes

/-- What a handler reads, writes and resumes: the parts, each stated above. -/
def Obligations.HandlersActOnThreads : Prop :=
  Sys2Proof.Claims.ContextItems ∧ Sys2Proof.Claims.ResumedThreads

/-- Hotness, the quarantine and the rest of the hub: the parts, each stated above. -/
def Obligations.TheHubAndItsMemory : Prop :=
  Sys2Proof.Claims.HotnessAndQuarantine ∧ Sys2Proof.Claims.TheHubServes

/-- What packed halves, roundings, transcendentals and conversions give: the parts, each stated above. -/
def Obligations.FloatValues : Prop :=
  Sys2Proof.Claims.PackedHalves ∧ Sys2Proof.Claims.IntegralValues ∧ Sys2Proof.Claims.TranscendentalValues ∧ Sys2Proof.Claims.ConversionValues

/-- What the matrix engine computes: the parts, each stated above. -/
def Obligations.MatrixCommandsCompute : Prop :=
  Sys2Proof.Claims.AccumulatorCommandsCompute ∧ Sys2Proof.Claims.ProductsAccumulate ∧ Sys2Proof.Claims.RecordsDecode ∧ Sys2Proof.Claims.WeightsLoadAndTilesDrain

/-- What copies, Filigree and the graph walker do: the parts, each stated above. -/
def Obligations.EngineCommandsRun : Prop :=
  Sys2Proof.Claims.CopiesMoveTheirBytes ∧ Sys2Proof.Claims.FiligreeRunsItsCommands ∧ Sys2Proof.Claims.TheGraphRuns
end

