-- ==== Sys2Proof/Laws/Tab.lean ====
section
/-! SUPPORT. Laws of the sparse tables and of the sparse byte memories. -/

namespace Sys2Proof.Machine

/-! ## Tables -/

@[simp] theorem Tab.find_nil {α : Type} (k : Nat) : Tab.find ([] : Tab α) k = none := rfl

@[simp] theorem Tab.find_put_same {α : Type} (t : Tab α) (k : Nat) (x : α) :
    Tab.find (Tab.put t k x) k = some x := by
  induction t with
  | nil => simp [Tab.put, Tab.find]
  | cons e r ih =>
    obtain ⟨a, y⟩ := e
    by_cases h : k < a
    · simp [Tab.put, Tab.find, h]
    · by_cases h2 : a = k <;> simp [Tab.put, Tab.find, h, h2, ih]

theorem Tab.find_put_ne {α : Type} (t : Tab α) {k j : Nat} (x : α) (h : j ≠ k) :
    Tab.find (Tab.put t k x) j = Tab.find t j := by
  induction t with
  | nil => simp [Tab.put, Tab.find, Ne.symm h]
  | cons e r ih =>
    obtain ⟨a, y⟩ := e
    by_cases h1 : k < a
    · simp [Tab.put, Tab.find, h1, Ne.symm h]
    · by_cases h2 : a = k
      · subst h2; simp [Tab.put, Tab.find, Ne.symm h]
      · simp [Tab.put, Tab.find, h1, h2, ih]

@[simp] theorem Tab.get_put_same {α : Type} (t : Tab α) (k : Nat) (x d : α) :
    Tab.get (Tab.put t k x) k d = x := by simp [Tab.get]

theorem Tab.get_put_ne {α : Type} (t : Tab α) {k j : Nat} (x d : α) (h : j ≠ k) :
    Tab.get (Tab.put t k x) j d = Tab.get t j d := by simp [Tab.get, Tab.find_put_ne t x h]

theorem Tab.get_put {α : Type} (t : Tab α) (k j : Nat) (x d : α) :
    Tab.get (Tab.put t k x) j d = if j = k then x else Tab.get t j d := by
  by_cases h : j = k
  · subst h; simp
  · simp [h, Tab.get_put_ne t x d h]

@[simp] theorem Tab.find_del_same {α : Type} (t : Tab α) (k : Nat) : Tab.find (Tab.del t k) k = none := by
  induction t with
  | nil => rfl
  | cons e r ih =>
    obtain ⟨a, y⟩ := e
    by_cases h : a = k <;> simp [Tab.del, Tab.find, h, ih]

theorem Tab.find_del_ne {α : Type} (t : Tab α) {k j : Nat} (h : j ≠ k) :
    Tab.find (Tab.del t k) j = Tab.find t j := by
  induction t with
  | nil => rfl
  | cons e r ih =>
    obtain ⟨a, y⟩ := e
    by_cases h1 : a = k
    · subst h1; simp [Tab.del, Tab.find, Ne.symm h, ih]
    · simp [Tab.del, Tab.find, h1, ih]

/-- Setting a key twice leaves the second value. -/
theorem Tab.put_put {α : Type} (t : Tab α) (k : Nat) (x y : α) : Tab.put (Tab.put t k x) k y = Tab.put t k y := by
  induction t with
  | nil => simp [Tab.put]
  | cons e r ih =>
    obtain ⟨a, z⟩ := e
    by_cases h : k < a
    · simp [Tab.put, h]
    · by_cases h2 : a = k <;> simp [Tab.put, h, h2, ih]

/-! ## Byte memories -/

theorem Mem.wfFrom_mono (m : Mem) {l k : Nat} (hk : k ≤ l) (h : Mem.wfFrom (some l) m = true) :
    Mem.wfFrom (some k) m = true := by
  cases m with
  | nil => rfl
  | cons e r =>
    obtain ⟨x, y⟩ := e
    simp only [Mem.wfFrom, Bool.and_eq_true, decide_eq_true_eq] at h ⊢
    exact ⟨⟨by omega, h.1.2⟩, h.2⟩

theorem Mem.wfFrom_none (m : Mem) {l : Nat} (h : Mem.wfFrom (some l) m = true) : Mem.wfFrom none m = true := by
  cases m with
  | nil => rfl
  | cons e r =>
    obtain ⟨x, y⟩ := e
    simp only [Mem.wfFrom, Bool.and_eq_true, decide_eq_true_eq, Bool.true_and] at h ⊢
    exact ⟨h.1.2, h.2⟩

/-- An address below every listed one reads as nothing written. -/
theorem Mem.read_below (m : Mem) {l a : Nat} (h : Mem.wfFrom (some l) m = true) (ha : a ≤ l) :
    m.read a = unlistedByte := by
  induction m generalizing l with
  | nil => rfl
  | cons e r ih =>
    obtain ⟨x, y⟩ := e
    simp only [Mem.wfFrom, Bool.and_eq_true, decide_eq_true_eq] at h
    have hx : x ≠ a := by omega
    simp only [Mem.read, hx, if_false]
    exact ih h.2 (by omega)

theorem Mem.read_write_ne (m : Mem) {a k : Nat} (b : Byte) (h : k ≠ a) :
    (m.write a b).read k = m.read k := by
  induction m with
  | nil =>
    by_cases hb : b = unlistedByte <;> simp [Mem.write, Mem.read, hb, Ne.symm h]
  | cons e r ih =>
    obtain ⟨x, y⟩ := e
    by_cases h1 : a < x
    · by_cases hb : b = unlistedByte <;> simp [Mem.write, Mem.read, h1, hb, Ne.symm h]
    · by_cases h2 : x = a
      · subst h2
        by_cases hb : b = unlistedByte <;> simp [Mem.write, Mem.read, hb, Ne.symm h]
      · simp [Mem.write, Mem.read, h1, h2, ih]

theorem Mem.read_write_same (m : Mem) (a : Nat) (b : Byte) (h : m.wf = true) : (m.write a b).read a = b := by
  suffices H : ∀ lo, Mem.wfFrom lo m = true → (m.write a b).read a = b from H none h
  intro lo hlo
  clear h
  induction m generalizing lo with
  | nil =>
    by_cases hb : b = unlistedByte <;> simp [Mem.write, Mem.read, hb]
  | cons e r ih =>
    obtain ⟨x, y⟩ := e
    have hr : Mem.wfFrom (some x) r = true := by
      simp only [Mem.wfFrom, Bool.and_eq_true] at hlo; exact hlo.2
    by_cases h1 : a < x
    · by_cases hb : b = unlistedByte
      · have hne : x ≠ a := by omega
        simp only [Mem.write, h1, hb, if_true, Mem.read, hne, if_false]
        exact Mem.read_below r hr (by omega)
      · simp [Mem.write, Mem.read, h1, hb]
    · by_cases h2 : x = a
      · subst h2
        by_cases hb : b = unlistedByte
        · simp only [Mem.write, hb, if_true, lt_irrefl, if_false]
          exact Mem.read_below r hr (le_refl _)
        · simp [Mem.write, Mem.read, hb]
      · simp [Mem.write, Mem.read, h1, h2, ih _ hr]

theorem Mem.wfFrom_write (m : Mem) (a : Nat) (b : Byte) (lo : Option Nat)
    (hlo : ∀ l, lo = some l → l < a) (h : Mem.wfFrom lo m = true) : Mem.wfFrom lo (m.write a b) = true := by
  induction m generalizing lo with
  | nil =>
    by_cases hb : b = unlistedByte
    · simp [Mem.write, hb, Mem.wfFrom]
    · cases lo with
      | none => simp [Mem.write, hb, Mem.wfFrom]
      | some l => simp [Mem.write, hb, Mem.wfFrom, hlo l rfl]
  | cons e r ih =>
    obtain ⟨x, y⟩ := e
    have hr := h
    simp only [Mem.wfFrom, Bool.and_eq_true] at hr
    by_cases h1 : a < x
    · by_cases hb : b = unlistedByte
      · simpa [Mem.write, h1, hb] using h
      · simp only [Mem.write, h1, hb, if_true, if_false, Mem.wfFrom, Bool.and_eq_true, decide_eq_true_eq]
        refine ⟨⟨?_, by simpa using hb⟩, ⟨trivial, hr.1.2⟩, hr.2⟩
        cases lo with
        | none => rfl
        | some l => simpa using hlo l rfl
    · by_cases h2 : x = a
      · subst h2
        by_cases hb : b = unlistedByte
        · simp only [Mem.write, hb, if_true, lt_irrefl, if_false]
          cases lo with
          | none => exact Mem.wfFrom_none r hr.2
          | some l => exact Mem.wfFrom_mono r (by have := hlo l rfl; omega) hr.2
        · simp only [Mem.write, hb, lt_irrefl, if_false, if_true, Mem.wfFrom, Bool.and_eq_true]
          exact ⟨⟨hr.1.1, by simpa using hb⟩, hr.2⟩
      · simp only [Mem.write, h1, h2, if_false, Mem.wfFrom, Bool.and_eq_true]
        exact ⟨hr.1, ih (some x) (by intro l hl; cases hl; omega) hr.2⟩

/-- A byte stored keeps the canonical form. -/
theorem Mem.wf_write (m : Mem) (a : Nat) (b : Byte) (h : m.wf = true) : (m.write a b).wf = true :=
  Mem.wfFrom_write m a b none (by simp) h

/-- Bytes stored keep the canonical form. -/
theorem Mem.wf_writeN (m : Mem) (a : Nat) (bs : List Byte) (h : m.wf = true) : (m.writeN a bs).wf = true := by
  induction bs generalizing m a with
  | nil => exact h
  | cons b bs ih => exact ih _ _ (Mem.wf_write m a b h)

/-- A number stored keeps the canonical form. -/
theorem Mem.wf_setNum (m : Mem) (a n x : Nat) (h : m.wf = true) : (m.setNum a n x).wf = true :=
  Mem.wf_writeN _ _ _ h

theorem Mem.wfFrom_filter (m : Mem) (f : Host.Cell → Bool) (lo : Option Nat) (h : Mem.wfFrom lo m = true) :
    Mem.wfFrom lo (m.filter f) = true := by
  induction m generalizing lo with
  | nil => exact h
  | cons e r ih =>
    obtain ⟨x, y⟩ := e
    have hr := h
    simp only [Mem.wfFrom, Bool.and_eq_true] at hr
    by_cases hf : f (x, y) = true
    · simp only [List.filter_cons, hf, if_true, Mem.wfFrom, Bool.and_eq_true]
      exact ⟨hr.1, ih _ hr.2⟩
    · simp only [List.filter_cons, hf]
      have h2 := ih _ hr.2
      cases lo with
      | none => exact Mem.wfFrom_none _ h2
      | some l =>
        have hl : l < x := by simpa using hr.1.1
        exact Mem.wfFrom_mono _ (by omega) h2

/-- Bytes cleared keep the canonical form. -/
theorem Mem.wf_clear (m : Mem) (lo n : Nat) (h : m.wf = true) : (m.clear lo n).wf = true :=
  Mem.wfFrom_filter m _ none h

/-- A byte outside a store reads as before. -/
theorem Mem.read_writeN_outside (m : Mem) (a k : Nat) (bs : List Byte) (h : k < a ∨ a + bs.length ≤ k) :
    (m.writeN a bs).read k = m.read k := by
  induction bs generalizing m a with
  | nil => rfl
  | cons b bs ih =>
    simp only [List.length_cons] at h
    have h1 : (Mem.writeN (m.write a b) (a + 1) bs).read k = (m.write a b).read k := ih _ _ (by omega)
    exact h1.trans (Mem.read_write_ne m b (by omega))

/-- A byte inside a store reads as the byte stored. -/
theorem Mem.read_writeN_inside (m : Mem) (a j : Nat) (bs : List Byte) (h : m.wf = true) (hj : j < bs.length) :
    (m.writeN a bs).read (a + j) = bs[j] := by
  induction bs generalizing m a j with
  | nil => simp at hj
  | cons b bs ih =>
    cases j with
    | zero =>
      have h1 : (Mem.writeN (m.write a b) (a + 1) bs).read a = (m.write a b).read a :=
        Mem.read_writeN_outside _ _ _ _ (by omega)
      simpa [Mem.writeN] using h1.trans (Mem.read_write_same m a b h)
    | succ j =>
      have h1 := ih (m.write a b) (a + 1) j (Mem.wf_write m a b h) (by simpa using hj)
      simpa [Mem.writeN, Nat.add_comm, Nat.add_left_comm] using h1

theorem Mem.readN_length (m : Mem) (a n : Nat) : (m.readN a n).length = n := by
  induction n generalizing a with
  | zero => rfl
  | succ n ih => simp [Mem.readN, ih]

/-- Two canonical memories that read alike are equal. -/
theorem Mem.ext_wf (m k : Mem) (hm : m.wf = true) (hk : k.wf = true) (h : ∀ a, m.read a = k.read a) : m = k := by
  suffices H : ∀ lo, Mem.wfFrom lo m = true → Mem.wfFrom lo k = true → m = k from H none hm hk
  clear hm hk
  induction m generalizing k with
  | nil =>
    intro lo _ h2
    cases k with
    | nil => rfl
    | cons e r =>
      obtain ⟨x, y⟩ := e
      have := h x
      simp only [Mem.wfFrom, Bool.and_eq_true] at h2
      simp [Mem.read] at this
      exact absurd this.symm (by simpa using h2.1.2)
  | cons e r ih =>
    obtain ⟨x, y⟩ := e
    intro lo h1 h2
    simp only [Mem.wfFrom, Bool.and_eq_true] at h1
    cases k with
    | nil =>
      have := h x
      simp [Mem.read] at this
      exact absurd this (by simpa using h1.1.2)
    | cons e2 r2 =>
      obtain ⟨z, w⟩ := e2
      simp only [Mem.wfFrom, Bool.and_eq_true] at h2
      have hxz : x = z := by
        rcases Nat.lt_trichotomy x z with hlt | heq | hgt
        · have := h x
          simp only [Mem.read, if_true, Nat.ne_of_gt hlt, if_false] at this
          rw [Mem.read_below r2 h2.2 (Nat.le_of_lt hlt)] at this
          exact absurd this (by simpa using h1.1.2)
        · exact heq
        · have := h z
          simp only [Mem.read, if_true, Nat.ne_of_gt hgt, if_false] at this
          rw [Mem.read_below r h1.2 (Nat.le_of_lt hgt)] at this
          exact absurd this.symm (by simpa using h2.1.2)
      subst hxz
      have hy : y = w := by simpa [Mem.read] using h x
      subst hy
      have : r = r2 := ih r2 (fun a => by
        by_cases ha : a ≤ x
        · rw [Mem.read_below r h1.2 ha, Mem.read_below r2 h2.2 ha]
        · have := h a
          have hne : x ≠ a := by omega
          simpa [Mem.read, hne] using this) (some x) h1.2 h2.2
      rw [this]

end Sys2Proof.Machine
end

