-- ==== Sys2Proof/Laws/State.lean ====
section
/-! SUPPORT. What each accessor that updates the state leaves: every other field, field by field, and what the
accessors read after it. -/

namespace Sys2Proof.Machine

/-! ## setThr -/

@[simp] theorem State.setThr_started (s : State) (t : Nat) (x : Thread) : (s.setThr t x).started = s.started := rfl
@[simp] theorem State.setThr_safe (s : State) (t : Nat) (x : Thread) : (s.setThr t x).safe = s.safe := rfl
@[simp] theorem State.setThr_capped (s : State) (t : Nat) (x : Thread) : (s.setThr t x).capped = s.capped := rfl
@[simp] theorem State.setThr_agenda (s : State) (t : Nat) (x : Thread) : (s.setThr t x).agenda = s.agenda := rfl
@[simp] theorem State.setThr_cur (s : State) (t : Nat) (x : Thread) : (s.setThr t x).cur = s.cur := rfl
@[simp] theorem State.setThr_free (s : State) (t : Nat) (x : Thread) : (s.setThr t x).free = s.free := rfl
@[simp] theorem State.setThr_warps (s : State) (t : Nat) (x : Thread) : (s.setThr t x).warps = s.warps := rfl
@[simp] theorem State.setThr_blocks (s : State) (t : Nat) (x : Thread) : (s.setThr t x).blocks = s.blocks := rfl
@[simp] theorem State.setThr_cores (s : State) (t : Nat) (x : Thread) : (s.setThr t x).cores = s.cores := rfl
@[simp] theorem State.setThr_issues (s : State) (t : Nat) (x : Thread) : (s.setThr t x).issues = s.issues := rfl
@[simp] theorem State.setThr_halted (s : State) (t : Nat) (x : Thread) : (s.setThr t x).halted = s.halted := rfl
@[simp] theorem State.setThr_ops (s : State) (t : Nat) (x : Thread) : (s.setThr t x).ops = s.ops := rfl
@[simp] theorem State.setThr_nextOp (s : State) (t : Nat) (x : Thread) : (s.setThr t x).nextOp = s.nextOp := rfl
@[simp] theorem State.setThr_mem (s : State) (t : Nat) (x : Thread) : (s.setThr t x).mem = s.mem := rfl
@[simp] theorem State.setThr_poison (s : State) (t : Nat) (x : Thread) : (s.setThr t x).poison = s.poison := rfl
@[simp] theorem State.setThr_corrected (s : State) (t : Nat) (x : Thread) : (s.setThr t x).corrected = s.corrected := rfl
@[simp] theorem State.setThr_scratch (s : State) (t : Nat) (x : Thread) : (s.setThr t x).scratch = s.scratch := rfl
@[simp] theorem State.setThr_accm (s : State) (t : Nat) (x : Thread) : (s.setThr t x).accm = s.accm := rfl
@[simp] theorem State.setThr_wbuf (s : State) (t : Nat) (x : Thread) : (s.setThr t x).wbuf = s.wbuf := rfl
@[simp] theorem State.setThr_wlog (s : State) (t : Nat) (x : Thread) : (s.setThr t x).wlog = s.wlog := rfl
@[simp] theorem State.setThr_serial (s : State) (t : Nat) (x : Thread) : (s.setThr t x).serial = s.serial := rfl
@[simp] theorem State.setThr_rels (s : State) (t : Nat) (x : Thread) : (s.setThr t x).rels = s.rels := rfl
@[simp] theorem State.setThr_launches (s : State) (t : Nat) (x : Thread) : (s.setThr t x).launches = s.launches := rfl
@[simp] theorem State.setThr_nextLaunch (s : State) (t : Nat) (x : Thread) : (s.setThr t x).nextLaunch = s.nextLaunch := rfl
@[simp] theorem State.setThr_vdevs (s : State) (t : Nat) (x : Thread) : (s.setThr t x).vdevs = s.vdevs := rfl
@[simp] theorem State.setThr_signals (s : State) (t : Nat) (x : Thread) : (s.setThr t x).signals = s.signals := rfl
@[simp] theorem State.setThr_sigMods (s : State) (t : Nat) (x : Thread) : (s.setThr t x).sigMods = s.sigMods := rfl
@[simp] theorem State.setThr_epoch (s : State) (t : Nat) (x : Thread) : (s.setThr t x).epoch = s.epoch := rfl
@[simp] theorem State.setThr_hotCfg (s : State) (t : Nat) (x : Thread) : (s.setThr t x).hotCfg = s.hotCfg := rfl
@[simp] theorem State.setThr_hotRing (s : State) (t : Nat) (x : Thread) : (s.setThr t x).hotRing = s.hotRing := rfl
@[simp] theorem State.setThr_hotPtr (s : State) (t : Nat) (x : Thread) : (s.setThr t x).hotPtr = s.hotPtr := rfl
@[simp] theorem State.setThr_hotCnt (s : State) (t : Nat) (x : Thread) : (s.setThr t x).hotCnt = s.hotCnt := rfl
@[simp] theorem State.setThr_quar (s : State) (t : Nat) (x : Thread) : (s.setThr t x).quar = s.quar := rfl
@[simp] theorem State.setThr_qfull (s : State) (t : Nat) (x : Thread) : (s.setThr t x).qfull = s.qfull := rfl
@[simp] theorem State.setThr_fwfault (s : State) (t : Nat) (x : Thread) : (s.setThr t x).fwfault = s.fwfault := rfl
@[simp] theorem State.setThr_irqs (s : State) (t : Nat) (x : Thread) : (s.setThr t x).irqs = s.irqs := rfl
@[simp] theorem State.setThr_nextBind (s : State) (t : Nat) (x : Thread) : (s.setThr t x).nextBind = s.nextBind := rfl
@[simp] theorem State.setThr_nextNotify (s : State) (t : Nat) (x : Thread) : (s.setThr t x).nextNotify = s.nextNotify := rfl
@[simp] theorem State.setThr_usec (s : State) (t : Nat) (x : Thread) : (s.setThr t x).usec = s.usec := rfl
@[simp] theorem State.setThr_resets (s : State) (t : Nat) (x : Thread) : (s.setThr t x).resets = s.resets := rfl
@[simp] theorem State.setThr_made (s : State) (t : Nat) (x : Thread) : (s.setThr t x).made = s.made := rfl
@[simp] theorem State.setThr_bezel (s : State) (t : Nat) (x : Thread) : (s.setThr t x).bezel = s.bezel := rfl
@[simp] theorem State.setThr_imports (s : State) (t : Nat) (x : Thread) : (s.setThr t x).imports = s.imports := rfl
@[simp] theorem State.setThr_fabKeys (s : State) (t : Nat) (x : Thread) : (s.setThr t x).fabKeys = s.fabKeys := rfl
@[simp] theorem State.setThr_proxies (s : State) (t : Nat) (x : Thread) : (s.setThr t x).proxies = s.proxies := rfl
@[simp] theorem State.setThr_turned (s : State) (t : Nat) (x : Thread) : (s.setThr t x).turned = s.turned := rfl
@[simp] theorem State.setThr_fabAnswers (s : State) (t : Nat) (x : Thread) : (s.setThr t x).fabAnswers = s.fabAnswers := rfl
@[simp] theorem State.setThr_fabWaits (s : State) (t : Nat) (x : Thread) : (s.setThr t x).fabWaits = s.fabWaits := rfl
@[simp] theorem State.setThr_forwarded (s : State) (t : Nat) (x : Thread) : (s.setThr t x).forwarded = s.forwarded := rfl
@[simp] theorem State.setThr_hostSeen (s : State) (t : Nat) (x : Thread) : (s.setThr t x).hostSeen = s.hostSeen := rfl
@[simp] theorem State.setThr_assay (s : State) (t : Nat) (x : Thread) : (s.setThr t x).assay = s.assay := rfl

/-! ## modThr -/

@[simp] theorem State.modThr_started (s : State) (t : Nat) (f : Thread → Thread) : (s.modThr t f).started = s.started := rfl
@[simp] theorem State.modThr_safe (s : State) (t : Nat) (f : Thread → Thread) : (s.modThr t f).safe = s.safe := rfl
@[simp] theorem State.modThr_capped (s : State) (t : Nat) (f : Thread → Thread) : (s.modThr t f).capped = s.capped := rfl
@[simp] theorem State.modThr_agenda (s : State) (t : Nat) (f : Thread → Thread) : (s.modThr t f).agenda = s.agenda := rfl
@[simp] theorem State.modThr_cur (s : State) (t : Nat) (f : Thread → Thread) : (s.modThr t f).cur = s.cur := rfl
@[simp] theorem State.modThr_free (s : State) (t : Nat) (f : Thread → Thread) : (s.modThr t f).free = s.free := rfl
@[simp] theorem State.modThr_warps (s : State) (t : Nat) (f : Thread → Thread) : (s.modThr t f).warps = s.warps := rfl
@[simp] theorem State.modThr_blocks (s : State) (t : Nat) (f : Thread → Thread) : (s.modThr t f).blocks = s.blocks := rfl
@[simp] theorem State.modThr_cores (s : State) (t : Nat) (f : Thread → Thread) : (s.modThr t f).cores = s.cores := rfl
@[simp] theorem State.modThr_issues (s : State) (t : Nat) (f : Thread → Thread) : (s.modThr t f).issues = s.issues := rfl
@[simp] theorem State.modThr_halted (s : State) (t : Nat) (f : Thread → Thread) : (s.modThr t f).halted = s.halted := rfl
@[simp] theorem State.modThr_ops (s : State) (t : Nat) (f : Thread → Thread) : (s.modThr t f).ops = s.ops := rfl
@[simp] theorem State.modThr_nextOp (s : State) (t : Nat) (f : Thread → Thread) : (s.modThr t f).nextOp = s.nextOp := rfl
@[simp] theorem State.modThr_mem (s : State) (t : Nat) (f : Thread → Thread) : (s.modThr t f).mem = s.mem := rfl
@[simp] theorem State.modThr_poison (s : State) (t : Nat) (f : Thread → Thread) : (s.modThr t f).poison = s.poison := rfl
@[simp] theorem State.modThr_corrected (s : State) (t : Nat) (f : Thread → Thread) : (s.modThr t f).corrected = s.corrected := rfl
@[simp] theorem State.modThr_scratch (s : State) (t : Nat) (f : Thread → Thread) : (s.modThr t f).scratch = s.scratch := rfl
@[simp] theorem State.modThr_accm (s : State) (t : Nat) (f : Thread → Thread) : (s.modThr t f).accm = s.accm := rfl
@[simp] theorem State.modThr_wbuf (s : State) (t : Nat) (f : Thread → Thread) : (s.modThr t f).wbuf = s.wbuf := rfl
@[simp] theorem State.modThr_wlog (s : State) (t : Nat) (f : Thread → Thread) : (s.modThr t f).wlog = s.wlog := rfl
@[simp] theorem State.modThr_serial (s : State) (t : Nat) (f : Thread → Thread) : (s.modThr t f).serial = s.serial := rfl
@[simp] theorem State.modThr_rels (s : State) (t : Nat) (f : Thread → Thread) : (s.modThr t f).rels = s.rels := rfl
@[simp] theorem State.modThr_launches (s : State) (t : Nat) (f : Thread → Thread) : (s.modThr t f).launches = s.launches := rfl
@[simp] theorem State.modThr_nextLaunch (s : State) (t : Nat) (f : Thread → Thread) : (s.modThr t f).nextLaunch = s.nextLaunch := rfl
@[simp] theorem State.modThr_vdevs (s : State) (t : Nat) (f : Thread → Thread) : (s.modThr t f).vdevs = s.vdevs := rfl
@[simp] theorem State.modThr_signals (s : State) (t : Nat) (f : Thread → Thread) : (s.modThr t f).signals = s.signals := rfl
@[simp] theorem State.modThr_sigMods (s : State) (t : Nat) (f : Thread → Thread) : (s.modThr t f).sigMods = s.sigMods := rfl
@[simp] theorem State.modThr_epoch (s : State) (t : Nat) (f : Thread → Thread) : (s.modThr t f).epoch = s.epoch := rfl
@[simp] theorem State.modThr_hotCfg (s : State) (t : Nat) (f : Thread → Thread) : (s.modThr t f).hotCfg = s.hotCfg := rfl
@[simp] theorem State.modThr_hotRing (s : State) (t : Nat) (f : Thread → Thread) : (s.modThr t f).hotRing = s.hotRing := rfl
@[simp] theorem State.modThr_hotPtr (s : State) (t : Nat) (f : Thread → Thread) : (s.modThr t f).hotPtr = s.hotPtr := rfl
@[simp] theorem State.modThr_hotCnt (s : State) (t : Nat) (f : Thread → Thread) : (s.modThr t f).hotCnt = s.hotCnt := rfl
@[simp] theorem State.modThr_quar (s : State) (t : Nat) (f : Thread → Thread) : (s.modThr t f).quar = s.quar := rfl
@[simp] theorem State.modThr_qfull (s : State) (t : Nat) (f : Thread → Thread) : (s.modThr t f).qfull = s.qfull := rfl
@[simp] theorem State.modThr_fwfault (s : State) (t : Nat) (f : Thread → Thread) : (s.modThr t f).fwfault = s.fwfault := rfl
@[simp] theorem State.modThr_irqs (s : State) (t : Nat) (f : Thread → Thread) : (s.modThr t f).irqs = s.irqs := rfl
@[simp] theorem State.modThr_nextBind (s : State) (t : Nat) (f : Thread → Thread) : (s.modThr t f).nextBind = s.nextBind := rfl
@[simp] theorem State.modThr_nextNotify (s : State) (t : Nat) (f : Thread → Thread) : (s.modThr t f).nextNotify = s.nextNotify := rfl
@[simp] theorem State.modThr_usec (s : State) (t : Nat) (f : Thread → Thread) : (s.modThr t f).usec = s.usec := rfl
@[simp] theorem State.modThr_resets (s : State) (t : Nat) (f : Thread → Thread) : (s.modThr t f).resets = s.resets := rfl
@[simp] theorem State.modThr_made (s : State) (t : Nat) (f : Thread → Thread) : (s.modThr t f).made = s.made := rfl
@[simp] theorem State.modThr_bezel (s : State) (t : Nat) (f : Thread → Thread) : (s.modThr t f).bezel = s.bezel := rfl
@[simp] theorem State.modThr_imports (s : State) (t : Nat) (f : Thread → Thread) : (s.modThr t f).imports = s.imports := rfl
@[simp] theorem State.modThr_fabKeys (s : State) (t : Nat) (f : Thread → Thread) : (s.modThr t f).fabKeys = s.fabKeys := rfl
@[simp] theorem State.modThr_proxies (s : State) (t : Nat) (f : Thread → Thread) : (s.modThr t f).proxies = s.proxies := rfl
@[simp] theorem State.modThr_turned (s : State) (t : Nat) (f : Thread → Thread) : (s.modThr t f).turned = s.turned := rfl
@[simp] theorem State.modThr_fabAnswers (s : State) (t : Nat) (f : Thread → Thread) : (s.modThr t f).fabAnswers = s.fabAnswers := rfl
@[simp] theorem State.modThr_fabWaits (s : State) (t : Nat) (f : Thread → Thread) : (s.modThr t f).fabWaits = s.fabWaits := rfl
@[simp] theorem State.modThr_forwarded (s : State) (t : Nat) (f : Thread → Thread) : (s.modThr t f).forwarded = s.forwarded := rfl
@[simp] theorem State.modThr_hostSeen (s : State) (t : Nat) (f : Thread → Thread) : (s.modThr t f).hostSeen = s.hostSeen := rfl
@[simp] theorem State.modThr_assay (s : State) (t : Nat) (f : Thread → Thread) : (s.modThr t f).assay = s.assay := rfl

/-! ## setWarp -/

@[simp] theorem State.setWarp_started (s : State) (w : Nat) (x : Warp) : (s.setWarp w x).started = s.started := rfl
@[simp] theorem State.setWarp_safe (s : State) (w : Nat) (x : Warp) : (s.setWarp w x).safe = s.safe := rfl
@[simp] theorem State.setWarp_capped (s : State) (w : Nat) (x : Warp) : (s.setWarp w x).capped = s.capped := rfl
@[simp] theorem State.setWarp_agenda (s : State) (w : Nat) (x : Warp) : (s.setWarp w x).agenda = s.agenda := rfl
@[simp] theorem State.setWarp_cur (s : State) (w : Nat) (x : Warp) : (s.setWarp w x).cur = s.cur := rfl
@[simp] theorem State.setWarp_free (s : State) (w : Nat) (x : Warp) : (s.setWarp w x).free = s.free := rfl
@[simp] theorem State.setWarp_threads (s : State) (w : Nat) (x : Warp) : (s.setWarp w x).threads = s.threads := rfl
@[simp] theorem State.setWarp_blocks (s : State) (w : Nat) (x : Warp) : (s.setWarp w x).blocks = s.blocks := rfl
@[simp] theorem State.setWarp_cores (s : State) (w : Nat) (x : Warp) : (s.setWarp w x).cores = s.cores := rfl
@[simp] theorem State.setWarp_issues (s : State) (w : Nat) (x : Warp) : (s.setWarp w x).issues = s.issues := rfl
@[simp] theorem State.setWarp_halted (s : State) (w : Nat) (x : Warp) : (s.setWarp w x).halted = s.halted := rfl
@[simp] theorem State.setWarp_ops (s : State) (w : Nat) (x : Warp) : (s.setWarp w x).ops = s.ops := rfl
@[simp] theorem State.setWarp_nextOp (s : State) (w : Nat) (x : Warp) : (s.setWarp w x).nextOp = s.nextOp := rfl
@[simp] theorem State.setWarp_mem (s : State) (w : Nat) (x : Warp) : (s.setWarp w x).mem = s.mem := rfl
@[simp] theorem State.setWarp_poison (s : State) (w : Nat) (x : Warp) : (s.setWarp w x).poison = s.poison := rfl
@[simp] theorem State.setWarp_corrected (s : State) (w : Nat) (x : Warp) : (s.setWarp w x).corrected = s.corrected := rfl
@[simp] theorem State.setWarp_scratch (s : State) (w : Nat) (x : Warp) : (s.setWarp w x).scratch = s.scratch := rfl
@[simp] theorem State.setWarp_accm (s : State) (w : Nat) (x : Warp) : (s.setWarp w x).accm = s.accm := rfl
@[simp] theorem State.setWarp_wbuf (s : State) (w : Nat) (x : Warp) : (s.setWarp w x).wbuf = s.wbuf := rfl
@[simp] theorem State.setWarp_wlog (s : State) (w : Nat) (x : Warp) : (s.setWarp w x).wlog = s.wlog := rfl
@[simp] theorem State.setWarp_serial (s : State) (w : Nat) (x : Warp) : (s.setWarp w x).serial = s.serial := rfl
@[simp] theorem State.setWarp_rels (s : State) (w : Nat) (x : Warp) : (s.setWarp w x).rels = s.rels := rfl
@[simp] theorem State.setWarp_launches (s : State) (w : Nat) (x : Warp) : (s.setWarp w x).launches = s.launches := rfl
@[simp] theorem State.setWarp_nextLaunch (s : State) (w : Nat) (x : Warp) : (s.setWarp w x).nextLaunch = s.nextLaunch := rfl
@[simp] theorem State.setWarp_vdevs (s : State) (w : Nat) (x : Warp) : (s.setWarp w x).vdevs = s.vdevs := rfl
@[simp] theorem State.setWarp_signals (s : State) (w : Nat) (x : Warp) : (s.setWarp w x).signals = s.signals := rfl
@[simp] theorem State.setWarp_sigMods (s : State) (w : Nat) (x : Warp) : (s.setWarp w x).sigMods = s.sigMods := rfl
@[simp] theorem State.setWarp_epoch (s : State) (w : Nat) (x : Warp) : (s.setWarp w x).epoch = s.epoch := rfl
@[simp] theorem State.setWarp_hotCfg (s : State) (w : Nat) (x : Warp) : (s.setWarp w x).hotCfg = s.hotCfg := rfl
@[simp] theorem State.setWarp_hotRing (s : State) (w : Nat) (x : Warp) : (s.setWarp w x).hotRing = s.hotRing := rfl
@[simp] theorem State.setWarp_hotPtr (s : State) (w : Nat) (x : Warp) : (s.setWarp w x).hotPtr = s.hotPtr := rfl
@[simp] theorem State.setWarp_hotCnt (s : State) (w : Nat) (x : Warp) : (s.setWarp w x).hotCnt = s.hotCnt := rfl
@[simp] theorem State.setWarp_quar (s : State) (w : Nat) (x : Warp) : (s.setWarp w x).quar = s.quar := rfl
@[simp] theorem State.setWarp_qfull (s : State) (w : Nat) (x : Warp) : (s.setWarp w x).qfull = s.qfull := rfl
@[simp] theorem State.setWarp_fwfault (s : State) (w : Nat) (x : Warp) : (s.setWarp w x).fwfault = s.fwfault := rfl
@[simp] theorem State.setWarp_irqs (s : State) (w : Nat) (x : Warp) : (s.setWarp w x).irqs = s.irqs := rfl
@[simp] theorem State.setWarp_nextBind (s : State) (w : Nat) (x : Warp) : (s.setWarp w x).nextBind = s.nextBind := rfl
@[simp] theorem State.setWarp_nextNotify (s : State) (w : Nat) (x : Warp) : (s.setWarp w x).nextNotify = s.nextNotify := rfl
@[simp] theorem State.setWarp_usec (s : State) (w : Nat) (x : Warp) : (s.setWarp w x).usec = s.usec := rfl
@[simp] theorem State.setWarp_resets (s : State) (w : Nat) (x : Warp) : (s.setWarp w x).resets = s.resets := rfl
@[simp] theorem State.setWarp_made (s : State) (w : Nat) (x : Warp) : (s.setWarp w x).made = s.made := rfl
@[simp] theorem State.setWarp_bezel (s : State) (w : Nat) (x : Warp) : (s.setWarp w x).bezel = s.bezel := rfl
@[simp] theorem State.setWarp_imports (s : State) (w : Nat) (x : Warp) : (s.setWarp w x).imports = s.imports := rfl
@[simp] theorem State.setWarp_fabKeys (s : State) (w : Nat) (x : Warp) : (s.setWarp w x).fabKeys = s.fabKeys := rfl
@[simp] theorem State.setWarp_proxies (s : State) (w : Nat) (x : Warp) : (s.setWarp w x).proxies = s.proxies := rfl
@[simp] theorem State.setWarp_turned (s : State) (w : Nat) (x : Warp) : (s.setWarp w x).turned = s.turned := rfl
@[simp] theorem State.setWarp_fabAnswers (s : State) (w : Nat) (x : Warp) : (s.setWarp w x).fabAnswers = s.fabAnswers := rfl
@[simp] theorem State.setWarp_fabWaits (s : State) (w : Nat) (x : Warp) : (s.setWarp w x).fabWaits = s.fabWaits := rfl
@[simp] theorem State.setWarp_forwarded (s : State) (w : Nat) (x : Warp) : (s.setWarp w x).forwarded = s.forwarded := rfl
@[simp] theorem State.setWarp_hostSeen (s : State) (w : Nat) (x : Warp) : (s.setWarp w x).hostSeen = s.hostSeen := rfl
@[simp] theorem State.setWarp_assay (s : State) (w : Nat) (x : Warp) : (s.setWarp w x).assay = s.assay := rfl

/-! ## modWarp -/

@[simp] theorem State.modWarp_started (s : State) (w : Nat) (f : Warp → Warp) : (s.modWarp w f).started = s.started := rfl
@[simp] theorem State.modWarp_safe (s : State) (w : Nat) (f : Warp → Warp) : (s.modWarp w f).safe = s.safe := rfl
@[simp] theorem State.modWarp_capped (s : State) (w : Nat) (f : Warp → Warp) : (s.modWarp w f).capped = s.capped := rfl
@[simp] theorem State.modWarp_agenda (s : State) (w : Nat) (f : Warp → Warp) : (s.modWarp w f).agenda = s.agenda := rfl
@[simp] theorem State.modWarp_cur (s : State) (w : Nat) (f : Warp → Warp) : (s.modWarp w f).cur = s.cur := rfl
@[simp] theorem State.modWarp_free (s : State) (w : Nat) (f : Warp → Warp) : (s.modWarp w f).free = s.free := rfl
@[simp] theorem State.modWarp_threads (s : State) (w : Nat) (f : Warp → Warp) : (s.modWarp w f).threads = s.threads := rfl
@[simp] theorem State.modWarp_blocks (s : State) (w : Nat) (f : Warp → Warp) : (s.modWarp w f).blocks = s.blocks := rfl
@[simp] theorem State.modWarp_cores (s : State) (w : Nat) (f : Warp → Warp) : (s.modWarp w f).cores = s.cores := rfl
@[simp] theorem State.modWarp_issues (s : State) (w : Nat) (f : Warp → Warp) : (s.modWarp w f).issues = s.issues := rfl
@[simp] theorem State.modWarp_halted (s : State) (w : Nat) (f : Warp → Warp) : (s.modWarp w f).halted = s.halted := rfl
@[simp] theorem State.modWarp_ops (s : State) (w : Nat) (f : Warp → Warp) : (s.modWarp w f).ops = s.ops := rfl
@[simp] theorem State.modWarp_nextOp (s : State) (w : Nat) (f : Warp → Warp) : (s.modWarp w f).nextOp = s.nextOp := rfl
@[simp] theorem State.modWarp_mem (s : State) (w : Nat) (f : Warp → Warp) : (s.modWarp w f).mem = s.mem := rfl
@[simp] theorem State.modWarp_poison (s : State) (w : Nat) (f : Warp → Warp) : (s.modWarp w f).poison = s.poison := rfl
@[simp] theorem State.modWarp_corrected (s : State) (w : Nat) (f : Warp → Warp) : (s.modWarp w f).corrected = s.corrected := rfl
@[simp] theorem State.modWarp_scratch (s : State) (w : Nat) (f : Warp → Warp) : (s.modWarp w f).scratch = s.scratch := rfl
@[simp] theorem State.modWarp_accm (s : State) (w : Nat) (f : Warp → Warp) : (s.modWarp w f).accm = s.accm := rfl
@[simp] theorem State.modWarp_wbuf (s : State) (w : Nat) (f : Warp → Warp) : (s.modWarp w f).wbuf = s.wbuf := rfl
@[simp] theorem State.modWarp_wlog (s : State) (w : Nat) (f : Warp → Warp) : (s.modWarp w f).wlog = s.wlog := rfl
@[simp] theorem State.modWarp_serial (s : State) (w : Nat) (f : Warp → Warp) : (s.modWarp w f).serial = s.serial := rfl
@[simp] theorem State.modWarp_rels (s : State) (w : Nat) (f : Warp → Warp) : (s.modWarp w f).rels = s.rels := rfl
@[simp] theorem State.modWarp_launches (s : State) (w : Nat) (f : Warp → Warp) : (s.modWarp w f).launches = s.launches := rfl
@[simp] theorem State.modWarp_nextLaunch (s : State) (w : Nat) (f : Warp → Warp) : (s.modWarp w f).nextLaunch = s.nextLaunch := rfl
@[simp] theorem State.modWarp_vdevs (s : State) (w : Nat) (f : Warp → Warp) : (s.modWarp w f).vdevs = s.vdevs := rfl
@[simp] theorem State.modWarp_signals (s : State) (w : Nat) (f : Warp → Warp) : (s.modWarp w f).signals = s.signals := rfl
@[simp] theorem State.modWarp_sigMods (s : State) (w : Nat) (f : Warp → Warp) : (s.modWarp w f).sigMods = s.sigMods := rfl
@[simp] theorem State.modWarp_epoch (s : State) (w : Nat) (f : Warp → Warp) : (s.modWarp w f).epoch = s.epoch := rfl
@[simp] theorem State.modWarp_hotCfg (s : State) (w : Nat) (f : Warp → Warp) : (s.modWarp w f).hotCfg = s.hotCfg := rfl
@[simp] theorem State.modWarp_hotRing (s : State) (w : Nat) (f : Warp → Warp) : (s.modWarp w f).hotRing = s.hotRing := rfl
@[simp] theorem State.modWarp_hotPtr (s : State) (w : Nat) (f : Warp → Warp) : (s.modWarp w f).hotPtr = s.hotPtr := rfl
@[simp] theorem State.modWarp_hotCnt (s : State) (w : Nat) (f : Warp → Warp) : (s.modWarp w f).hotCnt = s.hotCnt := rfl
@[simp] theorem State.modWarp_quar (s : State) (w : Nat) (f : Warp → Warp) : (s.modWarp w f).quar = s.quar := rfl
@[simp] theorem State.modWarp_qfull (s : State) (w : Nat) (f : Warp → Warp) : (s.modWarp w f).qfull = s.qfull := rfl
@[simp] theorem State.modWarp_fwfault (s : State) (w : Nat) (f : Warp → Warp) : (s.modWarp w f).fwfault = s.fwfault := rfl
@[simp] theorem State.modWarp_irqs (s : State) (w : Nat) (f : Warp → Warp) : (s.modWarp w f).irqs = s.irqs := rfl
@[simp] theorem State.modWarp_nextBind (s : State) (w : Nat) (f : Warp → Warp) : (s.modWarp w f).nextBind = s.nextBind := rfl
@[simp] theorem State.modWarp_nextNotify (s : State) (w : Nat) (f : Warp → Warp) : (s.modWarp w f).nextNotify = s.nextNotify := rfl
@[simp] theorem State.modWarp_usec (s : State) (w : Nat) (f : Warp → Warp) : (s.modWarp w f).usec = s.usec := rfl
@[simp] theorem State.modWarp_resets (s : State) (w : Nat) (f : Warp → Warp) : (s.modWarp w f).resets = s.resets := rfl
@[simp] theorem State.modWarp_made (s : State) (w : Nat) (f : Warp → Warp) : (s.modWarp w f).made = s.made := rfl
@[simp] theorem State.modWarp_bezel (s : State) (w : Nat) (f : Warp → Warp) : (s.modWarp w f).bezel = s.bezel := rfl
@[simp] theorem State.modWarp_imports (s : State) (w : Nat) (f : Warp → Warp) : (s.modWarp w f).imports = s.imports := rfl
@[simp] theorem State.modWarp_fabKeys (s : State) (w : Nat) (f : Warp → Warp) : (s.modWarp w f).fabKeys = s.fabKeys := rfl
@[simp] theorem State.modWarp_proxies (s : State) (w : Nat) (f : Warp → Warp) : (s.modWarp w f).proxies = s.proxies := rfl
@[simp] theorem State.modWarp_turned (s : State) (w : Nat) (f : Warp → Warp) : (s.modWarp w f).turned = s.turned := rfl
@[simp] theorem State.modWarp_fabAnswers (s : State) (w : Nat) (f : Warp → Warp) : (s.modWarp w f).fabAnswers = s.fabAnswers := rfl
@[simp] theorem State.modWarp_fabWaits (s : State) (w : Nat) (f : Warp → Warp) : (s.modWarp w f).fabWaits = s.fabWaits := rfl
@[simp] theorem State.modWarp_forwarded (s : State) (w : Nat) (f : Warp → Warp) : (s.modWarp w f).forwarded = s.forwarded := rfl
@[simp] theorem State.modWarp_hostSeen (s : State) (w : Nat) (f : Warp → Warp) : (s.modWarp w f).hostSeen = s.hostSeen := rfl
@[simp] theorem State.modWarp_assay (s : State) (w : Nat) (f : Warp → Warp) : (s.modWarp w f).assay = s.assay := rfl

/-! ## setBlock -/

@[simp] theorem State.setBlock_started (s : State) (c : Nat) (x : Block) : (s.setBlock c x).started = s.started := rfl
@[simp] theorem State.setBlock_safe (s : State) (c : Nat) (x : Block) : (s.setBlock c x).safe = s.safe := rfl
@[simp] theorem State.setBlock_capped (s : State) (c : Nat) (x : Block) : (s.setBlock c x).capped = s.capped := rfl
@[simp] theorem State.setBlock_agenda (s : State) (c : Nat) (x : Block) : (s.setBlock c x).agenda = s.agenda := rfl
@[simp] theorem State.setBlock_cur (s : State) (c : Nat) (x : Block) : (s.setBlock c x).cur = s.cur := rfl
@[simp] theorem State.setBlock_free (s : State) (c : Nat) (x : Block) : (s.setBlock c x).free = s.free := rfl
@[simp] theorem State.setBlock_threads (s : State) (c : Nat) (x : Block) : (s.setBlock c x).threads = s.threads := rfl
@[simp] theorem State.setBlock_warps (s : State) (c : Nat) (x : Block) : (s.setBlock c x).warps = s.warps := rfl
@[simp] theorem State.setBlock_cores (s : State) (c : Nat) (x : Block) : (s.setBlock c x).cores = s.cores := rfl
@[simp] theorem State.setBlock_issues (s : State) (c : Nat) (x : Block) : (s.setBlock c x).issues = s.issues := rfl
@[simp] theorem State.setBlock_halted (s : State) (c : Nat) (x : Block) : (s.setBlock c x).halted = s.halted := rfl
@[simp] theorem State.setBlock_ops (s : State) (c : Nat) (x : Block) : (s.setBlock c x).ops = s.ops := rfl
@[simp] theorem State.setBlock_nextOp (s : State) (c : Nat) (x : Block) : (s.setBlock c x).nextOp = s.nextOp := rfl
@[simp] theorem State.setBlock_mem (s : State) (c : Nat) (x : Block) : (s.setBlock c x).mem = s.mem := rfl
@[simp] theorem State.setBlock_poison (s : State) (c : Nat) (x : Block) : (s.setBlock c x).poison = s.poison := rfl
@[simp] theorem State.setBlock_corrected (s : State) (c : Nat) (x : Block) : (s.setBlock c x).corrected = s.corrected := rfl
@[simp] theorem State.setBlock_scratch (s : State) (c : Nat) (x : Block) : (s.setBlock c x).scratch = s.scratch := rfl
@[simp] theorem State.setBlock_accm (s : State) (c : Nat) (x : Block) : (s.setBlock c x).accm = s.accm := rfl
@[simp] theorem State.setBlock_wbuf (s : State) (c : Nat) (x : Block) : (s.setBlock c x).wbuf = s.wbuf := rfl
@[simp] theorem State.setBlock_wlog (s : State) (c : Nat) (x : Block) : (s.setBlock c x).wlog = s.wlog := rfl
@[simp] theorem State.setBlock_serial (s : State) (c : Nat) (x : Block) : (s.setBlock c x).serial = s.serial := rfl
@[simp] theorem State.setBlock_rels (s : State) (c : Nat) (x : Block) : (s.setBlock c x).rels = s.rels := rfl
@[simp] theorem State.setBlock_launches (s : State) (c : Nat) (x : Block) : (s.setBlock c x).launches = s.launches := rfl
@[simp] theorem State.setBlock_nextLaunch (s : State) (c : Nat) (x : Block) : (s.setBlock c x).nextLaunch = s.nextLaunch := rfl
@[simp] theorem State.setBlock_vdevs (s : State) (c : Nat) (x : Block) : (s.setBlock c x).vdevs = s.vdevs := rfl
@[simp] theorem State.setBlock_signals (s : State) (c : Nat) (x : Block) : (s.setBlock c x).signals = s.signals := rfl
@[simp] theorem State.setBlock_sigMods (s : State) (c : Nat) (x : Block) : (s.setBlock c x).sigMods = s.sigMods := rfl
@[simp] theorem State.setBlock_epoch (s : State) (c : Nat) (x : Block) : (s.setBlock c x).epoch = s.epoch := rfl
@[simp] theorem State.setBlock_hotCfg (s : State) (c : Nat) (x : Block) : (s.setBlock c x).hotCfg = s.hotCfg := rfl
@[simp] theorem State.setBlock_hotRing (s : State) (c : Nat) (x : Block) : (s.setBlock c x).hotRing = s.hotRing := rfl
@[simp] theorem State.setBlock_hotPtr (s : State) (c : Nat) (x : Block) : (s.setBlock c x).hotPtr = s.hotPtr := rfl
@[simp] theorem State.setBlock_hotCnt (s : State) (c : Nat) (x : Block) : (s.setBlock c x).hotCnt = s.hotCnt := rfl
@[simp] theorem State.setBlock_quar (s : State) (c : Nat) (x : Block) : (s.setBlock c x).quar = s.quar := rfl
@[simp] theorem State.setBlock_qfull (s : State) (c : Nat) (x : Block) : (s.setBlock c x).qfull = s.qfull := rfl
@[simp] theorem State.setBlock_fwfault (s : State) (c : Nat) (x : Block) : (s.setBlock c x).fwfault = s.fwfault := rfl
@[simp] theorem State.setBlock_irqs (s : State) (c : Nat) (x : Block) : (s.setBlock c x).irqs = s.irqs := rfl
@[simp] theorem State.setBlock_nextBind (s : State) (c : Nat) (x : Block) : (s.setBlock c x).nextBind = s.nextBind := rfl
@[simp] theorem State.setBlock_nextNotify (s : State) (c : Nat) (x : Block) : (s.setBlock c x).nextNotify = s.nextNotify := rfl
@[simp] theorem State.setBlock_usec (s : State) (c : Nat) (x : Block) : (s.setBlock c x).usec = s.usec := rfl
@[simp] theorem State.setBlock_resets (s : State) (c : Nat) (x : Block) : (s.setBlock c x).resets = s.resets := rfl
@[simp] theorem State.setBlock_made (s : State) (c : Nat) (x : Block) : (s.setBlock c x).made = s.made := rfl
@[simp] theorem State.setBlock_bezel (s : State) (c : Nat) (x : Block) : (s.setBlock c x).bezel = s.bezel := rfl
@[simp] theorem State.setBlock_imports (s : State) (c : Nat) (x : Block) : (s.setBlock c x).imports = s.imports := rfl
@[simp] theorem State.setBlock_fabKeys (s : State) (c : Nat) (x : Block) : (s.setBlock c x).fabKeys = s.fabKeys := rfl
@[simp] theorem State.setBlock_proxies (s : State) (c : Nat) (x : Block) : (s.setBlock c x).proxies = s.proxies := rfl
@[simp] theorem State.setBlock_turned (s : State) (c : Nat) (x : Block) : (s.setBlock c x).turned = s.turned := rfl
@[simp] theorem State.setBlock_fabAnswers (s : State) (c : Nat) (x : Block) : (s.setBlock c x).fabAnswers = s.fabAnswers := rfl
@[simp] theorem State.setBlock_fabWaits (s : State) (c : Nat) (x : Block) : (s.setBlock c x).fabWaits = s.fabWaits := rfl
@[simp] theorem State.setBlock_forwarded (s : State) (c : Nat) (x : Block) : (s.setBlock c x).forwarded = s.forwarded := rfl
@[simp] theorem State.setBlock_hostSeen (s : State) (c : Nat) (x : Block) : (s.setBlock c x).hostSeen = s.hostSeen := rfl
@[simp] theorem State.setBlock_assay (s : State) (c : Nat) (x : Block) : (s.setBlock c x).assay = s.assay := rfl

/-! ## modBlock -/

@[simp] theorem State.modBlock_started (s : State) (c : Nat) (f : Block → Block) : (s.modBlock c f).started = s.started := rfl
@[simp] theorem State.modBlock_safe (s : State) (c : Nat) (f : Block → Block) : (s.modBlock c f).safe = s.safe := rfl
@[simp] theorem State.modBlock_capped (s : State) (c : Nat) (f : Block → Block) : (s.modBlock c f).capped = s.capped := rfl
@[simp] theorem State.modBlock_agenda (s : State) (c : Nat) (f : Block → Block) : (s.modBlock c f).agenda = s.agenda := rfl
@[simp] theorem State.modBlock_cur (s : State) (c : Nat) (f : Block → Block) : (s.modBlock c f).cur = s.cur := rfl
@[simp] theorem State.modBlock_free (s : State) (c : Nat) (f : Block → Block) : (s.modBlock c f).free = s.free := rfl
@[simp] theorem State.modBlock_threads (s : State) (c : Nat) (f : Block → Block) : (s.modBlock c f).threads = s.threads := rfl
@[simp] theorem State.modBlock_warps (s : State) (c : Nat) (f : Block → Block) : (s.modBlock c f).warps = s.warps := rfl
@[simp] theorem State.modBlock_cores (s : State) (c : Nat) (f : Block → Block) : (s.modBlock c f).cores = s.cores := rfl
@[simp] theorem State.modBlock_issues (s : State) (c : Nat) (f : Block → Block) : (s.modBlock c f).issues = s.issues := rfl
@[simp] theorem State.modBlock_halted (s : State) (c : Nat) (f : Block → Block) : (s.modBlock c f).halted = s.halted := rfl
@[simp] theorem State.modBlock_ops (s : State) (c : Nat) (f : Block → Block) : (s.modBlock c f).ops = s.ops := rfl
@[simp] theorem State.modBlock_nextOp (s : State) (c : Nat) (f : Block → Block) : (s.modBlock c f).nextOp = s.nextOp := rfl
@[simp] theorem State.modBlock_mem (s : State) (c : Nat) (f : Block → Block) : (s.modBlock c f).mem = s.mem := rfl
@[simp] theorem State.modBlock_poison (s : State) (c : Nat) (f : Block → Block) : (s.modBlock c f).poison = s.poison := rfl
@[simp] theorem State.modBlock_corrected (s : State) (c : Nat) (f : Block → Block) : (s.modBlock c f).corrected = s.corrected := rfl
@[simp] theorem State.modBlock_scratch (s : State) (c : Nat) (f : Block → Block) : (s.modBlock c f).scratch = s.scratch := rfl
@[simp] theorem State.modBlock_accm (s : State) (c : Nat) (f : Block → Block) : (s.modBlock c f).accm = s.accm := rfl
@[simp] theorem State.modBlock_wbuf (s : State) (c : Nat) (f : Block → Block) : (s.modBlock c f).wbuf = s.wbuf := rfl
@[simp] theorem State.modBlock_wlog (s : State) (c : Nat) (f : Block → Block) : (s.modBlock c f).wlog = s.wlog := rfl
@[simp] theorem State.modBlock_serial (s : State) (c : Nat) (f : Block → Block) : (s.modBlock c f).serial = s.serial := rfl
@[simp] theorem State.modBlock_rels (s : State) (c : Nat) (f : Block → Block) : (s.modBlock c f).rels = s.rels := rfl
@[simp] theorem State.modBlock_launches (s : State) (c : Nat) (f : Block → Block) : (s.modBlock c f).launches = s.launches := rfl
@[simp] theorem State.modBlock_nextLaunch (s : State) (c : Nat) (f : Block → Block) : (s.modBlock c f).nextLaunch = s.nextLaunch := rfl
@[simp] theorem State.modBlock_vdevs (s : State) (c : Nat) (f : Block → Block) : (s.modBlock c f).vdevs = s.vdevs := rfl
@[simp] theorem State.modBlock_signals (s : State) (c : Nat) (f : Block → Block) : (s.modBlock c f).signals = s.signals := rfl
@[simp] theorem State.modBlock_sigMods (s : State) (c : Nat) (f : Block → Block) : (s.modBlock c f).sigMods = s.sigMods := rfl
@[simp] theorem State.modBlock_epoch (s : State) (c : Nat) (f : Block → Block) : (s.modBlock c f).epoch = s.epoch := rfl
@[simp] theorem State.modBlock_hotCfg (s : State) (c : Nat) (f : Block → Block) : (s.modBlock c f).hotCfg = s.hotCfg := rfl
@[simp] theorem State.modBlock_hotRing (s : State) (c : Nat) (f : Block → Block) : (s.modBlock c f).hotRing = s.hotRing := rfl
@[simp] theorem State.modBlock_hotPtr (s : State) (c : Nat) (f : Block → Block) : (s.modBlock c f).hotPtr = s.hotPtr := rfl
@[simp] theorem State.modBlock_hotCnt (s : State) (c : Nat) (f : Block → Block) : (s.modBlock c f).hotCnt = s.hotCnt := rfl
@[simp] theorem State.modBlock_quar (s : State) (c : Nat) (f : Block → Block) : (s.modBlock c f).quar = s.quar := rfl
@[simp] theorem State.modBlock_qfull (s : State) (c : Nat) (f : Block → Block) : (s.modBlock c f).qfull = s.qfull := rfl
@[simp] theorem State.modBlock_fwfault (s : State) (c : Nat) (f : Block → Block) : (s.modBlock c f).fwfault = s.fwfault := rfl
@[simp] theorem State.modBlock_irqs (s : State) (c : Nat) (f : Block → Block) : (s.modBlock c f).irqs = s.irqs := rfl
@[simp] theorem State.modBlock_nextBind (s : State) (c : Nat) (f : Block → Block) : (s.modBlock c f).nextBind = s.nextBind := rfl
@[simp] theorem State.modBlock_nextNotify (s : State) (c : Nat) (f : Block → Block) : (s.modBlock c f).nextNotify = s.nextNotify := rfl
@[simp] theorem State.modBlock_usec (s : State) (c : Nat) (f : Block → Block) : (s.modBlock c f).usec = s.usec := rfl
@[simp] theorem State.modBlock_resets (s : State) (c : Nat) (f : Block → Block) : (s.modBlock c f).resets = s.resets := rfl
@[simp] theorem State.modBlock_made (s : State) (c : Nat) (f : Block → Block) : (s.modBlock c f).made = s.made := rfl
@[simp] theorem State.modBlock_bezel (s : State) (c : Nat) (f : Block → Block) : (s.modBlock c f).bezel = s.bezel := rfl
@[simp] theorem State.modBlock_imports (s : State) (c : Nat) (f : Block → Block) : (s.modBlock c f).imports = s.imports := rfl
@[simp] theorem State.modBlock_fabKeys (s : State) (c : Nat) (f : Block → Block) : (s.modBlock c f).fabKeys = s.fabKeys := rfl
@[simp] theorem State.modBlock_proxies (s : State) (c : Nat) (f : Block → Block) : (s.modBlock c f).proxies = s.proxies := rfl
@[simp] theorem State.modBlock_turned (s : State) (c : Nat) (f : Block → Block) : (s.modBlock c f).turned = s.turned := rfl
@[simp] theorem State.modBlock_fabAnswers (s : State) (c : Nat) (f : Block → Block) : (s.modBlock c f).fabAnswers = s.fabAnswers := rfl
@[simp] theorem State.modBlock_fabWaits (s : State) (c : Nat) (f : Block → Block) : (s.modBlock c f).fabWaits = s.fabWaits := rfl
@[simp] theorem State.modBlock_forwarded (s : State) (c : Nat) (f : Block → Block) : (s.modBlock c f).forwarded = s.forwarded := rfl
@[simp] theorem State.modBlock_hostSeen (s : State) (c : Nat) (f : Block → Block) : (s.modBlock c f).hostSeen = s.hostSeen := rfl
@[simp] theorem State.modBlock_assay (s : State) (c : Nat) (f : Block → Block) : (s.modBlock c f).assay = s.assay := rfl

/-! ## setCore -/

@[simp] theorem State.setCore_started (s : State) (c : Nat) (x : Core) : (s.setCore c x).started = s.started := rfl
@[simp] theorem State.setCore_safe (s : State) (c : Nat) (x : Core) : (s.setCore c x).safe = s.safe := rfl
@[simp] theorem State.setCore_capped (s : State) (c : Nat) (x : Core) : (s.setCore c x).capped = s.capped := rfl
@[simp] theorem State.setCore_agenda (s : State) (c : Nat) (x : Core) : (s.setCore c x).agenda = s.agenda := rfl
@[simp] theorem State.setCore_cur (s : State) (c : Nat) (x : Core) : (s.setCore c x).cur = s.cur := rfl
@[simp] theorem State.setCore_free (s : State) (c : Nat) (x : Core) : (s.setCore c x).free = s.free := rfl
@[simp] theorem State.setCore_threads (s : State) (c : Nat) (x : Core) : (s.setCore c x).threads = s.threads := rfl
@[simp] theorem State.setCore_warps (s : State) (c : Nat) (x : Core) : (s.setCore c x).warps = s.warps := rfl
@[simp] theorem State.setCore_blocks (s : State) (c : Nat) (x : Core) : (s.setCore c x).blocks = s.blocks := rfl
@[simp] theorem State.setCore_issues (s : State) (c : Nat) (x : Core) : (s.setCore c x).issues = s.issues := rfl
@[simp] theorem State.setCore_halted (s : State) (c : Nat) (x : Core) : (s.setCore c x).halted = s.halted := rfl
@[simp] theorem State.setCore_ops (s : State) (c : Nat) (x : Core) : (s.setCore c x).ops = s.ops := rfl
@[simp] theorem State.setCore_nextOp (s : State) (c : Nat) (x : Core) : (s.setCore c x).nextOp = s.nextOp := rfl
@[simp] theorem State.setCore_mem (s : State) (c : Nat) (x : Core) : (s.setCore c x).mem = s.mem := rfl
@[simp] theorem State.setCore_poison (s : State) (c : Nat) (x : Core) : (s.setCore c x).poison = s.poison := rfl
@[simp] theorem State.setCore_corrected (s : State) (c : Nat) (x : Core) : (s.setCore c x).corrected = s.corrected := rfl
@[simp] theorem State.setCore_scratch (s : State) (c : Nat) (x : Core) : (s.setCore c x).scratch = s.scratch := rfl
@[simp] theorem State.setCore_accm (s : State) (c : Nat) (x : Core) : (s.setCore c x).accm = s.accm := rfl
@[simp] theorem State.setCore_wbuf (s : State) (c : Nat) (x : Core) : (s.setCore c x).wbuf = s.wbuf := rfl
@[simp] theorem State.setCore_wlog (s : State) (c : Nat) (x : Core) : (s.setCore c x).wlog = s.wlog := rfl
@[simp] theorem State.setCore_serial (s : State) (c : Nat) (x : Core) : (s.setCore c x).serial = s.serial := rfl
@[simp] theorem State.setCore_rels (s : State) (c : Nat) (x : Core) : (s.setCore c x).rels = s.rels := rfl
@[simp] theorem State.setCore_launches (s : State) (c : Nat) (x : Core) : (s.setCore c x).launches = s.launches := rfl
@[simp] theorem State.setCore_nextLaunch (s : State) (c : Nat) (x : Core) : (s.setCore c x).nextLaunch = s.nextLaunch := rfl
@[simp] theorem State.setCore_vdevs (s : State) (c : Nat) (x : Core) : (s.setCore c x).vdevs = s.vdevs := rfl
@[simp] theorem State.setCore_signals (s : State) (c : Nat) (x : Core) : (s.setCore c x).signals = s.signals := rfl
@[simp] theorem State.setCore_sigMods (s : State) (c : Nat) (x : Core) : (s.setCore c x).sigMods = s.sigMods := rfl
@[simp] theorem State.setCore_epoch (s : State) (c : Nat) (x : Core) : (s.setCore c x).epoch = s.epoch := rfl
@[simp] theorem State.setCore_hotCfg (s : State) (c : Nat) (x : Core) : (s.setCore c x).hotCfg = s.hotCfg := rfl
@[simp] theorem State.setCore_hotRing (s : State) (c : Nat) (x : Core) : (s.setCore c x).hotRing = s.hotRing := rfl
@[simp] theorem State.setCore_hotPtr (s : State) (c : Nat) (x : Core) : (s.setCore c x).hotPtr = s.hotPtr := rfl
@[simp] theorem State.setCore_hotCnt (s : State) (c : Nat) (x : Core) : (s.setCore c x).hotCnt = s.hotCnt := rfl
@[simp] theorem State.setCore_quar (s : State) (c : Nat) (x : Core) : (s.setCore c x).quar = s.quar := rfl
@[simp] theorem State.setCore_qfull (s : State) (c : Nat) (x : Core) : (s.setCore c x).qfull = s.qfull := rfl
@[simp] theorem State.setCore_fwfault (s : State) (c : Nat) (x : Core) : (s.setCore c x).fwfault = s.fwfault := rfl
@[simp] theorem State.setCore_irqs (s : State) (c : Nat) (x : Core) : (s.setCore c x).irqs = s.irqs := rfl
@[simp] theorem State.setCore_nextBind (s : State) (c : Nat) (x : Core) : (s.setCore c x).nextBind = s.nextBind := rfl
@[simp] theorem State.setCore_nextNotify (s : State) (c : Nat) (x : Core) : (s.setCore c x).nextNotify = s.nextNotify := rfl
@[simp] theorem State.setCore_usec (s : State) (c : Nat) (x : Core) : (s.setCore c x).usec = s.usec := rfl
@[simp] theorem State.setCore_resets (s : State) (c : Nat) (x : Core) : (s.setCore c x).resets = s.resets := rfl
@[simp] theorem State.setCore_made (s : State) (c : Nat) (x : Core) : (s.setCore c x).made = s.made := rfl
@[simp] theorem State.setCore_bezel (s : State) (c : Nat) (x : Core) : (s.setCore c x).bezel = s.bezel := rfl
@[simp] theorem State.setCore_imports (s : State) (c : Nat) (x : Core) : (s.setCore c x).imports = s.imports := rfl
@[simp] theorem State.setCore_fabKeys (s : State) (c : Nat) (x : Core) : (s.setCore c x).fabKeys = s.fabKeys := rfl
@[simp] theorem State.setCore_proxies (s : State) (c : Nat) (x : Core) : (s.setCore c x).proxies = s.proxies := rfl
@[simp] theorem State.setCore_turned (s : State) (c : Nat) (x : Core) : (s.setCore c x).turned = s.turned := rfl
@[simp] theorem State.setCore_fabAnswers (s : State) (c : Nat) (x : Core) : (s.setCore c x).fabAnswers = s.fabAnswers := rfl
@[simp] theorem State.setCore_fabWaits (s : State) (c : Nat) (x : Core) : (s.setCore c x).fabWaits = s.fabWaits := rfl
@[simp] theorem State.setCore_forwarded (s : State) (c : Nat) (x : Core) : (s.setCore c x).forwarded = s.forwarded := rfl
@[simp] theorem State.setCore_hostSeen (s : State) (c : Nat) (x : Core) : (s.setCore c x).hostSeen = s.hostSeen := rfl
@[simp] theorem State.setCore_assay (s : State) (c : Nat) (x : Core) : (s.setCore c x).assay = s.assay := rfl

/-! ## modCore -/

@[simp] theorem State.modCore_started (s : State) (c : Nat) (f : Core → Core) : (s.modCore c f).started = s.started := rfl
@[simp] theorem State.modCore_safe (s : State) (c : Nat) (f : Core → Core) : (s.modCore c f).safe = s.safe := rfl
@[simp] theorem State.modCore_capped (s : State) (c : Nat) (f : Core → Core) : (s.modCore c f).capped = s.capped := rfl
@[simp] theorem State.modCore_agenda (s : State) (c : Nat) (f : Core → Core) : (s.modCore c f).agenda = s.agenda := rfl
@[simp] theorem State.modCore_cur (s : State) (c : Nat) (f : Core → Core) : (s.modCore c f).cur = s.cur := rfl
@[simp] theorem State.modCore_free (s : State) (c : Nat) (f : Core → Core) : (s.modCore c f).free = s.free := rfl
@[simp] theorem State.modCore_threads (s : State) (c : Nat) (f : Core → Core) : (s.modCore c f).threads = s.threads := rfl
@[simp] theorem State.modCore_warps (s : State) (c : Nat) (f : Core → Core) : (s.modCore c f).warps = s.warps := rfl
@[simp] theorem State.modCore_blocks (s : State) (c : Nat) (f : Core → Core) : (s.modCore c f).blocks = s.blocks := rfl
@[simp] theorem State.modCore_issues (s : State) (c : Nat) (f : Core → Core) : (s.modCore c f).issues = s.issues := rfl
@[simp] theorem State.modCore_halted (s : State) (c : Nat) (f : Core → Core) : (s.modCore c f).halted = s.halted := rfl
@[simp] theorem State.modCore_ops (s : State) (c : Nat) (f : Core → Core) : (s.modCore c f).ops = s.ops := rfl
@[simp] theorem State.modCore_nextOp (s : State) (c : Nat) (f : Core → Core) : (s.modCore c f).nextOp = s.nextOp := rfl
@[simp] theorem State.modCore_mem (s : State) (c : Nat) (f : Core → Core) : (s.modCore c f).mem = s.mem := rfl
@[simp] theorem State.modCore_poison (s : State) (c : Nat) (f : Core → Core) : (s.modCore c f).poison = s.poison := rfl
@[simp] theorem State.modCore_corrected (s : State) (c : Nat) (f : Core → Core) : (s.modCore c f).corrected = s.corrected := rfl
@[simp] theorem State.modCore_scratch (s : State) (c : Nat) (f : Core → Core) : (s.modCore c f).scratch = s.scratch := rfl
@[simp] theorem State.modCore_accm (s : State) (c : Nat) (f : Core → Core) : (s.modCore c f).accm = s.accm := rfl
@[simp] theorem State.modCore_wbuf (s : State) (c : Nat) (f : Core → Core) : (s.modCore c f).wbuf = s.wbuf := rfl
@[simp] theorem State.modCore_wlog (s : State) (c : Nat) (f : Core → Core) : (s.modCore c f).wlog = s.wlog := rfl
@[simp] theorem State.modCore_serial (s : State) (c : Nat) (f : Core → Core) : (s.modCore c f).serial = s.serial := rfl
@[simp] theorem State.modCore_rels (s : State) (c : Nat) (f : Core → Core) : (s.modCore c f).rels = s.rels := rfl
@[simp] theorem State.modCore_launches (s : State) (c : Nat) (f : Core → Core) : (s.modCore c f).launches = s.launches := rfl
@[simp] theorem State.modCore_nextLaunch (s : State) (c : Nat) (f : Core → Core) : (s.modCore c f).nextLaunch = s.nextLaunch := rfl
@[simp] theorem State.modCore_vdevs (s : State) (c : Nat) (f : Core → Core) : (s.modCore c f).vdevs = s.vdevs := rfl
@[simp] theorem State.modCore_signals (s : State) (c : Nat) (f : Core → Core) : (s.modCore c f).signals = s.signals := rfl
@[simp] theorem State.modCore_sigMods (s : State) (c : Nat) (f : Core → Core) : (s.modCore c f).sigMods = s.sigMods := rfl
@[simp] theorem State.modCore_epoch (s : State) (c : Nat) (f : Core → Core) : (s.modCore c f).epoch = s.epoch := rfl
@[simp] theorem State.modCore_hotCfg (s : State) (c : Nat) (f : Core → Core) : (s.modCore c f).hotCfg = s.hotCfg := rfl
@[simp] theorem State.modCore_hotRing (s : State) (c : Nat) (f : Core → Core) : (s.modCore c f).hotRing = s.hotRing := rfl
@[simp] theorem State.modCore_hotPtr (s : State) (c : Nat) (f : Core → Core) : (s.modCore c f).hotPtr = s.hotPtr := rfl
@[simp] theorem State.modCore_hotCnt (s : State) (c : Nat) (f : Core → Core) : (s.modCore c f).hotCnt = s.hotCnt := rfl
@[simp] theorem State.modCore_quar (s : State) (c : Nat) (f : Core → Core) : (s.modCore c f).quar = s.quar := rfl
@[simp] theorem State.modCore_qfull (s : State) (c : Nat) (f : Core → Core) : (s.modCore c f).qfull = s.qfull := rfl
@[simp] theorem State.modCore_fwfault (s : State) (c : Nat) (f : Core → Core) : (s.modCore c f).fwfault = s.fwfault := rfl
@[simp] theorem State.modCore_irqs (s : State) (c : Nat) (f : Core → Core) : (s.modCore c f).irqs = s.irqs := rfl
@[simp] theorem State.modCore_nextBind (s : State) (c : Nat) (f : Core → Core) : (s.modCore c f).nextBind = s.nextBind := rfl
@[simp] theorem State.modCore_nextNotify (s : State) (c : Nat) (f : Core → Core) : (s.modCore c f).nextNotify = s.nextNotify := rfl
@[simp] theorem State.modCore_usec (s : State) (c : Nat) (f : Core → Core) : (s.modCore c f).usec = s.usec := rfl
@[simp] theorem State.modCore_resets (s : State) (c : Nat) (f : Core → Core) : (s.modCore c f).resets = s.resets := rfl
@[simp] theorem State.modCore_made (s : State) (c : Nat) (f : Core → Core) : (s.modCore c f).made = s.made := rfl
@[simp] theorem State.modCore_bezel (s : State) (c : Nat) (f : Core → Core) : (s.modCore c f).bezel = s.bezel := rfl
@[simp] theorem State.modCore_imports (s : State) (c : Nat) (f : Core → Core) : (s.modCore c f).imports = s.imports := rfl
@[simp] theorem State.modCore_fabKeys (s : State) (c : Nat) (f : Core → Core) : (s.modCore c f).fabKeys = s.fabKeys := rfl
@[simp] theorem State.modCore_proxies (s : State) (c : Nat) (f : Core → Core) : (s.modCore c f).proxies = s.proxies := rfl
@[simp] theorem State.modCore_turned (s : State) (c : Nat) (f : Core → Core) : (s.modCore c f).turned = s.turned := rfl
@[simp] theorem State.modCore_fabAnswers (s : State) (c : Nat) (f : Core → Core) : (s.modCore c f).fabAnswers = s.fabAnswers := rfl
@[simp] theorem State.modCore_fabWaits (s : State) (c : Nat) (f : Core → Core) : (s.modCore c f).fabWaits = s.fabWaits := rfl
@[simp] theorem State.modCore_forwarded (s : State) (c : Nat) (f : Core → Core) : (s.modCore c f).forwarded = s.forwarded := rfl
@[simp] theorem State.modCore_hostSeen (s : State) (c : Nat) (f : Core → Core) : (s.modCore c f).hostSeen = s.hostSeen := rfl
@[simp] theorem State.modCore_assay (s : State) (c : Nat) (f : Core → Core) : (s.modCore c f).assay = s.assay := rfl

/-! ## setVdev -/

@[simp] theorem State.setVdev_started (s : State) (v : Nat) (x : Vdev) : (s.setVdev v x).started = s.started := rfl
@[simp] theorem State.setVdev_safe (s : State) (v : Nat) (x : Vdev) : (s.setVdev v x).safe = s.safe := rfl
@[simp] theorem State.setVdev_capped (s : State) (v : Nat) (x : Vdev) : (s.setVdev v x).capped = s.capped := rfl
@[simp] theorem State.setVdev_agenda (s : State) (v : Nat) (x : Vdev) : (s.setVdev v x).agenda = s.agenda := rfl
@[simp] theorem State.setVdev_cur (s : State) (v : Nat) (x : Vdev) : (s.setVdev v x).cur = s.cur := rfl
@[simp] theorem State.setVdev_free (s : State) (v : Nat) (x : Vdev) : (s.setVdev v x).free = s.free := rfl
@[simp] theorem State.setVdev_threads (s : State) (v : Nat) (x : Vdev) : (s.setVdev v x).threads = s.threads := rfl
@[simp] theorem State.setVdev_warps (s : State) (v : Nat) (x : Vdev) : (s.setVdev v x).warps = s.warps := rfl
@[simp] theorem State.setVdev_blocks (s : State) (v : Nat) (x : Vdev) : (s.setVdev v x).blocks = s.blocks := rfl
@[simp] theorem State.setVdev_cores (s : State) (v : Nat) (x : Vdev) : (s.setVdev v x).cores = s.cores := rfl
@[simp] theorem State.setVdev_issues (s : State) (v : Nat) (x : Vdev) : (s.setVdev v x).issues = s.issues := rfl
@[simp] theorem State.setVdev_halted (s : State) (v : Nat) (x : Vdev) : (s.setVdev v x).halted = s.halted := rfl
@[simp] theorem State.setVdev_ops (s : State) (v : Nat) (x : Vdev) : (s.setVdev v x).ops = s.ops := rfl
@[simp] theorem State.setVdev_nextOp (s : State) (v : Nat) (x : Vdev) : (s.setVdev v x).nextOp = s.nextOp := rfl
@[simp] theorem State.setVdev_mem (s : State) (v : Nat) (x : Vdev) : (s.setVdev v x).mem = s.mem := rfl
@[simp] theorem State.setVdev_poison (s : State) (v : Nat) (x : Vdev) : (s.setVdev v x).poison = s.poison := rfl
@[simp] theorem State.setVdev_corrected (s : State) (v : Nat) (x : Vdev) : (s.setVdev v x).corrected = s.corrected := rfl
@[simp] theorem State.setVdev_scratch (s : State) (v : Nat) (x : Vdev) : (s.setVdev v x).scratch = s.scratch := rfl
@[simp] theorem State.setVdev_accm (s : State) (v : Nat) (x : Vdev) : (s.setVdev v x).accm = s.accm := rfl
@[simp] theorem State.setVdev_wbuf (s : State) (v : Nat) (x : Vdev) : (s.setVdev v x).wbuf = s.wbuf := rfl
@[simp] theorem State.setVdev_wlog (s : State) (v : Nat) (x : Vdev) : (s.setVdev v x).wlog = s.wlog := rfl
@[simp] theorem State.setVdev_serial (s : State) (v : Nat) (x : Vdev) : (s.setVdev v x).serial = s.serial := rfl
@[simp] theorem State.setVdev_rels (s : State) (v : Nat) (x : Vdev) : (s.setVdev v x).rels = s.rels := rfl
@[simp] theorem State.setVdev_launches (s : State) (v : Nat) (x : Vdev) : (s.setVdev v x).launches = s.launches := rfl
@[simp] theorem State.setVdev_nextLaunch (s : State) (v : Nat) (x : Vdev) : (s.setVdev v x).nextLaunch = s.nextLaunch := rfl
@[simp] theorem State.setVdev_signals (s : State) (v : Nat) (x : Vdev) : (s.setVdev v x).signals = s.signals := rfl
@[simp] theorem State.setVdev_sigMods (s : State) (v : Nat) (x : Vdev) : (s.setVdev v x).sigMods = s.sigMods := rfl
@[simp] theorem State.setVdev_epoch (s : State) (v : Nat) (x : Vdev) : (s.setVdev v x).epoch = s.epoch := rfl
@[simp] theorem State.setVdev_hotCfg (s : State) (v : Nat) (x : Vdev) : (s.setVdev v x).hotCfg = s.hotCfg := rfl
@[simp] theorem State.setVdev_hotRing (s : State) (v : Nat) (x : Vdev) : (s.setVdev v x).hotRing = s.hotRing := rfl
@[simp] theorem State.setVdev_hotPtr (s : State) (v : Nat) (x : Vdev) : (s.setVdev v x).hotPtr = s.hotPtr := rfl
@[simp] theorem State.setVdev_hotCnt (s : State) (v : Nat) (x : Vdev) : (s.setVdev v x).hotCnt = s.hotCnt := rfl
@[simp] theorem State.setVdev_quar (s : State) (v : Nat) (x : Vdev) : (s.setVdev v x).quar = s.quar := rfl
@[simp] theorem State.setVdev_qfull (s : State) (v : Nat) (x : Vdev) : (s.setVdev v x).qfull = s.qfull := rfl
@[simp] theorem State.setVdev_fwfault (s : State) (v : Nat) (x : Vdev) : (s.setVdev v x).fwfault = s.fwfault := rfl
@[simp] theorem State.setVdev_irqs (s : State) (v : Nat) (x : Vdev) : (s.setVdev v x).irqs = s.irqs := rfl
@[simp] theorem State.setVdev_nextBind (s : State) (v : Nat) (x : Vdev) : (s.setVdev v x).nextBind = s.nextBind := rfl
@[simp] theorem State.setVdev_nextNotify (s : State) (v : Nat) (x : Vdev) : (s.setVdev v x).nextNotify = s.nextNotify := rfl
@[simp] theorem State.setVdev_usec (s : State) (v : Nat) (x : Vdev) : (s.setVdev v x).usec = s.usec := rfl
@[simp] theorem State.setVdev_resets (s : State) (v : Nat) (x : Vdev) : (s.setVdev v x).resets = s.resets := rfl
@[simp] theorem State.setVdev_made (s : State) (v : Nat) (x : Vdev) : (s.setVdev v x).made = s.made := rfl
@[simp] theorem State.setVdev_bezel (s : State) (v : Nat) (x : Vdev) : (s.setVdev v x).bezel = s.bezel := rfl
@[simp] theorem State.setVdev_imports (s : State) (v : Nat) (x : Vdev) : (s.setVdev v x).imports = s.imports := rfl
@[simp] theorem State.setVdev_fabKeys (s : State) (v : Nat) (x : Vdev) : (s.setVdev v x).fabKeys = s.fabKeys := rfl
@[simp] theorem State.setVdev_proxies (s : State) (v : Nat) (x : Vdev) : (s.setVdev v x).proxies = s.proxies := rfl
@[simp] theorem State.setVdev_turned (s : State) (v : Nat) (x : Vdev) : (s.setVdev v x).turned = s.turned := rfl
@[simp] theorem State.setVdev_fabAnswers (s : State) (v : Nat) (x : Vdev) : (s.setVdev v x).fabAnswers = s.fabAnswers := rfl
@[simp] theorem State.setVdev_fabWaits (s : State) (v : Nat) (x : Vdev) : (s.setVdev v x).fabWaits = s.fabWaits := rfl
@[simp] theorem State.setVdev_forwarded (s : State) (v : Nat) (x : Vdev) : (s.setVdev v x).forwarded = s.forwarded := rfl
@[simp] theorem State.setVdev_hostSeen (s : State) (v : Nat) (x : Vdev) : (s.setVdev v x).hostSeen = s.hostSeen := rfl
@[simp] theorem State.setVdev_assay (s : State) (v : Nat) (x : Vdev) : (s.setVdev v x).assay = s.assay := rfl

/-! ## modVdev -/

@[simp] theorem State.modVdev_started (s : State) (v : Nat) (f : Vdev → Vdev) : (s.modVdev v f).started = s.started := rfl
@[simp] theorem State.modVdev_safe (s : State) (v : Nat) (f : Vdev → Vdev) : (s.modVdev v f).safe = s.safe := rfl
@[simp] theorem State.modVdev_capped (s : State) (v : Nat) (f : Vdev → Vdev) : (s.modVdev v f).capped = s.capped := rfl
@[simp] theorem State.modVdev_agenda (s : State) (v : Nat) (f : Vdev → Vdev) : (s.modVdev v f).agenda = s.agenda := rfl
@[simp] theorem State.modVdev_cur (s : State) (v : Nat) (f : Vdev → Vdev) : (s.modVdev v f).cur = s.cur := rfl
@[simp] theorem State.modVdev_free (s : State) (v : Nat) (f : Vdev → Vdev) : (s.modVdev v f).free = s.free := rfl
@[simp] theorem State.modVdev_threads (s : State) (v : Nat) (f : Vdev → Vdev) : (s.modVdev v f).threads = s.threads := rfl
@[simp] theorem State.modVdev_warps (s : State) (v : Nat) (f : Vdev → Vdev) : (s.modVdev v f).warps = s.warps := rfl
@[simp] theorem State.modVdev_blocks (s : State) (v : Nat) (f : Vdev → Vdev) : (s.modVdev v f).blocks = s.blocks := rfl
@[simp] theorem State.modVdev_cores (s : State) (v : Nat) (f : Vdev → Vdev) : (s.modVdev v f).cores = s.cores := rfl
@[simp] theorem State.modVdev_issues (s : State) (v : Nat) (f : Vdev → Vdev) : (s.modVdev v f).issues = s.issues := rfl
@[simp] theorem State.modVdev_halted (s : State) (v : Nat) (f : Vdev → Vdev) : (s.modVdev v f).halted = s.halted := rfl
@[simp] theorem State.modVdev_ops (s : State) (v : Nat) (f : Vdev → Vdev) : (s.modVdev v f).ops = s.ops := rfl
@[simp] theorem State.modVdev_nextOp (s : State) (v : Nat) (f : Vdev → Vdev) : (s.modVdev v f).nextOp = s.nextOp := rfl
@[simp] theorem State.modVdev_mem (s : State) (v : Nat) (f : Vdev → Vdev) : (s.modVdev v f).mem = s.mem := rfl
@[simp] theorem State.modVdev_poison (s : State) (v : Nat) (f : Vdev → Vdev) : (s.modVdev v f).poison = s.poison := rfl
@[simp] theorem State.modVdev_corrected (s : State) (v : Nat) (f : Vdev → Vdev) : (s.modVdev v f).corrected = s.corrected := rfl
@[simp] theorem State.modVdev_scratch (s : State) (v : Nat) (f : Vdev → Vdev) : (s.modVdev v f).scratch = s.scratch := rfl
@[simp] theorem State.modVdev_accm (s : State) (v : Nat) (f : Vdev → Vdev) : (s.modVdev v f).accm = s.accm := rfl
@[simp] theorem State.modVdev_wbuf (s : State) (v : Nat) (f : Vdev → Vdev) : (s.modVdev v f).wbuf = s.wbuf := rfl
@[simp] theorem State.modVdev_wlog (s : State) (v : Nat) (f : Vdev → Vdev) : (s.modVdev v f).wlog = s.wlog := rfl
@[simp] theorem State.modVdev_serial (s : State) (v : Nat) (f : Vdev → Vdev) : (s.modVdev v f).serial = s.serial := rfl
@[simp] theorem State.modVdev_rels (s : State) (v : Nat) (f : Vdev → Vdev) : (s.modVdev v f).rels = s.rels := rfl
@[simp] theorem State.modVdev_launches (s : State) (v : Nat) (f : Vdev → Vdev) : (s.modVdev v f).launches = s.launches := rfl
@[simp] theorem State.modVdev_nextLaunch (s : State) (v : Nat) (f : Vdev → Vdev) : (s.modVdev v f).nextLaunch = s.nextLaunch := rfl
@[simp] theorem State.modVdev_signals (s : State) (v : Nat) (f : Vdev → Vdev) : (s.modVdev v f).signals = s.signals := rfl
@[simp] theorem State.modVdev_sigMods (s : State) (v : Nat) (f : Vdev → Vdev) : (s.modVdev v f).sigMods = s.sigMods := rfl
@[simp] theorem State.modVdev_epoch (s : State) (v : Nat) (f : Vdev → Vdev) : (s.modVdev v f).epoch = s.epoch := rfl
@[simp] theorem State.modVdev_hotCfg (s : State) (v : Nat) (f : Vdev → Vdev) : (s.modVdev v f).hotCfg = s.hotCfg := rfl
@[simp] theorem State.modVdev_hotRing (s : State) (v : Nat) (f : Vdev → Vdev) : (s.modVdev v f).hotRing = s.hotRing := rfl
@[simp] theorem State.modVdev_hotPtr (s : State) (v : Nat) (f : Vdev → Vdev) : (s.modVdev v f).hotPtr = s.hotPtr := rfl
@[simp] theorem State.modVdev_hotCnt (s : State) (v : Nat) (f : Vdev → Vdev) : (s.modVdev v f).hotCnt = s.hotCnt := rfl
@[simp] theorem State.modVdev_quar (s : State) (v : Nat) (f : Vdev → Vdev) : (s.modVdev v f).quar = s.quar := rfl
@[simp] theorem State.modVdev_qfull (s : State) (v : Nat) (f : Vdev → Vdev) : (s.modVdev v f).qfull = s.qfull := rfl
@[simp] theorem State.modVdev_fwfault (s : State) (v : Nat) (f : Vdev → Vdev) : (s.modVdev v f).fwfault = s.fwfault := rfl
@[simp] theorem State.modVdev_irqs (s : State) (v : Nat) (f : Vdev → Vdev) : (s.modVdev v f).irqs = s.irqs := rfl
@[simp] theorem State.modVdev_nextBind (s : State) (v : Nat) (f : Vdev → Vdev) : (s.modVdev v f).nextBind = s.nextBind := rfl
@[simp] theorem State.modVdev_nextNotify (s : State) (v : Nat) (f : Vdev → Vdev) : (s.modVdev v f).nextNotify = s.nextNotify := rfl
@[simp] theorem State.modVdev_usec (s : State) (v : Nat) (f : Vdev → Vdev) : (s.modVdev v f).usec = s.usec := rfl
@[simp] theorem State.modVdev_resets (s : State) (v : Nat) (f : Vdev → Vdev) : (s.modVdev v f).resets = s.resets := rfl
@[simp] theorem State.modVdev_made (s : State) (v : Nat) (f : Vdev → Vdev) : (s.modVdev v f).made = s.made := rfl
@[simp] theorem State.modVdev_bezel (s : State) (v : Nat) (f : Vdev → Vdev) : (s.modVdev v f).bezel = s.bezel := rfl
@[simp] theorem State.modVdev_imports (s : State) (v : Nat) (f : Vdev → Vdev) : (s.modVdev v f).imports = s.imports := rfl
@[simp] theorem State.modVdev_fabKeys (s : State) (v : Nat) (f : Vdev → Vdev) : (s.modVdev v f).fabKeys = s.fabKeys := rfl
@[simp] theorem State.modVdev_proxies (s : State) (v : Nat) (f : Vdev → Vdev) : (s.modVdev v f).proxies = s.proxies := rfl
@[simp] theorem State.modVdev_turned (s : State) (v : Nat) (f : Vdev → Vdev) : (s.modVdev v f).turned = s.turned := rfl
@[simp] theorem State.modVdev_fabAnswers (s : State) (v : Nat) (f : Vdev → Vdev) : (s.modVdev v f).fabAnswers = s.fabAnswers := rfl
@[simp] theorem State.modVdev_fabWaits (s : State) (v : Nat) (f : Vdev → Vdev) : (s.modVdev v f).fabWaits = s.fabWaits := rfl
@[simp] theorem State.modVdev_forwarded (s : State) (v : Nat) (f : Vdev → Vdev) : (s.modVdev v f).forwarded = s.forwarded := rfl
@[simp] theorem State.modVdev_hostSeen (s : State) (v : Nat) (f : Vdev → Vdev) : (s.modVdev v f).hostSeen = s.hostSeen := rfl
@[simp] theorem State.modVdev_assay (s : State) (v : Nat) (f : Vdev → Vdev) : (s.modVdev v f).assay = s.assay := rfl

/-! ## setLaunch -/

@[simp] theorem State.setLaunch_started (s : State) (l : Nat) (x : Launch) : (s.setLaunch l x).started = s.started := rfl
@[simp] theorem State.setLaunch_safe (s : State) (l : Nat) (x : Launch) : (s.setLaunch l x).safe = s.safe := rfl
@[simp] theorem State.setLaunch_capped (s : State) (l : Nat) (x : Launch) : (s.setLaunch l x).capped = s.capped := rfl
@[simp] theorem State.setLaunch_agenda (s : State) (l : Nat) (x : Launch) : (s.setLaunch l x).agenda = s.agenda := rfl
@[simp] theorem State.setLaunch_cur (s : State) (l : Nat) (x : Launch) : (s.setLaunch l x).cur = s.cur := rfl
@[simp] theorem State.setLaunch_free (s : State) (l : Nat) (x : Launch) : (s.setLaunch l x).free = s.free := rfl
@[simp] theorem State.setLaunch_threads (s : State) (l : Nat) (x : Launch) : (s.setLaunch l x).threads = s.threads := rfl
@[simp] theorem State.setLaunch_warps (s : State) (l : Nat) (x : Launch) : (s.setLaunch l x).warps = s.warps := rfl
@[simp] theorem State.setLaunch_blocks (s : State) (l : Nat) (x : Launch) : (s.setLaunch l x).blocks = s.blocks := rfl
@[simp] theorem State.setLaunch_cores (s : State) (l : Nat) (x : Launch) : (s.setLaunch l x).cores = s.cores := rfl
@[simp] theorem State.setLaunch_issues (s : State) (l : Nat) (x : Launch) : (s.setLaunch l x).issues = s.issues := rfl
@[simp] theorem State.setLaunch_halted (s : State) (l : Nat) (x : Launch) : (s.setLaunch l x).halted = s.halted := rfl
@[simp] theorem State.setLaunch_ops (s : State) (l : Nat) (x : Launch) : (s.setLaunch l x).ops = s.ops := rfl
@[simp] theorem State.setLaunch_nextOp (s : State) (l : Nat) (x : Launch) : (s.setLaunch l x).nextOp = s.nextOp := rfl
@[simp] theorem State.setLaunch_mem (s : State) (l : Nat) (x : Launch) : (s.setLaunch l x).mem = s.mem := rfl
@[simp] theorem State.setLaunch_poison (s : State) (l : Nat) (x : Launch) : (s.setLaunch l x).poison = s.poison := rfl
@[simp] theorem State.setLaunch_corrected (s : State) (l : Nat) (x : Launch) : (s.setLaunch l x).corrected = s.corrected := rfl
@[simp] theorem State.setLaunch_scratch (s : State) (l : Nat) (x : Launch) : (s.setLaunch l x).scratch = s.scratch := rfl
@[simp] theorem State.setLaunch_accm (s : State) (l : Nat) (x : Launch) : (s.setLaunch l x).accm = s.accm := rfl
@[simp] theorem State.setLaunch_wbuf (s : State) (l : Nat) (x : Launch) : (s.setLaunch l x).wbuf = s.wbuf := rfl
@[simp] theorem State.setLaunch_wlog (s : State) (l : Nat) (x : Launch) : (s.setLaunch l x).wlog = s.wlog := rfl
@[simp] theorem State.setLaunch_serial (s : State) (l : Nat) (x : Launch) : (s.setLaunch l x).serial = s.serial := rfl
@[simp] theorem State.setLaunch_rels (s : State) (l : Nat) (x : Launch) : (s.setLaunch l x).rels = s.rels := rfl
@[simp] theorem State.setLaunch_nextLaunch (s : State) (l : Nat) (x : Launch) : (s.setLaunch l x).nextLaunch = s.nextLaunch := rfl
@[simp] theorem State.setLaunch_vdevs (s : State) (l : Nat) (x : Launch) : (s.setLaunch l x).vdevs = s.vdevs := rfl
@[simp] theorem State.setLaunch_signals (s : State) (l : Nat) (x : Launch) : (s.setLaunch l x).signals = s.signals := rfl
@[simp] theorem State.setLaunch_sigMods (s : State) (l : Nat) (x : Launch) : (s.setLaunch l x).sigMods = s.sigMods := rfl
@[simp] theorem State.setLaunch_epoch (s : State) (l : Nat) (x : Launch) : (s.setLaunch l x).epoch = s.epoch := rfl
@[simp] theorem State.setLaunch_hotCfg (s : State) (l : Nat) (x : Launch) : (s.setLaunch l x).hotCfg = s.hotCfg := rfl
@[simp] theorem State.setLaunch_hotRing (s : State) (l : Nat) (x : Launch) : (s.setLaunch l x).hotRing = s.hotRing := rfl
@[simp] theorem State.setLaunch_hotPtr (s : State) (l : Nat) (x : Launch) : (s.setLaunch l x).hotPtr = s.hotPtr := rfl
@[simp] theorem State.setLaunch_hotCnt (s : State) (l : Nat) (x : Launch) : (s.setLaunch l x).hotCnt = s.hotCnt := rfl
@[simp] theorem State.setLaunch_quar (s : State) (l : Nat) (x : Launch) : (s.setLaunch l x).quar = s.quar := rfl
@[simp] theorem State.setLaunch_qfull (s : State) (l : Nat) (x : Launch) : (s.setLaunch l x).qfull = s.qfull := rfl
@[simp] theorem State.setLaunch_fwfault (s : State) (l : Nat) (x : Launch) : (s.setLaunch l x).fwfault = s.fwfault := rfl
@[simp] theorem State.setLaunch_irqs (s : State) (l : Nat) (x : Launch) : (s.setLaunch l x).irqs = s.irqs := rfl
@[simp] theorem State.setLaunch_nextBind (s : State) (l : Nat) (x : Launch) : (s.setLaunch l x).nextBind = s.nextBind := rfl
@[simp] theorem State.setLaunch_nextNotify (s : State) (l : Nat) (x : Launch) : (s.setLaunch l x).nextNotify = s.nextNotify := rfl
@[simp] theorem State.setLaunch_usec (s : State) (l : Nat) (x : Launch) : (s.setLaunch l x).usec = s.usec := rfl
@[simp] theorem State.setLaunch_resets (s : State) (l : Nat) (x : Launch) : (s.setLaunch l x).resets = s.resets := rfl
@[simp] theorem State.setLaunch_made (s : State) (l : Nat) (x : Launch) : (s.setLaunch l x).made = s.made := rfl
@[simp] theorem State.setLaunch_bezel (s : State) (l : Nat) (x : Launch) : (s.setLaunch l x).bezel = s.bezel := rfl
@[simp] theorem State.setLaunch_imports (s : State) (l : Nat) (x : Launch) : (s.setLaunch l x).imports = s.imports := rfl
@[simp] theorem State.setLaunch_fabKeys (s : State) (l : Nat) (x : Launch) : (s.setLaunch l x).fabKeys = s.fabKeys := rfl
@[simp] theorem State.setLaunch_proxies (s : State) (l : Nat) (x : Launch) : (s.setLaunch l x).proxies = s.proxies := rfl
@[simp] theorem State.setLaunch_turned (s : State) (l : Nat) (x : Launch) : (s.setLaunch l x).turned = s.turned := rfl
@[simp] theorem State.setLaunch_fabAnswers (s : State) (l : Nat) (x : Launch) : (s.setLaunch l x).fabAnswers = s.fabAnswers := rfl
@[simp] theorem State.setLaunch_fabWaits (s : State) (l : Nat) (x : Launch) : (s.setLaunch l x).fabWaits = s.fabWaits := rfl
@[simp] theorem State.setLaunch_forwarded (s : State) (l : Nat) (x : Launch) : (s.setLaunch l x).forwarded = s.forwarded := rfl
@[simp] theorem State.setLaunch_hostSeen (s : State) (l : Nat) (x : Launch) : (s.setLaunch l x).hostSeen = s.hostSeen := rfl
@[simp] theorem State.setLaunch_assay (s : State) (l : Nat) (x : Launch) : (s.setLaunch l x).assay = s.assay := rfl

/-! ## setIssue -/

@[simp] theorem State.setIssue_started (s : State) (i : Issue) : (s.setIssue i).started = s.started := rfl
@[simp] theorem State.setIssue_safe (s : State) (i : Issue) : (s.setIssue i).safe = s.safe := rfl
@[simp] theorem State.setIssue_capped (s : State) (i : Issue) : (s.setIssue i).capped = s.capped := rfl
@[simp] theorem State.setIssue_agenda (s : State) (i : Issue) : (s.setIssue i).agenda = s.agenda := rfl
@[simp] theorem State.setIssue_cur (s : State) (i : Issue) : (s.setIssue i).cur = s.cur := rfl
@[simp] theorem State.setIssue_free (s : State) (i : Issue) : (s.setIssue i).free = s.free := rfl
@[simp] theorem State.setIssue_threads (s : State) (i : Issue) : (s.setIssue i).threads = s.threads := rfl
@[simp] theorem State.setIssue_warps (s : State) (i : Issue) : (s.setIssue i).warps = s.warps := rfl
@[simp] theorem State.setIssue_blocks (s : State) (i : Issue) : (s.setIssue i).blocks = s.blocks := rfl
@[simp] theorem State.setIssue_cores (s : State) (i : Issue) : (s.setIssue i).cores = s.cores := rfl
@[simp] theorem State.setIssue_halted (s : State) (i : Issue) : (s.setIssue i).halted = s.halted := rfl
@[simp] theorem State.setIssue_ops (s : State) (i : Issue) : (s.setIssue i).ops = s.ops := rfl
@[simp] theorem State.setIssue_nextOp (s : State) (i : Issue) : (s.setIssue i).nextOp = s.nextOp := rfl
@[simp] theorem State.setIssue_mem (s : State) (i : Issue) : (s.setIssue i).mem = s.mem := rfl
@[simp] theorem State.setIssue_poison (s : State) (i : Issue) : (s.setIssue i).poison = s.poison := rfl
@[simp] theorem State.setIssue_corrected (s : State) (i : Issue) : (s.setIssue i).corrected = s.corrected := rfl
@[simp] theorem State.setIssue_scratch (s : State) (i : Issue) : (s.setIssue i).scratch = s.scratch := rfl
@[simp] theorem State.setIssue_accm (s : State) (i : Issue) : (s.setIssue i).accm = s.accm := rfl
@[simp] theorem State.setIssue_wbuf (s : State) (i : Issue) : (s.setIssue i).wbuf = s.wbuf := rfl
@[simp] theorem State.setIssue_wlog (s : State) (i : Issue) : (s.setIssue i).wlog = s.wlog := rfl
@[simp] theorem State.setIssue_serial (s : State) (i : Issue) : (s.setIssue i).serial = s.serial := rfl
@[simp] theorem State.setIssue_rels (s : State) (i : Issue) : (s.setIssue i).rels = s.rels := rfl
@[simp] theorem State.setIssue_launches (s : State) (i : Issue) : (s.setIssue i).launches = s.launches := rfl
@[simp] theorem State.setIssue_nextLaunch (s : State) (i : Issue) : (s.setIssue i).nextLaunch = s.nextLaunch := rfl
@[simp] theorem State.setIssue_vdevs (s : State) (i : Issue) : (s.setIssue i).vdevs = s.vdevs := rfl
@[simp] theorem State.setIssue_signals (s : State) (i : Issue) : (s.setIssue i).signals = s.signals := rfl
@[simp] theorem State.setIssue_sigMods (s : State) (i : Issue) : (s.setIssue i).sigMods = s.sigMods := rfl
@[simp] theorem State.setIssue_epoch (s : State) (i : Issue) : (s.setIssue i).epoch = s.epoch := rfl
@[simp] theorem State.setIssue_hotCfg (s : State) (i : Issue) : (s.setIssue i).hotCfg = s.hotCfg := rfl
@[simp] theorem State.setIssue_hotRing (s : State) (i : Issue) : (s.setIssue i).hotRing = s.hotRing := rfl
@[simp] theorem State.setIssue_hotPtr (s : State) (i : Issue) : (s.setIssue i).hotPtr = s.hotPtr := rfl
@[simp] theorem State.setIssue_hotCnt (s : State) (i : Issue) : (s.setIssue i).hotCnt = s.hotCnt := rfl
@[simp] theorem State.setIssue_quar (s : State) (i : Issue) : (s.setIssue i).quar = s.quar := rfl
@[simp] theorem State.setIssue_qfull (s : State) (i : Issue) : (s.setIssue i).qfull = s.qfull := rfl
@[simp] theorem State.setIssue_fwfault (s : State) (i : Issue) : (s.setIssue i).fwfault = s.fwfault := rfl
@[simp] theorem State.setIssue_irqs (s : State) (i : Issue) : (s.setIssue i).irqs = s.irqs := rfl
@[simp] theorem State.setIssue_nextBind (s : State) (i : Issue) : (s.setIssue i).nextBind = s.nextBind := rfl
@[simp] theorem State.setIssue_nextNotify (s : State) (i : Issue) : (s.setIssue i).nextNotify = s.nextNotify := rfl
@[simp] theorem State.setIssue_usec (s : State) (i : Issue) : (s.setIssue i).usec = s.usec := rfl
@[simp] theorem State.setIssue_resets (s : State) (i : Issue) : (s.setIssue i).resets = s.resets := rfl
@[simp] theorem State.setIssue_made (s : State) (i : Issue) : (s.setIssue i).made = s.made := rfl
@[simp] theorem State.setIssue_bezel (s : State) (i : Issue) : (s.setIssue i).bezel = s.bezel := rfl
@[simp] theorem State.setIssue_imports (s : State) (i : Issue) : (s.setIssue i).imports = s.imports := rfl
@[simp] theorem State.setIssue_fabKeys (s : State) (i : Issue) : (s.setIssue i).fabKeys = s.fabKeys := rfl
@[simp] theorem State.setIssue_proxies (s : State) (i : Issue) : (s.setIssue i).proxies = s.proxies := rfl
@[simp] theorem State.setIssue_turned (s : State) (i : Issue) : (s.setIssue i).turned = s.turned := rfl
@[simp] theorem State.setIssue_fabAnswers (s : State) (i : Issue) : (s.setIssue i).fabAnswers = s.fabAnswers := rfl
@[simp] theorem State.setIssue_fabWaits (s : State) (i : Issue) : (s.setIssue i).fabWaits = s.fabWaits := rfl
@[simp] theorem State.setIssue_forwarded (s : State) (i : Issue) : (s.setIssue i).forwarded = s.forwarded := rfl
@[simp] theorem State.setIssue_hostSeen (s : State) (i : Issue) : (s.setIssue i).hostSeen = s.hostSeen := rfl
@[simp] theorem State.setIssue_assay (s : State) (i : Issue) : (s.setIssue i).assay = s.assay := rfl

/-! ## irq -/

@[simp] theorem State.irq_started (s : State) (k w : Nat) : (s.irq k w).started = s.started := rfl
@[simp] theorem State.irq_safe (s : State) (k w : Nat) : (s.irq k w).safe = s.safe := rfl
@[simp] theorem State.irq_capped (s : State) (k w : Nat) : (s.irq k w).capped = s.capped := rfl
@[simp] theorem State.irq_agenda (s : State) (k w : Nat) : (s.irq k w).agenda = s.agenda := rfl
@[simp] theorem State.irq_cur (s : State) (k w : Nat) : (s.irq k w).cur = s.cur := rfl
@[simp] theorem State.irq_free (s : State) (k w : Nat) : (s.irq k w).free = s.free := rfl
@[simp] theorem State.irq_threads (s : State) (k w : Nat) : (s.irq k w).threads = s.threads := rfl
@[simp] theorem State.irq_warps (s : State) (k w : Nat) : (s.irq k w).warps = s.warps := rfl
@[simp] theorem State.irq_blocks (s : State) (k w : Nat) : (s.irq k w).blocks = s.blocks := rfl
@[simp] theorem State.irq_cores (s : State) (k w : Nat) : (s.irq k w).cores = s.cores := rfl
@[simp] theorem State.irq_issues (s : State) (k w : Nat) : (s.irq k w).issues = s.issues := rfl
@[simp] theorem State.irq_halted (s : State) (k w : Nat) : (s.irq k w).halted = s.halted := rfl
@[simp] theorem State.irq_ops (s : State) (k w : Nat) : (s.irq k w).ops = s.ops := rfl
@[simp] theorem State.irq_nextOp (s : State) (k w : Nat) : (s.irq k w).nextOp = s.nextOp := rfl
@[simp] theorem State.irq_mem (s : State) (k w : Nat) : (s.irq k w).mem = s.mem := rfl
@[simp] theorem State.irq_poison (s : State) (k w : Nat) : (s.irq k w).poison = s.poison := rfl
@[simp] theorem State.irq_corrected (s : State) (k w : Nat) : (s.irq k w).corrected = s.corrected := rfl
@[simp] theorem State.irq_scratch (s : State) (k w : Nat) : (s.irq k w).scratch = s.scratch := rfl
@[simp] theorem State.irq_accm (s : State) (k w : Nat) : (s.irq k w).accm = s.accm := rfl
@[simp] theorem State.irq_wbuf (s : State) (k w : Nat) : (s.irq k w).wbuf = s.wbuf := rfl
@[simp] theorem State.irq_wlog (s : State) (k w : Nat) : (s.irq k w).wlog = s.wlog := rfl
@[simp] theorem State.irq_serial (s : State) (k w : Nat) : (s.irq k w).serial = s.serial := rfl
@[simp] theorem State.irq_rels (s : State) (k w : Nat) : (s.irq k w).rels = s.rels := rfl
@[simp] theorem State.irq_launches (s : State) (k w : Nat) : (s.irq k w).launches = s.launches := rfl
@[simp] theorem State.irq_nextLaunch (s : State) (k w : Nat) : (s.irq k w).nextLaunch = s.nextLaunch := rfl
@[simp] theorem State.irq_vdevs (s : State) (k w : Nat) : (s.irq k w).vdevs = s.vdevs := rfl
@[simp] theorem State.irq_signals (s : State) (k w : Nat) : (s.irq k w).signals = s.signals := rfl
@[simp] theorem State.irq_sigMods (s : State) (k w : Nat) : (s.irq k w).sigMods = s.sigMods := rfl
@[simp] theorem State.irq_epoch (s : State) (k w : Nat) : (s.irq k w).epoch = s.epoch := rfl
@[simp] theorem State.irq_hotCfg (s : State) (k w : Nat) : (s.irq k w).hotCfg = s.hotCfg := rfl
@[simp] theorem State.irq_hotRing (s : State) (k w : Nat) : (s.irq k w).hotRing = s.hotRing := rfl
@[simp] theorem State.irq_hotPtr (s : State) (k w : Nat) : (s.irq k w).hotPtr = s.hotPtr := rfl
@[simp] theorem State.irq_hotCnt (s : State) (k w : Nat) : (s.irq k w).hotCnt = s.hotCnt := rfl
@[simp] theorem State.irq_quar (s : State) (k w : Nat) : (s.irq k w).quar = s.quar := rfl
@[simp] theorem State.irq_qfull (s : State) (k w : Nat) : (s.irq k w).qfull = s.qfull := rfl
@[simp] theorem State.irq_fwfault (s : State) (k w : Nat) : (s.irq k w).fwfault = s.fwfault := rfl
@[simp] theorem State.irq_nextBind (s : State) (k w : Nat) : (s.irq k w).nextBind = s.nextBind := rfl
@[simp] theorem State.irq_nextNotify (s : State) (k w : Nat) : (s.irq k w).nextNotify = s.nextNotify := rfl
@[simp] theorem State.irq_usec (s : State) (k w : Nat) : (s.irq k w).usec = s.usec := rfl
@[simp] theorem State.irq_resets (s : State) (k w : Nat) : (s.irq k w).resets = s.resets := rfl
@[simp] theorem State.irq_made (s : State) (k w : Nat) : (s.irq k w).made = s.made := rfl
@[simp] theorem State.irq_bezel (s : State) (k w : Nat) : (s.irq k w).bezel = s.bezel := rfl
@[simp] theorem State.irq_imports (s : State) (k w : Nat) : (s.irq k w).imports = s.imports := rfl
@[simp] theorem State.irq_fabKeys (s : State) (k w : Nat) : (s.irq k w).fabKeys = s.fabKeys := rfl
@[simp] theorem State.irq_proxies (s : State) (k w : Nat) : (s.irq k w).proxies = s.proxies := rfl
@[simp] theorem State.irq_turned (s : State) (k w : Nat) : (s.irq k w).turned = s.turned := rfl
@[simp] theorem State.irq_fabAnswers (s : State) (k w : Nat) : (s.irq k w).fabAnswers = s.fabAnswers := rfl
@[simp] theorem State.irq_fabWaits (s : State) (k w : Nat) : (s.irq k w).fabWaits = s.fabWaits := rfl
@[simp] theorem State.irq_forwarded (s : State) (k w : Nat) : (s.irq k w).forwarded = s.forwarded := rfl
@[simp] theorem State.irq_hostSeen (s : State) (k w : Nat) : (s.irq k w).hostSeen = s.hostSeen := rfl
@[simp] theorem State.irq_assay (s : State) (k w : Nat) : (s.irq k w).assay = s.assay := rfl

/-! ## Reading back -/

@[simp] theorem State.thr_setThr_same (s : State) (t : Nat) (x : Thread) : (s.setThr t x).thr t = x := by
  simp [State.thr, State.setThr]
theorem State.thr_setThr (s : State) (t k : Nat) (x : Thread) :
    (s.setThr t x).thr k = if k = t then x else s.thr k := by
  by_cases h : k = t
  · subst h; simp
  · simp [State.thr, State.setThr, Tab.get_put_ne, h]
theorem State.thr_modThr (s : State) (t k : Nat) (f : Thread → Thread) :
    (s.modThr t f).thr k = if k = t then f (s.thr t) else s.thr k := State.thr_setThr ..
@[simp] theorem State.thr_modThr_same (s : State) (t : Nat) (f : Thread → Thread) :
    (s.modThr t f).thr t = f (s.thr t) := by simp [State.thr_modThr]
@[simp] theorem State.warp_setWarp_same (s : State) (w : Nat) (x : Warp) : (s.setWarp w x).warp w = x := by
  simp [State.warp, State.setWarp]
theorem State.warp_setWarp (s : State) (w k : Nat) (x : Warp) :
    (s.setWarp w x).warp k = if k = w then x else s.warp k := by
  by_cases h : k = w
  · subst h; simp
  · simp [State.warp, State.setWarp, Tab.get_put_ne, h]
theorem State.warp_modWarp (s : State) (w k : Nat) (f : Warp → Warp) :
    (s.modWarp w f).warp k = if k = w then f (s.warp w) else s.warp k := State.warp_setWarp ..
@[simp] theorem State.block_setBlock_same (s : State) (c : Nat) (x : Block) : (s.setBlock c x).block c = x := by
  simp [State.block, State.setBlock]
theorem State.block_setBlock (s : State) (c k : Nat) (x : Block) :
    (s.setBlock c x).block k = if k = c then x else s.block k := by
  by_cases h : k = c
  · subst h; simp
  · simp [State.block, State.setBlock, Tab.get_put_ne, h]
theorem State.block_modBlock (s : State) (c k : Nat) (f : Block → Block) :
    (s.modBlock c f).block k = if k = c then f (s.block c) else s.block k := State.block_setBlock ..
@[simp] theorem State.core_setCore_same (s : State) (c : Nat) (x : Core) : (s.setCore c x).core c = x := by
  simp [State.core, State.setCore]
theorem State.core_setCore (s : State) (c k : Nat) (x : Core) :
    (s.setCore c x).core k = if k = c then x else s.core k := by
  by_cases h : k = c
  · subst h; simp
  · simp [State.core, State.setCore, Tab.get_put_ne, h]
theorem State.core_modCore (s : State) (c k : Nat) (f : Core → Core) :
    (s.modCore c f).core k = if k = c then f (s.core c) else s.core k := State.core_setCore ..
@[simp] theorem State.vdev_setVdev_same (s : State) (v : Nat) (x : Vdev) : (s.setVdev v x).vdev v = x := by
  simp [State.vdev, State.setVdev]
theorem State.vdev_setVdev (s : State) (v k : Nat) (x : Vdev) :
    (s.setVdev v x).vdev k = if k = v then x else s.vdev k := by
  by_cases h : k = v
  · subst h; simp
  · simp [State.vdev, State.setVdev, Tab.get_put_ne, h]
theorem State.vdev_modVdev (s : State) (v k : Nat) (f : Vdev → Vdev) :
    (s.modVdev v f).vdev k = if k = v then f (s.vdev v) else s.vdev k := State.vdev_setVdev ..
@[simp] theorem State.launch_setLaunch_same (s : State) (l : Nat) (x : Launch) :
    (s.setLaunch l x).launch? l = some x := by simp [State.launch?, State.setLaunch]
theorem State.launch_setLaunch (s : State) (l k : Nat) (x : Launch) :
    (s.setLaunch l x).launch? k = if k = l then some x else s.launch? k := by
  by_cases h : k = l
  · subst h; simp
  · simp [State.launch?, State.setLaunch, Tab.find_put_ne, h]
@[simp] theorem State.issue_setIssue (s : State) (i : Issue) : (s.setIssue i).issue = some i := by
  simp [State.issue, State.setIssue]

/-! ## Accessors over other tables -/

@[simp] theorem State.warp_setThr_other (s : State) (t : Nat) (x : Thread) (j : Nat) : (s.setThr t x).warp j = s.warp j := rfl
@[simp] theorem State.block_setThr_other (s : State) (t : Nat) (x : Thread) (j : Nat) : (s.setThr t x).block j = s.block j := rfl
@[simp] theorem State.core_setThr_other (s : State) (t : Nat) (x : Thread) (j : Nat) : (s.setThr t x).core j = s.core j := rfl
@[simp] theorem State.vdev_setThr_other (s : State) (t : Nat) (x : Thread) (j : Nat) : (s.setThr t x).vdev j = s.vdev j := rfl
@[simp] theorem State.launch_setThr_other (s : State) (t : Nat) (x : Thread) (j : Nat) : (s.setThr t x).launch? j = s.launch? j := rfl
@[simp] theorem State.issue_setThr_other (s : State) (t : Nat) (x : Thread) : (s.setThr t x).issue = s.issue := rfl
@[simp] theorem State.warp_modThr_other (s : State) (t : Nat) (f : Thread → Thread) (j : Nat) : (s.modThr t f).warp j = s.warp j := rfl
@[simp] theorem State.block_modThr_other (s : State) (t : Nat) (f : Thread → Thread) (j : Nat) : (s.modThr t f).block j = s.block j := rfl
@[simp] theorem State.core_modThr_other (s : State) (t : Nat) (f : Thread → Thread) (j : Nat) : (s.modThr t f).core j = s.core j := rfl
@[simp] theorem State.vdev_modThr_other (s : State) (t : Nat) (f : Thread → Thread) (j : Nat) : (s.modThr t f).vdev j = s.vdev j := rfl
@[simp] theorem State.launch_modThr_other (s : State) (t : Nat) (f : Thread → Thread) (j : Nat) : (s.modThr t f).launch? j = s.launch? j := rfl
@[simp] theorem State.issue_modThr_other (s : State) (t : Nat) (f : Thread → Thread) : (s.modThr t f).issue = s.issue := rfl
@[simp] theorem State.thr_setWarp_other (s : State) (w : Nat) (x : Warp) (j : Nat) : (s.setWarp w x).thr j = s.thr j := rfl
@[simp] theorem State.block_setWarp_other (s : State) (w : Nat) (x : Warp) (j : Nat) : (s.setWarp w x).block j = s.block j := rfl
@[simp] theorem State.core_setWarp_other (s : State) (w : Nat) (x : Warp) (j : Nat) : (s.setWarp w x).core j = s.core j := rfl
@[simp] theorem State.vdev_setWarp_other (s : State) (w : Nat) (x : Warp) (j : Nat) : (s.setWarp w x).vdev j = s.vdev j := rfl
@[simp] theorem State.launch_setWarp_other (s : State) (w : Nat) (x : Warp) (j : Nat) : (s.setWarp w x).launch? j = s.launch? j := rfl
@[simp] theorem State.issue_setWarp_other (s : State) (w : Nat) (x : Warp) : (s.setWarp w x).issue = s.issue := rfl
@[simp] theorem State.thr_modWarp_other (s : State) (w : Nat) (f : Warp → Warp) (j : Nat) : (s.modWarp w f).thr j = s.thr j := rfl
@[simp] theorem State.block_modWarp_other (s : State) (w : Nat) (f : Warp → Warp) (j : Nat) : (s.modWarp w f).block j = s.block j := rfl
@[simp] theorem State.core_modWarp_other (s : State) (w : Nat) (f : Warp → Warp) (j : Nat) : (s.modWarp w f).core j = s.core j := rfl
@[simp] theorem State.vdev_modWarp_other (s : State) (w : Nat) (f : Warp → Warp) (j : Nat) : (s.modWarp w f).vdev j = s.vdev j := rfl
@[simp] theorem State.launch_modWarp_other (s : State) (w : Nat) (f : Warp → Warp) (j : Nat) : (s.modWarp w f).launch? j = s.launch? j := rfl
@[simp] theorem State.issue_modWarp_other (s : State) (w : Nat) (f : Warp → Warp) : (s.modWarp w f).issue = s.issue := rfl
@[simp] theorem State.thr_setBlock_other (s : State) (c : Nat) (x : Block) (j : Nat) : (s.setBlock c x).thr j = s.thr j := rfl
@[simp] theorem State.warp_setBlock_other (s : State) (c : Nat) (x : Block) (j : Nat) : (s.setBlock c x).warp j = s.warp j := rfl
@[simp] theorem State.core_setBlock_other (s : State) (c : Nat) (x : Block) (j : Nat) : (s.setBlock c x).core j = s.core j := rfl
@[simp] theorem State.vdev_setBlock_other (s : State) (c : Nat) (x : Block) (j : Nat) : (s.setBlock c x).vdev j = s.vdev j := rfl
@[simp] theorem State.launch_setBlock_other (s : State) (c : Nat) (x : Block) (j : Nat) : (s.setBlock c x).launch? j = s.launch? j := rfl
@[simp] theorem State.issue_setBlock_other (s : State) (c : Nat) (x : Block) : (s.setBlock c x).issue = s.issue := rfl
@[simp] theorem State.thr_modBlock_other (s : State) (c : Nat) (f : Block → Block) (j : Nat) : (s.modBlock c f).thr j = s.thr j := rfl
@[simp] theorem State.warp_modBlock_other (s : State) (c : Nat) (f : Block → Block) (j : Nat) : (s.modBlock c f).warp j = s.warp j := rfl
@[simp] theorem State.core_modBlock_other (s : State) (c : Nat) (f : Block → Block) (j : Nat) : (s.modBlock c f).core j = s.core j := rfl
@[simp] theorem State.vdev_modBlock_other (s : State) (c : Nat) (f : Block → Block) (j : Nat) : (s.modBlock c f).vdev j = s.vdev j := rfl
@[simp] theorem State.launch_modBlock_other (s : State) (c : Nat) (f : Block → Block) (j : Nat) : (s.modBlock c f).launch? j = s.launch? j := rfl
@[simp] theorem State.issue_modBlock_other (s : State) (c : Nat) (f : Block → Block) : (s.modBlock c f).issue = s.issue := rfl
@[simp] theorem State.thr_setCore_other (s : State) (c : Nat) (x : Core) (j : Nat) : (s.setCore c x).thr j = s.thr j := rfl
@[simp] theorem State.warp_setCore_other (s : State) (c : Nat) (x : Core) (j : Nat) : (s.setCore c x).warp j = s.warp j := rfl
@[simp] theorem State.block_setCore_other (s : State) (c : Nat) (x : Core) (j : Nat) : (s.setCore c x).block j = s.block j := rfl
@[simp] theorem State.vdev_setCore_other (s : State) (c : Nat) (x : Core) (j : Nat) : (s.setCore c x).vdev j = s.vdev j := rfl
@[simp] theorem State.launch_setCore_other (s : State) (c : Nat) (x : Core) (j : Nat) : (s.setCore c x).launch? j = s.launch? j := rfl
@[simp] theorem State.issue_setCore_other (s : State) (c : Nat) (x : Core) : (s.setCore c x).issue = s.issue := rfl
@[simp] theorem State.thr_modCore_other (s : State) (c : Nat) (f : Core → Core) (j : Nat) : (s.modCore c f).thr j = s.thr j := rfl
@[simp] theorem State.warp_modCore_other (s : State) (c : Nat) (f : Core → Core) (j : Nat) : (s.modCore c f).warp j = s.warp j := rfl
@[simp] theorem State.block_modCore_other (s : State) (c : Nat) (f : Core → Core) (j : Nat) : (s.modCore c f).block j = s.block j := rfl
@[simp] theorem State.vdev_modCore_other (s : State) (c : Nat) (f : Core → Core) (j : Nat) : (s.modCore c f).vdev j = s.vdev j := rfl
@[simp] theorem State.launch_modCore_other (s : State) (c : Nat) (f : Core → Core) (j : Nat) : (s.modCore c f).launch? j = s.launch? j := rfl
@[simp] theorem State.issue_modCore_other (s : State) (c : Nat) (f : Core → Core) : (s.modCore c f).issue = s.issue := rfl
@[simp] theorem State.thr_setVdev_other (s : State) (v : Nat) (x : Vdev) (j : Nat) : (s.setVdev v x).thr j = s.thr j := rfl
@[simp] theorem State.warp_setVdev_other (s : State) (v : Nat) (x : Vdev) (j : Nat) : (s.setVdev v x).warp j = s.warp j := rfl
@[simp] theorem State.block_setVdev_other (s : State) (v : Nat) (x : Vdev) (j : Nat) : (s.setVdev v x).block j = s.block j := rfl
@[simp] theorem State.core_setVdev_other (s : State) (v : Nat) (x : Vdev) (j : Nat) : (s.setVdev v x).core j = s.core j := rfl
@[simp] theorem State.launch_setVdev_other (s : State) (v : Nat) (x : Vdev) (j : Nat) : (s.setVdev v x).launch? j = s.launch? j := rfl
@[simp] theorem State.issue_setVdev_other (s : State) (v : Nat) (x : Vdev) : (s.setVdev v x).issue = s.issue := rfl
@[simp] theorem State.thr_modVdev_other (s : State) (v : Nat) (f : Vdev → Vdev) (j : Nat) : (s.modVdev v f).thr j = s.thr j := rfl
@[simp] theorem State.warp_modVdev_other (s : State) (v : Nat) (f : Vdev → Vdev) (j : Nat) : (s.modVdev v f).warp j = s.warp j := rfl
@[simp] theorem State.block_modVdev_other (s : State) (v : Nat) (f : Vdev → Vdev) (j : Nat) : (s.modVdev v f).block j = s.block j := rfl
@[simp] theorem State.core_modVdev_other (s : State) (v : Nat) (f : Vdev → Vdev) (j : Nat) : (s.modVdev v f).core j = s.core j := rfl
@[simp] theorem State.launch_modVdev_other (s : State) (v : Nat) (f : Vdev → Vdev) (j : Nat) : (s.modVdev v f).launch? j = s.launch? j := rfl
@[simp] theorem State.issue_modVdev_other (s : State) (v : Nat) (f : Vdev → Vdev) : (s.modVdev v f).issue = s.issue := rfl
@[simp] theorem State.thr_setLaunch_other (s : State) (l : Nat) (x : Launch) (j : Nat) : (s.setLaunch l x).thr j = s.thr j := rfl
@[simp] theorem State.warp_setLaunch_other (s : State) (l : Nat) (x : Launch) (j : Nat) : (s.setLaunch l x).warp j = s.warp j := rfl
@[simp] theorem State.block_setLaunch_other (s : State) (l : Nat) (x : Launch) (j : Nat) : (s.setLaunch l x).block j = s.block j := rfl
@[simp] theorem State.core_setLaunch_other (s : State) (l : Nat) (x : Launch) (j : Nat) : (s.setLaunch l x).core j = s.core j := rfl
@[simp] theorem State.vdev_setLaunch_other (s : State) (l : Nat) (x : Launch) (j : Nat) : (s.setLaunch l x).vdev j = s.vdev j := rfl
@[simp] theorem State.issue_setLaunch_other (s : State) (l : Nat) (x : Launch) : (s.setLaunch l x).issue = s.issue := rfl
@[simp] theorem State.thr_setIssue_other (s : State) (i : Issue) (j : Nat) : (s.setIssue i).thr j = s.thr j := rfl
@[simp] theorem State.warp_setIssue_other (s : State) (i : Issue) (j : Nat) : (s.setIssue i).warp j = s.warp j := rfl
@[simp] theorem State.block_setIssue_other (s : State) (i : Issue) (j : Nat) : (s.setIssue i).block j = s.block j := rfl
@[simp] theorem State.core_setIssue_other (s : State) (i : Issue) (j : Nat) : (s.setIssue i).core j = s.core j := rfl
@[simp] theorem State.vdev_setIssue_other (s : State) (i : Issue) (j : Nat) : (s.setIssue i).vdev j = s.vdev j := rfl
@[simp] theorem State.launch_setIssue_other (s : State) (i : Issue) (j : Nat) : (s.setIssue i).launch? j = s.launch? j := rfl
@[simp] theorem State.thr_irq_other (s : State) (k w : Nat) (j : Nat) : (s.irq k w).thr j = s.thr j := rfl
@[simp] theorem State.warp_irq_other (s : State) (k w : Nat) (j : Nat) : (s.irq k w).warp j = s.warp j := rfl
@[simp] theorem State.block_irq_other (s : State) (k w : Nat) (j : Nat) : (s.irq k w).block j = s.block j := rfl
@[simp] theorem State.core_irq_other (s : State) (k w : Nat) (j : Nat) : (s.irq k w).core j = s.core j := rfl
@[simp] theorem State.vdev_irq_other (s : State) (k w : Nat) (j : Nat) : (s.irq k w).vdev j = s.vdev j := rfl
@[simp] theorem State.launch_irq_other (s : State) (k w : Nat) (j : Nat) : (s.irq k w).launch? j = s.launch? j := rfl
@[simp] theorem State.issue_irq_other (s : State) (k w : Nat) : (s.irq k w).issue = s.issue := rfl

end Sys2Proof.Machine
end

