-- ==== Sys2Proof/Laws/Lanes.lean ====
section
/-! SUPPORT. Laws of the execution of a word by its threads: sources that are registers, and the writing of
vector and uniform registers and of predicates. -/

namespace Sys2Proof.Machine

/-! ## Sources -/

theorem State.source_plain (s : State) (i : Issue) (t c : Nat) (h : c < 124) :
    s.source i t c = (.ok (s.reg t c), s) := by simp [State.source, h]

/-- Sources that are no queue ports read their registers and change nothing (R9). -/
theorem State.sources_plain (s : State) (i : Issue) (t : Nat) (cs : List Nat) (h : ∀ c ∈ cs, c < 124) :
    s.sources i t cs = (.ok (cs.map (s.reg t)), s) := by
  induction cs with
  | nil => rfl
  | cons c cs ih =>
    simp only [State.sources, State.source_plain s i t c (h c (by simp)),
      ih (fun x hx => h x (by simp [hx])), List.map_cons]

/-! ## Running threads in order -/

/-- Threads whose execution meets no fault give no faults. -/
theorem State.runAll_ran (s : State) (f : State → Nat → State) (ts : List Nat) :
    s.runAll (fun s t => ran (f s t)) ts = (ts.foldl f s, []) := by
  induction ts generalizing s with
  | nil => rfl
  | cons t ts ih =>
    have h := ih (f s t)
    simp only [State.runAll, State.runOne, ran, List.foldl_cons] at h ⊢
    rw [h]

/-- The faults of a word are raised only where there are any. -/
@[simp] theorem State.raiseMany_nil (s : State) (i : Issue) (sc : Scope) (lits n : Nat) :
    s.raiseMany i sc lits n [] = s := by cases n <;> rfl

/-- A word whose threads meet no fault: their effects in order. -/
theorem State.eachOr_ran (s : State) (i : Issue) (sc : Scope) (p lits : Nat) (f : State → Nat → State) :
    s.eachOr i sc p lits (fun s t => ran (f s t)) = (s.actors i sc p).foldl f s := by
  simp [State.eachOr, State.runAll_ran]

theorem onIssue_some (s : State) (i : Issue) (k : Issue → State) (h : s.issue = some i) :
    onIssue s k = .next (k i) := by simp [onIssue, h]

theorem onIssue_none (s : State) (k : Issue → State) (h : s.issue = none) : onIssue s k = .next s := by
  simp [onIssue, h]

/-- A word never stops the machine. -/
theorem onIssue_next (s : State) (k : Issue → State) : ∃ t, onIssue s k = .next t := by
  unfold onIssue; split <;> exact ⟨_, rfl⟩

/-! ## Who acts -/

@[simp] theorem State.actors_lane (s : State) (i : Issue) (p : Nat) :
    s.actors i .lane p = i.group.filter fun t => s.pred t p := rfl

theorem State.actors_wide (s : State) (i : Issue) (sc : Scope) (p : Nat) (h : sc ≠ .lane) :
    s.actors i sc p = (s.rep i p).toList := by cases sc <;> simp_all [State.actors]

theorem State.rep_cons (s : State) (i : Issue) (p r : Nat) (g : List Nat) (h : i.group = r :: g) :
    s.rep i p = if s.pred r p then some r else none := by simp [State.rep, h]

theorem State.rep_nil (s : State) (i : Issue) (p : Nat) (h : i.group = []) : s.rep i p = none := by
  simp [State.rep, h]

/-! ## Vector registers -/

@[simp] theorem State.reg_setVec_ne (s : State) (t k d : Nat) (x : Word) (c : Nat) (h : k ≠ t) :
    (s.setVec t d x).reg k c = s.reg k c := by
  simp [State.reg, State.setVec, State.thr_modThr, h]

theorem State.thr_setVec (s : State) (t k d : Nat) (x : Word) :
    (s.setVec t d x).thr k = if k = t then { s.thr t with v := (s.thr t).v.put d x } else s.thr k :=
  State.thr_modThr ..

/-- A vector register reads back what was written; the others keep their values (R7). -/
theorem State.reg_setVec (s : State) (t d c : Nat) (x : Word) (h : d < 96) :
    (s.setVec t d x).reg t c = if c = d then x else s.reg t c := by
  unfold State.reg
  by_cases hc : c < 96
  · simp [hc, State.thr_setVec, Tab.get_put]
  · have : c ≠ d := by omega
    simp [hc, this, State.setVec, warpKeyOf]

/-- Register D of some threads written with a value of each. -/
def State.setVecs (s : State) (ts : List Nat) (d : Nat) (val : Nat → Word) : State :=
  ts.foldl (fun s t => s.setVec t d (val t)) s

theorem State.setVecs_thr (s : State) (ts : List Nat) (d : Nat) (val : Nat → Word) (h : ts.Nodup) (k : Nat) :
    (s.setVecs ts d val).thr k =
      if k ∈ ts then { s.thr k with v := (s.thr k).v.put d (val k) } else s.thr k := by
  induction ts generalizing s with
  | nil => simp [State.setVecs]
  | cons t ts ih =>
    obtain ⟨h1, h2⟩ := List.nodup_cons.mp h
    have := ih (s.setVec t d (val t)) h2
    simp only [State.setVecs, List.foldl_cons] at this ⊢
    rw [this]
    by_cases hk : k ∈ ts
    · have hne : k ≠ t := fun e => h1 (e ▸ hk)
      simp [hk, State.thr_setVec, hne]
    · by_cases hkt : k = t
      · subst hkt; simp [hk, State.thr_setVec]
      · simp [hk, hkt, State.thr_setVec]

/-- Only the threads change. -/
theorem State.setVecs_eq (s : State) (ts : List Nat) (d : Nat) (val : Nat → Word) :
    s.setVecs ts d val = { s with threads := (s.setVecs ts d val).threads } := by
  induction ts generalizing s with
  | nil => rfl
  | cons t ts ih =>
    have := ih (s.setVec t d (val t))
    simp only [State.setVecs, List.foldl_cons] at this ⊢
    rw [this]; rfl

/-- A function of a state that no write of another thread's vector register changes. -/
def Steady {α : Type} (g : State → Nat → α) : Prop := ∀ s t k d x, k ≠ t → g (s.setVec t d x) k = g s k

/-- Each thread writes its own register from what it reads itself: all read the state before the word. -/
theorem State.foldl_setVec (s : State) (ts : List Nat) (d : Nat) (g : State → Nat → Word) (hg : Steady g)
    (h : ts.Nodup) : ts.foldl (fun s t => s.setVec t d (g s t)) s = s.setVecs ts d (g s) := by
  suffices H : ∀ s0 : State, (∀ t ∈ ts, g s t = g s0 t) →
      ts.foldl (fun s t => s.setVec t d (g s t)) s = s.setVecs ts d (g s0) from H s fun _ _ => rfl
  intro s0 h0
  induction ts generalizing s with
  | nil => rfl
  | cons t ts ih =>
    obtain ⟨h1, h2⟩ := List.nodup_cons.mp h
    have e : g s t = g s0 t := h0 t (by simp)
    simp only [State.setVecs, List.foldl_cons]
    rw [e]
    refine ih _ h2 (fun k hk => ?_)
    have hne : k ≠ t := by rintro rfl; exact h1 hk
    rw [hg _ _ _ _ _ hne]
    exact h0 k (by simp [hk])

theorem Steady.reg (c : Nat) : Steady fun s t => s.reg t c := fun _ _ _ _ _ h => State.reg_setVec_ne _ _ _ _ _ _ h

theorem Steady.modes : Steady fun s t => s.modes t := fun _ _ _ _ _ _ => rfl

theorem Steady.pred (p : Nat) : Steady fun s t => s.pred t p := by
  intro s t k d x h
  simp [State.pred, State.thr_setVec, h]

theorem Steady.preds : Steady fun s t => (s.thr t).p := by
  intro s t k d x h
  simp [State.thr_setVec, h]

theorem Steady.regs (cs : List Nat) : Steady fun s t => cs.map (s.reg t) := by
  intro s t k d x h
  exact List.map_congr_left fun c _ => State.reg_setVec_ne _ _ _ _ _ _ h

@[simp] theorem State.destWarps_lane (s : State) (i : Issue) (t : Nat) : s.destWarps i .lane t = [] := rfl

theorem State.destWarps_wide (s : State) (i : Issue) (sc : Scope) (t : Nat) (h : sc ≠ .lane) :
    s.destWarps i sc t = s.dstWarps i t := by cases sc <;> simp_all [State.destWarps]

theorem State.setReg_vec (s : State) (t : Nat) (ws : List Nat) (d : Nat) (x : Word) (h : d < 96) :
    s.setReg t ws d x = s.setVec t d x := by simp [State.setReg, h]

/-- The zero register discards what is written to it (R9). -/
theorem State.setReg_zero (s : State) (t : Nat) (ws : List Nat) (d : Nat) (x : Word) (h : 120 ≤ d) :
    s.setReg t ws d x = s := by
  have h1 : ¬ d < 96 := by omega
  have h2 : ¬ d < 120 := by omega
  simp [State.setReg, h1, h2]

/-! ## Uniform registers -/

/-- Register D - 96 of some warps written. -/
def State.setUnis (s : State) (ws : List Nat) (c : Nat) (x : Word) : State :=
  ws.foldl (fun s w => s.setUni w c x) s

theorem State.setReg_uni (s : State) (t : Nat) (ws : List Nat) (d : Nat) (x : Word) (h : 96 ≤ d) (h2 : d < 120) :
    s.setReg t ws d x = s.setUnis ws (d - 96) x := by
  have h1 : ¬ d < 96 := by omega
  simp [State.setReg, h1, h2, State.setUnis]

theorem State.setUnis_warp (s : State) (ws : List Nat) (c : Nat) (x : Word) (k : Nat) :
    (s.setUnis ws c x).warp k = if k ∈ ws then { s.warp k with s := (s.warp k).s.put c x } else s.warp k := by
  induction ws generalizing s with
  | nil => simp [State.setUnis]
  | cons w ws ih =>
    have := ih (s.setUni w c x)
    simp only [State.setUnis, List.foldl_cons] at this ⊢
    rw [this]
    by_cases hw : k = w
    · subst hw
      by_cases hk : k ∈ ws <;> simp [hk, State.setUni, State.warp_modWarp, Tab.put_put]
    · by_cases hk : k ∈ ws <;> simp [hk, hw, State.setUni, State.warp_modWarp]

theorem State.setUnis_eq (s : State) (ws : List Nat) (c : Nat) (x : Word) :
    s.setUnis ws c x = { s with warps := (s.setUnis ws c x).warps } := by
  induction ws generalizing s with
  | nil => rfl
  | cons w ws ih =>
    have := ih (s.setUni w c x)
    simp only [State.setUnis, List.foldl_cons] at this ⊢
    rw [this]; rfl

/-! ## Predicates -/

theorem State.thr_setPred (s : State) (t k n : Nat) (b : Bool) :
    (s.setPred t n b).thr k =
      if k = t ∧ n ≠ 0 then { s.thr k with p := setBit8 (s.thr k).p n b } else s.thr k := by
  unfold State.setPred
  by_cases hn : n = 0
  · simp [hn]
  · by_cases hk : k = t
    · subst hk; simp [hn]
    · simp [hn, hk, State.thr_modThr]

theorem setBit8_setBit8 (x : BitVec 8) (n : Nat) (b : Bool) : setBit8 (setBit8 x n b) n b = setBit8 x n b := by
  cases b
  · simp [setBit8, BitVec.and_assoc]
  · simp [setBit8, BitVec.or_assoc]

theorem State.setPreds_thr (s : State) (ts : List Nat) (n : Nat) (b : Bool) (k : Nat) :
    (s.setPreds ts n b).thr k =
      if k ∈ ts ∧ n ≠ 0 then { s.thr k with p := setBit8 (s.thr k).p n b } else s.thr k := by
  induction ts generalizing s with
  | nil => simp [State.setPreds]
  | cons t ts ih =>
    have := ih (s.setPred t n b)
    simp only [State.setPreds, List.foldl_cons] at this ⊢
    rw [this]
    by_cases hn : n = 0
    · simp [hn, State.thr_setPred]
    · by_cases hk : k = t
      · subst hk
        by_cases hm : k ∈ ts <;> simp [hn, hm, State.thr_setPred, setBit8_setBit8]
      · simp [hn, hk, State.thr_setPred]

theorem State.setPreds_eq (s : State) (ts : List Nat) (n : Nat) (b : Bool) :
    s.setPreds ts n b = { s with threads := (s.setPreds ts n b).threads } := by
  induction ts generalizing s with
  | nil => rfl
  | cons t ts ih =>
    have := ih (s.setPred t n b)
    simp only [State.setPreds, List.foldl_cons] at this ⊢
    rw [this]
    unfold State.setPred
    split <;> rfl

/-- A predicate reads back what was written; p0 stays true (R9). -/
theorem State.pred_setPred (s : State) (t n : Nat) (b : Bool) (h : n < 8) :
    (s.setPred t n b).pred t n = (n = 0 || b) := by
  by_cases hn : n = 0
  · simp [State.pred, hn]
  · have e : (setBit8 (s.thr t).p n b).getLsbD n = b := by
      cases b <;> simp [setBit8, h]
    simp [State.pred, hn, State.thr_setPred, e]

/-! ## Words that write a register -/

/-- One thread's effect where its sources are no queue ports. -/
theorem State.aluOne_plain (s : State) (i : Issue) (sc : Scope) (d : Nat) (srcs : List Nat)
    (f : Modes → List Word → Word → Word) (t : Nat) (h : ∀ c ∈ srcs, c < 124) :
    s.aluOne i sc d srcs f t =
      ran (s.setReg t (s.destWarps i sc t) d (f (s.modes t) (srcs.map (s.reg t)) (s.reg t d))) := by
  simp [State.aluOne, State.sources_plain s i t srcs h]

/-- A lane word whose destination is a vector register: every guarded lane's register D takes its value, all
computed from the state before the word (R64). -/
theorem aluReg_lane (d : BitVec 7) (p : Nat) (srcs : List (BitVec 7)) (f : Modes → List Word → Word → Word)
    (s : State) (i : Issue) (hi : s.issue = some i) (hn : i.group.Nodup) (hs : ∀ c ∈ srcs, c.toNat < 124)
    (hd : d.toNat < 96) :
    aluReg .lane d p srcs f s = .next (s.setVecs (i.group.filter fun t => s.pred t p) d.toNat fun t =>
      f (s.modes t) ((srcs.map BitVec.toNat).map (s.reg t)) (s.reg t d.toNat)) := by
  have hs' : ∀ c ∈ srcs.map BitVec.toNat, c < 124 := by simpa using hs
  have e : (fun (s : State) (t : Nat) => s.aluOne i .lane d.toNat (srcs.map BitVec.toNat) f t) = fun s t =>
      ran (s.setVec t d.toNat (f (s.modes t) ((srcs.map BitVec.toNat).map (s.reg t)) (s.reg t d.toNat))) := by
    funext s t
    rw [State.aluOne_plain _ _ _ _ _ _ _ hs', State.setReg_vec _ _ _ _ _ hd]
  unfold aluReg
  rw [onIssue_some _ _ _ hi, e, State.eachOr_ran, State.actors_lane]
  refine congrArg Host.Outcome.next (State.foldl_setVec s _ d.toNat (fun s t =>
    f (s.modes t) ((srcs.map BitVec.toNat).map (s.reg t)) (s.reg t d.toNat)) ?_ (hn.filter _))
  intro s t k d x hk
  have h1 := Steady.regs (srcs.map BitVec.toNat) s t k d x hk
  beta_reduce at h1 ⊢
  rw [h1, State.reg_setVec_ne _ _ _ _ _ _ hk]
  rfl

theorem foldl_id {α β : Type} (l : List α) (s : β) : l.foldl (fun s _ => s) s = s := by
  induction l generalizing s with
  | nil => rfl
  | cons a l ih => exact ih s

/-- A lane word whose destination is no vector register writes nothing. -/
theorem aluReg_lane_none (d : BitVec 7) (p : Nat) (srcs : List (BitVec 7)) (f : Modes → List Word → Word → Word)
    (s : State) (i : Issue) (hi : s.issue = some i) (hs : ∀ c ∈ srcs, c.toNat < 124) (hd : 96 ≤ d.toNat) :
    aluReg .lane d p srcs f s = .next s := by
  have hs' : ∀ c ∈ srcs.map BitVec.toNat, c < 124 := by simpa using hs
  have e : (fun (s : State) (t : Nat) => s.aluOne i .lane d.toNat (srcs.map BitVec.toNat) f t) = fun s _ => ran s := by
    funext s t
    rw [State.aluOne_plain _ _ _ _ _ _ _ hs']
    have h1 : ¬ d.toNat < 96 := by omega
    by_cases h2 : d.toNat < 120 <;> simp [State.setReg, h1, h2]
  unfold aluReg
  rw [onIssue_some _ _ _ hi, e, State.eachOr_ran, foldl_id]

/-- A word at a wider scope: the representative's value goes to the uniform register of every warp of the
scope, once, where its guard is true (R9, R64). -/
theorem aluReg_wide (sc : Scope) (d : BitVec 7) (p : Nat) (srcs : List (BitVec 7)) (f : Modes → List Word → Word → Word)
    (s : State) (i : Issue) (hi : s.issue = some i) (hsc : sc ≠ .lane) (hs : ∀ c ∈ srcs, c.toNat < 124) :
    aluReg sc d p srcs f s = .next (match s.rep i p with
      | none => s
      | some r => s.setReg r (s.dstWarps i r) d.toNat
          (f (s.modes r) ((srcs.map BitVec.toNat).map (s.reg r)) (s.reg r d.toNat))) := by
  have hs' : ∀ c ∈ srcs.map BitVec.toNat, c < 124 := by simpa using hs
  have e : (fun (s : State) (t : Nat) => s.aluOne i sc d.toNat (srcs.map BitVec.toNat) f t) = fun s t =>
      ran (s.setReg t (s.dstWarps i t) d.toNat (f (s.modes t) ((srcs.map BitVec.toNat).map (s.reg t)) (s.reg t d.toNat))) := by
    funext s t
    rw [State.aluOne_plain _ _ _ _ _ _ _ hs', State.destWarps_wide _ _ _ _ hsc]
  unfold aluReg
  rw [onIssue_some _ _ _ hi, e, State.eachOr_ran, State.actors_wide _ _ _ _ hsc]
  cases s.rep i p <;> rfl

/-! ## Words that change each acting thread -/

/-- Each of some threads changed by a function of its own. -/
def State.modEach (s : State) (ts : List Nat) (g : Nat → Thread → Thread) : State :=
  ts.foldl (fun s t => s.modThr t (g t)) s

theorem State.modEach_thr (s : State) (ts : List Nat) (g : Nat → Thread → Thread) (h : ts.Nodup) (k : Nat) :
    (s.modEach ts g).thr k = if k ∈ ts then g k (s.thr k) else s.thr k := by
  induction ts generalizing s with
  | nil => simp [State.modEach]
  | cons t ts ih =>
    obtain ⟨h1, h2⟩ := List.nodup_cons.mp h
    have := ih (s.modThr t (g t)) h2
    simp only [State.modEach, List.foldl_cons] at this ⊢
    rw [this]
    by_cases hkt : k = t
    · subst hkt; simp [h1]
    · simp [hkt, State.thr_modThr]

theorem State.modEach_eq (s : State) (ts : List Nat) (g : Nat → Thread → Thread) :
    s.modEach ts g = { s with threads := (s.modEach ts g).threads } := by
  induction ts generalizing s with
  | nil => rfl
  | cons t ts ih =>
    have := ih (s.modThr t (g t))
    simp only [State.modEach, List.foldl_cons] at this ⊢
    rw [this]; rfl

/-- What a thread does depends on no other thread's registers, predicates or holds. -/
def Apart {α : Type} (g : State → Nat → α) : Prop := ∀ s t k x, k ≠ t → g (s.setThr t x) k = g s k

/-- Each acting thread changes by what it reads itself: all read the state before the word. -/
theorem State.foldl_modThr (s : State) (ts : List Nat) (g : State → Nat → Thread → Thread) (hg : Apart g)
    (h : ts.Nodup) : ts.foldl (fun s t => s.modThr t (g s t)) s = s.modEach ts (g s) := by
  suffices H : ∀ s0 : State, (∀ t ∈ ts, g s t = g s0 t) →
      ts.foldl (fun s t => s.modThr t (g s t)) s = s.modEach ts (g s0) from H s fun _ _ => rfl
  intro s0 h0
  induction ts generalizing s with
  | nil => rfl
  | cons t ts ih =>
    obtain ⟨h1, h2⟩ := List.nodup_cons.mp h
    have e : g s t = g s0 t := h0 t (by simp)
    simp only [State.modEach, List.foldl_cons]
    rw [e]
    refine ih _ h2 (fun k hk => ?_)
    have hne : k ≠ t := by rintro rfl; exact h1 hk
    rw [State.modThr, hg _ _ _ _ hne]
    exact h0 k (by simp [hk])

theorem State.reg_setThr_ne (s : State) (t k : Nat) (x : Thread) (c : Nat) (h : k ≠ t) :
    (s.setThr t x).reg k c = s.reg k c := by simp [State.reg, State.thr_setThr, h]

theorem State.pred_setThr_ne (s : State) (t k : Nat) (x : Thread) (n : Nat) (h : k ≠ t) :
    (s.setThr t x).pred k n = s.pred k n := by simp [State.pred, State.thr_setThr, h]

/-- A comparison of a lane word: every guarded lane's predicate takes its result (R64, R74). -/
theorem cmpReg_lane (pd : BitVec 3) (p : Nat) (srcs : List (BitVec 7)) (f : Modes → List Word → Bool)
    (s : State) (i : Issue) (hi : s.issue = some i) (hn : i.group.Nodup) (hs : ∀ c ∈ srcs, c.toNat < 124)
    (hpd : pd ≠ 0) :
    cmpReg .lane pd p srcs f s = .next (s.modEach (i.group.filter fun t => s.pred t p) fun t th =>
      { th with p := setBit8 th.p pd.toNat (f (s.modes t) ((srcs.map BitVec.toNat).map (s.reg t))) }) := by
  have hs' : ∀ c ∈ srcs.map BitVec.toNat, c < 124 := by simpa using hs
  have hp : pd.toNat ≠ 0 := fun e => hpd (BitVec.eq_of_toNat_eq (by simpa using e))
  have e : (fun (s : State) (t : Nat) => s.cmpOne i .lane pd.toNat (srcs.map BitVec.toNat) f t) = fun s t =>
      ran (s.modThr t fun th => { th with p := setBit8 th.p pd.toNat (f (s.modes t) ((srcs.map BitVec.toNat).map (s.reg t))) }) := by
    funext s t
    simp [State.cmpOne, State.sources_plain s i t _ hs', State.predDest, State.tied, State.setPreds, State.setPred, hp]
  unfold cmpReg
  rw [onIssue_some _ _ _ hi, e, State.eachOr_ran, State.actors_lane]
  refine congrArg Host.Outcome.next (State.foldl_modThr s _ (fun s t th =>
    { th with p := setBit8 th.p pd.toNat (f (s.modes t) ((srcs.map BitVec.toNat).map (s.reg t))) }) ?_ (hn.filter _))
  intro s t k x hk
  have h1 : (srcs.map BitVec.toNat).map ((s.setThr t x).reg k) = (srcs.map BitVec.toNat).map (s.reg k) :=
    List.map_congr_left fun c _ => State.reg_setThr_ne _ _ _ _ _ hk
  beta_reduce
  rw [h1]
  rfl

end Sys2Proof.Machine
end

