-- ==== Sys2Proof/Laws/Claims.lean ====
section
/-! SUPPORT. How the shared shapes of execution meet the words of the statements. -/

namespace Sys2Proof.Claims

open Sys2Proof.Machine

/-- Threads' vector registers written: the lane form of a register word. -/
theorem writesReg_setVecs (s : State) (i : Issue) (p d : Nat) (val : Nat → Word) (hn : i.group.Nodup) (hd : d < 96) :
    WritesReg s i .lane p d val (.next (s.setVecs (i.group.filter fun t => s.pred t p) d val)) := by
  refine ⟨_, rfl, ?_, ?_⟩
  · have h := State.setVecs_eq s (i.group.filter fun t => s.pred t p) d val
    rw [h]
  · refine ⟨by rw [State.setVecs_eq], fun k => ?_⟩
    rw [State.setVecs_thr _ _ _ _ (hn.filter _)]
    simp [hd]

/-- A register word that changes nothing: a lane word whose destination is z. -/
theorem writesReg_none (s : State) (i : Issue) (p d : Nat) (val : Nat → Word) (hd : 96 ≤ d) :
    WritesReg s i .lane p d val (.next s) := by
  refine ⟨_, rfl, rfl, rfl, fun k => ?_⟩
  have : ¬ d < 96 := by omega
  simp [this]

/-- The representative's value in the uniform register of every warp of the scope. -/
theorem writesReg_wide (s : State) (i : Issue) (sc : Scope) (p d : Nat) (val : Nat → Word) (hsc : sc ≠ .lane)
    (hd : 96 ≤ d) :
    WritesReg s i sc p d val (.next (match s.rep i p with
      | none => s
      | some r => s.setReg r (s.dstWarps i r) d (val r))) := by
  have key : ∀ t : State, (t = match s.rep i p with
      | none => s
      | some r => s.setReg r (s.dstWarps i r) d (val r)) →
      t = { s with threads := t.threads, warps := t.warps } ∧
      match i.group with
      | [] => t = s
      | r :: _ => t.threads = s.threads ∧ ∀ w, t.warp w =
          if w ∈ s.dstWarps i r ∧ s.pred r p = true ∧ d < 120
          then { s.warp w with s := (s.warp w).s.put (d - 96) (val r) } else s.warp w := by
    intro t ht
    cases hg : i.group with
    | nil => rw [State.rep_nil _ _ _ hg] at ht; subst ht; exact ⟨rfl, rfl⟩
    | cons r g =>
      rw [State.rep_cons _ _ _ _ _ hg] at ht
      by_cases hp : s.pred r p = true
      · rw [if_pos hp] at ht
        by_cases h2 : d < 120
        · simp only [State.setReg_uni _ _ _ _ _ hd h2] at ht
          subst ht
          refine ⟨by rw [State.setUnis_eq], by rw [State.setUnis_eq], fun w => ?_⟩
          simp [State.setUnis_warp, hp, h2]
        · simp only [State.setReg_zero _ _ _ _ _ (Nat.le_of_not_lt h2)] at ht
          subst ht
          refine ⟨rfl, rfl, fun w => ?_⟩
          simp [h2]
      · rw [if_neg hp] at ht
        subst ht
        refine ⟨rfl, rfl, fun w => ?_⟩
        simp [hp]
  refine ⟨_, rfl, (key _ rfl).1, ?_⟩
  have := (key _ rfl).2
  cases sc <;> first | exact absurd rfl hsc | exact this

/-- A word of the ALU shape writes its register. -/
theorem writesReg_aluReg (s : State) (i : Issue) (sc : Scope) (p : Nat) (d : BitVec 7) (srcs : List (BitVec 7))
    (f : Modes → List Word → Word → Word) (hi : Setting s i) (hd : allowed sc d) (hs : ∀ c ∈ srcs, plain c) :
    WritesReg s i sc p d.toNat
      (fun k => f (s.modes k) ((srcs.map BitVec.toNat).map (s.reg k)) (s.reg k d.toNat)) (aluReg sc d p srcs f s) := by
  by_cases hsc : sc = .lane
  · subst hsc
    by_cases h : d.toNat < 96
    · rw [aluReg_lane d p srcs f s i hi.1 hi.2 hs h]
      exact writesReg_setVecs _ _ _ _ _ hi.2 h
    · rw [aluReg_lane_none d p srcs f s i hi.1 hs (by omega)]
      exact writesReg_none _ _ _ _ _ (by omega)
  · rw [aluReg_wide sc d p srcs f s i hi.1 hsc hs]
    have hd' : 96 ≤ d.toNat := by cases sc <;> first | exact absurd rfl hsc | exact hd
    exact writesReg_wide _ _ _ _ _
      (fun k => f (s.modes k) ((srcs.map BitVec.toNat).map (s.reg k)) (s.reg k d.toNat)) hsc hd'

/-- The values of a register word may be given by any equal function. -/
theorem WritesReg.congr_val {s : State} {i : Issue} {sc : Scope} {p d : Nat} {v w : Nat → Word} {o : Out}
    (h : WritesReg s i sc p d v o) (e : ∀ k, v k = w k) : WritesReg s i sc p d w o := by
  rwa [show v = w from funext e] at h

end Sys2Proof.Claims
end

