-- ==== Sys2Proof/Laws/PerInstr.lean ====
section
/-! SUPPORT. The round trip of each instruction: what the encoder writes the decoder reads back. -/

namespace Sys2Proof.Laws

/-! ## Parts of words -/

theorem toNat_beside {n m : Nat} (x : BitVec n) (y : BitVec m) : (x ++ y).toNat = x.toNat * 2 ^ m + y.toNat := by
  rw [BitVec.toNat_append, ← Nat.shiftLeft_add_eq_or_of_lt y.isLt, Nat.shiftLeft_eq]

theorem toNat_part {n : Nat} (x : BitVec n) (s l : Nat) : (x.extractLsb' s l).toNat = x.toNat / 2 ^ s % 2 ^ l := by
  rw [BitVec.extractLsb'_toNat, Nat.shiftRight_eq_div_pow]

theorem scope_bits (sc : Scope) : Scope.ofBits sc.bits = sc := by cases sc <;> rfl

section

variable (sc : Scope) (op : Nat) (d a b : BitVec 7) (p : BitVec 3) (imm : BitVec 10) (u : BitVec 17) (off : BitVec 24)
  (j : BitVec 8)

theorem packR_toNat (h : op < 64) : (packR sc op d a b p).toNat =
    ((((sc.bits.toNat * 64 + op) * 128 + d.toNat) * 128 + a.toNat) * 128 + b.toNat) * 8 + p.toNat := by
  unfold packR
  iterate 5 rw [toNat_beside]
  rw [BitVec.toNat_ofNat]
  omega

theorem fOp_packR (h : op < 64) : fOp (packR sc op d a b p) = op := by
  rw [fOp, toNat_part, packR_toNat _ _ _ _ _ _ h]; omega

theorem fSc_packR (h : op < 64) : fSc (packR sc op d a b p) = sc := by
  have e : (packR sc op d a b p).extractLsb' 30 2 = sc.bits := by
    apply BitVec.eq_of_toNat_eq; rw [toNat_part, packR_toNat _ _ _ _ _ _ h]; omega
  rw [fSc, e, scope_bits]

theorem fD_packR (h : op < 64) : fD (packR sc op d a b p) = d := by
  apply BitVec.eq_of_toNat_eq; rw [fD, toNat_part, packR_toNat _ _ _ _ _ _ h]; omega

theorem fA_packR (h : op < 64) : fA (packR sc op d a b p) = a := by
  apply BitVec.eq_of_toNat_eq; rw [fA, toNat_part, packR_toNat _ _ _ _ _ _ h]; omega

theorem fB_packR (h : op < 64) : fB (packR sc op d a b p) = b := by
  apply BitVec.eq_of_toNat_eq; rw [fB, toNat_part, packR_toNat _ _ _ _ _ _ h]; omega

theorem fP_packR (h : op < 64) : fP (packR sc op d a b p) = p := by
  apply BitVec.eq_of_toNat_eq; rw [fP, toNat_part, packR_toNat _ _ _ _ _ _ h]; omega

theorem packI_toNat (h : op < 64) : (packI sc op d a imm).toNat =
    (((sc.bits.toNat * 64 + op) * 128 + d.toNat) * 128 + a.toNat) * 1024 + imm.toNat := by
  unfold packI
  iterate 4 rw [toNat_beside]
  rw [BitVec.toNat_ofNat]
  omega

theorem fOp_packI (h : op < 64) : fOp (packI sc op d a imm) = op := by
  rw [fOp, toNat_part, packI_toNat _ _ _ _ _ h]; omega

theorem fSc_packI (h : op < 64) : fSc (packI sc op d a imm) = sc := by
  have e : (packI sc op d a imm).extractLsb' 30 2 = sc.bits := by
    apply BitVec.eq_of_toNat_eq; rw [toNat_part, packI_toNat _ _ _ _ _ h]; omega
  rw [fSc, e, scope_bits]

theorem fD_packI (h : op < 64) : fD (packI sc op d a imm) = d := by
  apply BitVec.eq_of_toNat_eq; rw [fD, toNat_part, packI_toNat _ _ _ _ _ h]; omega

theorem fA_packI (h : op < 64) : fA (packI sc op d a imm) = a := by
  apply BitVec.eq_of_toNat_eq; rw [fA, toNat_part, packI_toNat _ _ _ _ _ h]; omega

theorem fI_packI (h : op < 64) : fI (packI sc op d a imm) = imm := by
  apply BitVec.eq_of_toNat_eq; rw [fI, toNat_part, packI_toNat _ _ _ _ _ h]; omega

theorem packU_toNat (h : op < 64) : (packU sc op d u).toNat =
    ((sc.bits.toNat * 64 + op) * 128 + d.toNat) * 131072 + u.toNat := by
  unfold packU
  iterate 3 rw [toNat_beside]
  rw [BitVec.toNat_ofNat]
  omega

theorem fOp_packU (h : op < 64) : fOp (packU sc op d u) = op := by
  rw [fOp, toNat_part, packU_toNat _ _ _ _ h]; omega

theorem fSc_packU (h : op < 64) : fSc (packU sc op d u) = sc := by
  have e : (packU sc op d u).extractLsb' 30 2 = sc.bits := by
    apply BitVec.eq_of_toNat_eq; rw [toNat_part, packU_toNat _ _ _ _ h]; omega
  rw [fSc, e, scope_bits]

theorem fD_packU (h : op < 64) : fD (packU sc op d u) = d := by
  apply BitVec.eq_of_toNat_eq; rw [fD, toNat_part, packU_toNat _ _ _ _ h]; omega

theorem fU_packU (h : op < 64) : fU (packU sc op d u) = u := by
  apply BitVec.eq_of_toNat_eq; rw [fU, toNat_part, packU_toNat _ _ _ _ h]; omega

theorem packB_toNat (h : op < 64) : (packB sc op off).toNat =
    (sc.bits.toNat * 64 + op) * 16777216 + off.toNat := by
  unfold packB
  iterate 2 rw [toNat_beside]
  rw [BitVec.toNat_ofNat]
  omega

theorem fOp_packB (h : op < 64) : fOp (packB sc op off) = op := by
  rw [fOp, toNat_part, packB_toNat _ _ _ h]; omega

theorem fSc_packB (h : op < 64) : fSc (packB sc op off) = sc := by
  have e : (packB sc op off).extractLsb' 30 2 = sc.bits := by
    apply BitVec.eq_of_toNat_eq; rw [toNat_part, packB_toNat _ _ _ h]; omega
  rw [fSc, e, scope_bits]

theorem fO_packB (h : op < 64) : fO (packB sc op off) = off := by
  apply BitVec.eq_of_toNat_eq; rw [fO, toNat_part, packB_toNat _ _ _ h]; omega

theorem packJ_toNat (h : op < 64) : (packJ sc op j p).toNat =
    ((sc.bits.toNat * 64 + op) * 256 + j.toNat) * 65536 + p.toNat := by
  unfold packJ
  iterate 4 rw [toNat_beside]
  rw [BitVec.toNat_ofNat]
  have z : (0 : BitVec 13).toNat = 0 := rfl
  omega

theorem fOp_packJ (h : op < 64) : fOp (packJ sc op j p) = op := by
  rw [fOp, toNat_part, packJ_toNat _ _ _ _ h]; omega

theorem fSc_packJ (h : op < 64) : fSc (packJ sc op j p) = sc := by
  have e : (packJ sc op j p).extractLsb' 30 2 = sc.bits := by
    apply BitVec.eq_of_toNat_eq; rw [toNat_part, packJ_toNat _ _ _ _ h]; omega
  rw [fSc, e, scope_bits]

theorem fJ_packJ (h : op < 64) : fJ (packJ sc op j p) = j := by
  apply BitVec.eq_of_toNat_eq; rw [fJ, toNat_part, packJ_toNat _ _ _ _ h]; omega

theorem fP_packJ (h : op < 64) : fP (packJ sc op j p) = p := by
  apply BitVec.eq_of_toNat_eq; rw [fP, toNat_part, packJ_toNat _ _ _ _ h]; omega

theorem fJ0_packJ (h : op < 64) : fJ0 (packJ sc op j p) = 0 := by
  apply BitVec.eq_of_toNat_eq; rw [fJ0, toNat_part, packJ_toNat _ _ _ _ h]; show _ = 0; omega

end

/-! ## Parts of fields -/

theorem part_3_1_3_at_4 (x0 : BitVec 3) (x1 : BitVec 1) (x2 : BitVec 3) : BitVec.extractLsb' 4 3 (x0 ++ x1 ++ x2 : BitVec 7) = x0 := by
  apply BitVec.eq_of_toNat_eq; rw [toNat_part]; iterate 2 rw [toNat_beside]
  omega

theorem part_3_1_3_at_3 (x0 : BitVec 3) (x1 : BitVec 1) (x2 : BitVec 3) : BitVec.extractLsb' 3 1 (x0 ++ x1 ++ x2 : BitVec 7) = x1 := by
  apply BitVec.eq_of_toNat_eq; rw [toNat_part]; iterate 2 rw [toNat_beside]
  omega

theorem part_3_1_3_at_0 (x0 : BitVec 3) (x1 : BitVec 1) (x2 : BitVec 3) : BitVec.extractLsb' 0 3 (x0 ++ x1 ++ x2 : BitVec 7) = x2 := by
  apply BitVec.eq_of_toNat_eq; rw [toNat_part]; iterate 2 rw [toNat_beside]
  omega

theorem part_4_3_at_3 (x0 : BitVec 4) (x1 : BitVec 3) : BitVec.extractLsb' 3 4 (x0 ++ x1 : BitVec 7) = x0 := by
  apply BitVec.eq_of_toNat_eq; rw [toNat_part]; iterate 1 rw [toNat_beside]
  omega

theorem part_4_3_at_0 (x0 : BitVec 4) (x1 : BitVec 3) : BitVec.extractLsb' 0 3 (x0 ++ x1 : BitVec 7) = x1 := by
  apply BitVec.eq_of_toNat_eq; rw [toNat_part]; iterate 1 rw [toNat_beside]
  omega

theorem part_5_5_at_5 (x0 : BitVec 5) (x1 : BitVec 5) : BitVec.extractLsb' 5 5 (x0 ++ x1 : BitVec 10) = x0 := by
  apply BitVec.eq_of_toNat_eq; rw [toNat_part]; iterate 1 rw [toNat_beside]
  omega

theorem part_5_5_at_0 (x0 : BitVec 5) (x1 : BitVec 5) : BitVec.extractLsb' 0 5 (x0 ++ x1 : BitVec 10) = x1 := by
  apply BitVec.eq_of_toNat_eq; rw [toNat_part]; iterate 1 rw [toNat_beside]
  omega

theorem part_4_6_at_6 (x0 : BitVec 4) (x1 : BitVec 6) : BitVec.extractLsb' 6 4 (x0 ++ x1 : BitVec 10) = x0 := by
  apply BitVec.eq_of_toNat_eq; rw [toNat_part]; iterate 1 rw [toNat_beside]
  omega

theorem part_4_6_at_0 (x0 : BitVec 4) (x1 : BitVec 6) : BitVec.extractLsb' 0 6 (x0 ++ x1 : BitVec 10) = x1 := by
  apply BitVec.eq_of_toNat_eq; rw [toNat_part]; iterate 1 rw [toNat_beside]
  omega

theorem part_9_1_at_1 (x0 : BitVec 9) (x1 : BitVec 1) : BitVec.extractLsb' 1 9 (x0 ++ x1 : BitVec 10) = x0 := by
  apply BitVec.eq_of_toNat_eq; rw [toNat_part]; iterate 1 rw [toNat_beside]
  omega

theorem part_9_1_at_0 (x0 : BitVec 9) (x1 : BitVec 1) : BitVec.extractLsb' 0 1 (x0 ++ x1 : BitVec 10) = x1 := by
  apply BitVec.eq_of_toNat_eq; rw [toNat_part]; iterate 1 rw [toNat_beside]
  omega

theorem part_1_6_at_6 (x0 : BitVec 1) (x1 : BitVec 6) : BitVec.extractLsb' 6 1 (x0 ++ x1 : BitVec 7) = x0 := by
  apply BitVec.eq_of_toNat_eq; rw [toNat_part]; iterate 1 rw [toNat_beside]
  omega

theorem part_1_6_at_0 (x0 : BitVec 1) (x1 : BitVec 6) : BitVec.extractLsb' 0 6 (x0 ++ x1 : BitVec 7) = x1 := by
  apply BitVec.eq_of_toNat_eq; rw [toNat_part]; iterate 1 rw [toNat_beside]
  omega

theorem part_2_1_1_2_1_3_at_8 (x0 : BitVec 2) (x1 : BitVec 1) (x2 : BitVec 1) (x3 : BitVec 2) (x4 : BitVec 1) (x5 : BitVec 3) : BitVec.extractLsb' 8 2 (x0 ++ x1 ++ x2 ++ x3 ++ x4 ++ x5 : BitVec 10) = x0 := by
  apply BitVec.eq_of_toNat_eq; rw [toNat_part]; iterate 5 rw [toNat_beside]
  omega

theorem part_2_1_1_2_1_3_at_7 (x0 : BitVec 2) (x1 : BitVec 1) (x2 : BitVec 1) (x3 : BitVec 2) (x4 : BitVec 1) (x5 : BitVec 3) : BitVec.extractLsb' 7 1 (x0 ++ x1 ++ x2 ++ x3 ++ x4 ++ x5 : BitVec 10) = x1 := by
  apply BitVec.eq_of_toNat_eq; rw [toNat_part]; iterate 5 rw [toNat_beside]
  omega

theorem part_2_1_1_2_1_3_at_6 (x0 : BitVec 2) (x1 : BitVec 1) (x2 : BitVec 1) (x3 : BitVec 2) (x4 : BitVec 1) (x5 : BitVec 3) : BitVec.extractLsb' 6 1 (x0 ++ x1 ++ x2 ++ x3 ++ x4 ++ x5 : BitVec 10) = x2 := by
  apply BitVec.eq_of_toNat_eq; rw [toNat_part]; iterate 5 rw [toNat_beside]
  omega

theorem part_2_1_1_2_1_3_at_4 (x0 : BitVec 2) (x1 : BitVec 1) (x2 : BitVec 1) (x3 : BitVec 2) (x4 : BitVec 1) (x5 : BitVec 3) : BitVec.extractLsb' 4 2 (x0 ++ x1 ++ x2 ++ x3 ++ x4 ++ x5 : BitVec 10) = x3 := by
  apply BitVec.eq_of_toNat_eq; rw [toNat_part]; iterate 5 rw [toNat_beside]
  omega

theorem part_2_1_1_2_1_3_at_3 (x0 : BitVec 2) (x1 : BitVec 1) (x2 : BitVec 1) (x3 : BitVec 2) (x4 : BitVec 1) (x5 : BitVec 3) : BitVec.extractLsb' 3 1 (x0 ++ x1 ++ x2 ++ x3 ++ x4 ++ x5 : BitVec 10) = x4 := by
  apply BitVec.eq_of_toNat_eq; rw [toNat_part]; iterate 5 rw [toNat_beside]
  omega

theorem part_2_1_1_2_1_3_at_0 (x0 : BitVec 2) (x1 : BitVec 1) (x2 : BitVec 1) (x3 : BitVec 2) (x4 : BitVec 1) (x5 : BitVec 3) : BitVec.extractLsb' 0 3 (x0 ++ x1 ++ x2 ++ x3 ++ x4 ++ x5 : BitVec 10) = x5 := by
  apply BitVec.eq_of_toNat_eq; rw [toNat_part]; iterate 5 rw [toNat_beside]
  omega

theorem part_8_2_at_2 (x0 : BitVec 8) (x1 : BitVec 2) : BitVec.extractLsb' 2 8 (x0 ++ x1 : BitVec 10) = x0 := by
  apply BitVec.eq_of_toNat_eq; rw [toNat_part]; iterate 1 rw [toNat_beside]
  omega

theorem part_8_2_at_0 (x0 : BitVec 8) (x1 : BitVec 2) : BitVec.extractLsb' 0 2 (x0 ++ x1 : BitVec 10) = x1 := by
  apply BitVec.eq_of_toNat_eq; rw [toNat_part]; iterate 1 rw [toNat_beside]
  omega

theorem part_5_2_at_2 (x0 : BitVec 5) (x1 : BitVec 2) : BitVec.extractLsb' 2 5 (x0 ++ x1 : BitVec 7) = x0 := by
  apply BitVec.eq_of_toNat_eq; rw [toNat_part]; iterate 1 rw [toNat_beside]
  omega

theorem part_5_2_at_0 (x0 : BitVec 5) (x1 : BitVec 2) : BitVec.extractLsb' 0 2 (x0 ++ x1 : BitVec 7) = x1 := by
  apply BitVec.eq_of_toNat_eq; rw [toNat_part]; iterate 1 rw [toNat_beside]
  omega

theorem part_2_8_at_8 (x0 : BitVec 2) (x1 : BitVec 8) : BitVec.extractLsb' 8 2 (x0 ++ x1 : BitVec 10) = x0 := by
  apply BitVec.eq_of_toNat_eq; rw [toNat_part]; iterate 1 rw [toNat_beside]
  omega

theorem part_2_8_at_0 (x0 : BitVec 2) (x1 : BitVec 8) : BitVec.extractLsb' 0 8 (x0 ++ x1 : BitVec 10) = x1 := by
  apply BitVec.eq_of_toNat_eq; rw [toNat_part]; iterate 1 rw [toNat_beside]
  omega

theorem part_2_2_4_2_at_8 (x0 : BitVec 2) (x1 : BitVec 2) (x2 : BitVec 4) (x3 : BitVec 2) : BitVec.extractLsb' 8 2 (x0 ++ x1 ++ x2 ++ x3 : BitVec 10) = x0 := by
  apply BitVec.eq_of_toNat_eq; rw [toNat_part]; iterate 3 rw [toNat_beside]
  omega

theorem part_2_2_4_2_at_6 (x0 : BitVec 2) (x1 : BitVec 2) (x2 : BitVec 4) (x3 : BitVec 2) : BitVec.extractLsb' 6 2 (x0 ++ x1 ++ x2 ++ x3 : BitVec 10) = x1 := by
  apply BitVec.eq_of_toNat_eq; rw [toNat_part]; iterate 3 rw [toNat_beside]
  omega

theorem part_2_2_4_2_at_2 (x0 : BitVec 2) (x1 : BitVec 2) (x2 : BitVec 4) (x3 : BitVec 2) : BitVec.extractLsb' 2 4 (x0 ++ x1 ++ x2 ++ x3 : BitVec 10) = x2 := by
  apply BitVec.eq_of_toNat_eq; rw [toNat_part]; iterate 3 rw [toNat_beside]
  omega

theorem part_2_2_4_2_at_0 (x0 : BitVec 2) (x1 : BitVec 2) (x2 : BitVec 4) (x3 : BitVec 2) : BitVec.extractLsb' 0 2 (x0 ++ x1 ++ x2 ++ x3 : BitVec 10) = x3 := by
  apply BitVec.eq_of_toNat_eq; rw [toNat_part]; iterate 3 rw [toNat_beside]
  omega

theorem part_2_1_4_at_5 (x0 : BitVec 2) (x1 : BitVec 1) (x2 : BitVec 4) : BitVec.extractLsb' 5 2 (x0 ++ x1 ++ x2 : BitVec 7) = x0 := by
  apply BitVec.eq_of_toNat_eq; rw [toNat_part]; iterate 2 rw [toNat_beside]
  omega

theorem part_2_1_4_at_4 (x0 : BitVec 2) (x1 : BitVec 1) (x2 : BitVec 4) : BitVec.extractLsb' 4 1 (x0 ++ x1 ++ x2 : BitVec 7) = x1 := by
  apply BitVec.eq_of_toNat_eq; rw [toNat_part]; iterate 2 rw [toNat_beside]
  omega

theorem part_2_1_4_at_0 (x0 : BitVec 2) (x1 : BitVec 1) (x2 : BitVec 4) : BitVec.extractLsb' 0 4 (x0 ++ x1 ++ x2 : BitVec 7) = x2 := by
  apply BitVec.eq_of_toNat_eq; rw [toNat_part]; iterate 2 rw [toNat_beside]
  omega

theorem part_6_1_at_1 (x0 : BitVec 6) (x1 : BitVec 1) : BitVec.extractLsb' 1 6 (x0 ++ x1 : BitVec 7) = x0 := by
  apply BitVec.eq_of_toNat_eq; rw [toNat_part]; iterate 1 rw [toNat_beside]
  omega

theorem part_6_1_at_0 (x0 : BitVec 6) (x1 : BitVec 1) : BitVec.extractLsb' 0 1 (x0 ++ x1 : BitVec 7) = x1 := by
  apply BitVec.eq_of_toNat_eq; rw [toNat_part]; iterate 1 rw [toNat_beside]
  omega

/-- A well-formed instruction of a class is read back from its words, whatever follows them. -/
def RoundTrip.Statement (i : Instr) : Prop :=
  ∀ (quota : Nat) (c : Cls) (rest : List Word), i.wf quota = true → i.cls = some c →
    ∃ w lits, encode i = w :: lits ∧ lits.length = i.litCount ∧ decodeWord c w (lits ++ rest) = .ok i

/-! ## Arms of the decoder -/

theorem decodeAlu_0 (w : Word) (rest : List Word) : decodeAlu w rest 0 = (
    rsv (fB w = 0) (.mov (fSc w) (fD w) (fA w) (fP w))) := rfl

theorem decodeAlu_1 (w : Word) (rest : List Word) : decodeAlu w rest 1 = (
    .ok (.movi (fSc w) (fD w) (fU w))) := rfl

theorem decodeAlu_2 (w : Word) (rest : List Word) : decodeAlu w rest 2 = (
    lit1 rest (fun lit => rsv (fA w = 0 ∧ fB w = 0) (.movl (fSc w) (fD w) (fP w) lit))) := rfl

theorem decodeAlu_3 (w : Word) (rest : List Word) : decodeAlu w rest 3 = (
    .ok (.sel (fSc w) (fD w) (fA w) (fB w) (fP w))) := rfl

theorem decodeAlu_4 (w : Word) (rest : List Word) : decodeAlu w rest 4 = (
    .ok (.iadd (fSc w) (fD w) (fA w) (fB w) (fP w))) := rfl

theorem decodeAlu_5 (w : Word) (rest : List Word) : decodeAlu w rest 5 = (
    .ok (.iaddi (fSc w) (fD w) (fA w) (fI w))) := rfl

theorem decodeAlu_6 (w : Word) (rest : List Word) : decodeAlu w rest 6 = (
    .ok (.isub (fSc w) (fD w) (fA w) (fB w) (fP w))) := rfl

theorem decodeAlu_7 (w : Word) (rest : List Word) : decodeAlu w rest 7 = (
    .ok (.imul (fSc w) (fD w) (fA w) (fB w) (fP w))) := rfl

theorem decodeAlu_8 (w : Word) (rest : List Word) : decodeAlu w rest 8 = (
    .ok (.imulh (fSc w) (fD w) (fA w) (fB w) (fP w))) := rfl

theorem decodeAlu_9 (w : Word) (rest : List Word) : decodeAlu w rest 9 = (
    .ok (.imulhUi (fSc w) (fD w) (fA w) (fB w) (fP w))) := rfl

theorem decodeAlu_10 (w : Word) (rest : List Word) : decodeAlu w rest 10 = (
    .ok (.imad (fSc w) (fD w) (fA w) (fB w) (fP w))) := rfl

theorem decodeAlu_11 (w : Word) (rest : List Word) : decodeAlu w rest 11 = (
    .ok (.imin (fSc w) (fD w) (fA w) (fB w) (fP w))) := rfl

theorem decodeAlu_12 (w : Word) (rest : List Word) : decodeAlu w rest 12 = (
    .ok (.iminUi (fSc w) (fD w) (fA w) (fB w) (fP w))) := rfl

theorem decodeAlu_13 (w : Word) (rest : List Word) : decodeAlu w rest 13 = (
    .ok (.imax (fSc w) (fD w) (fA w) (fB w) (fP w))) := rfl

theorem decodeAlu_14 (w : Word) (rest : List Word) : decodeAlu w rest 14 = (
    .ok (.imaxUi (fSc w) (fD w) (fA w) (fB w) (fP w))) := rfl

theorem decodeAlu_15 (w : Word) (rest : List Word) : decodeAlu w rest 15 = (
    rsv (fB w = 0) (.iabs (fSc w) (fD w) (fA w) (fP w))) := rfl

theorem decodeAlu_16 (w : Word) (rest : List Word) : decodeAlu w rest 16 = (
    .ok (.and_ (fSc w) (fD w) (fA w) (fB w) (fP w))) := rfl

theorem decodeAlu_17 (w : Word) (rest : List Word) : decodeAlu w rest 17 = (
    .ok (.andi (fSc w) (fD w) (fA w) (fI w))) := rfl

theorem decodeAlu_18 (w : Word) (rest : List Word) : decodeAlu w rest 18 = (
    .ok (.or_ (fSc w) (fD w) (fA w) (fB w) (fP w))) := rfl

theorem decodeAlu_19 (w : Word) (rest : List Word) : decodeAlu w rest 19 = (
    .ok (.ori (fSc w) (fD w) (fA w) (fI w))) := rfl

theorem decodeAlu_20 (w : Word) (rest : List Word) : decodeAlu w rest 20 = (
    .ok (.xor (fSc w) (fD w) (fA w) (fB w) (fP w))) := rfl

theorem decodeAlu_21 (w : Word) (rest : List Word) : decodeAlu w rest 21 = (
    .ok (.xori (fSc w) (fD w) (fA w) (fI w))) := rfl

theorem decodeAlu_22 (w : Word) (rest : List Word) : decodeAlu w rest 22 = (
    .ok (.shl (fSc w) (fD w) (fA w) (fB w) (fP w))) := rfl

theorem decodeAlu_23 (w : Word) (rest : List Word) : decodeAlu w rest 23 = (
    .ok (.shr (fSc w) (fD w) (fA w) (fB w) (fP w))) := rfl

theorem decodeAlu_24 (w : Word) (rest : List Word) : decodeAlu w rest 24 = (
    .ok (.sar (fSc w) (fD w) (fA w) (fB w) (fP w))) := rfl

theorem decodeAlu_25 (w : Word) (rest : List Word) : decodeAlu w rest 25 = (
    if (fI w).extractLsb' 5 5 = (0 : BitVec 5) then .ok (.shfiShl (fSc w) (fD w) (fA w) ((fI w).extractLsb' 0 5)) else
    if (fI w).extractLsb' 5 5 = (8 : BitVec 5) then .ok (.shfiShr (fSc w) (fD w) (fA w) ((fI w).extractLsb' 0 5)) else
    if (fI w).extractLsb' 5 5 = (16 : BitVec 5) then .ok (.shfiSar (fSc w) (fD w) (fA w) ((fI w).extractLsb' 0 5)) else
    if (fI w).extractLsb' 5 5 = (24 : BitVec 5) then .ok (.shfiRol (fSc w) (fD w) (fA w) ((fI w).extractLsb' 0 5)) else
    .error .illegalOp) := rfl

theorem decodeAlu_26 (w : Word) (rest : List Word) : decodeAlu w rest 26 = (
    .ok (.rol (fSc w) (fD w) (fA w) (fB w) (fP w))) := rfl

theorem decodeAlu_27 (w : Word) (rest : List Word) : decodeAlu w rest 27 = (
    .ok (.bfe (fSc w) (fD w) (fA w) (fB w) (fP w))) := rfl

theorem decodeAlu_28 (w : Word) (rest : List Word) : decodeAlu w rest 28 = (
    .ok (.bfi (fSc w) (fD w) (fA w) (fB w) (fP w))) := rfl

theorem decodeAlu_29 (w : Word) (rest : List Word) : decodeAlu w rest 29 = (
    rsv (fB w = 0) (.popc (fSc w) (fD w) (fA w) (fP w))) := rfl

theorem decodeAlu_30 (w : Word) (rest : List Word) : decodeAlu w rest 30 = (
    rsv (fB w = 0) (.clz (fSc w) (fD w) (fA w) (fP w))) := rfl

theorem decodeAlu_31 (w : Word) (rest : List Word) : decodeAlu w rest 31 = (
    rsv (fB w = 0) (.brev (fSc w) (fD w) (fA w) (fP w))) := rfl

theorem decodeAlu_32 (w : Word) (rest : List Word) : decodeAlu w rest 32 = (
    .ok (.isetp (fSc w) ((fD w).extractLsb' 4 3) ((fD w).extractLsb' 3 1) ((fD w).extractLsb' 0 3) (fA w) (fB w) (fP w))) := rfl

theorem decodeAlu_33 (w : Word) (rest : List Word) : decodeAlu w rest 33 = (
    .ok (.isetpi (fSc w) ((fD w).extractLsb' 4 3) ((fD w).extractLsb' 3 1) ((fD w).extractLsb' 0 3) (fA w) (fB w) (fP w))) := rfl

theorem decodeAlu_34 (w : Word) (rest : List Word) : decodeAlu w rest 34 = (
    .ok (.fadd (fSc w) (fD w) (fA w) (fB w) (fP w))) := rfl

theorem decodeAlu_35 (w : Word) (rest : List Word) : decodeAlu w rest 35 = (
    .ok (.fsub (fSc w) (fD w) (fA w) (fB w) (fP w))) := rfl

theorem decodeAlu_36 (w : Word) (rest : List Word) : decodeAlu w rest 36 = (
    .ok (.fmul (fSc w) (fD w) (fA w) (fB w) (fP w))) := rfl

theorem decodeAlu_37 (w : Word) (rest : List Word) : decodeAlu w rest 37 = (
    .ok (.ffma (fSc w) (fD w) (fA w) (fB w) (fP w))) := rfl

theorem decodeAlu_38 (w : Word) (rest : List Word) : decodeAlu w rest 38 = (
    .ok (.fmin (fSc w) (fD w) (fA w) (fB w) (fP w))) := rfl

theorem decodeAlu_39 (w : Word) (rest : List Word) : decodeAlu w rest 39 = (
    .ok (.fmax (fSc w) (fD w) (fA w) (fB w) (fP w))) := rfl

theorem decodeAlu_40 (w : Word) (rest : List Word) : decodeAlu w rest 40 = (
    rsv ((fD w).extractLsb' 3 1 = (0 : BitVec 1)) (.fsetp (fSc w) ((fD w).extractLsb' 4 3) ((fD w).extractLsb' 0 3) (fA w) (fB w) (fP w))) := rfl

theorem decodeAlu_41 (w : Word) (rest : List Word) : decodeAlu w rest 41 = (
    if fB w = 0 then .ok (.fabs (fSc w) (fD w) (fA w) (fP w)) else
    if fB w = 1 then .ok (.fneg (fSc w) (fD w) (fA w) (fP w)) else
    if fB w = 2 then .ok (.frcp (fSc w) (fD w) (fA w) (fP w)) else
    if fB w = 3 then .ok (.frsq (fSc w) (fD w) (fA w) (fP w)) else
    if fB w = 4 then .ok (.fsqrt (fSc w) (fD w) (fA w) (fP w)) else
    if fB w = 5 then .ok (.fex2 (fSc w) (fD w) (fA w) (fP w)) else
    if fB w = 6 then .ok (.flg2 (fSc w) (fD w) (fA w) (fP w)) else
    if fB w = 7 then .ok (.fsin (fSc w) (fD w) (fA w) (fP w)) else
    if fB w = 8 then .ok (.fcos (fSc w) (fD w) (fA w) (fP w)) else
    if fB w = 9 then .ok (.ffloor (fSc w) (fD w) (fA w) (fP w)) else
    if fB w = 10 then .ok (.fceil (fSc w) (fD w) (fA w) (fP w)) else
    if fB w = 11 then .ok (.ftrunc (fSc w) (fD w) (fA w) (fP w)) else
    if fB w = 12 then .ok (.frint (fSc w) (fD w) (fA w) (fP w)) else
    if fB w = 13 then .ok (.ffract (fSc w) (fD w) (fA w) (fP w)) else
    .error .illegalOp) := rfl

theorem decodeAlu_42 (w : Word) (rest : List Word) : decodeAlu w rest 42 = (
    .ok (.hadd2 (fSc w) (fD w) (fA w) (fB w) (fP w))) := rfl

theorem decodeAlu_43 (w : Word) (rest : List Word) : decodeAlu w rest 43 = (
    .ok (.hmul2 (fSc w) (fD w) (fA w) (fB w) (fP w))) := rfl

theorem decodeAlu_44 (w : Word) (rest : List Word) : decodeAlu w rest 44 = (
    .ok (.hfma2 (fSc w) (fD w) (fA w) (fB w) (fP w))) := rfl

theorem decodeAlu_45 (w : Word) (rest : List Word) : decodeAlu w rest 45 = (
    .ok (.badd2 (fSc w) (fD w) (fA w) (fB w) (fP w))) := rfl

theorem decodeAlu_46 (w : Word) (rest : List Word) : decodeAlu w rest 46 = (
    .ok (.bmul2 (fSc w) (fD w) (fA w) (fB w) (fP w))) := rfl

theorem decodeAlu_47 (w : Word) (rest : List Word) : decodeAlu w rest 47 = (
    .ok (.bfma2 (fSc w) (fD w) (fA w) (fB w) (fP w))) := rfl

theorem decodeAlu_48 (w : Word) (rest : List Word) : decodeAlu w rest 48 = (
    .ok (.cvt (fSc w) (fD w) (fA w) (fB w) (fP w))) := rfl

theorem decodeAlu_49 (w : Word) (rest : List Word) : decodeAlu w rest 49 = (
    rsv ((fD w).extractLsb' 3 1 = (0 : BitVec 1) ∧ (fA w).extractLsb' 4 3 = (0 : BitVec 3) ∧ (fB w).extractLsb' 4 3 = (0 : BitVec 3)) (.plop (fSc w) ((fD w).extractLsb' 4 3) ((fD w).extractLsb' 0 3) ((fA w).extractLsb' 3 1) ((fA w).extractLsb' 0 3) ((fB w).extractLsb' 3 1) ((fB w).extractLsb' 0 3) (fP w))) := rfl

theorem decodeAlu_50 (w : Word) (rest : List Word) : decodeAlu w rest 50 = (
    if fA w = 0 ∧ fB w = 0 then .ok (.pmovGet (fSc w) (fD w) (fP w)) else
    if fD w = 0 ∧ fB w = 1 then .ok (.pmovPut (fSc w) (fA w) (fP w)) else
    .error .illegalOp) := rfl

theorem decodeAlu_51 (w : Word) (rest : List Word) : decodeAlu w rest 51 = (
    .ok (.idp4 (fSc w) (fD w) (fA w) (fB w) (fP w))) := rfl

theorem decodeMem_0 (w : Word) (rest : List Word) : decodeMem w rest 0 = (
    .ok (.ldUi8 (fSc w) (fD w) (fA w) (fB w) (fP w))) := rfl

theorem decodeMem_1 (w : Word) (rest : List Word) : decodeMem w rest 1 = (
    .ok (.ldI8 (fSc w) (fD w) (fA w) (fB w) (fP w))) := rfl

theorem decodeMem_2 (w : Word) (rest : List Word) : decodeMem w rest 2 = (
    .ok (.ldUi16 (fSc w) (fD w) (fA w) (fB w) (fP w))) := rfl

theorem decodeMem_3 (w : Word) (rest : List Word) : decodeMem w rest 3 = (
    .ok (.ldI16 (fSc w) (fD w) (fA w) (fB w) (fP w))) := rfl

theorem decodeMem_4 (w : Word) (rest : List Word) : decodeMem w rest 4 = (
    .ok (.ld32 (fSc w) (fD w) (fA w) (fB w) (fP w))) := rfl

theorem decodeMem_5 (w : Word) (rest : List Word) : decodeMem w rest 5 = (
    .ok (.ld64 (fSc w) (fD w) (fA w) (fB w) (fP w))) := rfl

theorem decodeMem_6 (w : Word) (rest : List Word) : decodeMem w rest 6 = (
    .ok (.ld128 (fSc w) (fD w) (fA w) (fB w) (fP w))) := rfl

theorem decodeMem_7 (w : Word) (rest : List Word) : decodeMem w rest 7 = (
    .ok (.st8 (fSc w) (fD w) (fA w) (fB w) (fP w))) := rfl

theorem decodeMem_8 (w : Word) (rest : List Word) : decodeMem w rest 8 = (
    .ok (.st16 (fSc w) (fD w) (fA w) (fB w) (fP w))) := rfl

theorem decodeMem_9 (w : Word) (rest : List Word) : decodeMem w rest 9 = (
    .ok (.st32 (fSc w) (fD w) (fA w) (fB w) (fP w))) := rfl

theorem decodeMem_10 (w : Word) (rest : List Word) : decodeMem w rest 10 = (
    .ok (.st64 (fSc w) (fD w) (fA w) (fB w) (fP w))) := rfl

theorem decodeMem_11 (w : Word) (rest : List Word) : decodeMem w rest 11 = (
    .ok (.st128 (fSc w) (fD w) (fA w) (fB w) (fP w))) := rfl

theorem decodeMem_12 (w : Word) (rest : List Word) : decodeMem w rest 12 = (
    .ok (.lds32 (fSc w) (fD w) (fA w) (fB w) (fP w))) := rfl

theorem decodeMem_13 (w : Word) (rest : List Word) : decodeMem w rest 13 = (
    .ok (.lds64 (fSc w) (fD w) (fA w) (fB w) (fP w))) := rfl

theorem decodeMem_14 (w : Word) (rest : List Word) : decodeMem w rest 14 = (
    .ok (.lds128 (fSc w) (fD w) (fA w) (fB w) (fP w))) := rfl

theorem decodeMem_15 (w : Word) (rest : List Word) : decodeMem w rest 15 = (
    .ok (.sts32 (fSc w) (fD w) (fA w) (fB w) (fP w))) := rfl

theorem decodeMem_16 (w : Word) (rest : List Word) : decodeMem w rest 16 = (
    .ok (.sts64 (fSc w) (fD w) (fA w) (fB w) (fP w))) := rfl

theorem decodeMem_17 (w : Word) (rest : List Word) : decodeMem w rest 17 = (
    .ok (.sts128 (fSc w) (fD w) (fA w) (fB w) (fP w))) := rfl

theorem decodeMem_18 (w : Word) (rest : List Word) : decodeMem w rest 18 = (
    .ok (.ldc32 (fSc w) (fD w) (fA w) (fB w) (fP w))) := rfl

theorem decodeMem_19 (w : Word) (rest : List Word) : decodeMem w rest 19 = (
    .ok (.atomAdd (fSc w) (fD w) (fA w) (fB w) (fP w))) := rfl

theorem decodeMem_20 (w : Word) (rest : List Word) : decodeMem w rest 20 = (
    .ok (.atomMin (fSc w) (fD w) (fA w) (fB w) (fP w))) := rfl

theorem decodeMem_21 (w : Word) (rest : List Word) : decodeMem w rest 21 = (
    .ok (.atomMax (fSc w) (fD w) (fA w) (fB w) (fP w))) := rfl

theorem decodeMem_22 (w : Word) (rest : List Word) : decodeMem w rest 22 = (
    .ok (.atomMinUi (fSc w) (fD w) (fA w) (fB w) (fP w))) := rfl

theorem decodeMem_23 (w : Word) (rest : List Word) : decodeMem w rest 23 = (
    .ok (.atomMaxUi (fSc w) (fD w) (fA w) (fB w) (fP w))) := rfl

theorem decodeMem_24 (w : Word) (rest : List Word) : decodeMem w rest 24 = (
    .ok (.atomAnd (fSc w) (fD w) (fA w) (fB w) (fP w))) := rfl

theorem decodeMem_25 (w : Word) (rest : List Word) : decodeMem w rest 25 = (
    .ok (.atomOr (fSc w) (fD w) (fA w) (fB w) (fP w))) := rfl

theorem decodeMem_26 (w : Word) (rest : List Word) : decodeMem w rest 26 = (
    .ok (.atomXor (fSc w) (fD w) (fA w) (fB w) (fP w))) := rfl

theorem decodeMem_27 (w : Word) (rest : List Word) : decodeMem w rest 27 = (
    .ok (.atomExch (fSc w) (fD w) (fA w) (fB w) (fP w))) := rfl

theorem decodeMem_28 (w : Word) (rest : List Word) : decodeMem w rest 28 = (
    .ok (.atomCas (fSc w) (fD w) (fA w) (fB w) (fP w))) := rfl

theorem decodeMem_29 (w : Word) (rest : List Word) : decodeMem w rest 29 = (
    .ok (.atomInc (fSc w) (fD w) (fA w) (fB w) (fP w))) := rfl

theorem decodeMem_30 (w : Word) (rest : List Word) : decodeMem w rest 30 = (
    .ok (.atomFadd (fSc w) (fD w) (fA w) (fB w) (fP w))) := rfl

theorem decodeMem_31 (w : Word) (rest : List Word) : decodeMem w rest 31 = (
    rsv (fD w = 0) (.redAdd (fSc w) (fA w) (fB w) (fP w))) := rfl

theorem decodeMem_32 (w : Word) (rest : List Word) : decodeMem w rest 32 = (
    rsv (fD w = 0) (.redMin (fSc w) (fA w) (fB w) (fP w))) := rfl

theorem decodeMem_33 (w : Word) (rest : List Word) : decodeMem w rest 33 = (
    rsv (fD w = 0) (.redMax (fSc w) (fA w) (fB w) (fP w))) := rfl

theorem decodeMem_34 (w : Word) (rest : List Word) : decodeMem w rest 34 = (
    rsv (fD w = 0) (.redAnd (fSc w) (fA w) (fB w) (fP w))) := rfl

theorem decodeMem_35 (w : Word) (rest : List Word) : decodeMem w rest 35 = (
    rsv (fD w = 0) (.redOr (fSc w) (fA w) (fB w) (fP w))) := rfl

theorem decodeMem_36 (w : Word) (rest : List Word) : decodeMem w rest 36 = (
    rsv (fD w = 0) (.redXor (fSc w) (fA w) (fB w) (fP w))) := rfl

theorem decodeMem_37 (w : Word) (rest : List Word) : decodeMem w rest 37 = (
    rsv (fD w = 0) (.redFadd (fSc w) (fA w) (fB w) (fP w))) := rfl

theorem decodeMem_38 (w : Word) (rest : List Word) : decodeMem w rest 38 = (
    rsv (fD w = 0 ∧ fB w = 0) (.bind (fSc w) (fA w) (fP w))) := rfl

theorem decodeMem_39 (w : Word) (rest : List Word) : decodeMem w rest 39 = (
    rsv (fD w = 0 ∧ fB w = 0) (.unbind (fSc w) (fA w) (fP w))) := rfl

theorem decodeMem_40 (w : Word) (rest : List Word) : decodeMem w rest 40 = (
    rsv (fD w = 0 ∧ (fI w).extractLsb' 6 4 = (0 : BitVec 4)) (.acq (fSc w) (fA w) ((fI w).extractLsb' 0 6))) := rfl

theorem decodeMem_41 (w : Word) (rest : List Word) : decodeMem w rest 41 = (
    rsv (fD w = 0 ∧ (fI w).extractLsb' 6 4 = (0 : BitVec 4)) (.rel (fSc w) (fA w) ((fI w).extractLsb' 0 6))) := rfl

theorem decodeMem_42 (w : Word) (rest : List Word) : decodeMem w rest 42 = (
    rsv (fD w = 0 ∧ (fI w) = 0) (.gateAcq (fSc w) (fA w))) := rfl

theorem decodeMem_43 (w : Word) (rest : List Word) : decodeMem w rest 43 = (
    rsv ((fD w).extractLsb' 3 4 = (0 : BitVec 4) ∧ fB w = 0) (.gateTry (fSc w) ((fD w).extractLsb' 0 3) (fA w) (fP w))) := rfl

theorem decodeMem_44 (w : Word) (rest : List Word) : decodeMem w rest 44 = (
    rsv (fD w = 0 ∧ (fI w) = 0) (.gateRel (fSc w) (fA w))) := rfl

theorem decodeMem_45 (w : Word) (rest : List Word) : decodeMem w rest 45 = (
    rsv (fB w = 0) (.sigLd (fSc w) (fD w) (fA w) (fP w))) := rfl

theorem decodeMem_46 (w : Word) (rest : List Word) : decodeMem w rest 46 = (
    rsv (fB w = 0) (.sigSt (fSc w) (fD w) (fA w) (fP w))) := rfl

theorem decodeMem_47 (w : Word) (rest : List Word) : decodeMem w rest 47 = (
    .ok (.sigAdd (fSc w) (fD w) (fA w) (fB w) (fP w))) := rfl

theorem decodeMem_48 (w : Word) (rest : List Word) : decodeMem w rest 48 = (
    .ok (.sigCas (fSc w) (fD w) (fA w) (fB w) (fP w))) := rfl

theorem decodeMem_49 (w : Word) (rest : List Word) : decodeMem w rest 49 = (
    .ok (.sigWait (fSc w) (fD w) (fA w) (fB w) (fP w))) := rfl

theorem decodeMem_50 (w : Word) (rest : List Word) : decodeMem w rest 50 = (
    rsv (fD w = 0 ∧ fA w = 0 ∧ (fI w).extractLsb' 1 9 = (0 : BitVec 9)) (.fence (fSc w) ((fI w).extractLsb' 0 1))) := rfl

theorem decodeMem_51 (w : Word) (rest : List Word) : decodeMem w rest 51 = (
    rsv ((fD w).extractLsb' 6 1 = (0 : BitVec 1) ∧ fA w = 0 ∧ (fI w).extractLsb' 6 4 = (0 : BitVec 4)) (.xfence (fSc w) ((fD w).extractLsb' 0 6) ((fI w).extractLsb' 0 6))) := rfl

theorem decodeMem_52 (w : Word) (rest : List Word) : decodeMem w rest 52 = (
    rsv (fD w = 0) (.cflush (fSc w) (fA w) (fB w) (fP w))) := rfl

theorem decodeMem_53 (w : Word) (rest : List Word) : decodeMem w rest 53 = (
    rsv (fD w = 0) (.cinv (fSc w) (fA w) (fB w) (fP w))) := rfl

theorem decodeMem_54 (w : Word) (rest : List Word) : decodeMem w rest 54 = (
    rsv (fD w = 0) (.prefetch (fSc w) (fA w) (fB w) (fP w))) := rfl

theorem decodeMtx_0 (w : Word) (rest : List Word) : decodeMtx w rest 0 = (
    .ok (.mmaT8 (fSc w) (fD w) (fA w) (fB w) (fP w))) := rfl

theorem decodeMtx_1 (w : Word) (rest : List Word) : decodeMtx w rest 1 = (
    .ok (.mmaI8 (fSc w) (fD w) (fA w) (fB w) (fP w))) := rfl

theorem decodeMtx_2 (w : Word) (rest : List Word) : decodeMtx w rest 2 = (
    .ok (.mmaE4 (fSc w) (fD w) (fA w) (fB w) (fP w))) := rfl

theorem decodeMtx_3 (w : Word) (rest : List Word) : decodeMtx w rest 3 = (
    .ok (.mmaE5 (fSc w) (fD w) (fA w) (fB w) (fP w))) := rfl

theorem decodeMtx_4 (w : Word) (rest : List Word) : decodeMtx w rest 4 = (
    .ok (.mmaBf (fSc w) (fD w) (fA w) (fB w) (fP w))) := rfl

theorem decodeMtx_5 (w : Word) (rest : List Word) : decodeMtx w rest 5 = (
    .ok (.mmaH (fSc w) (fD w) (fA w) (fB w) (fP w))) := rfl

theorem decodeMtx_6 (w : Word) (rest : List Word) : decodeMtx w rest 6 = (
    .ok (.mmaF32 (fSc w) (fD w) (fA w) (fB w) (fP w))) := rfl

theorem decodeMtx_7 (w : Word) (rest : List Word) : decodeMtx w rest 7 = (
    lit1 rest (fun lit => .ok (.mmaT8s (fSc w) (fD w) (fA w) (fB w) (fP w) lit))) := rfl

theorem decodeMtx_8 (w : Word) (rest : List Word) : decodeMtx w rest 8 = (
    lit1 rest (fun lit => .ok (.mmaI8s (fSc w) (fD w) (fA w) (fB w) (fP w) lit))) := rfl

theorem decodeMtx_9 (w : Word) (rest : List Word) : decodeMtx w rest 9 = (
    .ok (.wload (fSc w) (fD w) (fA w) (fB w) (fP w))) := rfl

theorem decodeMtx_10 (w : Word) (rest : List Word) : decodeMtx w rest 10 = (
    rsv (fD w = 0 ∧ fB w = 0) (.accZero (fSc w) (fA w) (fP w))) := rfl

theorem decodeMtx_11 (w : Word) (rest : List Word) : decodeMtx w rest 11 = (
    rsv (fB w = 0) (.accRd (fSc w) (fD w) (fA w) (fP w))) := rfl

theorem decodeMtx_12 (w : Word) (rest : List Word) : decodeMtx w rest 12 = (
    rsv (fB w = 0) (.accWr (fSc w) (fD w) (fA w) (fP w))) := rfl

theorem decodeMtx_13 (w : Word) (rest : List Word) : decodeMtx w rest 13 = (
    rsv (fD w = 0) (.accScale (fSc w) (fA w) (fB w) (fP w))) := rfl

theorem decodeMtx_14 (w : Word) (rest : List Word) : decodeMtx w rest 14 = (
    if fD w = 0 ∧ fB w = 0 then .ok (.accCvtF32I32 (fSc w) (fA w) (fP w)) else
    if fD w = 0 ∧ fB w = 1 then .ok (.accCvtI32F32 (fSc w) (fA w) (fP w)) else
    .error .illegalOp) := rfl

theorem decodeMtx_15 (w : Word) (rest : List Word) : decodeMtx w rest 15 = (
    rsv (fD w = 0 ∧ fB w = 0) (.tstore (fSc w) (fA w) (fP w))) := rfl

theorem decodeMtx_16 (w : Word) (rest : List Word) : decodeMtx w rest 16 = (
    rsv (fD w = 0 ∧ fB w = 0) (.tstoreAdd (fSc w) (fA w) (fP w))) := rfl

theorem decodeMtx_17 (w : Word) (rest : List Word) : decodeMtx w rest 17 = (
    rsv (fD w = 0) (.winset (fSc w) (fA w) (fB w) (fP w))) := rfl

theorem decodeMtx_18 (w : Word) (rest : List Word) : decodeMtx w rest 18 = (
    rsv (fB w = 0) (.winget (fSc w) (fD w) (fA w) (fP w))) := rfl

theorem decodeMtx_19 (w : Word) (rest : List Word) : decodeMtx w rest 19 = (
    rsv (fB w = 0) (.rowmax (fSc w) (fD w) (fA w) (fP w))) := rfl

theorem decodeMtx_20 (w : Word) (rest : List Word) : decodeMtx w rest 20 = (
    rsv (fB w = 0) (.rowsum (fSc w) (fD w) (fA w) (fP w))) := rfl

theorem decodeAsync_0 (w : Word) (rest : List Word) : decodeAsync w rest 0 = (
    rsv (fD w = 0 ∧ fB w = 0) (.copy (fSc w) (fA w) (fP w))) := rfl

theorem decodeAsync_1 (w : Word) (rest : List Word) : decodeAsync w rest 1 = (
    rsv (fD w = 0 ∧ fB w = 0) (.copyX24 (fSc w) (fA w) (fP w))) := rfl

theorem decodeAsync_2 (w : Word) (rest : List Word) : decodeAsync w rest 2 = (
    lit1 rest (fun lit => rsv (fD w = 0 ∧ fB w = 0) (.filLoad (fSc w) (fA w) (fP w) lit))) := rfl

theorem decodeAsync_3 (w : Word) (rest : List Word) : decodeAsync w rest 3 = (
    rsv (fD w = 0 ∧ fA w = 0) (.filRun (fSc w) (fB w) (fP w))) := rfl

theorem decodeAsync_4 (w : Word) (rest : List Word) : decodeAsync w rest 4 = (
    rsv (fD w = 0 ∧ fA w = 0) (.filStop (fSc w) (fB w) (fP w))) := rfl

theorem decodeAsync_5 (w : Word) (rest : List Word) : decodeAsync w rest 5 = (
    rsv (fD w = 0 ∧ (fI w).extractLsb' 3 1 = (0 : BitVec 1)) (.qcfg (fSc w) (fA w) ((fI w).extractLsb' 8 2) ((fI w).extractLsb' 7 1) ((fI w).extractLsb' 6 1) ((fI w).extractLsb' 4 2) ((fI w).extractLsb' 0 3))) := rfl

theorem decodeAsync_6 (w : Word) (rest : List Word) : decodeAsync w rest 6 = (
    rsv (fA w = 0 ∧ (fI w).extractLsb' 2 8 = (0 : BitVec 8)) (.qstat (fSc w) (fD w) ((fI w).extractLsb' 0 2))) := rfl

theorem decodeAsync_7 (w : Word) (rest : List Word) : decodeAsync w rest 7 = (
    lit1 rest (fun lit => rsv (fB w = 0) (.gnode (fSc w) (fD w) (fA w) (fP w) lit))) := rfl

theorem decodeAsync_8 (w : Word) (rest : List Word) : decodeAsync w rest 8 = (
    rsv (fD w = 0) (.gedge (fSc w) (fA w) (fB w) (fP w))) := rfl

theorem decodeAsync_9 (w : Word) (rest : List Word) : decodeAsync w rest 9 = (
    if fD w = 0 ∧ fA w = 0 ∧ fB w = 0 then .ok (.garm (fSc w) (fP w)) else
    if fD w = 0 ∧ fA w = 0 ∧ fB w = 1 then .ok (.garmClr (fSc w) (fP w)) else
    .error .illegalOp) := rfl

theorem decodeAsync_10 (w : Word) (rest : List Word) : decodeAsync w rest 10 = (
    rsv (fD w = 0 ∧ fA w = 0 ∧ fB w = 0) (.gwait (fSc w) (fP w))) := rfl

theorem decodeAsync_11 (w : Word) (rest : List Word) : decodeAsync w rest 11 = (
    rsv (fD w = 0 ∧ fA w = 0 ∧ (fB w).extractLsb' 2 5 = (0 : BitVec 5)) (.gset (fSc w) ((fB w).extractLsb' 0 2) (fP w))) := rfl

theorem decodeAsync_12 (w : Word) (rest : List Word) : decodeAsync w rest 12 = (
    rsv (fA w = 0) (.engStat (fSc w) (fD w) (fI w))) := rfl

theorem decodeCtrl_0 (w : Word) (rest : List Word) : decodeCtrl w rest 0 = (
    rsv (fD w = 0 ∧ fA w = 0 ∧ fB w = 0) (.nop (fSc w) (fP w))) := rfl

theorem decodeCtrl_1 (w : Word) (rest : List Word) : decodeCtrl w rest 1 = (
    .ok (.bra (fSc w) (fO w))) := rfl

theorem decodeCtrl_2 (w : Word) (rest : List Word) : decodeCtrl w rest 2 = (
    decodeBrm w rest) := rfl

theorem decodeCtrl_3 (w : Word) (rest : List Word) : decodeCtrl w rest 3 = (
    .ok (.call (fSc w) (fO w))) := rfl

theorem decodeCtrl_4 (w : Word) (rest : List Word) : decodeCtrl w rest 4 = (
    rsv (fD w = 0 ∧ fB w = 0) (.callI (fSc w) (fA w) (fP w))) := rfl

theorem decodeCtrl_5 (w : Word) (rest : List Word) : decodeCtrl w rest 5 = (
    rsv (fD w = 0 ∧ fA w = 0 ∧ fB w = 0) (.ret (fSc w) (fP w))) := rfl

theorem decodeCtrl_6 (w : Word) (rest : List Word) : decodeCtrl w rest 6 = (
    rsv (fD w = 0 ∧ fA w = 0 ∧ fB w = 0) (.exit (fSc w) (fP w))) := rfl

theorem decodeCtrl_7 (w : Word) (rest : List Word) : decodeCtrl w rest 7 = (
    rsv (fA w = 0 ∧ fB w = 0) (.jinit (fSc w) (fD w) (fP w))) := rfl

theorem decodeCtrl_8 (w : Word) (rest : List Word) : decodeCtrl w rest 8 = (
    rsv (fA w = 0 ∧ fB w = 0) (.jwait (fSc w) (fD w) (fP w))) := rfl

theorem decodeCtrl_9 (w : Word) (rest : List Word) : decodeCtrl w rest 9 = (
    rsv (fD w = 0 ∧ fA w = 0 ∧ (fI w).extractLsb' 8 2 = (0 : BitVec 2)) (.jleave (fSc w) ((fI w).extractLsb' 0 8))) := rfl

theorem decodeCtrl_10 (w : Word) (rest : List Word) : decodeCtrl w rest 10 = (
    lit1 rest (fun lit => rsv (fJ0 w = 0) (.brk (fSc w) (fJ w) (fP w) lit))) := rfl

theorem decodeCtrl_11 (w : Word) (rest : List Word) : decodeCtrl w rest 11 = (
    rsv (fD w = 0 ∧ fA w = 0) (.barSync (fSc w) (fI w))) := rfl

theorem decodeCtrl_12 (w : Word) (rest : List Word) : decodeCtrl w rest 12 = (
    rsv (fD w = 0 ∧ fA w = 0) (.barArrive (fSc w) (fI w))) := rfl

theorem decodeCtrl_13 (w : Word) (rest : List Word) : decodeCtrl w rest 13 = (
    rsv (fD w = 0 ∧ fA w = 0) (.barWait (fSc w) (fI w))) := rfl

theorem decodeCtrl_14 (w : Word) (rest : List Word) : decodeCtrl w rest 14 = (
    rsv (fD w = 0 ∧ fA w = 0) (.barInit (fSc w) (fI w))) := rfl

theorem decodeCtrl_15 (w : Word) (rest : List Word) : decodeCtrl w rest 15 = (
    .ok (.shfl (fSc w) (fD w) (fA w) (fB w) (fP w))) := rfl

theorem decodeCtrl_16 (w : Word) (rest : List Word) : decodeCtrl w rest 16 = (
    rsv ((fD w).extractLsb' 3 1 = (0 : BitVec 1) ∧ (fA w).extractLsb' 4 3 = (0 : BitVec 3)) (.vote (fSc w) ((fD w).extractLsb' 4 3) ((fD w).extractLsb' 0 3) ((fA w).extractLsb' 3 1) ((fA w).extractLsb' 0 3) (fB w) (fP w))) := rfl

theorem decodeCtrl_17 (w : Word) (rest : List Word) : decodeCtrl w rest 17 = (
    .ok (.redux (fSc w) (fD w) (fA w) (fB w) (fP w))) := rfl

theorem decodeCtrl_18 (w : Word) (rest : List Word) : decodeCtrl w rest 18 = (
    .ok (.scan (fSc w) (fD w) (fA w) (fB w) (fP w))) := rfl

theorem decodeCtrl_19 (w : Word) (rest : List Word) : decodeCtrl w rest 19 = (
    lit1 rest (fun lit => rsv (fD w = 0 ∧ fB w = 0) (.setdecl (fSc w) (fA w) (fP w) lit))) := rfl

theorem decodeCtrl_20 (w : Word) (rest : List Word) : decodeCtrl w rest 20 = (
    rsv (fD w = 0 ∧ fA w = 0 ∧ (fI w).extractLsb' 0 2 = (0 : BitVec 2)) (.quota (fSc w) ((fI w).extractLsb' 8 2) ((fI w).extractLsb' 6 2) ((fI w).extractLsb' 2 4))) := rfl

theorem decodeCtrl_21 (w : Word) (rest : List Word) : decodeCtrl w rest 21 = (
    rsv ((fD w).extractLsb' 3 4 = (0 : BitVec 4) ∧ fB w = 0) (.tileNext (fSc w) ((fD w).extractLsb' 0 3) (fA w) (fP w))) := rfl

theorem decodeCtrl_22 (w : Word) (rest : List Word) : decodeCtrl w rest 22 = (
    .ok (.spawn (fSc w) (fD w) (fA w) (fB w) (fP w))) := rfl

theorem decodeCtrl_23 (w : Word) (rest : List Word) : decodeCtrl w rest 23 = (
    rsv (fD w = 0 ∧ fA w = 0 ∧ fB w = 0) (.yield (fSc w) (fP w))) := rfl

theorem decodeCtrl_24 (w : Word) (rest : List Word) : decodeCtrl w rest 24 = (
    rsv (fA w = 0) (.s2r (fSc w) (fD w) (fI w))) := rfl

theorem decodeCtrl_25 (w : Word) (rest : List Word) : decodeCtrl w rest 25 = (
    rsv (fA w = 0) (.featq (fSc w) (fD w) (fI w))) := rfl

theorem decodeCtrl_26 (w : Word) (rest : List Word) : decodeCtrl w rest 26 = (
    rsv (fD w = 0 ∧ fA w = 0) (.trap (fSc w) (fI w))) := rfl

theorem decodeCtrl_27 (w : Word) (rest : List Word) : decodeCtrl w rest 27 = (
    .ok (.spawnSpec (fSc w) (fD w) (fA w) (fB w) (fP w))) := rfl

theorem decodeCtrl_28 (w : Word) (rest : List Word) : decodeCtrl w rest 28 = (
    lit1 rest (fun lit => .ok (.specOp (fSc w) (fD w) (fA w) (fB w) (fP w) lit))) := rfl

theorem decodeCtrl_29 (w : Word) (rest : List Word) : decodeCtrl w rest 29 = (
    rsv (fD w = 0 ∧ fA w = 0 ∧ fB w = 0) (.specEnd (fSc w) (fP w))) := rfl

theorem decodeCtrl_30 (w : Word) (rest : List Word) : decodeCtrl w rest 30 = (
    rsv (fD w = 0 ∧ fA w = 0 ∧ fB w = 0) (.specCommit (fSc w) (fP w))) := rfl

theorem decodeCtrl_31 (w : Word) (rest : List Word) : decodeCtrl w rest 31 = (
    rsv (fD w = 0 ∧ fA w = 0 ∧ fB w = 0) (.specAbort (fSc w) (fP w))) := rfl

theorem decodeCtrl_32 (w : Word) (rest : List Word) : decodeCtrl w rest 32 = (
    rsv (fD w = 0 ∧ fA w = 0 ∧ fB w = 0) (.specDrain (fSc w) (fP w))) := rfl

theorem decodeCtrl_33 (w : Word) (rest : List Word) : decodeCtrl w rest 33 = (
    rsv (fD w = 0 ∧ fB w = 0) (.specTable (fSc w) (fA w) (fP w))) := rfl

theorem decodeCtrl_34 (w : Word) (rest : List Word) : decodeCtrl w rest 34 = (
    .ok (.brx (fSc w) (fD w) (fA w) (fB w) (fP w))) := rfl

theorem decodeGfx_0 (w : Word) (rest : List Word) : decodeGfx w rest 0 = (
    rsv (fD w = 0 ∧ fB w = 0) (.primEmit (fSc w) (fA w) (fP w))) := rfl

theorem decodeGfx_1 (w : Word) (rest : List Word) : decodeGfx w rest 1 = (
    rsv (fD w = 0 ∧ (fB w).extractLsb' 4 1 = (0 : BitVec 1)) (.attrEmit (fSc w) (fA w) ((fB w).extractLsb' 5 2) ((fB w).extractLsb' 0 4) (fP w))) := rfl

theorem decodeGfx_2 (w : Word) (rest : List Word) : decodeGfx w rest 2 = (
    rsv (fA w = 0) (.attrIn (fSc w) (fD w) (fB w) (fP w))) := rfl

theorem decodeGfx_3 (w : Word) (rest : List Word) : decodeGfx w rest 3 = (
    lit1 rest (fun lit => rsv (fB w = 0) (.texS (fSc w) (fD w) (fA w) (fP w) lit))) := rfl

theorem decodeGfx_4 (w : Word) (rest : List Word) : decodeGfx w rest 4 = (
    lit1 rest (fun lit => rsv (fB w = 0) (.texL (fSc w) (fD w) (fA w) (fP w) lit))) := rfl

theorem decodeGfx_5 (w : Word) (rest : List Word) : decodeGfx w rest 5 = (
    lit1 rest (fun lit => rsv (fB w = 0) (.texF (fSc w) (fD w) (fA w) (fP w) lit))) := rfl

theorem decodeGfx_6 (w : Word) (rest : List Word) : decodeGfx w rest 6 = (
    lit1 rest (fun lit => rsv (fB w = 0) (.texG (fSc w) (fD w) (fA w) (fP w) lit))) := rfl

theorem decodeGfx_7 (w : Word) (rest : List Word) : decodeGfx w rest 7 = (
    rsv (fA w = 0 ∧ (fB w).extractLsb' 1 6 = (0 : BitVec 6)) (.tbLd (fSc w) (fD w) ((fB w).extractLsb' 0 1) (fP w))) := rfl

theorem decodeGfx_8 (w : Word) (rest : List Word) : decodeGfx w rest 8 = (
    rsv (fD w = 0 ∧ (fB w).extractLsb' 1 6 = (0 : BitVec 6)) (.tbSt (fSc w) (fA w) ((fB w).extractLsb' 0 1) (fP w))) := rfl

theorem decodeGfx_9 (w : Word) (rest : List Word) : decodeGfx w rest 9 = (
    rsv (fD w = 0 ∧ fB w = 0) (.tbBlend (fSc w) (fA w) (fP w))) := rfl

theorem decodeGfx_10 (w : Word) (rest : List Word) : decodeGfx w rest 10 = (
    rsv (fD w = 0 ∧ fA w = 0 ∧ fB w = 0) (.fragKill (fSc w) (fP w))) := rfl

theorem decodeGfx_11 (w : Word) (rest : List Word) : decodeGfx w rest 11 = (
    if fB w = 0 then .ok (.hallQPix (fSc w) (fD w) (fA w) (fP w)) else
    if fB w = 1 then .ok (.hallQGrant (fSc w) (fD w) (fA w) (fP w)) else
    .error .illegalOp) := rfl

theorem decodeGfx_12 (w : Word) (rest : List Word) : decodeGfx w rest 12 = (
    rsv ((fD w).extractLsb' 3 1 = (0 : BitVec 1) ∧ fB w = 0) (.depthT (fSc w) ((fD w).extractLsb' 4 3) ((fD w).extractLsb' 0 3) (fA w) (fP w))) := rfl

theorem decodeSys_0 (w : Word) (rest : List Word) : decodeSys w rest 0 = (
    rsv (fA w = 0) (.srd (fSc w) (fD w) (fI w))) := rfl

theorem decodeSys_1 (w : Word) (rest : List Word) : decodeSys w rest 1 = (
    rsv (fD w = 0) (.swr (fSc w) (fA w) (fI w))) := rfl

theorem decodeSys_2 (w : Word) (rest : List Word) : decodeSys w rest 2 = (
    rsv (fD w = 0 ∧ fA w = 0 ∧ fB w = 0) (.eret (fSc w) (fP w))) := rfl

theorem decodeSys_3 (w : Word) (rest : List Word) : decodeSys w rest 3 = (
    rsv (fB w = 0) (.ctxRd (fSc w) (fD w) (fA w) (fP w))) := rfl

theorem decodeSys_4 (w : Word) (rest : List Word) : decodeSys w rest 4 = (
    rsv (fD w = 0) (.ctxWr (fSc w) (fA w) (fB w) (fP w))) := rfl

theorem decodeSys_5 (w : Word) (rest : List Word) : decodeSys w rest 5 = (
    rsv (fD w = 0 ∧ fB w = 0) (.ctxSave (fSc w) (fA w) (fP w))) := rfl

theorem decodeSys_6 (w : Word) (rest : List Word) : decodeSys w rest 6 = (
    rsv (fD w = 0 ∧ fB w = 0) (.ctxLoad (fSc w) (fA w) (fP w))) := rfl

theorem decodeSys_7 (w : Word) (rest : List Word) : decodeSys w rest 7 = (
    rsv (fD w = 0) (.tlbInv (fSc w) (fA w) (fB w) (fP w))) := rfl

theorem decodeSys_8 (w : Word) (rest : List Word) : decodeSys w rest 8 = (
    rsv (fB w = 0) (.wfi (fSc w) (fD w) (fA w) (fP w))) := rfl

theorem decodeSys_9 (w : Word) (rest : List Word) : decodeSys w rest 9 = (
    rsv (fA w = 0 ∧ fB w = 0) (.agentClaim (fSc w) (fD w) (fP w))) := rfl

theorem decodeSys_10 (w : Word) (rest : List Word) : decodeSys w rest 10 = (
    rsv (fD w = 0 ∧ fB w = 0) (.blkStart (fSc w) (fA w) (fP w))) := rfl

theorem decodeSys_11 (w : Word) (rest : List Word) : decodeSys w rest 11 = (
    rsv (fD w = 0 ∧ fB w = 0) (.blkStop (fSc w) (fA w) (fP w))) := rfl

theorem decodeSys_12 (w : Word) (rest : List Word) : decodeSys w rest 12 = (
    rsv (fD w = 0 ∧ fB w = 0) (.vdevDrain (fSc w) (fA w) (fP w))) := rfl

theorem decodeSys_13 (w : Word) (rest : List Word) : decodeSys w rest 13 = (
    rsv (fD w = 0 ∧ fB w = 0) (.poolClr (fSc w) (fA w) (fP w))) := rfl

theorem decodeSys_14 (w : Word) (rest : List Word) : decodeSys w rest 14 = (
    rsv (fA w = 0 ∧ fB w = 0) (.faultRd (fSc w) (fD w) (fP w))) := rfl

theorem decodeSys_15 (w : Word) (rest : List Word) : decodeSys w rest 15 = (
    if fD w = 0 then .ok (.resumeContinue (fSc w) (fA w) (fB w) (fP w)) else
    if fD w = 1 then .ok (.resumeSkip (fSc w) (fA w) (fB w) (fP w)) else
    if fD w = 2 then .ok (.resumeKill (fSc w) (fA w) (fB w) (fP w)) else
    .error .illegalOp) := rfl

/-! ## One lemma per instruction -/

theorem RoundTrip.mov : ∀ sc d a p, RoundTrip.Statement (.mov sc d a p) := by
  intro sc d a p _ _ rest _ h
  cases h
  refine ⟨_, _, rfl, rfl, ?_⟩
  show decodeAlu _ _ (fOp _) = _
  simp (disch := decide) [decodeAlu_0, fOp_packR, fSc_packR, fD_packR, fA_packR, fB_packR, fP_packR, rsv]

theorem RoundTrip.movi : ∀ sc d imm, RoundTrip.Statement (.movi sc d imm) := by
  intro sc d imm _ _ rest _ h
  cases h
  refine ⟨_, _, rfl, rfl, ?_⟩
  show decodeAlu _ _ (fOp _) = _
  simp (disch := decide) [decodeAlu_1, fOp_packU, fSc_packU, fD_packU, fU_packU]

theorem RoundTrip.movl : ∀ sc d p lit, RoundTrip.Statement (.movl sc d p lit) := by
  intro sc d p lit _ _ rest _ h
  cases h
  refine ⟨_, _, rfl, rfl, ?_⟩
  show decodeAlu _ _ (fOp _) = _
  simp (disch := decide) [decodeAlu_2, fOp_packR, fSc_packR, fD_packR, fA_packR, fB_packR, fP_packR, rsv, lit1, List.cons_append]

theorem RoundTrip.sel : ∀ sc d a b p, RoundTrip.Statement (.sel sc d a b p) := by
  intro sc d a b p _ _ rest _ h
  cases h
  refine ⟨_, _, rfl, rfl, ?_⟩
  show decodeAlu _ _ (fOp _) = _
  simp (disch := decide) [decodeAlu_3, fOp_packR, fSc_packR, fD_packR, fA_packR, fB_packR, fP_packR]

theorem RoundTrip.iadd : ∀ sc d a b p, RoundTrip.Statement (.iadd sc d a b p) := by
  intro sc d a b p _ _ rest _ h
  cases h
  refine ⟨_, _, rfl, rfl, ?_⟩
  show decodeAlu _ _ (fOp _) = _
  simp (disch := decide) [decodeAlu_4, fOp_packR, fSc_packR, fD_packR, fA_packR, fB_packR, fP_packR]

theorem RoundTrip.iaddi : ∀ sc d a imm, RoundTrip.Statement (.iaddi sc d a imm) := by
  intro sc d a imm _ _ rest _ h
  cases h
  refine ⟨_, _, rfl, rfl, ?_⟩
  show decodeAlu _ _ (fOp _) = _
  simp (disch := decide) [decodeAlu_5, fOp_packI, fSc_packI, fD_packI, fA_packI, fI_packI]

theorem RoundTrip.isub : ∀ sc d a b p, RoundTrip.Statement (.isub sc d a b p) := by
  intro sc d a b p _ _ rest _ h
  cases h
  refine ⟨_, _, rfl, rfl, ?_⟩
  show decodeAlu _ _ (fOp _) = _
  simp (disch := decide) [decodeAlu_6, fOp_packR, fSc_packR, fD_packR, fA_packR, fB_packR, fP_packR]

theorem RoundTrip.imul : ∀ sc d a b p, RoundTrip.Statement (.imul sc d a b p) := by
  intro sc d a b p _ _ rest _ h
  cases h
  refine ⟨_, _, rfl, rfl, ?_⟩
  show decodeAlu _ _ (fOp _) = _
  simp (disch := decide) [decodeAlu_7, fOp_packR, fSc_packR, fD_packR, fA_packR, fB_packR, fP_packR]

theorem RoundTrip.imulh : ∀ sc d a b p, RoundTrip.Statement (.imulh sc d a b p) := by
  intro sc d a b p _ _ rest _ h
  cases h
  refine ⟨_, _, rfl, rfl, ?_⟩
  show decodeAlu _ _ (fOp _) = _
  simp (disch := decide) [decodeAlu_8, fOp_packR, fSc_packR, fD_packR, fA_packR, fB_packR, fP_packR]

theorem RoundTrip.imulhUi : ∀ sc d a b p, RoundTrip.Statement (.imulhUi sc d a b p) := by
  intro sc d a b p _ _ rest _ h
  cases h
  refine ⟨_, _, rfl, rfl, ?_⟩
  show decodeAlu _ _ (fOp _) = _
  simp (disch := decide) [decodeAlu_9, fOp_packR, fSc_packR, fD_packR, fA_packR, fB_packR, fP_packR]

theorem RoundTrip.imad : ∀ sc d a b p, RoundTrip.Statement (.imad sc d a b p) := by
  intro sc d a b p _ _ rest _ h
  cases h
  refine ⟨_, _, rfl, rfl, ?_⟩
  show decodeAlu _ _ (fOp _) = _
  simp (disch := decide) [decodeAlu_10, fOp_packR, fSc_packR, fD_packR, fA_packR, fB_packR, fP_packR]

theorem RoundTrip.imin : ∀ sc d a b p, RoundTrip.Statement (.imin sc d a b p) := by
  intro sc d a b p _ _ rest _ h
  cases h
  refine ⟨_, _, rfl, rfl, ?_⟩
  show decodeAlu _ _ (fOp _) = _
  simp (disch := decide) [decodeAlu_11, fOp_packR, fSc_packR, fD_packR, fA_packR, fB_packR, fP_packR]

theorem RoundTrip.iminUi : ∀ sc d a b p, RoundTrip.Statement (.iminUi sc d a b p) := by
  intro sc d a b p _ _ rest _ h
  cases h
  refine ⟨_, _, rfl, rfl, ?_⟩
  show decodeAlu _ _ (fOp _) = _
  simp (disch := decide) [decodeAlu_12, fOp_packR, fSc_packR, fD_packR, fA_packR, fB_packR, fP_packR]

theorem RoundTrip.imax : ∀ sc d a b p, RoundTrip.Statement (.imax sc d a b p) := by
  intro sc d a b p _ _ rest _ h
  cases h
  refine ⟨_, _, rfl, rfl, ?_⟩
  show decodeAlu _ _ (fOp _) = _
  simp (disch := decide) [decodeAlu_13, fOp_packR, fSc_packR, fD_packR, fA_packR, fB_packR, fP_packR]

theorem RoundTrip.imaxUi : ∀ sc d a b p, RoundTrip.Statement (.imaxUi sc d a b p) := by
  intro sc d a b p _ _ rest _ h
  cases h
  refine ⟨_, _, rfl, rfl, ?_⟩
  show decodeAlu _ _ (fOp _) = _
  simp (disch := decide) [decodeAlu_14, fOp_packR, fSc_packR, fD_packR, fA_packR, fB_packR, fP_packR]

theorem RoundTrip.iabs : ∀ sc d a p, RoundTrip.Statement (.iabs sc d a p) := by
  intro sc d a p _ _ rest _ h
  cases h
  refine ⟨_, _, rfl, rfl, ?_⟩
  show decodeAlu _ _ (fOp _) = _
  simp (disch := decide) [decodeAlu_15, fOp_packR, fSc_packR, fD_packR, fA_packR, fB_packR, fP_packR, rsv]

theorem RoundTrip.and_ : ∀ sc d a b p, RoundTrip.Statement (.and_ sc d a b p) := by
  intro sc d a b p _ _ rest _ h
  cases h
  refine ⟨_, _, rfl, rfl, ?_⟩
  show decodeAlu _ _ (fOp _) = _
  simp (disch := decide) [decodeAlu_16, fOp_packR, fSc_packR, fD_packR, fA_packR, fB_packR, fP_packR]

theorem RoundTrip.andi : ∀ sc d a imm, RoundTrip.Statement (.andi sc d a imm) := by
  intro sc d a imm _ _ rest _ h
  cases h
  refine ⟨_, _, rfl, rfl, ?_⟩
  show decodeAlu _ _ (fOp _) = _
  simp (disch := decide) [decodeAlu_17, fOp_packI, fSc_packI, fD_packI, fA_packI, fI_packI]

theorem RoundTrip.or_ : ∀ sc d a b p, RoundTrip.Statement (.or_ sc d a b p) := by
  intro sc d a b p _ _ rest _ h
  cases h
  refine ⟨_, _, rfl, rfl, ?_⟩
  show decodeAlu _ _ (fOp _) = _
  simp (disch := decide) [decodeAlu_18, fOp_packR, fSc_packR, fD_packR, fA_packR, fB_packR, fP_packR]

theorem RoundTrip.ori : ∀ sc d a imm, RoundTrip.Statement (.ori sc d a imm) := by
  intro sc d a imm _ _ rest _ h
  cases h
  refine ⟨_, _, rfl, rfl, ?_⟩
  show decodeAlu _ _ (fOp _) = _
  simp (disch := decide) [decodeAlu_19, fOp_packI, fSc_packI, fD_packI, fA_packI, fI_packI]

theorem RoundTrip.xor : ∀ sc d a b p, RoundTrip.Statement (.xor sc d a b p) := by
  intro sc d a b p _ _ rest _ h
  cases h
  refine ⟨_, _, rfl, rfl, ?_⟩
  show decodeAlu _ _ (fOp _) = _
  simp (disch := decide) [decodeAlu_20, fOp_packR, fSc_packR, fD_packR, fA_packR, fB_packR, fP_packR]

theorem RoundTrip.xori : ∀ sc d a imm, RoundTrip.Statement (.xori sc d a imm) := by
  intro sc d a imm _ _ rest _ h
  cases h
  refine ⟨_, _, rfl, rfl, ?_⟩
  show decodeAlu _ _ (fOp _) = _
  simp (disch := decide) [decodeAlu_21, fOp_packI, fSc_packI, fD_packI, fA_packI, fI_packI]

theorem RoundTrip.shl : ∀ sc d a b p, RoundTrip.Statement (.shl sc d a b p) := by
  intro sc d a b p _ _ rest _ h
  cases h
  refine ⟨_, _, rfl, rfl, ?_⟩
  show decodeAlu _ _ (fOp _) = _
  simp (disch := decide) [decodeAlu_22, fOp_packR, fSc_packR, fD_packR, fA_packR, fB_packR, fP_packR]

theorem RoundTrip.shr : ∀ sc d a b p, RoundTrip.Statement (.shr sc d a b p) := by
  intro sc d a b p _ _ rest _ h
  cases h
  refine ⟨_, _, rfl, rfl, ?_⟩
  show decodeAlu _ _ (fOp _) = _
  simp (disch := decide) [decodeAlu_23, fOp_packR, fSc_packR, fD_packR, fA_packR, fB_packR, fP_packR]

theorem RoundTrip.sar : ∀ sc d a b p, RoundTrip.Statement (.sar sc d a b p) := by
  intro sc d a b p _ _ rest _ h
  cases h
  refine ⟨_, _, rfl, rfl, ?_⟩
  show decodeAlu _ _ (fOp _) = _
  simp (disch := decide) [decodeAlu_24, fOp_packR, fSc_packR, fD_packR, fA_packR, fB_packR, fP_packR]

theorem RoundTrip.shfiShl : ∀ sc d a c, RoundTrip.Statement (.shfiShl sc d a c) := by
  intro sc d a c _ _ rest _ h
  cases h
  refine ⟨_, _, rfl, rfl, ?_⟩
  show decodeAlu _ _ (fOp _) = _
  simp (disch := decide) [decodeAlu_25, fOp_packI, fSc_packI, fD_packI, fA_packI, fI_packI, part_5_5_at_5, part_5_5_at_0]

theorem RoundTrip.shfiShr : ∀ sc d a c, RoundTrip.Statement (.shfiShr sc d a c) := by
  intro sc d a c _ _ rest _ h
  cases h
  refine ⟨_, _, rfl, rfl, ?_⟩
  show decodeAlu _ _ (fOp _) = _
  simp (disch := decide) [decodeAlu_25, fOp_packI, fSc_packI, fD_packI, fA_packI, fI_packI, part_5_5_at_5, part_5_5_at_0]

theorem RoundTrip.shfiSar : ∀ sc d a c, RoundTrip.Statement (.shfiSar sc d a c) := by
  intro sc d a c _ _ rest _ h
  cases h
  refine ⟨_, _, rfl, rfl, ?_⟩
  show decodeAlu _ _ (fOp _) = _
  simp (disch := decide) [decodeAlu_25, fOp_packI, fSc_packI, fD_packI, fA_packI, fI_packI, part_5_5_at_5, part_5_5_at_0]

theorem RoundTrip.shfiRol : ∀ sc d a c, RoundTrip.Statement (.shfiRol sc d a c) := by
  intro sc d a c _ _ rest _ h
  cases h
  refine ⟨_, _, rfl, rfl, ?_⟩
  show decodeAlu _ _ (fOp _) = _
  simp (disch := decide) [decodeAlu_25, fOp_packI, fSc_packI, fD_packI, fA_packI, fI_packI, part_5_5_at_5, part_5_5_at_0]

theorem RoundTrip.rol : ∀ sc d a b p, RoundTrip.Statement (.rol sc d a b p) := by
  intro sc d a b p _ _ rest _ h
  cases h
  refine ⟨_, _, rfl, rfl, ?_⟩
  show decodeAlu _ _ (fOp _) = _
  simp (disch := decide) [decodeAlu_26, fOp_packR, fSc_packR, fD_packR, fA_packR, fB_packR, fP_packR]

theorem RoundTrip.bfe : ∀ sc d a b p, RoundTrip.Statement (.bfe sc d a b p) := by
  intro sc d a b p _ _ rest _ h
  cases h
  refine ⟨_, _, rfl, rfl, ?_⟩
  show decodeAlu _ _ (fOp _) = _
  simp (disch := decide) [decodeAlu_27, fOp_packR, fSc_packR, fD_packR, fA_packR, fB_packR, fP_packR]

theorem RoundTrip.bfi : ∀ sc d a b p, RoundTrip.Statement (.bfi sc d a b p) := by
  intro sc d a b p _ _ rest _ h
  cases h
  refine ⟨_, _, rfl, rfl, ?_⟩
  show decodeAlu _ _ (fOp _) = _
  simp (disch := decide) [decodeAlu_28, fOp_packR, fSc_packR, fD_packR, fA_packR, fB_packR, fP_packR]

theorem RoundTrip.popc : ∀ sc d a p, RoundTrip.Statement (.popc sc d a p) := by
  intro sc d a p _ _ rest _ h
  cases h
  refine ⟨_, _, rfl, rfl, ?_⟩
  show decodeAlu _ _ (fOp _) = _
  simp (disch := decide) [decodeAlu_29, fOp_packR, fSc_packR, fD_packR, fA_packR, fB_packR, fP_packR, rsv]

theorem RoundTrip.clz : ∀ sc d a p, RoundTrip.Statement (.clz sc d a p) := by
  intro sc d a p _ _ rest _ h
  cases h
  refine ⟨_, _, rfl, rfl, ?_⟩
  show decodeAlu _ _ (fOp _) = _
  simp (disch := decide) [decodeAlu_30, fOp_packR, fSc_packR, fD_packR, fA_packR, fB_packR, fP_packR, rsv]

theorem RoundTrip.brev : ∀ sc d a p, RoundTrip.Statement (.brev sc d a p) := by
  intro sc d a p _ _ rest _ h
  cases h
  refine ⟨_, _, rfl, rfl, ?_⟩
  show decodeAlu _ _ (fOp _) = _
  simp (disch := decide) [decodeAlu_31, fOp_packR, fSc_packR, fD_packR, fA_packR, fB_packR, fP_packR, rsv]

theorem RoundTrip.isetp : ∀ sc c u pd a b p, RoundTrip.Statement (.isetp sc c u pd a b p) := by
  intro sc c u pd a b p _ _ rest _ h
  cases h
  refine ⟨_, _, rfl, rfl, ?_⟩
  show decodeAlu _ _ (fOp _) = _
  simp (disch := decide) [decodeAlu_32, fOp_packR, fSc_packR, fD_packR, fA_packR, fB_packR, fP_packR, part_3_1_3_at_4, part_3_1_3_at_3, part_3_1_3_at_0]

theorem RoundTrip.isetpi : ∀ sc c u pd a imm p, RoundTrip.Statement (.isetpi sc c u pd a imm p) := by
  intro sc c u pd a imm p _ _ rest _ h
  cases h
  refine ⟨_, _, rfl, rfl, ?_⟩
  show decodeAlu _ _ (fOp _) = _
  simp (disch := decide) [decodeAlu_33, fOp_packR, fSc_packR, fD_packR, fA_packR, fB_packR, fP_packR, part_3_1_3_at_4, part_3_1_3_at_3, part_3_1_3_at_0]

theorem RoundTrip.fadd : ∀ sc d a b p, RoundTrip.Statement (.fadd sc d a b p) := by
  intro sc d a b p _ _ rest _ h
  cases h
  refine ⟨_, _, rfl, rfl, ?_⟩
  show decodeAlu _ _ (fOp _) = _
  simp (disch := decide) [decodeAlu_34, fOp_packR, fSc_packR, fD_packR, fA_packR, fB_packR, fP_packR]

theorem RoundTrip.fsub : ∀ sc d a b p, RoundTrip.Statement (.fsub sc d a b p) := by
  intro sc d a b p _ _ rest _ h
  cases h
  refine ⟨_, _, rfl, rfl, ?_⟩
  show decodeAlu _ _ (fOp _) = _
  simp (disch := decide) [decodeAlu_35, fOp_packR, fSc_packR, fD_packR, fA_packR, fB_packR, fP_packR]

theorem RoundTrip.fmul : ∀ sc d a b p, RoundTrip.Statement (.fmul sc d a b p) := by
  intro sc d a b p _ _ rest _ h
  cases h
  refine ⟨_, _, rfl, rfl, ?_⟩
  show decodeAlu _ _ (fOp _) = _
  simp (disch := decide) [decodeAlu_36, fOp_packR, fSc_packR, fD_packR, fA_packR, fB_packR, fP_packR]

theorem RoundTrip.ffma : ∀ sc d a b p, RoundTrip.Statement (.ffma sc d a b p) := by
  intro sc d a b p _ _ rest _ h
  cases h
  refine ⟨_, _, rfl, rfl, ?_⟩
  show decodeAlu _ _ (fOp _) = _
  simp (disch := decide) [decodeAlu_37, fOp_packR, fSc_packR, fD_packR, fA_packR, fB_packR, fP_packR]

theorem RoundTrip.fmin : ∀ sc d a b p, RoundTrip.Statement (.fmin sc d a b p) := by
  intro sc d a b p _ _ rest _ h
  cases h
  refine ⟨_, _, rfl, rfl, ?_⟩
  show decodeAlu _ _ (fOp _) = _
  simp (disch := decide) [decodeAlu_38, fOp_packR, fSc_packR, fD_packR, fA_packR, fB_packR, fP_packR]

theorem RoundTrip.fmax : ∀ sc d a b p, RoundTrip.Statement (.fmax sc d a b p) := by
  intro sc d a b p _ _ rest _ h
  cases h
  refine ⟨_, _, rfl, rfl, ?_⟩
  show decodeAlu _ _ (fOp _) = _
  simp (disch := decide) [decodeAlu_39, fOp_packR, fSc_packR, fD_packR, fA_packR, fB_packR, fP_packR]

theorem RoundTrip.fsetp : ∀ sc c pd a b p, RoundTrip.Statement (.fsetp sc c pd a b p) := by
  intro sc c pd a b p _ _ rest _ h
  cases h
  refine ⟨_, _, rfl, rfl, ?_⟩
  show decodeAlu _ _ (fOp _) = _
  simp (disch := decide) [decodeAlu_40, fOp_packR, fSc_packR, fD_packR, fA_packR, fB_packR, fP_packR, rsv, part_3_1_3_at_4, part_3_1_3_at_3, part_3_1_3_at_0]

theorem RoundTrip.fabs : ∀ sc d a p, RoundTrip.Statement (.fabs sc d a p) := by
  intro sc d a p _ _ rest _ h
  cases h
  refine ⟨_, _, rfl, rfl, ?_⟩
  show decodeAlu _ _ (fOp _) = _
  simp (disch := decide) [decodeAlu_41, fOp_packR, fSc_packR, fD_packR, fA_packR, fB_packR, fP_packR]

theorem RoundTrip.fneg : ∀ sc d a p, RoundTrip.Statement (.fneg sc d a p) := by
  intro sc d a p _ _ rest _ h
  cases h
  refine ⟨_, _, rfl, rfl, ?_⟩
  show decodeAlu _ _ (fOp _) = _
  simp (disch := decide) [decodeAlu_41, fOp_packR, fSc_packR, fD_packR, fA_packR, fB_packR, fP_packR]

theorem RoundTrip.frcp : ∀ sc d a p, RoundTrip.Statement (.frcp sc d a p) := by
  intro sc d a p _ _ rest _ h
  cases h
  refine ⟨_, _, rfl, rfl, ?_⟩
  show decodeAlu _ _ (fOp _) = _
  simp (disch := decide) [decodeAlu_41, fOp_packR, fSc_packR, fD_packR, fA_packR, fB_packR, fP_packR]

theorem RoundTrip.frsq : ∀ sc d a p, RoundTrip.Statement (.frsq sc d a p) := by
  intro sc d a p _ _ rest _ h
  cases h
  refine ⟨_, _, rfl, rfl, ?_⟩
  show decodeAlu _ _ (fOp _) = _
  simp (disch := decide) [decodeAlu_41, fOp_packR, fSc_packR, fD_packR, fA_packR, fB_packR, fP_packR]

theorem RoundTrip.fsqrt : ∀ sc d a p, RoundTrip.Statement (.fsqrt sc d a p) := by
  intro sc d a p _ _ rest _ h
  cases h
  refine ⟨_, _, rfl, rfl, ?_⟩
  show decodeAlu _ _ (fOp _) = _
  simp (disch := decide) [decodeAlu_41, fOp_packR, fSc_packR, fD_packR, fA_packR, fB_packR, fP_packR]

theorem RoundTrip.fex2 : ∀ sc d a p, RoundTrip.Statement (.fex2 sc d a p) := by
  intro sc d a p _ _ rest _ h
  cases h
  refine ⟨_, _, rfl, rfl, ?_⟩
  show decodeAlu _ _ (fOp _) = _
  simp (disch := decide) [decodeAlu_41, fOp_packR, fSc_packR, fD_packR, fA_packR, fB_packR, fP_packR]

theorem RoundTrip.flg2 : ∀ sc d a p, RoundTrip.Statement (.flg2 sc d a p) := by
  intro sc d a p _ _ rest _ h
  cases h
  refine ⟨_, _, rfl, rfl, ?_⟩
  show decodeAlu _ _ (fOp _) = _
  simp (disch := decide) [decodeAlu_41, fOp_packR, fSc_packR, fD_packR, fA_packR, fB_packR, fP_packR]

theorem RoundTrip.fsin : ∀ sc d a p, RoundTrip.Statement (.fsin sc d a p) := by
  intro sc d a p _ _ rest _ h
  cases h
  refine ⟨_, _, rfl, rfl, ?_⟩
  show decodeAlu _ _ (fOp _) = _
  simp (disch := decide) [decodeAlu_41, fOp_packR, fSc_packR, fD_packR, fA_packR, fB_packR, fP_packR]

theorem RoundTrip.fcos : ∀ sc d a p, RoundTrip.Statement (.fcos sc d a p) := by
  intro sc d a p _ _ rest _ h
  cases h
  refine ⟨_, _, rfl, rfl, ?_⟩
  show decodeAlu _ _ (fOp _) = _
  simp (disch := decide) [decodeAlu_41, fOp_packR, fSc_packR, fD_packR, fA_packR, fB_packR, fP_packR]

theorem RoundTrip.ffloor : ∀ sc d a p, RoundTrip.Statement (.ffloor sc d a p) := by
  intro sc d a p _ _ rest _ h
  cases h
  refine ⟨_, _, rfl, rfl, ?_⟩
  show decodeAlu _ _ (fOp _) = _
  simp (disch := decide) [decodeAlu_41, fOp_packR, fSc_packR, fD_packR, fA_packR, fB_packR, fP_packR]

theorem RoundTrip.fceil : ∀ sc d a p, RoundTrip.Statement (.fceil sc d a p) := by
  intro sc d a p _ _ rest _ h
  cases h
  refine ⟨_, _, rfl, rfl, ?_⟩
  show decodeAlu _ _ (fOp _) = _
  simp (disch := decide) [decodeAlu_41, fOp_packR, fSc_packR, fD_packR, fA_packR, fB_packR, fP_packR]

theorem RoundTrip.ftrunc : ∀ sc d a p, RoundTrip.Statement (.ftrunc sc d a p) := by
  intro sc d a p _ _ rest _ h
  cases h
  refine ⟨_, _, rfl, rfl, ?_⟩
  show decodeAlu _ _ (fOp _) = _
  simp (disch := decide) [decodeAlu_41, fOp_packR, fSc_packR, fD_packR, fA_packR, fB_packR, fP_packR]

theorem RoundTrip.frint : ∀ sc d a p, RoundTrip.Statement (.frint sc d a p) := by
  intro sc d a p _ _ rest _ h
  cases h
  refine ⟨_, _, rfl, rfl, ?_⟩
  show decodeAlu _ _ (fOp _) = _
  simp (disch := decide) [decodeAlu_41, fOp_packR, fSc_packR, fD_packR, fA_packR, fB_packR, fP_packR]

theorem RoundTrip.ffract : ∀ sc d a p, RoundTrip.Statement (.ffract sc d a p) := by
  intro sc d a p _ _ rest _ h
  cases h
  refine ⟨_, _, rfl, rfl, ?_⟩
  show decodeAlu _ _ (fOp _) = _
  simp (disch := decide) [decodeAlu_41, fOp_packR, fSc_packR, fD_packR, fA_packR, fB_packR, fP_packR]

theorem RoundTrip.hadd2 : ∀ sc d a b p, RoundTrip.Statement (.hadd2 sc d a b p) := by
  intro sc d a b p _ _ rest _ h
  cases h
  refine ⟨_, _, rfl, rfl, ?_⟩
  show decodeAlu _ _ (fOp _) = _
  simp (disch := decide) [decodeAlu_42, fOp_packR, fSc_packR, fD_packR, fA_packR, fB_packR, fP_packR]

theorem RoundTrip.hmul2 : ∀ sc d a b p, RoundTrip.Statement (.hmul2 sc d a b p) := by
  intro sc d a b p _ _ rest _ h
  cases h
  refine ⟨_, _, rfl, rfl, ?_⟩
  show decodeAlu _ _ (fOp _) = _
  simp (disch := decide) [decodeAlu_43, fOp_packR, fSc_packR, fD_packR, fA_packR, fB_packR, fP_packR]

theorem RoundTrip.hfma2 : ∀ sc d a b p, RoundTrip.Statement (.hfma2 sc d a b p) := by
  intro sc d a b p _ _ rest _ h
  cases h
  refine ⟨_, _, rfl, rfl, ?_⟩
  show decodeAlu _ _ (fOp _) = _
  simp (disch := decide) [decodeAlu_44, fOp_packR, fSc_packR, fD_packR, fA_packR, fB_packR, fP_packR]

theorem RoundTrip.badd2 : ∀ sc d a b p, RoundTrip.Statement (.badd2 sc d a b p) := by
  intro sc d a b p _ _ rest _ h
  cases h
  refine ⟨_, _, rfl, rfl, ?_⟩
  show decodeAlu _ _ (fOp _) = _
  simp (disch := decide) [decodeAlu_45, fOp_packR, fSc_packR, fD_packR, fA_packR, fB_packR, fP_packR]

theorem RoundTrip.bmul2 : ∀ sc d a b p, RoundTrip.Statement (.bmul2 sc d a b p) := by
  intro sc d a b p _ _ rest _ h
  cases h
  refine ⟨_, _, rfl, rfl, ?_⟩
  show decodeAlu _ _ (fOp _) = _
  simp (disch := decide) [decodeAlu_46, fOp_packR, fSc_packR, fD_packR, fA_packR, fB_packR, fP_packR]

theorem RoundTrip.bfma2 : ∀ sc d a b p, RoundTrip.Statement (.bfma2 sc d a b p) := by
  intro sc d a b p _ _ rest _ h
  cases h
  refine ⟨_, _, rfl, rfl, ?_⟩
  show decodeAlu _ _ (fOp _) = _
  simp (disch := decide) [decodeAlu_47, fOp_packR, fSc_packR, fD_packR, fA_packR, fB_packR, fP_packR]

theorem RoundTrip.cvt : ∀ sc d a b p, RoundTrip.Statement (.cvt sc d a b p) := by
  intro sc d a b p _ _ rest _ h
  cases h
  refine ⟨_, _, rfl, rfl, ?_⟩
  show decodeAlu _ _ (fOp _) = _
  simp (disch := decide) [decodeAlu_48, fOp_packR, fSc_packR, fD_packR, fA_packR, fB_packR, fP_packR]

theorem RoundTrip.plop : ∀ sc c pd na pa nb pb p, RoundTrip.Statement (.plop sc c pd na pa nb pb p) := by
  intro sc c pd na pa nb pb p _ _ rest _ h
  cases h
  refine ⟨_, _, rfl, rfl, ?_⟩
  show decodeAlu _ _ (fOp _) = _
  simp (disch := decide) [decodeAlu_49, fOp_packR, fSc_packR, fD_packR, fA_packR, fB_packR, fP_packR, rsv, part_3_1_3_at_4, part_3_1_3_at_3, part_3_1_3_at_0]

theorem RoundTrip.pmovGet : ∀ sc d p, RoundTrip.Statement (.pmovGet sc d p) := by
  intro sc d p _ _ rest _ h
  cases h
  refine ⟨_, _, rfl, rfl, ?_⟩
  show decodeAlu _ _ (fOp _) = _
  simp (disch := decide) [decodeAlu_50, fOp_packR, fSc_packR, fD_packR, fA_packR, fB_packR, fP_packR]

theorem RoundTrip.pmovPut : ∀ sc a p, RoundTrip.Statement (.pmovPut sc a p) := by
  intro sc a p _ _ rest _ h
  cases h
  refine ⟨_, _, rfl, rfl, ?_⟩
  show decodeAlu _ _ (fOp _) = _
  simp (disch := decide) [decodeAlu_50, fOp_packR, fSc_packR, fD_packR, fA_packR, fB_packR, fP_packR]

theorem RoundTrip.idp4 : ∀ sc d a b p, RoundTrip.Statement (.idp4 sc d a b p) := by
  intro sc d a b p _ _ rest _ h
  cases h
  refine ⟨_, _, rfl, rfl, ?_⟩
  show decodeAlu _ _ (fOp _) = _
  simp (disch := decide) [decodeAlu_51, fOp_packR, fSc_packR, fD_packR, fA_packR, fB_packR, fP_packR]

theorem RoundTrip.ldUi8 : ∀ sc d a off p, RoundTrip.Statement (.ldUi8 sc d a off p) := by
  intro sc d a off p _ _ rest _ h
  cases h
  refine ⟨_, _, rfl, rfl, ?_⟩
  show decodeMem _ rest (fOp _) = _
  simp (disch := decide) [decodeMem_0, fOp_packR, fSc_packR, fD_packR, fA_packR, fB_packR, fP_packR]

theorem RoundTrip.ldI8 : ∀ sc d a off p, RoundTrip.Statement (.ldI8 sc d a off p) := by
  intro sc d a off p _ _ rest _ h
  cases h
  refine ⟨_, _, rfl, rfl, ?_⟩
  show decodeMem _ rest (fOp _) = _
  simp (disch := decide) [decodeMem_1, fOp_packR, fSc_packR, fD_packR, fA_packR, fB_packR, fP_packR]

theorem RoundTrip.ldUi16 : ∀ sc d a off p, RoundTrip.Statement (.ldUi16 sc d a off p) := by
  intro sc d a off p _ _ rest _ h
  cases h
  refine ⟨_, _, rfl, rfl, ?_⟩
  show decodeMem _ rest (fOp _) = _
  simp (disch := decide) [decodeMem_2, fOp_packR, fSc_packR, fD_packR, fA_packR, fB_packR, fP_packR]

theorem RoundTrip.ldI16 : ∀ sc d a off p, RoundTrip.Statement (.ldI16 sc d a off p) := by
  intro sc d a off p _ _ rest _ h
  cases h
  refine ⟨_, _, rfl, rfl, ?_⟩
  show decodeMem _ rest (fOp _) = _
  simp (disch := decide) [decodeMem_3, fOp_packR, fSc_packR, fD_packR, fA_packR, fB_packR, fP_packR]

theorem RoundTrip.ld32 : ∀ sc d a off p, RoundTrip.Statement (.ld32 sc d a off p) := by
  intro sc d a off p _ _ rest _ h
  cases h
  refine ⟨_, _, rfl, rfl, ?_⟩
  show decodeMem _ rest (fOp _) = _
  simp (disch := decide) [decodeMem_4, fOp_packR, fSc_packR, fD_packR, fA_packR, fB_packR, fP_packR]

theorem RoundTrip.ld64 : ∀ sc d a off p, RoundTrip.Statement (.ld64 sc d a off p) := by
  intro sc d a off p _ _ rest _ h
  cases h
  refine ⟨_, _, rfl, rfl, ?_⟩
  show decodeMem _ rest (fOp _) = _
  simp (disch := decide) [decodeMem_5, fOp_packR, fSc_packR, fD_packR, fA_packR, fB_packR, fP_packR]

theorem RoundTrip.ld128 : ∀ sc d a off p, RoundTrip.Statement (.ld128 sc d a off p) := by
  intro sc d a off p _ _ rest _ h
  cases h
  refine ⟨_, _, rfl, rfl, ?_⟩
  show decodeMem _ rest (fOp _) = _
  simp (disch := decide) [decodeMem_6, fOp_packR, fSc_packR, fD_packR, fA_packR, fB_packR, fP_packR]

theorem RoundTrip.st8 : ∀ sc d a off p, RoundTrip.Statement (.st8 sc d a off p) := by
  intro sc d a off p _ _ rest _ h
  cases h
  refine ⟨_, _, rfl, rfl, ?_⟩
  show decodeMem _ rest (fOp _) = _
  simp (disch := decide) [decodeMem_7, fOp_packR, fSc_packR, fD_packR, fA_packR, fB_packR, fP_packR]

theorem RoundTrip.st16 : ∀ sc d a off p, RoundTrip.Statement (.st16 sc d a off p) := by
  intro sc d a off p _ _ rest _ h
  cases h
  refine ⟨_, _, rfl, rfl, ?_⟩
  show decodeMem _ rest (fOp _) = _
  simp (disch := decide) [decodeMem_8, fOp_packR, fSc_packR, fD_packR, fA_packR, fB_packR, fP_packR]

theorem RoundTrip.st32 : ∀ sc d a off p, RoundTrip.Statement (.st32 sc d a off p) := by
  intro sc d a off p _ _ rest _ h
  cases h
  refine ⟨_, _, rfl, rfl, ?_⟩
  show decodeMem _ rest (fOp _) = _
  simp (disch := decide) [decodeMem_9, fOp_packR, fSc_packR, fD_packR, fA_packR, fB_packR, fP_packR]

theorem RoundTrip.st64 : ∀ sc d a off p, RoundTrip.Statement (.st64 sc d a off p) := by
  intro sc d a off p _ _ rest _ h
  cases h
  refine ⟨_, _, rfl, rfl, ?_⟩
  show decodeMem _ rest (fOp _) = _
  simp (disch := decide) [decodeMem_10, fOp_packR, fSc_packR, fD_packR, fA_packR, fB_packR, fP_packR]

theorem RoundTrip.st128 : ∀ sc d a off p, RoundTrip.Statement (.st128 sc d a off p) := by
  intro sc d a off p _ _ rest _ h
  cases h
  refine ⟨_, _, rfl, rfl, ?_⟩
  show decodeMem _ rest (fOp _) = _
  simp (disch := decide) [decodeMem_11, fOp_packR, fSc_packR, fD_packR, fA_packR, fB_packR, fP_packR]

theorem RoundTrip.lds32 : ∀ sc d a off p, RoundTrip.Statement (.lds32 sc d a off p) := by
  intro sc d a off p _ _ rest _ h
  cases h
  refine ⟨_, _, rfl, rfl, ?_⟩
  show decodeMem _ rest (fOp _) = _
  simp (disch := decide) [decodeMem_12, fOp_packR, fSc_packR, fD_packR, fA_packR, fB_packR, fP_packR]

theorem RoundTrip.lds64 : ∀ sc d a off p, RoundTrip.Statement (.lds64 sc d a off p) := by
  intro sc d a off p _ _ rest _ h
  cases h
  refine ⟨_, _, rfl, rfl, ?_⟩
  show decodeMem _ rest (fOp _) = _
  simp (disch := decide) [decodeMem_13, fOp_packR, fSc_packR, fD_packR, fA_packR, fB_packR, fP_packR]

theorem RoundTrip.lds128 : ∀ sc d a off p, RoundTrip.Statement (.lds128 sc d a off p) := by
  intro sc d a off p _ _ rest _ h
  cases h
  refine ⟨_, _, rfl, rfl, ?_⟩
  show decodeMem _ rest (fOp _) = _
  simp (disch := decide) [decodeMem_14, fOp_packR, fSc_packR, fD_packR, fA_packR, fB_packR, fP_packR]

theorem RoundTrip.sts32 : ∀ sc d a off p, RoundTrip.Statement (.sts32 sc d a off p) := by
  intro sc d a off p _ _ rest _ h
  cases h
  refine ⟨_, _, rfl, rfl, ?_⟩
  show decodeMem _ rest (fOp _) = _
  simp (disch := decide) [decodeMem_15, fOp_packR, fSc_packR, fD_packR, fA_packR, fB_packR, fP_packR]

theorem RoundTrip.sts64 : ∀ sc d a off p, RoundTrip.Statement (.sts64 sc d a off p) := by
  intro sc d a off p _ _ rest _ h
  cases h
  refine ⟨_, _, rfl, rfl, ?_⟩
  show decodeMem _ rest (fOp _) = _
  simp (disch := decide) [decodeMem_16, fOp_packR, fSc_packR, fD_packR, fA_packR, fB_packR, fP_packR]

theorem RoundTrip.sts128 : ∀ sc d a off p, RoundTrip.Statement (.sts128 sc d a off p) := by
  intro sc d a off p _ _ rest _ h
  cases h
  refine ⟨_, _, rfl, rfl, ?_⟩
  show decodeMem _ rest (fOp _) = _
  simp (disch := decide) [decodeMem_17, fOp_packR, fSc_packR, fD_packR, fA_packR, fB_packR, fP_packR]

theorem RoundTrip.ldc32 : ∀ sc d a off p, RoundTrip.Statement (.ldc32 sc d a off p) := by
  intro sc d a off p _ _ rest _ h
  cases h
  refine ⟨_, _, rfl, rfl, ?_⟩
  show decodeMem _ rest (fOp _) = _
  simp (disch := decide) [decodeMem_18, fOp_packR, fSc_packR, fD_packR, fA_packR, fB_packR, fP_packR]

theorem RoundTrip.atomAdd : ∀ sc d a b p, RoundTrip.Statement (.atomAdd sc d a b p) := by
  intro sc d a b p _ _ rest _ h
  cases h
  refine ⟨_, _, rfl, rfl, ?_⟩
  show decodeMem _ rest (fOp _) = _
  simp (disch := decide) [decodeMem_19, fOp_packR, fSc_packR, fD_packR, fA_packR, fB_packR, fP_packR]

theorem RoundTrip.atomMin : ∀ sc d a b p, RoundTrip.Statement (.atomMin sc d a b p) := by
  intro sc d a b p _ _ rest _ h
  cases h
  refine ⟨_, _, rfl, rfl, ?_⟩
  show decodeMem _ rest (fOp _) = _
  simp (disch := decide) [decodeMem_20, fOp_packR, fSc_packR, fD_packR, fA_packR, fB_packR, fP_packR]

theorem RoundTrip.atomMax : ∀ sc d a b p, RoundTrip.Statement (.atomMax sc d a b p) := by
  intro sc d a b p _ _ rest _ h
  cases h
  refine ⟨_, _, rfl, rfl, ?_⟩
  show decodeMem _ rest (fOp _) = _
  simp (disch := decide) [decodeMem_21, fOp_packR, fSc_packR, fD_packR, fA_packR, fB_packR, fP_packR]

theorem RoundTrip.atomMinUi : ∀ sc d a b p, RoundTrip.Statement (.atomMinUi sc d a b p) := by
  intro sc d a b p _ _ rest _ h
  cases h
  refine ⟨_, _, rfl, rfl, ?_⟩
  show decodeMem _ rest (fOp _) = _
  simp (disch := decide) [decodeMem_22, fOp_packR, fSc_packR, fD_packR, fA_packR, fB_packR, fP_packR]

theorem RoundTrip.atomMaxUi : ∀ sc d a b p, RoundTrip.Statement (.atomMaxUi sc d a b p) := by
  intro sc d a b p _ _ rest _ h
  cases h
  refine ⟨_, _, rfl, rfl, ?_⟩
  show decodeMem _ rest (fOp _) = _
  simp (disch := decide) [decodeMem_23, fOp_packR, fSc_packR, fD_packR, fA_packR, fB_packR, fP_packR]

theorem RoundTrip.atomAnd : ∀ sc d a b p, RoundTrip.Statement (.atomAnd sc d a b p) := by
  intro sc d a b p _ _ rest _ h
  cases h
  refine ⟨_, _, rfl, rfl, ?_⟩
  show decodeMem _ rest (fOp _) = _
  simp (disch := decide) [decodeMem_24, fOp_packR, fSc_packR, fD_packR, fA_packR, fB_packR, fP_packR]

theorem RoundTrip.atomOr : ∀ sc d a b p, RoundTrip.Statement (.atomOr sc d a b p) := by
  intro sc d a b p _ _ rest _ h
  cases h
  refine ⟨_, _, rfl, rfl, ?_⟩
  show decodeMem _ rest (fOp _) = _
  simp (disch := decide) [decodeMem_25, fOp_packR, fSc_packR, fD_packR, fA_packR, fB_packR, fP_packR]

theorem RoundTrip.atomXor : ∀ sc d a b p, RoundTrip.Statement (.atomXor sc d a b p) := by
  intro sc d a b p _ _ rest _ h
  cases h
  refine ⟨_, _, rfl, rfl, ?_⟩
  show decodeMem _ rest (fOp _) = _
  simp (disch := decide) [decodeMem_26, fOp_packR, fSc_packR, fD_packR, fA_packR, fB_packR, fP_packR]

theorem RoundTrip.atomExch : ∀ sc d a b p, RoundTrip.Statement (.atomExch sc d a b p) := by
  intro sc d a b p _ _ rest _ h
  cases h
  refine ⟨_, _, rfl, rfl, ?_⟩
  show decodeMem _ rest (fOp _) = _
  simp (disch := decide) [decodeMem_27, fOp_packR, fSc_packR, fD_packR, fA_packR, fB_packR, fP_packR]

theorem RoundTrip.atomCas : ∀ sc d a b p, RoundTrip.Statement (.atomCas sc d a b p) := by
  intro sc d a b p _ _ rest _ h
  cases h
  refine ⟨_, _, rfl, rfl, ?_⟩
  show decodeMem _ rest (fOp _) = _
  simp (disch := decide) [decodeMem_28, fOp_packR, fSc_packR, fD_packR, fA_packR, fB_packR, fP_packR]

theorem RoundTrip.atomInc : ∀ sc d a b p, RoundTrip.Statement (.atomInc sc d a b p) := by
  intro sc d a b p _ _ rest _ h
  cases h
  refine ⟨_, _, rfl, rfl, ?_⟩
  show decodeMem _ rest (fOp _) = _
  simp (disch := decide) [decodeMem_29, fOp_packR, fSc_packR, fD_packR, fA_packR, fB_packR, fP_packR]

theorem RoundTrip.atomFadd : ∀ sc d a b p, RoundTrip.Statement (.atomFadd sc d a b p) := by
  intro sc d a b p _ _ rest _ h
  cases h
  refine ⟨_, _, rfl, rfl, ?_⟩
  show decodeMem _ rest (fOp _) = _
  simp (disch := decide) [decodeMem_30, fOp_packR, fSc_packR, fD_packR, fA_packR, fB_packR, fP_packR]

theorem RoundTrip.redAdd : ∀ sc a b p, RoundTrip.Statement (.redAdd sc a b p) := by
  intro sc a b p _ _ rest _ h
  cases h
  refine ⟨_, _, rfl, rfl, ?_⟩
  show decodeMem _ rest (fOp _) = _
  simp (disch := decide) [decodeMem_31, fOp_packR, fSc_packR, fD_packR, fA_packR, fB_packR, fP_packR, rsv]

theorem RoundTrip.redMin : ∀ sc a b p, RoundTrip.Statement (.redMin sc a b p) := by
  intro sc a b p _ _ rest _ h
  cases h
  refine ⟨_, _, rfl, rfl, ?_⟩
  show decodeMem _ rest (fOp _) = _
  simp (disch := decide) [decodeMem_32, fOp_packR, fSc_packR, fD_packR, fA_packR, fB_packR, fP_packR, rsv]

theorem RoundTrip.redMax : ∀ sc a b p, RoundTrip.Statement (.redMax sc a b p) := by
  intro sc a b p _ _ rest _ h
  cases h
  refine ⟨_, _, rfl, rfl, ?_⟩
  show decodeMem _ rest (fOp _) = _
  simp (disch := decide) [decodeMem_33, fOp_packR, fSc_packR, fD_packR, fA_packR, fB_packR, fP_packR, rsv]

theorem RoundTrip.redAnd : ∀ sc a b p, RoundTrip.Statement (.redAnd sc a b p) := by
  intro sc a b p _ _ rest _ h
  cases h
  refine ⟨_, _, rfl, rfl, ?_⟩
  show decodeMem _ rest (fOp _) = _
  simp (disch := decide) [decodeMem_34, fOp_packR, fSc_packR, fD_packR, fA_packR, fB_packR, fP_packR, rsv]

theorem RoundTrip.redOr : ∀ sc a b p, RoundTrip.Statement (.redOr sc a b p) := by
  intro sc a b p _ _ rest _ h
  cases h
  refine ⟨_, _, rfl, rfl, ?_⟩
  show decodeMem _ rest (fOp _) = _
  simp (disch := decide) [decodeMem_35, fOp_packR, fSc_packR, fD_packR, fA_packR, fB_packR, fP_packR, rsv]

theorem RoundTrip.redXor : ∀ sc a b p, RoundTrip.Statement (.redXor sc a b p) := by
  intro sc a b p _ _ rest _ h
  cases h
  refine ⟨_, _, rfl, rfl, ?_⟩
  show decodeMem _ rest (fOp _) = _
  simp (disch := decide) [decodeMem_36, fOp_packR, fSc_packR, fD_packR, fA_packR, fB_packR, fP_packR, rsv]

theorem RoundTrip.redFadd : ∀ sc a b p, RoundTrip.Statement (.redFadd sc a b p) := by
  intro sc a b p _ _ rest _ h
  cases h
  refine ⟨_, _, rfl, rfl, ?_⟩
  show decodeMem _ rest (fOp _) = _
  simp (disch := decide) [decodeMem_37, fOp_packR, fSc_packR, fD_packR, fA_packR, fB_packR, fP_packR, rsv]

theorem RoundTrip.bind : ∀ sc a p, RoundTrip.Statement (.bind sc a p) := by
  intro sc a p _ _ rest _ h
  cases h
  refine ⟨_, _, rfl, rfl, ?_⟩
  show decodeMem _ rest (fOp _) = _
  simp (disch := decide) [decodeMem_38, fOp_packR, fSc_packR, fD_packR, fA_packR, fB_packR, fP_packR, rsv]

theorem RoundTrip.unbind : ∀ sc a p, RoundTrip.Statement (.unbind sc a p) := by
  intro sc a p _ _ rest _ h
  cases h
  refine ⟨_, _, rfl, rfl, ?_⟩
  show decodeMem _ rest (fOp _) = _
  simp (disch := decide) [decodeMem_39, fOp_packR, fSc_packR, fD_packR, fA_packR, fB_packR, fP_packR, rsv]

theorem RoundTrip.acq : ∀ sc a m, RoundTrip.Statement (.acq sc a m) := by
  intro sc a m _ _ rest _ h
  cases h
  refine ⟨_, _, rfl, rfl, ?_⟩
  show decodeMem _ rest (fOp _) = _
  simp (disch := decide) [decodeMem_40, fOp_packI, fSc_packI, fD_packI, fA_packI, fI_packI, rsv, part_4_6_at_6, part_4_6_at_0]

theorem RoundTrip.rel : ∀ sc a m, RoundTrip.Statement (.rel sc a m) := by
  intro sc a m _ _ rest _ h
  cases h
  refine ⟨_, _, rfl, rfl, ?_⟩
  show decodeMem _ rest (fOp _) = _
  simp (disch := decide) [decodeMem_41, fOp_packI, fSc_packI, fD_packI, fA_packI, fI_packI, rsv, part_4_6_at_6, part_4_6_at_0]

theorem RoundTrip.gateAcq : ∀ sc a, RoundTrip.Statement (.gateAcq sc a) := by
  intro sc a _ _ rest _ h
  cases h
  refine ⟨_, _, rfl, rfl, ?_⟩
  show decodeMem _ rest (fOp _) = _
  simp (disch := decide) [decodeMem_42, fOp_packI, fSc_packI, fD_packI, fA_packI, fI_packI, rsv]

theorem RoundTrip.gateTry : ∀ sc pd a p, RoundTrip.Statement (.gateTry sc pd a p) := by
  intro sc pd a p _ _ rest _ h
  cases h
  refine ⟨_, _, rfl, rfl, ?_⟩
  show decodeMem _ rest (fOp _) = _
  simp (disch := decide) [decodeMem_43, fOp_packR, fSc_packR, fD_packR, fA_packR, fB_packR, fP_packR, rsv, part_4_3_at_3, part_4_3_at_0]

theorem RoundTrip.gateRel : ∀ sc a, RoundTrip.Statement (.gateRel sc a) := by
  intro sc a _ _ rest _ h
  cases h
  refine ⟨_, _, rfl, rfl, ?_⟩
  show decodeMem _ rest (fOp _) = _
  simp (disch := decide) [decodeMem_44, fOp_packI, fSc_packI, fD_packI, fA_packI, fI_packI, rsv]

theorem RoundTrip.sigLd : ∀ sc d a p, RoundTrip.Statement (.sigLd sc d a p) := by
  intro sc d a p _ _ rest _ h
  cases h
  refine ⟨_, _, rfl, rfl, ?_⟩
  show decodeMem _ rest (fOp _) = _
  simp (disch := decide) [decodeMem_45, fOp_packR, fSc_packR, fD_packR, fA_packR, fB_packR, fP_packR, rsv]

theorem RoundTrip.sigSt : ∀ sc d a p, RoundTrip.Statement (.sigSt sc d a p) := by
  intro sc d a p _ _ rest _ h
  cases h
  refine ⟨_, _, rfl, rfl, ?_⟩
  show decodeMem _ rest (fOp _) = _
  simp (disch := decide) [decodeMem_46, fOp_packR, fSc_packR, fD_packR, fA_packR, fB_packR, fP_packR, rsv]

theorem RoundTrip.sigAdd : ∀ sc d a b p, RoundTrip.Statement (.sigAdd sc d a b p) := by
  intro sc d a b p _ _ rest _ h
  cases h
  refine ⟨_, _, rfl, rfl, ?_⟩
  show decodeMem _ rest (fOp _) = _
  simp (disch := decide) [decodeMem_47, fOp_packR, fSc_packR, fD_packR, fA_packR, fB_packR, fP_packR]

theorem RoundTrip.sigCas : ∀ sc d a b p, RoundTrip.Statement (.sigCas sc d a b p) := by
  intro sc d a b p _ _ rest _ h
  cases h
  refine ⟨_, _, rfl, rfl, ?_⟩
  show decodeMem _ rest (fOp _) = _
  simp (disch := decide) [decodeMem_48, fOp_packR, fSc_packR, fD_packR, fA_packR, fB_packR, fP_packR]

theorem RoundTrip.sigWait : ∀ sc d a b p, RoundTrip.Statement (.sigWait sc d a b p) := by
  intro sc d a b p _ _ rest _ h
  cases h
  refine ⟨_, _, rfl, rfl, ?_⟩
  show decodeMem _ rest (fOp _) = _
  simp (disch := decide) [decodeMem_49, fOp_packR, fSc_packR, fD_packR, fA_packR, fB_packR, fP_packR]

theorem RoundTrip.fence : ∀ sc f, RoundTrip.Statement (.fence sc f) := by
  intro sc f _ _ rest _ h
  cases h
  refine ⟨_, _, rfl, rfl, ?_⟩
  show decodeMem _ rest (fOp _) = _
  simp (disch := decide) [decodeMem_50, fOp_packI, fSc_packI, fD_packI, fA_packI, fI_packI, rsv, part_9_1_at_1, part_9_1_at_0]

theorem RoundTrip.xfence : ∀ sc x y, RoundTrip.Statement (.xfence sc x y) := by
  intro sc x y _ _ rest _ h
  cases h
  refine ⟨_, _, rfl, rfl, ?_⟩
  show decodeMem _ rest (fOp _) = _
  simp (disch := decide) [decodeMem_51, fOp_packI, fSc_packI, fD_packI, fA_packI, fI_packI, rsv, part_1_6_at_6, part_1_6_at_0, part_4_6_at_6, part_4_6_at_0]

theorem RoundTrip.cflush : ∀ sc a b p, RoundTrip.Statement (.cflush sc a b p) := by
  intro sc a b p _ _ rest _ h
  cases h
  refine ⟨_, _, rfl, rfl, ?_⟩
  show decodeMem _ rest (fOp _) = _
  simp (disch := decide) [decodeMem_52, fOp_packR, fSc_packR, fD_packR, fA_packR, fB_packR, fP_packR, rsv]

theorem RoundTrip.cinv : ∀ sc a b p, RoundTrip.Statement (.cinv sc a b p) := by
  intro sc a b p _ _ rest _ h
  cases h
  refine ⟨_, _, rfl, rfl, ?_⟩
  show decodeMem _ rest (fOp _) = _
  simp (disch := decide) [decodeMem_53, fOp_packR, fSc_packR, fD_packR, fA_packR, fB_packR, fP_packR, rsv]

theorem RoundTrip.prefetch : ∀ sc a off p, RoundTrip.Statement (.prefetch sc a off p) := by
  intro sc a off p _ _ rest _ h
  cases h
  refine ⟨_, _, rfl, rfl, ?_⟩
  show decodeMem _ rest (fOp _) = _
  simp (disch := decide) [decodeMem_54, fOp_packR, fSc_packR, fD_packR, fA_packR, fB_packR, fP_packR, rsv]

theorem RoundTrip.mmaT8 : ∀ sc d a b p, RoundTrip.Statement (.mmaT8 sc d a b p) := by
  intro sc d a b p _ _ rest _ h
  cases h
  refine ⟨_, _, rfl, rfl, ?_⟩
  show decodeMtx _ _ (fOp _) = _
  simp (disch := decide) [decodeMtx_0, fOp_packR, fSc_packR, fD_packR, fA_packR, fB_packR, fP_packR]

theorem RoundTrip.mmaI8 : ∀ sc d a b p, RoundTrip.Statement (.mmaI8 sc d a b p) := by
  intro sc d a b p _ _ rest _ h
  cases h
  refine ⟨_, _, rfl, rfl, ?_⟩
  show decodeMtx _ _ (fOp _) = _
  simp (disch := decide) [decodeMtx_1, fOp_packR, fSc_packR, fD_packR, fA_packR, fB_packR, fP_packR]

theorem RoundTrip.mmaE4 : ∀ sc d a b p, RoundTrip.Statement (.mmaE4 sc d a b p) := by
  intro sc d a b p _ _ rest _ h
  cases h
  refine ⟨_, _, rfl, rfl, ?_⟩
  show decodeMtx _ _ (fOp _) = _
  simp (disch := decide) [decodeMtx_2, fOp_packR, fSc_packR, fD_packR, fA_packR, fB_packR, fP_packR]

theorem RoundTrip.mmaE5 : ∀ sc d a b p, RoundTrip.Statement (.mmaE5 sc d a b p) := by
  intro sc d a b p _ _ rest _ h
  cases h
  refine ⟨_, _, rfl, rfl, ?_⟩
  show decodeMtx _ _ (fOp _) = _
  simp (disch := decide) [decodeMtx_3, fOp_packR, fSc_packR, fD_packR, fA_packR, fB_packR, fP_packR]

theorem RoundTrip.mmaBf : ∀ sc d a b p, RoundTrip.Statement (.mmaBf sc d a b p) := by
  intro sc d a b p _ _ rest _ h
  cases h
  refine ⟨_, _, rfl, rfl, ?_⟩
  show decodeMtx _ _ (fOp _) = _
  simp (disch := decide) [decodeMtx_4, fOp_packR, fSc_packR, fD_packR, fA_packR, fB_packR, fP_packR]

theorem RoundTrip.mmaH : ∀ sc d a b p, RoundTrip.Statement (.mmaH sc d a b p) := by
  intro sc d a b p _ _ rest _ h
  cases h
  refine ⟨_, _, rfl, rfl, ?_⟩
  show decodeMtx _ _ (fOp _) = _
  simp (disch := decide) [decodeMtx_5, fOp_packR, fSc_packR, fD_packR, fA_packR, fB_packR, fP_packR]

theorem RoundTrip.mmaF32 : ∀ sc d a b p, RoundTrip.Statement (.mmaF32 sc d a b p) := by
  intro sc d a b p _ _ rest _ h
  cases h
  refine ⟨_, _, rfl, rfl, ?_⟩
  show decodeMtx _ _ (fOp _) = _
  simp (disch := decide) [decodeMtx_6, fOp_packR, fSc_packR, fD_packR, fA_packR, fB_packR, fP_packR]

theorem RoundTrip.mmaT8s : ∀ sc d a b p lit, RoundTrip.Statement (.mmaT8s sc d a b p lit) := by
  intro sc d a b p lit _ _ rest _ h
  cases h
  refine ⟨_, _, rfl, rfl, ?_⟩
  show decodeMtx _ _ (fOp _) = _
  simp (disch := decide) [decodeMtx_7, fOp_packR, fSc_packR, fD_packR, fA_packR, fB_packR, fP_packR, lit1, List.cons_append]

theorem RoundTrip.mmaI8s : ∀ sc d a b p lit, RoundTrip.Statement (.mmaI8s sc d a b p lit) := by
  intro sc d a b p lit _ _ rest _ h
  cases h
  refine ⟨_, _, rfl, rfl, ?_⟩
  show decodeMtx _ _ (fOp _) = _
  simp (disch := decide) [decodeMtx_8, fOp_packR, fSc_packR, fD_packR, fA_packR, fB_packR, fP_packR, lit1, List.cons_append]

theorem RoundTrip.wload : ∀ sc d a b p, RoundTrip.Statement (.wload sc d a b p) := by
  intro sc d a b p _ _ rest _ h
  cases h
  refine ⟨_, _, rfl, rfl, ?_⟩
  show decodeMtx _ _ (fOp _) = _
  simp (disch := decide) [decodeMtx_9, fOp_packR, fSc_packR, fD_packR, fA_packR, fB_packR, fP_packR]

theorem RoundTrip.accZero : ∀ sc a p, RoundTrip.Statement (.accZero sc a p) := by
  intro sc a p _ _ rest _ h
  cases h
  refine ⟨_, _, rfl, rfl, ?_⟩
  show decodeMtx _ _ (fOp _) = _
  simp (disch := decide) [decodeMtx_10, fOp_packR, fSc_packR, fD_packR, fA_packR, fB_packR, fP_packR, rsv]

theorem RoundTrip.accRd : ∀ sc d a p, RoundTrip.Statement (.accRd sc d a p) := by
  intro sc d a p _ _ rest _ h
  cases h
  refine ⟨_, _, rfl, rfl, ?_⟩
  show decodeMtx _ _ (fOp _) = _
  simp (disch := decide) [decodeMtx_11, fOp_packR, fSc_packR, fD_packR, fA_packR, fB_packR, fP_packR, rsv]

theorem RoundTrip.accWr : ∀ sc d a p, RoundTrip.Statement (.accWr sc d a p) := by
  intro sc d a p _ _ rest _ h
  cases h
  refine ⟨_, _, rfl, rfl, ?_⟩
  show decodeMtx _ _ (fOp _) = _
  simp (disch := decide) [decodeMtx_12, fOp_packR, fSc_packR, fD_packR, fA_packR, fB_packR, fP_packR, rsv]

theorem RoundTrip.accScale : ∀ sc a b p, RoundTrip.Statement (.accScale sc a b p) := by
  intro sc a b p _ _ rest _ h
  cases h
  refine ⟨_, _, rfl, rfl, ?_⟩
  show decodeMtx _ _ (fOp _) = _
  simp (disch := decide) [decodeMtx_13, fOp_packR, fSc_packR, fD_packR, fA_packR, fB_packR, fP_packR, rsv]

theorem RoundTrip.accCvtF32I32 : ∀ sc a p, RoundTrip.Statement (.accCvtF32I32 sc a p) := by
  intro sc a p _ _ rest _ h
  cases h
  refine ⟨_, _, rfl, rfl, ?_⟩
  show decodeMtx _ _ (fOp _) = _
  simp (disch := decide) [decodeMtx_14, fOp_packR, fSc_packR, fD_packR, fA_packR, fB_packR, fP_packR]

theorem RoundTrip.accCvtI32F32 : ∀ sc a p, RoundTrip.Statement (.accCvtI32F32 sc a p) := by
  intro sc a p _ _ rest _ h
  cases h
  refine ⟨_, _, rfl, rfl, ?_⟩
  show decodeMtx _ _ (fOp _) = _
  simp (disch := decide) [decodeMtx_14, fOp_packR, fSc_packR, fD_packR, fA_packR, fB_packR, fP_packR]

theorem RoundTrip.tstore : ∀ sc a p, RoundTrip.Statement (.tstore sc a p) := by
  intro sc a p _ _ rest _ h
  cases h
  refine ⟨_, _, rfl, rfl, ?_⟩
  show decodeMtx _ _ (fOp _) = _
  simp (disch := decide) [decodeMtx_15, fOp_packR, fSc_packR, fD_packR, fA_packR, fB_packR, fP_packR, rsv]

theorem RoundTrip.tstoreAdd : ∀ sc a p, RoundTrip.Statement (.tstoreAdd sc a p) := by
  intro sc a p _ _ rest _ h
  cases h
  refine ⟨_, _, rfl, rfl, ?_⟩
  show decodeMtx _ _ (fOp _) = _
  simp (disch := decide) [decodeMtx_16, fOp_packR, fSc_packR, fD_packR, fA_packR, fB_packR, fP_packR, rsv]

theorem RoundTrip.winset : ∀ sc a b p, RoundTrip.Statement (.winset sc a b p) := by
  intro sc a b p _ _ rest _ h
  cases h
  refine ⟨_, _, rfl, rfl, ?_⟩
  show decodeMtx _ _ (fOp _) = _
  simp (disch := decide) [decodeMtx_17, fOp_packR, fSc_packR, fD_packR, fA_packR, fB_packR, fP_packR, rsv]

theorem RoundTrip.winget : ∀ sc d a p, RoundTrip.Statement (.winget sc d a p) := by
  intro sc d a p _ _ rest _ h
  cases h
  refine ⟨_, _, rfl, rfl, ?_⟩
  show decodeMtx _ _ (fOp _) = _
  simp (disch := decide) [decodeMtx_18, fOp_packR, fSc_packR, fD_packR, fA_packR, fB_packR, fP_packR, rsv]

theorem RoundTrip.rowmax : ∀ sc d a p, RoundTrip.Statement (.rowmax sc d a p) := by
  intro sc d a p _ _ rest _ h
  cases h
  refine ⟨_, _, rfl, rfl, ?_⟩
  show decodeMtx _ _ (fOp _) = _
  simp (disch := decide) [decodeMtx_19, fOp_packR, fSc_packR, fD_packR, fA_packR, fB_packR, fP_packR, rsv]

theorem RoundTrip.rowsum : ∀ sc d a p, RoundTrip.Statement (.rowsum sc d a p) := by
  intro sc d a p _ _ rest _ h
  cases h
  refine ⟨_, _, rfl, rfl, ?_⟩
  show decodeMtx _ _ (fOp _) = _
  simp (disch := decide) [decodeMtx_20, fOp_packR, fSc_packR, fD_packR, fA_packR, fB_packR, fP_packR, rsv]

theorem RoundTrip.copy : ∀ sc a p, RoundTrip.Statement (.copy sc a p) := by
  intro sc a p _ _ rest _ h
  cases h
  refine ⟨_, _, rfl, rfl, ?_⟩
  show decodeAsync _ _ (fOp _) = _
  simp (disch := decide) [decodeAsync_0, fOp_packR, fSc_packR, fD_packR, fA_packR, fB_packR, fP_packR, rsv]

theorem RoundTrip.copyX24 : ∀ sc a p, RoundTrip.Statement (.copyX24 sc a p) := by
  intro sc a p _ _ rest _ h
  cases h
  refine ⟨_, _, rfl, rfl, ?_⟩
  show decodeAsync _ _ (fOp _) = _
  simp (disch := decide) [decodeAsync_1, fOp_packR, fSc_packR, fD_packR, fA_packR, fB_packR, fP_packR, rsv]

theorem RoundTrip.filLoad : ∀ sc a p lit, RoundTrip.Statement (.filLoad sc a p lit) := by
  intro sc a p lit _ _ rest _ h
  cases h
  refine ⟨_, _, rfl, rfl, ?_⟩
  show decodeAsync _ _ (fOp _) = _
  simp (disch := decide) [decodeAsync_2, fOp_packR, fSc_packR, fD_packR, fA_packR, fB_packR, fP_packR, rsv, lit1, List.cons_append]

theorem RoundTrip.filRun : ∀ sc b p, RoundTrip.Statement (.filRun sc b p) := by
  intro sc b p _ _ rest _ h
  cases h
  refine ⟨_, _, rfl, rfl, ?_⟩
  show decodeAsync _ _ (fOp _) = _
  simp (disch := decide) [decodeAsync_3, fOp_packR, fSc_packR, fD_packR, fA_packR, fB_packR, fP_packR, rsv]

theorem RoundTrip.filStop : ∀ sc b p, RoundTrip.Statement (.filStop sc b p) := by
  intro sc b p _ _ rest _ h
  cases h
  refine ⟨_, _, rfl, rfl, ?_⟩
  show decodeAsync _ _ (fOp _) = _
  simp (disch := decide) [decodeAsync_4, fOp_packR, fSc_packR, fD_packR, fA_packR, fB_packR, fP_packR, rsv]

theorem RoundTrip.qcfg : ∀ sc a q en sgn z l, RoundTrip.Statement (.qcfg sc a q en sgn z l) := by
  intro sc a q en sgn z l _ _ rest _ h
  cases h
  refine ⟨_, _, rfl, rfl, ?_⟩
  show decodeAsync _ _ (fOp _) = _
  simp (disch := decide) [decodeAsync_5, fOp_packI, fSc_packI, fD_packI, fA_packI, fI_packI, rsv, part_2_1_1_2_1_3_at_8, part_2_1_1_2_1_3_at_7, part_2_1_1_2_1_3_at_6, part_2_1_1_2_1_3_at_4, part_2_1_1_2_1_3_at_3, part_2_1_1_2_1_3_at_0]

theorem RoundTrip.qstat : ∀ sc d q, RoundTrip.Statement (.qstat sc d q) := by
  intro sc d q _ _ rest _ h
  cases h
  refine ⟨_, _, rfl, rfl, ?_⟩
  show decodeAsync _ _ (fOp _) = _
  simp (disch := decide) [decodeAsync_6, fOp_packI, fSc_packI, fD_packI, fA_packI, fI_packI, rsv, part_8_2_at_2, part_8_2_at_0]

theorem RoundTrip.gnode : ∀ sc d a p lit, RoundTrip.Statement (.gnode sc d a p lit) := by
  intro sc d a p lit _ _ rest _ h
  cases h
  refine ⟨_, _, rfl, rfl, ?_⟩
  show decodeAsync _ _ (fOp _) = _
  simp (disch := decide) [decodeAsync_7, fOp_packR, fSc_packR, fD_packR, fA_packR, fB_packR, fP_packR, rsv, lit1, List.cons_append]

theorem RoundTrip.gedge : ∀ sc a b p, RoundTrip.Statement (.gedge sc a b p) := by
  intro sc a b p _ _ rest _ h
  cases h
  refine ⟨_, _, rfl, rfl, ?_⟩
  show decodeAsync _ _ (fOp _) = _
  simp (disch := decide) [decodeAsync_8, fOp_packR, fSc_packR, fD_packR, fA_packR, fB_packR, fP_packR, rsv]

theorem RoundTrip.garm : ∀ sc p, RoundTrip.Statement (.garm sc p) := by
  intro sc p _ _ rest _ h
  cases h
  refine ⟨_, _, rfl, rfl, ?_⟩
  show decodeAsync _ _ (fOp _) = _
  simp (disch := decide) [decodeAsync_9, fOp_packR, fSc_packR, fD_packR, fA_packR, fB_packR, fP_packR]

theorem RoundTrip.garmClr : ∀ sc p, RoundTrip.Statement (.garmClr sc p) := by
  intro sc p _ _ rest _ h
  cases h
  refine ⟨_, _, rfl, rfl, ?_⟩
  show decodeAsync _ _ (fOp _) = _
  simp (disch := decide) [decodeAsync_9, fOp_packR, fSc_packR, fD_packR, fA_packR, fB_packR, fP_packR]

theorem RoundTrip.gwait : ∀ sc p, RoundTrip.Statement (.gwait sc p) := by
  intro sc p _ _ rest _ h
  cases h
  refine ⟨_, _, rfl, rfl, ?_⟩
  show decodeAsync _ _ (fOp _) = _
  simp (disch := decide) [decodeAsync_10, fOp_packR, fSc_packR, fD_packR, fA_packR, fB_packR, fP_packR, rsv]

theorem RoundTrip.gset : ∀ sc v g, RoundTrip.Statement (.gset sc v g) := by
  intro sc v g _ _ rest _ h
  cases h
  refine ⟨_, _, rfl, rfl, ?_⟩
  show decodeAsync _ _ (fOp _) = _
  simp (disch := decide) [decodeAsync_11, fOp_packR, fSc_packR, fD_packR, fA_packR, fB_packR, fP_packR, rsv, part_5_2_at_2, part_5_2_at_0]

theorem RoundTrip.engStat : ∀ sc d n, RoundTrip.Statement (.engStat sc d n) := by
  intro sc d n _ _ rest _ h
  cases h
  refine ⟨_, _, rfl, rfl, ?_⟩
  show decodeAsync _ _ (fOp _) = _
  simp (disch := decide) [decodeAsync_12, fOp_packI, fSc_packI, fD_packI, fA_packI, fI_packI, rsv]

theorem RoundTrip.nop : ∀ sc p, RoundTrip.Statement (.nop sc p) := by
  intro sc p _ _ rest _ h
  cases h
  refine ⟨_, _, rfl, rfl, ?_⟩
  show decodeCtrl _ _ (fOp _) = _
  simp (disch := decide) [decodeCtrl_0, fOp_packR, fSc_packR, fD_packR, fA_packR, fB_packR, fP_packR, rsv]

theorem RoundTrip.bra : ∀ sc off, RoundTrip.Statement (.bra sc off) := by
  intro sc off _ _ rest _ h
  cases h
  refine ⟨_, _, rfl, rfl, ?_⟩
  show decodeCtrl _ _ (fOp _) = _
  simp (disch := decide) [decodeCtrl_1, fOp_packB, fSc_packB, fO_packB]

theorem RoundTrip.brm : ∀ sc lits, RoundTrip.Statement (.brm sc lits) := by
  intro sc lits q c rest hw hc
  cases hc
  simp only [Instr.wf, Instr.opOk, Bool.and_eq_true] at hw
  obtain ⟨⟨⟨hn, -⟩, -⟩, -⟩ := hw
  simp only [Instr.codesOk, Bool.and_eq_true, decide_eq_true_eq] at hn
  obtain ⟨h1, h4⟩ := hn
  have hl : (BitVec.ofNat 7 lits.length).toNat = lits.length := by rw [BitVec.toNat_ofNat]; omega
  refine ⟨_, _, rfl, rfl, ?_⟩
  show decodeCtrl _ _ (fOp _) = _
  simp (disch := decide) [decodeCtrl_2, decodeBrm, fOp_packR, fSc_packR, fD_packR, fA_packR, fB_packR, fP_packR, hl, h1, h4, List.take_left]

theorem RoundTrip.call : ∀ sc off, RoundTrip.Statement (.call sc off) := by
  intro sc off _ _ rest _ h
  cases h
  refine ⟨_, _, rfl, rfl, ?_⟩
  show decodeCtrl _ _ (fOp _) = _
  simp (disch := decide) [decodeCtrl_3, fOp_packB, fSc_packB, fO_packB]

theorem RoundTrip.callI : ∀ sc a p, RoundTrip.Statement (.callI sc a p) := by
  intro sc a p _ _ rest _ h
  cases h
  refine ⟨_, _, rfl, rfl, ?_⟩
  show decodeCtrl _ _ (fOp _) = _
  simp (disch := decide) [decodeCtrl_4, fOp_packR, fSc_packR, fD_packR, fA_packR, fB_packR, fP_packR, rsv]

theorem RoundTrip.ret : ∀ sc p, RoundTrip.Statement (.ret sc p) := by
  intro sc p _ _ rest _ h
  cases h
  refine ⟨_, _, rfl, rfl, ?_⟩
  show decodeCtrl _ _ (fOp _) = _
  simp (disch := decide) [decodeCtrl_5, fOp_packR, fSc_packR, fD_packR, fA_packR, fB_packR, fP_packR, rsv]

theorem RoundTrip.exit : ∀ sc p, RoundTrip.Statement (.exit sc p) := by
  intro sc p _ _ rest _ h
  cases h
  refine ⟨_, _, rfl, rfl, ?_⟩
  show decodeCtrl _ _ (fOp _) = _
  simp (disch := decide) [decodeCtrl_6, fOp_packR, fSc_packR, fD_packR, fA_packR, fB_packR, fP_packR, rsv]

theorem RoundTrip.jinit : ∀ sc d p, RoundTrip.Statement (.jinit sc d p) := by
  intro sc d p _ _ rest _ h
  cases h
  refine ⟨_, _, rfl, rfl, ?_⟩
  show decodeCtrl _ _ (fOp _) = _
  simp (disch := decide) [decodeCtrl_7, fOp_packR, fSc_packR, fD_packR, fA_packR, fB_packR, fP_packR, rsv]

theorem RoundTrip.jwait : ∀ sc d p, RoundTrip.Statement (.jwait sc d p) := by
  intro sc d p _ _ rest _ h
  cases h
  refine ⟨_, _, rfl, rfl, ?_⟩
  show decodeCtrl _ _ (fOp _) = _
  simp (disch := decide) [decodeCtrl_8, fOp_packR, fSc_packR, fD_packR, fA_packR, fB_packR, fP_packR, rsv]

theorem RoundTrip.jleave : ∀ sc l, RoundTrip.Statement (.jleave sc l) := by
  intro sc l _ _ rest _ h
  cases h
  refine ⟨_, _, rfl, rfl, ?_⟩
  show decodeCtrl _ _ (fOp _) = _
  simp (disch := decide) [decodeCtrl_9, fOp_packI, fSc_packI, fD_packI, fA_packI, fI_packI, rsv, part_2_8_at_8, part_2_8_at_0]

theorem RoundTrip.brk : ∀ sc j p lit, RoundTrip.Statement (.brk sc j p lit) := by
  intro sc j p lit _ _ rest _ h
  cases h
  refine ⟨_, _, rfl, rfl, ?_⟩
  show decodeCtrl _ _ (fOp _) = _
  simp (disch := decide) [decodeCtrl_10, fOp_packJ, fSc_packJ, fJ_packJ, fP_packJ, fJ0_packJ, rsv, lit1, List.cons_append]

theorem RoundTrip.barSync : ∀ sc b, RoundTrip.Statement (.barSync sc b) := by
  intro sc b _ _ rest _ h
  cases h
  refine ⟨_, _, rfl, rfl, ?_⟩
  show decodeCtrl _ _ (fOp _) = _
  simp (disch := decide) [decodeCtrl_11, fOp_packI, fSc_packI, fD_packI, fA_packI, fI_packI, rsv]

theorem RoundTrip.barArrive : ∀ sc b, RoundTrip.Statement (.barArrive sc b) := by
  intro sc b _ _ rest _ h
  cases h
  refine ⟨_, _, rfl, rfl, ?_⟩
  show decodeCtrl _ _ (fOp _) = _
  simp (disch := decide) [decodeCtrl_12, fOp_packI, fSc_packI, fD_packI, fA_packI, fI_packI, rsv]

theorem RoundTrip.barWait : ∀ sc b, RoundTrip.Statement (.barWait sc b) := by
  intro sc b _ _ rest _ h
  cases h
  refine ⟨_, _, rfl, rfl, ?_⟩
  show decodeCtrl _ _ (fOp _) = _
  simp (disch := decide) [decodeCtrl_13, fOp_packI, fSc_packI, fD_packI, fA_packI, fI_packI, rsv]

theorem RoundTrip.barInit : ∀ sc b, RoundTrip.Statement (.barInit sc b) := by
  intro sc b _ _ rest _ h
  cases h
  refine ⟨_, _, rfl, rfl, ?_⟩
  show decodeCtrl _ _ (fOp _) = _
  simp (disch := decide) [decodeCtrl_14, fOp_packI, fSc_packI, fD_packI, fA_packI, fI_packI, rsv]

theorem RoundTrip.shfl : ∀ sc d a b p, RoundTrip.Statement (.shfl sc d a b p) := by
  intro sc d a b p _ _ rest _ h
  cases h
  refine ⟨_, _, rfl, rfl, ?_⟩
  show decodeCtrl _ _ (fOp _) = _
  simp (disch := decide) [decodeCtrl_15, fOp_packR, fSc_packR, fD_packR, fA_packR, fB_packR, fP_packR]

theorem RoundTrip.vote : ∀ sc c pd na pa b p, RoundTrip.Statement (.vote sc c pd na pa b p) := by
  intro sc c pd na pa b p _ _ rest _ h
  cases h
  refine ⟨_, _, rfl, rfl, ?_⟩
  show decodeCtrl _ _ (fOp _) = _
  simp (disch := decide) [decodeCtrl_16, fOp_packR, fSc_packR, fD_packR, fA_packR, fB_packR, fP_packR, rsv, part_3_1_3_at_4, part_3_1_3_at_3, part_3_1_3_at_0]

theorem RoundTrip.redux : ∀ sc d a f p, RoundTrip.Statement (.redux sc d a f p) := by
  intro sc d a f p _ _ rest _ h
  cases h
  refine ⟨_, _, rfl, rfl, ?_⟩
  show decodeCtrl _ _ (fOp _) = _
  simp (disch := decide) [decodeCtrl_17, fOp_packR, fSc_packR, fD_packR, fA_packR, fB_packR, fP_packR]

theorem RoundTrip.scan : ∀ sc d a f p, RoundTrip.Statement (.scan sc d a f p) := by
  intro sc d a f p _ _ rest _ h
  cases h
  refine ⟨_, _, rfl, rfl, ?_⟩
  show decodeCtrl _ _ (fOp _) = _
  simp (disch := decide) [decodeCtrl_18, fOp_packR, fSc_packR, fD_packR, fA_packR, fB_packR, fP_packR]

theorem RoundTrip.setdecl : ∀ sc a p lit, RoundTrip.Statement (.setdecl sc a p lit) := by
  intro sc a p lit _ _ rest _ h
  cases h
  refine ⟨_, _, rfl, rfl, ?_⟩
  show decodeCtrl _ _ (fOp _) = _
  simp (disch := decide) [decodeCtrl_19, fOp_packR, fSc_packR, fD_packR, fA_packR, fB_packR, fP_packR, rsv, lit1, List.cons_append]

theorem RoundTrip.quota : ∀ sc x y n, RoundTrip.Statement (.quota sc x y n) := by
  intro sc x y n _ _ rest _ h
  cases h
  refine ⟨_, _, rfl, rfl, ?_⟩
  show decodeCtrl _ _ (fOp _) = _
  simp (disch := decide) [decodeCtrl_20, fOp_packI, fSc_packI, fD_packI, fA_packI, fI_packI, rsv, part_2_2_4_2_at_8, part_2_2_4_2_at_6, part_2_2_4_2_at_2, part_2_2_4_2_at_0]

theorem RoundTrip.tileNext : ∀ sc pd a p, RoundTrip.Statement (.tileNext sc pd a p) := by
  intro sc pd a p _ _ rest _ h
  cases h
  refine ⟨_, _, rfl, rfl, ?_⟩
  show decodeCtrl _ _ (fOp _) = _
  simp (disch := decide) [decodeCtrl_21, fOp_packR, fSc_packR, fD_packR, fA_packR, fB_packR, fP_packR, rsv, part_4_3_at_3, part_4_3_at_0]

theorem RoundTrip.spawn : ∀ sc d a b p, RoundTrip.Statement (.spawn sc d a b p) := by
  intro sc d a b p _ _ rest _ h
  cases h
  refine ⟨_, _, rfl, rfl, ?_⟩
  show decodeCtrl _ _ (fOp _) = _
  simp (disch := decide) [decodeCtrl_22, fOp_packR, fSc_packR, fD_packR, fA_packR, fB_packR, fP_packR]

theorem RoundTrip.yield : ∀ sc p, RoundTrip.Statement (.yield sc p) := by
  intro sc p _ _ rest _ h
  cases h
  refine ⟨_, _, rfl, rfl, ?_⟩
  show decodeCtrl _ _ (fOp _) = _
  simp (disch := decide) [decodeCtrl_23, fOp_packR, fSc_packR, fD_packR, fA_packR, fB_packR, fP_packR, rsv]

theorem RoundTrip.s2r : ∀ sc d n, RoundTrip.Statement (.s2r sc d n) := by
  intro sc d n _ _ rest _ h
  cases h
  refine ⟨_, _, rfl, rfl, ?_⟩
  show decodeCtrl _ _ (fOp _) = _
  simp (disch := decide) [decodeCtrl_24, fOp_packI, fSc_packI, fD_packI, fA_packI, fI_packI, rsv]

theorem RoundTrip.featq : ∀ sc d n, RoundTrip.Statement (.featq sc d n) := by
  intro sc d n _ _ rest _ h
  cases h
  refine ⟨_, _, rfl, rfl, ?_⟩
  show decodeCtrl _ _ (fOp _) = _
  simp (disch := decide) [decodeCtrl_25, fOp_packI, fSc_packI, fD_packI, fA_packI, fI_packI, rsv]

theorem RoundTrip.trap : ∀ sc c, RoundTrip.Statement (.trap sc c) := by
  intro sc c _ _ rest _ h
  cases h
  refine ⟨_, _, rfl, rfl, ?_⟩
  show decodeCtrl _ _ (fOp _) = _
  simp (disch := decide) [decodeCtrl_26, fOp_packI, fSc_packI, fD_packI, fA_packI, fI_packI, rsv]

theorem RoundTrip.spawnSpec : ∀ sc d a b p, RoundTrip.Statement (.spawnSpec sc d a b p) := by
  intro sc d a b p _ _ rest _ h
  cases h
  refine ⟨_, _, rfl, rfl, ?_⟩
  show decodeCtrl _ _ (fOp _) = _
  simp (disch := decide) [decodeCtrl_27, fOp_packR, fSc_packR, fD_packR, fA_packR, fB_packR, fP_packR]

theorem RoundTrip.specOp : ∀ sc d a b p lit, RoundTrip.Statement (.specOp sc d a b p lit) := by
  intro sc d a b p lit _ _ rest _ h
  cases h
  refine ⟨_, _, rfl, rfl, ?_⟩
  show decodeCtrl _ _ (fOp _) = _
  simp (disch := decide) [decodeCtrl_28, fOp_packR, fSc_packR, fD_packR, fA_packR, fB_packR, fP_packR, lit1, List.cons_append]

theorem RoundTrip.specEnd : ∀ sc p, RoundTrip.Statement (.specEnd sc p) := by
  intro sc p _ _ rest _ h
  cases h
  refine ⟨_, _, rfl, rfl, ?_⟩
  show decodeCtrl _ _ (fOp _) = _
  simp (disch := decide) [decodeCtrl_29, fOp_packR, fSc_packR, fD_packR, fA_packR, fB_packR, fP_packR, rsv]

theorem RoundTrip.specCommit : ∀ sc p, RoundTrip.Statement (.specCommit sc p) := by
  intro sc p _ _ rest _ h
  cases h
  refine ⟨_, _, rfl, rfl, ?_⟩
  show decodeCtrl _ _ (fOp _) = _
  simp (disch := decide) [decodeCtrl_30, fOp_packR, fSc_packR, fD_packR, fA_packR, fB_packR, fP_packR, rsv]

theorem RoundTrip.specAbort : ∀ sc p, RoundTrip.Statement (.specAbort sc p) := by
  intro sc p _ _ rest _ h
  cases h
  refine ⟨_, _, rfl, rfl, ?_⟩
  show decodeCtrl _ _ (fOp _) = _
  simp (disch := decide) [decodeCtrl_31, fOp_packR, fSc_packR, fD_packR, fA_packR, fB_packR, fP_packR, rsv]

theorem RoundTrip.specDrain : ∀ sc p, RoundTrip.Statement (.specDrain sc p) := by
  intro sc p _ _ rest _ h
  cases h
  refine ⟨_, _, rfl, rfl, ?_⟩
  show decodeCtrl _ _ (fOp _) = _
  simp (disch := decide) [decodeCtrl_32, fOp_packR, fSc_packR, fD_packR, fA_packR, fB_packR, fP_packR, rsv]

theorem RoundTrip.specTable : ∀ sc a p, RoundTrip.Statement (.specTable sc a p) := by
  intro sc a p _ _ rest _ h
  cases h
  refine ⟨_, _, rfl, rfl, ?_⟩
  show decodeCtrl _ _ (fOp _) = _
  simp (disch := decide) [decodeCtrl_33, fOp_packR, fSc_packR, fD_packR, fA_packR, fB_packR, fP_packR, rsv]

theorem RoundTrip.brx : ∀ sc d a b p, RoundTrip.Statement (.brx sc d a b p) := by
  intro sc d a b p _ _ rest _ h
  cases h
  refine ⟨_, _, rfl, rfl, ?_⟩
  show decodeCtrl _ _ (fOp _) = _
  simp (disch := decide) [decodeCtrl_34, fOp_packR, fSc_packR, fD_packR, fA_packR, fB_packR, fP_packR]

theorem RoundTrip.primEmit : ∀ sc a p, RoundTrip.Statement (.primEmit sc a p) := by
  intro sc a p _ _ rest _ h
  cases h
  refine ⟨_, _, rfl, rfl, ?_⟩
  show decodeGfx _ _ (fOp _) = _
  simp (disch := decide) [decodeGfx_0, fOp_packR, fSc_packR, fD_packR, fA_packR, fB_packR, fP_packR, rsv]

theorem RoundTrip.attrEmit : ∀ sc a v k p, RoundTrip.Statement (.attrEmit sc a v k p) := by
  intro sc a v k p _ _ rest _ h
  cases h
  refine ⟨_, _, rfl, rfl, ?_⟩
  show decodeGfx _ _ (fOp _) = _
  simp (disch := decide) [decodeGfx_1, fOp_packR, fSc_packR, fD_packR, fA_packR, fB_packR, fP_packR, rsv, part_2_1_4_at_5, part_2_1_4_at_4, part_2_1_4_at_0]

theorem RoundTrip.attrIn : ∀ sc d c p, RoundTrip.Statement (.attrIn sc d c p) := by
  intro sc d c p _ _ rest _ h
  cases h
  refine ⟨_, _, rfl, rfl, ?_⟩
  show decodeGfx _ _ (fOp _) = _
  simp (disch := decide) [decodeGfx_2, fOp_packR, fSc_packR, fD_packR, fA_packR, fB_packR, fP_packR, rsv]

theorem RoundTrip.texS : ∀ sc d a p lit, RoundTrip.Statement (.texS sc d a p lit) := by
  intro sc d a p lit _ _ rest _ h
  cases h
  refine ⟨_, _, rfl, rfl, ?_⟩
  show decodeGfx _ _ (fOp _) = _
  simp (disch := decide) [decodeGfx_3, fOp_packR, fSc_packR, fD_packR, fA_packR, fB_packR, fP_packR, rsv, lit1, List.cons_append]

theorem RoundTrip.texL : ∀ sc d a p lit, RoundTrip.Statement (.texL sc d a p lit) := by
  intro sc d a p lit _ _ rest _ h
  cases h
  refine ⟨_, _, rfl, rfl, ?_⟩
  show decodeGfx _ _ (fOp _) = _
  simp (disch := decide) [decodeGfx_4, fOp_packR, fSc_packR, fD_packR, fA_packR, fB_packR, fP_packR, rsv, lit1, List.cons_append]

theorem RoundTrip.texF : ∀ sc d a p lit, RoundTrip.Statement (.texF sc d a p lit) := by
  intro sc d a p lit _ _ rest _ h
  cases h
  refine ⟨_, _, rfl, rfl, ?_⟩
  show decodeGfx _ _ (fOp _) = _
  simp (disch := decide) [decodeGfx_5, fOp_packR, fSc_packR, fD_packR, fA_packR, fB_packR, fP_packR, rsv, lit1, List.cons_append]

theorem RoundTrip.texG : ∀ sc d a p lit, RoundTrip.Statement (.texG sc d a p lit) := by
  intro sc d a p lit _ _ rest _ h
  cases h
  refine ⟨_, _, rfl, rfl, ?_⟩
  show decodeGfx _ _ (fOp _) = _
  simp (disch := decide) [decodeGfx_6, fOp_packR, fSc_packR, fD_packR, fA_packR, fB_packR, fP_packR, rsv, lit1, List.cons_append]

theorem RoundTrip.tbLd : ∀ sc d w1 p, RoundTrip.Statement (.tbLd sc d w1 p) := by
  intro sc d w1 p _ _ rest _ h
  cases h
  refine ⟨_, _, rfl, rfl, ?_⟩
  show decodeGfx _ _ (fOp _) = _
  simp (disch := decide) [decodeGfx_7, fOp_packR, fSc_packR, fD_packR, fA_packR, fB_packR, fP_packR, rsv, part_6_1_at_1, part_6_1_at_0]

theorem RoundTrip.tbSt : ∀ sc a w1 p, RoundTrip.Statement (.tbSt sc a w1 p) := by
  intro sc a w1 p _ _ rest _ h
  cases h
  refine ⟨_, _, rfl, rfl, ?_⟩
  show decodeGfx _ _ (fOp _) = _
  simp (disch := decide) [decodeGfx_8, fOp_packR, fSc_packR, fD_packR, fA_packR, fB_packR, fP_packR, rsv, part_6_1_at_1, part_6_1_at_0]

theorem RoundTrip.tbBlend : ∀ sc a p, RoundTrip.Statement (.tbBlend sc a p) := by
  intro sc a p _ _ rest _ h
  cases h
  refine ⟨_, _, rfl, rfl, ?_⟩
  show decodeGfx _ _ (fOp _) = _
  simp (disch := decide) [decodeGfx_9, fOp_packR, fSc_packR, fD_packR, fA_packR, fB_packR, fP_packR, rsv]

theorem RoundTrip.fragKill : ∀ sc p, RoundTrip.Statement (.fragKill sc p) := by
  intro sc p _ _ rest _ h
  cases h
  refine ⟨_, _, rfl, rfl, ?_⟩
  show decodeGfx _ _ (fOp _) = _
  simp (disch := decide) [decodeGfx_10, fOp_packR, fSc_packR, fD_packR, fA_packR, fB_packR, fP_packR, rsv]

theorem RoundTrip.hallQPix : ∀ sc d a p, RoundTrip.Statement (.hallQPix sc d a p) := by
  intro sc d a p _ _ rest _ h
  cases h
  refine ⟨_, _, rfl, rfl, ?_⟩
  show decodeGfx _ _ (fOp _) = _
  simp (disch := decide) [decodeGfx_11, fOp_packR, fSc_packR, fD_packR, fA_packR, fB_packR, fP_packR]

theorem RoundTrip.hallQGrant : ∀ sc d a p, RoundTrip.Statement (.hallQGrant sc d a p) := by
  intro sc d a p _ _ rest _ h
  cases h
  refine ⟨_, _, rfl, rfl, ?_⟩
  show decodeGfx _ _ (fOp _) = _
  simp (disch := decide) [decodeGfx_11, fOp_packR, fSc_packR, fD_packR, fA_packR, fB_packR, fP_packR]

theorem RoundTrip.depthT : ∀ sc c pd a p, RoundTrip.Statement (.depthT sc c pd a p) := by
  intro sc c pd a p _ _ rest _ h
  cases h
  refine ⟨_, _, rfl, rfl, ?_⟩
  show decodeGfx _ _ (fOp _) = _
  simp (disch := decide) [decodeGfx_12, fOp_packR, fSc_packR, fD_packR, fA_packR, fB_packR, fP_packR, rsv, part_3_1_3_at_4, part_3_1_3_at_3, part_3_1_3_at_0]

theorem RoundTrip.srd : ∀ sc d n, RoundTrip.Statement (.srd sc d n) := by
  intro sc d n _ _ rest _ h
  cases h
  refine ⟨_, _, rfl, rfl, ?_⟩
  show decodeSys _ rest (fOp _) = _
  simp (disch := decide) [decodeSys_0, fOp_packI, fSc_packI, fD_packI, fA_packI, fI_packI, rsv]

theorem RoundTrip.swr : ∀ sc a n, RoundTrip.Statement (.swr sc a n) := by
  intro sc a n _ _ rest _ h
  cases h
  refine ⟨_, _, rfl, rfl, ?_⟩
  show decodeSys _ rest (fOp _) = _
  simp (disch := decide) [decodeSys_1, fOp_packI, fSc_packI, fD_packI, fA_packI, fI_packI, rsv]

theorem RoundTrip.eret : ∀ sc p, RoundTrip.Statement (.eret sc p) := by
  intro sc p _ _ rest _ h
  cases h
  refine ⟨_, _, rfl, rfl, ?_⟩
  show decodeSys _ rest (fOp _) = _
  simp (disch := decide) [decodeSys_2, fOp_packR, fSc_packR, fD_packR, fA_packR, fB_packR, fP_packR, rsv]

theorem RoundTrip.ctxRd : ∀ sc d a p, RoundTrip.Statement (.ctxRd sc d a p) := by
  intro sc d a p _ _ rest _ h
  cases h
  refine ⟨_, _, rfl, rfl, ?_⟩
  show decodeSys _ rest (fOp _) = _
  simp (disch := decide) [decodeSys_3, fOp_packR, fSc_packR, fD_packR, fA_packR, fB_packR, fP_packR, rsv]

theorem RoundTrip.ctxWr : ∀ sc a b p, RoundTrip.Statement (.ctxWr sc a b p) := by
  intro sc a b p _ _ rest _ h
  cases h
  refine ⟨_, _, rfl, rfl, ?_⟩
  show decodeSys _ rest (fOp _) = _
  simp (disch := decide) [decodeSys_4, fOp_packR, fSc_packR, fD_packR, fA_packR, fB_packR, fP_packR, rsv]

theorem RoundTrip.ctxSave : ∀ sc a p, RoundTrip.Statement (.ctxSave sc a p) := by
  intro sc a p _ _ rest _ h
  cases h
  refine ⟨_, _, rfl, rfl, ?_⟩
  show decodeSys _ rest (fOp _) = _
  simp (disch := decide) [decodeSys_5, fOp_packR, fSc_packR, fD_packR, fA_packR, fB_packR, fP_packR, rsv]

theorem RoundTrip.ctxLoad : ∀ sc a p, RoundTrip.Statement (.ctxLoad sc a p) := by
  intro sc a p _ _ rest _ h
  cases h
  refine ⟨_, _, rfl, rfl, ?_⟩
  show decodeSys _ rest (fOp _) = _
  simp (disch := decide) [decodeSys_6, fOp_packR, fSc_packR, fD_packR, fA_packR, fB_packR, fP_packR, rsv]

theorem RoundTrip.tlbInv : ∀ sc a b p, RoundTrip.Statement (.tlbInv sc a b p) := by
  intro sc a b p _ _ rest _ h
  cases h
  refine ⟨_, _, rfl, rfl, ?_⟩
  show decodeSys _ rest (fOp _) = _
  simp (disch := decide) [decodeSys_7, fOp_packR, fSc_packR, fD_packR, fA_packR, fB_packR, fP_packR, rsv]

theorem RoundTrip.wfi : ∀ sc d a p, RoundTrip.Statement (.wfi sc d a p) := by
  intro sc d a p _ _ rest _ h
  cases h
  refine ⟨_, _, rfl, rfl, ?_⟩
  show decodeSys _ rest (fOp _) = _
  simp (disch := decide) [decodeSys_8, fOp_packR, fSc_packR, fD_packR, fA_packR, fB_packR, fP_packR, rsv]

theorem RoundTrip.agentClaim : ∀ sc d p, RoundTrip.Statement (.agentClaim sc d p) := by
  intro sc d p _ _ rest _ h
  cases h
  refine ⟨_, _, rfl, rfl, ?_⟩
  show decodeSys _ rest (fOp _) = _
  simp (disch := decide) [decodeSys_9, fOp_packR, fSc_packR, fD_packR, fA_packR, fB_packR, fP_packR, rsv]

theorem RoundTrip.blkStart : ∀ sc a p, RoundTrip.Statement (.blkStart sc a p) := by
  intro sc a p _ _ rest _ h
  cases h
  refine ⟨_, _, rfl, rfl, ?_⟩
  show decodeSys _ rest (fOp _) = _
  simp (disch := decide) [decodeSys_10, fOp_packR, fSc_packR, fD_packR, fA_packR, fB_packR, fP_packR, rsv]

theorem RoundTrip.blkStop : ∀ sc a p, RoundTrip.Statement (.blkStop sc a p) := by
  intro sc a p _ _ rest _ h
  cases h
  refine ⟨_, _, rfl, rfl, ?_⟩
  show decodeSys _ rest (fOp _) = _
  simp (disch := decide) [decodeSys_11, fOp_packR, fSc_packR, fD_packR, fA_packR, fB_packR, fP_packR, rsv]

theorem RoundTrip.vdevDrain : ∀ sc a p, RoundTrip.Statement (.vdevDrain sc a p) := by
  intro sc a p _ _ rest _ h
  cases h
  refine ⟨_, _, rfl, rfl, ?_⟩
  show decodeSys _ rest (fOp _) = _
  simp (disch := decide) [decodeSys_12, fOp_packR, fSc_packR, fD_packR, fA_packR, fB_packR, fP_packR, rsv]

theorem RoundTrip.poolClr : ∀ sc a p, RoundTrip.Statement (.poolClr sc a p) := by
  intro sc a p _ _ rest _ h
  cases h
  refine ⟨_, _, rfl, rfl, ?_⟩
  show decodeSys _ rest (fOp _) = _
  simp (disch := decide) [decodeSys_13, fOp_packR, fSc_packR, fD_packR, fA_packR, fB_packR, fP_packR, rsv]

theorem RoundTrip.faultRd : ∀ sc d p, RoundTrip.Statement (.faultRd sc d p) := by
  intro sc d p _ _ rest _ h
  cases h
  refine ⟨_, _, rfl, rfl, ?_⟩
  show decodeSys _ rest (fOp _) = _
  simp (disch := decide) [decodeSys_14, fOp_packR, fSc_packR, fD_packR, fA_packR, fB_packR, fP_packR, rsv]

theorem RoundTrip.resumeContinue : ∀ sc a b p, RoundTrip.Statement (.resumeContinue sc a b p) := by
  intro sc a b p _ _ rest _ h
  cases h
  refine ⟨_, _, rfl, rfl, ?_⟩
  show decodeSys _ rest (fOp _) = _
  simp (disch := decide) [decodeSys_15, fOp_packR, fSc_packR, fD_packR, fA_packR, fB_packR, fP_packR]

theorem RoundTrip.resumeSkip : ∀ sc a b p, RoundTrip.Statement (.resumeSkip sc a b p) := by
  intro sc a b p _ _ rest _ h
  cases h
  refine ⟨_, _, rfl, rfl, ?_⟩
  show decodeSys _ rest (fOp _) = _
  simp (disch := decide) [decodeSys_15, fOp_packR, fSc_packR, fD_packR, fA_packR, fB_packR, fP_packR]

theorem RoundTrip.resumeKill : ∀ sc a b p, RoundTrip.Statement (.resumeKill sc a b p) := by
  intro sc a b p _ _ rest _ h
  cases h
  refine ⟨_, _, rfl, rfl, ?_⟩
  show decodeSys _ rest (fOp _) = _
  simp (disch := decide) [decodeSys_15, fOp_packR, fSc_packR, fD_packR, fA_packR, fB_packR, fP_packR]

theorem RoundTrip.pick : ∀ core part, RoundTrip.Statement (.pick core part) := by
  intro _ _ _ _ _ _ h
  cases h

theorem RoundTrip.operationComplete : ∀ op, RoundTrip.Statement (.operationComplete op) := by
  intro _ _ _ _ _ h
  cases h

theorem RoundTrip.refillArrival : ∀ thr, RoundTrip.Statement (.refillArrival thr) := by
  intro _ _ _ _ _ h
  cases h

theorem RoundTrip.brxEntryArrival : ∀ thr, RoundTrip.Statement (.brxEntryArrival thr) := by
  intro _ _ _ _ _ h
  cases h

theorem RoundTrip.spawnBinTimer : ∀ core bin, RoundTrip.Statement (.spawnBinTimer core bin) := by
  intro _ _ _ _ _ _ h
  cases h

theorem RoundTrip.binLaunch : ∀ core, RoundTrip.Statement (.binLaunch core) := by
  intro _ _ _ _ _ h
  cases h

theorem RoundTrip.dispenserRefill : ∀ launch die, RoundTrip.Statement (.dispenserRefill launch die) := by
  intro _ _ _ _ _ _ h
  cases h

theorem RoundTrip.notify : ∀ vdev q tail, RoundTrip.Statement (.notify vdev q tail) := by
  intro _ _ _ _ _ _ _ h
  cases h

theorem RoundTrip.qStateSkip : ∀ vdev q, RoundTrip.Statement (.qStateSkip vdev q) := by
  intro _ _ _ _ _ _ h
  cases h

theorem RoundTrip.recordCheck : ∀ vdev q, RoundTrip.Statement (.recordCheck vdev q) := by
  intro _ _ _ _ _ _ h
  cases h

theorem RoundTrip.slotOverdue : ∀ vdev q, RoundTrip.Statement (.slotOverdue vdev q) := by
  intro _ _ _ _ _ _ h
  cases h

theorem RoundTrip.timeSliceExpiry : ∀ launch, RoundTrip.Statement (.timeSliceExpiry launch) := by
  intro _ _ _ _ _ h
  cases h

theorem RoundTrip.preemptionRequest : ∀ launch, RoundTrip.Statement (.preemptionRequest launch) := by
  intro _ _ _ _ _ h
  cases h

theorem RoundTrip.vdevSavefaultRetry : ∀ vdev, RoundTrip.Statement (.vdevSavefaultRetry vdev) := by
  intro _ _ _ _ _ h
  cases h

theorem RoundTrip.vdevSavefaultUnmappable : ∀ vdev, RoundTrip.Statement (.vdevSavefaultUnmappable vdev) := by
  intro _ _ _ _ _ h
  cases h

theorem RoundTrip.remoteSectorRequest : ∀ die req vdev pa, RoundTrip.Statement (.remoteSectorRequest die req vdev pa) := by
  intro _ _ _ _ _ _ _ _ h
  cases h

theorem RoundTrip.hotnessDecay : RoundTrip.Statement (.hotnessDecay) := by
  intro _ _ _ _ h
  cases h

theorem RoundTrip.memHotCfgWrite : ∀ v, RoundTrip.Statement (.memHotCfgWrite v) := by
  intro _ _ _ _ _ h
  cases h

theorem RoundTrip.memQpush : ∀ v, RoundTrip.Statement (.memQpush v) := by
  intro _ _ _ _ _ h
  cases h

theorem RoundTrip.memQpop : RoundTrip.Statement (.memQpop) := by
  intro _ _ _ _ h
  cases h

theorem RoundTrip.engineCommandStart : ∀ core engine, RoundTrip.Statement (.engineCommandStart core engine) := by
  intro _ _ _ _ _ _ h
  cases h

theorem RoundTrip.sliceElementDelivery : ∀ core slot, RoundTrip.Statement (.sliceElementDelivery core slot) := by
  intro _ _ _ _ _ _ h
  cases h

theorem RoundTrip.graphNodeFinish : ∀ core node, RoundTrip.Statement (.graphNodeFinish core node) := by
  intro _ _ _ _ _ _ h
  cases h

theorem RoundTrip.taskAbort : ∀ thr, RoundTrip.Statement (.taskAbort thr) := by
  intro _ _ _ _ _ h
  cases h

theorem RoundTrip.tilePassStart : ∀ core, RoundTrip.Statement (.tilePassStart core) := by
  intro _ _ _ _ _ h
  cases h

theorem RoundTrip.tesseraResolve : ∀ core, RoundTrip.Statement (.tesseraResolve core) := by
  intro _ _ _ _ _ h
  cases h

theorem RoundTrip.bezelRefresh : ∀ disp, RoundTrip.Statement (.bezelRefresh disp) := by
  intro _ _ _ _ _ h
  cases h

theorem RoundTrip.lockedRefresh : ∀ vdev ctx, RoundTrip.Statement (.lockedRefresh vdev ctx) := by
  intro _ _ _ _ _ _ h
  cases h

theorem RoundTrip.bzFill : ∀ owner v, RoundTrip.Statement (.bzFill owner v) := by
  intro _ _ _ _ _ _ h
  cases h

theorem RoundTrip.bzFillComplete : RoundTrip.Statement (.bzFillComplete) := by
  intro _ _ _ _ h
  cases h

theorem RoundTrip.bzTselWrite : ∀ owner v, RoundTrip.Statement (.bzTselWrite owner v) := by
  intro _ _ _ _ _ _ h
  cases h

theorem RoundTrip.bzTdataWrite : ∀ owner k v, RoundTrip.Statement (.bzTdataWrite owner k v) := by
  intro _ _ _ _ _ _ _ h
  cases h

theorem RoundTrip.bzModeWrite : ∀ owner disp v carried, RoundTrip.Statement (.bzModeWrite owner disp v carried) := by
  intro _ _ _ _ _ _ _ _ h
  cases h

theorem RoundTrip.displayLinkTrained : ∀ disp, RoundTrip.Statement (.displayLinkTrained disp) := by
  intro _ _ _ _ _ h
  cases h

theorem RoundTrip.prBWrite : ∀ owner disp v, RoundTrip.Statement (.prBWrite owner disp v) := by
  intro _ _ _ _ _ _ _ h
  cases h

theorem RoundTrip.fabricIngressRequest : ∀ r, RoundTrip.Statement (.fabricIngressRequest r) := by
  intro _ _ _ _ _ h
  cases h

theorem RoundTrip.stubThawReport : ∀ vdev, RoundTrip.Statement (.stubThawReport vdev) := by
  intro _ _ _ _ _ h
  cases h

theorem RoundTrip.linkRouteFailure : ∀ op completed, RoundTrip.Statement (.linkRouteFailure op completed) := by
  intro _ _ _ _ _ _ h
  cases h

theorem RoundTrip.bandwidthPublication : ∀ shares congested, RoundTrip.Statement (.bandwidthPublication shares congested) := by
  intro _ _ _ _ _ _ h
  cases h

theorem RoundTrip.vdevReset : ∀ vdev, RoundTrip.Statement (.vdevReset vdev) := by
  intro _ _ _ _ _ h
  cases h

theorem RoundTrip.vdevFreeze : ∀ vdev, RoundTrip.Statement (.vdevFreeze vdev) := by
  intro _ _ _ _ _ h
  cases h

theorem RoundTrip.vdevThaw : ∀ vdev, RoundTrip.Statement (.vdevThaw vdev) := by
  intro _ _ _ _ _ h
  cases h

theorem RoundTrip.vdevStubClear : ∀ vdev, RoundTrip.Statement (.vdevStubClear vdev) := by
  intro _ _ _ _ _ h
  cases h

theorem RoundTrip.vdevShareWrite : ∀ vdev v, RoundTrip.Statement (.vdevShareWrite vdev v) := by
  intro _ _ _ _ _ _ h
  cases h

theorem RoundTrip.vdevSigWrite : ∀ vdev v, RoundTrip.Statement (.vdevSigWrite vdev v) := by
  intro _ _ _ _ _ _ h
  cases h

theorem RoundTrip.qCtlWrite : ∀ vdev q v, RoundTrip.Statement (.qCtlWrite vdev q v) := by
  intro _ _ _ _ _ _ _ h
  cases h

theorem RoundTrip.ctxCreate : ∀ vdev ctx, RoundTrip.Statement (.ctxCreate vdev ctx) := by
  intro _ _ _ _ _ _ h
  cases h

theorem RoundTrip.ctxDestroy : ∀ vdev ctx, RoundTrip.Statement (.ctxDestroy vdev ctx) := by
  intro _ _ _ _ _ _ h
  cases h

theorem RoundTrip.ctxSelect : ∀ vdev ctx, RoundTrip.Statement (.ctxSelect vdev ctx) := by
  intro _ _ _ _ _ _ h
  cases h

theorem RoundTrip.ctxLegacyWrite : ∀ vdev v, RoundTrip.Statement (.ctxLegacyWrite vdev v) := by
  intro _ _ _ _ _ _ h
  cases h

theorem RoundTrip.ctxOwnerWrite : ∀ vdev v, RoundTrip.Statement (.ctxOwnerWrite vdev v) := by
  intro _ _ _ _ _ _ h
  cases h

theorem RoundTrip.sysRstAck : ∀ core v, RoundTrip.Statement (.sysRstAck core v) := by
  intro _ _ _ _ _ _ h
  cases h

theorem RoundTrip.drainPcieTimeout : ∀ vdev, RoundTrip.Statement (.drainPcieTimeout vdev) := by
  intro _ _ _ _ _ h
  cases h

theorem RoundTrip.hostSignalStore : ∀ idx v, RoundTrip.Statement (.hostSignalStore idx v) := by
  intro _ _ _ _ _ _ h
  cases h

theorem RoundTrip.hostSignalLoad : ∀ idx, RoundTrip.Statement (.hostSignalLoad idx) := by
  intro _ _ _ _ _ h
  cases h

theorem RoundTrip.registerWrite : ∀ pa owner v, RoundTrip.Statement (.registerWrite pa owner v) := by
  intro _ _ _ _ _ _ _ h
  cases h

theorem RoundTrip.getVersion : RoundTrip.Statement (.getVersion) := by
  intro _ _ _ _ h
  cases h

theorem RoundTrip.getCapabilities : RoundTrip.Statement (.getCapabilities) := by
  intro _ _ _ _ h
  cases h

theorem RoundTrip.negotiateAlgorithms : ∀ asym hash, RoundTrip.Statement (.negotiateAlgorithms asym hash) := by
  intro _ _ _ _ _ _ h
  cases h

theorem RoundTrip.getDigests : ∀ slot, RoundTrip.Statement (.getDigests slot) := by
  intro _ _ _ _ _ h
  cases h

theorem RoundTrip.getCertificate : ∀ slot, RoundTrip.Statement (.getCertificate slot) := by
  intro _ _ _ _ _ h
  cases h

theorem RoundTrip.challenge : ∀ slot nonce, RoundTrip.Statement (.challenge slot nonce) := by
  intro _ _ _ _ _ _ h
  cases h

theorem RoundTrip.getMeasurements : ∀ index nonce, RoundTrip.Statement (.getMeasurements index nonce) := by
  intro _ _ _ _ _ _ h
  cases h

theorem RoundTrip.assayExtend : ∀ k digest, RoundTrip.Statement (.assayExtend k digest) := by
  intro _ _ _ _ _ _ h
  cases h

theorem RoundTrip.handoverStage : ∀ image, RoundTrip.Statement (.handoverStage image) := by
  intro _ _ _ _ _ h
  cases h

theorem RoundTrip.handoverTimeout : RoundTrip.Statement (.handoverTimeout) := by
  intro _ _ _ _ h
  cases h

theorem RoundTrip.coldStart : ∀ img, RoundTrip.Statement (.coldStart img) := by
  intro _ _ _ _ _ h
  cases h

theorem RoundTrip.warmStart : ∀ img, RoundTrip.Statement (.warmStart img) := by
  intro _ _ _ _ _ h
  cases h

end Sys2Proof.Laws
end

