-- ==== Sys2Proof/Machine/Loader.lean ====
section
/-! DEFINITION. The loader of the driver (R423-R433): code objects, the symbols of a context, the checks of a Lamod
body, and old binaries. The loader runs on the application cores, so nothing of it is state of the device: its
namespace is data of its own, and it acts on the device by the bytes it places in memory and by the mode that the
driver writes to ctx.legacy. -/

namespace Sys2Proof.Machine

/-- Why a load fails, by its code (R427). -/
inductive LoadErr where
  | badObject | noBody | duplicateSymbol | unresolved | modeConflict | translate
  deriving DecidableEq, Repr

def LoadErr.code : LoadErr → Nat
  | .badObject => 1
  | .noBody => 2
  | .duplicateSymbol => 3
  | .unresolved => 4
  | .modeConflict => 5
  | .translate => 6

/-! ## The object (R424, R425) -/

/-- A byte range of an object: offset and size. -/
structure Span where
  off : Nat
  size : Nat
  deriving DecidableEq, Repr

/-- The header's range at a byte. -/
def spanAt (o : List Byte) (k : Nat) : Span := { off := fieldOf o k 4, size := fieldOf o (k + 4) 4 }

/-- Bytes of an object in a range. -/
def Span.of (x : Span) (o : List Byte) : List Byte := (o.drop x.off).take x.size

/-- Whether a range stands on multiples of 4. -/
def Span.aligned (x : Span) : Bool := x.off % 4 = 0 && x.size % 4 = 0

/-- Whether a range of bytes lies in an object on multiples of 4 (DEDUCED, log entry 115: a range past the object's end
breaks the table). -/
def Span.ok (x : Span) (o : List Byte) : Bool := x.aligned && x.off + x.size ≤ o.length

def objNative (o : List Byte) : Bool := bitOf (fieldOf o 5 1) 0
def objLamod (o : List Byte) : Bool := bitOf (fieldOf o 5 1) 1
def objDevhash (o : List Byte) : Dword := d64 (fieldOf o 8 8)
def objMode (o : List Byte) : Dword := d64 (fieldOf o 56 8)
def objNatBody (o : List Byte) : Span := spanAt o 16
def objLamBody (o : List Byte) : Span := spanAt o 24
def objData (o : List Byte) : Span := spanAt o 32
def objSymCount (o : List Byte) : Nat := (spanAt o 40).size
def objRelCount (o : List Byte) : Nat := (spanAt o 48).size

/-- The header's checks (R424). -/
def headerOk (o : List Byte) : Bool :=
  64 ≤ o.length && fieldOf o 0 4 = 0x4C514B43 && fieldOf o 4 1 = 1 && fieldOf o 5 1 ≠ 0 && fieldOf o 5 1 < 4
    && fieldOf o 6 1 ≤ 3 && fieldOf o 7 1 = 0
    && (objNatBody o).aligned && (objLamBody o).aligned
    && (!objNative o || (objNatBody o).ok o) && (!objLamod o || (objLamBody o).ok o) && (objData o).ok o
    && (spanAt o 40).off + 24 * objSymCount o ≤ o.length && (spanAt o 48).off + 16 * objRelCount o ≤ o.length
    && (objMode o &&& ~~~legacyMask) = 0

/-- A symbol entry (R425): KIND 0 reference only, 1 global, 2 weak; SECT 0 code, 1 data. -/
structure Sym where
  name : List Byte
  kind : Nat
  sect : Nat
  nval : Nat
  lval : Nat
  deriving DecidableEq, Repr

/-- The string at an offset, ended by 0; `none` if it does not end in the object. -/
def stringAt (o : List Byte) (k : Nat) : Option (List Byte) :=
  let s := o.drop k
  let n := s.takeWhile fun b => b ≠ 0
  if n.length < s.length then some n else none

/-- Whether a place in a body can be that of a clause header: a multiple of 4 inside it. -/
def Span.holds (x : Span) (k : Nat) : Bool := k % 4 = 0 && k < x.size

/-- Whether a definition lies where its section has it: code inside each body that the object carries, and at a clause
header of the Lamod body; data inside DATA. A native body is not looked into (R425, R426) (DEDUCED, log entry 115). -/
def Sym.placed (y : Sym) (o : List Byte) : Bool :=
  y.kind = 0 || if y.sect = 1 then y.nval < (objData o).size else
    (!objNative o || (objNatBody o).holds y.nval)
      && (!objLamod o || ((objLamBody o).holds y.lval
        && (decodeHeader (w32n (fieldOf o ((objLamBody o).off + y.lval) 4))).isSome))

/-- A symbol entry read; `none` where it breaks its table. -/
def symAt (o : List Byte) (i : Nat) : Option Sym :=
  let e := (o.drop ((spanAt o 40).off + 24 * i)).take 24
  match stringAt o (fieldOf e 0 4) with
  | none => none
  | some n =>
    let y : Sym := { name := n, kind := fieldOf e 4 1, sect := fieldOf e 5 1, nval := fieldOf e 8 4, lval := fieldOf e 12 4 }
    if y.kind ≤ 2 ∧ y.sect ≤ 1 ∧ fieldOf e 6 2 = 0 ∧ fieldOf e 16 8 = 0 ∧ y.placed o then some y else none

/-- A relocation entry (R425): SITE and SYM. -/
def relAt (o : List Byte) (i : Nat) : Option (Nat × Nat) :=
  let e := (o.drop ((spanAt o 48).off + 16 * i)).take 16
  let site := fieldOf e 0 4
  if site % 8 = 0 ∧ site + 8 ≤ (objData o).size ∧ fieldOf e 4 4 < objSymCount o then some (site, fieldOf e 4 4)
  else none

/-- All entries of a kind, or none if one is bad. -/
def allEntries {α : Type} (f : Nat → Option α) (n : Nat) : Option (List α) :=
  (List.range n).foldr (fun i r => match f i, r with | some x, some xs => some (x :: xs) | _, _ => none) (some [])

/-! ## The body (R426, R429) -/

/-- Bytes 0 to 7 of the digest of FEATQ words 0, 5, 6, 7 and 8, as a little-endian number (R426). -/
def deviceHash : Dword :=
  d64 (natOfBytes ((digestBytes (sha384 (([1, 32, 96, 96, 0xFF] : List Nat).flatMap (bytesOfNat 4)))).take 8))

/-- Whether a header is canonical for its instruction (R429). -/
def canonicalHeader (h : Header) (i : Instr) : Bool :=
  h.wait = 0xFFF && h.seta = (if i.longLatency then some 0 else none) && h.setb = none && !h.yield
    && h.count = 1 + i.litCount

/-- Whether an instruction ends a segment (R429): BRX, CALL.I, RET or EXIT at lane scope. -/
def endsSegment (i : Instr) : Bool :=
  i.scope = .lane && (match i with | .brx .. | .callI .. | .ret .. | .exit .. => true | _ => false)

/-- The loader's own clause in a body: it stands alone between segments (R432) (DEDUCED, log entry 115). -/
def strayTrap : Instr := .trap .lane 1023

/-- Where a Lamod body stands between its words: at the start of a segment, at the segment to which a callee returns, behind
a function word, or inside a segment. -/
inductive SegAt where
  | start | called | func | inside
  deriving DecidableEq, Repr

/-- What a Lamod body consists of: the offsets of its segments' first headers and of all its headers, and whether a segment
ends in BRX. -/
structure LamodInfo where
  segs : List Nat
  clauses : List Nat
  brx : Bool
  deriving DecidableEq, Repr

/-- A Lamod body read word by word from an offset on; none where it breaks R429: canonical clauses without SYS words, each
control transfer the last clause of its segment, one function word at most before a segment and none where a callee
returns, and the body's end at a segment's end that is not a CALL.I. -/
def lamodRead : Nat → SegAt → Nat → List Word → Option LamodInfo
  | _, at_, _, [] => if at_ = .start then some { segs := [], clauses := [], brx := false } else none
  | 0, _, _, _ :: _ => none
  | n + 1, at_, pos, w :: ws =>
    if at_ = .start && (functionBudget w).isSome then lamodRead n .func (pos + 4) ws
    else
      match decodeHeader w, ws with
      | some h, x :: r =>
        match decodeWord h.cls x r with
        | .error _ => none
        | .ok i =>
          let ends := endsSegment i || (at_ = .start && i = strayTrap)
          let ok := h.cls ≠ .sys && canonicalHeader h i && i.opOk && i.scopeOk && (!i.transfer || ends)
          let next := if !ends then .inside else match i with | .callI .. => .called | _ => .start
          if ok then
            (lamodRead n next (pos + 8 + 4 * i.litCount) (r.drop i.litCount)).map fun k =>
              { segs := if at_ = .inside then k.segs else pos :: k.segs, clauses := pos :: k.clauses
                brx := k.brx || match i with | .brx .. => true | _ => false }
          else none
      | _, _ => none

/-- Whether the segment tables of a body lie in DATA: each relocation that names a code symbol of the object fills an entry
with the first clause of a segment, and a body with a BRX has a table (R429) (DEDUCED, log entry 115). -/
def LamodInfo.tablesOk (k : LamodInfo) (ys : List Sym) (rels : List (Nat × Nat)) : Bool :=
  let named := rels.filterMap fun r => (ys[r.2]?).filter fun y => y.sect = 0
  (named.all fun y => y.kind = 0 || k.segs.contains y.lval) && (!k.brx || !named.isEmpty)

/-- The body that a load takes, and whether it is the native one (R426). A Lamod body is taken as it stands, which R429
lets it run and R430 makes equal to every retranslation of it (DEDUCED, log entry 115). -/
def chooseBody (o : List Byte) (ys : List Sym) (rels : List (Nat × Nat)) : Except LoadErr (List Byte × Bool) :=
  if objNative o ∧ objDevhash o = deviceHash then .ok ((objNatBody o).of o, true)
  else if objLamod o then
    let b := (objLamBody o).of o
    match lamodRead (b.length / 4) .start 0 (wordsOf b (b.length / 4)) with
    | some k => if k.tablesOk ys rels then .ok (b, false) else .error .translate
    | none => .error .translate
  else .error .noBody

/-! ## The namespace of a context (R427, R428) -/

/-- A name bound in a context. -/
structure Binding where
  name : List Byte
  weak : Bool
  addr : Nat
  deriving DecidableEq, Repr

/-- The loader's data of a context: its installed mode, its names, and whether a launch of it has been submitted. -/
structure Namespace where
  mode : Option Dword
  names : List Binding
  launched : Bool := false
  deriving DecidableEq, Repr

/-- A new context's (R427). -/
def Namespace.empty : Namespace := { mode := none, names := [] }

/-- What a name is bound to. -/
def Namespace.find (x : Namespace) (n : List Byte) : Option Binding := x.names.find? fun b => b.name = n

/-- A definition of an object (R428): a new name is bound; of two weak ones the earlier stays; all else fails. -/
def Namespace.define (x : Namespace) (n : List Byte) (weak : Bool) (addr : Nat) : Except LoadErr Namespace :=
  match x.find n with
  | none => .ok { x with names := x.names ++ [{ name := n, weak := weak, addr := addr }] }
  | some b => if b.weak && weak then .ok x else .error .duplicateSymbol

/-- The address of a definition. -/
def Sym.addr (y : Sym) (native : Bool) (codeBase dataBase : Nat) : Nat :=
  if y.sect = 1 then dataBase + y.nval else codeBase + if native then y.nval else y.lval

/-- Step 4: the object's global and weak symbols defined, in order. -/
def Namespace.defineAll (x : Namespace) (native : Bool) (codeBase dataBase : Nat) : List Sym → Except LoadErr Namespace
  | [] => .ok x
  | y :: ys =>
    if y.kind = 0 then x.defineAll native codeBase dataBase ys
    else
      match x.define y.name (y.kind = 2) (y.addr native codeBase dataBase) with
      | .error e => .error e
      | .ok x => x.defineAll native codeBase dataBase ys

/-- Step 6: the data section with the symbols' final addresses at the relocation sites. -/
def relocate (x : Namespace) (ys : List Sym) (data : List Byte) (rels : List (Nat × Nat)) : List Byte :=
  rels.foldl (fun d r =>
    match (ys[r.2]?).bind fun y => x.find y.name with
    | some b => d.take r.1 ++ bytesOfNat 8 b.addr ++ d.drop (r.1 + 8)
    | none => d) data

/-- What a load places: the body and the data section. -/
structure Placed where
  body : List Byte
  data : List Byte
  deriving DecidableEq, Repr

/-- A load (R427), at the addresses that the driver has chosen for the body and the data: the first step that fails
names the error, and nothing has changed then (DEDUCED, log entry 115). -/
def Namespace.load (x : Namespace) (o : List Byte) (codeBase dataBase : Nat) : Except LoadErr (Namespace × Placed) :=
  if !headerOk o then .error .badObject
  else
    match allEntries (symAt o) (objSymCount o), allEntries (relAt o) (objRelCount o) with
    | some ys, some rs =>
      match chooseBody o ys rs with
      | .error e => .error e
      | .ok (body, native) =>
        if x.mode ≠ none ∧ x.mode ≠ some (objMode o) then .error .modeConflict
        else
          match x.defineAll native codeBase dataBase ys with
          | .error e => .error e
          | .ok x' =>
            if ys.any fun y => (x'.find y.name).isNone then .error .unresolved
            else .ok ({ x' with mode := some (objMode o) }, { body := body, data := relocate x' ys ((objData o).of o) rs })
    | _, _ => .error .badObject

/-! ## The driver's contexts (R427, R433) -/

/-- The loader's data: a namespace for each context, by virtual device × 65536 + context. -/
abbrev Driver := Tab Namespace

/-- A new context starts with an empty namespace, which lasts as long as the context. -/
def Driver.create (d : Driver) (v x : Nat) : Driver := d.put (v * 65536 + x) Namespace.empty
def Driver.destroy (d : Driver) (v x : Nat) : Driver := d.del (v * 65536 + x)

/-- A load into a context, at addresses of the context and their places in memory: body and data are placed and cleaned from
the application cores' caches (R184); a failure changes nothing. -/
def Driver.load (d : Driver) (s : State) (v x : Nat) (o : List Byte) (codeBase dataBase codePa dataPa : Nat) :
    Except LoadErr (Driver × State) :=
  match (d.get (v * 65536 + x) Namespace.empty).load o codeBase dataBase with
  | .error e => .error e
  | .ok (n, p) =>
    .ok (d.put (v * 65536 + x) n, { s with mem := (s.mem.writeN codePa p.body).writeN dataPa p.data })

/-- Before a context's first launch, and only then, the driver writes the installed mode to ctx.legacy: a value that is
written later stays (R427, R433). -/
def Driver.launch (d : Driver) (s : State) (v x : Nat) : Driver × State :=
  let n := d.get (v * 65536 + x) Namespace.empty
  match n.mode with
  | some m => if n.launched then (d, s) else (d.put (v * 65536 + x) { n with launched := true }, s.putLegacy v x m)
  | none => (d, s)

/-! ## Old binaries (R431, R432) -/

/-- The base MODE of a generation: RND, DENORM, TRANS and TEXW in their places of ctx.legacy (R431, R21). -/
def baseMode (gen : Nat) : Dword :=
  let f (rnd denorm trans texw : Nat) : Dword := d64 (rnd + 8 * denorm + 64 * trans + 512 * texw)
  match gen with
  | 1 => f 1 1 1 1
  | 2 => f 1 1 2 1
  | 3 => f 0 1 3 0
  | _ => 0

/-- MODE of an old binary: the base value and the lock fields of its title's manifest, if it has one (R431). -/
def oldMode (gen : Nat) (lock : Option (Nat × Nat × Bool)) : Dword :=
  match lock with
  | none => baseMode gen
  | some (refresh, ratio, on) =>
    baseMode gen ||| d64 (refresh % 2 ^ 24 * 2 ^ 40 + ratio % 2 ^ 16 * 2 ^ 24 + if on then 2 ^ 16 else 0)

/-- A canonical clause of one word (R429). -/
def canonicalClause (i : Instr) : List Word :=
  encodeHeader { setb := none, seta := if i.longLatency then some 0 else none, wait := 0xFFF, cls := i.cls.getD .alu, yield := false
                 count := 1 + i.litCount } :: encode i

/-- The loader's clause for a stray branch: one word, TRAP 1023 (R432, R96). -/
def strayClause : List Word := canonicalClause strayTrap

/-- A segment of an old binary, translated: the offset at the old base of the clause that it stands for, its words, and
whether it ends in a computed branch. -/
structure OldSeg where
  old : Nat
  words : List Word
  branch : Bool
  deriving DecidableEq, Repr

/-- An old binary: its generation, its manifest's lock fields, its name, its translated segments, and the number of old
words that its address map covers. The old encodings are none of this device's, so the translation of a segment is given
(DEDUCED, log entry 115). -/
structure OldBinary where
  gen : Nat
  lock : Option (Nat × Nat × Bool)
  name : List Byte
  segs : List OldSeg
  span : Nat
  deriving DecidableEq, Repr

/-- The words of a segment, with the clause to which an index past the map falls through (R432). -/
def OldSeg.all (x : OldSeg) : List Word := x.words ++ if x.branch then strayClause else []

/-- The byte offset of the n-th segment in the body; behind the last, that of the stray clause. -/
def OldBinary.offset (x : OldBinary) (n : Nat) : Nat := 4 * ((x.segs.take n).flatMap OldSeg.all).length

/-- The body: the segments, then the stray clause. -/
def OldBinary.body (x : OldBinary) : List Byte := (x.segs.flatMap OldSeg.all ++ strayClause).flatMap bytesOfWord

/-- A symbol for each segment and one for the stray clause, named apart by a number. -/
def OldBinary.syms (x : OldBinary) : List Sym :=
  (List.range (x.segs.length + 1)).map fun n =>
    { name := x.name ++ [0x2E] ++ (bytesOfNat 4 n).map (fun b => b ||| 0x80), kind := 1, sect := 0, nval := 0, lval := x.offset n }

/-- The address map's relocations: entry i is filled with the translated address of the old clause at the old base plus 4i,
or with that of the stray clause (R432). -/
def OldBinary.map (x : OldBinary) : List (Nat × Nat) :=
  (List.range x.span).map fun i => (8 * i, (x.segs.findIdx? fun g => g.old = 4 * i).getD x.segs.length)

/-- A code object with a Lamod body, laid out part after part (R424, R425). -/
def lamodObject (gen : Nat) (mode : Dword) (body data : List Byte) (ys : List Sym) (rels : List (Nat × Nat)) : List Byte :=
  let d := 64 + body.length
  let so := d + data.length
  let ro := so + 24 * ys.length
  let no := ro + 16 * rels.length
  let span (off n : Nat) : List Byte := bytesOfNat 4 off ++ bytesOfNat 4 n
  let nameAt (k : Nat) : Nat := no + ((ys.take k).flatMap fun y => y.name ++ [0]).length
  bytesOfNat 4 0x4C514B43 ++ [1, 2, BitVec.ofNat 8 gen, 0] ++ zeros 16 ++ span 64 body.length ++ span d data.length
    ++ span so ys.length ++ span ro rels.length ++ bytesOfNat 8 mode.toNat ++ body ++ data
    ++ (ys.zipIdx.flatMap fun e => bytesOfNat 4 (nameAt e.2) ++ [BitVec.ofNat 8 e.1.kind, BitVec.ofNat 8 e.1.sect, 0, 0]
      ++ bytesOfNat 4 e.1.nval ++ bytesOfNat 4 e.1.lval ++ zeros 8)
    ++ (rels.flatMap fun r => bytesOfNat 4 r.1 ++ bytesOfNat 4 r.2 ++ zeros 8)
    ++ ys.flatMap fun y => y.name ++ [0]

/-- The code object of an old binary: GEN, MODE, the Lamod body, and the address map in DATA (R431, R432). -/
def OldBinary.object (x : OldBinary) : List Byte :=
  lamodObject x.gen (oldMode x.gen x.lock) x.body (zeros (8 * x.span)) x.syms x.map

end Sys2Proof.Machine
end

