-- ==== Sys2Proof/Tests/Slice0.lean ====
section
/-! SUPPORT. Tests: ill-formed terms, words of the spec, single steps, and a state for the hypotheses of each
statement. Expected results come from the rules and examples of the spec. -/

namespace Sys2Proof.Tests

open Sys2Proof Sys2Proof.Machine Sys2Proof.Claims

/-! ## Small states -/

/-- A clause of one thread. -/
def clause (sc : Scope) (t : Nat) : Issue :=
  { hdr := 0x1000, head := { setb := some 1, seta := some 0, wait := 0, cls := .alu, yield := false, count := 2 }
    scope := sc, words := [0, 0], pos := 0, ll := 0, group := [t], all := [t], short := [] }

/-- A live thread with vector registers. -/
def thread (v : Tab Word) : Thread :=
  { Thread.empty with live := true, v := v, pc := 0x1000, base := 0x100000, sp := 0x200000 }

/-- A warp with 32 registers, uniform registers and a window of rows 0 to 63. -/
def warp (u : Tab Word) : Warp := { Warp.empty with used := true, quota := 32, s := u, win := 0x003F0000 }

/-- A block of four warps with 64 KiB of scratchpad and one tile of accumulator, all of whose warps are members of b0. -/
def block : Block :=
  { Block.empty with active := true, nwarps := 4, vrf := 16, scr := 4, acc := 1, budget := 96, barmask := [0xF], legacy := 0 }

/-- Thread 0 of core 0, in a clause of one word on partition 0. -/
def user (sc : Scope) (v u : Tab Word) : State :=
  { State.reset with
    started := true, threads := [(0, thread v)], warps := [(0, warp u)], blocks := [(0, block)]
    issues := [(0, clause sc 0)] }

/-- The agent of core 0, in a clause of warp scope on partition 3. -/
def agent (u : Tab Word) : State :=
  { State.reset with
    started := true, cur := 3, threads := [(4032, thread [])], warps := [(126, warp u)]
    issues := [(3, clause .warp 4032)] }

/-- An image of a KIND: four bytes of code, and a signature block that ends it (R435). -/
def imageBytes (k : Byte) : List Byte :=
  [1, 2, 3, 4] ++ [0x53, 0x49, 0x47, 0x53, k, 0, 0, 0, 0xFF, 0xFF, 0xFF, 0xFF, 4, 0, 0, 0] ++ zeros 100

/-- A register of the next state. -/
def outReg (o : Out) (k c : Nat) : Option Word := match o with | .next t => some (t.reg k c) | _ => none

/-- A property of the next state. -/
def then_ (o : Out) (f : State → Bool) : Bool := match o with | .next t => f t | _ => false

theorem alone {s : State} {sc : Scope} {t : Nat} (h : s.blocked t = false) : Free s (clause sc t) sc t :=
  ⟨h, fun _ m hm => by simp [clause] at hm; subst hm; exact h, fun _ _ _ _ _ => rfl⟩

theorem ready {s : State} {sc : Scope} {t p : Nat} (h1 : s.issue = some (clause sc t))
    (h2 : s.actors (clause sc t) sc p = [t]) (h3 : s.blocked t = false) : OneActor s (clause sc t) sc p t :=
  ⟨⟨h1, by simp [clause]⟩, h2, alone h3⟩

theorem user_ready (sc : Scope) (v u : Tab Word) : OneActor (user sc v u) (clause sc 0) sc 0 0 := by
  refine ⟨⟨rfl, by simp [clause]⟩, ?_, alone rfl⟩
  cases sc <;> rfl

theorem agent_ready (u : Tab Word) : OneActor (agent u) (clause .warp 4032) .warp 0 4032 :=
  ⟨⟨rfl, by simp [clause]⟩, rfl, alone rfl⟩

/-! ## Decoding

Each row of the opcode table with operands put into its fields, and example words of the spec. -/

/-- A word of a class, its literals, and the instruction it stands for. -/
def reads (c : Cls) (w : Word) (lits : List Word) (i : Instr) : Bool :=
  match decodeWord c w lits with
  | .ok j => j = i
  | .error _ => false

theorem test_words_alu_0 :
    reads .alu 0x00C9BC02 [] (.mov .lane 100 111 2) = true ∧
    reads .alu 0x41120A14 [] (.movi .warp 9 2580) = true ∧
    reads .alu 0xC3A77B4C [] (.sel .block 83 94 105 4) = true ∧
    reads .alu 0x04F00C71 [] (.iadd .lane 120 3 14 1) = true ∧
    reads .alu 0x453AA2B3 [] (.iaddi .warp 29 40 691) = true ∧
    reads .alu 0x868536C3 [] (.isub .set 66 77 88 3) = true ∧
    reads .alu 0xC7CFCBE9 [] (.imul .block 103 114 125 1) = true ∧
    reads .alu 0x08185D15 [] (.imulh .lane 12 23 34 5) = true ∧
    reads .alu 0x4962F23A [] (.imulhUi .warp 49 60 71 2) = true ∧
    reads .alu 0x8AAD8767 [] (.imad .set 86 97 108 7) = true ∧
    reads .alu 0xCBF6188C [] (.imin .block 123 6 17 4) = true ∧
    reads .alu 0x0C40ADB1 [] (.iminUi .lane 32 43 54 1) = true ∧
    reads .alu 0x4D8B42DE [] (.imax .warp 69 80 91 6) = true ∧
    reads .alu 0x8ED5D40B [] (.imaxUi .set 106 117 1 3) = true ∧
    reads .alu 0xCF1E6805 [] (.iabs .block 15 26 5) = true ∧
    reads .alu 0x1068FE55 [] (.and_ .lane 52 63 74 5) = true ∧
    reads .alu 0x51B3906F [] (.andi .warp 89 100 111) = true ∧
    reads .alu 0x92FC24A7 [] (.or_ .set 126 9 20 7) = true := by decide

theorem test_words_alu_1 :
    reads .alu 0xD346B8B9 [] (.ori .block 35 46 185) = true ∧
    reads .alu 0x14914EF1 [] (.xor .lane 72 83 94 1) = true ∧
    reads .alu 0x55DBE103 [] (.xori .warp 109 120 259) = true ∧
    reads .alu 0x96247543 [] (.shl .set 18 29 40 3) = true ∧
    reads .alu 0xD76F0A69 [] (.shr .block 55 66 77 1) = true ∧
    reads .alu 0x18B99F95 [] (.sar .lane 92 103 114 5) = true ∧
    reads .alu 0x59023017 [] (.shfiShl .warp 1 12 23) = true ∧
    reads .alu 0x994CC51C [] (.shfiShr .set 38 49 28) = true ∧
    reads .alu 0xD9975A01 [] (.shfiSar .block 75 86 1) = true ∧
    reads .alu 0x19E1EF06 [] (.shfiRol .lane 112 123 6) = true ∧
    reads .alu 0x5A2A815E [] (.rol .warp 21 32 43 6) = true ∧
    reads .alu 0x9B751683 [] (.bfe .set 58 69 80 3) = true ∧
    reads .alu 0xDCBFABA9 [] (.bfi .block 95 106 117 1) = true ∧
    reads .alu 0x1D083C02 [] (.popc .lane 4 15 2) = true ∧
    reads .alu 0x5E52D007 [] (.clz .warp 41 52 7) = true ∧
    reads .alu 0x9F9D6404 [] (.brev .set 78 89 4) = true ∧
    reads .alu 0xE07250FA [] (.isetp .block 3 1 1 20 31 2) = true ∧
    reads .alu 0x213CE627 [] (.isetpi .lane 1 1 6 57 68 7) = true := by decide

theorem test_words_alu_2 :
    reads .alu 0x627B229E [] (.fadd .warp 61 72 83 6) = true ∧
    reads .alu 0xA3C5B7C3 [] (.fsub .set 98 109 120 3) = true ∧
    reads .alu 0xE40E48E9 [] (.fmul .block 7 18 29 1) = true ∧
    reads .alu 0x2558DE15 [] (.ffma .lane 44 55 66 5) = true ∧
    reads .alu 0x66A3733A [] (.fmin .warp 81 92 103 2) = true ∧
    reads .alu 0xA7EC0467 [] (.fmax .set 118 1 12 7) = true ∧
    reads .alu 0xE86CC5E7 [] (.fsetp .block 3 6 49 60 7) = true ∧
    reads .alu 0x29812C06 [] (.fabs .lane 64 75 6) = true ∧
    reads .alu 0x69CBC00B [] (.fneg .warp 101 112 3) = true ∧
    reads .alu 0xA9145411 [] (.frcp .set 10 21 1) = true ∧
    reads .alu 0xE95EE81D [] (.frsq .block 47 58 5) = true ∧
    reads .alu 0x29A97C22 [] (.fsqrt .lane 84 95 2) = true ∧
    reads .alu 0x69F2102F [] (.fex2 .warp 121 4 7) = true ∧
    reads .alu 0xA93CA434 [] (.flg2 .set 30 41 4) = true ∧
    reads .alu 0xE9873839 [] (.fsin .block 67 78 1) = true ∧
    reads .alu 0x29D1CC46 [] (.fcos .lane 104 115 6) = true ∧
    reads .alu 0x691A604B [] (.ffloor .warp 13 24 3) = true ∧
    reads .alu 0xA964F451 [] (.fceil .set 50 61 1) = true := by decide

theorem test_words_alu_3 :
    reads .alu 0xE9AF885D [] (.ftrunc .block 87 98 5) = true ∧
    reads .alu 0x29F81C62 [] (.frint .lane 124 7 2) = true ∧
    reads .alu 0x6942B06F [] (.ffract .warp 33 44 7) = true ∧
    reads .alu 0xAA8D46E7 [] (.hadd2 .set 70 81 92 7) = true ∧
    reads .alu 0xEBD7D80C [] (.hmul2 .block 107 118 1 4) = true ∧
    reads .alu 0x2C206D31 [] (.hfma2 .lane 16 27 38 1) = true ∧
    reads .alu 0x6D6B025E [] (.badd2 .warp 53 64 75 6) = true ∧
    reads .alu 0xAEB59783 [] (.bmul2 .set 90 101 112 3) = true ∧
    reads .alu 0xEFFE28A9 [] (.bfma2 .block 127 10 21 1) = true ∧
    reads .alu 0x3048BDD5 [] (.cvt .lane 36 47 58 5) = true ∧
    reads .alu 0x7128284B [] (.plop .warp 1 4 1 2 1 1 3) = true ∧
    reads .alu 0xB2DC0001 [] (.pmovGet .set 110 1) = true ∧
    reads .alu 0xF2004C0E [] (.pmovPut .block 19 6) = true ∧
    reads .alu 0x33710E71 [] (.idp4 .lane 56 67 78 1) = true := by decide

theorem test_words_mem_0 :
    reads .mem 0x40BBA39E [] (.ldUi8 .warp 93 104 115 6) = true ∧
    reads .mem 0x810434C3 [] (.ldI8 .set 2 13 24 3) = true ∧
    reads .mem 0xC24EC9E9 [] (.ldUi16 .block 39 50 61 1) = true ∧
    reads .mem 0x03995F15 [] (.ldI16 .lane 76 87 98 5) = true ∧
    reads .mem 0x44E3F03A [] (.ld32 .warp 113 124 7 2) = true ∧
    reads .mem 0x852C8567 [] (.ld64 .set 22 33 44 7) = true ∧
    reads .mem 0x0660EE31 [] (.ld128 .lane 48 59 70 1) = true ∧
    reads .mem 0x07C1AFB1 [] (.st8 .lane 96 107 118 1) = true ∧
    reads .mem 0x480A40DE [] (.st16 .warp 5 16 27 6) = true ∧
    reads .mem 0x8954D603 [] (.st32 .set 42 53 64 3) = true ∧
    reads .mem 0xCA9F6B29 [] (.st64 .block 79 90 101 1) = true ∧
    reads .mem 0x0BE9FC55 [] (.st128 .lane 116 127 10 5) = true ∧
    reads .mem 0x4C32917A [] (.lds32 .warp 25 36 47 2) = true ∧
    reads .mem 0x8D7D26A7 [] (.lds64 .set 62 73 84 7) = true ∧
    reads .mem 0x0EB18F71 [] (.lds128 .lane 88 99 110 1) = true ∧
    reads .mem 0x0F104CF1 [] (.sts32 .lane 8 19 30 1) = true ∧
    reads .mem 0x505AE21E [] (.sts64 .warp 45 56 67 6) = true ∧
    reads .mem 0x91A57743 [] (.sts128 .set 82 93 104 3) = true := by decide

theorem test_words_mem_1 :
    reads .mem 0xD2EE0869 [] (.ldc32 .block 119 2 13 1) = true ∧
    reads .mem 0x13389D95 [] (.atomAdd .lane 28 39 50 5) = true ∧
    reads .mem 0x548332BA [] (.atomMin .warp 65 76 87 2) = true ∧
    reads .mem 0x95CDC7E7 [] (.atomMax .set 102 113 124 7) = true ∧
    reads .mem 0xD616590C [] (.atomMinUi .block 11 22 33 4) = true ∧
    reads .mem 0x1760EE31 [] (.atomMaxUi .lane 48 59 70 1) = true ∧
    reads .mem 0x58AB835E [] (.atomAnd .warp 85 96 107 6) = true ∧
    reads .mem 0x99F41483 [] (.atomOr .set 122 5 16 3) = true ∧
    reads .mem 0xDA3EA9A9 [] (.atomXor .block 31 42 53 1) = true ∧
    reads .mem 0x1B893ED5 [] (.atomExch .lane 68 79 90 5) = true ∧
    reads .mem 0x5CD3D3FA [] (.atomCas .warp 105 116 127 2) = true ∧
    reads .mem 0x9D1C6527 [] (.atomInc .set 14 25 36 7) = true ∧
    reads .mem 0xDE66FA4C [] (.atomFadd .block 51 62 73 4) = true ∧
    reads .mem 0x1F0136C3 [] (.redAdd .lane 77 88 3) = true ∧
    reads .mem 0x2001CBE9 [] (.redMin .lane 114 125 1) = true ∧
    reads .mem 0x21005D15 [] (.redMax .lane 23 34 5) = true ∧
    reads .mem 0x2200F23A [] (.redAnd .lane 60 71 2) = true ∧
    reads .mem 0x23018767 [] (.redOr .lane 97 108 7) = true := by decide

theorem test_words_mem_2 :
    reads .mem 0x2400188C [] (.redXor .lane 6 17 4) = true ∧
    reads .mem 0x2500ADB1 [] (.redFadd .lane 43 54 1) = true ∧
    reads .mem 0xE6014003 [] (.bind .block 80 3) = true ∧
    reads .mem 0xE701D401 [] (.unbind .block 117 1) = true ∧
    reads .mem 0x68009430 [] (.acq .warp 37 48) = true ∧
    reads .mem 0xA9012815 [] (.rel .set 74 21) = true ∧
    reads .mem 0xEA01BC00 [] (.gateAcq .block 111) = true ∧
    reads .mem 0x2B087C02 [] (.gateTry .lane 4 31 2) = true ∧
    reads .mem 0x6C00E400 [] (.gateRel .warp 57) = true ∧
    reads .mem 0xADBDA404 [] (.sigLd .set 94 105 4) = true ∧
    reads .mem 0xEE063801 [] (.sigSt .block 3 14 1) = true ∧
    reads .mem 0x2F50CDF1 [] (.sigAdd .lane 40 51 62 1) = true ∧
    reads .mem 0x709B631E [] (.sigCas .warp 77 88 99 6) = true ∧
    reads .mem 0xB1E5F443 [] (.sigWait .set 114 125 8 3) = true ∧
    reads .mem 0xF2000001 [] (.fence .block 1) = true ∧
    reads .mem 0x33780007 [] (.xfence .lane 60 7) = true ∧
    reads .mem 0x74018767 [] (.cflush .warp 97 108 7) = true ∧
    reads .mem 0xB500188C [] (.cinv .set 6 17 4) = true := by decide

theorem test_words_mem_3 :
    reads .mem 0xF600ADB1 [] (.prefetch .block 43 54 1) = true := by decide

theorem test_words_mtx_0 :
    reads .mtx 0x808B42DE [] (.mmaT8 .set 69 80 91 6) = true ∧
    reads .mtx 0x81D5D40B [] (.mmaI8 .set 106 117 1 3) = true ∧
    reads .mtx 0x821E6929 [] (.mmaE4 .set 15 26 37 1) = true ∧
    reads .mtx 0x8368FE55 [] (.mmaE5 .set 52 63 74 5) = true ∧
    reads .mtx 0x84B3937A [] (.mmaBf .set 89 100 111 2) = true ∧
    reads .mtx 0x85FC24A7 [] (.mmaH .set 126 9 20 7) = true ∧
    reads .mtx 0x8646B9CC [] (.mmaF32 .set 35 46 57 4) = true ∧
    reads .mtx 0x493AA19E [] (.wload .warp 29 40 51 6) = true ∧
    reads .mtx 0x8A010805 [] (.accZero .set 66 5) = true ∧
    reads .mtx 0xCBCFC805 [] (.accRd .block 103 114 5) = true ∧
    reads .mtx 0x0C185C02 [] (.accWr .lane 12 23 2) = true ∧
    reads .mtx 0x4D00C5E7 [] (.accScale .warp 49 60 7) = true ∧
    reads .mtx 0x8E015801 [] (.accCvtF32I32 .set 86 1) = true ∧
    reads .mtx 0xCE01EC0E [] (.accCvtI32F32 .block 123 6) = true ∧
    reads .mtx 0x0F008003 [] (.tstore .lane 32 3) = true ∧
    reads .mtx 0x50011401 [] (.tstoreAdd .warp 69 1) = true ∧
    reads .mtx 0xD1017F55 [] (.winset .block 95 106 5) = true ∧
    reads .mtx 0xD21E6805 [] (.winget .block 15 26 5) = true := by decide

theorem test_words_mtx_1 :
    reads .mtx 0x1368FC02 [] (.rowmax .lane 52 63 2) = true ∧
    reads .mtx 0x54B39007 [] (.rowsum .warp 89 100 7) = true := by decide

theorem test_words_async_0 :
    reads .async 0x8001F801 [] (.copy .set 126 1) = true ∧
    reads .async 0xC1008C06 [] (.copyX24 .block 35 6) = true ∧
    reads .async 0xC3000315 [] (.filRun .block 98 5) = true ∧
    reads .async 0xC400003A [] (.filStop .block 7 2) = true ∧
    reads .async 0xC500B3D3 [] (.qcfg .block 44 3 1 1 1 3) = true ∧
    reads .async 0x06B80003 [] (.qstat .lane 92 3) = true ∧
    reads .async 0xC8006D31 [] (.gedge .block 27 38 1) = true ∧
    reads .async 0xC9000001 [] (.garm .block 1) = true ∧
    reads .async 0xC900000D [] (.garmClr .block 5) = true ∧
    reads .async 0xCA000002 [] (.gwait .block 2) = true ∧
    reads .async 0x8B000015 [] (.gset .set 2 5) = true ∧
    reads .async 0xCCBE00EA [] (.engStat .block 95 234) = true := by decide

theorem test_words_ctrl_0 :
    reads .ctrl 0x00000004 [] (.nop .lane 4) = true ∧
    reads .ctrl 0x41002129 [] (.bra .warp 8489) = true ∧
    reads .ctrl 0x03002168 [] (.call .lane 8552) = true ∧
    reads .ctrl 0x04003401 [] (.callI .lane 13 1) = true ∧
    reads .ctrl 0x05000002 [] (.ret .lane 2) = true ∧
    reads .ctrl 0x06000007 [] (.exit .lane 7) = true ∧
    reads .ctrl 0x47F80007 [] (.jinit .warp 124 7) = true ∧
    reads .ctrl 0x08420004 [] (.jwait .lane 33 4) = true ∧
    reads .ctrl 0x09000046 [] (.jleave .lane 70) = true ∧
    reads .ctrl 0xCB00029B [] (.barSync .block 667) = true ∧
    reads .ctrl 0x0C0002C0 [] (.barArrive .lane 704) = true ∧
    reads .ctrl 0x4D0002E5 [] (.barWait .warp 741) = true ∧
    reads .ctrl 0xCE0002FF [] (.barInit .block 767) = true ∧
    reads .ctrl 0x4F48BDD5 [] (.shfl .warp 36 47 58 5) = true ∧
    reads .ctrl 0x108E340B [] (.vote .lane 4 7 1 5 1 3) = true ∧
    reads .ctrl 0x51F2107A [] (.redux .warp 121 4 15 2) = true ∧
    reads .ctrl 0x923CA5A7 [] (.scan .set 30 41 52 7) = true ∧
    reads .ctrl 0xD400014C [] (.quota .block 1 1 3) = true := by decide

theorem test_words_ctrl_1 :
    reads .ctrl 0xD5043401 [] (.tileNext .block 2 13 1) = true ∧
    reads .ctrl 0x164EC9E9 [] (.spawn .lane 39 50 61 1) = true ∧
    reads .ctrl 0xD7000007 [] (.yield .block 7) = true ∧
    reads .ctrl 0x18F80087 [] (.s2r .lane 124 135) = true ∧
    reads .ctrl 0x594200AC [] (.featq .warp 33 172) = true ∧
    reads .ctrl 0x9A0000C6 [] (.trap .set 198) = true ∧
    reads .ctrl 0x1BC1AFB1 [] (.spawnSpec .lane 96 107 118 1) = true ∧
    reads .ctrl 0x1D000002 [] (.specEnd .lane 2) = true ∧
    reads .ctrl 0x1E000007 [] (.specCommit .lane 7) = true ∧
    reads .ctrl 0x1F000004 [] (.specAbort .lane 4) = true ∧
    reads .ctrl 0x20000001 [] (.specDrain .lane 1) = true ∧
    reads .ctrl 0x2100F801 [] (.specTable .lane 62 1) = true ∧
    reads .ctrl 0x22C7BBCC [] (.brx .lane 99 110 121 4) = true := by decide

theorem test_words_gfx_0 :
    reads .gfx 0xC0004C06 [] (.primEmit .block 19 6) = true ∧
    reads .gfx 0x0100B51E [] (.attrEmit .lane 45 1 3 6) = true ∧
    reads .gfx 0x02A402E9 [] (.attrIn .lane 82 93 1) = true ∧
    reads .gfx 0x07160009 [] (.tbLd .lane 11 1 1) = true ∧
    reads .gfx 0x0800C00E [] (.tbSt .lane 48 1 6) = true ∧
    reads .gfx 0x09015401 [] (.tbBlend .lane 85 1) = true ∧
    reads .gfx 0x0A000002 [] (.fragKill .lane 2) = true ∧
    reads .gfx 0x8B54D401 [] (.hallQPix .set 42 53 1) = true ∧
    reads .gfx 0xCB9F680D [] (.hallQGrant .block 79 90 5) = true ∧
    reads .gfx 0x0C29FC02 [] (.depthT .lane 1 4 127 2) = true := by decide

theorem test_words_sys_0 :
    reads .sys 0x40320024 [] (.srd .warp 25 36) = true ∧
    reads .sys 0x8100F849 [] (.swr .set 62 73) = true ∧
    reads .sys 0x42000001 [] (.eret .warp 1) = true ∧
    reads .sys 0x43FA2003 [] (.ctxRd .warp 125 8 3) = true ∧
    reads .sys 0x44008969 [] (.ctxWr .warp 34 45 1) = true ∧
    reads .sys 0x45011C02 [] (.ctxSave .warp 71 2) = true ∧
    reads .sys 0x4601B007 [] (.ctxLoad .warp 108 7) = true ∧
    reads .sys 0x470044E7 [] (.tlbInv .warp 17 28 7) = true ∧
    reads .sys 0x486D0404 [] (.wfi .warp 54 65 4) = true ∧
    reads .sys 0x49B60006 [] (.agentClaim .warp 91 6) = true ∧
    reads .sys 0x4A000403 [] (.blkStart .warp 1 3) = true ∧
    reads .sys 0x4B009401 [] (.blkStop .warp 37 1) = true ∧
    reads .sys 0x4C012805 [] (.vdevDrain .warp 74 5) = true ∧
    reads .sys 0x4D01BC02 [] (.poolClr .warp 111 2) = true ∧
    reads .sys 0x4E280007 [] (.faultRd .warp 20 7) = true ∧
    reads .sys 0x4F00E627 [] (.resumeContinue .warp 57 68 7) = true ∧
    reads .sys 0x4F037B4C [] (.resumeSkip .warp 94 105 4) = true ∧
    reads .sys 0x4F040C71 [] (.resumeKill .warp 3 14 1) = true := by decide

/-- Example words of the spec's entries (R66-R97, R146-R161). -/
theorem test_examples_sequential :
    reads .alu 0x010A0064 [] (.movi .lane 5 100) = true ∧ reads .alu 0x020C0000 [0x3F800000] (.movl .lane 6 0 0x3F800000) = true ∧
    reads .alu 0x0302081B [] (.sel .lane 1 2 3 3) = true ∧ reads .alu 0x04060410 [] (.iadd .lane 3 1 2 0) = true ∧
    reads .alu 0x05040401 [] (.iaddi .lane 2 1 1) = true ∧ reads .alu 0x19040604 [] (.shfiSar .lane 2 1 4) = true ∧
    reads .alu 0x31060450 [] (.plop .lane 0 3 0 1 1 2 0) = true ∧ reads .alu 0x29040410 [] (.frcp .lane 2 1 0) = true ∧
    reads .alu 0x2C0A1838 [] (.hfma2 .lane 5 6 7 0) = true ∧ reads .ctrl 0x04002000 [] (.callI .lane 8 0) = true ∧
    reads .ctrl 0x1A000007 [] (.trap .lane 7) = true ∧ reads .ctrl 0x18020001 [] (.s2r .lane 1 1) = true ∧
    reads .ctrl 0x19020005 [] (.featq .lane 1 5) = true ∧ reads .ctrl 0x47020000 [] (.jinit .warp 1 0) = true ∧
    reads .ctrl 0x08020000 [] (.jwait .lane 1 0) = true ∧ reads .ctrl 0x09000005 [] (.jleave .lane 5) = true ∧
    reads .ctrl 0x0C000018 [] (.barArrive .lane 24) = true ∧ reads .ctrl 0xCE000003 [] (.barInit .block 3) = true ∧
    reads .ctrl 0x4F040418 [] (.shfl .warp 2 1 3 0) = true ∧ reads .ctrl 0x500613C2 [] (.vote .warp 0 3 0 4 120 2) = true ∧
    reads .ctrl 0xD301A000 [0] (.setdecl .block 104 0 0) = true ∧ reads .ctrl 0xD5038800 [] (.tileNext .block 1 98 0) = true ∧
    reads .ctrl 0x16080410 [] (.spawn .lane 4 1 2 0) = true ∧ reads .ctrl 0x57000000 [] (.yield .warp 0) = true ∧
    reads .ctrl 0x1B081840 [] (.spawnSpec .lane 4 6 8 0) = true ∧
    reads .ctrl 0x1C143070 [1] (.specOp .lane 10 12 14 0 1) = true ∧ reads .ctrl 0x21000800 [] (.specTable .lane 2 0) = true := by
  decide

/-- A branch of two pairs: p1, then not p2, in the written order (R29, R87). -/
theorem test_examples_brm :
    reads .ctrl 0x02000010 [0x20000008, 0x5FFFFFF8] (.brm .lane [0x20000008, 0x5FFFFFF8]) = true := by decide

/-- Example words of the memory, engine, drawing and system entries. -/
theorem test_examples_rest :
    reads .mem 0x130A0820 [] (.atomAdd .lane 5 2 4 0) = true ∧ reads .mem 0x1207E008 [] (.ldc32 .lane 3 120 1 0) = true ∧
    reads .mem 0x0D0807F8 [] (.lds64 .lane 4 1 (-1) 0) = true ∧ reads .mem 0xE601A000 [] (.bind .block 104 0) = true ∧
    reads .mem 0x28002401 [] (.acq .lane 9 1) = true ∧ reads .mem 0x29002402 [] (.rel .lane 9 2) = true ∧
    reads .mem 0x2A002800 [] (.gateAcq .lane 10) = true ∧ reads .mem 0x2B042800 [] (.gateTry .lane 2 10 0) = true ∧
    reads .mem 0x33020002 [] (.xfence .lane 1 2) = true ∧ reads .mem 0x32000001 [] (.fence .lane 1) = true ∧
    reads .mem 0x36000810 [] (.prefetch .lane 2 2 0) = true ∧ reads .mem 0x310C0C40 [] (.sigWait .lane 6 3 8 0) = true ∧
    reads .mtx 0x84064320 [] (.mmaBf .set 3 16 100 0) = true ∧
    reads .mtx 0x87042320 [0x94] (.mmaT8s .set 2 8 100 0 0x94) = true ∧
    reads .mtx 0x88042320 [0x14] (.mmaI8s .set 2 8 100 0 0x14) = true ∧
    reads .mtx 0x8D019860 [] (.accScale .set 102 12 0) = true ∧ reads .mtx 0x8E019808 [] (.accCvtI32F32 .set 102 0) = true ∧
    reads .mtx 0xD1018B20 [] (.winset .block 98 100 0) = true ∧ reads .async 0xC2018800 [1] (.filLoad .block 98 0 1) = true ∧
    reads .async 0xC5018DA3 [] (.qcfg .block 99 1 1 0 2 3) = true ∧
    reads .async 0xC7CB8800 [0x20] (.gnode .block 101 98 0 0x20) = true ∧ reads .async 0xCB000013 [] (.gset .block 2 3) = true ∧
    reads .gfx 0x01000E28 [] (.attrEmit .lane 3 2 5 0) = true ∧ reads .gfx 0x02080008 [] (.attrIn .lane 4 1 0) = true ∧
    reads .gfx 0x03100800 [7] (.texS .lane 8 2 0 7) = true ∧ reads .gfx 0x04100800 [7] (.texL .lane 8 2 0 7) = true ∧
    reads .gfx 0x05100800 [7] (.texF .lane 8 2 0 7) = true ∧ reads .gfx 0x06100800 [0x30007] (.texG .lane 8 2 0 0x30007) = true ∧
    reads .gfx 0x0C641C00 [] (.depthT .lane 3 2 7 0) = true ∧ reads .gfx 0x0B080808 [] (.hallQGrant .lane 4 2 0) = true ∧
    reads .sys 0x40C40000 [] (.srd .warp 98 0) = true ∧ reads .sys 0x41019000 [] (.swr .warp 100 0) = true ∧
    reads .sys 0x44019820 [] (.ctxWr .warp 102 4 0) = true ∧ reads .sys 0x48C18400 [] (.wfi .warp 96 97 0) = true ∧
    reads .sys 0x4ED80000 [] (.faultRd .warp 108 0) = true ∧ reads .sys 0x4F038710 [] (.resumeSkip .warp 97 98 0) = true := by
  decide

/-- BRK with j0 and j1, guarded, and its literal (R38, R149). -/
theorem test_examples_brk : reads .ctrl 0x0A030004 [5] (.brk .lane 3 4 5) = true := by decide

/-- Words that are none: an unassigned opcode, a reserved field, a missing literal, BRM with a bad n (R42). -/
theorem test_words_refused :
    decodeWord .alu 0x34000000 [] = .error .illegalOp ∧ decodeWord .alu 0x00000008 [] = .error .illegalOp ∧
    decodeWord .alu 0x020C0000 [] = .error .illegalClause ∧ decodeWord .ctrl 0x02000000 [1] = .error .illegalOp ∧
    decodeWord .ctrl 0x02000028 [1, 2, 3, 4, 5] = .error .illegalOp ∧ decodeWord .ctrl 0x02000010 [1] = .error .illegalClause ∧
    decodeWord .sys 0x10000000 [] = .error .illegalOp ∧ decodeWord .alu 0x29000070 [] = .error .illegalOp := by decide

/-- Headers that fail R27: bits [31:28], COUNT 0, a class of 7, a flag field of 12. -/
theorem test_headers_refused :
    decodeHeader 0x44302423 = none ∧ decodeHeader 0xA4302420 = none ∧ decodeHeader 0xA43024E3 = none ∧
    decodeHeader 0xAC302423 = none ∧ (decodeHeader 0xAFF00001).isSome = true := by decide

/-- The host's table word: the first class in the order of log entry 5 that reads it well-formed. -/
theorem test_table_word : decodeTableWord 32 0x04060410 = some (.iadd .lane 3 1 2 0) ∧
    (decodeTableWord 32 0x00000000).isSome = true ∧ decodeTableWord 0 0 = none := by decide

/-! ## Ill-formed terms, one for each check (R42) -/

/-- Codes: a comparison of 6, a reduction of 11, a join register 8, a status word 4, an empty BRM. -/
theorem test_ill_codes :
    Instr.wfError 96 (.isetp .lane 6 0 1 2 3 0) = some .illegalOp ∧ Instr.wfError 96 (.plop .lane 3 1 0 1 0 2 0) = some .illegalOp ∧
    Instr.wfError 96 (.redux .warp 97 1 11 0) = some .illegalOp ∧ Instr.wfError 96 (.jwait .lane 8 0) = some .illegalOp ∧
    Instr.wfError 96 (.engStat .block 96 4) = some .illegalOp ∧ Instr.wfError 96 (.gset .block 3 0) = some .illegalOp ∧
    Instr.wfError 96 (.filRun .block 4 0) = some .illegalOp ∧ Instr.wfError 96 (.attrEmit .lane 1 3 0 0) = some .illegalOp ∧
    Instr.wfError 96 (.attrIn .lane 1 17 0) = some .illegalOp ∧ Instr.wfError 96 (.brm .lane []) = some .illegalOp := by decide

/-- Register fields: a port as destination, an odd pair, a quad off its multiple, a vector where a uniform is due, a run
past its end (R30, R31). -/
theorem test_ill_registers :
    Instr.wfError 96 (.mov .lane 124 1 0) = some .illegalOp ∧ Instr.wfError 96 (.mov .lane 1 121 0) = some .illegalOp ∧
    Instr.wfError 96 (.ld64 .lane 3 4 0 0) = some .illegalOp ∧ Instr.wfError 96 (.ld32 .lane 1 3 0 0) = some .illegalOp ∧
    Instr.wfError 96 (.ld128 .lane 6 4 0 0) = some .illegalOp ∧ Instr.wfError 96 (.blkStart .warp 4 0) = some .illegalOp ∧
    Instr.wfError 96 (.faultRd .warp 109 0) = some .illegalOp ∧ Instr.wfError 96 (.faultRd .warp 110 0) = some .illegalOp ∧
    Instr.wfError 96 (.agentClaim .warp 118 0) = some .illegalOp := by decide

/-- Scopes: one the opcode map does not allow, a uniform destination at lane scope, a vector one at a wider scope (R9,
R30). -/
theorem test_ill_scopes :
    Instr.wfError 96 (.exit .warp 0) = some .illegalScope ∧ Instr.wfError 96 (.mmaI8 .lane 0 0 96 0) = some .illegalScope ∧
    Instr.wfError 96 (.mov .lane 96 1 0) = some .illegalScope ∧ Instr.wfError 96 (.mov .warp 1 2 0) = some .illegalScope ∧
    Instr.wfError 96 (.qcfg .lane 96 0 0 0 0 1) = some .illegalScope := by decide

/-- Quotas: a register at the quota, the second of a pair past it, a run past it (R8). -/
theorem test_ill_quota :
    Instr.wfError 32 (.iadd .lane 3 32 2 0) = some .regRange ∧ Instr.wfError 32 (.iadd .lane 31 30 2 0) = none ∧
    Instr.wfError 32 (.ld64 .lane 32 4 0 0) = some .regRange ∧ Instr.wfError 31 (.ld64 .lane 30 4 0 0) = some .regRange ∧
    Instr.wfError 32 (.ld64 .lane 30 4 0 0) = none := by decide


/-! ## Single steps

Values of the spec's tables and examples. -/

/-- The result of one instruction of thread 0, with its vector registers and then its uniform ones, in v3. -/
def res (i : Instr) (v : Tab Word) : Option Word := outReg (exec i (user .lane v [])) 0 3

/-- The integer table of R73. -/
theorem test_step_integer :
    res (.imulh .lane 3 1 2 0) [(1, 0xFFFFFFFF), (2, 2)] = some 0xFFFFFFFF ∧
    res (.imulhUi .lane 3 1 2 0) [(1, 0xFFFFFFFF), (2, 2)] = some 1 ∧
    res (.idp4 .lane 3 1 2 0) [(1, 0x01FF0203), (2, 0x02020202), (3, 5)] = some 0xF ∧
    res (.bfe .lane 3 1 2 0) [(1, 0xA50), (2, 0x10804)] = some 0xFFFFFFA5 ∧
    res (.bfe .lane 3 1 2 0) [(1, 0xA50), (2, 0x804)] = some 0xA5 ∧
    res (.bfi .lane 3 1 2 0) [(1, 3), (2, 0x21E)] = some 0xC0000000 ∧
    res (.sar .lane 3 1 2 0) [(1, 0x80000000), (2, 0x28)] = some 0xFFFFFFFF ∧
    res (.clz .lane 3 1 0) [(1, 0)] = some 32 := by decide

/-- IADD wraps, ISUB takes B from A, and a false guard leaves v3 as it was (R64, R69). -/
theorem test_step_add :
    res (.iadd .lane 3 1 2 0) [(1, 0xFFFFFFFF), (2, 3)] = some 2 ∧ res (.isub .lane 3 1 2 0) [(1, 3), (2, 5)] = some 0xFFFFFFFE ∧
    res (.iadd .lane 3 1 2 1) [(1, 1), (2, 3), (3, 9)] = some 9 ∧ res (.movi .lane 3 0x1FFFF) [] = some 0xFFFFFFFF ∧
    res (.sel .lane 3 1 2 1) [(1, 7), (2, 8)] = some 8 := by decide

/-- The examples of R76 and of the floating tables: FFMA 2 × 3 + 1; a tie to even; a denormal product; 1/3. -/
theorem test_step_float :
    outReg (exec (.ffma .lane 4 1 2 0) (user .lane [(1, 0x40000000), (2, 0x40400000), (4, 0x3F800000)] [])) 0 4
      = some 0x40E00000 ∧
    res (.fadd .lane 3 1 2 0) [(1, 0x3F800001), (2, 0x33800000)] = some 0x3F800002 ∧
    res (.fmul .lane 3 1 2 0) [(1, 0x00800000), (2, 0x3F000000)] = some 0x00400000 ∧
    res (.hadd2 .lane 3 1 2 0) [(1, 0x3C007BFF), (2, 0x3C007BFF)] = some 0x40007C00 := by decide +kernel

theorem test_step_recip : res (.frcp .lane 3 1 0) [(1, 0x40400000)] = some 0x3EAAAAAB := by decide +kernel

/-- CVT of 160.0 to I8 saturates (R60). -/
theorem test_step_cvt : res (.cvt .lane 3 1 0x54 0) [(1, 0x43200000)] = some 0x7F := by decide +kernel

/-- A state with eight lanes of warp 0 live, with v2 of the spec's example; lane 3 has p1 false. -/
def eight : State :=
  let vs : List Word := [3, 1, 4, 1, 5, 9, 2, 6]
  { State.reset with
    started := true, warps := [(0, warp [])], blocks := [(0, block)]
    threads := (vs.zipIdx).map fun e => (e.2, { thread [(2, e.1)] with p := if e.2 = 3 then 0 else 2 })
    issues := [(0, { clause .warp 0 with group := List.range 8, all := List.range 8 })] }

/-- The example of R156: SCAN.IADD and REDUX.IADD. -/
theorem test_step_scan :
    ((List.range 8).map fun t => outReg (exec (.scan .warp 3 2 0 1) eight) t 3)
      = [some 3, some 4, some 8, some 0, some 13, some 22, some 24, some 30] ∧
    outReg (exec (.redux .warp 100 2 0 1) eight) 0 100 = some 30 := by decide +kernel

/-- Lane scope SHFL and VOTE in the warp of the example. -/
theorem test_step_vote : outReg (exec (.vote .warp 0 0 0 1 100 0) eight) 0 100 = some 0xF7 := by decide +kernel

/-- Comparisons read A and B as signed or unsigned (R74). -/
theorem test_step_compare :
    then_ (exec (.isetp .lane 2 0 1 1 2 0) (user .lane [(1, 0xFFFFFFFF), (2, 1)] [])) (fun s => s.pred 0 1) = true ∧
    then_ (exec (.isetp .lane 2 1 1 1 2 0) (user .lane [(1, 0xFFFFFFFF), (2, 1)] [])) (fun s => !s.pred 0 1) = true ∧
    then_ (exec (.fsetp .lane 7 4 1 1 0) (user .lane [(1, 0x7FC00000)] [])) (fun s => s.pred 0 4) = true := by decide +kernel

/-! ## Witnesses: a state and operands that meet the hypotheses of each statement, and of each of its clauses -/

/-- Thread 0 with an address of stack memory in v2 and v4, 3 in v6, and data in v7 to v10. -/
def memUser : State :=
  user .lane [(2, 0x8000), (4, 0x8000), (6, 3), (7, 0x11223344), (8, 0x55667788), (10, 7)] []

def memClause : Issue := clause .lane 0

theorem mem_ready : OneActor memUser memClause .lane 0 0 := user_ready .lane _ _

theorem plain_of (c : BitVec 7) (h : c.toNat < 124) : plain c := h

theorem witness_MovesAndIntegerArithmetic :
    Setting memUser memClause ∧ allowed .lane 95 ∧ allowed .lane 120 ∧ allowed .warp 96 ∧ plain 123 :=
  ⟨mem_ready.1, Or.inl (by decide), Or.inr (by decide), by show 96 ≤ _; decide, by show _ < _; decide⟩

theorem witness_IntegerLogicAndFields :
    Setting (user .warp [] [(1, 9)]) (clause .warp 0) ∧ allowed .warp 119 ∧ plain 97 ∧ Setting memUser memClause ∧
    allowed .lane 0 ∧ plain 7 :=
  ⟨(user_ready .warp _ _).1, by show 96 ≤ _; decide, by show _ < _; decide, mem_ready.1, Or.inl (by decide),
    by show _ < _; decide⟩

theorem witness_ComparisonsAndPredicates : Setting memUser memClause ∧ plain 6 ∧ plain 120 ∧ allowed .lane 9 :=
  ⟨mem_ready.1, by show _ < _; decide, by show _ < _; decide, Or.inl (by decide)⟩

/-- CVT: type codes below 7, and a code of 7 with one actor. -/
theorem witness_FloatsAndConversions :
    Setting memUser memClause ∧ allowed .lane 9 ∧ plain 6 ∧
    ((0x20 : BitVec 7).toNat / 16 ≠ 7 ∧ (0x20 : BitVec 7).toNat / 2 % 8 ≠ 7) ∧ (0x7E : BitVec 7).toNat / 16 = 7 ∧
    memUser.actors memClause .lane 0 = [0] :=
  ⟨mem_ready.1, Or.inl (by decide), by show _ < _; decide, by decide, by decide, rfl⟩

/-- F32: DENORM 1 and 0; NaNs, infinities of both signs and zero times infinity; a finite sum that is 0, one that is not,
and two NaNs. -/
theorem witness_F32Arithmetic :
    (∃ m : Modes, m.daz = true) ∧ (∃ m : Modes, m.daz = false) ∧ 0x7F800000 < (0x7FC00001 : Word).toNat % 2 ^ 31 ∧
    (0x7F800000 : Word).toNat % 2 ^ 31 = 0x7F800000 ∧ (0xFF800000 : Word).toNat % 2 ^ 31 = 0x7F800000 ∧
    (0x80000000 : Word).toNat % 2 ^ 31 = 0 ∧ f32Finite 0x3F800000 ∧ f32Finite 0xBF800000 ∧
    f32Value 0x3F800000 + f32Value 0xBF800000 = 0 ∧ f32Value 0x3F800000 + f32Value 0x3F800000 ≠ 0 := by
  refine ⟨⟨⟨false, true, 0⟩, rfl⟩, ⟨⟨false, false, 0⟩, rfl⟩, by decide, by decide, by decide, by decide, ?_, ?_, ?_, ?_⟩
  · show _ ≠ _; decide
  · show _ ≠ _; decide
  · simp [f32Value]
  · simp [f32Value]

/-- Packed halves, the halves of a NaN and of an infinity; integral values of a NaN, an infinity and a number with a fraction;
the table's sources; a saturated integer, a rounded one and a float in each kind of conversion. -/
theorem witness_FloatValues :
    (0 < 2 ∧ 1 < 2) ∧ fltNan 5 10 0x7E00 ∧ fltInf 8 7 0x7F80 ∧ fltFinite 5 10 0x3C00 ∧ fltFinite 8 7 0x3F80 ∧
    0x7F800000 < (0x7FC00001 : Word).toNat % 2 ^ 31 ∧ (0xFF800000 : Word).toNat % 2 ^ 31 = 0x7F800000 ∧
    f32Finite 0x3FC00000 ∧ f32Value 0x3FC00000 = 3 / 2 ∧ f32Value 0x40000000 = (2 : ℚ) ^ (1 : ℤ) ∧
    (∃ m : Modes, m.trans = 0 ∧ m.daz = false) ∧ (∃ m : Modes, m.trans = 0 ∧ m.daz = true) ∧
    (∃ m : Modes, m.trans ∈ [1, 2, 3]) ∧ (0 < 7 ∧ 6 < 7) := by
  refine ⟨by decide, ?_, ?_, ?_, ?_, by decide, by decide, ?_, ?_, ?_, ⟨⟨false, false, 0⟩, rfl, rfl⟩, ⟨⟨false, true, 0⟩, rfl, rfl⟩,
    ⟨⟨false, false, 3⟩, by decide⟩, by decide⟩
  · show _ ∧ _; decide
  · show _ ∧ _; decide
  · show _ ≠ _; decide
  · show _ ≠ _; decide
  · show _ ≠ _; decide
  · rw [f32Value]; rw [if_neg (by decide), if_neg (by decide), show (0x3FC00000 : Word).toNat = 0x3FC00000 from rfl]; norm_num
  · rw [f32Value]; rw [if_neg (by decide), if_neg (by decide), show (0x40000000 : Word).toNat = 0x40000000 from rfl]; norm_num

/-- Loads and stores of 16 bytes at 0x8000, which translates to itself. -/
theorem witness_GlobalAccesses :
    OneActor memUser memClause .lane 0 0 ∧ memUser.mem.wf = true ∧ (memUser.pairReg 0 4).toNat % 16 = 0 ∧
    (memUser.pairReg 0 4).toNat < 2 ^ 48 ∧
    (placed memUser (access memUser memClause .lane 0 true (.load 0x8000 16 false 8)) 0 0x8000 16 .read true).1 =
      .ok (0x8000, 0) ∧
    (placed memUser (access memUser memClause .lane 0 false (.store 0x8000 [])) 0 0x8000 16 .write true).1 =
      .ok (0x8000, 0) ∧ targetOf 0x8000 = .stack ∧ memUser.windowOps 0 (0x8000 / 4096) = [] :=
  ⟨mem_ready, rfl, rfl, by decide, rfl, rfl, rfl, rfl⟩

/-- Misaligned: 3 in v6 is the address of a pair. -/
theorem witness_BadAddressesStopTheirThreads :
    OneActor memUser memClause .lane 0 0 ∧ plain 10 ∧ (memUser.pairReg 0 6).toNat % 2 ≠ 0 ∧
    (∃ f, (placed memUser (access memUser memClause .lane 0 true (.load 0x600000000000 4 false 1)) 0
      0x600000000000 4 .read false).1 = .error f ∧ f.parks = true) ∧ memUser.windowOps 0 (0x600000000000 / 4096) = [] :=
  ⟨mem_ready, by show _ < _; decide, by decide, ⟨_, rfl, rfl⟩, rfl⟩

theorem witness_AtomicsAndReductions :
    OneActor memUser memClause .lane 0 0 ∧ memUser.mem.wf = true ∧ plain 7 ∧ (memUser.pairReg 0 4).toNat % 4 = 0 ∧
    (placed memUser (access memUser memClause .lane 0 true (.atom 0x8000 .add 0x11223344 0 1)) 0
      (memUser.pairReg 0 4) 4 .rw true).1 = .ok (0x8000, 0) ∧
    (placed memUser (access memUser memClause .lane 0 true (.red 0x8000 .fadd 0x11223344)) 0
      (memUser.pairReg 0 4) 4 .rw true).1 = .ok (0x8000, 0) ∧ targetOf 0x8000 = .stack ∧
    memUser.windowOps 0 (0x8000 / 4096) = [] :=
  ⟨mem_ready, rfl, by show _ < _; decide, rfl, rfl, rfl, rfl, rfl⟩

/-- The last aligned quad below the limit of 65,536 bytes; one past it; a misaligned offset; the constant limit. -/
theorem witness_ScratchpadAndConstantAccesses :
    let s := user .lane [(1, 0xFFF0), (2, 0x10000), (3, 2), (4, 0xFFC)] []
    OneActor s memClause .lane 0 0 ∧ plain 1 ∧ s.scratch.wf = true ∧ 16384 * (s.block 0).scr = 65536 ∧
    (s.reg 0 1).toNat % 16 = 0 ∧ (s.reg 0 1).toNat + 16 ≤ 65536 ∧ s.poisoned (scratchAddr 0 (s.reg 0 1).toNat) 16 = false ∧
    (s.reg 0 2).toNat % 16 = 0 ∧ 65536 < (s.reg 0 2).toNat + 16 ∧ (s.reg 0 3).toNat % 4 ≠ 0 ∧
    (s.reg 0 4).toNat % 4 = 0 ∧ (s.reg 0 4).toNat + 4 ≤ 4096 :=
  ⟨user_ready .lane _ _, by show _ < _; decide, rfl, rfl, rfl, by decide, rfl, rfl, by decide, by decide, rfl, by decide⟩

/-- BIND of 64 bytes to the task's object, and of a size of 0. -/
theorem witness_RegionsAndMaintenance :
    let s := user .block [] [(0, 0x8000), (2, 64), (4, 0x10000000), (6, 3)]
    Setting s (clause .block 0) ∧ s.actors (clause .block 0) .block 0 = [0] ∧
    ((s.pairReg 0 96).toNat % 64 = 0 ∧ (s.pairReg 0 98).toNat % 64 = 0 ∧ (s.pairReg 0 98).toNat ≠ 0 ∧
      (s.objOf 0 (s.reg 0 100)).isSome = true ∧ (s.block 0).regions = []) ∧
    (s.pairReg 0 104).toNat = 0 ∧
    OneActor memUser memClause .lane 0 0 ∧ plain 10 ∧
    ((memUser.reg 0 10).toNat ≠ 0 ∧ 2 ^ 48 < (user .lane [(2, 0xFFFFFFFF), (3, 0xFFFF)] []).pairReg 0 2 + 7) ∧
    ((memUser.reg 0 10).toNat ≠ 0 ∧ (memUser.pairReg 0 4).toNat % 4096 + 7 ≤ 4096 ∧ 2 ^ 48 - 1 + 1 ≤ 2 ^ 48 ∧
      ((issuing memUser (access memUser memClause .lane 0 true (.cmaint false 0x8000 7))).translateFor 0 0 0 0x8000 .read false).1 =
        .ok (0x8000, 0)) :=
  ⟨(user_ready .block _ _).1, rfl, ⟨rfl, rfl, by decide, rfl, rfl⟩, rfl, mem_ready, by show _ < _; decide,
    ⟨by decide, by decide⟩, ⟨by decide, by decide, by decide, rfl⟩⟩

/-- Objects: a word that names none, the object of barrier b0, and a gate. -/
theorem witness_ReleasesAcquiresAndGates :
    let s := user .lane [(1, 0xFFFFFFFF), (2, 0x10000000), (3, 0x40000000)] []
    OneActor s memClause .lane 0 0 ∧ plain 1 ∧ s.objOf 0 (s.reg 0 1) = none ∧
    (∃ k, s.objOf 0 (s.reg 0 2) = some k ∧ keyKind k ≠ 4 ∧ keyKind k ≠ 5) ∧
    (∃ k, s.objOf 0 (s.reg 0 3) = some k ∧ keyKind k = 4 ∧ (s.gate k).owner = none) ∧
    (∃ z : State, ∃ k o, z.objOf 0 (z.reg 0 3) = some k ∧ (z.gate k).owner = some o ∧ o ≠ ownerCode 0 0 .lane ∧
      OneActor z memClause .lane 0 0) ∧
    (∃ z : State, ∃ k, z.objOf 0 (z.reg 0 3) = some k ∧ (z.gate k).owner = some (ownerCode 0 0 .lane) ∧
      (z.gate k).wait = [(5, 2)] ∧ OneActor z memClause .lane 0 0) := by
  refine ⟨user_ready .lane _ _, by show _ < _; decide, rfl, ⟨_, rfl, by decide, by decide⟩, ⟨_, rfl, by decide, rfl⟩,
    ⟨{ user .lane [(3, 0x40000000)] [] with blocks := [(0, { block with gates := [(0, { owner := some 5, wait := [] })] })] },
      _, 5, rfl, rfl, by decide, ready rfl rfl rfl⟩,
    ⟨{ user .lane [(3, 0x40000000)] [] with
      blocks := [(0, { block with gates := [(0, { owner := some (ownerCode 0 0 .lane), wait := [(5, 2)] })] })] },
      _, rfl, rfl, rfl, ready rfl rfl rfl⟩⟩

/-- A grant of two words from 4096: index 1 is the last inside, index 2 the first outside. -/
theorem witness_SignalWords :
    let s := { user .lane [(1, 1), (2, 2)] [] with vdevs := [(0, { Vdev.empty with sig := 0x0000000200001000 })] }
    OneActor s memClause .lane 0 0 ∧ plain 1 ∧ s.grant 0 = (4096, 2) ∧ (s.grant (s.tagOf 0).1).2 ≤ (s.reg 0 2).toNat % 2 ^ 19 ∧
    (s.reg 0 1).toNat % 2 ^ 19 < (s.grant (s.tagOf 0).1).2 ∧ s.proxyFor (s.tagOf 0).1 1 = none ∧ s.turning 0 1 = false ∧ (s.grant 0).1 + 1 < 2 ^ 19 ∧
    (s.grant 0).1 + 1 ≠ 0 :=
  ⟨ready rfl rfl rfl, by show _ < _; decide, rfl, by decide, by decide, rfl, rfl, by decide, by decide⟩

/-- A launch record of a work of 8 indices, in batches of 4, that places one block of one warp on core 0. -/
def record : Record :=
  { code := 0x1000, args := 0x3000, stack := 0x100000, spstack := 0, ovfl := 0, regions := 0, barmask := 0, budget := 96
    warps := 1, prio := 3, fields := 1, part := 0x410, batch := 4, spawnT := 0, stackSz := 16, ovflN := 0, regionN := 0
    extents := [7], widths := [3], argsSz := 0, cores := 1, sets := [0, 0, 0, 0], waits := [], done := none }

/-- A launch of queue 0 of virtual device 0. -/
def launch (ph : LPhase) : Launch :=
  { vdev := 0, queue := 0, ctx := 0, record := record, cls := 3, argBytes := [], masks := [], regions := [], latched := []
    acquired := [], ticket := some 1, phase := ph, cores := [0], reserved := [0], installed := [0], homeCounter := 4
    runs := [{ next := 0, stop := 4 }, { next := 0, stop := 0 }], cbars := [], gbars := [], refills := [], spec := Spec.empty
    pass := none }

/-- Operations in flight: none, an atomic with its value, a constant load, a reduction, a wait for a signal, and a load of
8 bytes into v30 below the quota of 32. -/
def flying (a : Acc) (res : Option (List Word)) : State :=
  { memUser with
    ops := [(0, { thr := 0, acc := access memUser memClause .lane 0 true a, pa := 0x8000, mt := 0, epoch := 0, serial := 0
                  result := res })]
    nextOp := 1 }

theorem witness_OperationsComplete :
    memUser.ops.find 0 = none ∧
    ((flying (.atom 0x8000 .add 1 0 5) (some [7])).ops.find 0).bind Op.result = some [7] ∧
    ((flying (.ldc 4 5) (some [7])).ops.find 0).bind Op.result = some [7] ∧
    ((flying (.red 0x8000 .add 1) (some [])).ops.find 0).bind Op.result = some [] ∧
    ((flying (.sigWait 0 0 1 5) none).ops.find 0).map Op.result = some none ∧
    (((flying (.sigWait 0 0 1 5) none).ops.find 0).map fun o => decide (o.pa < awayBase)) = some true ∧
    (flying (.red 0x8000 .add 1) (some [])).away 0 = false ∧
    ({ flying (.red 0x8000 .add 1) (some []) with launches := [(0, launch (.saved false))] } : State).away 0 = true ∧
    (let s := flying (.load 0x8000 8 false 30) none
     (s.ops.find 0).map Op.result = some none ∧ targetOf 0x8000 = .stack ∧ 8 ≤ 8 ∧ 30 < 95 ∧ (s.thr 0).live = true ∧
     30 + 1 < s.resultLimit 0 (access memUser memClause .lane 0 true (.load 0x8000 8 false 30)) ∧ (s.wlog.all fun e => !e.touches 0x8000 8) = true) :=
  ⟨rfl, rfl, rfl, rfl, rfl, by decide, rfl, rfl, rfl, rfl, by decide, by decide, rfl, by decide, rfl⟩

/-- Memory that holds a clause header at 0x1000 and at 0x2000, and a function word of budget 8 below the second. -/
def codeMem : Mem :=
  [(0x1000, 0x01), (0x1002, 0xF0), (0x1003, 0xAF), (0x1FFC, 0x08), (0x1FFF, 0x50), (0x2000, 0x01), (0x2002, 0xF0), (0x2003, 0xAF),
   (0x8001, 0x20)]

/-- Thread 0 with the address 0x2000 in v2, of the table at 0x8000 in v4, 1 in v6, and code in memory. -/
def coder (f : Thread → Thread) : State :=
  { user .lane [] [] with
    threads := [(0, f (thread [(2, 0x2000), (4, 0x8000), (6, 1), (9, 0x8001)]))], mem := codeMem }

theorem witness_TableBranchesAndRefillsArrive :
    (let s := coder id
     OneActor s memClause .lane 0 0 ∧ plain 0 ∧ (s.reg 0 0).toNat ≤ (s.reg 0 0).toNat ∧ (s.reg 0 0).toNat < (s.reg 0 6).toNat ∧
     (s.pairReg 0 4).toNat % 8 = 0 ∧ (s.pairReg 0 9).toNat % 8 ≠ 0 ∧ (s.translate 0 0x8000 8 .read false).1 = .ok (0x8000, 0) ∧
     ((coder fun th => { th with popped := some 7 }).thr 0).popped.getD 0 = 7) ∧
    (let s := coder fun th => { th with brx := some { va := 0x8000, region := 0 } }
     (s.thr 0).brx = some { va := 0x8000, region := 0 } ∧ s.mayArrive 0 = true ∧ s.ops = [] ∧
     (s.translate 0 0x8000 8 .read false).1 = .ok (0x8000, 0) ∧ targetOf 0x8000 = .stack ∧
     (s.wlog.all fun w => !w.touches 0x8000 8) = true ∧ BitVec.ofNat 64 (natOfBytes (s.bytesAt 0x8000 8)) = (0x2000 : Dword) ∧
     s.badTarget 0 0x2000 = false) ∧
    (let s := coder fun th => { th with refill := some { va := 0x8000, region := 0 }, sp := 0x8000, spilled := 1, depth := 1 }
     (s.thr 0).refill = some { va := 0x8000, region := 0 } ∧ s.mayArrive 0 = true ∧ s.ops = [] ∧ targetOf 0x8000 = .stack ∧
     (s.translate 0 0x8000 16 .read true).1 = .ok (0x8000, 0) ∧
     (s.wlog.all fun w => !w.touches 0x8000 8 && !w.touches (0x8000 + 8) 8) = true ∧ s.badTarget 0 0x2000 = false) := by
  refine ⟨⟨ready rfl rfl rfl, by show _ < _; decide, by decide, by decide, rfl, by decide, rfl, rfl⟩,
    ⟨rfl, rfl, rfl, rfl, rfl, rfl, by decide, by decide⟩, ⟨rfl, rfl, rfl, rfl, rfl, rfl, by decide⟩⟩

/-- Branches: a target that is a header; the target 0x1000 + 4 × 1 is none, so it fails; one off its alignment and one
past 2^48 fail. -/
theorem witness_BranchesAndTheirTargets :
    (let s := coder id
     OneActor s memClause .lane 0 0 ∧ s.badTarget 0 (BitVec.ofInt 64 (memClause.hdr.toNat + 4 * 1024)) = false ∧
     s.badTarget 0 (BitVec.ofInt 64 (memClause.hdr.toNat + 4 * 1)) = true ∧ memClause.group = [0] ∧
     (0x2001 : Dword).toNat % 4 ≠ 0 ∧ 2 ^ 48 ≤ (0x1000000000000 : Dword).toNat ∧
     ((s.fetch 0 0x1004).1.toOption.map decodeHeader) = some none ∧ (s.pairReg 0 9).toNat % 4 ≠ 0) :=
  ⟨ready rfl rfl rfl, by decide, by decide, rfl, by decide, by decide, rfl, by decide⟩

/-- Calls: a free place on chip; a function word of budget 8 and of 40 with a quota of 32; and four entries on chip. -/
theorem witness_CallsReturnsAndExits :
    (let s := coder id
     OneActor s memClause .lane 0 0 ∧ (s.thr 0).ret.length < 4 ∧ (s.pairReg 0 2).toNat % 4 = 0 ∧
     (s.fetch 0 (s.pairReg 0 2 - 4).toNat).1 = .ok 0x50000008 ∧ functionBudget 0x50000008 = some 8 ∧
     functionBudget 0x50000028 = some 40 ∧ functionBudget 0 = none ∧ 8 ≤ (s.warp (warpKeyOf 0)).quota ∧
     (s.warp (warpKeyOf 0)).quota < 40 ∧ s.badTarget 0 0x2000 = false ∧ (s.thr 0).live = true ∧ (s.thr 0).depth = 0) ∧
    (let e : RetEnt := { addr := 0x2000, depth := 1 }
     let s := coder fun th => { th with ret := [e, e, e, e], depth := 4 }
     s.mem.wf = true ∧ isHandler 0 = false ∧ (s.thr 0).task = none ∧ s.waitsOf 0 = [] ∧ ((s.thr 0).sp - 16).toNat % 16 = 0 ∧
     (s.translate 0 (((s.thr 0).sp - 16).setWidth 64) 16 .write true).1 = .ok (0x1FFFF0, 0) ∧ targetOf 0x1FFFF0 = .stack ∧
     (s.thr 0).depth ≠ 0 ∧ s.badTarget 0 (e.addr.setWidth 64) = false) ∧
    (let s := coder fun th => { th with depth := 1, spilled := 1 }
     (s.thr 0).ret = [] ∧ (s.thr 0).depth ≠ 0 ∧ (s.thr 0).sp.toNat % 16 = 0 ∧
     (s.translate 0 ((s.thr 0).sp.setWidth 64) 16 .read true).1 = .ok (0x200000, 0)) := by
  refine ⟨⟨ready rfl rfl rfl, by decide, rfl, rfl, rfl, rfl, rfl, by decide, by decide, by decide, rfl, rfl⟩,
    ⟨rfl, rfl, rfl, rfl, rfl, rfl, rfl, by decide, by decide⟩, ⟨rfl, by decide, rfl, rfl⟩⟩

theorem witness_SpecialRegistersAndTraps :
    Setting memUser memClause ∧ allowed .lane 95 ∧ 16 ≤ (16 : BitVec 10).toNat ∧ memUser.actors memClause .lane 0 = [0] ∧
    (95 : BitVec 7).toNat < 96 := ⟨mem_ready.1, Or.inl (by decide), by decide, rfl, by decide⟩

/-- Join masks: a clear bit, and a set bit whose other member does not wait; a mask whose one thread is held. -/
theorem witness_JoinMasks :
    (let s := coder id
     OneActor s memClause .lane 0 0 ∧ ((s.warp 0).j.get 1 0).getLsbD (laneOf 0) = false ∧
     s.badTarget 0 (BitVec.ofInt 64 (memClause.hdr.toNat + 4 * (1024 : Word).toInt)) = false) ∧
    (let s := { coder id with warps := [(0, { warp [] with j := [(1, 3)] })] }
     OneActor s memClause .lane 0 0 ∧ ((s.warp 0).j.get 1 0).getLsbD (laneOf 0) = true ∧
     ((s.warp 0).j.get 1 0).getLsbD 1 = true ∧ s.heldAt 1 (0 * 32 + 1) = false) ∧
    (let s := { coder fun th => { th with jwait := [1] } with warps := [(0, { warp [] with j := [(1, 1)] })], issues := [] }
     (s.warp 0).j.get 1 0 ≠ 0 ∧ ∀ b, b < 32 → ((s.warp 0).j.get 1 0).getLsbD b = true → s.heldAt 1 (0 * 32 + b) = true) := by
  refine ⟨⟨ready rfl rfl rfl, by decide, by decide⟩, ⟨ready rfl rfl rfl, by decide, by decide, by decide⟩,
    ⟨by decide, by decide⟩⟩

/-- Barriers: numbers 28 and 1, of which thread 0 is no member; b0 with four warps expected and no arrival; an arrival of
the pending phase; the last arrival; an arrival behind a store that waits. -/
theorem witness_BarriersAndTheirPhases :
    (let s := memUser
     Setting s memClause ∧ memClause.group = [0] ∧ 28 ≤ (28 : BitVec 10).toNat ∧ s.barMember 0 1 = false ∧
     s.barMember 0 0 = true ∧ s.actors memClause .lane 0 = [0] ∧ 16 ≤ (16 : BitVec 10).toNat) ∧
    (let s := { memUser with blocks := [(0, { block with bars := [(0, { phase := 0, count := 0, expected := 2, later := 2 })] })] }
     Setting s memClause ∧ s.barMember 0 0 = true ∧
     (s.crossing 0 || (s.waitsOf 0).any fun a => a.acc.beforeArrival) = false ∧
     (s.thr 0).arr.find 0 ≠ some (s.barrier 0 0).phase ∧
     (s.barrier 0 0).count + 1 < (s.barrier 0 0).expected) ∧
    (let s := { memUser with
                threads := [(0, { thread [] with arr := [(0, 0)], bwait := [(0, 0)] })]
                blocks := [(0, { block with bars := [(0, { phase := 0, count := 1, expected := 1, later := 2 })] })] }
     Setting s memClause ∧ s.barMember 0 0 = true ∧ (s.thr 0).arr.find 0 = some (s.barrier 0 0).phase ∧
     (s.thr 0).arriving 0 = false ∧ ((s.thr 0).rearm.all fun r => r.1 ≠ 0) = true ∧ 0 < (s.barrier 0 0).count ∧ (s.barrier 0 0).expected ≤ (s.barrier 0 0).count ∧
     ∀ t ∈ s.barMembers 0 0, (s.thr t).rearm = []) ∧
    (let s := { memUser with
                threads := [(0, { thread [] with deferred := [access memUser memClause .lane 0 false (.store 0x8000 [1])] })] }
     Setting s memClause ∧ s.barMember 0 0 = true ∧ (s.crossing 0 || (s.waitsOf 0).any fun a => a.acc.beforeArrival) = true) ∧
    (let s := flying (.xfence 2 1) none
     Setting s memClause ∧ s.barMember 0 0 = true ∧ (s.crossing 0 || (s.waitsOf 0).any fun a => a.acc.beforeArrival) = true) := by
  refine ⟨⟨mem_ready.1, rfl, by decide, by decide, by decide, rfl, by decide⟩,
    ⟨mem_ready.1, by decide, by decide, by decide, by decide⟩, ⟨(ready (p := 0) rfl rfl rfl).1, by decide, rfl, by decide,
      by decide, by decide, by decide, by decide⟩, ⟨⟨rfl, by decide⟩, by decide, by decide⟩, ⟨⟨rfl, by decide⟩, by decide, by decide⟩⟩

theorem witness_GroupOperations :
    (let s := user .warp [(2, 5)] []
     Setting s (clause .warp 0) ∧ (clause .warp 0).group = 0 :: [] ∧ plain 2 ∧ (95 : BitVec 7).toNat < 96 ∧
     96 ≤ (96 : BitVec 7).toNat ∧ s.pred 0 0 = true) :=
  ⟨(user_ready .warp _ _).1, rfl, by show _ < _; decide, by decide, by decide, rfl⟩

/-- Sets: masks of no warps, and of two warps in two sets; a quota of no granules, and one that moves 8 registers. -/
theorem witness_SetsAndTheirQuotas :
    (let s := user .block [] [(8, 1), (10, 2), (24, 3)]
     Setting s (clause .block 0) ∧ s.actors (clause .block 0) .block 0 = [0] ∧
     setsOk (s.quotaOf 0) (s.block 0).nwarps [0, 0, 0, 0] = true ∧ setsOk (s.quotaOf 0) (s.block 0).nwarps [3, 1, 0, 0] = false) ∧
    (let s := { user .block [] [] with
                warps := [(0, warp []), (32, warp [])]
                blocks := [(0, { block with sets := [1, 2, 0, 0] })] }
     Setting s (clause .block 0) ∧ s.setWarps 0 0 = [0] ∧ s.setWarps 0 1 = [32] ∧
     (maskBits ((s.block 0).sets.getD 0 0) 63).length = 1 ∧ (maskBits ((s.block 0).sets.getD 1 0) 63).length = 1 ∧
     8 + 8 * 1 ≤ (s.warp 0).quota ∧ (s.warp 32).quota + 8 * 1 ≤ 96 ∧ (s.block 0).active = true ∧
     ((s.setQuota 0 ((s.warp 0).quota - 8)).setQuota 32 ((s.warp 32).quota + 8)).capacityOk 0 = true) := by
  refine ⟨⟨(user_ready .block _ _).1, rfl, by decide, by decide⟩,
    ⟨(ready (p := 0) rfl rfl rfl).1, by decide, by decide, by decide, by decide, by decide, by decide, rfl, by decide⟩⟩

/-- Tiles: an index left, none left with work left, none left at all, and a refill under way. -/
theorem witness_TilesAreHandedOut :
    (let z := fun (x : Launch) => { user .block [] [] with launches := [(0, x)] }
     Setting (z (launch .running)) (clause .block 0) ∧ (z (launch .running)).rep (clause .block 0) 0 = some 0 ∧
     (z (launch .running)).launch? 0 = some (launch .running) ∧
     ((launch .running).runs.getD 0 { next := 0, stop := 0 }).next < 4 ∧ (launch .running).record.nWork = 8 ∧
     (launch .running).homeCounter < 8) ∧
    (∃ x : Launch, (x.runs.getD 0 { next := 0, stop := 0 }).stop ≤ (x.runs.getD 0 { next := 0, stop := 0 }).next ∧
      x.record.nWork ≤ x.homeCounter) ∧
    (∃ s : State, ∃ x, s.launch? 0 = some x ∧ (x.refills.find 1).isSome = true ∧ s.ops = [] ∧ x.runs.length = 2) :=
  ⟨⟨(ready (p := 0) rfl rfl rfl).1, rfl, rfl, by decide, by decide, by decide⟩,
    ⟨{ launch .running with runs := [], homeCounter := 8 }, by decide, by decide⟩,
    ⟨{ memUser with launches := [(0, { launch .running with refills := [(1, 0)] })] }, _, rfl, rfl, rfl, rfl⟩⟩

/-- Spawns: an entry off its alignment and past 2^48, a block that has spent its identifiers, a first spawn; a bin that
is not ready, and a ready one with a free slot. -/
theorem witness_SpawnsAndTheirBins :
    (let s := coder id
     Setting s memClause ∧ s.actors memClause .lane 0 = [0] ∧ plain 6 ∧ (s.pairReg 0 9).toNat % 4 ≠ 0 ∧
     (s.pairReg 0 2).toNat % 4 = 0 ∧ (s.pairReg 0 2).toNat < 2 ^ 48 ∧ (s.block 0).spawnCount + 1 < 2 ^ 24 ∧ (s.block 0).bins = [] ∧
     s.ovflSize 0 ≤ (s.block 0).overflow.length) ∧
    (∃ s : State, ∃ z, (s.block 0).bins[0]? = some z ∧ z.key = 0x2000 ∧ z.members.length = 31 ∧ z.ready = none) ∧
    (∃ s : State, (s.block 0).bins.length = 16 ∧ (∀ z ∈ (s.block 0).bins, z.key ≠ 0x2000) ∧
      (s.block 0).overflow.length < s.ovflSize 0) ∧
    (∃ s : State, 2 ^ 24 ≤ (s.block 0).spawnCount + 1) ∧
    (let x : Spawned := { req := { entry := 0x2000, a := 1, b := 2, id := 0 }, task := none, frag := none, seen := [] }
     let s := { memUser with
                launches := [(0, launch .running)]
                blocks := [(0, { block with bins := [{ key := 0x2000, members := [x], ready := some 0, born := 0 }] })] }
     s.launch? (s.block 0).launch = some (launch .running) ∧ (s.block 0).overflow = [] ∧ (s.block 0).tile = none ∧
     (s.findSlot 0).isSome = true ∧ (launch .running).phase = .running ∧ s.parentLeft x = true ∧ ∀ e ∈ s.threads, e.2.spawning = []) ∧
    (∃ s : State, ∃ x, s.blockRuns 0 = true ∧ (s.block 0).bins[0]? = some x ∧ x.ready = none) := by
  let x : Spawned := { req := { entry := 0x2000, a := 1, b := 2, id := 0 }, task := none, frag := none, seen := [] }
  refine ⟨⟨(ready (p := 0) rfl rfl rfl).1, rfl, by show _ < _; decide, by decide, rfl, by decide, by decide, rfl, by decide⟩,
    ⟨{ memUser with blocks := [(0, { block with bins := [{ key := 0x2000, members := List.replicate 31 x, ready := none, born := 0 }] })] },
      _, rfl, rfl, by decide, rfl⟩,
    ⟨{ memUser with
        launches := [(0, { launch .running with record := { record with ovflN := 4 } })]
        blocks := [(0, { block with bins := List.replicate 16 { key := 0x3000, members := [x], ready := none, born := 0 } })] },
      by decide, by decide, by decide⟩,
    ⟨{ memUser with blocks := [(0, { block with spawnCount := 0xFFFFFF })] }, by decide⟩,
    ⟨rfl, rfl, rfl, by decide, rfl, rfl, by decide⟩,
    ⟨{ memUser with
        launches := [(0, launch .running)]
        blocks := [(0, { block with bins := [{ key := 0, members := [], ready := none, born := 0 }] })] }, _, by decide, rfl, rfl⟩⟩

/-- Thread 0 as a task, with an inverse routine's address in v2, a handle in v4 and an argument in v6. -/
def tasker (f : Task → Task) : State :=
  { user .lane [] [] with
    threads := [(0, { thread [(2, 0x2000), (4, 0x9000), (6, 1)] with
      spawnid := 0
      task := some (f { ts := 1, ordered := false, discard := false, entry := 0x2000, a := 1, b := 2, undoTop := 0x100000
                        bracket := none, request := false, killed := false, phase := .run }) })]
    launches := [(0, launch .running)], mem := codeMem }

/-- Places: outside a bracket, inside one, in an inverse routine, and no task; control words 4 and 3. -/
theorem witness_SpeculativeTasks :
    (let s := tasker id
     OneActor s memClause .lane 0 0 ∧ s.specPlace 0 = .outside ∧ s.mayCommit 0 = true ∧ (s.pairReg 0 2).toNat % 4 = 0 ∧
     (s.pairReg 0 2).toNat < 2 ^ 48 ∧ ((s.pairReg 0 6).extractLsb' 32 32 : Word).toNat < 4 ∧
     (s.specOf (s.block 0).launch).floor = none ∧ (s.block 0).spawnCount + 1 < 2 ^ 24 ∧ (s.block 0).bins = []) ∧
    (let s := tasker fun k => { k with bracket := some 0 }
     s.specPlace 0 = .bracket ∧ s.actors memClause .lane 0 = [0] ∧ (s.thr 0).task.map Task.phase ≠ some .abort) ∧
    (let s := tasker fun k => { k with bracket := some 0, request := true }
     (s.thr 0).task.map Task.request = some true ∧ (s.thr 0).task.map Task.bracket = some (some 0)) ∧
    (let s := tasker fun k => { k with ordered := true }
     s.specPlace 0 = .outside ∧ ({ s with threads := s.threads ++ [(1, { s.thr 0 with task := (s.thr 0).task.map fun k => { k with ts := 0 } })] } : State).mayCommit 0 = false) ∧
    (let s := tasker fun k => { k with phase := .inverse }
     s.specPlace 0 = .inverse ∧ s.actors memClause .lane 0 = [0] ∧ (s.thr 0).depth = 0) ∧
    (let s := tasker fun k => { k with undoTop := 0x100020 }
     (s.thr 0).base.toNat < 0x100020 ∧ (s.undoPlaces 0 0x100000 .read).1 = .ok [(0x100000, 0), (0x100010, 0)] ∧
     targetOf 0x100000 = .stack ∧ targetOf 0x100010 = .stack ∧ s.wlog = []) ∧
    ((tasker fun k => { k with discard := true }).thr 0).task.map Task.discard = some true ∧
    (memUser.specPlace 0 = .plain ∧ memUser.liveTasks (memUser.launchOf 0) = [] ∧
      4 ≤ ((({ memUser with threads := [(0, thread [(7, 4)])] } : State).pairReg 0 6).extractLsb' 32 32 : Word).toNat) ∧
    (let s := tasker fun k => { k with phase := .abort, undoTop := 0 }
     (s.thr 0).live = true ∧ (s.thr 0).cf = 0 ∧ (s.thr 0).parked = false ∧ (s.thr 0).susp = false ∧
     s.away 0 = false ∧ (s.thr 0).deferred = [] ∧ ((s.thr 0).task.map Task.phase) = some .abort ∧ ((s.thr 0).task.map fun k => k.undoTop.toNat).getD 1 ≤ (s.thr 0).base.toNat) := by
  refine ⟨⟨ready rfl rfl rfl, rfl, rfl, rfl, by decide, by decide, rfl, by decide, rfl⟩, ⟨rfl, rfl, by decide⟩, ⟨rfl, rfl⟩,
    ⟨rfl, by decide⟩, ⟨rfl, rfl, rfl⟩, ⟨by decide, rfl, rfl, rfl, rfl⟩, rfl,
    ⟨rfl, rfl, by decide⟩, ⟨rfl, rfl, rfl, rfl, rfl, rfl, rfl, by decide⟩⟩

/-- Codes 0, 1 and 2; a kind that is missing; an admitted operation; a table at an aligned and at a misaligned address, and
a launch with a live task. -/
theorem witness_TheConflictUnit :
    (let x := { Spec.empty with present := 3, pairs := 2 ^ (32 * 0 + 2 * 1) * 2 + 2 ^ (32 * 1 + 2 * 1) }
     (x.present / 2 ^ 0 % 2 = 1 ∧ x.present / 2 ^ 1 % 2 = 1) ∧ ¬ (x.present / 2 ^ 2 % 2 = 1) ∧
     x.pairs / 2 ^ (32 * 0 + 2 * 0) % 4 = 0 ∧ x.pairs / 2 ^ (32 * 0 + 2 * 1) % 4 = 2 ∧ x.pairs / 2 ^ (32 * 1 + 2 * 1) % 4 = 1) ∧
    (let s := tasker id
     let s0 := (s.setFlags (access s memClause .lane 0 true (.specOp 1 0x2000 0x9000 1 0))).modSpec (s.launchOf 0)
       fun z => z.count 0x9000 (s.taskKey 0) 1 1
     OneActor s memClause .lane 0 0 ∧ s.launch? (s.launchOf 0) = some (launch .running) ∧ s.mem.wf = true ∧
     (launch .running).spec.clashes 0x9000 (s.taskKey 0) 1 1 = [] ∧ s0.roomFor 0x9000 = true ∧
     0x100000 + 32 ≤ (s.thr 0).sp.toNat ∧ (s0.translate 0 (d64 0x100000) 16 .write false).1 = .ok (0x100000, 0) ∧
     ((s0.translate 0 (d64 0x100000) 16 .write false).2.translate 0 (d64 0x100010) 16 .write false).1 = .ok (0x100010, 0) ∧
     targetOf 0x100010 = .stack) ∧
    (OneActor memUser memClause .lane 0 0 ∧ (memUser.thr 0).task = none ∧ memUser.liveTasks (memUser.launchOf 0) = [] ∧
     (memUser.pairReg 0 4).toNat % 16 = 0 ∧ (memUser.pairReg 0 6).toNat % 16 ≠ 0 ∧
     ((issuing memUser (access memUser memClause .lane 0 true (.specTable 0x8000))).tablePlace 0 0x8000 false).1.isOk = true) ∧
    (let s := { tasker id with
                threads := [(0, thread []), (1, (tasker id).thr 0)] }
     (s.thr 0).task = none ∧ s.liveTasks (s.launchOf 0) ≠ []) := by
  refine ⟨⟨by decide, by decide, by decide, by decide, by decide⟩,
    ⟨ready rfl rfl rfl, rfl, by decide, rfl, by decide, by decide, rfl, rfl, rfl⟩,
    ⟨mem_ready, rfl, rfl, rfl, by decide, rfl⟩, ⟨rfl, by decide⟩⟩

/-- A clause of set scope whose set holds warp 0 alone; B offsets in s0 to s2: inside, at the end, off the multiple. -/
def matrix (win : Word) : State :=
  { user .set [] [] with
    threads := [(0, thread [])]
    warps := [(0, { warp [(0, 262128), (1, 262144), (2, 8), (4, 0), (6, 0x01000000), (8, 0x8000), (10, 256), (11, 0), (12, 64)] with win := win })]
    blocks := [(0, { block with sets := [1, 0, 0, 0] })] }

/-- MMA: every check passes and each fails once; accumulator commands with a good and a bad selector, rows in and out of
the window; a weight load and a drain with good operands, and bad ones. -/
theorem witness_TrellisCommands :
    (let s := matrix 0x003F0000
     Setting s (clause .set 0) ∧ s.actors (clause .set 0) .set 0 = [0] ∧ (s.setMembers 0).length ≤ 4 ∧
     0 + 8 ≤ (s.warp 0).quota ∧ (s.warp 0).quota < 25 + 8 ∧ 96 ≤ (96 : Nat) ∧ (s.reg 0 96).toNat % 16 = 0 ∧
     (s.reg 0 96).toNat < 262144 ∧ 262144 ≤ (s.reg 0 97).toNat ∧ (s.reg 0 98).toNat % 16 ≠ 0 ∧
     windowsOk (s.coverage .set 0 0 0) = true ∧ s.tooMany .set 0 = false ∧
     (selectorOf .set false (s.reg 0 100)).isSome = true ∧ selectorOf .set false (s.reg 0 102) = none ∧
     (s.pairReg 0 104).toNat % 16 = 0 ∧ (s.pairReg 0 104).toNat < 2 ^ 48 ∧ s.reg 0 106 = 256 ∧ drainCtlOk (s.reg 0 107).toNat = true ∧
     64 * drainSize 0 ≤ (s.reg 0 106).toNat ∧ s.drainOk .set 0 0 = true ∧ drainCtlOk 2 = false ∧
     (s.reg 0 108).toNat % 16 = 0 ∧ 262144 < 262128 + 64) ∧
    (let s := matrix 1
     windowsOk (s.coverage .set 0 0 0) = false ∧ s.actors (clause .set 0) .set 0 = [0]) ∧
    (∃ s : State, 4 < (s.setMembers 0).length ∧ s.actors (clause .set 0) .set 0 = [0] ∧ Setting s (clause .set 0)) := by
  refine ⟨⟨(ready (p := 0) rfl rfl rfl).1, rfl, by decide, by decide, by decide, by decide, by decide, by decide, by decide,
    by decide, by decide, by decide, by decide, by decide, by decide, by decide, rfl, by decide, by decide, by decide, by decide,
    by decide, by decide⟩, ⟨by decide, rfl⟩, ⟨{ matrix 1 with
      warps := [(0, warp []), (32, warp []), (64, warp []), (96, warp []), (2, warp [])]
      blocks := [(0, { block with nwarps := 5, sets := [31, 0, 0, 0] })] }, by decide, by decide, (ready (p := 0) rfl rfl rfl).1⟩⟩

/-- Windows: a good word with the mask of warp 0; reserved bits; a row past the accumulator; a mask past the warps. -/
theorem witness_AccumulatorWindows :
    let s := user .block [] [(0, 0x003F0000), (1, 0x20000000), (2, 0x00400000), (4, 1), (6, 16)]
    Setting s (clause .block 0) ∧ s.actors (clause .block 0) .block 0 = [0] ∧
    ((s.reg 0 96).toNat / 2 ^ 29 = 0 ∧ (s.reg 0 96).toNat / 2 ^ 13 % 8 = 0 ∧
      ¬ (64 * (s.block 0).acc ≤ (s.reg 0 96).toNat / 2 ^ 16 % 2 ^ 13)) ∧
    (s.reg 0 97).toNat / 2 ^ 29 ≠ 0 ∧ 64 * (s.block 0).acc ≤ (s.reg 0 98).toNat / 2 ^ 16 % 2 ^ 13 ∧
    (s.pairReg 0 100).toNat < 2 ^ (s.block 0).nwarps ∧ 2 ^ (s.block 0).nwarps ≤ (s.pairReg 0 102).toNat ∧
    (s.block 0).nwarps ≤ 63 ∧ allowed .block 96 ∧ plain 96 :=
  ⟨(user_ready .block _ _).1, rfl, by decide, by decide, by decide, by decide, by decide, by decide, by show 96 ≤ _; decide,
    by show _ < _; decide⟩

/-- Copies: good operands, a misaligned count, a reserved control bit; slots with and without a slice, that can run or not. -/
theorem witness_CopySliceAndGraphCommands :
    (let s := user .warp [] [(0, 0x8000), (2, 0x9000), (4, 64), (5, 0x80), (6, 2), (7, 8)]
     Setting s (clause .warp 0) ∧ s.actors (clause .warp 0) .warp 0 = [0] ∧ (s.reg 0 101).toNat / 256 = 0 ∧
     (s.reg 0 101).toNat / 8 % 16 = 0 ∧ (s.pairReg 0 96).toNat % 4 = 0 ∧ (s.pairReg 0 98).toNat % 4 = 0 ∧ (s.reg 0 100).toNat % 4 = 0 ∧
     badScr (s.pairReg 0 96).toNat = false ∧ badScr (s.pairReg 0 98).toNat = false ∧ (s.reg 0 102).toNat % 4 ≠ 0 ∧
     (s.reg 0 103).toNat / 8 % 16 ≠ 0 ∧ s.runOf 0 0 = none ∧ s.runnable 0 0 = none ∧ (s.pairReg 0 96).toNat % 16 = 0 ∧
     (s.block 0).armed = false ∧ s.engq 0 engGraph = [] ∧ edgeOk (s.block 0).graph 0 1 = false ∧ cyclic (s.block 0).graph = false ∧
     (s.pairReg 0 98 + BitVec.ofInt 64 (0x20 : Word).toInt).toNat % 8 = 0 ∧ s.actors (clause .warp 0) .warp 0 = [0]) ∧
    (let d : SliceDesc := { base := 0, sdst := 0, esz := 0, qnum := 0, toScratch := true, guard := none, counts := [2], strides := [1] }
     let s := { memUser with blocks := [(0, { block with slots := [(0, d)] })] }
     s.runnable 0 0 = some d ∧ Free s memClause .lane 0 ∧ (0 : BitVec 7).toNat < 4 ∧ s.actors memClause .lane 0 = [0]) ∧
    (2 ^ 63 ≤ (0x8000000000000000 : Nat) ∧ badScr 0x8000000000000000 = false ∧ d64 0x8000000000000000 ≠ 0) := by
  refine ⟨⟨(user_ready .warp _ _).1, rfl, rfl, rfl, rfl, rfl, rfl, rfl, rfl, by decide, by decide, rfl, rfl, rfl, rfl, rfl, rfl, by decide,
    by decide, rfl⟩, ⟨rfl, alone rfl, by decide, rfl⟩, ⟨by decide, by decide, by decide⟩⟩

/-- An operand queue of two slots a lane, with one element in lane 0's ring. -/
def queueBlock (t : Nat) (en : Bool) : Block :=
  { block with opq := [(0, { OpQueue.off with en := en, log2d := 1, heads := [(0, 0)], tails := [(0, t)] })] }

theorem witness_OperandQueuesAndTheirPorts :
    (let s := user .block [] [(3, 0)]
     Setting s (clause .block 0) ∧ s.actors (clause .block 0) .block 0 = [0] ∧ s.fed 0 1 = false ∧ (2 : BitVec 2).toNat ≠ 3 ∧
     (7 : BitVec 3).toNat ≠ 0 ∧ (s.reg 0 99).toNat % 128 = 0 ∧ (s.reg 0 99).toNat + 32 * 2 ^ 7 * 2 ^ 2 ≤ 16384 * (s.block 0).scr ∧
     (∀ n, n < 4 → n ≠ 1 → ((s.block 0).queue n).en = false) ∧ allowed .block 96) ∧
    (let s := { memUser with blocks := [(0, queueBlock 1 true)] }
     Setting s memClause ∧ (124 : BitVec 7).toNat = 124 + 0 ∧ s.actors memClause .lane 0 = [0] ∧ ((s.block 0).queue 0).en = true ∧
     memClause.short.contains 0 = false ∧ ((s.block 0).queue 0).heads.get 0 0 < ((s.block 0).queue 0).tails.get 0 0) ∧
    ((queueBlock 0 true).queue 0).tails.get 0 0 ≤ ((queueBlock 0 true).queue 0).heads.get 0 0 ∧
    ((queueBlock 0 false).queue 0).en = false := by
  refine ⟨⟨(user_ready .block _ _).1, rfl, rfl, by decide, by decide, rfl, by decide, by decide, by show 96 ≤ _; decide⟩,
    ⟨mem_ready.1, rfl, rfl, rfl, rfl, by decide⟩, by decide, rfl⟩

/-- A command at the head of an engine's queue. -/
def queued (e : Nat) (b : CmdBody) (g : Option Nat) (started : Bool) (gv : Nat) (f : Block → Block) : State :=
  { memUser with
    blocks := [(0, f { block with
      guards := [(1, gv)]
      engq := [(e, [{ body := b, op := 0, acc := access memUser memClause .lane 0 true (.engine e), thr := 0, guard := g
                      progress := 0, started := started, stopped := false, serial := 0, seen := [], regions := [], wrote := [] }])] })]
    launches := [(0, launch .running)] }

/-- Engines: ACC.ZERO and ACC.WR at the head; a copy with its guard unresolved and false; a started slice with an element to
deliver; a node that waits; a drain under way. -/
theorem witness_EnginesRunTheirWork :
    (let s := queued engTrellis (.accZero [0, 63]) none false 0 id
     s.enginesRun 0 = true ∧ (s.engq 0 engTrellis).map Cmd.held = [false] ∧ (s.engq 0 engTrellis).map Cmd.body = [.accZero [0, 63]] ∧ s.accm.wf = true) ∧
    (let s := queued engTrellis (.accWr [(0, 7)]) none false 0 id
     (s.engq 0 engTrellis).map Cmd.body = [.accWr [(0, 7)]] ∧ (s.engq 0 engTrellis).map Cmd.stopped = [false]) ∧
    (let s := queued engCopy (.copy 0 0 0) (some 1) false 0 id
     (s.engq 0 engCopy).map Cmd.guard = [some 1] ∧ (s.engq 0 engCopy).map Cmd.started = [false] ∧ (s.block 0).guards.get 1 0 = 0) ∧
    (let s := queued engCopy (.copy 0 0 0) (some 1) false 2 id
     (s.block 0).guards.get 1 0 = 2) ∧
    (∀ gv ∈ [0, 2],
      let d : SliceDesc := { base := 0, sdst := 0, esz := 0, qnum := 0, toScratch := true, guard := some 1, counts := [2], strides := [1] }
      let s := queued engFil (.filRun 0) none false gv fun b => { b with slots := [(0, d)] }
      s.enginesRun 0 = true ∧ (s.engq 0 engFil).map Cmd.body = [.filRun 0] ∧ (s.engq 0 engFil).map Cmd.halting = [false] ∧
      (s.block 0).slots.find 0 = some d ∧ (s.block 0).guards.get 1 0 = gv) ∧
    (let d : SliceDesc := { base := 0x8000, sdst := 0, esz := 2, qnum := 0, toScratch := true, guard := none, counts := [2]
                            strides := [4] }
     let s := queued engFil (.filRun 0) none true 0 fun b => { b with slots := [(0, d)] }
     (s.runOf 0 0).isSome = true ∧ (s.block 0).slots.find 0 = some d ∧ s.scratch.wf = true ∧ d.addr 0 % 2 ^ d.esz = 0 ∧
     (∃ x, s.runOf 0 0 = some x ∧ (s.engGlobal x pathCopy (d.addr 0) (2 ^ d.esz)).1.toOption = some [0, 0, 0, 0]
          ∧ (s.engGlobal x pathCopy (d.addr 0) (2 ^ d.esz)).2.scratch = s.scratch
          ∧ (s.engGlobal x pathCopy (d.addr 0) (2 ^ d.esz)).2.blocks = s.blocks ∧ x.thr / 4096 = 0 ∧ x.progress + 1 < d.total) ∧ d.sdst + 4 ≤ 16384 * (s.block 0).scr) ∧
    (∃ s : State, ∃ x g, (s.block 0).garm = some x ∧ (s.block 0).graph[0]? = some g ∧ g.phase ≠ 1 ∧ s.engq 0 engGraph = [] ∧
      s.enginesRun 0 = true) ∧
    ({ memUser with launches := [(0, launch (.saved false))] } : State).blockRuns 0 = false ∧
    (flying (.vdrain 0) none).drains ((flying (.vdrain 0) none).block 0).vdev = true := by
  refine ⟨⟨by decide, rfl, rfl, rfl⟩, ⟨rfl, rfl⟩, ⟨rfl, rfl, rfl⟩, rfl, by decide,
    ⟨by decide, rfl, rfl, by decide, ⟨_, rfl, rfl, rfl, rfl, rfl, by decide⟩, by decide⟩,
    ⟨{ memUser with
       blocks := [(0, { block with
         graph := [{ kind := 0, guard := none, esz := 0, count := 0, src := 0, dst := 0, aux := 0, succ := [], left := 0, phase := 0
                     progress := 0, stopped := false, wrote := [] }]
         garm := some { body := .garm, op := 0, acc := access memUser memClause .lane 0 true (.engine 3), thr := 0, guard := none
                        progress := 0, started := true, stopped := false, serial := 0, seen := [], regions := [], wrote := [] } })] },
      _, _, rfl, rfl, by decide, rfl, by decide⟩, by decide, rfl⟩


/-- The bytes of a pass: BINSZ, and the surface handle of its target. -/
def passOf_ (binsz tgt : Nat) (ent : Nat) : Pass :=
  { desc := zeros 8 ++ [BitVec.ofNat 8 binsz, 0, 0, 0, BitVec.ofNat 8 tgt] ++ zeros 83, target := ent, zsurf := noSurf, prims := [], binUsed := 0
    frags := 0, discards := 0, cmperr := false, targeterr := false, spawnlim := false, logged := false, finished := false }

/-- A plain surface of 64 × 64 pixels of owner 255 at 0. -/
def plainSurf : Nat := 2 ^ 64 * 64 + 2 ^ 80 * 64 + 2 ^ 96 * 256 + 2 ^ 136 * 255

/-- A core whose launch draws, with a triangle in v2 to v10. -/
def drawer (q : Pass) (f : Thread → Thread) : State :=
  { user .lane [] [] with
    threads := [(0, f (thread [(2, 0), (3, 0), (5, 0x41800000), (6, 0), (8, 0), (9, 0x41800000)]))]
    launches := [(0, { launch .running with pass := some q })] }

/-- Triangles: of a spawned warp; vertex 3; in an open pass a triangle of area 0, one with no room and one with room. -/
theorem witness_TrianglesAndCoverage :
    (∃ s : State, Setting s memClause ∧ s.actors memClause .lane 0 = [0] ∧ s.isSpawned 0 = true) ∧
    (let s := drawer (passOf_ 64 0 noSurf) id
     Setting s memClause ∧ s.actors memClause .lane 0 = [0] ∧ plain 2 ∧ s.isSpawned 0 = false ∧ (2 : BitVec 2) ≠ 3 ∧
     s.passOf (s.launchOf 0) = some (passOf_ 64 0 noSurf) ∧ dropped 0 (s.regRun 0 11 9) = true ∧
     dropped 0 (s.regRun 0 2 9) = false ∧ (passOf_ 64 0 noSurf).touched (s.regRun 0 2 9) = [] ∧
     (passOf_ 64 0 noSurf).vars = 0 ∧ 48 ≤ (passOf_ 64 0 noSurf).binsz ∧ (passOf_ 32 0 noSurf).binsz < 48) := by
  refine ⟨⟨{ memUser with warps := [(0, { warp [] with spawned := true })] }, mem_ready.1, rfl, rfl⟩,
    (ready (p := 0) rfl rfl rfl).1, rfl, by show _ < _; decide, rfl, by decide, rfl, by decide +kernel, by decide +kernel, by decide +kernel, by decide, by decide, by decide⟩

/-- Two points of an edge, and a triangle that covers the centre of pixel (0, 0). -/
theorem witness_TrianglesAndCoverage_edges :
    (∃ a b : Pt, a ≠ b) ∧
    (let ws : List Word := [0, 0, 0, 0x41800000, 0, 0, 0, 0x41800000, 0]
     areaOf ws ≠ 0 ∧ covers ws 0 0 = true) := by
  refine ⟨⟨⟨0, 0⟩, ⟨1, 0⟩, by simp⟩, by decide +kernel, by decide +kernel⟩

/-- A fragment thread at pixel (3, 5) of a started tessera. -/
def fragUser (tg : Nat) (f : Option Frag) : State :=
  { drawer (passOf_ 64 0 plainSurf) (fun th => { th with frag := f }) with
    blocks := [(0, { block with tile := some { tess := 0, target := tg, zsurf := noSurf, entries := [], layer := none, written := []
                                               pend := [], started := true, unit := 0, discarded := 0 } })] }

/-- A fragment of the lower left corner. -/
def fragAt : Frag := { x := 3, y := 5, prim := 0, z := 0x3F000000, attrs := [] }

theorem witness_FragmentWords :
    (let s := fragUser plainSurf none
     OneActor s memClause .lane 0 0 ∧ plain 2 ∧ s.mem.wf = true ∧ (s.thr 0).frag = none) ∧
    (let s := fragUser plainSurf (some fragAt)
     OneActor s memClause .lane 0 0 ∧ s.mem.wf = true ∧ (s.thr 0).frag = some fragAt ∧ (s.thr 0).task = none ∧
     s.passOf (s.launchOf 0) = some (passOf_ 64 0 plainSurf) ∧ 16 < (17 : BitVec 7).toNat ∧ (15 : BitVec 7).toNat < 16 ∧
     (16 : BitVec 7).toNat = 16 ∧ plain 17) ∧ (3 : Nat) < 4 ∧ (2 : Nat) < 3 :=
  ⟨⟨ready rfl rfl rfl, by show _ < _; decide, rfl, rfl⟩, ⟨ready rfl rfl rfl, rfl, rfl, rfl, rfl, by decide, by decide, rfl, by show _ < _; decide⟩,
    by decide, by decide⟩

set_option maxRecDepth 4000 in
/-- A texture that the context may not read, and one that it may, whose sample of form 0 at 0 answers. -/
theorem witness_TexturesAndOwnershipQueries :
    (OneActor memUser memClause .lane 0 0 ∧ plain 2 ∧ (memUser.texDenied (memUser.tagOf 0).1 (memUser.ownerOf 0) 0).isSome = true) ∧
    (let s := { user .lane [(2, 0x3F000000), (3, 0x3F000000)] [] with
                blocks := [(0, { block with owner := 255 })], bezel := { Bezel.empty with surfs := [(0, plainSurf)] } }
     OneActor s memClause .lane 0 0 ∧ s.texDenied (s.tagOf 0).1 (s.ownerOf 0) 0 = none ∧
     ∃ x ws s', surfOf (s.bezel.surf 0) = some x ∧
      ((issuing s (access s memClause .lane 0 true (.tex 0 (s.bezel.surf 0) 0 0 0 9))).sample 0 0 x 0 0 0) = (.ok ws, s')) := by
  refine ⟨⟨mem_ready, by show _ < _; decide, rfl⟩, ⟨ready rfl rfl rfl, rfl, _, _, _, rfl, rfl⟩⟩

/-- A tessera to start; one whose fragments have exited; and one more write of its resolve. -/
theorem witness_TesseraeStartAndResolve :
    (let s := { drawer (passOf_ 64 0 plainSurf) (fun _ => Thread.empty) with
                bezel := { Bezel.empty with surfs := [(0, plainSurf)] } }
     ∃ x, s.drains (s.block 0).vdev = false ∧ s.launch? (s.block 0).launch = some x ∧
      x.pass = some (passOf_ 64 0 plainSurf) ∧ x.phase = .running ∧ (s.block 0).rfault = none ∧
      (passOf_ 64 0 plainSurf).finished = false ∧ (s.block 0).binWork = [] ∧ (s.block 0).tile = none ∧
      s.nextTessOf 0 x (passOf_ 64 0 plainSurf) = some 0 ∧ s.geometryDone x = true ∧ s.bezel.fills = [] ∧ s.mem.wf = true) ∧
    (let s := { fragUser noSurf none with threads := [] }
     ∃ x z, s.launch? (s.block 0).launch = some x ∧ x.pass = some (passOf_ 64 0 plainSurf) ∧ x.phase = .running ∧
      (s.block 0).tile = some z ∧ z.started = true ∧ z.pend = [] ∧ s.fragsLeft 0 = false ∧ z.unit = 0 ∧
      (s.block 0).rfault = none ∧ s.drains (s.block 0).vdev = false ∧ s.mayWrite 0 z.target = none) ∧
    (∃ s : State, ∃ f pa mt s1, s.mem.wf = true ∧ Surf.pixel f 3 5 % 4096 ≤ 4092 ∧
      s.stage2Place (s.rootOf (rasterThread 0)) (Surf.pixel f 3 5) 4 .write = (.ok (pa, mt), s1) ∧ targetOf pa = .stack) := by
  refine ⟨⟨_, rfl, rfl, rfl, rfl, rfl, rfl, rfl, rfl, by decide, by decide, rfl, rfl⟩,
    ⟨_, _, rfl, rfl, rfl, rfl, rfl, rfl, by decide, rfl, rfl, rfl, by decide⟩, ?_⟩
  refine ⟨memUser, (surfOf plainSurf).getD ⟨0, 0, 0, 0, 0, 0, false, false, false, 0, 0⟩, _, _, _, rfl, by decide,
    rfl, by decide⟩

/-- Virtual device 0 with its context 0, cluster 0 in its share, and queue 0 bound to hub slot 5 with launch 0 current. -/
def device : Vdev :=
  { Vdev.empty with
    created := true, share := 1, ctxs := [(0, Ctx.empty)]
    queues := [(0, { Queue.empty with slot := some 5, current := some 0, phase := 2 })] }

/-- The agent of core 0 over virtual device 0. -/
def agentOf (u : Tab Word) : State := { agent u with vdevs := [(0, device)] }

/-- A fault record that names warp 0. -/
def faultRec : FaultRec :=
  { cls := 1, cause := 0, stage := 0, level := 0, walk := false, scope := .lane, word := 0, warp := 0, swcode := 0, lanes := 1
    warpId := 0, pc := 0x1000, va := 0, ia := 0, detail := 0 }

/-- A handler in the trap bank of slot 0, in a clause of warp scope on partition 0. -/
def handler (rs : List FaultRec) (u : Tab Word) (f : Thread → Thread) : State :=
  { State.reset with
    started := true, threads := [(0, f (thread [(5, 9)])), (32, thread [])], warps := [(0, warp []), (1, warp u)]
    blocks := [(0, { block with handler := some 0, recs := rs, trap := 0x2001 })]
    issues := [(0, clause .warp 32)] }

theorem handler_ready (rs : List FaultRec) (u : Tab Word) (f : Thread → Thread) :
    Setting (handler rs u f) (clause .warp 32) ∧ (handler rs u f).actors (clause .warp 32) .warp 0 = [32] :=
  ⟨⟨rfl, by simp [clause]⟩, rfl⟩

/-- The agent with and without a context, a handler, a user thread; a register that each reaches and one that none does. -/
theorem witness_SystemRegisters :
    (let s := agentOf []
     Setting s (clause .warp 4032) ∧ s.actors (clause .warp 4032) .warp 0 = [4032] ∧ isAgent 4032 = true ∧
     s.ctx? (s.tagOf 4032).1 (s.tagOf 4032).2 = some Ctx.empty ∧ 96 ≤ (96 : BitVec 7).toNat ∧ 96 + 1 < 120) ∧
    (agent []).ctx? ((agent []).tagOf 4032).1 ((agent []).tagOf 4032).2 = none ∧
    (Setting (handler [] [] id) (clause .warp 32) ∧ (handler [] [] id).actors (clause .warp 32) .warp 0 = [32] ∧
     isAgent 32 = false) ∧
    (Setting memUser memClause ∧ memUser.actors memClause .lane 0 = [0] ∧ (94 : BitVec 7).toNat + 1 < 96) ∧
    (4 : Nat) ∈ [0, 1, 2, 3, 4, 23] ∧ (50 : Nat) ∉ [0, 1, 2, 3, 4, 23] ∧
    (50 : Nat) ∉ [16, 17, 18, 19, 20, 21, 22, 32, 33, 34, 35, 36, 48, 49] := by
  refine ⟨⟨(ready (p := 0) rfl rfl rfl).1, rfl, rfl, rfl, by decide, by decide⟩, rfl, ⟨(handler_ready _ _ _).1, rfl, rfl⟩,
    ⟨mem_ready.1, rfl, by decide⟩, by decide, by decide, by decide⟩

/-- Handlers: no record left, and one left while the handler is enabled; and an operation of the bank outstanding. -/
theorem witness_HandlersAndTheirRecords :
    (∀ rs ∈ [[], [faultRec]],
      let s := handler rs [] id
      Setting s (clause .warp 32) ∧ s.actors (clause .warp 32) .warp 0 = 32 :: [] ∧ (s.block (coreOf 32)).handler = some 0 ∧
      isAgent 32 = false ∧ s.ops = [] ∧ (∀ e ∈ s.threads, e.2.deferred = []) ∧ (s.block (coreOf 32)).trap.getLsbD 0 = true ∧
      (s.block (coreOf 32)).recs = rs) ∧
    (let s := { handler [] [] id with ops := [(3, { thr := 32, acc := access memUser memClause .lane 32 true (.priv 9), pa := 0
                                                    mt := 0, epoch := 0, serial := 0, result := none })] }
     Setting s (clause .warp 32) ∧ s.actors (clause .warp 32) .warp 0 = 32 :: [] ∧ (s.block (coreOf 32)).handler = some 0 ∧
     (s.ops.find 3).map (fun x => (isHandler x.thr, coreOf x.thr)) = some (true, coreOf 32)) := by
  refine ⟨fun rs h => ⟨(handler_ready _ _ _).1, rfl, rfl, rfl, rfl, ?_, (by decide : (0x2001 : Dword).getLsbD 0 = true), rfl⟩, ⟨(ready (p := 0) rfl rfl rfl).1, rfl, rfl, rfl⟩⟩
  intro e he; simp [handler] at he; rcases he with rfl | rfl <;> rfl

/-- Items: register 5 and pc of warp 0, an item 10, an index past the quota, a write of a status word; a name of no warp. -/
theorem witness_HandlersActOnThreads :
    (let s := handler [] [(0, 0x05000000), (1, 0x00040000), (2, 0x000A0000), (3, 0x20000000), (4, 8), (6, 0x1004), (7, 0x00070000)] id
     Setting s (clause .warp 32) ∧ s.actors (clause .warp 32) .warp 0 = [32] ∧ plain 96 ∧ plain 102 ∧
     s.namedWarp (coreOf 32) ((s.reg 32 96).toNat % 2 ^ 16) = some 0 ∧ s.namedWarp (coreOf 32) ((s.reg 32 100).toNat % 2 ^ 16) = none ∧
     (s.reg 32 96).toNat / 2 ^ 16 % 256 = 0 ∧ (s.reg 32 96).toNat / 2 ^ 24 < (s.warp 0).quota ∧
     (s.reg 32 97).toNat / 2 ^ 16 % 256 = 4 ∧ (s.reg 32 97).toNat / 2 ^ 24 = 0 ∧ 9 < (s.reg 32 98).toNat / 2 ^ 16 % 256 ∧
     (s.warp 0).quota ≤ (s.reg 32 99).toNat / 2 ^ 24 ∧ (s.reg 32 102).toNat % 4 = 0 ∧ (s.reg 32 103).toNat / 2 ^ 16 % 256 = 7 ∧
     0 ≠ warpKeyOf 32 ∧ (∀ e ∈ s.issues ++ s.halted, ∀ m ∈ e.2.group, warpKeyOf m ≠ 0) ∧ (clause .warp 32).group = [32] ∧ s.pred 32 0 = true ∧
     (s.threads.find (0 * 32 + laneOf 32)).isSome = true ∧ (s.liveOf 0) = [0]) := by
  refine ⟨(handler_ready _ _ _).1, rfl, by show _ < _; decide, by show _ < _; decide, by decide, by decide, by decide, by decide,
    by decide, by decide, by decide, by decide, by decide, by decide, by decide, by decide, rfl, rfl, rfl, by decide⟩

/-- A suspended thread stopped at word 0 of its clause of three words, at its last word; and one that is no task. -/
theorem witness_HandlersActOnThreads_resumed :
    (∀ q ∈ [(⟨0, 1, 2, false⟩ : StopAt), ⟨2, 3, 2, false⟩],
      let s := handler [] [(0, 0), (1, 1), (4, 8)] fun th => { th with susp := true, stop := some q }
      Setting s (clause .warp 32) ∧ plain 96 ∧ plain 97 ∧ s.actors (clause .warp 32) .warp 0 = [32] ∧
      s.namedWarp 0 ((s.reg 32 96).toNat % 2 ^ 16) = some 0 ∧ s.namedLanes 0 (s.reg 32 97) = [0] ∧ (s.block 0).rfault = none ∧
      (s.block 0).engq = [] ∧ (s.block 0).garm = none ∧ (∀ e ∈ s.threads, e.2.deferred = [] ∧ e.2.jwait = []) ∧ (s.thr 0).stop = some q ∧
      (s.thr 0).task = none ∧ (s.reg 32 100).toNat % 2 ^ 16 ≠ 0 ∧ s.namedWarp 0 ((s.reg 32 100).toNat % 2 ^ 16) = none) ∧
    (1 < 2 ∧ 2 ≤ 3) := by
  refine ⟨fun q hq => ?_, by decide, by decide⟩
  simp only [List.mem_cons, List.not_mem_nil, or_false] at hq
  rcases hq with rfl | rfl <;>
    exact ⟨(handler_ready _ _ _).1, by show _ < _; decide, by show _ < _; decide, rfl, by decide, by decide, rfl, rfl, rfl, by simp [handler, thread, Thread.empty], rfl, rfl,
      by decide, by decide⟩

/-- Control words: kinds 0, 1, 2 of one core and of all cores; a reserved bit; a kind above 3; a handler's own context and
another one. Virtual devices 32 and 0, whose storage the core holds or not. -/
theorem witness_InvalidationsDrainsAndClears :
    (let s := agentOf [(0, 0), (1, 0x11), (2, 8), (3, 4), (4, 32)]
     Setting s (clause .warp 4032) ∧ plain 96 ∧ s.actors (clause .warp 4032) .warp 0 = [4032] ∧
     (s.reg 4032 96).toNat % 8 = 0 ∧ (s.reg 4032 97).toNat % 8 = 1 ∧ (s.reg 4032 97).toNat / 16 % 2 = 1 ∧
     (s.reg 4032 98).toNat / 8 % 2 = 1 ∧ 3 < (s.reg 4032 99).toNat % 8 ∧ isHandler 4032 = false ∧ (5 : Nat) < 144 ∧ coreOf 4032 = 0 ∧
     32 ≤ (s.reg 4032 100).toNat ∧ (s.reg 4032 96).toNat < 32 ∧ (s.core 0).storageOf ≠ some 0) ∧
    (∃ s : State, (s.core 0).storageOf = some 0 ∧ (s.vdev 0).rstStep = 3 ∧ (s.threads.find 5).isSome = true ∧
      5 ∉ (clause .warp 4032).group ∧ coreOf 5 = 0 ∧ isAgent 5 = false) ∧
    (Setting (handler [] [(1, 0x10000)] id) (clause .warp 32) ∧ isHandler 32 = true ∧
     ((0, 1) : Nat × Nat) ≠ (handler [] [(1, 0x10000)] id).tagOf 32) ∧
    (let s := flying (.vdrain 0) none
     (s.ops.find 0).map (fun o => o.acc.acc) = some (.vdrain 0) ∧ s.inFlight 0 = false ∧ ∀ e ∈ s.threads, e.2.deferred = []) ∧
    (∃ s : State, ∃ o, s.ops.find 1 = some o ∧ o.acc.acc = .vdrain 0 ∧ s.inFlight 0 = true) := by
  refine ⟨⟨(ready (p := 0) rfl rfl rfl).1, by show _ < _; decide, rfl, by decide, by decide, by decide, by decide, by decide, rfl,
    by decide, rfl, by decide, by decide, by decide⟩, ⟨{ memUser with
        threads := [(5, thread [])], vdevs := [(0, { device with rstStep := 3 })]
        cores := [(0, { Core.empty with storageOf := some 0 })] }, rfl, rfl, rfl, by decide, rfl, rfl⟩,
    ⟨(handler_ready _ _ _).1, rfl, by decide⟩, ⟨rfl, rfl, ?_⟩, ?_⟩
  · decide
  · let z := fun (t : Nat) (a : Acc) => ({ thr := t, acc := access memUser memClause .lane 0 true a, pa := 0x8000, mt := 0, epoch := 0
                                           serial := 0, result := none } : Op)
    exact ⟨{ memUser with ops := [(0, z 0 (.load 0x8000 4 false 1)), (1, z 4032 (.vdrain 0))] }, _, rfl, rfl, by decide⟩

/-- A core with the block of launch 0, whose queue has the control word given, under a ticket of launch 1 of a higher
class. -/
def contested (ctl : Dword) : State :=
  { agentOf [] with
    blocks := [(0, block)]
    launches := [(0, launch .running), (1, { launch .ticketed with reserved := [], installed := [], runs := [], queue := 1, cls := 0 })]
    vdevs := [(0, { device with
      queues := [(0, { Queue.empty with slot := some 5, current := some 0, phase := 2, ctl := ctl }),
                 (1, { Queue.empty with slot := some 6, current := some 1, phase := 2 })] })] }

/-- Claims with no ticket, with one, and with a block on the core; a slot whose launch has reserved the core. -/
theorem witness_AgentsPlaceBlocks :
    (let x := { launch .ticketed with reserved := [], installed := [], runs := [] }
     let s := { agentOf [(0, 5), (1, 6)] with launches := [(0, x)] }
     Setting s (clause .warp 4032) ∧ plain 96 ∧ s.actors (clause .warp 4032) .warp 0 = [4032] ∧ (s.block 0).active = false ∧
     s.claimable 0 = some 0 ∧ s.launch? 0 = some x ∧ x.phase = .ticketed ∧ x.evict = false ∧ s.ops = [] ∧
     (s.chosenCores 0 x).contains 0 = true ∧ (s.vdev x.vdev).busy = false ∧ s.assay.hphase ≠ 2 ∧ s.reservedSlot 0 (s.reg 4032 97).toNat = none) ∧
    (agentOf []).claimable 0 = none ∧
    (((contested 8).block 0).active = true ∧ (contested 8).claimable 0 = some 1 ∧ (contested 8).outranks 1 0 = true ∧
      (contested 0).outranks 1 0 = false ∧ (contested 8).ops = [] ∧
      (contested 8).launch? ((contested 8).block 0).launch = some (launch .running)) ∧
    (let x := { launch .ticketed with reserved := [0], installed := [], runs := [] }
     let s := { agentOf [(0, 5)] with launches := [(0, x)], cores := [(0, { Core.empty with reserved := some 0 })] }
     Setting s (clause .warp 4032) ∧ s.actors (clause .warp 4032) .warp 0 = [4032] ∧
     s.reservedSlot 0 (s.reg 4032 96).toNat = some (0, x) ∧ x.phase = .ticketed ∧ coresOf x.record.cores = [0] ∧ x.installed = [] ∧
     s.mayStart 0 x = true ∧ x.evict = false ∧ s.ops = [] ∧ (s.vdev x.vdev).busy = false ∧ isAgent 4032 = true ∧ 0 < 144 ∧ s.ctx? x.vdev x.ctx = some Ctx.empty ∧
     x.record.warps ≤ 63) := by
  refine ⟨⟨(ready (p := 0) rfl rfl rfl).1, by show _ < _; decide, rfl, rfl, by decide, rfl, rfl, rfl, rfl, by decide, by decide, by decide,
    by decide⟩, by decide, ⟨rfl, by decide, by decide, by decide, rfl, rfl⟩, ⟨(ready (p := 0) rfl rfl rfl).1, rfl, rfl, rfl, by decide, rfl, by decide, rfl, rfl, by decide, rfl, by decide, rfl, by decide⟩⟩

/-- Outside a hand-over, and while agents quiesce for a staged image with another core's agent at work. -/
theorem witness_TheAgentWaits :
    (Setting (agentOf []) (clause .warp 4032) ∧ plain 96 ∧ (agentOf []).actors (clause .warp 4032) .warp 0 = [4032] ∧
      (agentOf []).assay.hphase ≠ 2) ∧
    (let s := { agentOf [] with assay := { Assay.empty with hphase := 2, stage := some (imageBytes 2) } }
     Setting s (clause .warp 4032) ∧ s.actors (clause .warp 4032) .warp 0 = [4032] ∧ s.assay.hphase = 2 ∧
     (s.assay.stage.bind readImage).isSome = true ∧ coreOf 4032 < 144 ∧
     (1 < 144 ∧ 1 ≠ coreOf 4032 ∧ (s.core 1).wfi = none ∧ (s.core 1).fwStopped = false ∧ (s.core 1).parked = false)) := by
  refine ⟨⟨(ready (p := 0) rfl rfl rfl).1, by show _ < _; decide, rfl, by decide⟩,
    ⟨(ready (p := 0) rfl rfl rfl).1, rfl, rfl, by decide +kernel, by decide, by decide, by decide, rfl, rfl, rfl⟩⟩

/-- Launches that reserve the core: ticketed; running with a block; saved, with a share of four cores and of none, on this
core alone, or on another one as well. -/
theorem witness_AgentsSaveAndRestore :
    let z := fun (x : Launch) => { agentOf [(0, 5), (1, 6)] with launches := [(0, x)], cores := [(0, { Core.empty with reserved := some 0 })] }
    (∀ ph ∈ [LPhase.ticketed, .running, .saved false],
      Setting (z (launch ph)) (clause .warp 4032) ∧ plain 96 ∧ (z (launch ph)).actors (clause .warp 4032) .warp 0 = [4032] ∧
      (z (launch ph)).reservedSlot 0 ((z (launch ph)).reg 4032 97).toNat = none ∧
      (z (launch ph)).reservedSlot 0 ((z (launch ph)).reg 4032 96).toNat = some (0, launch ph) ∧ (launch ph).phase = ph ∧
      (launch ph).installed ≠ [] ∧ (launch ph).installed.length ≤ ((z (launch ph)).vdev 0).shareCores.length ∧
      (launch ph).cores = [0] ∧ ((z (launch ph)).core 0).reserved = some 0) ∧
    ((launch .running).resident = true ∧ (launch .placing).resident = true ∧ (launch (.restoring 0 false)).resident = true ∧
      (launch .ticketed).resident = false) ∧
    (∃ s : State, (s.vdev 0).shareCores.length < (launch (.saved false)).installed.length) ∧
    (∃ k ∈ ({ launch (.saved false) with cores := [0, 1] } : Launch).cores, ((z (launch (.saved false))).core k).reserved ≠ some 0) := by
  refine ⟨fun ph hp => ?_, ⟨rfl, rfl, rfl, rfl⟩, ⟨memUser, by decide⟩, ⟨1, by decide, by decide⟩⟩
  simp only [List.mem_cons, List.not_mem_nil, or_false] at hp
  rcases hp with rfl | rfl | rfl <;>
    exact ⟨(ready (p := 0) rfl rfl rfl).1, by show _ < _; decide, rfl, rfl, rfl, rfl, by decide, by decide, rfl, rfl⟩

/-- A hub of one virtual device with queue 0 in a phase, its tail, its control word and its current launch. -/
def hub (ctl : Dword) (phase tail head : Nat) (slot cur : Option Nat) (f : Vdev → Vdev) : State :=
  { State.reset with
    started := true
    vdevs := [(0, f { device with
      queues := [(0, { Queue.empty with ctl := ctl, phase := phase, tail := tail, head := head, slot := slot, current := cur })] })] }

/-- Notifies: an idle enabled queue with a free slot; an overrun; a halted queue; a holder past its bound while another
queue waits; records of an empty queue, of an overrun one, of no context, of a record of zeros, and of a page that faults. -/
theorem witness_QueuesAndTheirRecords :
    (let s := hub 0x1B 0 0 0 none none id
     let x := s.queue 0 0
     s.victim 0 0 = none ∧ x.tail ≠ (1 : Word).toNat ∧ x.enabled = true ∧ (s.vdev 0).created = true ∧ (s.vdev 0).halted = false ∧
     ({ x with tail := 1 } : Queue).overrun = false ∧ x.phase = 0 ∧ (1 : Word).toNat ≠ x.head ∧ s.freeSlot = some 0 ∧
     ({ x with tail := 100 } : Queue).overrun = true ∧ x.current = none ∧ s.nextPending = none) ∧
    (let s := hub 0x1B 3 2 1 none none id
     (s.queue 0 0).phase = 3 ∧ s.victim 0 0 = none ∧ ((s.queue 0 0).head + 1) % 2 ^ 32 = (s.queue 0 0).tail) ∧
    (let s := { hub 0x1000000013 2 2 1 (some 0) none id with
                vdevs := [(0, { device with
                  queues := [(0, { Queue.empty with ctl := 0x1000000013, phase := 2, slot := some 0 }), (1, { Queue.empty with phase := 1 })] })] }
     s.nextPending = some (0, 1) ∧ (s.queue 0 0).phase = 2 ∧ (s.queue 0 0).preemptible = false ∧ (s.queue 0 0).overdue = false ∧
     (s.queue 0 0).hold ≠ 0xFFFFFFFF) ∧
    (let s := hub 0x1B 2 1 0 (some 0) none id
     (s.queue 0 0).phase = 2 ∧ (s.queue 0 0).current = none ∧ (s.vdev 0).halted = false ∧ (s.queue 0 0).enabled = true ∧
     (s.queue 0 0).head ≠ (s.queue 0 0).tail ∧ (s.queue 0 0).overrun = false ∧ (s.ctx? 0 (s.queue 0 0).ctxid).isSome = true ∧
     ∃ bs s', s.hubGet 0 none 0 256 = (.ok bs, s') ∧ recordErr bs (recordOf bs) (s'.vdev 0).shareCores 0 = some 2) ∧
    (hub 0x1B 2 1 1 (some 0) none id).queue 0 0 = { (hub 0x1B 2 1 0 (some 0) none id).queue 0 0 with head := 1 } ∧
    ((hub 0x1B 2 100 0 (some 0) none id).queue 0 0).overrun = true ∧
    (hub 0x1B 2 1 0 (some 0) none fun d => { d with ctxs := [] }).ctx? 0 0 = none ∧
    (∃ f s', (hub 0x1B 2 1 0 (some 0) none fun d => { d with s2tb := 1 }).hubGet 0 none 0 256 = (.error f, s')) := by
  refine ⟨⟨rfl, by decide, by decide, rfl, by decide, by decide, rfl, by decide, by decide, by decide, rfl, by decide⟩,
    ⟨rfl, by decide, by decide⟩, ⟨by decide, rfl, by decide, rfl, by decide⟩,
    ⟨rfl, rfl, by decide, by decide, by decide, by decide, by decide, _, _, rfl, by decide⟩, rfl, by decide, rfl, ⟨_, _, rfl⟩⟩

/-- The bytes of a good record: one block of one warp at 0x1000 on core 0, of eight work indices. -/
def goodRecord : List Byte :=
  [0x00, 0x10] ++ zeros 54 ++ [96, 1, 0, 1, 0x10, 4, 0, 0] ++ zeros 16 ++ [7, 0, 0, 0] ++ zeros 20 ++ [3] ++ zeros 7 ++ [1] ++ zeros 143

theorem witness_QueuesAndTheirRecords_good :
    goodRecord.length = 256 ∧ recordErr goodRecord (recordOf goodRecord) [0, 1, 2, 3] 0 = none ∧ (recordOf goodRecord).waits = [] ∧
    (∃ args masks s1, memUser.readArgs 0 0 (recordOf goodRecord) = (some (args, masks), s1)) ∧
    (∃ regs s2, memUser.readRegions 0 0 (recordOf goodRecord) = (some regs, s2)) :=
  ⟨by decide +kernel, by decide +kernel, by decide +kernel, ⟨_, _, _, rfl⟩, ⟨_, _, rfl⟩⟩

/-- A launch that waits; one that runs, with a slice and a rival; a save that stands on its last page, with a fallback area
and without one. -/
theorem witness_LaunchesAreSaved :
    (let s := { hub 0x1B 2 1 0 (some 0) (some 0) (fun d => { d with share := 0x1000000001 }) with
                launches := [(0, launch .running)] }
     s.launch? 0 = some (launch .running) ∧ (launch .running).phase = .running ∧ s.ops = [] ∧ (s.vdev 0).slice ≠ 0 ∧
     (s.queue 0 0).preemptible = true ∧ s.rival (launch .running) = false ∧ s.savePend 0 = false) ∧
    (∃ s : State, s.rival (launch .running) = true) ∧ (launch .waiting).phase ≠ .running ∧ (launch .waiting).phase ≠ .placing ∧
    (launch (.restoring 1 false)).phase = .restoring 1 false ∧ (launch .placing).phase = .placing ∧
    (∀ fb ∈ [0, 1], ∀ ph ∈ [LPhase.saving 1 false, .restoring 1 false],
      let x := { launch ph with installed := [], cores := [], reserved := [] }
      let s := { hub 0x1B 2 1 0 (some 0) (some 0) (fun d => { d with savefault := 0x8000000000000000, savefb := fb }) with
                 launches := [(0, x)] }
      let z := s.serveAction 0
      s.launch? 0 = some x ∧ x.phase = ph ∧ s.faulted 0 = [0] ∧ x.vdev = 0 ∧ s.savePend 0 = true ∧
      z.savePages 0 x = 1 + 1 ∧ (z.savePlace 0 false 1 .write).1 = .ok 4096 ∧ (z.savePlace 0 false 1 .read).1 = .ok 4096 ∧ (s.vdev 0).savefb.getLsbD 0 = decide (fb = 1) ∧
      s.resets.contains 0 = false) := by
  refine ⟨⟨rfl, rfl, rfl, by decide, by decide, by decide, by decide⟩, ⟨{ hub 0x1B 2 1 0 (some 0) (some 0) id with
      vdevs := [(0, device), (1, { device with queues := [(0, { Queue.empty with phase := 1, ctl := 0x18 })] })] }, by decide⟩, by decide, by decide, rfl, rfl, ?_⟩
  intro fb h ph hp
  simp only [List.mem_cons, List.not_mem_nil, or_false] at h hp
  rcases h with rfl | rfl <;> rcases hp with rfl | rfl <;>
    exact ⟨rfl, rfl, by decide, rfl, by decide, by decide +kernel, by decide +kernel, by decide +kernel, by decide, rfl⟩

/-- A reset to begin, and one under way; the acknowledgement of step 3 by the first core of a share and by the last, with
storage to clear and without; and of step 4 before and after the leader's work. -/
theorem witness_ResetsRunTheirSteps :
    ((0 : Nat) < 32 ∧ (hub 0x1B 0 0 0 none none id).resets = [] ∧ ((hub 0x1B 0 0 0 none none id).vdev 0).shareCores ≠ [] ∧
      ((hub 0x1B 0 0 0 none none id).vdev 0).busy = false ∧
      ((hub 0x1B 0 0 0 none none fun d => { d with ctl := 4 }).vdev 0).busy = true) ∧
    (∀ k ∈ [3, 4], ∀ acks ∈ [[], [1, 2, 3]], ∀ work ∈ [[], [0]],
      let s := { hub 0x1B 0 0 0 none none (fun d => { d with rstStep := k, rstAcks := acks, rstWork := work }) with
                 resets := [0], cores := [(0, { Core.empty with sysRst := BitVec.ofNat 64 k, storageOf := some 0 })] }
      (s.core 0).sysRst.toNat / 2 ^ 8 % 32 = 0 ∧ (s.core 0).sysRst.toNat % 8 = k ∧ (BitVec.ofNat 64 k).toNat % 8 = k ∧
      (s.vdev 0).rstStep = k ∧ s.resets = [0] ∧
      (s.vdev 0).shareCores ≠ [] ∧
      (acks = [] → ∃ m ∈ (s.vdev 0).shareCores, m ≠ 0 ∧ m ∉ (s.vdev 0).rstAcks) ∧
      (acks ≠ [] → ∀ m ∈ (s.vdev 0).shareCores, m = 0 ∨ m ∈ (s.vdev 0).rstAcks) ∧
      (work = [] → (∃ m ∈ (s.vdev 0).shareCores, (s.core m).storageOf = some 0 ∧ m ∉ (s.vdev 0).rstWork) ∧
        (s.vdev 0).shareCores.headD 0 ∉ (s.vdev 0).rstWork) ∧
      (work ≠ [] → (∀ m ∈ (s.vdev 0).shareCores, (s.core m).storageOf ≠ some 0 ∨ m ∈ (s.vdev 0).rstWork) ∧
        (s.vdev 0).shareCores.headD 0 ∈ (s.vdev 0).rstWork)) := by
  refine ⟨⟨by decide, rfl, by decide, by decide, by decide⟩, fun k h acks ha work hw => ?_⟩
  simp only [List.mem_cons, List.not_mem_nil, or_false] at h ha hw
  rcases h with rfl | rfl <;> rcases ha with rfl | rfl <;> rcases hw with rfl | rfl <;>
    exact ⟨by decide, by decide, by decide, rfl, rfl, by decide, by decide, by decide, by decide, by decide⟩

/-- Counting disabled, below THRESH and at it; decay on; a page to queue, one of size 7, and a full queue; an entry that is
released. -/
theorem witness_TheHubAndItsMemory :
    (let s := { memUser with hotCfg := 0x0000000200100001 }
     s.hotEn = true ∧ (0 : Nat) < 2 ∧ remoteTo 0 1 = true ∧ remoteTo 0 0 = false ∧ inStacks 0 0x8000 = true ∧
     inStacks 1 0x8000 = false ∧ s.hotThresh = 2 ∧
     min (0 + 1) 65535 < s.hotThresh ∧ s.hotCfg.toNat / 2 ^ 20 % 16 ≠ 0 ∧ s.quar.length < 4096) ∧
    (let s := { memUser with hotCfg := 0x0000000100000001 }
     s.hotThresh ≠ 0 ∧ s.hotThresh ≤ min (0 + 1) 65535 ∧ (s.hotTail + 2 ^ 32 - s.hotHead) % 2 ^ 32 ≠ s.hotSize) ∧
    memUser.hotEn = false ∧ memUser.hotCfg.toNat / 2 ^ 20 % 16 = 0 ∧ ((7 : Word) &&& 0x000FFFF7).toNat % 8 = 7 ∧
    (∃ s : State, 4096 ≤ s.quar.length) ∧ memUser.quar = [] ∧
    (let s := { memUser with quar := [(0x8000, 0)], epoch := 1 }
     s.quar = (0x8000, 0) :: [] ∧ s.released 0 = true) := by
  refine ⟨⟨by decide, by decide, rfl, rfl, by decide, by decide, by decide, by decide, by decide, by decide⟩, ⟨by decide, by decide, by decide⟩,
    by decide, by decide, by decide, ⟨{ memUser with quar := List.replicate 4096 (0, 0) }, List.length_replicate.ge⟩, rfl, rfl, by decide⟩

/-- Window 0 as memory of 4 KiB at 0x8000 and window 1 as four signal words, both of virtual device 0. -/
def importing (ctl : Dword) : State :=
  { hub 0x1B 0 0 0 none none (fun d => { d with ctl := ctl, sig := 0x400001000 }) with
    imports := [(0, 0x8000 + 2 ^ 64 * 4096 + 2 ^ 136 * 1 + 2 ^ 144 * 7 + 2 ^ 152 * 0xFF),
      (1, 2 ^ 64 * 4 + 2 ^ 136 * 2 + 2 ^ 144 * 7 + 2 ^ 152 * 0xFF)] }

def request (w : Nat) (op : FabOp) (k : Word) : FabricReq := { source := 1, window := w, offset := 8, key := k, op := op }

theorem witness_FabricRequests :
    (importing 0).passes (request 0 (.load 4) 5) = false ∧
    ((importing 24).passes (request 0 (.load 4) 0) = true ∧ (importing 24).stubbed 0 = true ∧ ((importing 24).vdev 0).stubThawed = false ∧
      ((importing 24).vdev 0).frozen = true ∧ ((importing 24).vdev 0).stub = true) ∧
    (∀ op ∈ [FabOp.sigLd, .sigSt 3, .sigAdd 3, .sigCas 0 3, .sigWait 0 0, .sigWait 0 1],
      (importing 0).passes (request 1 op 0) = true ∧ (importing 0).stubbed 1 = false ∧ op.signal = true ∧
      ((importing 0).grant 0).1 + 0 + 8 / 8 ≠ 0 ∧ ((importing 0).vdev 0).stub = false) ∧
    (condHolds 0 ((importing 0).signal 4097) 0 = true ∧ condHolds 0 ((importing 0).signal 4097) 1 = false) ∧
    (∀ op ∈ [FabOp.load 8, .store [1, 2, 3, 4], .atom .add 7 0, .atom .cas 0 7, .atom .cas 1 7, .sum 0 0],
      (importing 0).passes (request 0 op 0) = true ∧ op.signal = false ∧ (importing 0).mem.wf = true ∧
      ((importing 0).ingressMemory 1 0 8 op.size op.kind 0 op.big).1 = some 0x8008 ∧ targetOf 0x8008 = .stack) ∧
    (∃ s : State, (s.vdev 0).frozen = true ∧ (s.vdev 0).stub = true ∧ (s.vdev 0).stubThawed = true) ∧
    (((flying (.load 0x8000 4 false 1) none).ops.find 0).map Op.remote = some false) ∧
    (∃ s : State, ∃ o, s.ops.find 0 = some o ∧ o.remote = true ∧ o.acc.acc = .load 0x8000 4 false 1 ∧ targetOf o.pa = .fabric ∧
      (s.thr o.thr).live = true) := by
  refine ⟨by decide, ⟨by decide, by decide, rfl, by decide, by decide⟩, by decide, ⟨by decide, by decide⟩, by decide,
    ⟨hub 0x1B 0 0 0 none none fun d => { d with ctl := 24, stubThawed := true }, by decide, by decide, rfl⟩, by decide, ?_⟩
  exact ⟨{ memUser with ops := [(0, { thr := 0, acc := access memUser memClause .lane 0 true (.load 0x8000 4 false 1), pa := 0xC000000000000
                                      mt := 0, epoch := 0, serial := 0, result := none })] }, _, rfl, by decide, rfl, by decide, rfl⟩

/-- An image that a module wrote, of queue 0 and one signal word. -/
def imageOf (module : Nat) : VImage :=
  { module := module, profile := List.replicate 16 0, queues := [(0, Queue.empty)], dgates := [], signals := [5], presents := []
    launches := [] }

theorem witness_TheHypervisorWrites :
    (let s := hub 0x0B 0 0 0 none none id
     let d := s.vdev 0
     d.busy = false ∧ s.launches = [] ∧ s.resets.contains 0 = false ∧ d.frozen = false ∧ d.image = none ∧
     popCount ((0 : Dword) &&& 0x03FFFFFFFFFFFFFF).toNat 36 = 0 ∧ popCount ((1 : Dword) &&& 0x03FFFFFFFFFFFFFF).toNat 36 = 1 ∧
     ((d.profile.getD 4 0).toNat ≤ 4 * 1) ∧ (0x400001000 &&& 0x0007FFFF0007FFFF : Dword).toNat % 2 ^ 19 = 4096 ∧
     (0x400000FFF &&& 0x0007FFFF0007FFFF : Dword).toNat % 2 ^ 19 < 4096 ∧ (d.profile.getD 11 0).toNat ≤ 4 ∧
     d.ctxs.find 5 = none ∧ d.ctxs.find 0 ≠ none ∧ s.ctxInUse 0 0 = false ∧ d.selected = none) ∧
    (hub 0x1B 0 0 0 none none id).ctxInUse 0 0 = true ∧
    ((hub 0x0B 0 0 0 none none fun d => { d with ctl := 4 }).vdev 0).busy = true ∧
    (let i := imageOf Config.moduleNumber.toNat
     let s := hub 0x0B 0 0 0 none none fun d => { d with ctl := 8, image := some i, selected := some 0, sig := 0x400001000, profile := i.profile }
     let d := s.vdev 0
     d.busy = false ∧ d.frozen = true ∧ d.image = some i ∧ d.fits i.profile = true ∧ d.stubHeld = [] ∧ (∀ e ∈ s.launches, e.2.vdev ≠ 0) ∧
     i.launches = [] ∧ (i.queues.find 0).isSome = true ∧ 0 < i.signals.length ∧ 0 < (s.grant 0).2 ∧
     d.selected = some 0 ∧ d.ctxs.find 0 = some Ctx.empty) ∧
    (let i := imageOf (Config.moduleNumber.toNat + 1)
     let d := (hub 0x0B 0 0 0 none none fun d => { d with image := some i, profile := i.profile }).vdev 0
     d.frozen = false ∧ i.foreign = true ∧ d.fits i.profile = true ∧ d.created = true ∧ 3 < i.profile.length) ∧
    (let i := { imageOf 0 with profile := [2, 0, 0, 0, 1000] }
     let d := (hub 0x0B 0 0 0 none none fun d => { d with image := some i }).vdev 0
     d.image = some i ∧ d.fits i.profile = false) := by
  refine ⟨⟨by decide, rfl, rfl, by decide, rfl, by decide, by decide, by decide, by decide, by decide, by decide, rfl, by decide,
    by decide, rfl⟩, by decide, by decide, ⟨by decide, by decide, rfl, by decide, rfl, by decide, rfl, rfl, by decide, by decide, rfl, rfl⟩,
    ⟨by decide, by simp [VImage.foreign, imageOf], by decide, rfl, by decide⟩, ⟨rfl, by decide⟩⟩

theorem witness_TheHubAndItsMemory_hub :
    524288 ≤ (524288 : Nat) ∧ (0 < (1 : Nat) ∧ (524287 : Nat) < 524288) ∧ (0 : Nat) < regBase ∧ (regBase + 4) % 8 ≠ 0 ∧ (31 : Nat) < 32 ∧
    memUser.drains 0 = false ∧
    (let o : Op := { thr := 0, acc := access memUser memClause .lane 0 true (.load 0x8000 4 false 1), pa := 0x200000000000, mt := 0
                     epoch := 0, serial := 0, result := none }
     let s := { memUser with ops := [(0, { o with acc := { o.acc with acc := .vdrain 0 } }), (1, o)]
                             vdevs := [(0, { device with draining := true })] }
     s.drains 0 = true ∧ o.acc.acc = .load 0x8000 4 false 1 ∧ o.result = none ∧ targetOf o.pa = .io ∧ o.pa < regBase ∧
     isAgent o.thr = false ∧ coreOf o.thr < 144 ∧ (s.tagOf o.thr).1 = 0) := by
  refine ⟨by decide, ⟨by decide, by decide⟩, by decide, by decide, by decide, by decide, ⟨by decide, rfl, rfl, by decide, by decide, rfl,
    by decide, rfl⟩⟩

/-- A display in a mode, trained or not. -/
def bezel (mode : Dword) (live : Bool) (f : Bezel → Bezel) : State :=
  { memUser with bezel := f { Bezel.empty with displays := [(0, { Display.empty with mode := mode, live := live, width := 4, height := 2 })] } }

/-- An owner other than 0; tables 0 and 1; parts 2 and 3; room in the fill queue and none; a running fill; modes in range
and out of it, on a display that is on and off; a full present queue. Refreshes of a live and of an untrained display. -/
theorem witness_TheCompositor :
    (1 : Nat) ≠ 0 ∧ (Bezel.empty.inTable = true ∧ Bezel.empty.table = 0 ∧ Bezel.empty.table ≠ 2) ∧
    (let b := { Bezel.empty with tsel := 0x8000003F }
     b.inTable = true ∧ b.table = 2 ∧ ({ b with tsel := 0x80000040 } : Bezel).inTable = false) ∧
    (0xC0000 : Dword).toNat / 2 ^ 18 % 4 = 3 ∧ (0x80000 : Dword).toNat / 2 ^ 18 % 4 ≠ 3 ∧
    (∃ b : Bezel, 17 ≤ b.fills.length) ∧ Bezel.empty.fills.length < 17 ∧ Bezel.empty.fills = [] ∧
    (let s := bezel 0 false fun b => { b with fills := [{ disp := 0, part := 0, entry := 5, x0 := 1, x1 := 3, y0 := 0, y1 := 1 }] }
     (∃ f, s.bezel.fills = f :: [] ∧ f.disp < 4 ∧ (s.display f.disp).width ≤ 7680 ∧ (s.display f.disp).height ≤ 4320 ∧
      s.mem.wf = true ∧ f.entry < 65536)) ∧
    (modeEn 0x8000177000020004 = true ∧ modeOk 0x8000177000020004 = true ∧ modeOk 0x8000177000020000 = false ∧
      modeEn 0x0000177000020004 = false) ∧
    (∃ p : PresentQ, 8 ≤ p.q.length) ∧
    (let s := bezel 0x8000177000020004 true id
     modeEn (s.display 0).mode = true ∧ (s.display 0).live = true ∧ (s.display 0).next = none ∧ s.bezel.grants = [] ∧
     s.bezel.presents = [] ∧ s.bezel.fills = [] ∧ ∀ o, s.layerFor 0 255 = none ∨ o = 255) ∧
    ((bezel 0x8000177000020004 false id).display 0).live = false ∧ modeEn ((bezel 0 false id).display 0).mode = false ∧
    memUser.lockPairs 0 0 = [4 * 255 + 0] ∧
    (∀ e ∈ memUser.blocks, (e.2.vdev, e.2.ctx) ≠ (0, 1)) := by
  refine ⟨by decide, ⟨by decide, by decide, by decide⟩, ⟨by decide, by decide, by decide⟩, by decide, by decide,
    ⟨{ Bezel.empty with fills := List.replicate 17 { disp := 0, part := 0, entry := 0, x0 := 0, x1 := 0, y0 := 0, y1 := 0 } }, by decide⟩,
    by decide, rfl, ⟨_, rfl, by decide, by decide, by decide, rfl, by decide⟩, ⟨by decide, by decide, by decide, by decide⟩,
    ⟨{ PresentQ.empty with q := List.replicate 8 (0, 0, 0) }, by decide⟩,
    ⟨by decide, rfl, rfl, rfl, rfl, rfl, fun o => Or.inl (by decide)⟩, rfl, by decide, rfl, by decide⟩

/-- Of the conditions of acceptance only the two that the module's fuses and keys decide are left; an image of another kind
fails. The rest: a register to extend, a log with room and a full one, a hand-over under way and none, and failed starts. -/
theorem witness_AssayAndStarts :
    (∃ x, readImage (imageBytes 2) = some x ∧ x.code = [1, 2, 3, 4] ∧ x.svn = 0xFFFFFFFF ∧ x.accepted 2 =
      (Config.ecdsaOk 2 x.digest x.ecdsa && Config.lmsOk 2 x.digest x.lms && decide (Config.minSvn 2 ≤ x.svn))) ∧
    acceptedImage 2 (imageBytes 1) = none ∧ acceptedImage 2 [1, 2, 3, 4] = none ∧
    memUser.started = true ∧ memUser.assay.log.length < 1024 ∧ memUser.assay.meas.length = 16 ∧ memUser.assay.hphase ≠ 2 ∧
    (memUser.core 0).wfi = none ∧ (memUser.core 0).fwStopped = false ∧ (memUser.core 0).parked = false ∧
    (∃ s : State, s.started = true ∧ s.assay.hphase = 2 ∧ (s.core 0).wfi = none ∧ (s.core 0).fwStopped = false ∧
      (s.core 0).parked = false) ∧
    (∃ s : State, ∃ x, s.started = true ∧ s.assay.hphase = 2 ∧ s.assay.stage = some (imageBytes 2) ∧
      readImage (imageBytes 2) = some x ∧ (∀ c, c < 144 → (s.core c).parked = true) ∧ s.assay.meas.length = 16) ∧
    (∃ a : Assay, a.hphase = 1) ∧ (∃ a : Assay, a.upset = true ∧ a.wfail < 3) ∧ memUser.assay.upset = false ∧
    (∃ a : Assay, 1024 ≤ a.log.length) ∧ memUser.assay.wfail < 3 ∧ (∃ a : Assay, 3 ≤ a.wfail) ∧
    (let x : StartInput := { assay := imageBytes 2, hub := imageBytes 2, boot := imageBytes 3, recovery := [], trained := true
                             scrubbed := true, capped := false }
     acceptedImage 1 x.assay = none ∧ x.trained = true) := by
  have parked_all : ∀ c, c < 144 → (({ memUser with
      cores := (List.range 144).map fun c => (c, { Core.empty with parked := true })
      assay := { Assay.empty with hphase := 2, stage := some (imageBytes 2) } } : State).core c).parked = true := by decide +kernel
  refine ⟨⟨_, rfl, rfl, rfl, ?_⟩, rfl, rfl, rfl, by decide, by decide, by decide, rfl, rfl, rfl,
    ⟨{ memUser with assay := { Assay.empty with hphase := 2 } }, rfl, rfl, rfl, rfl, rfl⟩,
    ⟨{ memUser with
        cores := (List.range 144).map fun c => (c, { Core.empty with parked := true })
        assay := { Assay.empty with hphase := 2, stage := some (imageBytes 2) } }, _, rfl, rfl, rfl, rfl, parked_all, by decide⟩,
    ⟨{ Assay.empty with hphase := 1 }, rfl⟩, ⟨{ Assay.empty with upset := true }, rfl, by decide⟩, rfl,
    ⟨{ Assay.empty with log := List.replicate 1024 { reg := 0, event := 0, gen := 0, digest := 0 } }, List.length_replicate.ge⟩, by decide,
    ⟨{ Assay.empty with wfail := 3 }, by decide⟩, by decide +kernel, rfl⟩
  show (decide (_ = 2) && _ && _ && _) = _
  rw [decide_eq_true (by decide), Bool.true_and]

/-! ### Whole-machine statements -/

/-- A well-formed instruction with a class: IADD v1, v2, v3. -/
theorem witness_DecodingInvertsEncoding :
    (Instr.iadd .lane 1 2 3 0).wf 32 = true ∧ (Instr.iadd .lane 1 2 3 0).cls = some .alu ∧
    decodeWord .alu 0x25080410 [] = .ok (.ffma .lane 4 1 2 0) := ⟨by decide, rfl, by decide⟩

/-- The first word of a clause of two words, by a thread without a task; its second word; and an event on the agenda. -/
theorem witness_AStepRunsTheDecodedWord :
    (memUser.agenda = [] ∧ memUser.safe = false ∧ memUser.started = true ∧ memUser.issue = some memClause ∧
     memClause.words.drop memClause.pos = 0 :: [0] ∧ decodeWord memClause.head.cls 0 [0] = .ok (.mov .lane 0 0 0) ∧
     (∀ t ∈ memClause.group, (memUser.thr t).task = none) ∧
     memClause.pos + 1 + (Instr.mov .lane 0 0 0).litCount < memClause.words.length ∧
     (memClause.group.filter fun t => (memUser.thr t).live) ≠ []) ∧
    (let i := { memClause with pos := 1 }
     let s := { memUser with issues := [(0, i)] }
     s.issue = some i ∧ i.words.length ≤ i.pos + 1 + (Instr.mov .lane 0 0 0).litCount ∧
     (i.group.filter fun t => (s.thr t).live).Nodup ∧ (0 : Nat) ∈ i.group.filter fun t => (s.thr t).live) ∧
    (∃ s : State, s.agenda = .event .hotnessDecay :: []) :=
  ⟨⟨rfl, rfl, rfl, rfl, rfl, by decide, by decide, by decide, by decide⟩, ⟨rfl, by decide, by decide, by decide⟩,
    ⟨{ State.reset with agenda := [.event .hotnessDecay] }, rfl⟩⟩

/-- A stopped machine and one that moves. -/
theorem witness_EveryStepCompletes :
    Safety.Stopped { State.reset with safe := true } ∧ ¬ Safety.Stopped memUser :=
  ⟨⟨rfl, rfl⟩, fun h => by simp [Safety.Stopped, memUser, user, State.reset] at h⟩

/-- A user thread with no handler, with one that can start and with one that runs; a handler's thread; an agent. -/
theorem witness_ExceptionsAreTaken :
    (isAgent 0 = false ∧ isHandler 0 = false ∧ (memUser.block 0).handler = none ∧ (memUser.block 0).trap.getLsbD 0 = false) ∧
    (let s := memUser.modBlock 0 fun b => { b with trap := 0x2001 }
     (s.block 0).handler = none ∧ (s.block 0).trap.getLsbD 0 = true ∧ (s.block 0).recs = [] ∧ (s.block 0).waitRecs = []) ∧
    ((handler [faultRec] [] id).block 0).handler.isSome = true ∧
    (isAgent 32 = false ∧ isHandler 32 = true) ∧ isAgent 4032 = true ∧
    (∃ s : State, ∃ x, s.launch? (s.block 0).launch = some x) :=
  ⟨⟨rfl, rfl, rfl, rfl⟩, ⟨rfl, rfl, rfl, rfl⟩, rfl, ⟨rfl, rfl⟩, rfl,
    ⟨{ memUser with launches := [(0, launch .running)] }, _, rfl⟩⟩

/-- A state in canonical form whose step answers: a machine that has not started. -/
theorem witness_EveryStepKeepsTheCanonicalForm :
    State.reset.mem.wf = true ∧ State.reset.scratch.wf = true ∧ State.reset.accm.wf = true ∧ State.reset.wbuf.wf = true ∧
    (∃ t, Machine.step State.reset = .next t) := ⟨rfl, rfl, rfl, rfl, _, rfl⟩

/-- The last byte below the scratchpads' range and its first; two memories that read alike; a log in order; and an object
that binds the region. -/
theorem witness_MemoryAndItsOrder :
    memUser.mem.wf = true ∧ memUser.scratch.wf = true ∧ scratchBase - 1 + [(1 : Byte)].length ≤ scratchBase ∧
    (∃ m : Mem, m.wf = true ∧ m ≠ [] ∧ ∀ a, m.read a = m.read a) ∧ 0 < [(1 : Byte)].length ∧ 0x8007 % 8 + 1 ≤ 8 ∧
    (∀ e ∈ memUser.wlog, e.serial ≤ memUser.serial) ∧
    (∀ t n x, (memUser.thr t).lastRead.find n = some x → x ≤ memUser.serial) ∧ boundTo (objKey 2 0 3) (objKey 2 0 3) = true := by
  refine ⟨rfl, rfl, by decide, ⟨[(0, 1)], by decide, by decide, fun _ => rfl⟩, by decide, by decide, by decide, ?_, by decide⟩
  intro t n x h
  by_cases ht : t = 0
  · subst ht; exact absurd h (by simp [memUser, user, thread, State.thr, Tab.get, Tab.find, Thread.empty])
  · exact absurd h (by simp [memUser, user, State.thr, Tab.get, Tab.find, Thread.default, Thread.empty, Ne.symm ht])

/-- Code at 0x1000: a header with a wait mask and a word, of which the high bytes are given. -/
def pickable (w b : Byte) (f : Thread → Thread) : State :=
  { coder f with
    issues := [], launches := [(0, launch .running)]
    mem := [(0x1000, 0x01)] ++ (if w = 0 then [] else [(0x1001, w)]) ++ [(0x1002, 0xF0), (0x1003, 0xAF)]
      ++ if b = 0 then [] else [(0x1007, b)] }

/-- Thread 0 stands at a clause of lane scope; whether its wait mask meets a set flag, and whether its checks pass. -/
def lookIs (s : State) (waits good : Bool) : Bool :=
  match s.look 0 with
  | .clause h ws =>
    (Look.clause h ws).scope == .lane && ((s.thr 0).cf &&& h.wait != 0) == waits && s.canStart (.clause h ws) [0] == !waits &&
      (checkWords h.cls (parseClause h.cls 0 1 ws) .lane true (placeOf 0) (s.minQuota [0])).isNone == good
  | _ => false


/-- A clause that passes its checks, one that fails them, and one that waits for the flag f0. -/
def pickOk : State := pickable 0 0 id
def pickBad : State := pickable 0 0x3F id
def pickWait : State := pickable 1 0 fun th => { th with cf := 1 }

/-- A ready thread whose clause passes its checks, one whose clause fails them, and one whose flag is set; and a system
word, which no user thread may run. -/
theorem witness_ClausesStartWhereTheyMay :
    (∀ s ∈ [pickOk, pickBad, pickWait], s.issues = [] ∧ s.threadsOn 0 0 = [0] ∧ (s.thr 0).task = none ∧ (s.thr 0).rdv = none) ∧
    pickOk.held 0 = false ∧ pickBad.held 0 = false ∧ pickWait.held 0 = false ∧
    lookIs pickOk false true = true ∧ lookIs pickBad false false = true ∧ lookIs pickWait true true = true ∧
    decodeWord .sys 0x40C40000 [] = .ok (.srd .warp 98 0) ∧
    (∃ p : Parsed, p ∈ parseClause .sys 0 1 [0x40C40000] ∧ p.res = .ok (.srd .warp 98 0) ∧ sysOk .user (.srd .warp 98 0) = false ∧
      clauseErr .sys .warp 0 (parseClause .sys 0 1 [0x40C40000]) = none) := by
  refine ⟨by decide, by decide +kernel, by decide +kernel, by decide +kernel, by decide +kernel, by decide +kernel,
    by decide +kernel, by decide, ⟨{ n := 1, word := 0x40C40000, res := decodeWord .sys 0x40C40000 [] }, ?_, by decide, by decide, by decide⟩⟩
  exact .head _

/-! ## Engine commands at their turn -/

/-- The command that `queued` puts at the head of an engine's queue. -/
def queuedCmd (e : Nat) (b : CmdBody) (g : Option Nat) (started : Bool) : Cmd :=
  { body := b, op := 0, acc := access memUser memClause .lane 0 true (.engine e), thr := 0, guard := g, progress := 0
    started := started, stopped := false, serial := 0, seen := [], regions := [], wrote := [] }

theorem atHead (e : Nat) (b : CmdBody) (gv : Nat) : AtHead (queued e b none false gv id) 0 e (queuedCmd e b none false) b :=
  ⟨rfl, ⟨[], by simp [queued, queuedCmd, State.engq, State.block, Tab.get, Tab.find]⟩, rfl, rfl, rfl, rfl, rfl, rfl, rfl, (rfl : coreOf 0 = 0), rfl⟩

/-- Accumulator commands, with a cell that holds a NaN; products of the ternary, integer, narrow, half, single and scaled
forms; a WLOAD of one unit; drains of each format, and their residuals. -/
theorem witness_MatrixCommandsCompute :
    (∀ b ∈ [CmdBody.accRd 5 [(0, 5, 0)], .accWr [(0, 7)], .accZero [0], .accScale [(0, 0x3F800000)], .accCvt true [0], .accCvt false [0],
        .rowFold true 5 [(0, [0])], .rowFold false 5 [(0, [0])]],
      let s := queued engTrellis b none false 0 id
      AtHead s 0 engTrellis (queuedCmd engTrellis b none false) b ∧ s.accm.wf = true ∧ s.poison = [] ∧
      5 < s.resultLimit 0 (queuedCmd engTrellis b none false).acc ∧ f32Finite (s.accWord 0 0 63)) ∧
    0x7F800000 < (({ memUser with accm := [(2, 0xC0), (3, 0x7F)] } : State).accWord 0 0 0).toNat % 2 ^ 31 ∧
    (∀ f ∈ [(0, 64), (1, 32), (2, 32), (4, 16), (6, 8), (7, 64), (8, 32)],
      let a := [List.replicate f.2 0]
      let b := CmdBody.mma f.1 0 a 0 (if f.1 < 7 then [] else List.replicate 32 0x3F80)
      let s := queued engTrellis b none false 0 id
      AtHead s 0 engTrellis (queuedCmd engTrellis b none false) b ∧ s.accm.wf = true ∧ f.1 < 9 ∧ (∀ r ∈ a, r.length = f.2) ∧
      (denseLines (fun o n => s.wbuf.readN (0 * 2 ^ 24 + o) n) 0 (if f.1 = 0 ∨ f.1 = 7 then 13 else 32)).isSome = true) ∧
    (fltFinite 8 7 0x3F80 ∧ fltNan 8 7 0x7FC0 ∧ fltFinite 5 10 0x3C00 ∧ fltNan 5 10 0x7E00) ∧
    ((zeros 40).length = 40 ∧ (zeros 36).length = 36 ∧ 5 ≤ (5 : Byte).toNat) ∧
    (let b := CmdBody.wload 0 0x8000 16
     let s := queued engTrellis b none false 0 id
     AtHead s 0 engTrellis (queuedCmd engTrellis b none false) b ∧ 16 % 16 = 0 ∧ s.wbuf.wf = true ∧
     (∃ u, s.translate 0 (BitVec.ofNat 64 0x8000) 16 .read false = (.ok (0x8000, 0), u) ∧ u.wlog = []) ∧ targetOf 0x8000 = .stack) ∧
    (∀ add ∈ [false, true], ∀ fmt ∈ [0, 1, 2, 3, 4],
      let b := CmdBody.tstore add [(0, 0)] (2 ^ 63 + 0) 256 fmt none
      let s := queued engTrellis b none false 0 id
      AtHead s 0 engTrellis (queuedCmd engTrellis b none false) b ∧ fmt < 5 ∧ s.scratch.wf = true ∧ 64 * 4 ≤ 256 ∧
      0 + 0 * 256 + 64 * 4 ≤ 16384 * (s.block 0).scr ∧ 16384 * (s.block 0).scr ≤ 2 ^ 24) ∧
    (let md : Modes := { rz := false, daz := false, trans := 0 }
     f32Finite (fadd md 0x3F800000 0) ∧ fltFinite 8 7 (drainElem 2 0x3F800000 (some 0)).1) := by
  refine ⟨fun b hb => ⟨atHead _ _ _, rfl, rfl, lt_of_lt_of_eq (by decide : 5 < 32) rfl, (by decide : (0 : Word).toNat / 2 ^ 23 % 2 ^ 8 ≠ 255)⟩, by decide, fun f hf => ?_,
    ⟨by show _ ≠ _; decide, by show _ ∧ _; decide, by show _ ≠ _; decide, by show _ ∧ _; decide⟩, ⟨by decide, by decide, by decide⟩,
    ⟨atHead _ _ _, by decide, rfl, ⟨_, rfl, rfl⟩, rfl⟩,
    fun add _ fmt hf => ⟨atHead _ _ _, ?_, rfl, by decide, le_of_le_of_eq (by decide : 256 ≤ 65536) rfl,
      le_of_eq_of_le rfl (by decide : 65536 ≤ 2 ^ 24)⟩, ⟨by show _ ≠ _; decide +kernel, by show _ ≠ _; decide +kernel⟩⟩
  · simp only [List.mem_cons, List.not_mem_nil, or_false] at hf
    rcases hf with rfl | rfl | rfl | rfl | rfl | rfl | rfl <;>
      exact ⟨atHead _ _ _, rfl, by decide, by simp, by decide +kernel⟩
  · simp only [List.mem_cons, List.not_mem_nil, or_false] at hf
    omega

/-- A node of a kind in a phase. -/
def node (kind src dst count phase left : Nat) (succ : List Nat) : GNode :=
  { kind := kind, guard := none, esz := 0, count := count, src := src, dst := dst, aux := 0, succ := succ, left := left, phase := phase
    progress := 0, stopped := false, wrote := [] }

/-- A block with an armed graph. -/
def armed (g : List GNode) (b : Block) : Block :=
  { b with graph := g, armed := true, garm := some (queuedCmd engGraph .garm none true) }

/-- The 80 bytes of a descriptor of one level of two elements of four bytes, for the scratchpad. -/
def descBytes : List Byte := zeros 12 ++ [0x11, 1, 0, 0, 2, 0, 0, 0, 4] ++ zeros 59

/-- Copies within the scratchpad, of memory, and of kept elements; a load of a slice; a run with its slot, for the scratchpad
and for a queue; an element for a queue with room; a stop; commands of the walker; nodes that signal and copy, and finish. -/
theorem witness_EngineCommandsRun :
    (let b := CmdBody.copy (2 ^ 63 + 0) (2 ^ 63 + 64) 8
     let s := queued engCopy b none false 0 id
     AtHead s 0 engCopy (queuedCmd engCopy b none false) b ∧ s.scratch.wf = true ∧ 16384 * (s.block 0).scr ≤ 2 ^ 24 ∧
     64 + 8 ≤ 16384 * (s.block 0).scr ∧ 0 + 8 ≤ 64 ∧ s.wlog = []) ∧
    (∀ e ∈ [1, 2],
      let b := CmdBody.x24 (2 ^ 63 + 0) (2 ^ 63 + 64) 8 (2 ^ 63 + 128) e
      let s := queued engCopy b none false 0 id
      AtHead s 0 engCopy (queuedCmd engCopy b none false) b ∧ 0 + 8 / 2 * e ≤ 64 ∧ 64 + 8 * e ≤ 128 ∧
      128 + 8 / 8 ≤ 16384 * (s.block 0).scr) ∧
    (let b := CmdBody.copy 0x8000 0x9000 4
     let s := queued engCopy b none false 0 id
     let x := queuedCmd engCopy b none false
     AtHead s 0 engCopy x b ∧ (∃ ws u, copyUnit 0x8000 0x9000 s { x with started := true } 0 = (.ok ws, u)) ∧
     (∃ bs u v, s.engLoad x pathCopy ((0x8000 + 4 * 0) % 2 ^ 64) 4 = (.ok bs, u) ∧
       u.translate 0 (BitVec.ofNat 64 0x9000) bs.length .write false false = (.ok (0x9000, 0), v) ∧ v.mem.wf = true) ∧
     (∃ u, s.translate 0 (BitVec.ofNat 64 0x8000) 4 .read false false = (.ok (0x8000, 0), u) ∧ u.wlog = []) ∧ targetOf 0x9000 = .stack) ∧
    (let b := CmdBody.filLoad 0x8000 0
     let s := queued engFil b none false 0 id
     AtHead s 0 engFil (queuedCmd engFil b none false) b ∧
     (∃ bs u, s.engUnits (queuedCmd engFil b none false) pathCopy 0x8000 8 10 = (.ok bs, u)) ∧
     sliceOf (zeros 80) = none ∧ (sliceOf descBytes).isSome = true ∧ descBytes.length = 80) ∧
    (∀ scr ∈ [true, false],
      let d : SliceDesc := { base := 0x8000, sdst := 0, esz := 2, qnum := 0, toScratch := scr, guard := none, counts := [1], strides := [4] }
      let f := fun b : Block => { b with slots := [(0, d)], opq := [(0, { OpQueue.off with en := true, log2d := 1, esz := 2 })] }
      let s := queued engFil (.filRun 0) none false 0 f
      let z := queued engFil (.filRun 0) none true 0 f
      let x := queuedCmd engFil (.filRun 0) none true
      s.enginesRun 0 = true ∧ s.engq 0 engFil = [queuedCmd engFil (.filRun 0) none false] ∧ (s.block 0).slots.find 0 = some d ∧
      s.sliceOn 0 0 = none ∧ ((s.block 0).queue 0).en = true ∧ s.fed 0 0 = false ∧ z.sliceOn 0 0 = some x ∧ d.addr 0 % 2 ^ d.esz = 0 ∧
      (∃ bs u, z.engGlobal x pathCopy (d.addr 0) (2 ^ d.esz) = (.ok bs, u) ∧ u.scratch = z.scratch ∧ u.blocks = z.blocks ∧ bs.length = 4) ∧
      ((z.block 0).queue 0).tails.get 0 0 - ((z.block 0).queue 0).heads.get 0 0 < 2 ^ ((z.block 0).queue 0).log2d ∧ d.total ≤ 0 + 1) ∧
    (let s := flying (.filStop 0) (some [])
     (s.ops.find 0).map (fun o => (o.acc.acc, o.result)) = some (.filStop 0, some []) ∧ s.away 0 = false) ∧
    (let g := [node 1 0 0 0 0 0 [], node 1 0 0 0 0 0 []]
     ∀ b ∈ [CmdBody.gnode 0x8000 96, .gedge 0 1, .garm, .garmClr, .gwait],
      let s := queued engGraph b none false 0 id
      AtHead s 0 engGraph (queuedCmd engGraph b none false) b ∧ (s.block 0).armed = false ∧ (s.block 0).graph.length < 64 ∧
      (∃ bs u, s.engUnits (queuedCmd engGraph b none false) pathCopy 0x8000 8 4 = (.ok bs, u) ∧ u.blocks = s.blocks ∧ bs.length = 32) ∧
      nodeOk (zeros 32) = false ∧ nodeOk (1 :: zeros 31) = true ∧ cyclic g = false ∧ g[0]? = some (node 1 0 0 0 0 0 []) ∧
      1 < g.length ∧ ∀ y ∈ g, y.guard = none) ∧
    (∀ nd ∈ [node 4 1 7 0 1 0 [], node 1 0x8000 0x9000 4 1 0 []],
      let s := { queued engGraph .gwait none false 0 (armed [nd, node 1 0 0 0 0 1 []]) with vdevs := [(0, { Vdev.empty with sig := 0x400001000 })] }
      s.enginesRun 0 = true ∧ (s.block 0).armed = true ∧ (s.block 0).garm = some (queuedCmd engGraph .garm none true) ∧
      (s.block 0).graph[0]? = some nd ∧ nd.phase = 1 ∧ nd.stopped = false ∧ (s.grant (s.tagOf 0).1).2 ≤ 2 ^ 19 ∧
      1 < (s.grant (s.tagOf 0).1).2 ∧ s.proxyFor (s.tagOf 0).1 1 = none ∧ s.turning (s.tagOf 0).1 1 = false ∧
      copyAligned 0x8000 0x9000 4 = true ∧
      (∃ ws u, copyUnit 0x8000 0x9000 s { queuedCmd engGraph .garm none true with wrote := [] } 0 = (.ok ws, u))) ∧
    (let s := { memUser with blocks := [(0, armed [node 1 0 0 0 1 0 [1], node 1 0 0 0 0 1 []] block)] }
     (s.block 0).armed = true ∧ (s.block 0).graph[0]? = some (node 1 0 0 0 1 0 [1]) ∧ ([1] : List Nat).Nodup ∧ (0 : Nat) ∉ [1] ∧
     (∀ y ∈ (s.block 0).graph, y.guard = none) ∧ ∀ y ∈ (s.block 0).graph, y.phase = 0 → y.left ≠ 0) := by
  refine ⟨⟨atHead _ _ _, rfl, by decide, by decide, by decide, rfl⟩, fun e he => ?_,
    ⟨atHead _ _ _, ⟨_, _, rfl⟩, ⟨_, _, _, rfl, rfl, rfl⟩, ⟨_, rfl, rfl⟩, rfl⟩,
    ⟨atHead _ _ _, ⟨_, _, rfl⟩, by decide, by decide, by decide⟩, fun scr hs => ?_, ⟨rfl, rfl⟩, fun b hb => ?_, fun nd hn => ?_,
    ⟨rfl, rfl, by decide, by decide, by decide, by decide⟩⟩
  · simp only [List.mem_cons, List.not_mem_nil, or_false] at he
    rcases he with rfl | rfl <;> exact ⟨atHead _ _ _, by decide, by decide, by decide⟩
  · simp only [List.mem_cons, List.not_mem_nil, or_false] at hs
    rcases hs with rfl | rfl <;>
      exact ⟨rfl, rfl, rfl, rfl, rfl, rfl, rfl, by decide, ⟨_, _, rfl, rfl, rfl, rfl⟩, by decide, by decide⟩
  · refine ⟨atHead _ _ _, rfl, lt_of_le_of_lt (le_of_eq rfl) (by decide : 0 < 64), ?_, by decide, by decide, by decide, rfl, by decide, by decide⟩
    simp only [List.mem_cons, List.not_mem_nil, or_false] at hb
    rcases hb with rfl | rfl | rfl | rfl | rfl <;> exact ⟨_, _, rfl, rfl, rfl⟩
  · simp only [List.mem_cons, List.not_mem_nil, or_false] at hn
    rcases hn with rfl | rfl <;>
      exact ⟨rfl, rfl, rfl, rfl, rfl, rfl, by decide, by decide, rfl, rfl, by decide, ⟨_, _, rfl⟩⟩

/-! ## Single steps of the other classes -/

/-- One step after another. -/
def andThen (o : Out) (f : State → Out) : Out := match o with | .next t => f t | o => o

/-- The byte of a store, and that it stops at its 4 bytes; a misaligned store takes ALIGN and stores nothing (R83). -/
theorem test_step_store :
    then_ (exec (.st32 .lane 7 4 1 0) memUser) (fun s => s.mem == [(0x8004, 0x44), (0x8005, 0x33), (0x8006, 0x22), (0x8007, 0x11)]) = true ∧
    then_ (exec (.st32 .lane 7 4 0 0) (user .lane [(4, 0x8002), (7, 5)] [])) (fun s => s.mem == []) = true := by
  decide +kernel

/-- LD.64 of what ST.64 stored: low word first (R82, R83). -/
theorem test_step_load :
    (let o := andThen (andThen (exec (.st64 .lane 8 4 0 0) (user .lane [(4, 0x8000), (8, 0x11223344), (9, 0x55667788)] []))
                (exec (.ld64 .lane 12 4 0 0))) (exec (.operationComplete 2))
     outReg o 0 12 = some 0x11223344 ∧ outReg o 0 13 = some 0x55667788) := by decide +kernel

/-- ATOM.INC with b = 3 takes 3 to 0 and 2 to 3, and returns the old value (R220). -/
theorem test_step_atomic :
    (let o := fun (w : Byte) =>
       andThen (exec (.atomInc .lane 5 4 6 0) { user .lane [(4, 0x8000), (6, 3)] [] with mem := if w = 0 then [] else [(0x8000, w)] })
         (exec (.operationComplete 1))
     outReg (o 3) 0 5 = some 3 ∧ then_ (o 3) (fun s => s.mem == []) = true ∧ outReg (o 2) 0 5 = some 2 ∧
     then_ (o 2) (fun s => s.mem == [(0x8000, 3)]) = true) := by decide +kernel

/-- BRA counts words from the header; BRX past its table goes on at Next(H) (R86, R88). -/
theorem test_step_branch :
    then_ (exec (.bra .lane 0x400) (coder id)) (fun s => (s.thr 0).npc == some 0x2000) = true ∧
    then_ (exec (.brx .lane 6 4 4 0) (coder id)) (fun s => (s.thr 0).npc.isNone && (s.thr 0).brx.isNone) = true := by
  decide +kernel

/-- JINIT writes the live lanes, JLEAVE clears the thread's bit (R146, R148). -/
theorem test_step_join :
    then_ (exec (.jinit .warp 1 0) eight) (fun s => (s.warp 0).j.get 1 0 == 0xFF) = true ∧
    then_ (andThen (exec (.jinit .warp 1 0) eight) fun s => exec (.jleave .lane 2) { s with issues := [(0, clause .lane 2)] })
      (fun s => (s.warp 0).j.get 1 0 == 0xFB) = true := by decide +kernel

/-- TRAP 7 stops its thread, which stands at Next(H), and leaves a record with that code (R96, R347). -/
theorem test_step_trap :
    then_ (exec (.trap .lane 7) { user .lane [] [] with blocks := [(0, { block with trap := 0x2001 })], launches := [(0, launch .running)] })
      (fun s => (s.thr 0).pc == 0x100C && ((s.block 0).recs ++ (s.block 0).waitRecs).map FaultRec.swcode == [7]) = true := by
  decide +kernel

/-- The example of R310: a half transparent red over an opaque blue. -/
theorem test_step_blend : blendWord false 0x800000C8 0xFFC80000 = 0xFF640064 := by decide

/-- The colour word of a fragment's pixel: stored, blended onto and read back (R335, R310). -/
theorem test_step_tile_buffer :
    (let s := { fragUser plainSurf (some fragAt) with }
     let s := s.modThr 0 fun th => { th with v := [(6, 0xFFC80000), (7, 0x800000C8)] }
     let o := andThen (andThen (exec (.tbSt .lane 6 0 0) s) (exec (.tbBlend .lane 7 0))) (exec (.tbLd .lane 5 0 0))
     outReg (andThen o (exec (.operationComplete 3))) 0 5 = some 0xFF640064) := by decide +kernel

/-- Batches of 4: the first indices of a run are handed out in order (R128, R159). -/
theorem test_step_tile :
    (let z := { user .block [] [] with launches := [(0, launch .running)] }
     let o := andThen (andThen (exec (.tileNext .block 1 98 0) z) (exec (.tileNext .block 1 100 0)))
       fun s => andThen (exec (.operationComplete 0) s) (exec (.operationComplete 1))
     outReg o 0 98 = some 0 ∧ outReg o 0 100 = some 1 ∧ then_ o (fun s => !s.pred 0 1) = true) := by decide +kernel

/-- The record a handler reads has twelve words, CLASS in the low byte of the first; an empty queue gives 0 (R347, R379). -/
theorem test_step_fault_record :
    (let s := handler [] [(8, 5)] id
     let o := andThen (exec (.faultRd .warp 104 0) s) (exec (.operationComplete 0))
     outReg o 32 104 = some 0) := by decide +kernel

/-- No surface: an entry of FORMAT 0xFF (R301). -/
theorem test_no_surface : surfOf noSurf = none := by decide

/-- The example of R128: widths 2, 3, 4, extents 3, 5, 10 and index 37 give 0x49. -/
theorem test_step_work_id : workIdOf [(2, 3), (3, 5), (4, 10)] 37 0 = 0x49 := by decide

/-- The example of R255: byte 0xC4 holds +1, −1, 0, +1, −1. -/
theorem test_trits : (List.range 5).map (tritOf 0xC4) = [1, -1, 0, 1, -1] ∧ (List.range 5).map (tritOf 243) = [0, 0, 0, 0, 0] := by
  decide

/-- The examples of R257: QuantE4 of 300.0, of 1.0625 (a tie) and of −2⁻¹². -/
theorem test_quant_e4 :
    fmtE4.nquant (.fin false 300 1) = 0x7F ∧ fmtE4.nquant (.fin false 17 16) = 0x40 ∧ fmtE4.nquant (.fin true 1 4096) = 0 := by
  decide

/-- SHA-384 of 48 zero bytes and of the bytes 0 to 47 (FIPS 180-4), as an extension of a measurement register takes it
(R436). -/
theorem test_sha384 :
    sha384Pair 0 0x000102030405060708090a0b0c0d0e0f101112131415161718191a1b1c1d1e1f202122232425262728292a2b2c2d2e2f
      = 0xfe83f742d1cab5c709a0c424729831fbff9b5bb9748a618f0b6ea04fe1fde4d546f4040e7fc9587b2e6badada6c941b0 := by
  decide +kernel

/-! ## The loader -/

/-- The device hash (R426): SHA-384 of the words 1, 32, 96, 96 and 0xFF (FIPS 180-4), its first 8 bytes little-endian. -/
theorem test_device_hash : deviceHash = 0xc37044ea80063244 := by decide +kernel

/-- The modes of R431 and the 60 Hz title of R23. -/
theorem test_old_modes :
    baseMode 1 = 0x249 ∧ baseMode 2 = 0x289 ∧ baseMode 3 = 0xC8 ∧ oldMode 1 (some (0xE4E1C0, 0x0300, true)) = 0xE4E1C00300010249 := by
  decide

/-- An object of generation `gen` with a Lamod body of one EXIT, one data word, and the symbol "g" of a kind, in the data
section; the word is relocated to it. -/
def object (gen kind : Nat) (mode : Nat) : List Byte :=
  bytesOfNat 4 0x4C514B43 ++ bytesOfNat 4 (1 + 256 * 2 + 65536 * gen) ++ bytesOfNat 8 0 ++ bytesOfNat 8 0
    ++ bytesOfNat 4 64 ++ bytesOfNat 4 8 ++ bytesOfNat 4 72 ++ bytesOfNat 4 8 ++ bytesOfNat 4 80 ++ bytesOfNat 4 1
    ++ bytesOfNat 4 104 ++ bytesOfNat 4 1 ++ bytesOfNat 8 mode
    ++ bytesOfNat 4 0xAFFFFF81 ++ bytesOfNat 4 0x06000000 ++ bytesOfNat 8 0
    ++ bytesOfNat 4 120 ++ bytesOfNat 4 (kind + 256) ++ bytesOfNat 8 0 ++ bytesOfNat 8 0
    ++ bytesOfNat 8 0 ++ bytesOfNat 8 0 ++ [0x67, 0]

/-- The error code of a load after others, 0 for none. -/
def loads (os : List (List Byte)) : Nat :=
  (os.foldl (fun (r : Nat × Namespace) o =>
    match r.2.load o 0x1000 0x9000 with | .ok (x, _) => (0, x) | .error e => (e.code, r.2)) (0, Namespace.empty)).1

/-- The table of R428, MODE_CONFLICT of R433, and a header that breaks its table. -/
theorem test_loads :
    loads [object 0 2 0, object 0 2 0] = 0 ∧ loads [object 0 2 0, object 0 1 0] = 3 ∧ loads [object 0 0 0] = 4 ∧
    loads [object 0 1 0, object 0 0 0] = 0 ∧ loads [object 0 1 0, object 0 0 0, object 0 2 0] = 3 ∧
    loads [object 1 2 0x249, object 3 2 0xC8] = 5 ∧ loads [object 4 2 0] = 1 := by decide +kernel

/-- A relocation site receives the symbol's final address (R425); a stray branch's clause is TRAP 1023 of the CTRL class. -/
theorem test_relocation :
    (match Namespace.empty.load (object 0 1 0) 0x1000 0x9000 with | .ok (_, p) => natOfBytes p.data | .error _ => 0) = 0x9000 ∧
    (decodeHeader (strayClause.headD 0)).map Header.cls = some .ctrl ∧ strayClause.drop 1 = [0x1A0003FF] := by decide +kernel

/-- An old binary of generation 1, of one segment of an EXIT: the address map's first entry is the segment's address, its
second that of the stray clause (R431, R432). -/
theorem test_old_binary :
    (let x : OldBinary := { gen := 1, lock := none, name := [0x67]
                            segs := [{ old := 0, words := [0xAFFFFF81, 0x06000000], branch := false }], span := 2 }
     match Namespace.empty.load x.object 0x1000 0x9000 with
     | .ok (n, p) => n.mode == some 0x249 && p.data == bytesOfNat 8 0x1000 ++ bytesOfNat 8 0x1008
     | .error _ => false) = true := by decide +kernel
end Sys2Proof.Tests
end

/-! # Every step keeps the canonical form of every memory

One lemma per function of the model that returns a state: from a state in canonical form it returns one in canonical
form. The four memories change only through the operations of `Mem`, whose laws stand under Laws; a function that
leaves them alone keeps the form by `State.Canon.frame`, and every other one by the lemmas of the functions it calls,
in the order it calls them (`h.modBlock.startHandler` reads as the model's own pipe). -/

namespace Sys2Proof.Machine

/-- Every memory of a state is in canonical form. -/
def State.Canon (s : State) : Prop := s.mem.wf = true ∧ s.scratch.wf = true ∧ s.accm.wf = true ∧ s.wbuf.wf = true

/-- An outcome's next state, where it has one, is in canonical form. -/
def Out.Canon : Out → Prop
  | .next s => s.Canon
  | _ => True

/-! ## The four memories and the shapes of the model's functions -/

theorem Mem.wf_foldl {α : Type} {f : Mem → α → Mem} {l : List α} {m : Mem} (hm : m.wf = true)
    (hf : ∀ m x, m.wf = true → (f m x).wf = true) : (l.foldl f m).wf = true := by
  induction l generalizing m with
  | nil => exact hm
  | cons x l ih => exact ih (hf m x hm)

/-- Bytes stored one by one, each at an address of its own, keep the canonical form. -/
theorem Mem.wf_foldl_write {α : Type} {a : α → Nat} {b : α → Byte} {l : List α} {m : Mem} (hm : m.wf = true) :
    (l.foldl (fun m x => Mem.write m (a x) (b x)) m).wf = true :=
  Mem.wf_foldl hm fun _ _ hm => Mem.wf_write _ _ _ hm

/-- A memory that a start keeps or empties. -/
theorem Mem.wf_keep {c : Prop} [Decidable c] {m : Mem} (hm : m.wf = true) : Mem.wf (if c then m else []) = true := by
  split
  · exact hm
  · rfl

section
variable {s t : State}

/-- The canonical form speaks of the four memories alone: every other field may take any value. -/
theorem State.Canon.frame {started safe capped agenda cur free threads warps blocks cores issues halted ops
    nextOp poison corrected wlog serial rels launches nextLaunch vdevs signals sigMods epoch hotCfg hotRing
    hotPtr hotCnt quar qfull fwfault irqs nextBind nextNotify usec resets made bezel imports fabKeys proxies
    turned fabAnswers fabWaits forwarded hostSeen assay} (h : s.Canon) :
    State.Canon { started, safe, capped, agenda, cur, free, threads, warps, blocks, cores, issues, halted, ops, nextOp
                  mem := s.mem, poison, corrected, scratch := s.scratch, accm := s.accm, wbuf := s.wbuf, wlog, serial
                  rels, launches, nextLaunch, vdevs, signals, sigMods, epoch, hotCfg, hotRing, hotPtr, hotCnt, quar
                  qfull, fwfault, irqs, nextBind, nextNotify, usec, resets, made, bezel, imports, fabKeys, proxies
                  turned, fabAnswers, fabWaits, forwarded, hostSeen, assay } := h

/-- The state of a pair that a `match` took apart. -/
theorem State.Canon.ofEq {α : Type} {p : α × State} {a : α} (h : p.2.Canon) (e : p = (a, t)) : t.Canon := by
  subst e; exact h

theorem State.Canon.ofEq₁ {α : Type} {p : State × α} {a : α} (h : p.1.Canon) (e : p = (t, a)) : t.Canon := by
  subst e; exact h

theorem State.Canon.foldl {α : Type} {f : State → α → State} {l : List α} (h : s.Canon)
    (hf : ∀ s x, s.Canon → (f s x).Canon) : (l.foldl f s).Canon := by
  induction l generalizing s with
  | nil => exact h
  | cons x l ih => exact ih (hf s x h)

theorem State.Canon.foldr {α : Type} {f : α → State → State} {l : List α} (h : s.Canon)
    (hf : ∀ x s, s.Canon → (f x s).Canon) : (l.foldr f s).Canon := by
  induction l with
  | nil => exact h
  | cons x l ih => exact hf x _ ih

theorem State.Canon.foldlFst {α β : Type} {f : State × β → α → State × β} {l : List α} {p : State × β} (h : p.1.Canon)
    (hf : ∀ p x, p.1.Canon → (f p x).1.Canon) : (l.foldl f p).1.Canon := by
  induction l generalizing p with
  | nil => exact h
  | cons x l ih => exact ih (hf p x h)

theorem State.Canon.foldlSnd {α β : Type} {f : β × State → α → β × State} {l : List α} {p : β × State} (h : p.2.Canon)
    (hf : ∀ p x, p.2.Canon → (f p x).2.Canon) : (l.foldl f p).2.Canon := by
  induction l generalizing p with
  | nil => exact h
  | cons x l ih => exact ih (hf p x h)

theorem State.Canon.ite {c : Prop} [Decidable c] (h : s.Canon) (h' : t.Canon) : (if c then s else t).Canon := by
  split
  · exact h
  · exact h'

theorem State.Canon.branch {c : Prop} [Decidable c] {x y : State} (h : s.Canon) (hx : s.Canon → x.Canon)
    (hy : s.Canon → y.Canon) : (if c then x else y).Canon := by
  split
  · exact hx h
  · exact hy h

theorem State.Canon.ofWalk {α : Type} {p : Got α × Walks} {r : Except MemFault α} {ws : Walks} (h : p.1.2.Canon)
    (e : p = ((r, t), ws)) : t.Canon := by
  subst e; exact h

theorem State.Canon.ofUnits {α β : Type} {p : α × β × State} {a : α} {b : β} (h : p.2.2.Canon) (e : p = (a, b, t)) :
    t.Canon := by
  subst e; exact h

/-! ## Accessors, queues and exceptions -/

theorem State.Canon.setThr {t x} (h : s.Canon) : (s.setThr t x).Canon := h.frame

theorem State.Canon.modThr {t f} (h : s.Canon) : (s.modThr t f).Canon := h.setThr

theorem State.Canon.modThrs {ts f} (h : s.Canon) : (s.modThrs ts f).Canon := h.foldl fun _ _ h => h.modThr

theorem State.Canon.setWarp {w x} (h : s.Canon) : (s.setWarp w x).Canon := h.frame

theorem State.Canon.modWarp {w f} (h : s.Canon) : (s.modWarp w f).Canon := h.setWarp

theorem State.Canon.setBlock {c b} (h : s.Canon) : (s.setBlock c b).Canon := h.frame

theorem State.Canon.modBlock {c f} (h : s.Canon) : (s.modBlock c f).Canon := h.setBlock

theorem State.Canon.setCore {c x} (h : s.Canon) : (s.setCore c x).Canon := h.frame

theorem State.Canon.modCore {c f} (h : s.Canon) : (s.modCore c f).Canon := h.setCore

theorem State.Canon.setVdev {v x} (h : s.Canon) : (s.setVdev v x).Canon := h.frame

theorem State.Canon.modVdev {v f} (h : s.Canon) : (s.modVdev v f).Canon := h.setVdev

theorem State.Canon.setQueue {v q x} (h : s.Canon) : (s.setQueue v q x).Canon := h.modVdev

theorem State.Canon.modQueue {v q f} (h : s.Canon) : (s.modQueue v q f).Canon := h.setQueue

theorem State.Canon.setLaunch {l x} (h : s.Canon) : (s.setLaunch l x).Canon := h.frame

theorem State.Canon.modLaunch {l f} (h : s.Canon) : (s.modLaunch l f).Canon := by
  unfold State.modLaunch
  split
  · exact h.setLaunch
  · exact h

theorem State.Canon.setCtx {v c x} (h : s.Canon) : (s.setCtx v c x).Canon := h.modVdev

theorem State.Canon.setIssue {i} (h : s.Canon) : (s.setIssue i).Canon := h.frame

theorem State.Canon.choose {n} (h : s.Canon) : (s.choose n).2.Canon := h.frame

theorem State.Canon.anyWord (h : s.Canon) : s.anyWord.2.Canon := h.frame

theorem State.Canon.setVec {t c x} (h : s.Canon) : (s.setVec t c x).Canon := h.modThr

theorem State.Canon.setUni {w c x} (h : s.Canon) : (s.setUni w c x).Canon := h.modWarp

theorem State.Canon.setReg {t ws c x} (h : s.Canon) : (s.setReg t ws c x).Canon := by
  unfold State.setReg
  split
  · exact h.setVec
  · split
    · exact h.foldl fun _ _ h => h.setUni
    · exact h

theorem State.Canon.setRegs {t ws c l} (h : s.Canon) : (s.setRegs t ws c l).Canon := by
  induction l generalizing s c with
  | nil => exact h
  | cons x xs ih => exact ih h.setReg

theorem State.Canon.setPred {t n b} (h : s.Canon) : (s.setPred t n b).Canon := by
  unfold State.setPred
  split
  · exact h
  · exact h.modThr

theorem State.Canon.setFlag {t f b} (h : s.Canon) : (s.setFlag t f b).Canon := by
  unfold State.setFlag
  split
  · exact h
  · exact h.modThr

theorem State.Canon.modMember {c n f} (h : s.Canon) : (s.modMember c n f).Canon := by
  unfold State.modMember
  split
  · exact h.modWarp
  · exact h.modBlock

theorem State.Canon.irq {kind what} (h : s.Canon) : (s.irq kind what).Canon := h.frame

theorem State.Canon.pickCores {l} (h : s.Canon) : (s.pickCores l).Canon := by
  unfold State.pickCores
  split
  · split
    · exact h.setLaunch
    · exact h
  · exact h

theorem State.Canon.bindQueue {v q slot} (h : s.Canon) : (s.bindQueue v q slot).Canon := by
  simp only [State.bindQueue]
  split
  · exact h.modQueue.frame.pickCores
  · exact h.modQueue.frame

theorem State.Canon.bindNext (h : s.Canon) : s.bindNext.Canon := by
  unfold State.bindNext
  split
  · exact h.bindQueue
  · exact h

theorem State.Canon.leaveSlot {v q phase} (h : s.Canon) : (s.leaveSlot v q phase).Canon := h.modQueue.bindNext

theorem State.Canon.haltQueue {v q err} (h : s.Canon) : (s.haltQueue v q err).Canon := h.modQueue.leaveSlot

theorem State.Canon.clearBlock {c} (h : s.Canon) : (s.clearBlock c).Canon := h.frame

theorem State.Canon.pruneGates (h : s.Canon) : s.pruneGates.Canon := h.frame

theorem State.Canon.dropLaunch {l} (h : s.Canon) : (s.dropLaunch l).Canon := by
  unfold State.dropLaunch
  split
  · exact h
  · exact ((h.foldl (fun _ _ h => h.clearBlock)).foldl (fun _ _ h => h.modCore)).pruneGates.frame

theorem State.Canon.abortLaunch {l err} (h : s.Canon) : (s.abortLaunch l err).Canon := by
  unfold State.abortLaunch
  split
  · exact h
  · exact h.dropLaunch.haltQueue

theorem State.Canon.firmwareFault {c cls} (h : s.Canon) : (s.firmwareFault c cls).Canon :=
  (h.modCore.branch id (·.frame)).irq

theorem State.Canon.doubleFault {c} (h : s.Canon) : (s.doubleFault c).Canon := h.abortLaunch

theorem State.Canon.startHandler {c} (h : s.Canon) : (s.startHandler c).Canon := by
  simp only [State.startHandler]
  split
  · split
    · exact (h.setWarp.foldl (fun _ _ h => h.setThr)).modBlock
    · exact h.doubleFault
  · exact h

theorem State.Canon.dropFromIssue {ts} (h : s.Canon) : (s.dropFromIssue ts).Canon := by
  unfold State.dropFromIssue
  split
  · exact h
  · exact h.setIssue

theorem State.Canon.record {ts at_ f} (h : s.Canon) : (s.record ts at_ f).Canon := by
  simp only [State.record]
  split
  · exact h
  · split
    · exact h.firmwareFault
    · split
      · exact h.doubleFault
      · exact h.modBlock.startHandler

theorem State.Canon.raise {ts at_ f stop} (h : s.Canon) : (s.raise ts at_ f stop).Canon :=
  h.dropFromIssue.modThrs.record

theorem State.Canon.endHandler {c} (h : s.Canon) : (s.endHandler c).Canon := by
  unfold State.endHandler
  split
  · exact h
  · exact h.frame.modBlock.startHandler

theorem State.Canon.onIssue {k : Issue → State} (h : s.Canon) (hk : ∀ a, (k a).Canon) :
    (onIssue s k).Canon := by
  unfold Machine.onIssue
  split
  · exact h
  · exact hk _

/-! ## Memory, visibility and ordering -/

theorem State.Canon.putBytes {a bs} (h : s.Canon) : (s.putBytes a bs).Canon := by
  obtain ⟨hm, hs, ha, hw⟩ := h
  unfold State.putBytes
  split
  · exact ⟨Mem.wf_writeN _ _ _ hm, hs, ha, hw⟩
  · exact ⟨hm, Mem.wf_writeN _ _ _ hs, ha, hw⟩

theorem State.Canon.writeAll {party also path obj a bs} (h : s.Canon) :
    (s.writeAll party also path obj a bs).Canon := h.putBytes.frame

theorem State.Canon.write {party path obj a bs} (h : s.Canon) : (s.write party path obj a bs).Canon := h.writeAll

theorem State.Canon.markRead {t a k} (h : s.Canon) : (s.markRead t a k).Canon := h.modThr

theorem State.Canon.readUnit {t fl a n issued} (h : s.Canon) : (s.readUnit t fl a n issued).2.Canon := by
  unfold State.readUnit
  split
  · exact h
  · refine State.Canon.markRead ?_
    split
    · exact h
    · exact h.choose

theorem State.Canon.readData {t fls a n issued} (h : s.Canon) : (s.readData t fls a n issued).2.Canon := by
  unfold State.readData
  split
  · exact h.readUnit
  · exact h.readUnit.readUnit

theorem State.Canon.readNewest {t a n} (h : s.Canon) : (s.readNewest t a n).Canon := by
  unfold State.readNewest
  split
  · exact h.markRead
  · exact h

theorem State.Canon.releaseAt {obj pos ws} (h : s.Canon) : (s.releaseAt obj pos ws).Canon := h.frame

theorem State.Canon.dropPending {t obj} (h : s.Canon) : (s.dropPending t obj).Canon := h.modThr

theorem State.Canon.releaseObj {t obj pos} (h : s.Canon) : (s.releaseObj t obj pos).Canon := h.dropPending.releaseAt

theorem State.Canon.relPending {t obj mask} (h : s.Canon) : (s.relPending t obj mask).Canon := h.modThr

theorem State.Canon.acquire {t obj upto mask} (h : s.Canon) : (s.acquire t obj upto mask).Canon := h.modThr

theorem State.Canon.xfence {t src dst} (h : s.Canon) : (s.xfence t src dst).Canon := h.modThr

theorem State.Canon.observe {t flags} (h : s.Canon) : (s.observe t flags).Canon := by
  simp only [State.observe]
  split
  · exact h
  · exact h.modThr

theorem State.Canon.foldReleases {obj} (h : s.Canon) : (s.foldReleases obj).Canon := h.frame

theorem State.Canon.fenceRelease {t device} (h : s.Canon) : (s.fenceRelease t device).Canon := h.releaseAt

theorem State.Canon.fenceAcquire {t device} (h : s.Canon) : (s.fenceAcquire t device).Canon := h.acquire

/-! ## Signal words and launch conditions -/

theorem State.Canon.latchLaunch {l} (h : s.Canon) : (s.latchLaunch l).Canon := by
  simp only [State.latchLaunch]
  split
  · exact h
  · split
    · split
      · exact h.frame.setLaunch.frame
      · exact h.frame.setLaunch
    · exact h

theorem State.Canon.testWaits {i} (h : s.Canon) : (s.testWaits i).Canon := h.frame

theorem State.Canon.testFabWaits {i} (h : s.Canon) : (s.testFabWaits i).Canon := h.frame

theorem State.Canon.bumpMods {i} (h : s.Canon) : (s.bumpMods i).Canon := h.frame

theorem State.Canon.testConds (h : s.Canon) : s.testConds.Canon := h.foldl fun _ _ h => h.latchLaunch

theorem State.Canon.sigWrite {i v} (h : s.Canon) : (s.sigWrite i v).Canon :=
  h.frame.bumpMods.testWaits.testFabWaits.testConds

theorem State.Canon.refusedConds {l} (h : s.Canon) : (s.refusedConds l).Canon := by
  unfold State.refusedConds
  split
  · exact h
  · refine h.foldl fun _ _ h1 => ?_
    split
    · exact h1.irq
    · exact h1

theorem State.Canon.releasePending {ts obj pos} (h : s.Canon) : (s.releasePending ts obj pos).Canon := by
  simp only [State.releasePending]
  split
  · exact (h.foldl (fun _ _ h => h.dropPending)).releaseAt
  · exact h

theorem State.Canon.moduleRelease {i m} (h : s.Canon) : (s.moduleRelease i m).Canon := by
  simp only [State.moduleRelease]
  split
  · exact h.choose
  · exact h.choose.frame.releaseAt

theorem State.Canon.peerWrites {n} (h : s.Canon) : (s.peerWrites n).Canon :=
  h.foldl fun _ _ h => h.moduleRelease.bumpMods

theorem State.Canon.hubSignal {v idx add w ws} (h : s.Canon) : (s.hubSignal v idx add w ws).Canon := by
  unfold State.hubSignal
  split
  · exact h.releaseAt.sigWrite
  · exact h.releaseAt.bumpMods
  · exact h.irq

theorem State.Canon.sigWriteBy {ts i v} (h : s.Canon) : (s.sigWriteBy ts i v).Canon := h.releasePending.sigWrite

/-! ## Join masks, barriers, gates and exits -/

theorem State.Canon.joinTest {w n} (h : s.Canon) : (s.joinTest w n).Canon := by
  simp only [State.joinTest]
  split
  · exact h.modThrs
  · exact h

theorem State.Canon.joinLeave {t list} (h : s.Canon) : (s.joinLeave t list).Canon :=
  (h.foldl (fun _ _ h => h.modWarp)).foldl fun _ _ h => h.joinTest

theorem State.Canon.joinWait {t n} (h : s.Canon) : (s.joinWait t n).Canon := by
  unfold State.joinWait
  split
  · exact h.modThr
  · exact h

theorem State.Canon.joinTests {ts} (h : s.Canon) : (s.joinTests ts).Canon :=
  h.foldl fun _ _ h => h.foldl (fun _ _ h => h.joinTest)

theorem State.Canon.setBarrier {c b x} (h : s.Canon) : (s.setBarrier c b x).Canon := by
  unfold State.setBarrier
  split
  · exact h.modBlock
  · split
    · exact h.modLaunch
    · exact h.modLaunch

theorem State.Canon.barRelease {b ph t} (h : s.Canon) : (s.barRelease b ph t).Canon := by
  simp only [State.barRelease]
  split
  · exact h.modThr.acquire
  · exact h

theorem State.Canon.countArrival {t b sync} (h : s.Canon) : (s.countArrival t b sync).Canon :=
  h.releaseObj.modThr.setBarrier

theorem State.Canon.rearmed {t b} (h : s.Canon) : (s.rearmed t b).Canon := by
  simp only [State.rearmed]
  split
  · exact h
  · exact h.modThr.countArrival

theorem State.Canon.barTest {c b n} (h : s.Canon) : (s.barTest c b n).Canon := by
  induction n generalizing s with
  | zero => exact h
  | succ n ih =>
    rw [State.barTest]
    split
    · exact ih ((h.setBarrier.foldl fun _ _ h => h.barRelease).foldl fun _ _ h => h.rearmed)
    · exact h

theorem State.Canon.arriveNow {t b sync} (h : s.Canon) : (s.arriveNow t b sync).Canon := by
  simp only [State.arriveNow]
  split
  · exact h.modThr
  · exact h.countArrival.barTest

theorem State.Canon.barArrive {t b sync} (h : s.Canon) : (s.barArrive t b sync).Canon := by
  unfold State.barArrive
  split
  · exact h.modThr.frame
  · exact h.arriveNow

theorem State.Canon.barWait {t b} (h : s.Canon) : (s.barWait t b).Canon := by
  simp only [State.barWait]
  split
  · exact h.modThr
  · split
    · exact h.modThr
    · split
      · exact h
      · split
        · exact h.modThr
        · exact h.modThr.acquire

theorem State.Canon.barExit {t b} (h : s.Canon) : (s.barExit t b).Canon := by
  simp only [State.barExit]
  split
  · exact h.setBarrier
  · exact h

theorem State.Canon.barInit {c b} (h : s.Canon) : (s.barInit c b).Canon := h.modThrs.foldReleases.setBarrier

theorem State.Canon.setGate {k g} (h : s.Canon) : (s.setGate k g).Canon := by
  unfold State.setGate
  split
  · exact h.modBlock
  · exact h.modVdev

theorem State.Canon.passGate {k} (h : s.Canon) : (s.passGate k).Canon := by
  simp only [State.passGate]
  split
  · exact h.setGate
  · split
    · exact h.setGate.frame
    · exact h.setGate

theorem State.Canon.withdraw {op} (h : s.Canon) : (s.withdraw op).Canon := h.frame

theorem State.Canon.vacateGates {w} (h : s.Canon) : (s.vacateGates w).Canon := h.modBlock.modVdev

theorem State.Canon.freeGates {v l} (h : s.Canon) : (s.freeGates v l).Canon := by
  unfold State.freeGates
  refine h.foldl fun _ _ h1 => ?_
  split
  · split
    · exact h1.passGate
    · exact h1
  · exact h1

theorem State.Canon.advanceHead {v q} (h : s.Canon) : (s.advanceHead v q).Canon := by
  simp only [State.advanceHead]
  split
  · exact h.modQueue.leaveSlot
  · split
    · exact h.modQueue.modQueue
    · exact h.modQueue

theorem State.Canon.markFinished {cs} (h : s.Canon) : (s.markFinished cs).Canon := h.foldl fun _ _ h => h.modCore

theorem State.Canon.finishLaunch {l} (h : s.Canon) : (s.finishLaunch l).Canon := by
  simp only [State.finishLaunch]
  split
  · exact h
  · split
    · split
      · refine State.Canon.advanceHead (State.Canon.markFinished (State.Canon.dropLaunch ?_))
        split
        · exact h.releaseAt.freeGates
        · exact h.releaseAt.freeGates.hubSignal
      · exact h
    · split
      · refine State.Canon.advanceHead (State.Canon.markFinished (State.Canon.dropLaunch ?_))
        split
        · exact h.releaseAt.freeGates
        · exact h.releaseAt.freeGates.hubSignal
      · exact h

theorem State.Canon.exitThread {t} (h : s.Canon) : (s.exitThread t).Canon := by
  unfold State.exitThread
  split
  · exact ((h.joinLeave.foldl (fun _ _ h => h.barExit)).foldl (fun _ _ h => h.withdraw.frame)).modThr.foldl
      fun _ _ h => h.barTest.ite h
  · exact h

/-! ## The hub's register pages, read -/

theorem State.Canon.takeQpop (h : s.Canon) : s.takeQpop.Canon := by
  unfold State.takeQpop
  split
  · split
    · exact h.frame
    · exact h
  · exact h

theorem State.Canon.regRead {pa} (h : s.Canon) : (s.regRead pa).2.Canon := by
  simp only [State.regRead]
  split
  · exact h
  · split
    · exact h
    · split
      · exact h
      · split
        · exact h
        · split
          · exact h
          · split
            · split
              · exact h.takeQpop
              · exact h
            · split
              · exact h
              · split
                · exact h.frame
                · exact h

theorem State.Canon.regWrite {pa owner v} (h : s.Canon) : (s.regWrite pa owner v).Canon := h.frame

/-! ## Translation -/

theorem State.Canon.walk {read : State → Nat → Nat → Got Nat} {stage va kind a n level t}
    (h : s.Canon) (hread : ∀ s l a, s.Canon → (read s l a).2.Canon) :
    (walk read stage va kind a s n level t).2.Canon := by
  induction n generalizing s level t with
  | zero => exact h
  | succ n ih =>
    rw [Machine.walk]
    split
    next e => exact (hread _ _ _ h).ofEq e
    next e =>
      have h := (hread _ _ _ h).ofEq e
      split
      · exact h
      · split
        · exact h
        · split
          · split
            · exact h
            · exact h
          · exact ih h

theorem State.Canon.stage2With {read : State → Nat → Nat → Got Nat} {root va kind a} (h : s.Canon)
    (hread : ∀ s a b, s.Canon → (read s a b).2.Canon) :
    (stage2With read s root va kind a).2.Canon := by
  unfold Machine.stage2With
  split
  · exact h.walk hread
  · exact h

theorem State.Canon.ingressWith {read : State → Nat → Nat → Got Nat} {source window offset n kind key big}
    (h : s.Canon) (hread : ∀ s a b, s.Canon → (read s a b).2.Canon) :
    (State.ingressWith read s source window offset n kind key big).2.Canon := by
  simp only [State.ingressWith]
  split
  · split
    next e => exact (h.stage2With hread).ofEq e
    next e => exact (h.stage2With hread).ofEq e
  · exact h

theorem State.Canon.gateWith {read : State → Nat → Nat → Got Nat} {va pa n mt kind big}
    (h : s.Canon) (hread : ∀ s l a, s.Canon → (read s l a).2.Canon) :
    (State.gateWith read s va pa n mt kind big).2.Canon := by
  simp only [State.gateWith]
  split
  · split
    next e => exact (h.ingressWith hread).ofEq e
    next e => exact ((h.ingressWith hread).ofEq e).irq
  · have hc := h.choose (n := 3)
    split
    · exact hc
    · exact hc

theorem State.Canon.entryBytes {pa} (h : s.Canon) : (s.entryBytes pa).2.Canon := by
  unfold State.entryBytes
  split
  · split
    · exact h.frame
    · have h := h.regRead (pa := pa / 8 * 8)
      revert h
      cases s.regRead (pa / 8 * 8)
      exact id
  · exact h.frame
  · exact h

theorem State.Canon.walkRead {n stage level va ia mt pa} (h : s.Canon) :
    (State.walkRead n stage level va ia mt s pa).2.Canon := by
  induction n generalizing s stage level mt pa with
  | zero =>
    rw [State.walkRead]
    split
    · exact h
    · split
      · exact h
      · exact h.entryBytes
  | succ n ih =>
    rw [State.walkRead]
    split
    · exact h
    · split
      · split
        next e => exact (h.gateWith fun _ _ _ h => ih h).ofEq e
        next e => exact ((h.gateWith fun _ _ _ h => ih h).ofEq e).entryBytes
      · exact h.entryBytes

theorem State.Canon.stage2 {root va kind a} (h : s.Canon) : (s.stage2 root va kind a).2.Canon :=
  h.stage2With fun _ _ _ h => h.walkRead

theorem State.Canon.stage1 {ttb s2 va kind a} (h : s.Canon) : (s.stage1 ttb s2 va kind a).2.Canon := by
  unfold State.stage1
  split
  · split
    · exact h
    · refine h.walk fun _ _ _ h1 => ?_
      split
      next e => exact h1.stage2.ofEq e
      next e => exact (h1.stage2.ofEq e).walkRead
  · exact h

theorem State.Canon.walkBoth {ttb s2 va kind} (h : s.Canon) : (s.walkBoth ttb s2 va kind).2.Canon := by
  unfold State.walkBoth
  split
  next e => exact h.stage1.ofEq e
  next e =>
    have h := h.stage1.ofEq e
    split
    next e => exact h.stage2.ofEq e
    next e => exact h.stage2.ofEq e

theorem State.Canon.tlbFill {c v x va l} (h : s.Canon) : (s.tlbFill c v x va l).Canon := by
  unfold State.tlbFill
  split
  · exact h
  · exact h.modCore

theorem State.Canon.translateFor {c v x va kind again} (h : s.Canon) :
    (s.translateFor c v x va kind again).2.Canon := by
  unfold State.translateFor
  split
  · exact h
  · extract_lets hits pick r
    have hp : pick.2.Canon := by
      unfold pick
      split
      · exact h
      · exact h.choose
    split
    · exact hp
    · split
      next e => exact hp.walkBoth.ofEq e
      next e => exact (hp.walkBoth.ofEq e).tlbFill

theorem State.Canon.fabricGate {va pa n mt kind big} (h : s.Canon) : (s.fabricGate va pa n mt kind big).2.Canon :=
  h.gateWith fun _ _ _ h => h.walkRead

theorem State.Canon.ingressMemory {source window offset n kind key big} (h : s.Canon) :
    (s.ingressMemory source window offset n kind key big).2.Canon := h.ingressWith fun _ _ _ h => h.walkRead

theorem State.Canon.reach {va pa n mt kind big} (h : s.Canon) : (s.reach va pa n mt kind big).2.Canon := by
  unfold State.reach
  split
  · exact h
  · split
    · exact h.fabricGate
    · exact h

theorem State.Canon.translate {t va n kind big again} (h : s.Canon) :
    (s.translate t va n kind big again).2.Canon := by
  unfold State.translate
  split
  next e => exact h.translateFor.ofEq e
  next e => exact (h.translateFor.ofEq e).reach

theorem State.Canon.stage2Place {root ia n kind} (h : s.Canon) : (s.stage2Place root ia n kind).2.Canon := by
  simp only [State.stage2Place]
  split
  · exact h
  · split
    next e => exact h.stage2.ofEq e
    next e =>
      have h := h.stage2.ofEq e
      split
      next e => exact h.reach.ofEq e
      next e => exact h.reach.ofEq e

theorem State.Canon.fetchPlace {t a} (h : s.Canon) : (s.fetchPlace t a).2.Canon := by
  unfold State.fetchPlace
  split
  · split
    · exact h
    · exact h.reach
  · exact h.translate

theorem State.Canon.fetch {t a} (h : s.Canon) : (s.fetch t a).2.Canon := by
  unfold State.fetch
  split
  next e => exact h.fetchPlace.ofEq e
  next e =>
    have h := h.fetchPlace.ofEq e
    split
    · exact h.anyWord
    · exact h

/-! ## Loads and stores outside the memories -/

theorem State.Canon.anyBytes {n} (h : s.Canon) : (s.anyBytes n).2.Canon := by
  induction n generalizing s with
  | zero => exact h
  | succ n ih => exact ih h.anyWord

theorem State.Canon.ioRead {pa n} (h : s.Canon) : (s.ioRead pa n).2.Canon := by
  unfold State.ioRead
  split
  · exact h.frame
  · have h := h.regRead (pa := pa / 8 * 8)
    revert h
    cases s.regRead (pa / 8 * 8)
    exact id

theorem State.Canon.ioWrite {pa owner bs} (h : s.Canon) : (s.ioWrite pa owner bs).Canon := by
  unfold State.ioWrite
  split
  · exact h
  · split
    · exact h.regWrite
    · exact h.frame

theorem State.Canon.readFrom {t fls pa n issued} (h : s.Canon) : (s.readFrom t fls pa n issued).2.Canon := by
  unfold State.readFrom
  split
  · exact h.ioRead
  · exact h.anyBytes
  · exact h.readData

theorem State.Canon.readPhys {t q reg pa n issued} (h : s.Canon) : (s.readPhys t q reg pa n issued).2.Canon :=
  h.readFrom

theorem State.Canon.writePhys {t path obj pa bs also} (h : s.Canon) : (s.writePhys t path obj pa bs also).Canon := by
  unfold State.writePhys
  split
  · exact h.ioWrite
  · exact h
  · exact h.writeAll

/-! ## Operations in flight -/

theorem State.Canon.addOp {o} (h : s.Canon) : (s.addOp o).Canon := h.frame

theorem State.Canon.opFor {t a pa mt result} (h : s.Canon) : (s.opFor t a pa mt result).Canon := h.addOp

theorem State.Canon.clearFlags {flag members} (h : s.Canon) : (s.clearFlags flag members).Canon := by
  unfold State.clearFlags
  split
  · exact h
  · exact h.foldl fun _ _ h => h.ite h.setFlag

theorem State.Canon.park {tas f} (h : s.Canon) : (s.park tas f).Canon := by
  unfold State.park
  split
  · exact h
  · exact (h.foldr (fun _ _ h => h.modThr)).modThrs.record

theorem State.Canon.leaveIssues {ts} (h : s.Canon) : (s.leaveIssues ts).Canon := h.frame

theorem State.Canon.raiseAtMany {tas f} (h : s.Canon) : (s.raiseAtMany tas f).Canon := by
  unfold State.raiseAtMany
  split
  · exact h
  · exact (h.foldl (fun _ _ h => h.clearFlags)).leaveIssues.modThrs.raise

theorem State.Canon.raiseAt {t a f} (h : s.Canon) : (s.raiseAt t a f).Canon := h.raiseAtMany

theorem State.Canon.dropOp {k} (h : s.Canon) : (s.dropOp k).Canon := by
  unfold State.dropOp
  split
  · exact h
  · exact h.frame.clearFlags

theorem State.Canon.dropHeld {t a} (h : s.Canon) : (s.dropHeld t a).Canon := by
  unfold State.dropHeld
  split
  · exact h.modBlock.foldl fun _ _ h => h.dropOp
  · exact h

theorem State.Canon.dropFrom {t n} (h : s.Canon) : (s.dropFrom t n).Canon :=
  h.modThr.foldl fun _ _ h => h.dropHeld.clearFlags

theorem State.Canon.dropDeferred {t} (h : s.Canon) : (s.dropDeferred t).Canon := h.dropFrom

/-! ## Speculative tasks -/

theorem State.Canon.modTask {t f} (h : s.Canon) : (s.modTask t f).Canon := h.modThr

theorem State.Canon.modSpec {l f} (h : s.Canon) : (s.modSpec l f).Canon := h.modLaunch

theorem State.Canon.removeEntries {t} (h : s.Canon) : (s.removeEntries t).Canon :=
  (h.foldl (fun _ _ h => h.releaseAt)).frame.modSpec

theorem State.Canon.takeAbort {t kill} (h : s.Canon) : (s.takeAbort t kill).Canon :=
  ((h.foldl (fun _ _ h => h.dropFrom)).foldl (fun _ _ h => h.dropOp)).leaveIssues.modThr.modTask

theorem State.Canon.requestAbort {t} (h : s.Canon) : (s.requestAbort t).Canon := by
  unfold State.requestAbort
  split
  · exact h
  · split
    · exact h
    · exact h
    · exact h
    · exact h.takeAbort
    · split
      · exact h.modTask
      · exact h.takeAbort

theorem State.Canon.requestAborts {l es} (h : s.Canon) : (s.requestAborts l es).Canon :=
  h.foldl fun _ _ h => h.requestAbort

theorem State.Canon.commitTask {t} (h : s.Canon) : (s.commitTask t).Canon := by
  unfold State.commitTask
  split
  · exact h
  · exact (h.removeEntries.branch (·.modSpec) id).fenceRelease.modThr

theorem State.Canon.undoPlaces {t top kind} (h : s.Canon) : (s.undoPlaces t top kind).2.Canon := by
  unfold State.undoPlaces
  split
  next e => exact h.translate.ofEq e
  next e =>
    have h := h.translate.ofEq e
    split
    next e => exact h.translate.ofEq e
    next e => exact h.translate.ofEq e

theorem State.Canon.admitOp {t a kind inv handle x y reserve} (h : s.Canon) :
    (s.admitOp t a kind inv handle x y reserve).2.Canon := by
  simp only [State.admitOp]
  split
  · exact h
  · split
    · exact h
    · split
      next e => exact h.undoPlaces.ofEq e
      next e => exact ((h.undoPlaces.ofEq e).foldl (fun _ _ h => h.writePhys)).modSpec.modTask.acquire.opFor

theorem State.Canon.specWait {t a on stalled} (h : s.Canon) : (s.specWait t a on stalled).Canon := by
  simp only [State.specWait]
  split
  · exact h.addOp.takeAbort
  · exact h.addOp

theorem State.Canon.specAttempt {t a kind inv handle x y stalled} (h : s.Canon) :
    (s.specAttempt t a kind inv handle x y stalled).2.Canon := by
  simp only [State.specAttempt]
  split
  · exact h.modSpec.dropFrom.clearFlags.takeAbort.requestAborts
  · split
    · exact h.modSpec.specWait.requestAborts
    · split
      · exact h.modSpec.admitOp
      · split
        · split
          · exact h.modSpec.admitOp
          · exact h.modSpec
        · exact (h.modSpec.branch id (·.modSpec)).specWait

theorem State.Canon.specRetry {k} (h : s.Canon) : (s.specRetry k).Canon := by
  simp only [State.specRetry]
  split
  · exact h
  · split
    · exact h
    · split
      · split
        · split
          next e => exact h.frame.specAttempt.ofEq e
          next e => exact (h.frame.specAttempt.ofEq e).raiseAt
        · exact h
      · split
        · split
          · exact h.frame.commitTask.exitThread
          · exact h.frame.commitTask
        · exact h
      · split
        · exact h.frame
        · exact h
      · exact h

theorem State.Canon.endTask {t} (h : s.Canon) : (s.endTask t).Canon := h.removeEntries.modSpec.modThr.exitThread

theorem State.Canon.exitNow {t} (h : s.Canon) : (s.exitNow t).Canon := by
  unfold State.exitNow
  split
  · split
    · exact h.commitTask.exitThread
    · exact h
  · split
    · exact h.endTask
    · exact h
  · exact h

theorem State.Canon.specExits (h : s.Canon) : s.specExits.Canon := h.foldl fun _ _ h => h.exitNow

theorem State.Canon.specSettle {n} (h : s.Canon) : (s.specSettle n).Canon := by
  induction n generalizing s with
  | zero => exact h
  | succ n ih => exact ih (h.foldl fun _ _ h => h.specRetry).specExits

theorem State.Canon.afterTasks (h : s.Canon) : s.afterTasks.Canon := h.specSettle

theorem State.Canon.restartTask {t} (h : s.Canon) : (s.restartTask t).Canon := h.modWarp.modThr

theorem State.Canon.finishAbort {t} (h : s.Canon) : (s.finishAbort t).Canon := by
  simp only [State.finishAbort]
  split
  · exact h
  · split
    · exact h.removeEntries.modSpec.modThr.exitThread
    · exact h.removeEntries.modSpec.restartTask

theorem State.Canon.abortNext {t} (h : s.Canon) : (s.abortNext t).Canon := by
  simp only [State.abortNext]
  split
  · exact h
  · split
    · split
      · exact h.finishAbort.afterTasks
      · exact h.modTask
    · split
      next e => exact (h.undoPlaces.ofEq e).modTask.modThr.record
      next e => exact .modTask (.modThr (.foldlSnd (h.undoPlaces.ofEq e) (fun _ _ h => h.readPhys)))

theorem State.Canon.inverseDone {t} (h : s.Canon) : (s.inverseDone t).Canon := h.modTask.abortNext

theorem State.Canon.exitTask {t k} (h : s.Canon) : (s.exitTask t k).2.Canon := by
  simp only [State.exitTask]
  split
  iterate 3
    · split
      · dsimp only
        exact h.endTask.afterTasks
      · dsimp only
        exact h.leaveIssues.modTask
  iterate 2
    · split
      · exact h
      · split
        · dsimp only
          exact h.commitTask.exitThread.afterTasks
        · dsimp only
          exact h.leaveIssues.modTask

/-! ## Surfaces, textures and the tile buffer -/

theorem State.Canon.putPhys {party path obj owner pa bs} (h : s.Canon) :
    (s.putPhys party path obj owner pa bs).Canon := by
  unfold State.putPhys
  split
  · exact h
  · exact h.ioWrite
  · exact h.write

theorem State.Canon.rasRead {t ia fuel n} (h : s.Canon) : (s.rasRead t ia fuel n).2.Canon := by
  induction fuel generalizing s ia n with
  | zero => exact h
  | succ fuel ih =>
    simp only [State.rasRead]
    split
    · exact h
    · split
      next e => exact h.stage2Place.ofEq e
      next e =>
        have h := h.stage2Place.ofEq e
        split
        next e => exact (ih h.readPhys).ofEq e
        next e => exact (ih h.readPhys).ofEq e

theorem State.Canon.rasBytes {t ia n} (h : s.Canon) : (s.rasBytes t ia n).2.Canon := h.rasRead

theorem State.Canon.tmMiss {v n} (h : s.Canon) : (s.tmMiss v n).Canon := h.modVdev

theorem State.Canon.tmLog {v bs} (h : s.Canon) : (s.tmLog v bs).Canon := by
  simp only [State.tmLog]
  split
  · exact h.tmMiss
  · split
    next e => exact (h.stage2Place.ofEq e).tmMiss
    next e =>
      have h := h.stage2Place.ofEq e
      split
      · exact h.tmMiss
      · exact h.putPhys.modVdev

theorem State.Canon.readBlock {t slot} (h : s.Canon) : (s.readBlock t slot).2.Canon := by
  simp only [State.readBlock]
  split
  next e => exact h.rasBytes.ofEq e
  next e =>
    have h := h.rasBytes.ofEq e
    split
    · split
      next e => exact h.rasBytes.ofEq e
      next e => exact h.rasBytes.ofEq e
    · split
      next e => exact h.rasBytes.ofEq e
      next e => exact h.rasBytes.ofEq e
    · split
      next e => exact h.rasBytes.ofEq e
      next e =>
        have h := h.rasBytes.ofEq e
        split
        · exact h
        · split
          next e => exact h.rasBytes.ofEq e
          next e => exact h.rasBytes.ofEq e
    · exact h

theorem State.Canon.setCmpErr {l} (h : s.Canon) : (s.setCmpErr l).Canon := h.modLaunch

theorem State.Canon.texel {t x i j} (h : s.Canon) : (s.texel t x i j).2.Canon := by
  unfold State.texel
  split
  · split
    next e => exact h.readBlock.ofEq e
    next e =>
      have h := h.readBlock.ofEq e
      split
      · exact h.setCmpErr
      · exact h
  · split
    next e => exact h.rasBytes.ofEq e
    next e => exact h.rasBytes.ofEq e

theorem State.Canon.texels {t x ps} (h : s.Canon) : (s.texels t x ps).2.Canon := by
  induction ps generalizing s with
  | nil => exact h
  | cons p ps ih =>
    rw [State.texels]
    split
    next e => exact h.texel.ofEq e
    next e =>
      have hr := ih (h.texel.ofEq e)
      split
      next e => exact hr.ofEq e
      next e => exact hr.ofEq e

theorem State.Canon.sample {t form x u v chan} (h : s.Canon) : (s.sample t form x u v chan).2.Canon := by
  simp only [State.sample]
  split
  · split
    next e => exact h.texels.ofEq e
    next e => exact h.texels.ofEq e
  · split
    next e => exact h.texels.ofEq e
    next e => exact h.texels.ofEq e
  · split
    next e => exact h.texels.ofEq e
    next e => exact h.texels.ofEq e
  · split
    next e => exact h.texels.ofEq e
    next e => exact h.texels.ofEq e

theorem State.Canon.tbPut {t half x} (h : s.Canon) : (s.tbPut t half x).Canon := h.write

theorem State.Canon.tbMark {t} (h : s.Canon) : (s.tbMark t).Canon := by
  unfold State.tbMark
  split
  · exact h
  · exact h.modBlock

/-! ## Memory accesses: issue, application and completion -/

theorem State.Canon.writeResult {t a d l} (h : s.Canon) : (s.writeResult t a d l).Canon := by
  induction l generalizing s d with
  | nil => exact h
  | cons x xs ih => exact ih ((h.setVec.ite h).ite h.setReg)

theorem State.Canon.signalGate {t idx right} (h : s.Canon) : (s.signalGate t idx right).2.Canon := by
  simp only [State.signalGate]
  split
  · exact h
  · exact h.irq
  · have hc := h.choose (n := 3)
    split
    · exact hc
    · exact hc

theorem State.Canon.applyAway {t a n} (h : s.Canon) : (s.applyAway t a n).Canon := by
  simp only [State.applyAway]
  split
  · exact h.peerWrites.releasePending.bumpMods.opFor
  · exact h.peerWrites.releasePending.bumpMods.frame.addOp
  · exact (h.peerWrites.choose.branch (·.releasePending.bumpMods) id).frame.addOp
  · exact h.peerWrites.opFor
  · exact h.peerWrites.frame.addOp

theorem State.Canon.answerWait {k} (h : s.Canon) : (s.answerWait k).Canon := by
  unfold State.answerWait
  split
  · exact h
  · split
    · split
      · exact h
      · exact h.peerWrites.frame
    · exact h

theorem State.Canon.readOp {t a pa mt fls} (h : s.Canon) : (s.readOp t a pa mt fls).Canon := h.addOp

theorem State.Canon.loadNow {o} (h : s.Canon) : (s.loadNow o).2.Canon := by
  unfold State.loadNow
  split
  · exact h.readFrom
  · exact h.readData
  · exact h

theorem State.Canon.readsBefore {k t a n} (h : s.Canon) : (s.readsBefore k t a n).Canon :=
  h.foldl fun _ _ h => h.loadNow.frame

theorem State.Canon.applyGlobal {t a pa mt} (h : s.Canon) : (s.applyGlobal t a pa mt).Canon := by
  unfold State.applyGlobal
  split
  · split
    · exact h.ioRead.opFor
    · exact h.readOp
  · exact h.writePhys
  · split
    · exact h.anyWord.opFor
    · exact (h.readsBefore.branch id (·.writeAll)).readNewest.opFor
  · exact (h.ite h.writeAll).opFor
  · exact h

theorem State.Canon.gateOp {t a k result} (h : s.Canon) : (s.gateOp t a k result).Canon := h.addOp

theorem State.Canon.freeCmd {t u seq} (h : s.Canon) : (s.freeCmd t u seq).Canon := h.modBlock

theorem State.Canon.haltSlice {t slot} (h : s.Canon) : (s.haltSlice t slot).Canon := h.modBlock

theorem State.Canon.applyLocal {t a} (h : s.Canon) : (s.applyLocal t a).Canon := by
  simp only [State.applyLocal]
  split
  · exact h.readOp
  · exact h.writeAll
  · exact h.opFor
  · exact h.addOp
  · exact h.sigWriteBy
  · exact h.sigWriteBy.addOp
  · exact (h.sigWriteBy.ite h).addOp
  · exact h.addOp
  · split
    · exact h.foldl fun _ _ h => h.relPending
    · exact h
  · split
    · exact h.opFor
    · exact h
  · split
    · split
      · exact h.setGate.gateOp
      · split
        · exact h.gateOp
        · exact h.setGate.gateOp
    · exact h
  · split
    · split
      · exact h.setGate.gateOp
      · exact h.gateOp
    · exact h
  · split
    · split
      · exact (h.foldl (fun _ _ h => h.releaseObj)).passGate
      · exact h
    · exact h
  · exact (h.foldl (fun _ _ h => h.fenceRelease)).opFor
  · exact h.opFor
  · split
    · exact h.opFor
    · exact h
  · exact h.opFor
  · split
    · exact h.tbPut.tbMark
    · exact h.tbPut
  · split
    · exact h.tbPut.tbMark
    · exact h
  · exact (h.tbPut.ite h).opFor
  · exact h.opFor
  · exact h.opFor
  · exact h.arriveNow
  · exact h.freeCmd
  · exact h.haltSlice.opFor
  · exact h

theorem State.Canon.tablePlace {t va again} (h : s.Canon) : (s.tablePlace t va again).2.Canon := by
  unfold State.tablePlace
  split
  next e => exact h.translate.ofEq e
  next e =>
    have h := h.translate.ofEq e
    split
    next e => exact h.translate.ofEq e
    next e => exact h.translate.ofEq e

theorem State.Canon.texQuad {t form ent u v ch} (h : s.Canon) : (s.texQuad t form ent u v ch).2.Canon := by
  unfold State.texQuad
  split
  · exact h
  · split
    next e => exact h.sample.ofEq e
    · exact h.sample

theorem State.Canon.setFlags {a} (h : s.Canon) : (s.setFlags a).Canon := h.foldl fun _ _ h => h.setFlag

theorem State.Canon.shareWalk {ws t va kind again} (h : s.Canon) : (s.shareWalk ws t va kind again).1.2.Canon := by
  simp only [State.shareWalk]
  split
  · exact h
  · exact h
  · split
    next e => exact h.translateFor.ofEq e
    next e => exact h.translateFor.ofEq e

theorem State.Canon.translateLane {ws again t a} (h : s.Canon) : (s.translateLane ws again t a).2.1.Canon := by
  unfold State.translateLane
  split
  · have hw := fun t va kind => h.shareWalk (ws := ws) (t := t) (va := va) (kind := kind) (again := again)
    split
    next e => exact (hw _ _ _).ofWalk e
    next e => exact ((hw _ _ _).ofWalk e).reach
  · exact h.signalGate
  · split
    · split
      next e => exact h.texQuad.ofEq e
      next e => exact h.texQuad.ofEq e
    · exact h.tablePlace
    · split
      next e => exact h.specAttempt.ofEq e
      next e => exact h.specAttempt.ofEq e
    · split
      · exact h
      · exact h.shareWalk
    · split
      · exact h
      · exact h
    · exact h
    · exact h
    · exact h
    · split
      · exact h
      · exact h
    · exact h

theorem State.Canon.translateLanes {ws again l} (h : s.Canon) : (s.translateLanes ws again l).2.Canon := by
  induction l generalizing s ws with
  | nil => exact h
  | cons p r ih => exact ih h.translateLane

theorem State.Canon.parkLanes {ls n} (h : s.Canon) : (s.parkLanes ls n).Canon := by
  induction n generalizing s ls with
  | zero => exact h
  | succ n ih =>
    cases ls with
    | nil => exact h
    | cons l r =>
      rw [State.parkLanes]
      split
      · exact ih h
      · exact ih h.park

theorem State.Canon.combineTree {l n} (h : s.Canon) : (s.combineTree l n).2.Canon := by
  induction n generalizing s l with
  | zero => exact h
  | succ n ih =>
    match l with
    | [] => exact h
    | [x] => exact h
    | x :: y :: l => exact ih h.choose.choose

theorem State.Canon.applyRedFadd {ls n} (h : s.Canon) : (s.applyRedFadd ls n).Canon := by
  induction n generalizing s ls with
  | zero => exact h
  | succ n ih =>
    cases ls with
    | nil => exact h
    | cons l r =>
      rw [State.applyRedFadd]
      split
      · exact ih ((h.ite h.combineTree.writeAll).foldl fun _ _ h => h.opFor)
      · exact ih h

theorem State.Canon.applyLane {l pa mt} (h : s.Canon) : (s.applyLane l pa mt).Canon := by
  unfold State.applyLane
  split
  · exact h.applyGlobal
  · split
    · split
      · exact h.applyLocal
      · exact h.applyAway
    · split
      · exact h.opFor
      · exact h.readOp
      · exact h.opFor
      · exact h.applyLocal

theorem State.Canon.applyLanes {ls} (h : s.Canon) : (s.applyLanes ls).Canon := by
  unfold State.applyLanes
  refine h.foldl fun _ _ h1 => ?_
  split
  · exact h1.applyLane
  · exact h1

theorem State.Canon.memGo {go} (h : s.Canon) : (s.memGo go).1.Canon := by
  simp only [State.memGo]
  split
  · exact h.translateLanes.parkLanes.applyRedFadd
  · exact h.translateLanes.parkLanes.applyLanes

theorem State.Canon.memIssue {tas} (h : s.Canon) : (s.memIssue tas).1.Canon :=
  (((h.ite h.frame).foldl (fun _ _ h => h.setFlags)).foldl (fun _ _ h => h.modThr)).memGo.foldl
    fun _ _ h => h.clearFlags

theorem State.Canon.tellSpawned {c left} (h : s.Canon) : (s.tellSpawned c left).Canon := by
  unfold State.tellSpawned
  split
  · exact h.modBlock.frame
  · exact h

theorem State.Canon.raiseLate {n l} (h : s.Canon) : (s.raiseLate n l).Canon := by
  induction n generalizing s l with
  | zero => exact h
  | succ n ih =>
    cases l with
    | nil => exact h
    | cons p r => exact ih h.raiseAtMany

theorem State.Canon.drain {c n} (h : s.Canon) : (s.drain c n).Canon := by
  induction n generalizing s with
  | zero => exact h
  | succ n ih =>
    rw [State.drain]
    split
    · exact h
    · exact ih h.modThrs.memGo.tellSpawned.raiseLate

theorem State.Canon.drainCore {c} (h : s.Canon) : (s.drainCore c).Canon := h.drain

theorem State.Canon.drainWhere {p} (h : s.Canon) : (s.drainWhere p).Canon := h.foldl fun _ _ h => h.drainCore

theorem State.Canon.readUnits {t issued l} (h : s.Canon) : (s.readUnits t issued l).2.Canon := by
  induction l generalizing s with
  | nil => exact h
  | cons p r ih => exact ih h.readFrom

theorem State.Canon.acknowledged (h : s.Canon) : s.acknowledged.Canon :=
  h.drainWhere.testConds.foldl fun _ _ h => h.finishLaunch

theorem State.Canon.retire {k o} (h : s.Canon) : (s.retire k o).Canon := by
  simp only [State.retire]
  split
  · exact (h.frame.clearFlags.branch (·.drainCore) id).acknowledged
  · split
    · exact h.frame.clearFlags.drainCore
    · exact h.frame.clearFlags

theorem State.Canon.stepWork {v c} (h : s.Canon) : (s.stepWork v c).Canon := h.modVdev

theorem State.Canon.drainAway {v} (h : s.Canon) : (s.drainAway v).Canon := h.drainWhere

theorem State.Canon.finishOp {k} (h : s.Canon) : (s.finishOp k).Canon := by
  simp only [State.finishOp]
  split
  · exact h
  · split
    · exact h.readsBefore.loadNow.writeResult.retire
    · exact h.readsBefore.loadNow.writeResult.retire
    · exact (h.foldl (fun _ _ h => h.acquire)).retire
    · exact (h.foldl (fun _ _ h => h.acquire)).retire
    · exact ((h.foldl (fun _ _ h => h.setPred)).branch (fun h => h.foldl (fun _ _ h => h.acquire)) id).retire
    · exact (h.foldl (fun _ _ h => h.fenceAcquire)).retire
    · exact (h.foldl (fun _ _ h => h.xfence)).retire
    · exact (h.setRegs.foldl (fun _ _ h => h.setPred)).modBlock.retire
    · exact (h.foldl (fun _ _ h => h.setPred)).retire
    · exact h.choose.writeResult.retire
    · exact h.choose.writeResult.retire
    · split
      · exact h.readUnits.frame.raiseAt
      · exact h.readUnits.modSpec.retire
    · exact (h.foldl (fun _ _ h => h.fenceAcquire)).retire
    · split
      · exact h
      · exact (h.stepWork.ite h).retire
    · split
      · exact h
      · exact h.retire.drainAway
    · exact ((h.foldl (fun _ _ h => h.setVec)).ite h.setRegs).retire
    · refine State.Canon.retire ?_
      split
      · refine State.Canon.foldl ?_ fun _ _ h => h.writeResult
        split
        · exact h.foldl fun _ _ h => h.modThr
        · exact h.foldl fun _ _ h => h.modThr
        · exact h.foldl fun _ _ h => h.modThr
        · exact h.foldl fun _ _ h => h.modThr
        · exact h
      · refine State.Canon.writeResult ?_
        split
        · exact h.foldl fun _ _ h => h.modThr
        · exact h.foldl fun _ _ h => h.modThr
        · exact h.foldl fun _ _ h => h.modThr
        · exact h.foldl fun _ _ h => h.modThr
        · exact h
      · split
        · exact h.foldl fun _ _ h => h.modThr
        · exact h.foldl fun _ _ h => h.modThr
        · exact h.foldl fun _ _ h => h.modThr
        · exact h.foldl fun _ _ h => h.modThr
        · exact h
    · exact h

theorem State.Canon.completeOp {k} (h : s.Canon) : (s.completeOp k).Canon :=
  h.answerWait.foldl fun _ _ h => h.finishOp

/-! ## Operand forms -/

theorem State.Canon.pop {i t k} (h : s.Canon) : (s.pop i t k).2.Canon := by
  simp only [State.pop]
  split
  · exact h
  · split
    · exact h
    · split
      · exact h
      · exact h.modBlock

theorem State.Canon.source {i t c} (h : s.Canon) : (s.source i t c).2.Canon := by
  unfold State.source
  split
  · exact h
  · exact h.pop

theorem State.Canon.sources {i t l} (h : s.Canon) : (s.sources i t l).2.Canon := by
  induction l generalizing s with
  | nil => exact h
  | cons c cs ih =>
    rw [State.sources]
    split
    · exact h
    next e =>
      have hr := ih (h.source.ofEq e)
      split
      · exact h
      next e => exact hr.ofEq e

theorem State.Canon.ran (h : s.Canon) : (ran s).1.Canon := h

theorem State.Canon.ranBad {f} (h : s.Canon) : (ranBad s f).1.Canon := h

theorem State.Canon.raiseMany {i sc lits n l} (h : s.Canon) : (s.raiseMany i sc lits n l).Canon := by
  induction n generalizing s l with
  | zero => exact h
  | succ n ih =>
    cases l with
    | nil => exact h
    | cons p r => exact ih h.raise

theorem State.Canon.unpop {was t} (h : s.Canon) : (s.unpop was t).Canon := h.modBlock

theorem State.Canon.runOne {k : State → Nat → Ran} {t} (h : s.Canon) (hk : ∀ s a, s.Canon → (k s a).1.Canon) :
    (s.runOne k t).1.Canon := by
  unfold State.runOne
  split
  next e => exact (hk _ _ h).ofEq₁ e
  next e =>
    have h := (hk _ _ h).ofEq₁ e
    split
    · exact h
    · exact h.unpop

theorem State.Canon.runAll {k : State → Nat → Ran} {ts} (h : s.Canon) (hk : ∀ s t, s.Canon → (k s t).1.Canon) :
    (s.runAll k ts).1.Canon := by
  induction ts generalizing s with
  | nil => exact h
  | cons t ts ih => exact ih (h.runOne hk)

theorem State.Canon.eachOr {i sc p lits} {k : State → Nat → Ran} (h : s.Canon)
    (hk : ∀ s a, s.Canon → (k s a).1.Canon) :
    (s.eachOr i sc p lits k).Canon := (h.runAll hk).raiseMany

theorem State.Canon.aluOne {i sc d srcs f t} (h : s.Canon) : (s.aluOne i sc d srcs f t).1.Canon := by
  unfold State.aluOne
  split
  · exact h.ranBad
  next e => exact (h.sources.ofEq e).setReg.ran

theorem State.Canon.aluReg {sc d p srcs f} (h : s.Canon) : (aluReg sc d p srcs f s).Canon :=
  h.onIssue fun _ => h.eachOr (fun _ _ h => h.aluOne)

theorem State.Canon.prepAll {i ts} {prep : State → Issue → Nat → Prepared × State} (h : s.Canon)
    (hprep : ∀ s i t, s.Canon → (prep s i t).2.Canon) : (s.prepAll i prep ts).2.Canon := by
  induction ts generalizing s with
  | nil => exact h
  | cons t ts ih =>
    refine ih ?_
    have hp := hprep s i t h
    split
    · exact hp
    · exact hp.ite hp.unpop

theorem State.Canon.memWord {sc p ll} {prep : State → Issue → Nat → Prepared × State} (h : s.Canon)
    (hprep : ∀ s a b, s.Canon → (prep s a b).2.Canon) :
    (memWord sc p ll prep s).Canon := h.onIssue fun _ => (h.prepAll hprep).memIssue.raiseMany

/-! ## Predicate results -/

theorem State.Canon.setPreds {ts pd b} (h : s.Canon) : (s.setPreds ts pd b).Canon := h.foldl fun _ _ h => h.setPred

theorem State.Canon.cmpOne {i sc pd srcs f t} (h : s.Canon) : (s.cmpOne i sc pd srcs f t).1.Canon := by
  unfold State.cmpOne
  split
  · exact h.ranBad
  next e => exact (h.sources.ofEq e).setPreds.ran

theorem State.Canon.cmpReg {sc pd p srcs f} (h : s.Canon) : (cmpReg sc pd p srcs f s).Canon :=
  h.onIssue fun _ => h.eachOr (fun _ _ h => h.cmpOne)

/-! ## The ALU class -/

theorem State.Canon.selOne {i sc d a b p t} (h : s.Canon) : (s.selOne i sc d a b p t).1.Canon := h.aluOne

theorem State.Canon.pmovPut {i sc a t} (h : s.Canon) : (s.pmovPut i sc a t).1.Canon := by
  unfold State.pmovPut
  split
  · exact h.ranBad
  next e => exact (h.source.ofEq e).modThrs.ran

theorem State.Canon.execCvt {sc d a b p} (h : s.Canon) : (execCvt sc d a b p s).Canon := by
  unfold Machine.execCvt
  split
  · exact h.onIssue fun _ => h.eachOr (fun _ _ h => h.ranBad)
  · exact h.aluReg

/-! ## Control transfers, calls and special registers -/

theorem State.Canon.transfer {t target} (h : s.Canon) : (s.transfer t target).1.Canon := by
  unfold State.transfer
  split
  · exact h
  · exact h.modThr.ran

theorem State.Canon.eachMember {i sc lits} {k : State → Nat → Ran} (h : s.Canon)
    (hk : ∀ s a, s.Canon → (k s a).1.Canon) :
    (s.eachMember i sc lits k).Canon := (h.runAll hk).raiseMany

theorem State.Canon.execBrm {sc lits} (h : s.Canon) : (execBrm sc lits s).Canon := by
  unfold Machine.execBrm
  refine h.onIssue fun _ => h.eachMember (fun _ _ h2 => ?_)
  dsimp only
  split
  · exact h2.transfer
  · exact h2.ran

theorem State.Canon.brxIndex {i t b} (h : s.Canon) : (s.brxIndex i t b).2.Canon := by
  unfold State.brxIndex
  split
  · exact h
  · exact h.source

theorem State.Canon.brxOne {i d a b t} (h : s.Canon) : (s.brxOne i d a b t).1.Canon := by
  simp only [State.brxOne]
  split
  · exact h.ranBad
  next e =>
    have h := h.brxIndex.ofEq e
    split
    · exact h.modThr.ran
    · split
      · exact h.ranBad
      · split
        next e => exact (h.translate.ofEq e).ranBad
        next e => exact (h.translate.ofEq e).modThr.ran

theorem State.Canon.spillStore {i t va pa mt bs} (h : s.Canon) : (s.spillStore i t va pa mt bs).Canon := by
  unfold State.spillStore
  split
  · exact h.writePhys
  · exact h.modThr.frame

theorem State.Canon.spill {i t} (h : s.Canon) : (s.spill i t).1.Canon := by
  simp only [State.spill]
  split
  · split
    · exact h.ranBad
    · split
      · exact h.ranBad
      · split
        · exact h.ranBad
        · split
          next e => exact (h.translate.ofEq e).ranBad
          next e => exact (h.translate.ofEq e).spillStore.modThr.ran
  · exact h.ran

theorem State.Canon.push {i t} (h : s.Canon) : (s.push i t).1.Canon := by
  unfold State.push
  split
  next e => exact h.spill.ofEq₁ e
  next e => exact (h.spill.ofEq₁ e).modThr.ran

theorem State.Canon.callTo {i t target} (h : s.Canon) : (s.callTo i t target).1.Canon := by
  unfold State.callTo
  split
  · exact h
  · split
    next e => exact h.push.ofEq₁ e
    next e => exact (h.push.ofEq₁ e).transfer

theorem State.Canon.callIOne {i a t} (h : s.Canon) : (s.callIOne i a t).1.Canon := by
  simp only [State.callIOne]
  split
  · exact h
  · split
    next e => exact (h.fetch.ofEq e).ranBad
    next e =>
      have h := h.fetch.ofEq e
      split
      · exact h
      · split
        · exact h.ranBad
        · exact h.callTo

theorem State.Canon.leave {t} (h : s.Canon) : (s.leave t).1.Canon := by
  unfold State.leave
  split
  · exact h.exitThread.ran
  · split
    next e => exact (h.exitTask.ofEq e).ranBad
    next e => exact (h.exitTask.ofEq e).ran

theorem State.Canon.retBottom {t} (h : s.Canon) : (s.retBottom t).1.Canon := by
  unfold State.retBottom
  split
  · exact h.leaveIssues.inverseDone.ran
  · exact h.leave

theorem State.Canon.retOne {i t} (h : s.Canon) : (s.retOne i t).1.Canon := by
  simp only [State.retOne]
  split
  · exact h.retBottom
  · split
    · split
      · exact h
      · exact h.modThr.transfer
    · split
      · exact h.ranBad
      · split
        next e => exact (h.translate.ofEq e).ranBad
        next e => exact (h.translate.ofEq e).modThr.ran

theorem State.Canon.settle {t} (h : s.Canon) : (s.settle t).Canon := by
  unfold State.settle
  split
  · exact h
  · exact h.finishLaunch

theorem State.Canon.landHeld {t target done} (h : s.Canon) : (s.landHeld t target done).Canon := by
  simp only [State.landHeld]
  split
  · exact h.modThr.raise
  · exact h.modThr.joinTests

theorem State.Canon.heldRead {t y n} {k : State → List Byte → State} (h : s.Canon)
    (hk : ∀ s a, s.Canon → (k s a).Canon) :
    (s.heldRead t y n k).Canon := by
  simp only [State.heldRead]
  split
  next e => exact (h.translate.ofEq e).modThr.raise
  next e => exact hk _ _ (h.translate.ofEq e).readsBefore.readPhys

theorem State.Canon.execRefillArrival {t} (h : s.Canon) : (execRefillArrival t s).Canon := by
  unfold Machine.execRefillArrival
  split
  · split
    · exact h.heldRead fun _ _ h => h.landHeld
    · exact h
  · exact h

theorem State.Canon.execBrxEntryArrival {t} (h : s.Canon) : (execBrxEntryArrival t s).Canon := by
  unfold Machine.execBrxEntryArrival
  split
  · split
    · exact h.heldRead fun _ _ h => h.landHeld
    · exact h
  · exact h

theorem State.Canon.srClock {t} (h : s.Canon) : (s.srClock t).2.Canon := h.modCore.frame

theorem State.Canon.s2rOne {i sc d n t} (h : s.Canon) : (s.s2rOne i sc d n t).1.Canon := by
  unfold State.s2rOne
  split
  · exact h.ranBad
  · split
    · exact h.srClock.setReg.ran
    · exact h.setReg.ran

/-! ## The MEM class -/

theorem State.Canon.prepLoad {size sgn d a off x t} (h : s.Canon) : (prepLoad size sgn d a off s x t).2.Canon := by
  simp only [Machine.prepLoad]
  split
  · exact h
  · exact h

theorem State.Canon.prepStore {size d a off x t} (h : s.Canon) : (prepStore size d a off s x t).2.Canon := by
  simp only [Machine.prepStore]
  split
  · exact h
  · exact h

theorem State.Canon.localAddr {i t a off size limit} (h : s.Canon) : (localAddr s i t a off size limit).2.Canon := by
  simp only [Machine.localAddr]
  split
  next e => exact h.source.ofEq e
  next e =>
    have h := h.source.ofEq e
    split
    · exact h
    · split
      · exact h
      · exact h

theorem State.Canon.prepLds {size d a off i t} (h : s.Canon) : (prepLds size d a off s i t).2.Canon := by
  unfold Machine.prepLds
  split
  next e => exact h.localAddr.ofEq e
  next e =>
    have h := h.localAddr.ofEq e
    split
    · exact h
    · exact h

theorem State.Canon.prepSts {size d a off i t} (h : s.Canon) : (prepSts size d a off s i t).2.Canon := by
  unfold Machine.prepSts
  split
  next e => exact h.localAddr.ofEq e
  next e => exact h.localAddr.ofEq e

theorem State.Canon.prepLdc {d a off i t} (h : s.Canon) : (prepLdc d a off s i t).2.Canon := by
  unfold Machine.prepLdc
  split
  next e => exact h.localAddr.ofEq e
  next e =>
    have h := h.localAddr.ofEq e
    split
    · exact h
    · exact h

theorem State.Canon.prepAtom {f d a b i t} (h : s.Canon) : (prepAtom f d a b s i t).2.Canon := by
  simp only [Machine.prepAtom]
  split
  next e => exact h.source.ofEq e
  next e =>
    have h := h.source.ofEq e
    split
    · exact h
    · exact h

theorem State.Canon.prepCas {d a b x t} (h : s.Canon) : (prepCas d a b s x t).2.Canon := by
  simp only [Machine.prepCas]
  split
  · exact h
  · exact h

theorem State.Canon.prepRed {f a b i t} (h : s.Canon) : (prepRed f a b s i t).2.Canon := by
  simp only [Machine.prepRed]
  split
  next e => exact h.source.ofEq e
  next e =>
    have h := h.source.ofEq e
    split
    · exact h
    · exact h

theorem State.Canon.execBind {sc a p} (h : s.Canon) : (execBind sc a p s).Canon := by
  unfold Machine.execBind
  refine h.onIssue fun _ => h.eachOr (fun _ _ h2 => ?_)
  dsimp only
  split
  · exact h2.setBlock.ran
  · exact h2.ranBad

theorem State.Canon.prepObj {accept a mk i t} (h : s.Canon) : (prepObj accept a mk s i t).2.Canon := by
  unfold Machine.prepObj
  split
  next e => exact h.source.ofEq e
  next e =>
    have h := h.source.ofEq e
    split
    · split
      · exact h
      · exact h
    · exact h

theorem State.Canon.sigOperand {i t a} (h : s.Canon) : (sigOperand s i t a).2.Canon := by
  simp only [Machine.sigOperand]
  split
  next e => exact h.source.ofEq e
  next e =>
    have h := h.source.ofEq e
    split
    · exact h
    · exact h

theorem State.Canon.prepSig {a mk i t} (h : s.Canon) : (prepSig a mk s i t).2.Canon := by
  unfold Machine.prepSig
  split
  next e => exact h.sigOperand.ofEq e
  next e => exact h.sigOperand.ofEq e

theorem State.Canon.prepMaint {inv a b i t} (h : s.Canon) : (prepMaint inv a b s i t).2.Canon := by
  simp only [Machine.prepMaint]
  split
  next e => exact h.source.ofEq e
  next e =>
    have h := h.source.ofEq e
    split
    · exact h
    · exact h

/-! ## Spawn bins -/

theorem State.Canon.trySpawn {c x} (h : s.Canon) : (s.trySpawn c x).2.Canon := by
  simp only [State.trySpawn]
  split
  · exact h.setBlock
  · split
    · exact h.setBlock
    · exact h.setBlock

theorem State.Canon.drainOverflow {c n} (h : s.Canon) : (s.drainOverflow c n).Canon := by
  induction n generalizing s with
  | zero => exact h
  | succ n ih =>
    rw [State.drainOverflow]
    split
    · exact h
    · split
      · exact ih h.setBlock
      · exact h

theorem State.Canon.spawnFor {t entry a b task} (h : s.Canon) : (s.spawnFor t entry a b task).1.Canon := by
  simp only [State.spawnFor]
  split
  · exact h.ranBad
  · exact (h.modBlock.trySpawn.branch id (·.modThr)).ran

theorem State.Canon.spawnOne {i d a b t} (h : s.Canon) : (s.spawnOne i d a b t).1.Canon := by
  simp only [State.spawnOne]
  split
  · exact h.ranBad
  next e =>
    have h := h.sources.ofEq e
    split
    · exact h.ranBad
    · exact h.spawnFor

theorem State.Canon.execSpawnBinTimer {c n} (h : s.Canon) : (execSpawnBinTimer c n s).Canon := by
  unfold Machine.execSpawnBinTimer
  split
  · exact h
  · split
    · split
      · exact h.modBlock
      · exact h
    · exact h

theorem State.Canon.launchBin {c} (h : s.Canon) : (s.launchBin c).Canon := by
  simp only [State.launchBin]
  split
  · split
    · exact h
    · split
      · exact h
      · refine State.Canon.drainOverflow (State.Canon.modBlock (h.vacateGates.setWarp.frame.foldl (fun _ _ h1 => ?_)))
        split
        · exact h1.setThr
        · exact h1.frame
  · exact h

theorem State.Canon.retrySpawns {c} (h : s.Canon) : (s.retrySpawns c).Canon :=
  h.foldl fun _ _ h => h.trySpawn.branch (·.modThr) id

theorem State.Canon.feedTile {c n} (h : s.Canon) : (s.feedTile c n).Canon := by
  induction n generalizing s with
  | zero => exact h
  | succ n ih =>
    simp only [State.feedTile]
    split
    · exact h
    · split
      · exact h
      · split
        · exact ih h.modBlock.modLaunch
        · split
          next e => exact h.trySpawn.ofEq e
          next e => exact ih (h.trySpawn.ofEq e).modBlock.modBlock.modLaunch

theorem State.Canon.feedAll {c} (h : s.Canon) : (s.feedAll c).Canon := h.feedTile

/-! ## Engine commands -/

theorem State.Canon.setEngq {c u q} (h : s.Canon) : (s.setEngq c u q).Canon := h.modBlock

theorem State.Canon.putCmd {c u x} (h : s.Canon) : (s.putCmd c u x).Canon := h.setEngq

theorem State.Canon.enterCmd {i sc t u guard body} (h : s.Canon) : (s.enterCmd i sc t u guard body).Canon := by
  simp only [State.enterCmd]
  split
  · exact h.setFlags.opFor.setEngq.modThr
  · exact h.setFlags.opFor.setEngq

theorem State.Canon.addUnobs {u x wrote} (h : s.Canon) : (s.addUnobs u x wrote).Canon := by
  unfold State.addUnobs
  split
  · exact h
  · exact h.modThrs

theorem State.Canon.completeCmd {c u x} (h : s.Canon) : (s.completeCmd c u x).Canon := by
  simp only [State.completeCmd]
  split
  · exact h.setEngq.addUnobs.retire
  · exact h.setEngq.addUnobs

theorem State.Canon.suspendNext {t} (h : s.Canon) : (s.suspendNext t).Canon := by
  unfold State.suspendNext
  split
  · exact h.modThr
  · exact h.modThr

theorem State.Canon.engineFault {x f} (h : s.Canon) : (s.engineFault x f).Canon :=
  (h.foldl (fun _ _ h => h.suspendNext)).record

theorem State.Canon.stopCmd {c u x f} (h : s.Canon) : (s.stopCmd c u x f).Canon := by
  unfold State.stopCmd
  split
  · exact h.putCmd.engineFault
  · exact h.completeCmd.engineFault

theorem State.Canon.snapUnit {x q reg a n} (h : s.Canon) : (s.snapUnit x q reg a n).2.Canon := by
  unfold State.snapUnit
  split
  · exact h
  · refine State.Canon.markRead ?_
    split
    · exact h
    · exact h.choose

theorem State.Canon.snapRead {x q reg a n} (h : s.Canon) : (s.snapRead x q reg a n).2.Canon := by
  unfold State.snapRead
  split
  · exact h.snapUnit
  · exact h.snapUnit.snapUnit

theorem State.Canon.engGlobal {x q va n} (h : s.Canon) : (s.engGlobal x q va n).2.Canon := by
  simp only [State.engGlobal]
  split
  next e => exact h.translate.ofEq e
  next e =>
    have h := h.translate.ofEq e
    split
    · exact h.ioRead
    · exact h.anyBytes
    · exact h.snapRead

theorem State.Canon.engUnits {x q va k n} (h : s.Canon) : (s.engUnits x q va k n).2.Canon := by
  induction n generalizing s va with
  | zero => exact h
  | succ n ih =>
    rw [State.engUnits]
    split
    next e => exact h.engGlobal.ofEq e
    next e =>
      have hr := ih (h.engGlobal.ofEq e) (va := va + k)
      split
      next e => exact hr.ofEq e
      next e => exact hr.ofEq e

theorem State.Canon.engLoad {x q v n} (h : s.Canon) : (s.engLoad x q v n).2.Canon := by
  unfold State.engLoad
  split
  · split
    · exact h
    · exact h.snapRead
  · exact h.engGlobal

theorem State.Canon.engPlace {x v n kind} (h : s.Canon) : (s.engPlace x v n kind).2.Canon := by
  unfold State.engPlace
  split
  · split
    · exact h
    · exact h
  · exact h.translate

theorem State.Canon.putAt {x q v p bs} (h : s.Canon) : (s.putAt x q v p bs).2.Canon := by
  simp only [State.putAt]
  split
  · exact h.write
  · split
    · exact h.ioWrite
    · exact h
    · exact h.write

theorem State.Canon.engStore {x q v bs} (h : s.Canon) : (s.engStore x q v bs).2.Canon := by
  unfold State.engStore
  split
  next e => exact h.engPlace.ofEq e
  next e => exact (h.engPlace.ofEq e).putAt

theorem State.Canon.newestAt {v n p} (h : s.Canon) : (s.newestAt v n p).2.Canon := by
  unfold State.newestAt
  split
  · exact h
  · split
    · exact h.ioRead
    · exact h.anyBytes
    · exact h

theorem State.Canon.runUnits {x n} {unit : State → Cmd → Nat → Unit_} (h : s.Canon)
    (hunit : ∀ s x k, s.Canon → (unit s x k).2.Canon) : (s.runUnits x unit n).2.2.Canon := by
  induction n generalizing s x with
  | zero => exact h
  | succ n ih =>
    rw [State.runUnits]
    have hu := hunit s x x.progress h
    split
    next e => exact hu.ofEq e
    next e => exact ih (hu.ofEq e)

theorem State.Canon.runCmd {c e x total} {unit : State → Cmd → Nat → Unit_} (h : s.Canon)
    (hunit : ∀ s x k, s.Canon → (unit s x k).2.Canon) : (s.runCmd c e x total unit).Canon := by
  unfold State.runCmd
  have hr := fun n => h.runUnits hunit (x := x) (n := n)
  split
  next e => exact ((hr _).ofUnits e).completeCmd
  next e => exact ((hr _).ofUnits e).stopCmd

theorem State.Canon.copyUnit {src dst x k} (h : s.Canon) : (copyUnit src dst s x k).2.Canon := by
  unfold Machine.copyUnit
  split
  next e => exact h.engLoad.ofEq e
  next e => exact (h.engLoad.ofEq e).engStore

theorem State.Canon.engLoads {x q l} (h : s.Canon) : (s.engLoads x q l).2.Canon := by
  induction l generalizing s with
  | nil => exact h
  | cons p r ih =>
    rw [State.engLoads]
    split
    next e => exact h.engLoad.ofEq e
    next e =>
      have hr := ih (h.engLoad.ofEq e)
      split
      next e => exact hr.ofEq e
      next e => exact hr.ofEq e

theorem State.Canon.x24Unit {src dst aux u x g} (h : s.Canon) : (x24Unit src dst aux u s x g).2.Canon := by
  unfold Machine.x24Unit
  split
  next e => exact h.engLoads.ofEq e
  next e => exact ((h.engLoads.ofEq e).modBlock.ite (h.engLoads.ofEq e)).engStore

/-! ## The copy unit and Filigree -/

theorem State.Canon.execCopy {sc a p} (h : s.Canon) : (execCopy sc a p s).Canon := by
  unfold Machine.execCopy
  refine h.onIssue fun _ => h.eachOr (fun _ _ h2 => ?_)
  dsimp only
  split
  · exact h2.ranBad
  · split
    · exact h2.ranBad
    · split
      · exact h2.ranBad
      · exact h2.enterCmd.ran

theorem State.Canon.execCopyX24 {sc a p} (h : s.Canon) : (execCopyX24 sc a p s).Canon := by
  unfold Machine.execCopyX24
  refine h.onIssue fun _ => h.eachOr (fun _ _ h2 => ?_)
  dsimp only
  split
  · exact h2.ranBad
  · split
    · split
      · exact h2.ranBad
      · split
        · exact h2.ranBad
        · split
          · exact h2.ranBad
          · exact h2.enterCmd.ran
    · split
      · exact h2.ranBad
      · split
        · exact h2.ranBad
        · split
          · exact h2.ranBad
          · exact h2.enterCmd.ran

theorem State.Canon.startCopy {c} (h : s.Canon) : (s.startCopy c).Canon := by
  simp only [State.startCopy]
  split
  · exact h
  · split
    · exact h
    · split
      · exact h
      · exact h.completeCmd
      · split
        · exact h.runCmd fun _ _ _ h => h.copyUnit
        · exact h.runCmd fun _ _ _ h => h.x24Unit
        · exact h.completeCmd

theorem State.Canon.setEnd {c slot} (h : s.Canon) : (s.setEnd c slot).Canon := by
  unfold State.setEnd
  split
  · split
    · exact h
    · exact h.modBlock
  · exact h

theorem State.Canon.execFilLoad {sc a p lit} (h : s.Canon) : (execFilLoad sc a p lit s).Canon := by
  unfold Machine.execFilLoad
  refine h.onIssue fun _ => h.eachOr (fun _ _ h2 => ?_)
  dsimp only
  split
  · exact h2.ranBad
  · split
    · exact h2.ranBad
    · exact h2.enterCmd.ran

theorem State.Canon.execFilRun {sc b p} (h : s.Canon) : (execFilRun sc b p s).Canon := by
  unfold Machine.execFilRun
  refine h.onIssue fun _ => h.eachOr (fun _ _ h2 => ?_)
  split
  · exact h2.ranBad
  · exact h2.enterCmd.ran

theorem State.Canon.stopSlice {c slot} (h : s.Canon) : (s.stopSlice c slot).Canon :=
  h.foldl fun _ _ h => h.setEnd.completeCmd

theorem State.Canon.startFil {c} (h : s.Canon) : (s.startFil c).Canon := by
  simp only [State.startFil]
  split
  · exact h
  · split
    · exact h
    · split
      · split
        next e => exact (h.engUnits.ofEq e).stopCmd
        next e =>
          have h := h.engUnits.ofEq e
          split
          · exact h.stopCmd
          · exact h.modBlock.completeCmd
      · split
        · exact h.stopCmd
        · split
          · exact h
          · exact h.completeCmd
          · split
            · exact h
            · split
              · exact h.putCmd
              · exact h.stopCmd
      · exact h.completeCmd

theorem State.Canon.deliver {c x d n bs} (h : s.Canon) : (s.deliver c x d n bs).2.Canon := by
  simp only [State.deliver]
  split
  · split
    · exact h
    · exact h.write
  · exact h.write.modBlock

theorem State.Canon.endSlice {c slot x} (h : s.Canon) : (s.endSlice c slot x).Canon := h.setEnd.completeCmd

theorem State.Canon.execSliceElementDelivery {c slot} (h : s.Canon) : (execSliceElementDelivery c slot s).Canon := by
  simp only [Machine.execSliceElementDelivery]
  split
  · exact h
  · split
    · split
      · exact h
      · split
        · exact (h.stopCmd.ite h.setEnd.stopCmd).settle
        · split
          next e => exact ((h.engGlobal.ofEq e).stopCmd.ite (h.engGlobal.ofEq e).setEnd.stopCmd).settle
          next e =>
            have h := h.engGlobal.ofEq e
            split
            next e => exact ((h.deliver.ofEq e).stopCmd.ite (h.deliver.ofEq e).setEnd.stopCmd).settle
            next e =>
              have h := h.deliver.ofEq e
              split
              · exact h.putCmd
              · exact h.endSlice.settle
    · exact h

theorem State.Canon.execQcfg {sc a q en sgn z l} (h : s.Canon) : (execQcfg sc a q en sgn z l s).Canon := by
  unfold Machine.execQcfg
  refine h.onIssue fun _ => h.eachOr (fun _ _ h2 => ?_)
  dsimp only
  split
  · exact h2.ranBad
  · split
    · exact h2.modBlock.ran
    · split
      · exact h2.ranBad
      · exact h2.modBlock.ran

/-! ## Trellis -/

theorem State.Canon.storeAcc {a bs} (h : s.Canon) : State.Canon { s with accm := s.accm.writeN a bs } := by
  obtain ⟨hm, hs, ha, hw⟩ := h
  exact ⟨hm, hs, Mem.wf_writeN _ _ _ ha, hw⟩

theorem State.Canon.setAcc {c row col w} (h : s.Canon) : (s.setAcc c row col w).Canon := h.storeAcc

theorem State.Canon.accCmd {sc a p rw d regs body} (h : s.Canon) : (accCmd sc a p rw d regs body s).Canon := by
  unfold Machine.accCmd
  refine h.onIssue fun _ => h.eachOr (fun _ _ h2 => ?_)
  dsimp only
  split
  · exact h2.ranBad
  · split
    · exact h2.ranBad
    · split
      · exact h2.ranBad
      · split
        · exact h2.enterCmd.ran
        · exact h2.ranBad

theorem State.Canon.execAccZero {sc a p} (h : s.Canon) : (execAccZero sc a p s).Canon := h.accCmd

theorem State.Canon.execAccRd {sc d a p} (h : s.Canon) : (execAccRd sc d a p s).Canon := h.accCmd

theorem State.Canon.execAccWr {sc d a p} (h : s.Canon) : (execAccWr sc d a p s).Canon := h.accCmd

theorem State.Canon.execAccScale {sc a b p} (h : s.Canon) : (execAccScale sc a b p s).Canon := h.accCmd

theorem State.Canon.execAccCvtF32I32 {sc a p} (h : s.Canon) : (execAccCvtF32I32 sc a p s).Canon := h.accCmd

theorem State.Canon.execAccCvtI32F32 {sc a p} (h : s.Canon) : (execAccCvtI32F32 sc a p s).Canon := h.accCmd

theorem State.Canon.execRowmax {sc d a p} (h : s.Canon) : (execRowmax sc d a p s).Canon := h.accCmd

theorem State.Canon.execRowsum {sc d a p} (h : s.Canon) : (execRowsum sc d a p s).Canon := h.accCmd

theorem State.Canon.mmaWord {form sc d a b p lit lits} (h : s.Canon) :
    (mmaWord form sc d a b p lit lits s).Canon := by
  unfold Machine.mmaWord
  refine h.onIssue fun _ => h.eachOr (fun _ _ h2 => ?_)
  dsimp only
  split
  · exact h2.ranBad
  · split
    · exact h2.ranBad
    · split
      · exact h2.ranBad
      · split
        · exact h2.ranBad
        · split
          · exact h2.ranBad
          · split
            · exact h2.ranBad
            · exact h2.enterCmd.ran

theorem State.Canon.mmaRun {c form row0 a cols scales} (h : s.Canon) :
    (s.mmaRun c form row0 a cols scales).1.Canon := .foldlFst (h) fun _ _ h => h.foldlFst (fun _ _ h => h.setAcc)

theorem State.Canon.execMma {c x form row0 a off scales} (h : s.Canon) :
    (s.execMma c x form row0 a off scales).Canon := by
  simp only [State.execMma]
  split
  · exact h.stopCmd
  · split
    · split
      · exact h.stopCmd
      · exact h.mmaRun.modBlock.completeCmd
    · split
      · exact h.stopCmd
      · exact h.mmaRun.modBlock.completeCmd

theorem State.Canon.execWload {sc d a b p} (h : s.Canon) : (execWload sc d a b p s).Canon := by
  unfold Machine.execWload
  refine h.onIssue fun _ => h.eachOr (fun _ _ h2 => ?_)
  dsimp only
  split
  · exact h2.ranBad
  · split
    · exact h2.ranBad
    · split
      · exact h2.ranBad
      · exact h2.enterCmd.ran

theorem State.Canon.wloadUnit {c w src x k} (h : s.Canon) : (wloadUnit c w src s x k).2.Canon := by
  unfold Machine.wloadUnit
  split
  next e => exact h.engGlobal.ofEq e
  next e =>
    obtain ⟨hm, hs, ha, hw⟩ := h.engGlobal.ofEq e
    exact ⟨hm, hs, ha, Mem.wf_writeN _ _ _ hw⟩

theorem State.Canon.execWinset {sc a b p} (h : s.Canon) : (execWinset sc a b p s).Canon := by
  unfold Machine.execWinset
  refine h.onIssue fun _ => h.eachOr (fun _ _ h2 => ?_)
  dsimp only
  split
  · exact h2.ranBad
  · split
    · exact h2.ranBad
    · exact (h2.foldl (fun _ _ h => h.modMember)).ran

theorem State.Canon.drainWord {add sc a p} (h : s.Canon) : (drainWord add sc a p s).Canon := by
  unfold Machine.drainWord
  refine h.onIssue fun _ => h.eachOr (fun _ _ h2 => ?_)
  dsimp only
  split
  · exact h2.ranBad
  · split
    · exact h2.ranBad
    · split
      · exact h2.ranBad
      · split
        · exact h2.ranBad
        · split
          · exact h2.ranBad
          · exact h2.enterCmd.ran

theorem State.Canon.drainPut {x add fmt v p bits} (h : s.Canon) : (s.drainPut x add fmt v p bits).2.Canon := by
  simp only [State.drainPut]
  split
  · exact h.newestAt.putAt
  · exact h.putAt

theorem State.Canon.drainUnit {c add rows dst stride fmt res x k} (h : s.Canon) :
    (drainUnit c add rows dst stride fmt res s x k).2.Canon := by
  simp only [Machine.drainUnit]
  split
  · exact h
  · split
    next e => exact h.engPlace.ofEq e
    next e =>
      have h := h.engPlace.ofEq e
      split
      · exact h.drainPut
      · split
        next e => exact h.engGlobal.ofEq e
        next e =>
          have h := h.engGlobal.ofEq e
          split
          next e => exact h.engPlace.ofEq e
          next e => exact (h.engPlace.ofEq e).drainPut.putAt

theorem State.Canon.giveReg {a t d w} (h : s.Canon) : (s.giveReg a t d w).Canon := by
  unfold State.giveReg
  split
  · exact h.setVec
  · exact h

theorem State.Canon.mapRows {c rows f} (h : s.Canon) : (s.mapRows c rows f).Canon :=
  h.foldl fun _ _ h => h.foldl (fun _ _ h => h.setAcc)

theorem State.Canon.startTrellis {c} (h : s.Canon) : (s.startTrellis c).Canon := by
  unfold State.startTrellis
  split
  · exact h
  · split
    · exact h
    · split
      · exact h.stopCmd
      · split
        · exact h.execMma
        · exact h.runCmd fun _ _ _ h => h.wloadUnit
        · exact h.mapRows.completeCmd
        · exact (h.foldl fun _ _ h => h.giveReg).completeCmd
        · exact (h.foldl fun _ _ h => h.storeAcc).completeCmd
        · exact (h.foldl fun _ _ h => h.mapRows).completeCmd
        · exact h.mapRows.completeCmd
        · exact (h.foldl fun _ _ h => h.foldl fun _ _ h => h.giveReg).completeCmd
        · split
          · exact h
          · exact h.runCmd fun _ _ _ h => h.drainUnit
        · exact h.completeCmd

/-! ## The dependence graph -/

theorem State.Canon.setGraph {c g} (h : s.Canon) : (s.setGraph c g).Canon := h.modBlock

theorem State.Canon.modNode {c n f} (h : s.Canon) : (s.modNode c n f).Canon := h.modBlock

theorem State.Canon.graphStep {c} (h : s.Canon) : (s.graphStep c).Canon := by
  simp only [State.graphStep]
  split
  · exact h.setBlock
  · exact h

theorem State.Canon.nodeDone {c n wrote} (h : s.Canon) : (s.nodeDone c n wrote).Canon := h.modNode.setGraph.graphStep

theorem State.Canon.nodeFault {c n x y f} (h : s.Canon) : (s.nodeFault c n x y f).Canon := by
  unfold State.nodeFault
  split
  · exact h.modNode.engineFault
  · exact h.modNode.nodeDone.engineFault

theorem State.Canon.runCopyNode {c n x g total} {unit : State → Cmd → Nat → Unit_} (h : s.Canon)
    (hunit : ∀ s x k, s.Canon → (unit s x k).2.Canon) : (s.runCopyNode c n x g total unit).Canon := by
  unfold State.runCopyNode
  have hr := fun x n => h.runUnits hunit (x := x) (n := n)
  split
  next e => exact ((hr _ _).ofUnits e).modNode.nodeDone
  next e => exact ((hr _ _).ofUnits e).nodeFault

theorem State.Canon.spawnNode {c n x g k} (h : s.Canon) : (s.spawnNode c n x g k).Canon := by
  induction k generalizing s with
  | zero => exact h.ite h.nodeDone
  | succ k ih =>
    simp only [State.spawnNode]
    split
    · exact h.nodeFault
    · split
      next e => exact h.trySpawn.ofEq e
      next e => exact ih (h.trySpawn.ofEq e).modBlock.modNode

theorem State.Canon.signalNode {c n x g} (h : s.Canon) : (s.signalNode c n x g).Canon := by
  simp only [State.signalNode]
  split
  · exact h.nodeFault
  · split
    · exact h
    · split
      next e => exact (h.signalGate.ofEq e).nodeFault
      next e => exact (h.signalGate.ofEq e).hubSignal.nodeDone

theorem State.Canon.runNode {c n} (h : s.Canon) : (s.runNode c n).Canon := by
  simp only [State.runNode]
  split
  · split
    · exact h
    · split
      · split
        · exact h.runCopyNode fun _ _ _ h => h.copyUnit
        · exact h.nodeFault
      · split
        · exact h.nodeFault
        · split
          · exact h.nodeFault
          · exact h.runCopyNode fun _ _ _ h => h.x24Unit
      · exact h.spawnNode
      · exact h.signalNode
  · exact h

theorem State.Canon.wakeGwait {c} (h : s.Canon) : (s.wakeGwait c).Canon := by
  unfold State.wakeGwait
  split
  · exact h
  · split
    · exact h.completeCmd
    · exact h

theorem State.Canon.graphWord {sc p lits body pre} (h : s.Canon) : (graphWord sc p lits body pre s).Canon := by
  unfold Machine.graphWord
  refine h.onIssue fun _ => h.eachOr (fun _ _ h2 => ?_)
  dsimp only
  split
  · exact h2.ranBad
  · split
    · exact h2.ranBad
    · exact h2.enterCmd.ran

theorem State.Canon.execGnode {sc d a p lit} (h : s.Canon) : (execGnode sc d a p lit s).Canon := h.graphWord

theorem State.Canon.execGedge {sc a b p} (h : s.Canon) : (execGedge sc a b p s).Canon := h.graphWord

theorem State.Canon.execGarm {sc p} (h : s.Canon) : (execGarm sc p s).Canon := h.graphWord

theorem State.Canon.execGarmClr {sc p} (h : s.Canon) : (execGarmClr sc p s).Canon := h.graphWord

theorem State.Canon.execGwait {sc p} (h : s.Canon) : (execGwait sc p s).Canon := h.graphWord

theorem State.Canon.startGraph {c} (h : s.Canon) : (s.startGraph c).Canon := by
  simp only [State.startGraph]
  split
  · exact h
  · split
    · exact h
    · split
      · exact h.stopCmd
      · split
        · split
          next e => exact (h.engUnits.ofEq e).stopCmd
          next e =>
            have h := h.engUnits.ofEq e
            split
            · exact h.stopCmd
            · exact h.setGraph.setReg.completeCmd
        · exact h.modNode.completeCmd
        · exact h.setBlock.graphStep.completeCmd
        · exact h.setBlock.completeCmd
        · exact h.wakeGwait

theorem State.Canon.execEngineCommandStart {c e'} (h : s.Canon) : (execEngineCommandStart c e' s).Canon := by
  simp only [Machine.execEngineCommandStart]
  split
  · exact h
  · refine State.Canon.settle ?_
    split
    · exact h.startTrellis
    · exact h.startCopy
    · exact h.startFil
    · exact h.startGraph.wakeGwait
    · exact h

theorem State.Canon.resumeCmds {c ts go} (h : s.Canon) : (s.resumeCmds c ts go).Canon := by
  unfold State.resumeCmds
  extract_lets mine s1
  have h1 : s1.Canon := by
    refine h.foldl fun _ _ h => h.foldl fun _ _ h => ?_
    split
    · split
      · exact h.putCmd
      · split
        · exact h.endSlice
        · exact h.completeCmd
    · exact h
  split
  · split
    · refine h1.foldl fun _ _ h => ?_
      split
      · split
        · exact h.modNode.ite h.modNode.nodeDone
        · exact h
      · exact h
    · exact h1
  · exact h1

/-! ## Parallel execution -/

theorem State.Canon.execBrk {sc j p lit} (h : s.Canon) : (execBrk sc j p lit s).Canon := by
  unfold Machine.execBrk
  refine h.onIssue fun _ => h.eachOr (fun _ _ h2 => ?_)
  dsimp only
  split
  · exact h2
  · exact h2.joinLeave.transfer

theorem State.Canon.barWord {sc n} {k : State → Nat → State} (h : s.Canon) (hk : ∀ s a, s.Canon → (k s a).Canon) :
    (barWord sc n k s).Canon := by
  unfold Machine.barWord
  refine h.onIssue fun _ => h.eachMember (fun _ _ h2 => ?_)
  split
  · exact (hk _ _ h2).ran
  · exact h2.ranBad

theorem State.Canon.execBarInit {sc b} (h : s.Canon) : (execBarInit sc b s).Canon := by
  unfold Machine.execBarInit
  refine h.onIssue fun _ => h.eachOr (fun _ _ h2 => ?_)
  split
  · exact h2.barInit.ran
  · exact h2.ranBad

theorem State.Canon.readAll {i c ts} (h : s.Canon) : (s.readAll i c ts).2.Canon := by
  induction ts generalizing s with
  | nil => exact h
  | cons t ts ih =>
    rw [State.readAll]
    split
    next e => exact h.source.ofEq e
    next e =>
      have hr := ih (h.source.ofEq e)
      split
      next e => exact hr.ofEq e
      next e => exact hr.ofEq e

theorem State.Canon.giveEach {i d rs} (h : s.Canon) : (s.giveEach i d rs).Canon := by
  unfold State.giveEach
  split
  · exact h.foldl fun _ _ h => h.setVec
  · split
    · split
      · exact h.setReg
      · exact h
    · exact h

theorem State.Canon.execShfl {sc d a b p} (h : s.Canon) : (execShfl sc d a b p s).Canon := by
  unfold Machine.execShfl
  refine h.onIssue fun _ => ?_
  split
  · exact h.raiseMany
  next e =>
    have h1 := h.readAll.ofEq e
    split
    · exact h.raiseMany
    next e => exact (h1.readAll.ofEq e).giveEach

theorem State.Canon.execRedux {sc d a f p} (h : s.Canon) : (execRedux sc d a f p s).Canon := by
  unfold Machine.execRedux
  refine h.onIssue fun _ => ?_
  dsimp only
  split
  · exact h.raiseMany
  next e =>
    have h := h.readAll.ofEq e
    split
    · exact h.foldl fun _ _ h => h.setVec
    · split
      · exact h
      · exact h.setReg

theorem State.Canon.execScan {sc d a f p} (h : s.Canon) : (execScan sc d a f p s).Canon := by
  unfold Machine.execScan
  refine h.onIssue fun _ => ?_
  split
  · exact h.raiseMany
  next e =>
    have h := h.readAll.ofEq e
    split
    · exact h.foldl fun _ _ h => h.setVec
    · exact h

theorem State.Canon.execSetdecl {sc a p lit} (h : s.Canon) : (execSetdecl sc a p lit s).Canon := by
  unfold Machine.execSetdecl
  refine h.onIssue fun _ => h.eachOr (fun _ _ h2 => ?_)
  dsimp only
  split
  · exact h2.setBlock.ran
  · exact h2.ranBad

theorem State.Canon.loseResults {w q} (h : s.Canon) : (s.loseResults w q).Canon := h.frame.modBlock.frame

theorem State.Canon.setQuota {w q} (h : s.Canon) : (s.setQuota w q).Canon :=
  h.loseResults.modWarp.foldl fun _ _ h => h.modThr

theorem State.Canon.setMemberQuota {c q n} (h : s.Canon) : (s.setMemberQuota c q n).Canon := by
  unfold State.setMemberQuota
  split
  · exact h.setQuota
  · exact h.modMember

theorem State.Canon.execQuota {sc x y n} (h : s.Canon) : (execQuota sc x y n s).Canon := by
  unfold Machine.execQuota
  refine h.onIssue fun _ => h.eachOr (fun _ _ h2 => ?_)
  dsimp only
  split
  · split
    · exact ((h2.foldl (fun _ _ h => h.setMemberQuota)).foldl (fun _ _ h => h.setMemberQuota)).ran
    · exact h2.ranBad
  · exact h2.ranBad

theorem State.Canon.serveTile {l die} (h : s.Canon) : (s.serveTile l die).2.Canon := by
  simp only [State.serveTile]
  split
  · exact h
  · split
    · exact h.setLaunch
    · split
      · exact h
      · exact h.setLaunch

theorem State.Canon.serveOp {k} (h : s.Canon) : (s.serveOp k).Canon := by
  unfold State.serveOp
  split
  · exact h
  · split
    · exact h.serveTile.frame
    · exact h

theorem State.Canon.execTileNext {sc pd a p} (h : s.Canon) : (execTileNext sc pd a p s).Canon := by
  unfold Machine.execTileNext
  refine h.onIssue fun _ => ?_
  split
  · exact h
  · exact h.setFlags.serveTile.opFor

theorem State.Canon.execDispenserRefill {l die} (h : s.Canon) : (execDispenserRefill l die s).Canon := by
  unfold Machine.execDispenserRefill
  split
  · exact h
  · split
    · exact h.setLaunch.foldl fun _ _ h => h.serveOp
    · exact h

/-! ## From a launch record to a ticket -/

theorem State.Canon.hubTranslate {v x va n kind} (h : s.Canon) : (s.hubTranslate v x va n kind).2.Canon := by
  simp only [State.hubTranslate]
  split
  · exact h
  · split
    next e =>
      refine State.Canon.ofEq ?_ e
      split
      · exact h.stage2
      · exact h.walkBoth
    next e =>
      split
      next e1 =>
        refine State.Canon.ofEq (State.Canon.reach (State.Canon.ofEq ?_ e)) e1
        split
        · exact h.stage2
        · exact h.walkBoth
      next e1 =>
        refine State.Canon.ofEq (State.Canon.reach (State.Canon.ofEq ?_ e)) e1
        split
        · exact h.stage2
        · exact h.walkBoth

theorem State.Canon.physBytes {pa n} (h : s.Canon) : (s.physBytes pa n).2.Canon := by
  unfold State.physBytes
  split
  · exact h.anyBytes
  · exact h

theorem State.Canon.hubRead {v x va fuel n} (h : s.Canon) : (s.hubRead v x va fuel n).2.Canon := by
  induction fuel generalizing s va n with
  | zero => exact h
  | succ fuel ih =>
    simp only [State.hubRead]
    split
    · exact h
    · split
      next e => exact h.hubTranslate.ofEq e
      next e =>
        have h := h.hubTranslate.ofEq e
        split
        next e => exact (ih h.physBytes).ofEq e
        next e => exact (ih h.physBytes).ofEq e

theorem State.Canon.hubGet {v x va n} (h : s.Canon) : (s.hubGet v x va n).2.Canon := h.hubRead

theorem State.Canon.readRegions {v x r} (h : s.Canon) : (s.readRegions v x r).2.Canon := by
  unfold State.readRegions
  split
  · exact h
  · split
    next e => exact h.hubGet.ofEq e
    next e => exact h.hubGet.ofEq e

theorem State.Canon.readArgs {v x r} (h : s.Canon) : (s.readArgs v x r).2.Canon := by
  unfold State.readArgs
  split
  next e => exact h.hubGet.ofEq e
  next e =>
    have h := h.hubGet.ofEq e
    split
    · exact h
    · split
      next e => exact h.hubGet.ofEq e
      next e => exact h.hubGet.ofEq e

theorem State.Canon.checkRecord {v q} (h : s.Canon) : (s.checkRecord v q).Canon := by
  simp only [State.checkRecord]
  split
  · exact h.haltQueue
  · split
    · exact h.haltQueue
    · split
      next e => exact (h.hubGet.ofEq e).haltQueue
      next e =>
        have h := h.hubGet.ofEq e
        split
        · exact h.haltQueue
        · split
          next e => exact (h.readArgs.ofEq e).haltQueue
          next e =>
            have h := h.readArgs.ofEq e
            split
            next e => exact (h.readRegions.ofEq e).haltQueue
            next e => exact (h.readRegions.ofEq e).setLaunch.frame.modQueue.latchLaunch.refusedConds

theorem State.Canon.yieldSlot {v q} (h : s.Canon) : (s.yieldSlot v q).Canon := h.modQueue.bindNext.modQueue

/-! ## Drawing -/

theorem State.Canon.laneRead {t va fuel n} (h : s.Canon) : (s.laneRead t va fuel n).2.Canon := by
  induction fuel generalizing s va n with
  | zero => exact h
  | succ fuel ih =>
    simp only [State.laneRead]
    split
    · exact h
    · split
      next e => exact h.translate.ofEq e
      next e =>
        have h := h.translate.ofEq e
        split
        next e => exact (ih h.readPhys).ofEq e
        next e => exact (ih h.readPhys).ofEq e

theorem State.Canon.openPass {t} (h : s.Canon) : (s.openPass t).2.Canon := by
  simp only [State.openPass]
  split
  · exact h
  · split
    · exact h
    · split
      next e => exact h.laneRead.ofEq e
      next e =>
        have h := h.laneRead.ofEq e
        split
        · split
          · exact h.modLaunch
          · exact h
        · split
          · exact h.modLaunch
          · exact h

theorem State.Canon.emit {t p ws} (h : s.Canon) : (s.emit t p ws).1.Canon := by
  simp only [State.emit]
  split
  · exact h.modThr.ran
  · split
    · exact h.ranBad
    · exact h.modLaunch.modBlock.modThr.ran

theorem State.Canon.primOne {a t} (h : s.Canon) : (s.primOne a t).1.Canon := by
  unfold State.primOne
  split
  · exact h.ranBad
  · split
    · exact h.emit
    · exact h.ran

theorem State.Canon.execPrimEmit {sc a p} (h : s.Canon) : (execPrimEmit sc a p s).Canon := by
  unfold Machine.execPrimEmit
  refine h.onIssue fun _ => ?_
  dsimp only
  split
  · refine State.Canon.eachOr ?_ fun _ _ h => h.primOne
    split
    · split
      · exact h.openPass
      · exact h
    · exact h
  · refine State.Canon.eachOr ?_ fun _ _ h => h.ranBad
    split
    · split
      · exact h.openPass
      · exact h
    · exact h

theorem State.Canon.attrOne {i a v k t} (h : s.Canon) : (s.attrOne i a v k t).1.Canon := by
  unfold State.attrOne
  split
  · exact h.ranBad
  · split
    next e => exact (h.source.ofEq e).ranBad
    next e => exact (h.source.ofEq e).modThr.ran

theorem State.Canon.prepFrag {k : State → Issue → Nat → Prepared × State} {i t} (h : s.Canon)
    (hk : ∀ s a b, s.Canon → (k s a b).2.Canon) :
    (prepFrag k s i t).2.Canon := by
  unfold Machine.prepFrag
  split
  · exact hk _ _ _ h
  · exact h

theorem State.Canon.prepSrc {a mk i t} (h : s.Canon) : (prepSrc a mk s i t).2.Canon := by
  unfold Machine.prepSrc
  split
  next e => exact h.source.ofEq e
  next e => exact h.source.ofEq e

theorem State.Canon.execAttrIn {sc d c p} (h : s.Canon) : (execAttrIn sc d c p s).Canon := by
  unfold Machine.execAttrIn
  refine h.memWord fun _ _ _ h1 => h1.prepFrag (fun _ _ _ h2 => ?_)
  split
  · exact h2
  · exact h2

theorem State.Canon.execFragKill {sc p} (h : s.Canon) : (execFragKill sc p s).Canon := by
  unfold Machine.execFragKill
  refine h.onIssue fun _ => State.Canon.settle (h.eachOr (fun _ _ h2 => ?_))
  split
  · exact h2.leave
  · exact h2.ranBad

theorem State.Canon.texRecords {ts y} (h : s.Canon) : (s.texRecords ts y).Canon := by
  simp only [State.texRecords]
  split
  · exact h
  · exact h.tmLog.tmMiss

theorem State.Canon.prepTex {form d a lit x t} (h : s.Canon) : (prepTex form d a lit s x t).2.Canon := h

theorem State.Canon.texWord {form sc d a p lit} (h : s.Canon) : (texWord form sc d a p lit s).Canon := by
  refine State.Canon.memWord ?_ fun _ _ _ h => h.prepTex
  split
  · exact h.texRecords
  · exact h

theorem State.Canon.rasPut {c pa bs} (h : s.Canon) : (s.rasPut c pa bs).Canon := h.putPhys

theorem State.Canon.rasWrite {c ia bs} (h : s.Canon) : (s.rasWrite c ia bs).2.Canon := by
  simp only [State.rasWrite]
  split
  next e => exact h.stage2Place.ofEq e
  next e =>
    have h := h.stage2Place.ofEq e
    split
    · exact h.rasPut
    · split
      next e => exact h.stage2Place.ofEq e
      next e => exact (h.stage2Place.ofEq e).rasPut.rasPut

theorem State.Canon.rasPutGlobal {c va pa bs} (h : s.Canon) : (s.rasPutGlobal c va pa bs).Canon := h.putPhys

theorem State.Canon.rasGlobal {c va bs} (h : s.Canon) : (s.rasGlobal c va bs).2.Canon := by
  simp only [State.rasGlobal]
  split
  next e => exact h.translate.ofEq e
  next e =>
    have h := h.translate.ofEq e
    split
    · exact h.rasPutGlobal
    · split
      next e => exact h.translate.ofEq e
      next e => exact (h.translate.ofEq e).rasPutGlobal.rasPutGlobal

theorem State.Canon.rasFault {c detail f} (h : s.Canon) : (s.rasFault c detail f).Canon := h.modBlock.startHandler

theorem State.Canon.binStep {c n} (h : s.Canon) : (s.binStep c n).Canon := by
  induction n generalizing s with
  | zero => exact h
  | succ n ih =>
    simp only [State.binStep]
    split
    · exact h
    · split
      next e => exact (h.anyBytes.rasGlobal.ofEq e).rasFault
      next e => exact ih (h.anyBytes.rasGlobal.ofEq e).modBlock

theorem State.Canon.tbFill {c p half n x} (h : s.Canon) : (s.tbFill c p half n x).Canon := h.write

theorem State.Canon.startUnit {c p x} (h : s.Canon) : (s.startUnit c p x).2.Canon := by
  unfold State.startUnit
  split
  · split
    next e => exact h.rasBytes.ofEq e
    next e => exact (h.rasBytes.ofEq e).tbFill
  · split
    next e => exact h.readBlock.ofEq e
    next e => exact ((h.readBlock.ofEq e).setCmpErr.ite (h.readBlock.ofEq e)).foldl fun _ _ h => h.tbFill
  · exact h

theorem State.Canon.rasterUnits {c p z us} {run : State → RUnit → Option MemFault × State} (h : s.Canon)
    (hrun : ∀ s u, s.Canon → (run s u).2.Canon) : (s.rasterUnits c p z run us).Canon := by
  induction us generalizing s with
  | nil => exact h
  | cons u r ih =>
    rw [State.rasterUnits]
    split
    next e => exact ((hrun _ _ h).ofEq e).rasFault
    next e => exact ih ((hrun _ _ h).ofEq e).modBlock

theorem State.Canon.beginTile {c x p n} (h : s.Canon) : (s.beginTile c x p n).Canon := by
  unfold State.beginTile
  exact .modBlock (.foldl h fun _ _ h => h.tbFill.tbFill)

theorem State.Canon.startTile {c p} (h : s.Canon) : (s.startTile c p).Canon := by
  simp only [State.startTile]
  split
  · exact h
  · split
    · exact (h.rasterUnits (fun _ _ h => h.startUnit)).modBlock.feedAll
    · exact h.rasterUnits fun _ _ h => h.startUnit

theorem State.Canon.execTilePassStart {c} (h : s.Canon) : (execTilePassStart c s).Canon := by
  simp only [Machine.execTilePassStart]
  split
  · exact h
  · split
    · exact h
    · split
      · exact h
      · split
        · exact h
        · split
          · exact h.binStep
          · split
            · split
              · exact h
              · exact h.startTile
            · split
              · exact h
              · split
                · exact h
                · exact h.beginTile.startTile

theorem State.Canon.modPass {l f} (h : s.Canon) : (s.modPass l f).Canon := h.modLaunch

theorem State.Canon.discard {c p kind disp q} (h : s.Canon) : (s.discard c p kind disp q).Canon := by
  simp only [State.discard]
  split
  · exact h
  · exact (h.modPass.branch (·.tmLog) (·.tmMiss)).modBlock

theorem State.Canon.screenUnit {c p q u} (h : s.Canon) : (s.screenUnit c p q u).2.Canon := by
  simp only [State.screenUnit]
  split
  · exact h
  · split
    · exact h.discard
    · split
      · exact h.discard
      · exact h.rasWrite

theorem State.Canon.resolveUnit {c p x} (h : s.Canon) : (s.resolveUnit c p x).2.Canon := by
  unfold State.resolveUnit
  split
  · exact h.rasWrite
  · exact h.rasWrite
  · exact h.screenUnit

theorem State.Canon.targetCheck {c p target zsurf} (h : s.Canon) : (s.targetCheck c p target zsurf).Canon := by
  simp only [State.targetCheck]
  split
  · exact (h.ite h.tmLog).modPass
  · exact h

theorem State.Canon.writeStatus {c x p} (h : s.Canon) : (s.writeStatus c x p).Canon := by
  simp only [State.writeStatus]
  split
  · split
    · exact h.targetCheck
    · exact h
  · split
    next e => exact ((h.targetCheck.ite h).rasGlobal.ofEq e).rasFault
    next e => exact ((h.targetCheck.ite h).rasGlobal.ofEq e).modPass

theorem State.Canon.execTesseraResolve {c} (h : s.Canon) : (execTesseraResolve c s).Canon := by
  simp only [Machine.execTesseraResolve]
  split
  · exact h
  · split
    · exact h
    · split
      · exact h
      · split
        · exact h
        · split
          · split
            · exact h
            · split
              · split
                · exact (h.targetCheck.rasterUnits (fun _ _ h => h.resolveUnit)).modBlock
                · exact h.targetCheck.rasterUnits fun _ _ h => h.resolveUnit
              · split
                · exact (h.rasterUnits (fun _ _ h => h.resolveUnit)).modBlock
                · exact h.rasterUnits fun _ _ h => h.resolveUnit
          · split
            · exact h.writeStatus.finishLaunch
            · exact h

theorem State.Canon.skipUnit {c} (h : s.Canon) : (s.skipUnit c).Canon := h.modBlock

theorem State.Canon.resumeRaster {c mode} (h : s.Canon) : (s.resumeRaster c mode).Canon := by
  simp only [State.resumeRaster]
  split
  · exact h
  · split
    · split
      · exact h.modBlock.modBlock
      · split
        · exact h.modBlock.modPass.finishLaunch
        · exact h.modBlock.skipUnit
    · split
      · exact h.modBlock.modPass.finishLaunch
      · exact h.modBlock.skipUnit
    · split
      · exact h.modBlock.modPass.modBlock.modPass.finishLaunch
      · exact h.modBlock.modPass.modBlock

/-! ## The instructions of speculative tasks -/

theorem State.Canon.specWhere {t ok} {k : State → Ran} (h : s.Canon) (hk : ∀ s, s.Canon → (k s).1.Canon) :
    (s.specWhere t ok k).1.Canon := by
  unfold State.specWhere
  split
  · exact h.ran
  · split
    · exact hk _ h
    · exact h.ranBad

theorem State.Canon.spawnSpecOne {d a b t} (h : s.Canon) : (s.spawnSpecOne d a b t).1.Canon := by
  unfold State.spawnSpecOne
  refine h.specWhere fun _ h1 => ?_
  dsimp only
  split
  · exact h1.ranBad
  · split
    · split
      · exact h1.ranBad
      · exact h1.spawnFor
    · split
      · exact h1.ranBad
      · exact h1.spawnFor

theorem State.Canon.specOpOne {i sc d a b kind t} (h : s.Canon) : (s.specOpOne i sc d a b kind t).1.Canon := by
  unfold State.specOpOne
  refine h.specWhere fun _ h1 => ?_
  dsimp only
  split
  · exact h1.ranBad
  · split
    · exact (h1.setFlags.modThr.frame.branch (·.takeAbort) id).ran
    · split
      next e => exact (h1.setFlags.specAttempt.ofEq e).ran
      next e => exact (h1.setFlags.specAttempt.ofEq e).clearFlags.ranBad

theorem State.Canon.specEndOne {t} (h : s.Canon) : (s.specEndOne t).1.Canon := by
  unfold State.specEndOne
  refine h.specWhere fun _ h1 => ?_
  dsimp only
  split
  · exact h1.modTask.takeAbort.ran
  · exact h1.modTask.ran

theorem State.Canon.specCommitOne {i sc t} (h : s.Canon) : (s.specCommitOne i sc t).1.Canon := by
  unfold State.specCommitOne
  refine h.specWhere fun _ h1 => ?_
  dsimp only
  split
  · exact h1.setFlags.opFor.commitTask.afterTasks.ran
  · exact (h1.setFlags.opFor.branch (·.takeAbort) id).ran

theorem State.Canon.prepSpecTable {a x t} (h : s.Canon) : (prepSpecTable a s x t).2.Canon := by
  simp only [Machine.prepSpecTable]
  split
  · exact h
  · split
    · exact h
    · split
      · exact h
      · exact h

theorem State.Canon.execTaskAbort {t} (h : s.Canon) : (execTaskAbort t s).Canon := by
  unfold Machine.execTaskAbort
  split
  · exact h
  · split
    · exact h.modTask.abortNext.settle
    · exact h

/-! ## The picker and the end of a clause -/

theorem State.Canon.arriveAll {ts} (h : s.Canon) : (s.arriveAll ts).Canon := by
  unfold State.arriveAll
  refine h.foldl fun _ _ h1 => ?_
  split
  · exact h1
  · split
    · exact h1.modThr
    · exact h1

theorem State.Canon.raiseMismatch {t sc} (h : s.Canon) : (s.raiseMismatch t sc).Canon := h.raise

theorem State.Canon.ageAfter {on ready g cycles} (h : s.Canon) : (s.ageAfter on ready g cycles).Canon :=
  h.modThrs.modThrs.modThrs

theorem State.Canon.raiseCheck {g hdr sc legal word f} (h : s.Canon) : (s.raiseCheck g hdr sc legal word f).Canon :=
  h.raise

theorem State.Canon.open_ {g hdr y ws short} (h : s.Canon) : (s.open_ g hdr y ws short).Canon :=
  (h.foldl (fun _ _ h => h.observe)).modThrs.frame.setIssue

theorem State.Canon.issueTo {g l} (h : s.Canon) : (s.issueTo g l).Canon := by
  simp only [State.issueTo]
  split
  · exact h.raiseCheck
  · exact h.raiseCheck
  · exact h.raiseCheck
  · split
    · exact h.raiseCheck
    · exact h.open_

theorem State.Canon.takeRequests {ts} (h : s.Canon) : (s.takeRequests ts).Canon := by
  unfold State.takeRequests
  refine h.foldl fun _ _ h1 => ?_
  split
  · exact h1
  · split
    · exact h1.takeAbort
    · exact h1

theorem State.Canon.retryTasks {on} (h : s.Canon) : (s.retryTasks on).Canon := by
  unfold State.retryTasks
  split
  · exact h.afterTasks.settle
  · exact h

theorem State.Canon.pickOn {c p} (h : s.Canon) : (s.pickOn c p).Canon := by
  simp only [State.pickOn]
  split
  · exact h.retryTasks.takeRequests.arriveAll.raiseMismatch
  · split
    · exact h.retryTasks.takeRequests.arriveAll
    · exact h.retryTasks.takeRequests.arriveAll.ageAfter.issueTo

theorem State.Canon.wakeAgentFor {c more} (h : s.Canon) : (s.wakeAgentFor c more).Canon := by
  simp only [State.wakeAgentFor]
  split
  · exact h
  · split
    · exact h
    · split
      · exact h
      · exact h.modCore.setReg

theorem State.Canon.wakeAgent {c} (h : s.Canon) : (s.wakeAgent c).Canon := h.wakeAgentFor

theorem State.Canon.reissue {i} (h : s.Canon) : (s.reissue i).Canon := h.frame.setIssue

theorem State.Canon.execPick {c p} (h : s.Canon) : (execPick c p s).Canon := by
  simp only [Machine.execPick]
  split
  · split
    · exact h.frame
    · exact h.frame.reissue
    · exact (h.frame.branch (·.wakeAgent) id).pickOn
  · exact h

theorem State.Canon.afterWord {x} (h : s.Canon) : (s.afterWord x).Canon := by
  unfold State.afterWord
  split
  · exact h
  · extract_lets s1 i s2 s3
    have h1 : s1.Canon := h.modThrs
    have h2 : s2.Canon := h1.frame
    have h3 : s3.Canon := h2.modThrs.joinTests
    split
    · exact h1.setIssue
    · exact h3.frame

theorem State.Canon.eretTest {c} (h : s.Canon) : (s.eretTest c).Canon := by
  simp only [State.eretTest]
  split
  · refine State.Canon.endHandler ?_
    split
    · exact h.vacateGates
    · exact h
  · exact h

theorem State.Canon.atCompletion {o} (h : s.Canon) : (s.atCompletion o).Canon := by
  unfold State.atCompletion
  split
  · exact h.stopSlice
  · exact h

theorem State.Canon.execOperationComplete {op} (h : s.Canon) : (execOperationComplete op s).Canon := by
  unfold Machine.execOperationComplete
  split
  · exact h
  · split
    · exact h
    · exact h.atCompletion.completeOp.eretTest.settle

/-! ## The reset of a virtual device -/

theorem State.Canon.showStep {v step c} (h : s.Canon) : (s.showStep v step c).Canon := h.modCore

theorem State.Canon.startStep {v step} (h : s.Canon) : (s.startStep v step).Canon :=
  h.modVdev.foldl fun _ _ h => h.showStep

theorem State.Canon.createVdev {v} (h : s.Canon) : (s.createVdev v).Canon := by
  unfold State.createVdev
  split
  · exact h
  · exact h.modVdev.frame

theorem State.Canon.clearVdev {v} (h : s.Canon) : (s.clearVdev v).Canon :=
  (((h.foldl (fun _ _ h => h.dropLaunch)).modVdev.foldl (fun _ _ h => h.frame)).frame.foldl
    (fun _ _ h => h.bindNext)).createVdev.irq

theorem State.Canon.startResets (h : s.Canon) : s.startResets.Canon := h.foldl fun _ _ h => h.startStep.ite h

theorem State.Canon.beginReset {v} (h : s.Canon) : (s.beginReset v).Canon := by
  unfold State.beginReset
  split
  · exact h
  · exact h.modVdev.frame.startResets

theorem State.Canon.advanceReset {v n} (h : s.Canon) : (s.advanceReset v n).Canon := by
  induction n generalizing s with
  | zero => exact h
  | succ n ih =>
    rw [State.advanceReset]
    split
    · exact h
    · split
      · exact h.clearVdev.frame.startResets
      · exact ih ((h.foldl fun _ _ h => h.dropLaunch).ite h).startStep

theorem State.Canon.rstAck {c w} (h : s.Canon) : (s.rstAck c w).Canon := by
  simp only [State.rstAck]
  split
  · exact h
  · split
    · exact h.showStep
    · exact h.modCore.modVdev.advanceReset

theorem State.Canon.testResets (h : s.Canon) : s.testResets.Canon := h.foldl fun _ _ h => h.advanceReset

theorem State.Canon.execVdevReset {v} (h : s.Canon) : (execVdevReset v s).Canon := h.beginReset.advanceReset.ite h

/-! ## Pre-emption: halt, save and restore -/

/-- Bytes that move with their cores are stored one by one into an empty memory. -/
theorem CoreMap.wf_bytes (m : CoreMap) (src dst : List Nat) (b : Mem) : (m.bytes src dst b).wf = true :=
  Mem.wf_foldl_write rfl

theorem State.Canon.moveCores {src dst} (h : s.Canon) : (s.moveCores src dst).Canon :=
  ⟨h.1, CoreMap.wf_bytes .., CoreMap.wf_bytes .., CoreMap.wf_bytes ..⟩

theorem State.Canon.haltIssue {k i} (h : s.Canon) : (s.haltIssue k i).Canon := h.frame

theorem State.Canon.landOp {k} (h : s.Canon) : (s.landOp k).Canon := by
  unfold State.landOp
  split
  · split
    · exact h.frame
    · exact h
  · exact h

theorem State.Canon.drainOp {k} (h : s.Canon) : (s.drainOp k).Canon := by
  unfold State.drainOp
  split
  · exact h
  · split
    · exact h.completeOp
    · exact h.completeOp
    · exact h.completeOp
    · exact h.completeOp
    · exact h.completeOp
    · exact h.completeOp
    · exact h.completeOp
    · exact h.completeOp
    · exact h.completeOp
    · exact h.completeOp
    · exact h.frame
    · exact h.withdraw
    · exact h.landOp

theorem State.Canon.haltGang {x} (h : s.Canon) : (s.haltGang x).Canon :=
  (h.foldl (fun _ _ h => h.haltIssue)).foldl fun _ _ h => h.drainOp

theorem State.Canon.putBlockByte {c o b} (h : s.Canon) : (s.putBlockByte c o b).Canon := by
  have ⟨hm, hs, ha, hw⟩ := h
  simp only [State.putBlockByte]
  split
  · exact h.modWarp
  · split
    · exact h.setBlock
    · split
      · exact h.setBlock
      · split
        · exact ⟨hm, Mem.wf_write _ _ _ hs, ha, hw⟩
        · split
          · exact ⟨hm, hs, Mem.wf_write _ _ _ ha, hw⟩
          · split
            · exact ⟨hm, hs, ha, Mem.wf_write _ _ _ hw⟩
            · exact h

theorem State.Canon.loadPage {x k bs} (h : s.Canon) : (s.loadPage x k bs).Canon := by
  unfold State.loadPage
  split
  · refine h.foldl fun _ _ h1 => ?_
    dsimp only
    split
    · split
      · exact h1
      · exact h1.putBlockByte
    · exact h1
  · exact h

theorem State.Canon.fillOpen {l} (h : s.Canon) : (s.fillOpen l).2.Canon := by
  induction l generalizing s with
  | nil => exact h
  | cons b r ih =>
    cases b with
    | some b => exact ih h
    | none => exact ih h.anyWord

theorem State.Canon.savePlace {v fb k kind} (h : s.Canon) : (s.savePlace v fb k kind).2.Canon := by
  simp only [State.savePlace]
  split
  next e =>
    refine State.Canon.ofEq ?_ e
    split
    · exact h.reach
    · exact h.stage2Place
  next e =>
    refine State.Canon.ofEq ?_ e
    split
    · exact h.reach
    · exact h.stage2Place

theorem State.Canon.putPage {pa bs} (h : s.Canon) : (s.putPage pa bs).Canon := h.putPhys

theorem State.Canon.saveFault {v ia restore} (h : s.Canon) : (s.saveFault v ia restore).Canon := h.modVdev.irq

theorem State.Canon.loseVdev {v} (h : s.Canon) : (s.loseVdev v).Canon :=
  ((h.foldl (fun _ _ h => h.dropLaunch)).foldl (fun _ _ h => h.haltQueue)).modVdev.beginReset

theorem State.Canon.gangDone {l load} (h : s.Canon) : (s.gangDone l load).Canon := h.frame

theorem State.Canon.freeCores {l cs} (h : s.Canon) : (s.freeCores l cs).Canon := h.foldl fun _ _ h => h.modCore

theorem State.Canon.tryFreeze {v} (h : s.Canon) : (s.tryFreeze v).Canon := by
  simp only [State.tryFreeze]
  split
  · exact h.modVdev
  · exact h

theorem State.Canon.finishSave {l x fb} (h : s.Canon) : (s.finishSave l x fb).Canon :=
  (h.moveCores.freeCores.setLaunch.gangDone.branch (·.yieldSlot.bindNext) id).tryFreeze

theorem State.Canon.saveFrom {l x fb k n} (h : s.Canon) : (s.saveFrom l x fb k n).Canon := by
  induction n generalizing s k with
  | zero => exact h.finishSave
  | succ n ih =>
    rw [State.saveFrom]
    split
    next e =>
      have h := h.savePlace.ofEq e
      split
      · exact h.loseVdev
      · exact h.modLaunch.saveFault
    next e => exact ih (h.savePlace.ofEq e).fillOpen.putPage

theorem State.Canon.saveRun {l} (h : s.Canon) : (s.saveRun l).Canon := by
  unfold State.saveRun
  split
  · exact h
  · split
    · exact h.saveFrom
    · exact h

theorem State.Canon.preempt {l} (h : s.Canon) : (s.preempt l).Canon := by
  unfold State.preempt
  split
  · exact h
  · split
    · exact h.haltGang.modLaunch.saveRun
    · exact h.setLaunch
    · exact h.setLaunch
    · exact h

theorem State.Canon.modCtx {v x f} (h : s.Canon) : (s.modCtx v x f).Canon := by
  unfold State.modCtx
  split
  · exact h.setCtx
  · exact h

theorem State.Canon.testLock {v x w} (h : s.Canon) : (s.testLock v x w).Canon := by
  unfold State.testLock
  split
  · exact h.modCtx
  · exact h

theorem State.Canon.testLocks (h : s.Canon) : s.testLocks.Canon := h.foldl fun _ _ h => h.testLock.ite h

theorem State.Canon.restoreOp {k} (h : s.Canon) : (s.restoreOp k).Canon := by
  simp only [State.restoreOp]
  split
  · exact h
  · split
    · split
      · exact h.frame
      · exact h
    · split
      · exact h.setGate.frame
      · split
        · exact h.frame
        · exact h.setGate
    · exact h.serveOp
    · exact h

theorem State.Canon.finishRestore {l x} (h : s.Canon) : (s.finishRestore l x).Canon := by
  simp only [State.finishRestore]
  split
  · exact ((h.moveCores.setLaunch.foldl (fun _ _ h => h.testLock)).foldl
      (fun _ _ h => h.restoreOp)).afterTasks.gangDone.finishLaunch.preempt
  · exact ((h.moveCores.setLaunch.foldl (fun _ _ h => h.testLock)).foldl
      (fun _ _ h => h.restoreOp)).afterTasks.gangDone.finishLaunch

theorem State.Canon.restoreFrom {l x fb k n} (h : s.Canon) : (s.restoreFrom l x fb k n).Canon := by
  induction n generalizing s k with
  | zero => exact h.finishRestore
  | succ n ih =>
    rw [State.restoreFrom]
    split
    next e =>
      have h := h.savePlace.ofEq e
      split
      · exact h.loseVdev
      · exact h.modLaunch.saveFault
    next e => exact ih (h.savePlace.ofEq e).physBytes.loadPage

theorem State.Canon.restoreRun {l} (h : s.Canon) : (s.restoreRun l).Canon := by
  unfold State.restoreRun
  split
  · exact h
  · split
    · exact h.restoreFrom
    · exact h

theorem State.Canon.execTimeSliceExpiry {l} (h : s.Canon) : (execTimeSliceExpiry l s).Canon := by
  unfold Machine.execTimeSliceExpiry
  split
  · exact h
  · split
    · exact h.preempt
    · exact h

theorem State.Canon.serveAction {v} (h : s.Canon) : (s.serveAction v).Canon :=
  (h.foldl (fun _ _ h => h.wakeAgentFor)).modVdev

theorem State.Canon.execVdevSavefaultRetry {v} (h : s.Canon) : (execVdevSavefaultRetry v s).Canon :=
  (h.serveAction.foldl (fun _ _ h => h.saveRun.restoreRun)).ite h

theorem State.Canon.execVdevSavefaultUnmappable {v} (h : s.Canon) : (execVdevSavefaultUnmappable v s).Canon := by
  unfold Machine.execVdevSavefaultUnmappable
  split
  · split
    · exact h.serveAction.foldl fun _ _ h => h.modLaunch.saveRun.restoreRun
    · exact h.serveAction.loseVdev
  · exact h

/-! ## Trap handlers -/

theorem State.Canon.execEret {sc p} (h : s.Canon) : (execEret sc p s).Canon := by
  unfold Machine.execEret
  refine h.onIssue fun _ => ?_
  split
  · exact h
  · exact h.leaveIssues.modBlock.eretTest.settle

theorem State.Canon.stopWarp {w} (h : s.Canon) : (s.stopWarp w).Canon :=
  (h.foldl (fun _ _ h => h.modThrs)).leaveIssues.modThrs

theorem State.Canon.ctxRead {i sc d a t} (h : s.Canon) : (s.ctxRead i sc d a t).1.Canon := by
  simp only [State.ctxRead]
  split
  · exact h.ranBad
  · split
    · exact h.ranBad
    · exact h.stopWarp.setFlags.opFor.ran

theorem State.Canon.putItem {t x v} (h : s.Canon) : (s.putItem t x v).Canon := by
  simp only [State.putItem]
  split
  · exact h.setVec
  · exact h.setUni
  · exact h.modThr
  · exact h.modThr
  · exact h.modThr
  · exact h.modWarp.joinTest
  · exact h.modThr
  · exact h.modThr
  · exact h

theorem State.Canon.ctxWrite {i sc a b lanes t} (h : s.Canon) : (s.ctxWrite i sc a b lanes t).1.Canon := by
  simp only [State.ctxWrite]
  split
  · exact h.ranBad
  · split
    · exact h.ranBad
    · exact (h.stopWarp.foldl (fun _ _ h => h.putItem)).setFlags.opFor.ran

theorem State.Canon.execCtxWr {sc a b p} (h : s.Canon) : (execCtxWr sc a b p s).Canon := by
  unfold Machine.execCtxWr
  refine h.onIssue fun _ => ?_
  dsimp only
  split
  · split
    · exact h.ctxWrite
    · exact h.ctxWrite.raiseMany
  · exact h

theorem State.Canon.faultRead {i sc d t} (h : s.Canon) : (s.faultRead i sc d t).Canon := h.modBlock.setFlags.opFor

theorem State.Canon.skipClause {t} (h : s.Canon) : (s.skipClause t).Canon := by
  simp only [State.skipClause]
  split
  next e => exact (h.fetch.ofEq e).raise
  next e => exact (h.fetch.ofEq e).modThr

theorem State.Canon.dropRecorded {t} (h : s.Canon) : (s.dropRecorded t).Canon := by
  unfold State.dropRecorded
  split
  · exact h.dropDeferred
  · exact h

theorem State.Canon.resumeSkip {t} (h : s.Canon) : (s.resumeSkip t).Canon := by
  simp only [State.resumeSkip]
  split
  · split
    · exact h.dropRecorded.modThr.modThr
    · exact h.dropRecorded.modThr.modThr
  · split
    · exact h.dropRecorded.modThr
    · exact h.dropRecorded.modThr.skipClause

theorem State.Canon.resumeContinue {t} (h : s.Canon) : (s.resumeContinue t).Canon := h.modThr

theorem State.Canon.resumeKill {t} (h : s.Canon) : (s.resumeKill t).Canon := by
  simp only [State.resumeKill]
  split
  · exact h.dropRecorded.exitThread
  · split
    · exact h.dropRecorded.modThr.modTask
    · exact h.dropRecorded.modThr.modTask
    · exact h.dropRecorded.modThr.modTask
    · exact h.dropRecorded.takeAbort

theorem State.Canon.resumeOne {mode t} (h : s.Canon) : (s.resumeOne mode t).Canon := by
  unfold State.resumeOne
  split
  · exact h.resumeContinue
  · exact h.dropRecorded.resumeContinue
  · exact h.resumeSkip
  · exact h.resumeKill

theorem State.Canon.resume {mode name lanes t} (h : s.Canon) : (s.resume mode name lanes t).1.Canon := by
  simp only [State.resume]
  split
  · exact ((h.resumeRaster.ite h).resumeCmds.foldl (fun _ _ h => h.resumeOne)).drainCore.joinTests.settle.ran
  · split
    · exact h.resumeRaster.settle.ran
    · exact h.ranBad

theorem State.Canon.resumeMode {mode sc a b p} (h : s.Canon) : (resumeMode mode sc a b p s).Canon :=
  h.onIssue fun _ => h.eachOr (fun _ _ h => h.resume)

/-! ## System registers and the firmware agent -/

theorem State.Canon.putLegacy {v x w} (h : s.Canon) : (s.putLegacy v x w).Canon := h.modCtx

theorem State.Canon.putOwner {v x w} (h : s.Canon) : (s.putOwner v x w).Canon := by
  unfold State.putOwner
  split
  · exact h.modCtx
  · exact h

theorem State.Canon.putTrap {v x w} (h : s.Canon) : (s.putTrap v x w).Canon := h.modCtx

theorem State.Canon.putTtb {v x w} (h : s.Canon) : (s.putTtb v x w).Canon := h.modCtx

theorem State.Canon.putTmptr {v w} (h : s.Canon) : (s.putTmptr v w).Canon := h.modVdev

theorem State.Canon.putTmcount {v w} (h : s.Canon) : (s.putTmcount v w).Canon := h.modVdev

theorem State.Canon.sysWrite {t n w} (h : s.Canon) : (s.sysWrite t n w).Canon := by
  simp only [State.sysWrite]
  split
  · exact h
  · split
    · exact h.putLegacy
    · exact h.putOwner
    · exact h.putTrap
    · exact h.putTtb
    · exact h.putTmptr
    · exact h.putTmcount
    · exact h.modCore
    · exact h.rstAck
    · exact h

theorem State.Canon.srdOne {i sc d n t} (h : s.Canon) : (s.srdOne i sc d n t).1.Canon := by
  unfold State.srdOne
  split
  · exact h.ranBad
  · exact h.setRegs.ran

theorem State.Canon.swrOne {a n t} (h : s.Canon) : (s.swrOne a n t).1.Canon := by
  unfold State.swrOne
  split
  · exact h.ranBad
  · exact h.sysWrite.ran

theorem State.Canon.invalidate {core kind v x a} (h : s.Canon) : (s.invalidate core kind v x a).Canon := h.modCore

theorem State.Canon.tlbInvOne {i sc a b t} (h : s.Canon) : (s.tlbInvOne i sc a b t).1.Canon := by
  simp only [State.tlbInvOne]
  split
  · exact h.ranBad
  · exact (h.foldl (fun _ _ h => h.invalidate)).setFlags.opFor.ran

theorem State.Canon.zeroStorage {c} (h : s.Canon) : (s.zeroStorage c).Canon := by
  obtain ⟨hm, hs, ha, hw⟩ := h
  exact ⟨hm, Mem.wf_clear _ _ _ hs, Mem.wf_clear _ _ _ ha, Mem.wf_clear _ _ _ hw⟩

theorem State.Canon.startWarp {x c rank w} (h : s.Canon) : (s.startWarp x c rank w).Canon :=
  h.setWarp.foldl fun _ _ h => h.setThr

theorem State.Canon.install {l x c} (h : s.Canon) : (s.install l x c).Canon :=
  (h.clearBlock.zeroStorage.setBlock.foldl (fun _ _ h => h.startWarp)).setThr.modCore.testLock.modLaunch

theorem State.Canon.answerOps {ids} (h : s.Canon) : (s.answerOps ids).Canon := by
  unfold State.answerOps
  refine h.foldl fun _ _ h1 => ?_
  split
  · exact h1.frame
  · exact h1

theorem State.Canon.installOn {l c} (h : s.Canon) : (s.installOn l c).Canon := by
  simp only [State.installOn]
  split
  · exact h
  · split
    · exact h.install.answerOps
    · exact h

theorem State.Canon.tryPlace {l} (h : s.Canon) : (s.tryPlace l).Canon := by
  simp only [State.tryPlace]
  split
  · exact h.modLaunch
  · split
    · exact (h.modLaunch.foldl (fun _ _ h => h.installOn)).modLaunch
    · exact (h.modLaunch.foldl (fun _ _ h => h.installOn)).modLaunch.preempt

theorem State.Canon.tryRestore {l} (h : s.Canon) : (s.tryRestore l).Canon := by
  simp only [State.tryRestore]
  split
  · exact h
  · split
    · split
      · exact h.modLaunch.restoreRun
      · exact h
    · exact h

theorem State.Canon.claim {c} (h : s.Canon) : (s.claim c).2.Canon := by
  simp only [State.claim]
  split
  · exact h
  · split
    · exact (h.preempt.ite h).modCore.modLaunch.tryPlace.tryRestore
    · split
      · exact h.preempt
      · exact h

theorem State.Canon.ask {i sc t acc} (h : s.Canon) : (s.ask i sc t acc).Canon := h.setFlags.opFor

theorem State.Canon.blkStart {i sc a t} (h : s.Canon) : (s.blkStart i sc a t).1.Canon := by
  simp only [State.blkStart]
  split
  · exact h.ranBad
  · split
    · exact h.ask.tryPlace.ran
    · exact h.ranBad

theorem State.Canon.stopLaunch {l x} (h : s.Canon) : (s.stopLaunch l x).Canon := h.answerOps.abortLaunch

theorem State.Canon.blkStop {i sc a t} (h : s.Canon) : (s.blkStop i sc a t).1.Canon := by
  simp only [State.blkStop]
  split
  · exact h.ranBad
  · exact h.ask.stopLaunch.answerOps.ran

theorem State.Canon.ctxSave {i sc a t} (h : s.Canon) : (s.ctxSave i sc a t).1.Canon := by
  unfold State.ctxSave
  split
  · exact h.ranBad
  · split
    · exact h.ranBad
    · exact h.ask.preempt.ran

theorem State.Canon.ctxLoad {i sc a t} (h : s.Canon) : (s.ctxLoad i sc a t).1.Canon := by
  simp only [State.ctxLoad]
  split
  · exact h.ranBad
  · split
    · split
      · exact h.ranBad
      · exact h.ask.tryRestore.ran
    · split
      · exact h.ranBad
      · exact h.ask.tryRestore.ran

theorem State.Canon.vdevDrain {i sc a t} (h : s.Canon) : (s.vdevDrain i sc a t).1.Canon := by
  simp only [State.vdevDrain]
  split
  · exact h.ranBad
  · exact h.modVdev.ask.ran

theorem State.Canon.zeroCore {c} (h : s.Canon) : (s.zeroCore c).Canon := (h.zeroStorage.branch (·.modBlock) id).frame

theorem State.Canon.poolClr {i sc a t} (h : s.Canon) : (s.poolClr i sc a t).1.Canon := by
  simp only [State.poolClr]
  split
  · exact h.ranBad
  · exact ((h.zeroCore.ite h).branch (·.stepWork) id).setFlags.opFor.ran

/-! ## Events of the hardware queues -/

theorem State.Canon.seekSlot {v q} (h : s.Canon) : (s.seekSlot v q).Canon := by
  simp only [State.seekSlot]
  split
  · exact h.modQueue.frame.bindQueue
  · split
    · exact h.modQueue.frame
    · split
      · exact h.modQueue.frame.preempt
      · exact h.modQueue.frame.yieldSlot

theorem State.Canon.overrunHalt {v q} (h : s.Canon) : (s.overrunHalt v q).Canon := h.modQueue.leaveSlot

theorem State.Canon.notified {v q} (h : s.Canon) : (s.notified v q).Canon := by
  simp only [State.notified]
  split
  · exact h
  · split
    · exact h.overrunHalt
    · split
      · exact h.seekSlot
      · exact h

theorem State.Canon.execNotify {v q tail} (h : s.Canon) : (execNotify v q tail s).Canon := h.modQueue.notified.ite h

theorem State.Canon.execQStateSkip {v q} (h : s.Canon) : (execQStateSkip v q s).Canon := h.modQueue.notified.ite h

theorem State.Canon.execRecordCheck {v q} (h : s.Canon) : (execRecordCheck v q s).Canon := by
  simp only [Machine.execRecordCheck]
  split
  · exact h
  · split
    · exact h.tryPlace
    · split
      · exact h.leaveSlot
      · exact h.checkRecord

theorem State.Canon.execSlotOverdue {v q} (h : s.Canon) : (execSlotOverdue v q s).Canon := by
  simp only [Machine.execSlotOverdue]
  split
  · split
    · exact h.modQueue.irq
    · exact h
  · exact h

/-! ## Bezel -/

theorem State.Canon.bezelFlag {m} (h : s.Canon) : (s.bezelFlag m).Canon := h.frame

theorem State.Canon.asCompositor {owner} {k : State → State} (h : s.Canon) (hk : ∀ s, s.Canon → (k s).Canon) :
    (s.asCompositor owner k).Canon := by
  unfold State.asCompositor
  split
  · exact hk _ h
  · exact h.bezelFlag.irq

theorem State.Canon.modDisplay {d f} (h : s.Canon) : (s.modDisplay d f).Canon := h.frame

theorem State.Canon.execBzTselWrite {owner v} (h : s.Canon) : (execBzTselWrite owner v s).Canon :=
  h.asCompositor fun _ h => h.frame

theorem State.Canon.execBzTdataWrite {owner k v} (h : s.Canon) : (execBzTdataWrite owner k v s).Canon :=
  h.asCompositor fun _ h => h.frame

theorem State.Canon.applyFill {f} (h : s.Canon) : (s.applyFill f).Canon := by
  obtain ⟨hm, hs, ha, hw⟩ := h
  exact ⟨Mem.wf_foldl hm fun _ _ hm => Mem.wf_setNum _ _ _ _ hm, hs, ha, hw⟩

theorem State.Canon.completeFill (h : s.Canon) : s.completeFill.Canon := by
  unfold State.completeFill
  split
  · exact h
  · exact h.applyFill.frame

theorem State.Canon.execBzFill {owner v} (h : s.Canon) : (execBzFill owner v s).Canon := by
  unfold Machine.execBzFill
  refine h.asCompositor fun _ h1 => ?_
  split
  · exact h1
  · split
    · exact h1.bezelFlag
    · exact h1.frame

theorem State.Canon.resetMap {d w l} (h : s.Canon) : (s.resetMap d w l).Canon := by
  obtain ⟨hm, hs, ha, hw⟩ := h
  exact State.Canon.modDisplay ⟨Mem.wf_writeN _ _ _ hm, hs, ha, hw⟩

theorem State.Canon.setMode {d m} (h : s.Canon) : (s.setMode d m).Canon := (h.resetMap.ite h).modDisplay.testLocks

theorem State.Canon.execBzModeWrite {owner d v carried} (h : s.Canon) :
    (execBzModeWrite owner d v carried s).Canon := by
  unfold Machine.execBzModeWrite
  refine h.asCompositor fun _ h1 => ?_
  dsimp only
  split
  · exact h1
  · split
    · exact h1.bezelFlag
    · split
      · exact h1.modDisplay
      · exact h1.setMode

theorem State.Canon.latchPresent {o d} (h : s.Canon) : (s.latchPresent o d).Canon := by
  simp only [State.latchPresent]
  split
  · exact h.frame.frame
  · split
    · exact h.frame.frame
    · exact h.frame.frame.frame

theorem State.Canon.latchAll {d} (h : s.Canon) : (s.latchAll d).Canon := h.foldl fun _ _ h => h.latchPresent.ite h

theorem State.Canon.execPrBWrite {o d v} (h : s.Canon) : (execPrBWrite o d v s).Canon := h.frame.ite h

theorem State.Canon.capturePixel {x i j w} (h : s.Canon) : (s.capturePixel x i j w).Canon := by
  unfold State.capturePixel
  split
  · exact h
  · split
    next e => exact (h.stage2Place.ofEq e).bezelFlag
    next e =>
      have h := h.stage2Place.ofEq e
      split
      · exact h.bezelFlag
      · exact h.putPhys

theorem State.Canon.capture {d g} (h : s.Canon) : (s.capture d g).Canon := by
  simp only [State.capture]
  split
  · exact h
  · split
    · exact h
    · split
      · exact h.foldl fun _ _ h => h.capturePixel
      · split
        · exact h.foldl fun _ _ h => h.capturePixel
        · exact (h.foldl (fun _ _ h => h.capturePixel)).hubSignal

theorem State.Canon.refresh {d} (h : s.Canon) : (s.refresh d).Canon :=
  ((h.modDisplay.branch (·.completeFill) id).frame.latchAll.branch (·.bezelFlag) id).modDisplay.frame.foldl
    fun _ _ h => h.capture

theorem State.Canon.execBezelRefresh {d} (h : s.Canon) : (execBezelRefresh d s).Canon := by
  simp only [Machine.execBezelRefresh]
  split
  · split
    · split
      · exact h.setMode.refresh
      · exact h.setMode
    · split
      · exact h.refresh
      · exact h
  · exact h

theorem State.Canon.execDisplayLinkTrained {d} (h : s.Canon) : (execDisplayLinkTrained d s).Canon := by
  simp only [Machine.execDisplayLinkTrained]
  split
  · split
    · split
      · exact h.setMode.modDisplay.refresh
      · exact h.setMode
    · split
      · exact h.modDisplay.refresh
      · exact h
  · exact h

/-! ## Hotness, quarantine and bandwidth -/

theorem State.Canon.hotNotify {block req v} (h : s.Canon) : (s.hotNotify block req v).Canon := by
  unfold State.hotNotify
  split
  · exact h.frame
  · exact (h.write.ite h).frame.irq

theorem State.Canon.execRemoteSectorRequest {die req v pa} (h : s.Canon) :
    (execRemoteSectorRequest die req v pa s).Canon := by
  simp only [Machine.execRemoteSectorRequest]
  split
  · split
    · exact h.frame.hotNotify
    · exact h.frame
  · exact h

theorem State.Canon.execMemHotCfgWrite {v} (h : s.Canon) : (execMemHotCfgWrite v s).Canon := h.frame

theorem State.Canon.execMemQpush {v} (h : s.Canon) : (execMemQpush v s).Canon := by
  simp only [Machine.execMemQpush]
  split
  · exact h
  · split
    · exact h.frame
    · exact h.frame

/-! ## Requests from other modules -/

theorem State.Canon.answer {a} (h : s.Canon) : (s.answer a).Canon := h.frame

theorem State.Canon.refuse {window} (h : s.Canon) : (s.refuse window).Canon := h.answer.irq

theorem State.Canon.requested {r pa} (h : s.Canon) : (s.requested r pa).2.Canon := by
  unfold State.requested
  split
  · split
    · exact h.ioRead
    · exact h
  · exact h.physBytes

theorem State.Canon.serveMemory {r pa} (h : s.Canon) : (s.serveMemory r pa).Canon := by
  unfold State.serveMemory
  refine State.Canon.answer ?_
  split
  · exact h.requested
  · split
    · exact h.requested
    · exact h.requested.ioWrite
    · exact h.requested.write

theorem State.Canon.serveSignal {r i} (h : s.Canon) : (s.serveSignal r i).Canon := by
  simp only [State.serveSignal]
  split
  · exact h.moduleRelease.sigWrite.answer
  · exact h.moduleRelease.sigWrite.answer
  · exact (h.moduleRelease.sigWrite.ite h).answer
  · split
    · exact h.answer
    · exact h.frame
  · exact h.answer

theorem State.Canon.serve {r} (h : s.Canon) : (s.serve r).Canon := by
  simp only [State.serve]
  split
  · exact h.refuse
  · split
    · exact h.serveSignal
    · split
      next e => exact (h.ingressMemory.ofEq e).refuse
      next e => exact (h.ingressMemory.ofEq e).serveMemory

theorem State.Canon.forward {v r} (h : s.Canon) : (s.forward v r).Canon := h.frame

theorem State.Canon.execFabricIngressRequest {r} (h : s.Canon) : (execFabricIngressRequest r s).Canon := by
  simp only [Machine.execFabricIngressRequest]
  split
  · exact (h.forward.ite h.modVdev).answer
  · exact h.serve

theorem State.Canon.endStub {v} (h : s.Canon) : (s.endStub v).Canon := h.modVdev.foldl fun _ _ h => h.refuse

theorem State.Canon.execLinkRouteFailure {op completed} (h : s.Canon) :
    (execLinkRouteFailure op completed s).Canon := by
  unfold Machine.execLinkRouteFailure
  split
  · exact h
  · split
    · exact h
    · split
      · exact h.completeOp.settle
      · exact h.frame.park

/-! ## The hypervisor's events -/

theorem State.Canon.execVdevFreeze {v} (h : s.Canon) : (execVdevFreeze v s).Canon :=
  h.ite (h.modVdev.foldl (fun _ _ h => h.preempt)).tryFreeze

theorem State.Canon.putLaunch {i} (h : s.Canon) : (s.putLaunch i).Canon := by
  obtain ⟨hm, hs, ha, hw⟩ := h
  exact ⟨hm, Mem.wf_foldl_write hs, Mem.wf_foldl_write ha, Mem.wf_foldl_write hw⟩

theorem State.Canon.loadLaunches {v i} (h : s.Canon) : (s.loadLaunches v i).Canon :=
  (h.foldl (fun _ _ h => h.dropLaunch)).foldl fun _ _ h => h.putLaunch

theorem State.Canon.loadImage {v i} (h : s.Canon) : (s.loadImage v i).Canon :=
  (h.modVdev.foldl (fun _ _ h => h.frame)).frame.loadLaunches

theorem State.Canon.wakeVdev {v} (h : s.Canon) : (s.wakeVdev v).Canon :=
  ((h.foldl (fun _ _ h => h.latchLaunch)).foldl (fun _ _ h => h.bindNext)).modVdev.foldl fun _ _ h => h.serve

theorem State.Canon.execVdevThaw {v} (h : s.Canon) : (execVdevThaw v s).Canon := by
  simp only [Machine.execVdevThaw]
  split
  · exact h
  · split
    · exact h.modVdev
    · split
      · exact h.loadImage.modVdev.frame.wakeVdev
      · exact h.modVdev

theorem State.Canon.copyImage {v i} (h : s.Canon) : (s.copyImage v i).Canon := by
  unfold State.copyImage
  split
  · exact h.modVdev
  · exact h

theorem State.Canon.execVdevShareWrite {v w} (h : s.Canon) : (execVdevShareWrite v w s).Canon := h.ite h.modVdev

theorem State.Canon.execVdevSigWrite {v w} (h : s.Canon) : (execVdevSigWrite v w s).Canon := h.ite h.modVdev

theorem State.Canon.idleQueue {v q} (h : s.Canon) : (s.idleQueue v q).Canon := by
  simp only [State.idleQueue]
  split
  · exact h
  · split
    · exact h.leaveSlot
    · split
      · exact h.modQueue
      · exact h

theorem State.Canon.execQCtlWrite {v q w} (h : s.Canon) : (execQCtlWrite v q w s).Canon := h.modQueue.idleQueue.ite h

theorem State.Canon.putRing {v q w} (h : s.Canon) : (s.putRing v q w).Canon := by
  simp only [State.putRing]
  split
  · exact h
  · exact h.modQueue

theorem State.Canon.execCtxCreate {v x} (h : s.Canon) : (execCtxCreate v x s).Canon := h.modVdev

theorem State.Canon.execCtxDestroy {v x} (h : s.Canon) : (execCtxDestroy v x s).Canon :=
  h.modVdev.ite (h.modVdev.foldl (fun _ _ h => h.invalidate))

theorem State.Canon.execCtxSelect {v x} (h : s.Canon) : (execCtxSelect v x s).Canon := h.modVdev

theorem State.Canon.aperture {v} {put : State → Nat → State} (h : s.Canon) (hput : ∀ s a, s.Canon → (put s a).Canon) :
    (s.aperture v put).Canon := by
  unfold State.aperture
  split
  · exact hput _ _ h
  · exact h

theorem State.Canon.execCtxLegacyWrite {v w} (h : s.Canon) : (execCtxLegacyWrite v w s).Canon :=
  h.aperture fun _ _ h => h.putLegacy

theorem State.Canon.execCtxOwnerWrite {v w} (h : s.Canon) : (execCtxOwnerWrite v w s).Canon :=
  h.aperture fun _ _ h => h.putOwner

theorem State.Canon.execDrainPcieTimeout {v} (h : s.Canon) : (execDrainPcieTimeout v s).Canon := by
  unfold Machine.execDrainPcieTimeout
  refine (h.foldl (fun _ _ h1 => ?_)).ite h
  split
  · split
    · exact h1.writeResult.retire.settle
    · exact h1
  · exact h1

/-! ## Writes of the hub's registers -/

theorem Out.Canon.afterStep {o : Out} (ho : o.Canon) (h : s.Canon) : (afterStep o s).Canon := by
  cases o with
  | next s => exact ho
  | fault r => exact h
  | refused r => exact h

theorem State.Canon.writeDoorbell {v off w} (h : s.Canon) : (s.writeDoorbell v off w).Canon := by
  unfold State.writeDoorbell
  split
  · split
    · exact Out.Canon.afterStep h.execNotify h
    · split
      · exact Out.Canon.afterStep h.execQStateSkip h
      · exact h
    · exact h
  · exact h

theorem State.Canon.writeCtl {v w} (h : s.Canon) : (s.writeCtl v w).Canon := by
  simp only [State.writeCtl]
  split
  · exact (h.endStub.ite h).modVdev
  · split
    · exact Out.Canon.afterStep ((h.endStub.ite h).modVdev.execVdevReset) (h.endStub.ite h).modVdev
    · exact Out.Canon.afterStep ((h.endStub.ite h).modVdev.execVdevFreeze) (h.endStub.ite h).modVdev
    · exact Out.Canon.afterStep ((h.endStub.ite h).modVdev.execVdevThaw) (h.endStub.ite h).modVdev
    · exact (h.endStub.ite h).modVdev

theorem State.Canon.writeSavefault {v w} (h : s.Canon) : (s.writeSavefault v w).Canon := by
  unfold State.writeSavefault
  split
  · exact Out.Canon.afterStep h.execVdevSavefaultRetry h
  · exact Out.Canon.afterStep h.execVdevSavefaultUnmappable h
  · exact h

theorem State.Canon.writeCtxcmd {v w} (h : s.Canon) : (s.writeCtxcmd v w).Canon := by
  simp only [State.writeCtxcmd]
  split
  · exact Out.Canon.afterStep h.execCtxCreate h
  · exact Out.Canon.afterStep h.execCtxDestroy h
  · exact Out.Canon.afterStep h.execCtxSelect h
  · exact h.modVdev

theorem State.Canon.writeQueueReg {v off w} (h : s.Canon) : (s.writeQueueReg v off w).Canon := by
  unfold State.writeQueueReg
  split
  · exact h.putRing
  · exact Out.Canon.afterStep h.execQCtlWrite h
  · exact h

theorem State.Canon.writeControl {v off w} (h : s.Canon) : (s.writeControl v off w).Canon := by
  unfold State.writeControl
  split
  · exact h.writeQueueReg
  · split
    · exact h.writeCtl
    · exact Out.Canon.afterStep h.execVdevShareWrite h
    · exact Out.Canon.afterStep h.execVdevSigWrite h
    · exact h.modVdev
    · exact h.modVdev
    · exact h.modVdev
    · exact h.writeSavefault
    · exact h.modVdev
    · exact h.putTmptr
    · exact h.putTmcount
    · exact h.modVdev
    · exact h.writeCtxcmd
    · exact Out.Canon.afterStep h.execCtxLegacyWrite h
    · exact Out.Canon.afterStep h.execCtxOwnerWrite h
    · exact h.aperture fun _ _ h => h.putTrap
    · exact h.aperture fun _ _ h => h.putTtb
    · exact h

theorem State.Canon.turnProxy {n u} (h : s.Canon) : (s.turnProxy n u).Canon := h.frame

theorem State.Canon.writeFabric {off w} (h : s.Canon) : (s.writeFabric off w).Canon := by
  unfold State.writeFabric
  split
  · exact h.frame
  · split
    · exact h.frame
    · split
      · exact h.turnProxy
      · exact h

theorem State.Canon.writePresent {o off w} (h : s.Canon) : (s.writePresent o off w).Canon := by
  simp only [State.writePresent]
  split
  · split
    · exact h.frame
    · exact Out.Canon.afterStep h.execPrBWrite h
    · exact h.frame
    · exact h
  · exact h

theorem State.Canon.writeGlobal {off w} (h : s.Canon) : (s.writeGlobal off w).Canon := by
  unfold State.writeGlobal
  split
  · exact Out.Canon.afterStep h.execMemHotCfgWrite h
  · exact h.frame
  · exact h.frame
  · exact Out.Canon.afterStep h.execMemQpush h
  · exact h.frame
  · split
    · exact h.frame
    · exact h
  · exact h

theorem State.Canon.writeDisplay {owner off w} (h : s.Canon) : (s.writeDisplay owner off w).Canon := by
  simp only [State.writeDisplay]
  split
  · exact Out.Canon.afterStep h.choose.execBzModeWrite h
  · exact h.asCompositor fun _ h => h.modDisplay
  · exact h.asCompositor fun _ h => h
  · exact h

theorem State.Canon.writeBezel {owner off w} (h : s.Canon) : (s.writeBezel owner off w).Canon := by
  unfold State.writeBezel
  split
  · exact h.writeDisplay
  · split
    · exact Out.Canon.afterStep h.execBzTselWrite h
    · exact Out.Canon.afterStep h.execBzTdataWrite h
    · exact Out.Canon.afterStep h.execBzTdataWrite h
    · exact Out.Canon.afterStep h.execBzTdataWrite h
    · exact Out.Canon.afterStep h.execBzTdataWrite h
    · exact h.asCompositor fun _ h => h.frame
    · exact Out.Canon.afterStep h.execBzFill h
    · exact h.asCompositor fun _ h => h.frame
    · exact h

theorem State.Canon.writeReg {pa owner w} (h : s.Canon) : (s.writeReg pa owner w).Canon := by
  simp only [State.writeReg]
  split
  · exact h
  · split
    · exact h.writeDoorbell
    · split
      · exact h.writeControl
      · split
        · exact h.writeFabric
        · split
          · exact h.writePresent
          · split
            · exact h
            · split
              · exact h.writeGlobal
              · split
                · exact h.writeBezel
                · exact h

theorem State.Canon.storeReg {pa owner bs} (h : s.Canon) : (s.storeReg pa owner bs).Canon := h.writeReg

theorem State.Canon.drainAll (h : s.Canon) : s.drainAll.Canon := h.drainWhere

theorem State.Canon.execRegisterStore {pa owner bs} (h : s.Canon) : (execRegisterStore pa owner bs s).Canon :=
  h.storeReg.drainAll

theorem State.Canon.execRegisterWrite {pa owner v} (h : s.Canon) : (execRegisterWrite pa owner v s).Canon :=
  h.writeReg.drainAll

/-! ## Assay, hand-over and starts -/

theorem State.Canon.modAssay {f} (h : s.Canon) : (s.modAssay f).Canon := h.frame

theorem State.Canon.putArea {k x} (h : s.Canon) : (s.putArea k x).Canon := by
  obtain ⟨hm, hs, ha, hw⟩ := h
  exact ⟨Mem.wf_writeN _ _ _ hm, hs, ha, hw⟩

theorem State.Canon.restartAgents (h : s.Canon) : s.restartAgents.Canon := h.frame

theorem State.Canon.parkAgents (h : s.Canon) : s.parkAgents.Canon := h.foldl fun _ _ h => h.modCore.ite h

theorem State.Canon.tryCommit (h : s.Canon) : s.tryCommit.Canon := by
  simp only [State.tryCommit]
  split
  · split
    · exact h.parkAgents.modAssay.restartAgents
    · exact h.parkAgents
  · exact h

theorem State.Canon.execHandoverStage {bs} (h : s.Canon) : (execHandoverStage bs s).Canon := by
  unfold Machine.execHandoverStage
  split
  · exact h
  · split
    · exact h.modAssay
    · exact h.putArea.modAssay.frame

theorem State.Canon.quiesce (h : s.Canon) : s.quiesce.Canon := by
  unfold State.quiesce
  split
  · exact h.modAssay.tryCommit
  · exact h

theorem State.Canon.respond {x} (h : s.Canon) : (s.respond x).Canon := by
  unfold State.respond
  split
  · exact h.modAssay
  · exact h

theorem State.Canon.otherRequest (h : s.Canon) : s.otherRequest.Canon := h.respond

theorem State.Canon.fresh {x warm} (h : s.Canon) : (s.fresh x warm).Canon := by
  obtain ⟨hm, hs, ha, hw⟩ := h
  exact ⟨Mem.wf_keep hm, Mem.wf_keep hs, Mem.wf_keep ha, Mem.wf_keep hw⟩

theorem State.Canon.startAll {y capped start} (h : s.Canon) : (s.startAll y capped start).Canon :=
  h.putArea.modAssay.frame.restartAgents

theorem State.Canon.enterSafe {i} (h : s.Canon) : (s.enterSafe i).Canon := h.modAssay.frame

theorem State.Canon.coldStart {i} (h : s.Canon) : (s.coldStart i).Canon := by
  simp only [State.coldStart]
  split
  · exact h.fresh.startAll
  · exact h.fresh.enterSafe

theorem State.Canon.execWarmStart {i} (h : s.Canon) : (execWarmStart i s).Canon := by
  simp only [Machine.execWarmStart]
  split
  · exact h.coldStart
  · split
    · exact h.fresh.startAll
    · exact h.fresh.modAssay

theorem State.Canon.assayUpset (h : s.Canon) : s.assayUpset.Canon := h.modAssay

/-! ## Every instruction and device step -/

theorem State.Canon.exec {i} (h : s.Canon) : Out.Canon (exec i s) := by
  cases i with
  | mov | movi | movl | iadd | iaddi | isub | imul | imulh | imulhUi | imad | imin | iminUi | imax | imaxUi | iabs
   | and_ | andi | or_ | ori | xor | xori | shl | shr | sar | shfiShl | shfiShr | shfiSar | shfiRol | rol | bfe
   | bfi | popc | clz | brev | fadd | fsub | fmul | ffma | fmin | fmax | fabs | fneg | frcp | frsq | fsqrt | fex2
   | flg2 | fsin | fcos | ffloor | fceil | ftrunc | frint | ffract | hadd2 | hmul2 | hfma2 | badd2 | bmul2 | bfma2
   | idp4 => exact h.aluReg
  | sel => exact h.onIssue fun _ => h.eachOr (fun _ _ h => h.selOne)
  | isetp | isetpi | fsetp => exact h.cmpReg
  | cvt => exact h.execCvt
  | plop => exact h.onIssue fun _ => h.eachOr (fun _ _ h => h.setPreds.ran)
  | pmovGet | winget | qstat | featq => exact h.onIssue fun _ => h.eachOr (fun _ _ h => h.setReg.ran)
  | pmovPut => exact h.onIssue fun _ => h.eachOr (fun _ _ h => h.pmovPut)
  | ldUi8 | ldI8 | ldUi16 | ldI16 | ld32 | ld64 | ld128 => exact h.memWord fun _ _ _ h => h.prepLoad
  | st8 | st16 | st32 | st64 | st128 => exact h.memWord fun _ _ _ h => h.prepStore
  | lds32 | lds64 | lds128 => exact h.memWord fun _ _ _ h => h.prepLds
  | sts32 | sts64 | sts128 => exact h.memWord fun _ _ _ h => h.prepSts
  | ldc32 => exact h.memWord fun _ _ _ h => h.prepLdc
  | atomAdd | atomMin | atomMax | atomMinUi | atomMaxUi | atomAnd | atomOr | atomXor | atomExch | atomInc
   | atomFadd => exact h.memWord fun _ _ _ h => h.prepAtom
  | atomCas => exact h.memWord fun _ _ _ h => h.prepCas
  | redAdd | redMin | redMax | redAnd | redOr | redXor | redFadd => exact h.memWord fun _ _ _ h => h.prepRed
  | bind => exact h.execBind
  | unbind => exact h.onIssue fun _ => h.eachOr (fun _ _ h => h.modBlock.ran)
  | acq | rel | gateAcq | gateTry | gateRel => exact h.memWord fun _ _ _ h => h.prepObj
  | sigLd | sigSt | sigAdd | sigCas | sigWait => exact h.memWord fun _ _ _ h => h.prepSig
  | fence | xfence | filStop | hallQPix => exact h.memWord fun _ _ _ h => h
  | cflush | cinv => exact h.memWord fun _ _ _ h => h.prepMaint
  | prefetch | nop => exact h.onIssue fun _ => h
  | mmaT8 | mmaI8 | mmaE4 | mmaE5 | mmaBf | mmaH | mmaF32 | mmaT8s | mmaI8s => exact h.mmaWord
  | wload => exact h.execWload
  | accZero => exact h.execAccZero
  | accRd => exact h.execAccRd
  | accWr => exact h.execAccWr
  | accScale => exact h.execAccScale
  | accCvtF32I32 => exact h.execAccCvtF32I32
  | accCvtI32F32 => exact h.execAccCvtI32F32
  | rowmax => exact h.execRowmax
  | rowsum => exact h.execRowsum
  | tstore | tstoreAdd => exact h.drainWord
  | winset => exact h.execWinset
  | copy => exact h.execCopy
  | copyX24 => exact h.execCopyX24
  | filLoad => exact h.execFilLoad
  | filRun => exact h.execFilRun
  | qcfg => exact h.execQcfg
  | gnode => exact h.execGnode
  | gedge => exact h.execGedge
  | garm => exact h.execGarm
  | garmClr => exact h.execGarmClr
  | gwait => exact h.execGwait
  | gset => exact h.onIssue fun _ => h.eachOr (fun _ _ h => h.modBlock.graphStep.wakeGwait.ran)
  | engStat =>
    exact h.onIssue fun _ => h.eachOr (fun _ _ h =>
      (h.setReg.branch (fun h => h.foldl (fun _ _ h => h.observe)) id).ran)
  | bra => exact h.onIssue fun _ => h.eachMember (fun _ _ h => h.transfer)
  | brm => exact h.execBrm
  | call => exact h.onIssue fun _ => h.eachMember (fun _ _ h => h.callTo)
  | callI => exact h.onIssue fun _ => h.eachOr (fun _ _ h => h.callIOne)
  | ret => exact h.onIssue fun _ => (h.eachOr (fun _ _ h => h.retOne)).settle
  | exit => exact h.onIssue fun _ => (h.eachOr (fun _ _ h => h.leave)).settle
  | jinit => exact h.onIssue fun _ => h.eachOr (fun _ _ h => h.modWarp.ran)
  | jwait => exact h.onIssue fun _ => h.eachOr (fun _ _ h => h.joinWait.ran)
  | jleave => exact h.onIssue fun _ => h.eachOr (fun _ _ h => h.joinLeave.ran)
  | brk => exact h.execBrk
  | barSync | barArrive => exact h.barWord fun _ _ h => h.barArrive
  | barWait => exact h.barWord fun _ _ h => h.barWait
  | barInit => exact h.execBarInit
  | shfl => exact h.execShfl
  | vote => exact h.onIssue fun _ => h.setPreds.branch id (·.setReg)
  | redux => exact h.execRedux
  | scan => exact h.execScan
  | setdecl => exact h.execSetdecl
  | quota => exact h.execQuota
  | tileNext => exact h.execTileNext
  | spawn => exact h.onIssue fun _ => h.eachOr (fun _ _ h => h.spawnOne)
  | yield => exact h.onIssue fun _ => h.modThrs
  | s2r => exact h.onIssue fun _ => h.eachOr (fun _ _ h => h.s2rOne)
  | trap => exact h.onIssue fun _ => h.modThrs.raise
  | spawnSpec => exact h.onIssue fun _ => h.eachOr (fun _ _ h => h.spawnSpecOne)
  | specOp => exact h.onIssue fun _ => h.eachOr (fun _ _ h => h.specOpOne)
  | specEnd => exact h.onIssue fun _ => h.eachOr (fun _ _ h => h.specEndOne)
  | specCommit => exact h.onIssue fun _ => (h.eachOr (fun _ _ h => h.specCommitOne)).settle
  | specAbort => exact h.onIssue fun _ => h.eachOr (fun _ _ h => h.specWhere (fun _ h => h.takeAbort.ran))
  | specDrain => exact h.onIssue fun _ => h.eachOr (fun _ _ h => h.specWhere (fun _ h => h.setFlags.opFor.ran))
  | specTable => exact h.memWord fun _ _ _ h => h.prepSpecTable
  | brx => exact h.onIssue fun _ => h.eachOr (fun _ _ h => h.brxOne)
  | primEmit => exact h.execPrimEmit
  | attrEmit => exact h.onIssue fun _ => h.eachOr (fun _ _ h => h.attrOne)
  | attrIn => exact h.execAttrIn
  | texS | texL | texF | texG => exact h.texWord
  | tbLd => exact h.memWord fun _ _ _ h => h.prepFrag (fun _ _ _ h => h)
  | tbSt | tbBlend | depthT => exact h.memWord fun _ _ _ h => h.prepFrag (fun _ _ _ h => h.prepSrc)
  | fragKill => exact h.execFragKill
  | hallQGrant => exact h.memWord fun _ _ _ h => h.prepSrc
  | srd => exact h.onIssue fun _ => h.eachOr (fun _ _ h => h.srdOne)
  | swr => exact h.onIssue fun _ => h.eachOr (fun _ _ h => h.swrOne)
  | eret => exact h.execEret
  | ctxRd => exact h.onIssue fun _ => h.eachOr (fun _ _ h => h.ctxRead)
  | ctxWr => exact h.execCtxWr
  | ctxSave => exact h.onIssue fun _ => h.eachOr (fun _ _ h => h.ctxSave)
  | ctxLoad => exact h.onIssue fun _ => h.eachOr (fun _ _ h => h.ctxLoad)
  | tlbInv => exact h.onIssue fun _ => h.eachOr (fun _ _ h => h.tlbInvOne)
  | wfi => exact h.onIssue fun _ => h.eachOr (fun _ _ h => h.modCore.tryCommit.ran)
  | agentClaim => exact h.onIssue fun _ => h.eachOr (fun _ _ h => h.claim.setFlags.opFor.ran)
  | blkStart => exact h.onIssue fun _ => h.eachOr (fun _ _ h => h.blkStart)
  | blkStop => exact h.onIssue fun _ => h.eachOr (fun _ _ h => h.blkStop)
  | vdevDrain => exact h.onIssue fun _ => h.eachOr (fun _ _ h => h.vdevDrain)
  | poolClr => exact h.onIssue fun _ => h.eachOr (fun _ _ h => h.poolClr)
  | faultRd => exact h.onIssue fun _ => h.eachOr (fun _ _ h => h.faultRead.ran)
  | resumeContinue | resumeSkip | resumeKill => exact h.resumeMode
  | pick => exact h.execPick
  | operationComplete => exact h.execOperationComplete
  | refillArrival => exact h.execRefillArrival
  | brxEntryArrival => exact h.execBrxEntryArrival
  | spawnBinTimer => exact h.execSpawnBinTimer
  | binLaunch => exact h.launchBin.retrySpawns.feedAll.ite h
  | dispenserRefill => exact h.execDispenserRefill
  | notify => exact h.execNotify
  | qStateSkip => exact h.execQStateSkip
  | recordCheck => exact h.execRecordCheck
  | slotOverdue => exact h.execSlotOverdue
  | timeSliceExpiry => exact h.execTimeSliceExpiry
  | preemptionRequest => exact h.preempt
  | vdevSavefaultRetry => exact h.execVdevSavefaultRetry
  | vdevSavefaultUnmappable => exact h.execVdevSavefaultUnmappable
  | remoteSectorRequest => exact h.execRemoteSectorRequest
  | hotnessDecay => exact h.ite h.frame
  | memHotCfgWrite => exact h.execMemHotCfgWrite
  | hostSignalLoad => exact h.frame
  | memQpush => exact h.execMemQpush
  | memQpop => exact h.takeQpop
  | engineCommandStart => exact h.execEngineCommandStart
  | sliceElementDelivery => exact h.execSliceElementDelivery
  | graphNodeFinish => exact h.runNode.wakeGwait.settle.ite h
  | taskAbort => exact h.execTaskAbort
  | tilePassStart => exact h.execTilePassStart
  | tesseraResolve => exact h.execTesseraResolve
  | bezelRefresh => exact h.execBezelRefresh
  | lockedRefresh => exact h.foldl fun _ _ h => h.latchPresent.ite h
  | bzFill => exact h.execBzFill
  | bzFillComplete => exact h.completeFill
  | bzTselWrite => exact h.execBzTselWrite
  | bzTdataWrite => exact h.execBzTdataWrite
  | bzModeWrite => exact h.execBzModeWrite
  | displayLinkTrained => exact h.execDisplayLinkTrained
  | prBWrite => exact h.execPrBWrite
  | fabricIngressRequest => exact h.execFabricIngressRequest
  | stubThawReport => exact (h.foldl (fun _ _ h => h.forward)).modVdev.ite h
  | linkRouteFailure => exact h.execLinkRouteFailure
  | bandwidthPublication => exact h.frame.foldl fun _ _ h => h.modCore
  | vdevReset => exact h.execVdevReset
  | vdevFreeze => exact h.execVdevFreeze
  | vdevThaw => exact h.execVdevThaw
  | vdevStubClear => exact h.endStub.ite h
  | vdevShareWrite => exact h.execVdevShareWrite
  | vdevSigWrite => exact h.execVdevSigWrite
  | qCtlWrite => exact h.execQCtlWrite
  | ctxCreate => exact h.execCtxCreate
  | ctxSelect => exact h.execCtxSelect
  | ctxDestroy => exact h.execCtxDestroy
  | ctxLegacyWrite => exact h.execCtxLegacyWrite
  | ctxOwnerWrite => exact h.execCtxOwnerWrite
  | sysRstAck => exact h.rstAck
  | drainPcieTimeout => exact h.execDrainPcieTimeout
  | hostSignalStore => exact h.releaseAt.sigWrite.ite h
  | registerWrite => exact h.execRegisterWrite
  | getVersion | getCapabilities | negotiateAlgorithms | getDigests | getCertificate | challenge
   | getMeasurements => exact h.respond
  | assayExtend => exact h.modAssay.ite h
  | handoverStage => exact h.execHandoverStage
  | handoverTimeout => exact h.tryCommit.branch (fun h => h.modAssay.foldl (fun _ _ h => h.modCore)) id
  | coldStart => exact h.coldStart
  | warmStart => exact h.execWarmStart

/-! ## Register errors, upsets and corrections -/

theorem State.Canon.checkRegs {i x} (h : s.Canon) : (s.checkRegs i x).Canon := by
  unfold State.checkRegs
  split
  · exact h
  · exact h.raise

theorem State.Canon.upset {a} (h : s.Canon) : (s.upset a).Canon := by
  unfold State.upset
  split
  · exact h
  · exact h.frame

theorem State.Canon.correct (h : s.Canon) : s.correct.Canon := h.frame

theorem State.Canon.parityError {c} (h : s.Canon) : (s.parityError c).Canon := by
  unfold State.parityError
  split
  · exact h.doubleFault
  · exact h

/-! ## What a partition does -/

theorem Out.Canon.thenDo {o : Out} {k : State → State} (ho : o.Canon) (hk : ∀ s, s.Canon → (k s).Canon) :
    (thenDo o k).Canon := by
  cases o with
  | next s => exact hk s ho
  | fault r => trivial
  | refused r => trivial

theorem State.Canon.turn (h : s.Canon) : s.turn.Canon := h.frame

theorem State.Canon.pickStep (h : s.Canon) : s.pickStep.Canon := by
  unfold State.pickStep
  refine Out.Canon.thenDo h.exec fun _ h1 => ?_
  split
  · exact h1
  · exact h1.turn

theorem State.Canon.dropClause (h : s.Canon) : s.dropClause.Canon := h.frame

theorem State.Canon.countWord {i x} (h : s.Canon) : (s.countWord i x).Canon := by
  simp only [State.countWord]
  split
  · split
    · exact h.modThrs
    · exact h.modThrs.raise
  · exact h

theorem State.Canon.wordStep {i} (h : s.Canon) : (s.wordStep i).Canon := by
  unfold State.wordStep
  split
  · exact h.dropClause
  · split
    · exact h.countWord.checkRegs.exec.thenDo fun _ h => h.frame.afterWord
    · exact h.dropClause

theorem State.Canon.partStep (h : s.Canon) : s.partStep.Canon := by
  unfold State.partStep
  split
  · split
    · exact h.turn
    · exact h.wordStep
  · exact h.pickStep

theorem State.Canon.goOn (h : s.Canon) : s.goOn.Canon := h.testResets.tryCommit

theorem State.Canon.outside {x} (h : s.Canon) : (s.outside x).Canon := by
  unfold State.outside
  split
  · exact h.upset
  · exact h.correct
  · exact h.parityError
  · exact h.assayUpset
  · exact h.testConds
  · exact h.copyImage
  · exact h.quiesce
  · exact h.otherRequest
  · exact h

/-! ## One step of the module -/

theorem State.Canon.step (h : s.Canon) : Out.Canon (step s) := by
  unfold Machine.step
  split
  · exact Out.Canon.thenDo h.frame.exec fun _ h => h.goOn
  · exact h.frame.execRegisterWrite
  · exact h.frame.execRegisterStore
  · exact h.frame
  · exact h.frame.outside.goOn
  · split
    · exact trivial
    · split
      · exact Out.Canon.thenDo h.partStep fun _ h => h.goOn
      · exact h

end

/-- Settles O25: a step is a chain of the model's functions, and each of them keeps the canonical form. -/
theorem everyStepKeepsTheCanonicalForm : Obligations.EveryStepKeepsTheCanonicalForm := by
  intro s t hmem hscratch haccm hwbuf e
  have h : Out.Canon (step s) := State.Canon.step ⟨hmem, hscratch, haccm, hwbuf⟩
  rw [e] at h
  exact h

end Sys2Proof.Machine

/-! # What a write logs of its path -/

namespace Sys2Proof.Machine

/-- The entry that a write leaves in the coherence order: on a path through this module's own ingress (`loopPath`) it
stands as a FAB write, with the issuing path kept as its home. -/
theorem State.write_wlog (s : State) (party path obj a : Nat) (bs : List Byte) :
    (s.write party path obj a bs).wlog =
      { serial := s.serial + 1, addr := a, old := s.bytesAt a bs.length, new := bs
        path := if path < 16 then path else pathFab, party := party, obj := obj, home := path % 16 } :: s.wlog := rfl

/-- The write at the head of a write's log has the path FAB where it went through this module's own ingress. -/
theorem State.write_loopPath_path (s : State) (party q obj a : Nat) (bs : List Byte) :
    ((s.write party (loopPath q) obj a bs).wlog.head?.map WriteEv.path) = some pathFab := by
  simp [State.write_wlog, loopPath]

/-- Refutes O54: a thread's LANE store that goes through this module's own ingress has the path `loopPath pathLane`, 16,
and is logged with the path FAB, 4; the statement, which sets no bound on the path, has it logged with the path 16. -/
theorem not_memoryAndItsOrder : ¬ Obligations.MemoryAndItsOrder := by
  unfold Obligations.MemoryAndItsOrder
  rintro ⟨⟨hwrite, -⟩, -⟩
  obtain ⟨-, -, -, -, hlog⟩ := hwrite State.reset 0 (loopPath pathLane) 0 0 [1] rfl rfl (.inl (by decide))
  have hpath : some pathFab = some (loopPath pathLane) := by
    rw [← State.write_loopPath_path State.reset 0 pathLane 0 0 [1], hlog]
    rfl
  exact absurd hpath (by decide)

end Sys2Proof.Machine

namespace Sys2Proof.Machine

/-! # What reset leaves -/

@[simp] theorem Tab.get_nil {α : Type} (k : Nat) (d : α) : Tab.get ([] : Tab α) k d = d := rfl

theorem Bezel.surf_empty (h : Nat) : Bezel.empty.surf h = 0xFF * 2 ^ 128 := Tab.get_nil h _

theorem Bezel.grant_empty (n : Nat) : Bezel.empty.grant n = 0xFF := Tab.get_nil n _

/-- Settles O24: every table is empty at reset, so that an accessor gives its default, whose values are the spec's. -/
theorem resetLeavesTheStatedValues : Obligations.ResetLeavesTheStatedValues := by
  refine ⟨rfl, rfl, rfl, rfl, rfl, rfl, rfl, rfl, rfl, fun _ => rfl, fun _ => ⟨rfl, rfl, rfl, rfl, rfl, rfl⟩,
    fun _ => ⟨rfl, ?core, rfl, rfl⟩, fun _ _ => ⟨rfl, rfl, rfl, ?queue⟩, rfl, rfl, rfl, rfl,
    fun _ hn => List.getD_replicate _ hn, fun h => ?surfaces, fun n => ?grants, rfl, rfl, rfl, rfl⟩
  case core => show (0x3F0000 : Dword).toNat % 8 = 0; decide
  case queue => show (0xFFFFFFFF0000000B : Dword).getLsbD 4 = false; decide
  case surfaces =>
    have absent : surfOf (0xFF * 2 ^ 128) = none := by decide
    exact (congrArg surfOf (Bezel.surf_empty h)).trans absent
  case grants =>
    have empty : grantOf 0xFF = none := by decide
    exact (congrArg grantOf (Bezel.grant_empty n)).trans empty

end Sys2Proof.Machine

namespace Sys2Proof.Machine

/-! # Threads changed together -/

theorem State.modThrs_cons (s : State) (t : Nat) (ts : List Nat) (f : Thread → Thread) :
    s.modThrs (t :: ts) f = (s.modThr t f).modThrs ts f := rfl

theorem State.modThrs_thr (s : State) (ts : List Nat) (f : Thread → Thread) (h : ts.Nodup) (k : Nat) :
    (s.modThrs ts f).thr k = if k ∈ ts then f (s.thr k) else s.thr k := State.modEach_thr s ts (fun _ => f) h k

/-- Only the threads change. -/
theorem State.modThrs_eq (s : State) (ts : List Nat) (f : Thread → Thread) :
    s.modThrs ts f = { s with threads := (s.modThrs ts f).threads } := State.modEach_eq s ts fun _ => f

@[simp] theorem State.modThrs_cur (s : State) (ts : List Nat) (f : Thread → Thread) : (s.modThrs ts f).cur = s.cur := by
  rw [State.modThrs_eq]

@[simp] theorem State.modThrs_issues (s : State) (ts : List Nat) (f : Thread → Thread) :
    (s.modThrs ts f).issues = s.issues := by rw [State.modThrs_eq]

/-- A state that differs from another only in tables that the bookkeeping of join registers, barriers and gates changes,
and in its threads only by what `f` forgets of a thread. -/
structure State.Alike (f : Thread → Thread) (s t : State) : Prop where
  rest : t = { s with
    threads := t.threads, blocks := t.blocks, ops := t.ops, rels := t.rels, launches := t.launches, vdevs := t.vdevs }
  thr : ∀ k, f (t.thr k) = f (s.thr k)

section

variable {f : Thread → Thread} {s t u : State}

theorem State.Alike.refl (f : Thread → Thread) (s : State) : s.Alike f s := ⟨rfl, fun _ => rfl⟩

theorem State.Alike.trans (h : s.Alike f t) (h' : t.Alike f u) : s.Alike f u :=
  ⟨h'.rest.trans (by rw [h.rest]), fun k => (h'.thr k).trans (h.thr k)⟩

theorem State.Alike.foldl {α : Type} {g : State → α → State} (hg : ∀ (s : State) a, s.Alike f (g s a)) (l : List α) (s : State) :
    s.Alike f (l.foldl g s) :=
  List.foldlRecOn l g (State.Alike.refl f s) fun _ h a _ => h.trans (hg _ a)

/-- Where the threads stay as they are. -/
theorem State.Alike.ofThreads (h : t.threads = s.threads) (hr : t = { s with
    threads := t.threads, blocks := t.blocks, ops := t.ops, rels := t.rels, launches := t.launches, vdevs := t.vdevs }) :
    s.Alike f t := ⟨hr, fun k => by simp only [State.thr, h]⟩

theorem State.Alike.modThr {g : Thread → Thread} {n : Nat} (hg : ∀ x, f (g x) = f x) :
    s.Alike f (s.modThr n g) := by
  refine ⟨rfl, fun k => ?_⟩
  rw [State.thr_modThr]
  split
  · next e => rw [hg, e]
  · rfl

theorem State.Alike.modThrs {g : Thread → Thread} {ts : List Nat} (hg : ∀ x, f (g x) = f x) :
    s.Alike f (s.modThrs ts g) := State.Alike.foldl (fun _ _ => State.Alike.modThr hg) ts s

/-- A field of a thread that `f` does not forget is the same. -/
theorem State.Alike.field {α : Type} (h : s.Alike f t) (g : Thread → α) (hg : ∀ x, g (f x) = g x) (k : Nat) :
    g (t.thr k) = g (s.thr k) := by rw [← hg (t.thr k), h.thr, hg]

theorem State.Alike.issues (h : s.Alike f t) : t.issues = s.issues := by rw [h.rest]
theorem State.Alike.cur (h : s.Alike f t) : t.cur = s.cur := by rw [h.rest]

end

/-! # Release tests of join registers -/

/-- A thread without the join registers that hold it. -/
def Thread.unjoined (th : Thread) : Thread := { th with jwait := [] }

theorem State.alike_joinTest (s : State) (w n : Nat) : s.Alike Thread.unjoined (s.joinTest w n) := by
  unfold State.joinTest
  extract_lets
  split
  · exact State.Alike.modThrs fun _ => rfl
  · exact State.Alike.refl ..

theorem State.alike_joinTests (s : State) (ts : List Nat) : s.Alike Thread.unjoined (s.joinTests ts) :=
  State.Alike.foldl (fun s _ => State.Alike.foldl (fun s n => s.alike_joinTest _ n) _ s) ts s

/-! # The step of a partition whose clause is in progress -/

/-- Where nothing is due, the partition that moves moves. -/
theorem step_partStep {s : State} (ha : s.agenda = []) (hsafe : s.safe = false) (hstart : s.started = true) :
    step s = thenDo s.partStep State.goOn := by simp [step, ha, hsafe, hstart]

theorem State.partStep_held {s : State} {i : Issue} (hi : s.issue = some i) (hd : s.drainHolds (i.group.headD 0) = true) :
    s.partStep = .next s.turn := by simp only [State.partStep, hi, hd, if_true]

theorem State.partStep_word {s : State} {i : Issue} (hi : s.issue = some i) (hd : s.drainHolds (i.group.headD 0) = false) :
    s.partStep = s.wordStep i := by
  simp only [State.partStep, hi, hd, Bool.false_eq_true, if_false]

/-- A word that decodes and completes: the clause goes on after it. -/
theorem State.wordStep_next {s r : State} {i : Issue} {w : Word} {rest : List Word} {x : Instr}
    (hw : i.words.drop i.pos = w :: rest) (hx : decodeWord i.head.cls w rest = .ok x)
    (hr : exec x ((s.countWord i x).checkRegs i x) = .next r) :
    s.wordStep i = .next (({ r with cur := s.cur } : State).afterWord x) := by
  simp only [State.wordStep, hw, hx, hr, thenDo]

/-- A word is counted by no thread of a group that runs no task (R358). -/
theorem State.countWord_noTask (s : State) (i : Issue) (x : Instr) (h : ∀ t ∈ i.group, (s.thr t).task = none) :
    s.countWord i x = s := by
  have none_of : ∀ p : Nat → Bool, (i.group.filter fun t => (s.thr t).bracketWords.any p) = [] := fun p =>
    List.filter_eq_nil_iff.mpr fun t ht => by simp [Thread.bracketWords, h t ht]
  simp [State.countWord, none_of, State.modThrs]

/-- Where no byte has an uncorrectable error, no register read meets one (R183). -/
theorem State.checkRegs_clean (s : State) (i : Issue) (x : Instr) (h : s.poison = []) : s.checkRegs i x = s := by
  simp [State.checkRegs, State.regBad, h]

/-! # After a word -/

/-- What a word leaves of what a translation cause had marked in its group (R179). -/
def State.walked (s : State) (i : Issue) : State :=
  s.modThrs (i.group.filter fun t => (s.thr t).again) fun th => { th with again := false }

/-- A thread whose translations need not walk again. -/
def Thread.walked (th : Thread) : Thread := { th with again := false }

theorem State.alike_walked (s : State) (i : Issue) : s.Alike Thread.walked (s.walked i) := by
  unfold State.walked
  exact State.Alike.modThrs fun _ => rfl

/-- The clause in progress as the word leaves it: at the next word, with the threads that live. -/
def Issue.after (i : Issue) (s : State) (x : Instr) : Issue :=
  { i with
    pos := i.pos + 1 + x.litCount
    ll := if x.longLatency then i.ll + 1 else i.ll
    group := i.group.filter fun t => (s.thr t).live }

/-- The end of a clause: its threads stand at their next clause, and the next partition moves (R10). -/
def State.clauseEnd (s : State) (i : Issue) : State :=
  let s := ({ s with issues := s.issues.del s.cur }.modThrs i.group fun th => th.endClause i).joinTests i.group
  { s with cur := (s.cur + 1) % 576 }

theorem Issue.after_walked (i : Issue) (s : State) (x : Instr) : i.after (s.walked i) x = i.after s x := by
  have hlive : (fun t => ((s.walked i).thr t).live) = fun t => (s.thr t).live :=
    funext fun t => (s.alike_walked i).field Thread.live (fun _ => rfl) t
  simp only [Issue.after, hlive]

/-- After a word the clause goes on while words and threads are left, and else ends. -/
theorem State.afterWord_eq (s : State) (i : Issue) (x : Instr) (hi : s.issue = some i) :
    s.afterWord x = if (i.after s x).pos < (i.after s x).words.length ∧ (i.after s x).group ≠ []
      then (s.walked i).setIssue (i.after s x) else (s.walked i).clauseEnd (i.after s x) := by
  have e : s.afterWord x = if (i.after (s.walked i) x).pos < (i.after (s.walked i) x).words.length &&
      !(i.after (s.walked i) x).group.isEmpty
      then (s.walked i).setIssue (i.after (s.walked i) x) else (s.walked i).clauseEnd (i.after (s.walked i) x) := by
    unfold State.afterWord
    rw [hi]
    rfl
  rw [e, Issue.after_walked]
  simp only [Bool.and_eq_true, decide_eq_true_eq, Bool.not_eq_true', List.isEmpty_eq_false_iff]

/-- The threads at the end of their clause, the next partition's turn, and the clause gone. -/
theorem State.clauseEnd_spec (s : State) (j : Issue) :
    (s.clauseEnd j).cur = (s.cur + 1) % 576 ∧ (s.clauseEnd j).issues.find s.cur = none ∧
      (j.group.Nodup → ∀ t ∈ j.group, ((s.clauseEnd j).thr t).npc = none ∧
        ((s.clauseEnd j).thr t).pc = (s.thr t).npc.getD (BitVec.ofNat 48 j.nextH)) := by
  let u : State := { s with issues := s.issues.del s.cur }
  have h := (u.modThrs j.group fun th => th.endClause j).alike_joinTests j.group
  have hcur := h.cur.trans (State.modThrs_cur ..)
  have hissues := h.issues.trans (State.modThrs_issues ..)
  refine ⟨congrArg (fun n => (n + 1) % 576) hcur, (congrArg (Tab.find · s.cur) hissues).trans (Tab.find_del_same ..),
    fun hn t ht => ?_⟩
  have hnpc := h.field Thread.npc (fun _ => rfl) t
  have hpc := h.field Thread.pc (fun _ => rfl) t
  rw [State.modThrs_thr _ _ _ hn, if_pos ht] at hnpc hpc
  exact ⟨hnpc, hpc⟩

/-- With no reset under way and no hand-over at its commit, nothing goes on by itself. -/
theorem State.goOn_idle {s : State} (hr : s.resets = []) (ha : s.assay.hphase ≠ 2) : s.goOn = s := by
  have e : s.testResets = s := by simp [State.testResets, hr]
  rw [State.goOn, e]
  unfold State.tryCommit
  split
  · next h _ => exact absurd h ha
  · rfl

/-- Settles O21: the step's own branches in the order in which `step`, `State.wordStep` and `State.afterWord` try them. -/
theorem aStepRunsTheDecodedWord : Obligations.AStepRunsTheDecodedWord := by
  refine ⟨fun s i w rest x ha hsafe hstart hi hw hx => ⟨fun hd => ?held, fun hd r hr => ?word, fun ht hp => ?plain⟩,
    fun s i x hi => ⟨fun hlen hlive => ?more, fun hend => ?ends⟩, fun s t x r ha hx => ?device,
    fun s hr ha => State.goOn_idle hr ha⟩
  case held =>
    rw [step_partStep ha hsafe hstart, State.partStep_held hi hd]
    rfl
  case word =>
    rw [step_partStep ha hsafe hstart, State.partStep_word hi hd, State.wordStep_next hw hx hr]
    rfl
  case plain => rw [State.countWord_noTask s i x ht, State.checkRegs_clean s i x hp]
  case more =>
    refine ⟨i.after s x, ?_, rfl, rfl, rfl, rfl⟩
    rw [State.afterWord_eq s i x hi]
    exact if_pos ⟨hlen, hlive⟩
  case ends =>
    have e : s.afterWord x = (s.walked i).clauseEnd (i.after s x) := by
      rw [State.afterWord_eq s i x hi]
      exact if_neg fun h => hend.elim (Nat.not_le.mpr h.1) h.2
    obtain ⟨hcur, hissues, hthr⟩ := (s.walked i).clauseEnd_spec (i.after s x)
    have hw := s.alike_walked i
    rw [hw.cur] at hcur hissues
    rw [e]
    refine ⟨hcur, hissues, fun hn t ht => ⟨(hthr hn t ht).1, (hthr hn t ht).2.trans ?_⟩⟩
    rw [hw.field Thread.npc (fun _ => rfl) t]
    cases (s.thr t).npc <;> rfl
  case device => simp only [step, ha, hx, thenDo]

end Sys2Proof.Machine

namespace Sys2Proof.Machine

/-! # A word that acts for one thread -/

section

variable {s u : State} {i : Issue} {sc : Scope} {p lits t : Nat} {k : State → Nat → Ran} {f : MemFault} {x : Dword}

theorem State.runAll_one_ran (hk : k s t = ran u) : s.runAll k [t] = (u, []) := by
  simp [State.runAll, State.runOne, hk, ran]

/-- A fault of the one thread that acts, where its queues stand as before. -/
theorem State.runAll_one_fault (hk : k s t = (u, some (f, x))) (hb : u.blocks = s.blocks) :
    s.runAll k [t] = (u, [(t, f, x)]) := by
  have hq : (u.block (coreOf t)).opq = (s.block (coreOf t)).opq := by simp only [State.block, hb]
  simp [State.runAll, State.runOne, hk, hq]

theorem State.raiseMany_one : s.raiseMany i sc lits 1 [(t, f, x)] =
    s.raise (if sc = .lane then [t] else i.group) { i.faultAt with detail := x } f
      (some { i.here lits with parks := f.parks }) := rfl

/-- A word whose one actor meets no fault: that thread's effect (R64). -/
theorem State.eachOr_one_ran (ha : s.actors i sc p = [t]) (hk : k s t = ran u) : s.eachOr i sc p lits k = u := by
  simp only [State.eachOr, ha, State.runAll_one_ran hk, State.raiseMany_nil]

/-- A word whose one actor meets a fault: the thread, or the group at a wider scope, takes it (R64, R342). -/
theorem State.eachOr_one_fault (ha : s.actors i sc p = [t]) (hk : k s t = (u, some (f, x))) (hb : u.blocks = s.blocks) :
    s.eachOr i sc p lits k = u.raise (if sc = .lane then [t] else i.group) { i.faultAt with detail := x } f
      (some { i.here lits with parks := f.parks }) := by
  simp only [State.eachOr, ha, State.runAll_one_fault hk hb]
  exact State.raiseMany_one

end

end Sys2Proof.Machine

namespace Sys2Proof.Claims

open Sys2Proof.Machine

/-! # Words that write one register from the state -/

/-- A word each of whose threads writes its destination with a value that no other thread's write changes. -/
theorem writesReg_eachOr {s : State} {i : Issue} {sc : Scope} {d : BitVec 7} {val : State → Nat → Word} (p : Nat)
    (hi : Setting s i) (hd : allowed sc d) (hv : Steady val) :
    WritesReg s i sc p d.toNat (val s) (.next (s.eachOr i sc p 0 fun s t =>
      ran (s.setReg t (s.destWarps i sc t) d.toNat (val s t)))) := by
  rw [State.eachOr_ran]
  by_cases hsc : sc = .lane
  · subst hsc
    rw [State.actors_lane]
    rcases hd with h | h
    · simp only [State.destWarps_lane, State.setReg_vec _ _ _ _ _ h]
      rw [State.foldl_setVec _ _ _ _ hv (hi.2.filter _)]
      exact writesReg_setVecs _ _ _ _ _ hi.2 h
    · simp only [State.setReg_zero _ _ _ _ _ h, foldl_id]
      exact writesReg_none _ _ _ _ _ (by omega)
  · have hd' : 96 ≤ d.toNat := by
      cases sc
      · exact absurd rfl hsc
      all_goals exact hd
    have h := writesReg_wide s i sc p d.toNat (val s) hsc hd'
    simp only [State.actors_wide _ _ _ _ hsc, State.destWarps_wide _ _ _ _ hsc]
    cases hr : s.rep i p <;> rw [hr] at h <;> exact h

/-! # Special registers, features and traps -/

/-- No special register of a thread depends on another thread's vector registers. -/
theorem steady_special (i : Issue) (sc : Scope) (n : Nat) : Steady fun s t => s.special i sc t n := by
  intro s t k d x h
  have hk : (s.setVec t d x).thr k = s.thr k := by rw [State.thr_setVec, if_neg h]
  simp only [State.special, hk]
  rfl

/-- S2R of a number below 15 writes the special register of that number (R19, R94). -/
theorem writesReg_s2r {s : State} {i : Issue} {sc : Scope} {d : BitVec 7} (n : BitVec 10) (hi : Setting s i)
    (hd : allowed sc d) (hn : n.toNat < 15) :
    WritesReg s i sc 0 d.toNat (fun k => s.special i sc k n.toNat) (exec (.s2r sc d n) s) := by
  have h16 : ¬ 16 ≤ n.toNat := by omega
  have h15 : n.toNat ≠ 15 := by omega
  have e : exec (.s2r sc d n) s = .next (s.eachOr i sc 0 0 fun s t =>
      ran (s.setReg t (s.destWarps i sc t) d.toNat (s.special i sc t n.toNat))) := by
    refine (onIssue_some _ _ _ hi.1).trans ?_
    simp only [State.s2rOne, h16, h15, if_false]
  rw [e]
  exact writesReg_eachOr 0 hi hd (steady_special i sc n.toNat)

/-- FEATQ writes the word of the virtual device's profile (R95). -/
theorem writesReg_featq {s : State} {i : Issue} {sc : Scope} {d : BitVec 7} (n : BitVec 10) (hi : Setting s i)
    (hd : allowed sc d) :
    WritesReg s i sc 0 d.toNat (fun k => (s.vdev (s.tagOf k).1).profile.getD n.toNat 0) (exec (.featq sc d n) s) := by
  rw [show exec (.featq sc d n) s = _ from onIssue_some _ _ _ hi.1]
  exact writesReg_eachOr (val := fun s t => (s.vdev (s.tagOf t).1).profile.getD n.toNat 0) 0 hi hd fun _ _ _ _ _ _ => rfl

/-- S2R of a number of 16 or more takes ILLEGAL_OP (R94). -/
theorem exec_s2r_illegal {s : State} {i : Issue} {d : BitVec 7} {n : BitVec 10} {t : Nat} (hi : Setting s i)
    (hn : 16 ≤ n.toNat) (ha : s.actors i .lane 0 = [t]) :
    exec (.s2r .lane d n) s = .next (s.raise [t] i.faultAt (plainFault clsIllegalOp) (some (i.here 0))) := by
  refine (onIssue_some _ _ _ hi.1).trans (congrArg Host.Outcome.next ?_)
  exact State.eachOr_one_fault ha (if_pos hn) rfl

/-- The count of the clock does not go back, and what is read is its low word as it then stands (R20). -/
theorem srClock_spec (s : State) (t : Nat) :
    (s.core (coreOf t)).clock ≤ ((s.srClock t).2.core (coreOf t)).clock ∧
      (s.srClock t).1 = BitVec.ofNat 32 ((s.srClock t).2.core (coreOf t)).clock := by
  have e : ((s.srClock t).2.core (coreOf t)).clock = (s.core (coreOf t)).clock + Config.ticks s.free := by
    simp [State.srClock, State.core, State.modCore, State.setCore]
  rw [e]
  exact ⟨Nat.le_add_right _ _, rfl⟩

/-- S2R of the clock writes the low word of the count as it stands after cycles have passed (R20). -/
theorem exec_s2r_clock {s : State} {i : Issue} {d : BitVec 7} {t : Nat} (hi : Setting s i) (ha : s.actors i .lane 0 = [t])
    (hd : d.toNat < 96) :
    exec (.s2r .lane d 15) s = .next ((s.srClock t).2.setVec t d.toNat (s.srClock t).1) := by
  refine (onIssue_some _ _ _ hi.1).trans (congrArg Host.Outcome.next (State.eachOr_one_ran ha ?_))
  show ran _ = _
  rw [State.setReg_vec _ _ _ _ _ hd]

theorem specialRegistersAndFeatures : SpecialRegistersAndFeatures := by
  intro s i d n p sc hi
  refine ⟨fun sc hd => ?reads, fun t hn ha => exec_s2r_illegal hi hn ha, fun t ha hd => ?clock, onIssue_some _ _ _ hi.1⟩
  case reads =>
    have hs := fun (n : BitVec 10) (hn : n.toNat < 15) => writesReg_s2r n hi hd hn
    have sp_low : ∀ k, s.special i sc k 11 = BitVec.ofNat 32 (s.thr k).sp.toNat := fun k =>
      BitVec.eq_of_toNat_eq (by simp [State.special])
    exact ⟨hs 0 (by decide), hs 1 (by decide), hs 2 (by decide), hs 3 (by decide), hs 4 (by decide), hs 5 (by decide),
      hs 6 (by decide), hs 7 (by decide), hs 8 (by decide), hs 9 (by decide), hs 10 (by decide),
      (hs 11 (by decide)).congr_val sp_low, hs 12 (by decide), hs 13 (by decide), writesReg_featq n hi hd⟩
  case clock =>
    obtain ⟨hlater, hread⟩ := srClock_spec s t
    refine ⟨_, exec_s2r_clock hi ha hd, hlater, ?_⟩
    rw [State.reg_setVec _ _ _ _ _ hd, if_pos rfl, hread]
    rfl

/-- TRAP is its exception, taken by the group as it stands (R96). -/
theorem trapTakesItsException : TrapTakesItsException := fun _ _ _ _ hi => onIssue_some _ _ _ hi.1

end Sys2Proof.Claims

namespace Sys2Proof.Machine

/-- Settles O35. -/
theorem specialRegistersAndTraps : Obligations.SpecialRegistersAndTraps :=
  ⟨Claims.specialRegistersAndFeatures, Claims.trapTakesItsException⟩

end Sys2Proof.Machine

namespace Sys2Proof.Machine

/-! # What looking up an address changes, and what it reads

A translation or a fetch moves the counter of free choices, the TLB, the interrupts and the quarantine queue, and nothing
else; and of the threads it reads only whether the one that it is made for walks again. -/

/-- What a lookup may change. -/
def State.Looked (s t : State) : Prop := t = { s with free := t.free, cores := t.cores, irqs := t.irqs, quar := t.quar }

/-- The state with other threads. -/
def State.withThreads (s : State) (th : Tab Thread) : State := { s with threads := th }

theorem State.Looked.refl (s : State) : s.Looked s := rfl

theorem State.Looked.trans {s t u : State} (h : s.Looked t) (h' : t.Looked u) : s.Looked u := by
  unfold State.Looked at *
  exact h'.trans (by rw [h])

/-- The state of an answer that is known. -/
theorem State.Looked.of {α : Type} {s t : State} {p : α × State} {a : α} (h : s.Looked p.2) (e : p = (a, t)) :
    s.Looked t := by rw [e] at h; exact h

/-- A lookup: what it may change, and that it reads no thread. -/
structure Lookup {α : Type} (f : State → α × State) : Prop where
  frame : ∀ s : State, s.Looked (f s).2
  apart : ∀ (s : State) th, f (s.withThreads th) = ((f s).1, (f s).2.withThreads th)

namespace Lookup

section

variable {α β : Type}

/-- An answer that changes nothing. -/
theorem pure {a : State → α} (h : ∀ (s : State) th, a (s.withThreads th) = a s) : Lookup fun s => (a s, s) :=
  ⟨State.Looked.refl, fun s th => congrArg (·, s.withThreads th) (h s th)⟩

theorem const (a : α) : Lookup fun s => (a, s) := pure fun _ _ => rfl

theorem branch {c : Prop} [Decidable c] {f g : State → α × State} (hf : Lookup f) (hg : Lookup g) :
    Lookup fun s => if c then f s else g s := by
  split
  · exact hf
  · exact hg

/-- One lookup after another. -/
theorem bind {f : State → α × State} {k : α → State → β × State} (hf : Lookup f) (hk : ∀ a, Lookup (k a)) :
    Lookup fun s => k (f s).1 (f s).2 where
  frame s := (hf.frame s).trans ((hk _).frame _)
  apart s th := by
    simp only [hf.apart]
    exact (hk _).apart _ th

/-- A lookup whose answer is taken further. -/
theorem map {f : State → Nat → α × State} {x : Nat} (hf : Lookup fun s => f s x) (g : α → β) :
    Lookup fun s => (g (f s x).1, (f s x).2) :=
  hf.bind fun a => const (g a)

/-- Both parts at once, for a state and other threads. -/
theorem of {f : State → α × State}
    (h : ∀ (s : State) th, s.Looked (f s).2 ∧ f (s.withThreads th) = ((f s).1, (f s).2.withThreads th)) : Lookup f :=
  ⟨fun s => (h s []).1, fun s th => (h s th).2⟩

/-- A lookup made in the state that another one has left. -/
theorem after {k : State → β × State} {s t : State} {th : Tab Thread} (hk : Lookup k) (h : s.Looked t) :
    s.Looked (k t).2 ∧ k (t.withThreads th) = ((k t).1, (k t).2.withThreads th) :=
  ⟨h.trans (hk.frame t), hk.apart t th⟩

end

/-! ## Registers and table entries -/

/-- A word of the free choices. -/
theorem freely {α : Type} (a : Nat → α) : Lookup fun s => (a s.free, { s with free := s.free + 1 }) :=
  ⟨fun _ => rfl, fun _ _ => rfl⟩

theorem choose (n : Nat) : Lookup fun s => s.choose n := ⟨fun _ => rfl, fun _ _ => rfl⟩

theorem takeQpop {α : Type} {a : State → α} (h : ∀ (s : State) th, a (s.withThreads th) = a s) :
    Lookup fun s => (a s, s.takeQpop) where
  frame s := by
    show s.Looked s.takeQpop
    unfold State.takeQpop
    split
    · split
      · exact rfl
      · exact State.Looked.refl s
    · exact State.Looked.refl s
  apart s th := by
    have e : (s.withThreads th).takeQpop = s.takeQpop.withThreads th := by
      simp only [State.takeQpop, show (s.withThreads th).quar = s.quar from rfl,
        show ∀ e, (s.withThreads th).released e = s.released e from fun _ => rfl]
      split
      · split <;> rfl
      · rfl
    rw [h, e]

theorem doorbell_withThreads (s : State) (th : Tab Thread) (v off : Nat) :
    (s.withThreads th).doorbell v off = s.doorbell v off := rfl
theorem control_withThreads (s : State) (th : Tab Thread) (v off : Nat) :
    (s.withThreads th).control v off = s.control v off := rfl
theorem fabricPage_withThreads (s : State) (th : Tab Thread) (off : Nat) :
    (s.withThreads th).fabricPage off = s.fabricPage off := rfl
theorem presentPage_withThreads (s : State) (th : Tab Thread) (o off : Nat) :
    (s.withThreads th).presentPage o off = s.presentPage o off := rfl
theorem globalPage_withThreads (s : State) (th : Tab Thread) (off : Nat) :
    (s.withThreads th).globalPage off = s.globalPage off := rfl
theorem bezelWindow_withThreads (s : State) (th : Tab Thread) (off : Nat) :
    (s.withThreads th).bezelWindow off = s.bezelWindow off := rfl

/-- A read of a register of the hub: its pages hold nothing of a thread (R173). -/
theorem regRead (pa : Nat) : Lookup fun s => s.regRead pa := by
  unfold State.regRead
  generalize pa - regBase = o
  extract_lets
  refine branch (pure fun _ _ => doorbell_withThreads ..) ?_
  refine branch (pure fun _ _ => control_withThreads ..) ?_
  refine branch (pure fun _ _ => fabricPage_withThreads ..) ?_
  refine branch (pure fun _ _ => presentPage_withThreads ..) ?_
  refine branch (const 0) ?_
  refine branch ?_ ?_
  · split
    · exact takeQpop fun _ _ => globalPage_withThreads ..
    · exact pure fun _ _ => globalPage_withThreads ..
  refine branch (pure fun _ _ => bezelWindow_withThreads ..) ?_
  exact branch (freely Config.freeDword) (const 0)

theorem bytesAt_withThreads (s : State) (th : Tab Thread) (a n : Nat) :
    (s.withThreads th).bytesAt a n = s.bytesAt a n := by
  induction n generalizing a with
  | zero => rfl
  | succ n ih => exact congrArg (s.byteAt a :: ·) (ih (a + 1))

theorem entryBytes (pa : Nat) : Lookup fun s => s.entryBytes pa := by
  unfold State.entryBytes
  split
  · generalize List.range 8 = l
    refine branch ?_ (map (f := State.regRead) (regRead _) BitVec.toNat)
    exact freely fun n => natOfBytes (l.map fun k => Config.pcieRead (pa + k) n)
  · have h := freely fun n => (Config.freeDword n).toNat
    exact h
  · exact pure fun s th => congrArg natOfBytes (bytesAt_withThreads ..)

/-! ## The two stages -/

section

variable {read : State → Nat → Nat → Got Nat} (hread : ∀ l a, Lookup fun s => read s l a)

include hread

theorem walk (stage : Nat) (va : Dword) (kind : AKind) (a fuel level t : Nat) :
    Lookup fun s => Sys2Proof.Machine.walk read stage va kind a s fuel level t := by
  induction fuel generalizing level t with
  | zero => exact const _
  | succ fuel ih =>
    refine of fun s th => ?_
    have h := (hread level (t + 8 * bitsOf a (47 - 9 * level) (39 - 9 * level))).frame s
    simp only [Sys2Proof.Machine.walk, (hread _ _).apart]
    rcases e : read s level (t + 8 * bitsOf a (47 - 9 * level) (39 - 9 * level)) with ⟨f | x, u⟩
    · exact ⟨h.of e, rfl⟩
    · dsimp only
      generalize (if stage = 2 then d64 a else 0) = ia
      split_ifs
      · exact ⟨h.of e, rfl⟩
      · exact ⟨h.of e, rfl⟩
      · split <;> exact ⟨h.of e, rfl⟩
      · exact (ih _ _).after (h.of e)

theorem stage2With (root va : Dword) (kind : AKind) (a : Nat) :
    Lookup fun s => Sys2Proof.Machine.stage2With read s root va kind a :=
  branch (walk hread ..) (const _)

theorem ingressWith (source window offset n : Nat) (kind : AKind) (key : Word) (big : Bool) :
    Lookup fun s => s.ingressWith read source window offset n kind key big := by
  refine of fun s th => ?_
  have hw := stage2With hread (s.vdev (impVdev (s.importOf window))).s2tb (d64 (impBase (s.importOf window) + offset)) kind
    (impBase (s.importOf window) + offset)
  have h := hw.frame s
  have ha := hw.apart s th
  simp only [State.ingressWith]
  rw [show (s.withThreads th).importOf window = s.importOf window from rfl,
    show ∀ e, (s.withThreads th).admits e source 1 kind.right key = s.admits e source 1 kind.right key from fun _ => rfl,
    show ∀ v, (s.withThreads th).vdev v = s.vdev v from fun _ => rfl]
  split
  · rw [ha]
    rcases e : Sys2Proof.Machine.stage2With read s _ _ _ _ with ⟨f | x, u⟩
    · exact ⟨h.of e, rfl⟩
    · exact ⟨h.of e, rfl⟩
  · exact ⟨.refl s, rfl⟩

theorem gateWith (va : Dword) (pa n mt : Nat) (kind : AKind) (big : Bool) :
    Lookup fun s => s.gateWith read va pa n mt kind big := by
  refine of fun s th => ?_
  simp only [State.gateWith]
  rw [show ∀ w, (s.withThreads th).stubbed w = s.stubbed w from fun _ => rfl,
    show ∀ k, (s.withThreads th).keyOf k = s.keyOf k from fun _ => rfl]
  have hi := ingressWith hread (bitsOf pa 50 48) (bitsOf pa 47 40) (bitsOf pa 39 0) n kind
    (s.keyOf (256 * bitsOf pa 50 48 + bitsOf pa 47 40)) big
  have h := hi.frame s
  split
  · rw [hi.apart]
    rcases e : s.ingressWith read _ _ _ _ _ _ _ with ⟨_ | lp, u⟩
    · exact ⟨(h.of e).trans rfl, rfl⟩
    · exact ⟨h.of e, rfl⟩
  · rw [(choose 3).apart]
    rcases e : s.choose 3 with ⟨c, u⟩
    have hu : s.Looked u := ((choose 3).frame s).of e
    dsimp only
    split
    · exact ⟨hu, rfl⟩
    · exact ⟨hu, rfl⟩

end

/-- A read of an entry by the walker, through the gates of the fabric as deep as they go. -/
theorem walkRead (depth stage level : Nat) (va ia : Dword) (mt pa : Nat) :
    Lookup fun s => State.walkRead depth stage level va ia mt s pa := by
  induction depth generalizing stage level ia mt pa with
  | zero =>
    refine of fun s th => ?_
    unfold State.walkRead
    rw [show (s.withThreads th).targetFault pa 8 mt .read false = s.targetFault pa 8 mt .read false from rfl]
    split
    · exact ⟨.refl s, rfl⟩
    · exact branch (const _) (map (f := State.entryBytes) (entryBytes pa) Except.ok) |>.after (.refl s)
  | succ n ih =>
    refine of fun s th => ?_
    unfold State.walkRead
    rw [show (s.withThreads th).targetFault pa 8 mt .read false = s.targetFault pa 8 mt .read false from rfl]
    split
    · exact ⟨.refl s, rfl⟩
    · split
      · have hg := gateWith (read := fun s l a => State.walkRead n 2 l va ia 0 s a) (fun l a => ih 2 l ia 0 a) va pa 8 mt .read false
        have h := hg.frame s
        dsimp only
        rw [hg.apart]
        rcases e : s.gateWith _ _ _ _ _ _ _ with ⟨f | lp, u⟩
        · exact ⟨h.of e, rfl⟩
        · exact (map (f := State.entryBytes) (entryBytes _) Except.ok).after (h.of e)
      · exact (map (f := State.entryBytes) (entryBytes pa) Except.ok).after (.refl s)

theorem stage2 (root va : Dword) (kind : AKind) (a : Nat) : Lookup fun s => s.stage2 root va kind a :=
  stage2With (fun _ _ => walkRead ..) ..

theorem stage1 (ttb s2 va : Dword) (kind : AKind) (a : Nat) : Lookup fun s => s.stage1 ttb s2 va kind a := by
  unfold State.stage1
  refine branch (branch (const _) (walk (fun level ta => ?_) ..)) (const _)
  refine of fun s th => ?_
  have h := (stage2 s2 va .read ta).frame s
  rw [(stage2 ..).apart]
  rcases e : s.stage2 s2 va .read ta with ⟨f | l, u⟩
  · exact ⟨h.of e, rfl⟩
  · exact (walkRead ..).after (h.of e)

theorem walkBoth (ttb s2 va : Dword) (kind : AKind) : Lookup fun s => s.walkBoth ttb s2 va kind := by
  refine of fun s th => ?_
  have h := (stage1 ttb s2 va kind va.toNat).frame s
  unfold State.walkBoth
  rw [(stage1 ..).apart]
  rcases e : s.stage1 ttb s2 va kind va.toNat with ⟨f | l, u⟩
  · exact ⟨h.of e, rfl⟩
  · have h' := (stage2 s2 va kind l.pa).frame u
    dsimp only
    rw [(stage2 ..).apart]
    rcases e' : u.stage2 s2 va kind l.pa with ⟨f | l', u'⟩
    · exact ⟨(h.of e).trans (h'.of e'), rfl⟩
    · exact ⟨(h.of e).trans (h'.of e'), rfl⟩

theorem tlbFill (s : State) (th : Tab Thread) (c v x va : Nat) (l : Leaf) :
    s.Looked (s.tlbFill c v x va l) ∧
      (s.withThreads th).tlbFill c v x va l = (s.tlbFill c v x va l).withThreads th := by
  unfold State.tlbFill
  split
  · exact ⟨.refl s, rfl⟩
  · exact ⟨rfl, rfl⟩

/-- A translation for a core (R182), with the entries of its TLB or by a walk that fills it. -/
theorem translateFor (c v x : Nat) (va : Dword) (kind : AKind) (again : Bool) :
    Lookup fun s => s.translateFor c v x va kind again := by
  refine of fun s th => ?_
  unfold State.translateFor
  rw [show ∀ a k, (s.withThreads th).tlbHits c v x a k = s.tlbHits c v x a k from fun _ _ => rfl,
    show (s.withThreads th).roots c v x = s.roots c v x from rfl]
  by_cases hva : va.toNat ≥ 2 ^ 48
  · rw [if_pos hva, if_pos hva]
    exact ⟨.refl s, rfl⟩
  · rw [if_neg hva, if_neg hva]
    dsimp only
    generalize (if again then [] else s.tlbHits c v x va.toNat kind) = hits
    have hp := (const 0).branch (choose (hits.length + 1)) (c := hits.isEmpty)
    have h := hp.frame s
    rw [hp.apart]
    rcases e : (if hits.isEmpty then (0, s) else s.choose (hits.length + 1)) with ⟨n, u⟩
    have hu := h.of e
    dsimp only
    cases hits[n]? with
    | some y => exact ⟨hu, rfl⟩
    | none =>
      have hw := (walkBoth (s.roots c v x).1 (s.roots c v x).2 va kind).frame u
      dsimp only
      rw [(walkBoth ..).apart]
      rcases e' : u.walkBoth (s.roots c v x).1 (s.roots c v x).2 va kind with ⟨f | l, u'⟩
      · exact ⟨hu.trans (hw.of e'), rfl⟩
      · obtain ⟨hf, ha⟩ := tlbFill u' th c v x va.toNat l
        exact ⟨(hu.trans (hw.of e')).trans hf, congrArg _ ha⟩

theorem fabricGate (va : Dword) (pa n mt : Nat) (kind : AKind) (big : Bool) :
    Lookup fun s => s.fabricGate va pa n mt kind big :=
  gateWith (fun _ _ => walkRead ..) ..

theorem reach (va : Dword) (pa n mt : Nat) (kind : AKind) (big : Bool) : Lookup fun s => s.reach va pa n mt kind big := by
  refine of fun s th => ?_
  unfold State.reach
  rw [show (s.withThreads th).targetFault pa n mt kind big = s.targetFault pa n mt kind big from rfl]
  split
  · exact ⟨.refl s, rfl⟩
  · exact (branch (fabricGate ..) (const _)).after (.refl s)

theorem fetchRead (p : Nat × Nat) : Lookup fun s =>
    if targetOf p.1 = .fabric then (Except.ok s.anyWord.1, s.anyWord.2)
    else ((Except.ok (BitVec.ofNat 32 (natOfBytes (s.bytesAt p.1 4))) : Except MemFault Word), s) :=
  branch (freely fun n => Except.ok (Config.freeWord n))
    (pure fun s th => by rw [bytesAt_withThreads])

end Lookup

/-! ## A thread's own addresses -/

section

variable {s : State} {th : Tab Thread} {k : Nat} (hagain : ((s.withThreads th).thr k).again = (s.thr k).again)

theorem State.looked_translate (s : State) (t : Nat) (va : Dword) (n : Nat) (kind : AKind) (big again : Bool) :
    s.Looked (s.translate t va n kind big again).2 := by
  have h := (Lookup.translateFor (coreOf t) (s.tagOf t).1 (s.tagOf t).2 va kind (again || (s.thr t).again)).frame s
  unfold State.translate
  rcases e : s.translateFor _ _ _ _ _ _ with ⟨f | ⟨pa, mt⟩, u⟩
  · exact h.of e
  · exact (h.of e).trans ((Lookup.reach va pa n mt kind big).frame u)

include hagain in
theorem State.translate_withThreads (va : Dword) (n : Nat) (kind : AKind) (big again : Bool) :
    (s.withThreads th).translate k va n kind big again =
      ((s.translate k va n kind big again).1, (s.translate k va n kind big again).2.withThreads th) := by
  unfold State.translate
  rw [hagain, show (s.withThreads th).tagOf k = s.tagOf k from rfl, (Lookup.translateFor ..).apart]
  rcases e : s.translateFor _ _ _ _ _ _ with ⟨f | ⟨pa, mt⟩, u⟩
  · rfl
  · exact (Lookup.reach va pa n mt kind big).apart u th

theorem State.looked_fetchPlace (s : State) (t a : Nat) : s.Looked (s.fetchPlace t a).2 := by
  unfold State.fetchPlace
  split
  · split
    · exact .refl s
    · exact (Lookup.reach ..).frame s
  · exact s.looked_translate ..

include hagain in
theorem State.fetchPlace_withThreads (a : Nat) :
    (s.withThreads th).fetchPlace k a = ((s.fetchPlace k a).1, (s.fetchPlace k a).2.withThreads th) := by
  unfold State.fetchPlace
  split
  · split
    · rfl
    · exact (Lookup.reach ..).apart s th
  · exact State.translate_withThreads hagain ..

/-- A fetch changes what a lookup may change. -/
theorem State.looked_fetch (s : State) (t a : Nat) : s.Looked (s.fetch t a).2 := by
  have h := s.looked_fetchPlace t a
  unfold State.fetch
  rcases e : s.fetchPlace t a with ⟨f | p, u⟩
  · exact h.of e
  · exact (h.of e).trans ((Lookup.fetchRead p).frame u)

include hagain in
theorem State.fetch_withThreads (a : Nat) :
    (s.withThreads th).fetch k a = ((s.fetch k a).1, (s.fetch k a).2.withThreads th) := by
  unfold State.fetch
  rw [State.fetchPlace_withThreads hagain]
  rcases e : s.fetchPlace k a with ⟨f | p, u⟩
  · rfl
  · exact (Lookup.fetchRead p).apart u th

include hagain in
/-- Whether a target fails is read from no thread but for its walking again. -/
theorem State.badTarget_withThreads (x : Dword) : (s.withThreads th).badTarget k x = s.badTarget k x := by
  unfold State.badTarget
  rw [State.fetch_withThreads hagain]

end

end Sys2Proof.Machine

namespace Sys2Proof.Machine

/-! # Words that act for each thread of the group -/

/-- A state that another one became where each of some threads changed by a function of its own, and nothing else. -/
structure State.Became (s : State) (g : Nat → Thread → Thread) (ts : List Nat) (u : State) : Prop where
  rest : u = { s with threads := u.threads }
  thr : ∀ k, u.thr k = if k ∈ ts then g k (s.thr k) else s.thr k

section

variable {s u v : State} {g : Nat → Thread → Thread} {t : Nat} {ts us : List Nat}

theorem State.Became.none (s : State) (g : Nat → Thread → Thread) : s.Became g [] s := ⟨rfl, fun _ => by simp⟩

theorem State.Became.modThr (u : State) (g : Nat → Thread → Thread) (t : Nat) : u.Became g [t] (u.modThr t (g t)) :=
  ⟨rfl, fun k => by rw [State.thr_modThr]; by_cases h : k = t <;> simp [h]⟩

/-- A thread that its function leaves as it is. -/
theorem State.Became.still (h : g t (u.thr t) = u.thr t) : u.Became g [t] u := by
  refine ⟨rfl, fun k => ?_⟩
  by_cases hk : k = t
  · subst hk; simp [h]
  · simp [hk]

/-- One thread more. -/
theorem State.Became.snoc (h : s.Became g ts u) (h' : u.Became g [t] v) (ht : t ∉ ts) : s.Became g (ts ++ [t]) v := by
  refine ⟨h'.rest.trans (by rw [h.rest]), fun k => ?_⟩
  rw [h'.thr, h.thr]
  by_cases hk : k = t
  · subst hk; simp [ht]
  · simp [hk]

/-- A thread whose turn has not come. -/
theorem State.Became.untouched (h : s.Became g ts u) (ht : t ∉ ts) : u.thr t = s.thr t := by rw [h.thr, if_neg ht]

/-- What no thread's function changes is as before. -/
theorem State.Became.field {α : Type} (h : s.Became g ts u) (f : Thread → α) (hf : ∀ k x, f (g k x) = f x) (k : Nat) :
    f (u.thr k) = f (s.thr k) := by
  rw [h.thr]
  split
  · exact hf k _
  · rfl

theorem State.Became.badTarget (h : s.Became g ts u) (ht : t ∉ ts) (x : Dword) : u.badTarget t x = s.badTarget t x := by
  have e : u = s.withThreads u.threads := h.rest
  have ha : ((s.withThreads u.threads).thr t).again = (s.thr t).again := by rw [← e, h.untouched ht]
  rw [e]
  exact State.badTarget_withThreads ha x

/-- A word that changes each thread of its list by what it reads before its own turn meets no fault, and what it leaves is
each of them changed. -/
theorem State.runAll_became {k : State → Nat → Ran} (hn : ts.Nodup)
    (hk : ∀ t ∈ ts, ∀ us u, s.Became g us u → t ∉ us → ∃ v, k u t = ran v ∧ u.Became g [t] v) :
    ∃ v, s.runAll k ts = (v, []) ∧ s.Became g ts v := by
  suffices H : ∀ us u, s.Became g us u → (us ++ ts).Nodup → ∃ v, u.runAll k ts = (v, []) ∧ s.Became g (us ++ ts) v from
    H [] s (.none s g) hn
  clear hn
  induction ts with
  | nil => exact fun us u h _ => ⟨u, rfl, by simpa using h⟩
  | cons t ts ih =>
    intro us u h hn
    have ht : t ∉ us := fun hm => (List.nodup_append.mp hn).2.2 t hm t (by simp) rfl
    obtain ⟨v, hv, hb⟩ := hk t (by simp) us u h ht
    obtain ⟨w, hw, hbw⟩ := ih (fun t' h' => hk t' (by simp [h'])) (us ++ [t]) v (h.snoc hb ht) (by simpa using hn)
    refine ⟨w, ?_, by simpa using hbw⟩
    simp [State.runAll, State.runOne, hv, ran, hw]

/-- The same of a word's whole group. -/
theorem State.eachMember_became {k : State → Nat → Ran} {i : Issue} (sc : Scope) (lits : Nat) (hn : i.group.Nodup)
    (hk : ∀ t ∈ i.group, ∀ us u, s.Became g us u → t ∉ us → ∃ v, k u t = ran v ∧ u.Became g [t] v) :
    ∃ v, s.eachMember i sc lits k = v ∧ s.Became g i.group v := by
  obtain ⟨v, hv, hb⟩ := State.runAll_became hn hk
  exact ⟨v, by simp only [State.eachMember, hv, State.raiseMany_nil], hb⟩

end

/-! # Transfers -/

/-- A thread that has chosen its next clause. -/
def Thread.headed (x : Dword) (th : Thread) : Thread := { th with npc := some (x.setWidth 48) }

theorem State.transfer_good {s : State} {t : Nat} {x : Dword} (h : s.badTarget t x = false) :
    s.transfer t x = ran (s.modThr t (Thread.headed x)) := by
  simp only [State.transfer, h]
  rfl

theorem State.transfer_bad {s : State} {t : Nat} {x : Dword} (h : s.badTarget t x = true) :
    s.transfer t x = (s, some (plainFault clsIllegalClause, x)) := if_pos h

/-- A target that is not a multiple of 4 or has nonzero bits [63:48] fails (R10). -/
theorem State.badTarget_of_form {s : State} {t : Nat} {x : Dword} (h : x.toNat % 4 ≠ 0 ∨ 2 ^ 48 ≤ x.toNat) :
    s.badTarget t x = true := by
  unfold State.badTarget
  rcases h with h | h
  · simp [h]
  · simp only [decide_eq_true (show x.toNat ≥ 2 ^ 48 from h), Bool.true_or]

/-- A target whose word is no clause header fails (R10, R27). -/
theorem State.badTarget_of_word {s s' : State} {t : Nat} {x : Dword} {w : Word} (hf : s.fetch t x.toNat = (.ok w, s'))
    (hw : decodeHeader w = none) : s.badTarget t x = true := by
  simp [State.badTarget, hf, hw]

/-- A thread's own way on: a transfer to the target it chooses, if it chooses one. -/
def State.follow (s : State) (i : Issue) (t : Nat) : Option Int → Ran
  | some off => s.transfer t (i.target off)
  | none => ran s

/-- A thread that has chosen, or not. -/
def Thread.followed (i : Issue) : Option Int → Thread → Thread
  | some off => Thread.headed (i.target off)
  | none => id

/-- No choice changes a thread's predicates. -/
theorem Thread.followed_p (i : Issue) (c : Option Int) (th : Thread) : (Thread.followed i c th).p = th.p := by
  cases c <;> rfl

/-- Each thread of the group goes the way that it chooses, where no target of theirs fails (R10). -/
theorem State.eachMember_follow {s : State} {i : Issue} (sc : Scope) (lits : Nat) {choice : Nat → Option Int}
    {k : State → Nat → Ran} (hn : i.group.Nodup)
    (hgood : ∀ t ∈ i.group, ∀ off, choice t = some off → s.badTarget t (i.target off) = false)
    (hk : ∀ t us u, s.Became (fun t => Thread.followed i (choice t)) us u → k u t = u.follow i t (choice t)) :
    ∃ v, s.eachMember i sc lits k = v ∧ s.Became (fun t => Thread.followed i (choice t)) i.group v := by
  refine State.eachMember_became sc lits hn fun t ht us u h hu => ?_
  rw [hk t us u h]
  cases hc : choice t with
  | none => exact ⟨u, rfl, .still (by simp only [hc]; rfl)⟩
  | some off =>
    have hb : u.badTarget t (i.target off) = false := (h.badTarget hu _).trans (hgood t ht off hc)
    have hg : Thread.headed (i.target off) = Thread.followed i (choice t) := by rw [hc]; rfl
    exact ⟨_, State.transfer_good hb, hg ▸ .modThr u (fun t => Thread.followed i (choice t)) t⟩

/-- A BRM's choice is read from the predicates (R29, R87). -/
theorem State.brmChoice_eq (s : State) (t : Nat) (lits : List Word) :
    s.brmChoice t lits = (lits.find? fun l => s.pred t (l.toNat / 2 ^ 29) != l.getLsbD 28).map fun l =>
      (BitVec.ofNat 28 l.toNat).toInt := by
  have hp : ∀ l : Word, (l.extractLsb' 29 3).toNat = l.toNat / 2 ^ 29 := fun l => by
    have := l.isLt
    simp only [BitVec.extractLsb'_toNat, Nat.shiftRight_eq_div_pow]
    omega
  have ho : ∀ l : Word, l.extractLsb' 0 28 = BitVec.ofNat 28 l.toNat := fun l => by
    apply BitVec.eq_of_toNat_eq; simp
  simp only [State.brmChoice, hp, ho]

theorem State.Became.brmChoice {s u : State} {g : Nat → Thread → Thread} {us : List Nat} (h : s.Became g us u)
    (hp : ∀ k x, (g k x).p = x.p) (t : Nat) (lits : List Word) : u.brmChoice t lits = s.brmChoice t lits := by
  simp only [State.brmChoice, State.pred, h.field Thread.p hp]

end Sys2Proof.Machine

namespace Sys2Proof.Claims

open Sys2Proof.Machine

theorem branchesChooseTheNextClause : BranchesChooseTheNextClause := by
  intro s i sc off lits hi target goes chosen
  have goes_of : ∀ (choice : Nat → Option Int) (lits : Nat) (k : State → Nat → Ran) (o : Out),
      o = .next (s.eachMember i sc lits k) →
      (∀ t us u, s.Became (fun t => Thread.followed i (choice t)) us u → k u t = u.follow i t (choice t)) → goes choice o := by
    rintro choice lits k _ rfl hk hgood
    obtain ⟨v, rfl, hb⟩ := State.eachMember_follow sc lits hi.2 hgood hk
    refine ⟨_, rfl, hb.rest, fun t => ?_⟩
    rw [hb.thr]
    split
    · cases choice t <;> rfl
    · rfl
  constructor
  case left => exact goes_of _ _ _ _ (onIssue_some _ _ _ hi.1) fun _ _ _ _ => rfl
  case right =>
    refine goes_of _ _ _ _ (onIssue_some _ _ _ hi.1) fun t us u h => ?_
    have hc : u.brmChoice (if sc = .lane then t else i.group.headD t) lits = chosen t :=
      (h.brmChoice (fun _ _ => Thread.followed_p ..) _ lits).trans (s.brmChoice_eq _ lits)
    rw [← hc]
    dsimp only
    cases u.brmChoice (if sc = .lane then t else i.group.headD t) lits <;> rfl

theorem failingTargetsTakeIllegalClause : FailingTargetsTakeIllegalClause := by
  intro s i off a p t hi target traps
  refine ⟨fun x => State.badTarget_of_form, fun x w s' => State.badTarget_of_word, fun hg hb => ?direct, fun ha hx => ?pair⟩
  case direct =>
    have one : ∀ (k : State → Nat → Ran) (o : Out), o = .next (s.eachMember i .lane 0 k) →
        k s t = (s, some (plainFault clsIllegalClause, target)) → traps target o := by
      rintro k _ rfl hk
      simp only [State.eachMember, hg, State.runAll_one_fault hk rfl]
      rfl
    exact ⟨one _ _ (onIssue_some _ _ _ hi.1) (State.transfer_bad hb), one _ _ (onIssue_some _ _ _ hi.1) (if_pos hb)⟩
  case pair =>
    refine (onIssue_some _ _ _ hi.1).trans (congrArg Host.Outcome.next (State.eachOr_one_fault ha ?_ rfl))
    unfold State.callIOne
    rcases hx with hx | hx
    · simp [hx]
    · simp only [decide_eq_true (show (s.pairReg t a.toNat).toNat ≥ 2 ^ 48 from hx), Bool.true_or, if_true]

end Sys2Proof.Claims

namespace Sys2Proof.Machine

/-- Settles O33. -/
theorem branchesAndTheirTargets : Obligations.BranchesAndTheirTargets :=
  ⟨Claims.branchesChooseTheNextClause, Claims.failingTargetsTakeIllegalClause⟩

end Sys2Proof.Machine

namespace Sys2Proof.Machine

/-! # Calls -/

section

variable {s t : State}

theorem State.Looked.threads (h : s.Looked t) : t.threads = s.threads := by rw [h]
theorem State.Looked.warps (h : s.Looked t) : t.warps = s.warps := by rw [h]
theorem State.Looked.blocks (h : s.Looked t) : t.blocks = s.blocks := by rw [h]
theorem State.Looked.mem (h : s.Looked t) : t.mem = s.mem := by rw [h]
theorem State.Looked.scratch (h : s.Looked t) : t.scratch = s.scratch := by rw [h]

theorem State.Looked.thr (h : s.Looked t) (k : Nat) : t.thr k = s.thr k := by simp only [State.thr, h.threads]

theorem State.Looked.byteAt (h : s.Looked t) (a : Nat) : t.byteAt a = s.byteAt a := by
  simp only [State.byteAt, h.mem, h.scratch]

end

theorem State.modThr_modThr (s : State) (t : Nat) (f g : Thread → Thread) :
    (s.modThr t f).modThr t g = s.modThr t fun th => g (f th) := by
  have h : (s.modThr t f).thr t = f (s.thr t) := by rw [State.thr_modThr, if_pos rfl]
  show { s with threads := (s.threads.put t (f (s.thr t))).put t (g ((s.modThr t f).thr t)) } = _
  rw [Tab.put_put, h]
  rfl

/-- Whether a target fails does not change with what a thread's walking again does not change with. -/
theorem State.badTarget_modThr {s : State} {t : Nat} {f : Thread → Thread} (h : (f (s.thr t)).again = (s.thr t).again)
    (x : Dword) : (s.modThr t f).badTarget t x = s.badTarget t x :=
  State.badTarget_withThreads (th := s.threads.put t (f (s.thr t)))
    (by rw [show s.withThreads _ = s.modThr t f from rfl, State.thr_modThr, if_pos rfl]; exact h) x

/-- A thread whose return stack has taken the next clause's address (R16). -/
def Thread.pushed (i : Issue) (th : Thread) : Thread :=
  { th with ret := { addr := BitVec.ofNat 48 i.nextH, depth := th.depth + 1 } :: th.ret, depth := th.depth + 1 }

/-- A thread that has called. -/
def Thread.called (i : Issue) (x : Dword) (th : Thread) : Thread := (th.pushed i).headed x

/-- With fewer than four entries on chip nothing is spilled (R16). -/
theorem State.spill_spare {s : State} {i : Issue} {t : Nat} (h : (s.thr t).ret.length < 4) : s.spill i t = ran s := by
  unfold State.spill
  dsimp only
  split
  · next e => simp [e] at h
  · rfl

/-- A call after its spill, if there is one. -/
theorem State.callTo_spilled {s r : State} {i : Issue} {t : Nat} {x : Dword} (hb : s.badTarget t x = false)
    (hs : s.spill i t = ran r) (hr : r.badTarget t x = false) : s.callTo i t x = ran (r.modThr t (Thread.called i x)) := by
  have hp : s.push i t = ran (r.modThr t (Thread.pushed i)) := by simp only [State.push, hs, ran]; rfl
  have hg : (r.modThr t (Thread.pushed i)).badTarget t x = false := (State.badTarget_modThr (by rfl) x).trans hr
  simp only [State.callTo, hb, hp, ran]
  exact (State.transfer_good hg).trans (congrArg ran (State.modThr_modThr ..))

theorem State.callTo_spare {s : State} {i : Issue} {t : Nat} {x : Dword} (hb : s.badTarget t x = false)
    (hr : (s.thr t).ret.length < 4) : s.callTo i t x = ran (s.modThr t (Thread.called i x)) :=
  State.callTo_spilled hb (State.spill_spare hr) hb

/-! ## CALL.I -/

section

variable {s s' : State} {i : Issue} {a t : Nat} {w : Word}
  (hx : (s.pairReg t a).toNat % 4 = 0) (hlt : (s.pairReg t a).toNat < 2 ^ 48)
  (hf : s.fetch t (s.pairReg t a - 4).toNat = (.ok w, s'))

include hx hlt hf

/-- CALL.I of a target of good form, by the function word before it (R91). -/
theorem State.callIOne_word : s.callIOne i a t = match functionBudget w with
    | none => (s', some (plainFault clsIllegalClause, s.pairReg t a))
    | some b => if (s'.warp (warpKeyOf t)).quota < b then ranBad s' (plainFault clsBudget)
        else s'.callTo i t (s.pairReg t a) := by
  have hform : ((s.pairReg t a).toNat ≥ 2 ^ 48 || (s.pairReg t a).toNat % 4 ≠ 0) = false := by
    simp only [hx, Bool.or_eq_false_iff, decide_eq_false_iff_not]
    exact ⟨Nat.not_le.mpr hlt, fun h => h rfl⟩
  simp only [State.callIOne, hform, hf]
  rfl

end

/-- A word without a guard that acts for the one thread of its group. -/
theorem State.eachMember_one_ran {s u : State} {i : Issue} {sc : Scope} {lits t : Nat} {k : State → Nat → Ran}
    (hg : i.group = [t]) (hk : k s t = ran u) : s.eachMember i sc lits k = u := by
  simp only [State.eachMember, hg, State.runAll_one_ran hk, State.raiseMany_nil]

/-! ## Spills -/

theorem spillBytes_length (e : RetEnt) : (spillBytes e).length = 16 := by
  simp [spillBytes, bytesOfWord, bytesOfNat, zeros]

theorem spillBytes_ne (e : RetEnt) : spillBytes e ≠ [] := fun h => by simpa [h] using spillBytes_length e

theorem State.bytesAt_length (s : State) (a n : Nat) : (s.bytesAt a n).length = n := by
  induction n generalizing a with
  | zero => rfl
  | succ n ih => simp [State.bytesAt, ih]

theorem State.getElem_bytesAt (s : State) (a n j : Nat) (h : j < (s.bytesAt a n).length) :
    (s.bytesAt a n)[j] = s.byteAt (a + j) := by
  induction n generalizing a j with
  | zero => simp [State.bytesAt] at h
  | succ n ih =>
    cases j with
    | zero => rfl
    | succ j =>
      have := ih (a + 1) j (by simpa [State.bytesAt] using h)
      simpa [State.bytesAt, Nat.add_comm 1 j, Nat.add_assoc] using this

/-- Bytes put below the scratchpads stand there, and no other byte changes. -/
theorem State.putBytes_stored {s : State} {a : Nat} {bs : List Byte} (ha : a + bs.length ≤ scratchBase) (h0 : bs ≠ [])
    (hm : s.mem.wf = true) : Claims.Stored s (s.putBytes a bs) a bs := by
  have hlen : 0 < bs.length := List.length_pos_of_ne_nil h0
  have hlow : a < scratchBase := by omega
  have hput : s.putBytes a bs = { s with mem := s.mem.writeN a bs } := if_pos hlow
  rw [hput]
  constructor
  case left =>
    refine List.ext_getElem (State.bytesAt_length ..) fun j hj hj' => ?_
    have hlow' : a + j < scratchBase := by omega
    rw [State.getElem_bytesAt]
    simp only [State.byteAt, hlow', if_true]
    exact Mem.read_writeN_inside _ _ _ _ hm hj'
  case right =>
    intro k hk
    simp only [State.byteAt, Mem.read_writeN_outside _ _ _ _ hk]

theorem State.bytesAt_congr {s t : State} (h : ∀ a, t.byteAt a = s.byteAt a) (a n : Nat) : t.bytesAt a n = s.bytesAt a n := by
  induction n generalizing a with
  | zero => rfl
  | succ n ih => simp only [State.bytesAt, h, ih]

/-- What is stored, from a state to a state with the same bytes. -/
theorem Stored.congr_bytes {s s' t t' : State} {lo : Nat} {bs : List Byte} (h : Claims.Stored s t lo bs)
    (hs : ∀ a, s.byteAt a = s'.byteAt a) (ht : ∀ a, t'.byteAt a = t.byteAt a) : Claims.Stored s' t' lo bs :=
  ⟨(State.bytesAt_congr ht ..).trans h.1, fun a ha => (ht a).trans ((h.2 a ha).trans (hs a))⟩

/-- A store to stacked memory (R199): its bytes, and no thread. -/
theorem State.writePhys_stack {s : State} {t path obj pa : Nat} {bs : List Byte} (hpa : targetOf pa = .stack)
    (hm : s.mem.wf = true) (h0 : bs ≠ []) (hlen : bs.length ≤ 16) :
    Claims.Stored s (s.writePhys t path obj pa bs) pa bs ∧ (s.writePhys t path obj pa bs).threads = s.threads := by
  have hlow : pa < 0x005FF0000000 := by
    by_contra h
    revert hpa
    simp only [targetOf, h, if_false]
    split_ifs <;> simp
  have hfit : pa + bs.length ≤ scratchBase := by
    have : scratchBase = 2 ^ 60 := rfl
    omega
  have hw : s.writePhys t path obj pa bs = s.writeAll t [] path obj pa bs := by simp only [State.writePhys, hpa]
  rw [hw]
  refine ⟨Stored.congr_bytes (State.putBytes_stored hfit h0 hm) (fun _ => rfl) fun _ => rfl, ?_⟩
  show (s.putBytes pa bs).threads = s.threads
  unfold State.putBytes
  split <;> rfl

/-- Four entries on chip: the oldest goes to the 16 bytes below the stack pointer (R16). -/
theorem State.spill_full {s s' : State} {i : Issue} {t : Nat} {e0 e1 e2 e3 : RetEnt} {pa mt : Nat}
    (hret : (s.thr t).ret = [e0, e1, e2, e3]) (hh : isHandler t = false) (htask : (s.thr t).task = none)
    (hw : s'.waitsOf t = []) (hsp : ((s.thr t).sp - 16).toNat % 16 = 0)
    (htr : s.translate t (((s.thr t).sp - 16).setWidth 64) 16 .write true = (.ok (pa, mt), s')) :
    s.spill i t = ran ((s'.writePhys t (pathVia pathLane mt) (s'.regionObj t ((s.thr t).sp - 16).toNat) pa
      (spillBytes e3)).modThr t fun th =>
        { th with sp := (s.thr t).sp - 16, ret := th.ret.take 3, spilled := th.spilled + 1 }) := by
  simp only [State.spill, hret, hh, htask, Bool.false_eq_true, if_false]
  generalize (s.thr t).sp - 16 = sp at *
  have hva : (sp.setWidth 64 : Dword).toNat = sp.toNat := by
    rw [BitVec.toNat_setWidth]; omega
  simp [hsp, htr, State.spillStore, hw, hva]

end Sys2Proof.Machine

namespace Sys2Proof.Claims

open Sys2Proof.Machine

theorem callsPushTheReturnAddress : CallsPushTheReturnAddress := by
  intro s i sc off a p hi target called
  refine ⟨fun h => ?spare, fun t w s' ha => ?pair,
    fun t e0 e1 e2 e3 pa mt s' hg hb hret hh htask hm hw => ?spill⟩
  case spare =>
    obtain ⟨v, hv, hb⟩ := State.eachMember_became (g := fun _ => Thread.called i target) sc 0 hi.2
      fun t ht us u hu hn => by
        obtain ⟨hgood, hlen⟩ := h t ht
        have hb := (hu.badTarget hn target).trans hgood
        have hr : (u.thr t).ret.length < 4 := by rw [hu.untouched hn]; exact hlen
        exact ⟨_, State.callTo_spare hb hr, .modThr u _ t⟩
    exact ⟨v, (onIssue_some _ _ _ hi.1).trans (congrArg Host.Outcome.next hv), hb.rest, hb.thr⟩
  case pair =>
    intro x hx hlt hf
    have hl : s.Looked s' := (s.looked_fetch t _).of hf
    have hq : (s'.warp (warpKeyOf t)).quota = (s.warp (warpKeyOf t)).quota := by simp only [State.warp, hl.warps]
    have hone := State.callIOne_word (i := i) hx hlt hf
    rw [hq] at hone
    refine ⟨fun n hn hle hb hr => ?calls, fun hn => ?noFunction, fun n hn hlt => ?budget⟩
    case calls =>
      rw [← hl.thr] at hr
      simp only [hn, Nat.not_lt.mpr hle, if_false] at hone
      refine ⟨_, (onIssue_some _ _ _ hi.1).trans (congrArg Host.Outcome.next (State.eachOr_one_ran ha
        (hone.trans (State.callTo_spare hb hr)))), ?_, fun k => ?_⟩
      · rw [State.thr_modThr, if_pos rfl, hl.thr]
        rfl
      · exact hl.byteAt k
    case noFunction =>
      simp only [hn] at hone
      exact (onIssue_some _ _ _ hi.1).trans (congrArg Host.Outcome.next (State.eachOr_one_fault ha hone hl.blocks))
    case budget =>
      simp only [hn, hlt, if_true] at hone
      exact (onIssue_some _ _ _ hi.1).trans (congrArg Host.Outcome.next (State.eachOr_one_fault ha hone hl.blocks))
  case spill =>
    intro sp hsp htr hpa
    have hl : s.Looked s' := (s.looked_translate ..).of htr
    refine ⟨_, rfl, fun hr => ?_⟩
    have hs := State.spill_full (i := i) hret hh htask (by simpa only [State.waitsOf, hl.threads] using hw) hsp htr
    have hc := State.callTo_spilled hb hs ((State.badTarget_modThr (by rfl) target).trans hr)
    obtain ⟨hbytes, hthr⟩ := State.writePhys_stack (s := s') (t := t) (path := pathVia pathLane mt)
      (obj := s'.regionObj t sp.toNat) hpa (hl.mem ▸ hm) (spillBytes_ne e3) (spillBytes_length e3).le
    refine ⟨_, (onIssue_some _ _ _ hi.1).trans (congrArg Host.Outcome.next (State.eachMember_one_ran hg hc)),
      Stored.congr_bytes hbytes hl.byteAt fun _ => rfl, ?_⟩
    have hr : (s'.writePhys t (pathVia pathLane mt) (s'.regionObj t sp.toNat) pa (spillBytes e3)).thr t = s.thr t := by
      simp only [State.thr, hthr, hl.threads]
    rw [State.thr_modThr, if_pos rfl, State.thr_modThr, if_pos rfl, hr, hret]
    rfl

end Sys2Proof.Claims

namespace Sys2Proof.Machine

/-! # Returns -/

/-- A return from an entry on chip (R92). -/
theorem State.retOne_pop {s : State} {i : Issue} {t : Nat} {e : RetEnt} {r : List RetEnt} (hr : (s.thr t).ret = e :: r)
    (hd : (s.thr t).depth ≠ 0) (hb : s.badTarget t (e.addr.setWidth 64) = false) :
    s.retOne i t = ran ((s.modThr t fun th => { th with ret := r, depth := th.depth - 1 }).modThr t fun th =>
      { th with npc := some e.addr }) := by
  have haddr : ((e.addr.setWidth 64 : Dword).setWidth 48) = e.addr := by
    rw [BitVec.setWidth_setWidth_of_le _ (by decide), BitVec.setWidth_eq]
  simp only [State.retOne, hd, hr, hb, if_false]
  refine (State.transfer_good ((State.badTarget_modThr (by rfl) _).trans hb)).trans ?_
  unfold Thread.headed
  rw [haddr]

/-- With no entry on chip, the read of the record that the stack pointer names holds the thread at the word (R164). -/
theorem State.retOne_refill {s s' : State} {i : Issue} {t : Nat} {x : Nat × Nat} (hr : (s.thr t).ret = [])
    (hd : (s.thr t).depth ≠ 0) (hsp : (s.thr t).sp.toNat % 16 = 0)
    (htr : s.translate t ((s.thr t).sp.setWidth 64) 16 .read true = (.ok x, s')) :
    s.retOne i t = ran (s'.modThr t fun th => { th with
      stop := some (i.here 0), npc := some i.hdr
      refill := some { va := th.sp.setWidth 64, region := s'.regionObj t th.sp.toNat } }) := by
  have hva : ((s.thr t).sp.setWidth 64 : Dword).toNat = (s.thr t).sp.toNat := by
    rw [BitVec.toNat_setWidth]; omega
  have ht : s'.thr t = s.thr t := ((s.looked_translate ..).of htr).thr t
  simp only [State.retOne, hd, hr, hsp, htr, hva, if_false, ne_eq, not_true_eq_false, Thread.holdAt, State.modThr, ht]

/-- The exit of a thread that runs no task (R93). -/
theorem State.leave_noTask {s : State} {t : Nat} (h : (s.thr t).task = none) : s.leave t = ran (s.exitThread t) := by
  simp only [State.leave, h]

/-- At depth 0 a return is an exit (R92). -/
theorem State.retOne_bottom {s : State} {i : Issue} {t : Nat} (hd : (s.thr t).depth = 0) (h : (s.thr t).task = none) :
    s.retOne i t = ran (s.exitThread t) := by
  simp [State.retOne, State.retBottom, hd, h, State.leave_noTask]

end Sys2Proof.Machine

namespace Sys2Proof.Claims

open Sys2Proof.Machine

theorem returnsPopOrRefillOrExit : ReturnsPopOrRefillOrExit := by
  intro s i sc p t hi ha th fin
  have fin_of : ∀ r, s.retOne i t = ran r → fin r := fun r h =>
    (onIssue_some _ _ _ hi.1).trans (congrArg (fun r => Host.Outcome.next (State.settle r (i.group.headD 0)))
      (State.eachOr_one_ran ha h))
  refine ⟨fun e r hr hd hb => fin_of _ (State.retOne_pop hr hd hb),
    fun pa mt s' hr hd hsp htr => fin_of _ (State.retOne_refill hr hd hsp htr),
    fun hd htask => ⟨fin_of _ (State.retOne_bottom hd htask), ?_⟩⟩
  exact (onIssue_some _ _ _ hi.1).trans (congrArg (fun r => Host.Outcome.next (State.settle r (i.group.headD 0)))
    (State.eachOr_one_ran ha (State.leave_noTask htask)))

end Sys2Proof.Claims

namespace Sys2Proof.Machine

/-! # The exit of a thread -/

/-- A thread without what barriers keep for it: arrivals, holds, and what their releases show it. -/
def Thread.unbarred (th : Thread) : Thread :=
  { th with arr := [], bwait := [], rearm := [], seen := [], covered := [], pendRel := [] }

section

variable {f : Thread → Thread}

/-- The bookkeeping changes no byte of memory. -/
theorem State.Alike.byteAt {s t : State} (h : s.Alike f t) (a : Nat) : t.byteAt a = s.byteAt a := by
  have hmem : t.mem = s.mem := by rw [h.rest]
  have hscratch : t.scratch = s.scratch := by rw [h.rest]
  simp only [State.byteAt, hmem, hscratch]

theorem State.Alike.warps {s t : State} (h : s.Alike f t) : t.warps = s.warps := by rw [h.rest]

theorem State.alike_modLaunch (s : State) (l : Nat) (g : Launch → Launch) : s.Alike f (s.modLaunch l g) := by
  unfold State.modLaunch
  split
  · exact .ofThreads rfl rfl
  · exact .refl ..

theorem State.alike_setBarrier (s : State) (c b : Nat) (x : Barrier) : s.Alike f (s.setBarrier c b x) := by
  unfold State.setBarrier
  split
  · exact .ofThreads rfl rfl
  · split <;> exact s.alike_modLaunch ..

theorem State.alike_barExit (s : State) (t b : Nat) : s.Alike f (s.barExit t b) := by
  unfold State.barExit
  extract_lets
  split
  · exact s.alike_setBarrier ..
  · exact .refl ..

/-- An operation's requests withdrawn, and the operation with them (R230). -/
theorem State.alike_withdraw (s : State) (o : Nat) : s.Alike f { s.withdraw o with ops := s.ops.del o } := .ofThreads rfl rfl

end

theorem State.alike_acquire (s : State) (t obj upto mask : Nat) : s.Alike Thread.unbarred (s.acquire t obj upto mask) := by
  unfold State.acquire
  exact .modThr fun _ => rfl

theorem State.alike_barRelease (s : State) (b ph t : Nat) : s.Alike Thread.unbarred (s.barRelease b ph t) := by
  unfold State.barRelease
  extract_lets
  split
  · refine .trans ?_ (State.alike_acquire ..)
    exact .modThr fun _ => rfl
  · exact .refl ..

theorem State.alike_releaseObj (s : State) (t obj pos : Nat) : s.Alike Thread.unbarred (s.releaseObj t obj pos) := by
  have drop : s.Alike Thread.unbarred (s.dropPending t obj) := by
    unfold State.dropPending
    exact .modThr fun _ => rfl
  exact drop.trans (.ofThreads rfl rfl)

theorem State.alike_countArrival (s : State) (t b : Nat) (sync : Bool) :
    s.Alike Thread.unbarred (s.countArrival t b sync) := by
  unfold State.countArrival
  extract_lets
  refine .trans (.trans (s.alike_releaseObj t (s.barKey (coreOf t) b) ((s.barrier (coreOf t) b).phase + 1)) ?_)
    (State.alike_setBarrier ..)
  exact .modThr fun _ => rfl

theorem State.alike_rearmed (s : State) (t b : Nat) : s.Alike Thread.unbarred (s.rearmed t b) := by
  unfold State.rearmed
  extract_lets
  split
  · exact .refl ..
  · refine .trans ?_ (State.alike_countArrival ..)
    exact .modThr fun _ => rfl

theorem State.alike_barTest (s : State) (c b fuel : Nat) : s.Alike Thread.unbarred (s.barTest c b fuel) := by
  induction fuel generalizing s with
  | zero => exact .refl ..
  | succ fuel ih =>
    unfold State.barTest
    extract_lets
    split
    · exact (((s.alike_setBarrier ..).trans (.foldl (fun s t => s.alike_barRelease ..) _ _)).trans
        (.foldl (fun s t => s.alike_rearmed ..) _ _)).trans (ih _)
    · exact .refl ..

/-- The release tests of the barriers that a thread leaves. -/
def State.barTests (s : State) (t : Nat) : State :=
  (List.range 28).foldl (fun s b => if s.barMember t b then s.barTest (coreOf t) b barFuel else s) s

theorem State.alike_barTests (s : State) (t : Nat) : s.Alike Thread.unbarred (s.barTests t) := by
  refine .foldl (fun s b => ?_) _ s
  split
  · exact s.alike_barTest ..
  · exact .refl ..

/-! ## Join registers -/

/-- A thread's bit cleared in the join registers of a list. -/
def State.unjoin (s : State) (t : Nat) (list : List Nat) : State :=
  list.foldl (fun s n => s.modWarp (warpKeyOf t) fun wp =>
    { wp with j := wp.j.put n (wp.j.get n 0 &&& ~~~((1 : Word) <<< laneOf t)) }) s

theorem State.unjoin_eq (s : State) (t : Nat) (list : List Nat) :
    s.unjoin t list = { s with warps := (s.unjoin t list).warps } := by
  induction list generalizing s with
  | nil => rfl
  | cons n list ih =>
    simp only [State.unjoin, List.foldl_cons] at ih ⊢
    rw [ih]
    rfl

theorem State.thr_unjoin (s : State) (t : Nat) (list : List Nat) (k : Nat) : (s.unjoin t list).thr k = s.thr k := by
  rw [State.unjoin_eq]
  rfl

theorem State.byteAt_unjoin (s : State) (t : Nat) (list : List Nat) (a : Nat) : (s.unjoin t list).byteAt a = s.byteAt a := by
  have hmem : (s.unjoin t list).mem = s.mem := by rw [State.unjoin_eq]
  have hscratch : (s.unjoin t list).scratch = s.scratch := by rw [State.unjoin_eq]
  simp only [State.byteAt, hmem, hscratch]

theorem getLsbD_clear (x : Word) (l : Nat) (h : l < 32) : (x &&& ~~~((1 : Word) <<< l)).getLsbD l = false := by
  simp [h]

/-- A bit that is 0 stays so, and the register of a turn has it 0. -/
theorem State.unjoin_cons_bit (s : State) (t m n : Nat) (h : n = m ∨
    ((s.warp (warpKeyOf t)).j.get n 0).getLsbD (laneOf t) = false) :
    (((s.unjoin t [m]).warp (warpKeyOf t)).j.get n 0).getLsbD (laneOf t) = false := by
  have hlane : laneOf t < 32 := Nat.mod_lt _ (by decide)
  simp only [State.unjoin, List.foldl_cons, List.foldl_nil, State.warp_modWarp, if_true, Tab.get_put]
  split
  · exact getLsbD_clear _ _ hlane
  · next hne => exact h.resolve_left hne

/-- In each register of the list the bit is 0. -/
theorem State.unjoin_bit (s : State) (t : Nat) (list : List Nat) {n : Nat} (h : n ∈ list ∨
    ((s.warp (warpKeyOf t)).j.get n 0).getLsbD (laneOf t) = false) :
    (((s.unjoin t list).warp (warpKeyOf t)).j.get n 0).getLsbD (laneOf t) = false := by
  induction list generalizing s with
  | nil => exact h.resolve_left (by simp)
  | cons m list ih =>
    refine ih (s.unjoin t [m]) ?_
    rcases h with h | h
    · rcases List.mem_cons.mp h with h | h
      · exact .inr (s.unjoin_cons_bit t m n (.inl h))
      · exact .inl h
    · exact .inr (s.unjoin_cons_bit t m n (.inr h))

theorem State.alike_joinLeave (s : State) (t : Nat) (list : List Nat) :
    (s.unjoin t list).Alike Thread.unjoined (s.joinLeave t list) :=
  .foldl (fun s _ => s.alike_joinTest ..) _ _

/-! ## Together -/

/-- A thread's exit up to its own fields: the groups that it leaves (R93, R115, R119, R230). -/
def State.leaveGroups (s : State) (t : Nat) : State :=
  let s := s.joinLeave t (List.range 8)
  let s := (List.range 28).foldl (fun s b => s.barExit t b) s
  (s.orphanRequests t).foldl (fun s o => { s.withdraw o with ops := s.ops.del o }) s

theorem State.alike_leaveGroups (s : State) (t : Nat) :
    (s.unjoin t (List.range 8)).Alike Thread.unjoined (s.leaveGroups t) :=
  ((s.alike_joinLeave ..).trans (.foldl (fun s _ => s.alike_barExit ..) _ _)).trans
    (.foldl (fun s _ => s.alike_withdraw ..) _ _)

/-- A thread that has exited, with the accesses that it still has performed. -/
def Thread.exited (rest : List Access) (th : Thread) : Thread :=
  { th with
    live := false, parked := th.parked && !rest.isEmpty, susp := false, stop := none, npc := none, jwait := []
    bwait := [], rearm := [], brx := none, refill := none, popped := none, spawning := [], rdv := none, deferred := rest }

theorem State.exitThread_live {s : State} {t : Nat} (h : (s.thr t).live = true) :
    s.exitThread t = ((s.leaveGroups t).modThr t (Thread.exited
      (((s.leaveGroups t).thr t).deferred.filter ((s.leaveGroups t).keepsAtExit t)))).barTests t := by
  unfold State.exitThread
  rw [if_pos h]
  rfl

/-- What a thread's exit keeps of its waiting accesses is found the same after it has left its groups. -/
theorem State.leaveGroups_keeps (s : State) (t : Nat) :
    ((s.leaveGroups t).thr t).deferred.filter ((s.leaveGroups t).keepsAtExit t) =
      (s.thr t).deferred.filter (s.keepsAtExit t) := by
  have field : ∀ {α : Type} (g : Thread → α), (∀ x, g x.unjoined = g x) → ∀ k, g ((s.leaveGroups t).thr k) = g (s.thr k) :=
    fun g hg k => ((s.alike_leaveGroups t).field g hg k).trans (congrArg g (s.thr_unjoin ..))
  have hkeeps : (s.leaveGroups t).keepsAtExit t = s.keepsAtExit t := by
    funext a
    simp only [State.keepsAtExit, field Thread.live fun _ => rfl]
  rw [hkeeps, field Thread.deferred fun _ => rfl]

/-- An exit in its three parts: the groups that the thread leaves, the thread itself, and the barriers tested then. -/
theorem State.exitThread_alike {s : State} {t : Nat} (h : (s.thr t).live = true) :
    ∃ u, (s.unjoin t (List.range 8)).Alike Thread.unjoined u ∧
      (u.modThr t (Thread.exited ((s.thr t).deferred.filter (s.keepsAtExit t)))).Alike Thread.unbarred (s.exitThread t) := by
  refine ⟨s.leaveGroups t, s.alike_leaveGroups t, ?_⟩
  rw [State.exitThread_live h, State.leaveGroups_keeps]
  exact State.alike_barTests ..

end Sys2Proof.Machine

namespace Sys2Proof.Claims

open Sys2Proof.Machine

theorem aThreadThatExitsLeavesEveryGroup : AThreadThatExitsLeavesEveryGroup := by
  intro s t hlive
  dsimp only
  obtain ⟨u, hleft, hexit⟩ := State.exitThread_alike hlive
  generalize s.exitThread t = r at hexit ⊢
  have hrest : (s.thr t).deferred = [] → (s.thr t).deferred.filter (s.keepsAtExit t) = [] := fun h => by rw [h]; rfl
  generalize (s.thr t).deferred.filter (s.keepsAtExit t) = rest at hexit hrest ⊢
  have field : ∀ {α : Type} (g : Thread → α), (∀ x, g x.unbarred = g x) → g (r.thr t) = g ((u.thr t).exited rest) :=
    fun g hg => by rw [hexit.field g hg, State.thr_modThr, if_pos rfl]
  refine ⟨field Thread.live fun _ => rfl, field Thread.susp fun _ => rfl, field Thread.deferred fun _ => rfl, fun h => ?parked,
    field Thread.jwait fun _ => rfl, field Thread.brx fun _ => rfl, field Thread.refill fun _ => rfl,
    field Thread.spawning fun _ => rfl, fun n hn => ?bits, fun a => ?bytes⟩
  case parked =>
    rw [field Thread.parked fun _ => rfl]
    simp [Thread.exited, hrest h]
  case bits =>
    have hw : r.warps = (s.unjoin t (List.range 8)).warps := hexit.warps.trans hleft.warps
    simp only [State.warp, hw]
    exact s.unjoin_bit t _ (.inl (List.mem_range.mpr hn))
  case bytes =>
    calc r.byteAt a = u.byteAt a := hexit.byteAt a
      _ = (s.unjoin t (List.range 8)).byteAt a := hleft.byteAt a
      _ = s.byteAt a := State.byteAt_unjoin ..

end Sys2Proof.Claims

namespace Sys2Proof.Machine

/-- Settles O34. -/
theorem callsReturnsAndExits : Obligations.CallsReturnsAndExits :=
  ⟨Claims.callsPushTheReturnAddress, Claims.returnsPopOrRefillOrExit, Claims.aThreadThatExitsLeavesEveryGroup⟩

end Sys2Proof.Machine

namespace Sys2Proof.Machine

/-! # A load past the registers

The bound that the statement puts on D is the quota of the warp and the cut of the access. In a state of the model either
can be above 96 (no rule of the spec gives such a quota), and D can then be a code that no register has and that reads 0
(R9), whatever the load finds. -/

/-- A load of the four bytes at 0x8000 in flight for the first thread of an agent, whose D is the code of z. -/
def zeroLoad : Op :=
  { thr := 4032, pa := 0x8000, mt := 0, epoch := 0, serial := 0, result := none
    acc := { acc := .load 0x8000 4 false 120, flag := none, hdr := 0, word := 0, scope := .lane, members := [4032], warps := []
             cuts := [(126, 200)] } }

/-- After reset, with that load in flight, a 1 in memory at its address, and a quota of 200 in the agent's warp. -/
def zeroLoadState : State :=
  { State.reset with mem := [(0x8000, 1)], warps := [(126, { Warp.empty with quota := 200 })], ops := [(0, zeroLoad)] }

theorem zeroLoadState_bytes : natOfBytes (zeroLoadState.bytesAt zeroLoad.pa 4) = 1 := by decide

theorem zeroLoadState_limit : zeroLoadState.resultLimit zeroLoad.thr zeroLoad.acc = 200 := by decide

/-- A code from 120 on reads 0 in every state. -/
theorem State.reg_of_ge (s : State) (t : Nat) {c : Nat} (h : 120 ≤ c) : s.reg t c = 0 := by
  have h96 : ¬ c < 96 := by omega
  have h120 : ¬ c < 120 := by omega
  simp only [State.reg, h96, h120, if_false]

/-- Refutes O5: its clause for a load holds D below the warp's quota and the access's cut alone, so that in
`zeroLoadState`, where both are 200, D is the code 120, which reads 0 in every state while the load's word is 1. -/
theorem not_operationsComplete : ¬ Obligations.OperationsComplete := by
  intro h
  obtain ⟨-, -, -, -, -, load⟩ := h zeroLoadState 0
  obtain ⟨w, -, -, -, -, -, word, -⟩ := load zeroLoad 0x8000 4 false 120 rfl (by decide) rfl rfl (.inl (by decide)) (by decide)
    (by rw [zeroLoadState_limit]; decide) rfl
  have hz : w.reg zeroLoad.thr 120 = 0 := w.reg_of_ge _ (Nat.le_refl _)
  have h1 := word rfl
  rw [hz, zeroLoadState_bytes] at h1
  exact absurd h1 (by decide)

end Sys2Proof.Machine

namespace Sys2Proof.Laws

/-! # Words and their fields

A word is the packing of its fields, whatever the format, and a field is its parts side by side. -/

theorem bits_ofBits (b : BitVec 2) : (Scope.ofBits b).bits = b := by revert b; decide

section

variable {w : Word} {op : Nat} {d a b : BitVec 7} {p : BitVec 3} {imm : BitVec 10} {u : BitVec 17} {off : BitVec 24}
  {j : BitVec 8}

@[simp] theorem packR_eq_iff (h : op < 64) : packR (fSc w) op d a b p = w ↔
    fOp w = op ∧ fD w = d ∧ fA w = a ∧ fB w = b ∧ fP w = p := by
  constructor
  · intro e
    rw [← e]
    exact ⟨fOp_packR _ _ _ _ _ _ h, fD_packR _ _ _ _ _ _ h, fA_packR _ _ _ _ _ _ h, fB_packR _ _ _ _ _ _ h,
      fP_packR _ _ _ _ _ _ h⟩
  · rintro ⟨rfl, rfl, rfl, rfl, rfl⟩
    apply BitVec.eq_of_toNat_eq
    rw [packR_toNat _ _ _ _ _ _ h]
    simp only [fSc, bits_ofBits, fOp, fD, fA, fB, fP, toNat_part]
    omega

@[simp] theorem packI_eq_iff (h : op < 64) : packI (fSc w) op d a imm = w ↔
    fOp w = op ∧ fD w = d ∧ fA w = a ∧ fI w = imm := by
  constructor
  · intro e
    rw [← e]
    exact ⟨fOp_packI _ _ _ _ _ h, fD_packI _ _ _ _ _ h, fA_packI _ _ _ _ _ h, fI_packI _ _ _ _ _ h⟩
  · rintro ⟨rfl, rfl, rfl, rfl⟩
    apply BitVec.eq_of_toNat_eq
    rw [packI_toNat _ _ _ _ _ h]
    simp only [fSc, bits_ofBits, fOp, fD, fA, fI, toNat_part]
    omega

@[simp] theorem packU_eq_iff (h : op < 64) : packU (fSc w) op d u = w ↔ fOp w = op ∧ fD w = d ∧ fU w = u := by
  constructor
  · intro e
    rw [← e]
    exact ⟨fOp_packU _ _ _ _ h, fD_packU _ _ _ _ h, fU_packU _ _ _ _ h⟩
  · rintro ⟨rfl, rfl, rfl⟩
    apply BitVec.eq_of_toNat_eq
    rw [packU_toNat _ _ _ _ h]
    simp only [fSc, bits_ofBits, fOp, fD, fU, toNat_part]
    omega

@[simp] theorem packB_eq_iff (h : op < 64) : packB (fSc w) op off = w ↔ fOp w = op ∧ fO w = off := by
  constructor
  · intro e
    rw [← e]
    exact ⟨fOp_packB _ _ _ h, fO_packB _ _ _ h⟩
  · rintro ⟨rfl, rfl⟩
    apply BitVec.eq_of_toNat_eq
    rw [packB_toNat _ _ _ h]
    simp only [fSc, bits_ofBits, fOp, fO, toNat_part]
    omega

@[simp] theorem packJ_eq_iff (h : op < 64) : packJ (fSc w) op j p = w ↔
    fOp w = op ∧ fJ w = j ∧ fJ0 w = 0 ∧ fP w = p := by
  constructor
  · intro e
    rw [← e]
    exact ⟨fOp_packJ _ _ _ _ h, fJ_packJ _ _ _ _ h, fJ0_packJ _ _ _ _ h, fP_packJ _ _ _ _ h⟩
  · rintro ⟨rfl, rfl, h0, rfl⟩
    apply BitVec.eq_of_toNat_eq
    rw [packJ_toNat _ _ _ _ h]
    have z : (fJ0 w).toNat = 0 := congrArg BitVec.toNat h0
    simp only [fSc, bits_ofBits, fOp, fJ, fP, fJ0, toNat_part] at z ⊢
    omega

end

theorem eq_append_iff {n m : Nat} (x : BitVec (n + m)) (y : BitVec n) (z : BitVec m) :
    x = y ++ z ↔ x.extractLsb' m n = y ∧ x.extractLsb' 0 m = z := by
  constructor
  · rintro rfl
    exact ⟨BitVec.extractLsb'_append_eq_left, BitVec.extractLsb'_append_eq_right⟩
  · rintro ⟨rfl, rfl⟩
    rw [BitVec.extractLsb'_append_extractLsb'_eq_extractLsb' (by omega), BitVec.extractLsb'_eq_self]

theorem part_part {k s l s' l' : Nat} (h : s' + l' ≤ l) (x : BitVec k) :
    (x.extractLsb' s l).extractLsb' s' l' = x.extractLsb' (s + s') l' := by
  apply BitVec.eq_of_getElem_eq
  intro i hi
  simp only [BitVec.getElem_extractLsb', BitVec.getLsbD_extractLsb', Nat.add_assoc, Bool.and_eq_right_iff_imp, decide_eq_true_eq]
  omega

/-! # What a decoder answers encodes to the word it read -/

/-- An answer of a decoder keeps every bit of its word: the instruction is of the class and encodes to the word and its
literals. -/
def Encodes (c : Cls) (w : Word) (rest : List Word) : Except DecodeErr Instr → Prop
  | .ok i => i.cls = some c ∧ encode i = w :: rest.take i.litCount
  | .error _ => True

section

variable {c : Cls} {w : Word} {rest : List Word}

@[simp] theorem encodes_error (e : DecodeErr) : Encodes c w rest (.error e) := trivial

theorem encodes_ok {i : Instr} {v : Word} (hc : i.cls = some c) (he : encode i = v :: rest.take i.litCount) (hv : v = w) :
    Encodes c w rest (.ok i) := ⟨hc, hv ▸ he⟩

@[simp] theorem encodes_rsv {q : Prop} [Decidable q] {i : Instr} :
    Encodes c w rest (rsv q i) ↔ (q → Encodes c w rest (.ok i)) := by
  by_cases h : q <;> simp [rsv, h]

@[simp] theorem encodes_lit1 {k : Word → Except DecodeErr Instr} :
    Encodes c w rest (lit1 rest k) ↔ ∀ l r, rest = l :: r → Encodes c w (l :: r) (k l) := by
  cases rest <;> simp [lit1]

theorem encodes_decodeBrm (hop : fOp w = 2) : Encodes .ctrl w rest (decodeBrm w rest) := by
  fun_cases decodeBrm w rest
  case case1 hn hl h0 =>
    have hlen : (rest.take (fB w).toNat).length = (fB w).toNat := List.length_take_of_le hl
    refine encodes_ok rfl (v := packR (fSc w) 2 0 0 (BitVec.ofNat 7 (rest.take (fB w).toNat).length) 0) ?_ ?_
    · show _ :: _ = _ :: rest.take (rest.take (fB w).toNat).length
      rw [hlen]
    · simp [*]
  all_goals exact encodes_error _

end

/-- Each arm of the seven opcode maps gives the encoder back the fields that it took from the word: the reserved ones are
0, and the parts of a field make the field. -/
theorem encodes_decodeWord (c : Cls) (w : Word) (rest : List Word) : Encodes c w rest (decodeWord c w rest) := by
  unfold decodeWord
  generalize hop : fOp w = op
  cases c <;> dsimp only
  case' alu => fun_cases decodeAlu w rest op
  case' mem => fun_cases decodeMem w rest op
  case' mtx => fun_cases decodeMtx w rest op
  case' async => fun_cases decodeAsync w rest op
  case' ctrl => fun_cases decodeCtrl w rest op
  case' gfx => fun_cases decodeGfx w rest op
  case' sys => fun_cases decodeSys w rest op
  all_goals simp -failIfUnchanged only [encodes_error, encodes_rsv, encodes_lit1, encodes_decodeBrm, hop]
  all_goals
    intros
    refine encodes_ok rfl rfl ?_
    simp [@eq_append_iff 7 3, @eq_append_iff 6 1, @eq_append_iff 5 2, @eq_append_iff 4 3, @eq_append_iff 4 2,
      @eq_append_iff 3 4, @eq_append_iff 3 1, @eq_append_iff 2 1, @eq_append_iff 9 1, @eq_append_iff 8 2,
      @eq_append_iff 5 5, @eq_append_iff 4 6, @eq_append_iff 2 8, @eq_append_iff 4 4, @eq_append_iff 2 2,
      @eq_append_iff 1 6, part_part, *]

/-- The round trips of Laws, put together over the constructors of `Instr`. -/
theorem RoundTrip.of_instr (i : Instr) : RoundTrip.Statement i :=
  open RoundTrip in
  Instr.casesOn (motive := Statement) i mov movi movl sel iadd iaddi isub imul imulh imulhUi imad imin iminUi imax
    imaxUi iabs and_ andi or_ ori xor xori shl shr sar shfiShl shfiShr shfiSar shfiRol rol bfe bfi popc clz brev isetp
    isetpi fadd fsub fmul ffma fmin fmax fsetp fabs fneg frcp frsq fsqrt fex2 flg2 fsin fcos ffloor fceil ftrunc frint
    ffract hadd2 hmul2 hfma2 badd2 bmul2 bfma2 cvt plop pmovGet pmovPut idp4 ldUi8 ldI8 ldUi16 ldI16 ld32 ld64 ld128
    st8 st16 st32 st64 st128 lds32 lds64 lds128 sts32 sts64 sts128 ldc32 atomAdd atomMin atomMax atomMinUi atomMaxUi
    atomAnd atomOr atomXor atomExch atomCas atomInc atomFadd redAdd redMin redMax redAnd redOr redXor redFadd bind
    unbind acq rel gateAcq gateTry gateRel sigLd sigSt sigAdd sigCas sigWait fence xfence cflush cinv prefetch mmaT8
    mmaI8 mmaE4 mmaE5 mmaBf mmaH mmaF32 mmaT8s mmaI8s wload accZero accRd accWr accScale accCvtF32I32 accCvtI32F32
    tstore tstoreAdd winset winget rowmax rowsum copy copyX24 filLoad filRun filStop qcfg qstat gnode gedge garm
    garmClr gwait gset engStat nop bra brm call callI ret exit jinit jwait jleave brk barSync barArrive barWait
    barInit shfl vote redux scan setdecl quota tileNext spawn yield s2r featq trap spawnSpec specOp specEnd specCommit
    specAbort specDrain specTable brx primEmit attrEmit attrIn texS texL texF texG tbLd tbSt tbBlend fragKill hallQPix
    hallQGrant depthT srd swr eret ctxRd ctxWr ctxSave ctxLoad tlbInv wfi agentClaim blkStart blkStop vdevDrain
    poolClr faultRd resumeContinue resumeSkip resumeKill pick operationComplete refillArrival brxEntryArrival
    spawnBinTimer binLaunch dispenserRefill notify qStateSkip recordCheck slotOverdue timeSliceExpiry
    preemptionRequest vdevSavefaultRetry vdevSavefaultUnmappable remoteSectorRequest hotnessDecay memHotCfgWrite
    memQpush memQpop engineCommandStart sliceElementDelivery graphNodeFinish taskAbort tilePassStart tesseraResolve
    bezelRefresh lockedRefresh bzFill bzFillComplete bzTselWrite bzTdataWrite bzModeWrite displayLinkTrained prBWrite
    fabricIngressRequest stubThawReport linkRouteFailure bandwidthPublication vdevReset vdevFreeze vdevThaw
    vdevStubClear vdevShareWrite vdevSigWrite qCtlWrite ctxCreate ctxDestroy ctxSelect ctxLegacyWrite ctxOwnerWrite
    sysRstAck drainPcieTimeout hostSignalStore hostSignalLoad registerWrite getVersion getCapabilities
    negotiateAlgorithms getDigests getCertificate challenge getMeasurements assayExtend handoverStage handoverTimeout
    coldStart warmStart

end Sys2Proof.Laws

namespace Sys2Proof.Machine

/-- Settles O19: the round trip of each instruction, and of each arm of the opcode maps. -/
theorem decodingInvertsEncoding : Obligations.DecodingInvertsEncoding := by
  refine ⟨fun i c quota rest hwf hc => Laws.RoundTrip.of_instr i quota c rest hwf hc, fun i c w rest h => ?_⟩
  have e := Laws.encodes_decodeWord c w rest
  rwa [h] at e

/-- Settles O20: each word is evaluated. -/
theorem wordsOfTheSpecDecode : Obligations.WordsOfTheSpecDecode := by
  unfold Obligations.WordsOfTheSpecDecode
  decide

end Sys2Proof.Machine

namespace Sys2Proof.Machine

/-! # A pick where a halted clause stands

A clause that a pre-emption has halted goes on before its partition picks another one. The statement on the pick asks for no
clause in progress, but not for no halted one. -/

/-- The header of a clause of one word that waits for the flag f0. -/
def waitingHeader : Header := { setb := none, seta := none, wait := 1, cls := .alu, yield := false, count := 1 }

/-- A halted clause whose threads have all left it, as `State.leaveIssues` makes them. -/
def leftClause : Issue :=
  { hdr := 0x2000, head := waitingHeader, scope := .lane, words := [0], pos := 0, ll := 0, group := [], all := [0], short := [] }

/-- Thread 0 of core 0 at the header `waitingHeader`, its flag f0 set, and that halted clause on its partition. -/
def haltedPick : State :=
  { State.reset with
    started := true, threads := [(0, { Thread.empty with live := true, pc := 0x1000, cf := 1 })]
    warps := [(0, { Warp.empty with used := true, quota := 32 })]
    blocks := [(0, { Block.empty with active := true, nwarps := 4 })], halted := [(0, leftClause)]
    mem := [(0x1000, 0x01), (0x1001, 0x01), (0x1002, 0xF0), (0x1003, 0xAF)] }

theorem haltedPick_look : haltedPick.look 0 = .clause waitingHeader [0] := by decide +kernel

theorem haltedPick_held : haltedPick.held 0 = false := by decide +kernel

/-- The halted clause is in progress again. -/
theorem haltedPick_issues : ∃ r, exec (.pick 0 0) haltedPick = .next r ∧ r.issues = [(0, leftClause)] := ⟨_, rfl, rfl⟩

/-- Refutes O53: in `haltedPick` the thread's flag is set, as its clause's wait mask asks, and nothing else holds it; the
pick starts the halted clause. -/
theorem not_clausesStartWhereTheyMay : ¬ Obligations.ClausesStartWhereTheyMay := by
  rintro ⟨starts, -⟩
  obtain ⟨waits, -⟩ := starts haltedPick 0 0 0 waitingHeader [0] (by decide) (by decide) rfl (by decide) rfl haltedPick_held
    rfl haltedPick_look (by decide)
  obtain ⟨r, hr, idle, -⟩ := waits (by decide)
  obtain ⟨u, hu, going⟩ := haltedPick_issues
  cases hr.symm.trans hu
  rw [going] at idle
  cases idle

end Sys2Proof.Machine

namespace Sys2Proof.Machine
open Sys2Proof.Claims

/-! # Floating-point numbers and their rounding (R49-R52) -/

/-! ## The grid of a format (R49)

Every finite number of a format is a whole number of its least steps. -/

/-- The number of least steps that magnitude bits stand for, with `m` fraction bits. -/
def gridSteps (m b : ℕ) : ℕ := (if b / 2 ^ m = 0 then b % 2 ^ m else 2 ^ m + b % 2 ^ m) * 2 ^ (b / 2 ^ m - 1)

/-- The number of least steps in the number 1. -/
def perOne (e m : ℕ) : ℕ := 2 ^ (2 ^ (e - 1) - 2 + m)

theorem perOne_pos (e m : ℕ) : 0 < perOne e m := by unfold perOne; positivity

theorem gridSteps_place {m s M : ℕ} (h : s = 0 ∨ 2 ^ m ≤ M) (hM : M < 2 ^ (m + 1)) :
    gridSteps m (s * 2 ^ m + M) = M * 2 ^ s := by
  have hp : 0 < 2 ^ m := by positivity
  rw [pow_succ] at hM
  by_cases hlow : M < 2 ^ m
  · obtain rfl : s = 0 := by omega
    simp [gridSteps, Nat.div_eq_of_lt hlow, Nat.mod_eq_of_lt hlow]
  · obtain ⟨c, rfl⟩ := Nat.exists_eq_add_of_le (not_lt.mp hlow)
    have hc : c < 2 ^ m := by omega
    have hb : s * 2 ^ m + (2 ^ m + c) = c + 2 ^ m * (s + 1) := by ring
    simp [gridSteps, hb, Nat.add_mul_div_left _ _ hp, Nat.div_eq_of_lt hc, Nat.mod_eq_of_lt hc]

/-- Every magnitude is placed as in `gridSteps_place`. -/
theorem exists_place (m b : ℕ) : ∃ s M, (s = 0 ∨ 2 ^ m ≤ M) ∧ M < 2 ^ (m + 1) ∧ b = s * 2 ^ m + M := by
  have hp : 0 < 2 ^ m := by positivity
  have hr := Nat.mod_lt b hp
  have hb := Nat.div_add_mod' b (2 ^ m)
  rcases Nat.eq_zero_or_eq_succ_pred (b / 2 ^ m) with h | h
  · exact ⟨0, b % 2 ^ m, .inl rfl, by rw [pow_succ]; omega, by rw [h] at hb; exact hb.symm⟩
  · refine ⟨b / 2 ^ m - 1, 2 ^ m + b % 2 ^ m, .inr (by omega), by rw [pow_succ]; omega, ?_⟩
    rw [h, Nat.succ_eq_add_one, Nat.pred_eq_sub_one] at hb
    linarith

theorem gridSteps_succ {m s M : ℕ} (h : s = 0 ∨ 2 ^ m ≤ M) (hM : M < 2 ^ (m + 1)) :
    gridSteps m (s * 2 ^ m + M + 1) = (M + 1) * 2 ^ s := by
  rcases Nat.lt_or_ge (M + 1) (2 ^ (m + 1)) with hlt | hge
  · exact gridSteps_place (h.imp_right Nat.le_succ_of_le) hlt
  · have hM1 : M + 1 = 2 ^ (m + 1) := by omega
    have hb : s * 2 ^ m + M + 1 = (s + 1) * 2 ^ m + 2 ^ m := by rw [add_assoc, hM1]; ring
    rw [hb, gridSteps_place (.inr le_rfl) (by rw [pow_succ]; have : 0 < 2 ^ m := by positivity
                                              omega), hM1]
    ring

theorem gridSteps_strictMono (m : ℕ) : StrictMono (gridSteps m) := by
  refine strictMono_nat_of_lt_succ fun b => ?_
  obtain ⟨s, M, h, hM, rfl⟩ := exists_place m b
  rw [gridSteps_place h hM, gridSteps_succ h hM]
  exact Nat.mul_lt_mul_of_pos_right (Nat.lt_succ_self M) (by positivity)

@[simp] theorem gridSteps_zero (m : ℕ) : gridSteps m 0 = 0 := by simp [gridSteps]

/-- A number of at most `m + 1` bits, scaled by a power of two, stands on the grid. -/
theorem exists_gridSteps {m : ℕ} (s M : ℕ) (hM : M < 2 ^ (m + 1)) :
    ∃ b, gridSteps m b = M * 2 ^ s ∧ b < (s + 2) * 2 ^ m := by
  induction s generalizing M with
  | zero => exact ⟨0 * 2 ^ m + M, gridSteps_place (.inl rfl) hM, by rw [pow_succ] at hM; omega⟩
  | succ s ih =>
    by_cases h : 2 ^ m ≤ M
    · refine ⟨(s + 1) * 2 ^ m + M, gridSteps_place (.inr h) hM, ?_⟩
      rw [pow_succ] at hM
      linarith
    · obtain ⟨b, hb, hlt⟩ := ih (2 * M) (by rw [pow_succ]; omega)
      exact ⟨b, by rw [hb]; ring, hlt.trans_le (Nat.mul_le_mul_right _ (by omega))⟩

/-! ## Encodings by their magnitude -/

section
variable {e m w : ℕ}

/-- The magnitude bits of an encoding. -/
def fltMag (e m w : ℕ) : ℕ := w % 2 ^ (e + m)

/-- The sign of an encoding as a factor. -/
def signOf (neg : Bool) : ℚ := if neg then -1 else 1

@[simp] theorem abs_signOf (s : Bool) : |signOf s| = 1 := by cases s <;> simp [signOf]
theorem signOf_mul_self (s : Bool) : signOf s * signOf s = 1 := by cases s <;> simp [signOf]
theorem signOf_not (s : Bool) : signOf (!s) = -signOf s := by cases s <;> simp [signOf]
theorem signOf_bne (s t : Bool) : signOf (s != t) = signOf s * signOf t := by cases s <;> cases t <;> simp [signOf]
theorem signOf_ne_zero (s : Bool) : signOf s ≠ 0 := by cases s <;> simp [signOf]

theorem fltMag_div : fltMag e m w / 2 ^ m = w / 2 ^ m % 2 ^ e := by
  rw [fltMag, add_comm, pow_add, Nat.mod_mul_right_div_self]

theorem fltMag_mod : fltMag e m w % 2 ^ m = w % 2 ^ m :=
  Nat.mod_mod_of_dvd _ (pow_dvd_pow 2 (Nat.le_add_left m e))

theorem fltMag_lt : fltMag e m w < 2 ^ (e + m) := Nat.mod_lt _ (by positivity)

theorem fltTop_le_iff {b : ℕ} (hb : b < 2 ^ (e + m)) : fltTop e m ≤ b ↔ b / 2 ^ m = 2 ^ e - 1 := by
  have hlt : b / 2 ^ m < 2 ^ e := Nat.div_lt_of_lt_mul (by rwa [add_comm, pow_add] at hb)
  rw [fltTop, ← Nat.le_div_iff_mul_le (by positivity)]
  omega

theorem fltFinite_iff : fltFinite e m w ↔ fltMag e m w < fltTop e m := by
  rw [← not_le, fltTop_le_iff fltMag_lt, fltMag_div]; rfl

theorem fltInf_iff : fltInf e m w ↔ fltMag e m w = fltTop e m := by
  have hb := Nat.div_add_mod' (fltMag e m w) (2 ^ m)
  rw [fltInf, ← fltMag_div, ← fltMag_mod (e := e)]
  constructor
  · rintro ⟨h1, h2⟩; rw [← hb, h1, h2]; rfl
  · intro h
    exact ⟨(fltTop_le_iff fltMag_lt).mp h.ge, by rw [h, fltTop, Nat.mul_mod_left]⟩

theorem fltNan_iff : fltNan e m w ↔ fltTop e m < fltMag e m w := by
  have hfin : ¬ fltFinite e m w ↔ w / 2 ^ m % 2 ^ e = 2 ^ e - 1 := not_not
  have hinf := fltInf_iff (e := e) (m := m) (w := w)
  rw [fltFinite_iff] at hfin
  rw [fltInf] at hinf
  rw [fltNan]
  omega

/-- A finite encoding is a signed number of least steps. -/
theorem fltValue_eq (he : 2 ≤ e) :
    fltValue e m w = signOf (fltNeg e m w) * (gridSteps m (fltMag e m w) / perOne e m) := by
  have hbias : 2 ≤ 2 ^ (e - 1) := Nat.le_self_pow (by omega) 2
  have hgap : 2 ^ (e - 1) - 1 - 1 + m = 2 ^ (e - 1) - 2 + m := by omega
  rw [fltValue, gridSteps, fltMag_div, fltMag_mod, perOne, signOf]
  congr 1
  by_cases hx : w / 2 ^ m % 2 ^ e = 0
  · simp [hx, hgap]
  · have h1 : w / 2 ^ m % 2 ^ e = w / 2 ^ m % 2 ^ e - 1 + 1 := by omega
    have h2 : 2 ^ (e - 1) - 1 + m = 2 ^ (e - 1) - 2 + m + 1 := by omega
    simp only [hx, if_false, h2]
    rw [h1, Nat.add_sub_cancel, pow_succ (2 : ℚ), pow_succ (2 : ℚ) (2 ^ (e - 1) - 2 + m)]
    push_cast
    field_simp

theorem abs_fltValue (he : 2 ≤ e) : |fltValue e m w| = gridSteps m (fltMag e m w) / perOne e m := by
  rw [fltValue_eq he, abs_mul, abs_signOf, one_mul, abs_of_nonneg (by positivity)]

/-! An encoding built from a sign and a magnitude. -/

theorem fltMag_signed {neg : Bool} {b : ℕ} (hb : b < 2 ^ (e + m)) : fltMag e m (fltSigned e m neg b) = b := by
  cases neg <;> simp [fltMag, fltSigned, Nat.mod_eq_of_lt hb]

theorem fltNeg_signed {neg : Bool} {b : ℕ} (hb : b < 2 ^ (e + m)) : fltNeg e m (fltSigned e m neg b) = neg := by
  have h := Nat.div_eq_of_lt hb
  cases neg <;> simp [fltNeg, fltSigned, h, Nat.add_div_left]

theorem fltSigned_lt {neg : Bool} {b : ℕ} (hb : b < 2 ^ (e + m)) : fltSigned e m neg b < 2 ^ (1 + e + m) := by
  rw [add_assoc, add_comm 1, pow_succ, fltSigned]
  split <;> omega

theorem fltTop_lt : fltTop e m < 2 ^ (e + m) := by
  rw [fltTop, pow_add]
  exact Nat.mul_lt_mul_of_pos_right (Nat.sub_lt (by positivity) one_pos) (by positivity)

/-- An encoding is its sign and its magnitude. -/
theorem fltSigned_eta (h : w < 2 ^ (1 + e + m)) : fltSigned e m (fltNeg e m w) (fltMag e m w) = w := by
  have hq : w / 2 ^ (e + m) < 2 := Nat.div_lt_of_lt_mul (by rwa [add_assoc, add_comm 1, pow_succ] at h)
  have hw := Nat.div_add_mod' w (2 ^ (e + m))
  rw [fltSigned, fltMag, fltNeg]
  rcases Nat.le_one_iff_eq_zero_or_eq_one.mp (Nat.lt_succ_iff.mp hq) with h0 | h1
  · simpa [h0] using hw
  · simpa [h1] using hw

end

/-! ## Rounding to a whole number (R52, R56) -/

/-- `R` is `z` rounded to a whole number: down, or to nearest with ties to even. -/
def RoundsTo (rz : Bool) (z : ℚ) (R : ℕ) : Prop :=
  (rz = true → (R : ℚ) ≤ z ∧ z < R + 1) ∧
  (rz = false → |(R : ℚ) - z| ≤ 1 / 2 ∧ (|(R : ℚ) - z| = 1 / 2 → R % 2 = 0))

/-- A quotient with its remainder, as a rational. -/
theorem cast_div_eq (n : ℕ) {d : ℕ} (hd : 0 < d) : (n : ℚ) / d = (n / d : ℕ) + ((n % d : ℕ) : ℚ) / d := by
  have h : (n : ℚ) = (n / d : ℕ) * d + (n % d : ℕ) := by exact_mod_cast (Nat.div_add_mod' n d).symm
  have hd' : (d : ℚ) ≠ 0 := by positivity
  field_simp
  linarith

theorem lt_natFloor_succ (n : ℕ) {d : ℕ} (hd : 0 < d) : (n : ℚ) / d < (n / d : ℕ) + 1 := by
  rw [div_lt_iff₀ (by positivity)]
  exact_mod_cast (by rw [mul_comm]; exact Nat.lt_mul_div_succ n hd)

theorem roundQ_roundsTo (rz : Bool) (n : ℕ) {d : ℕ} (hd : 0 < d) : RoundsTo rz ((n : ℚ) / d) (roundQ rz n d) := by
  have hd' : (0 : ℚ) < d := by positivity
  have hr : ((n % d : ℕ) : ℚ) < d := by exact_mod_cast Nat.mod_lt n hd
  refine ⟨fun h => ?_, fun h => ?_⟩
  · simpa [roundQ, h] using ⟨(Nat.cast_div_le : ((n / d : ℕ) : ℚ) ≤ n / d), lt_natFloor_succ n hd⟩
  · subst h
    have hz := cast_div_eq n hd
    have hr0 : (0 : ℚ) ≤ ((n % d : ℕ) : ℚ) / d := by positivity
    simp only [roundQ, Bool.false_eq_true, if_false, hz]
    by_cases hup : 2 * (n % d) > d ∨ (2 * (n % d) = d ∧ n / d % 2 = 1)
    · have h2 : (1 : ℚ) / 2 ≤ ((n % d : ℕ) : ℚ) / d := by
        rw [div_le_div_iff₀ two_pos hd']
        exact_mod_cast (by omega : 1 * d ≤ n % d * 2)
      have hlt : ((n % d : ℕ) : ℚ) / d < 1 := (div_lt_one hd').mpr hr
      rw [if_pos hup]
      push_cast
      rw [add_sub_add_left_eq_sub, abs_of_pos (by linarith)]
      refine ⟨by linarith, fun heq => ?_⟩
      have h3 : ((n % d : ℕ) : ℚ) / d = 1 / 2 := by linarith
      rw [div_eq_div_iff hd'.ne' two_ne_zero] at h3
      have h4 : n % d * 2 = 1 * d := by exact_mod_cast h3
      omega
    · have h2 : ((n % d : ℕ) : ℚ) / d ≤ 1 / 2 := by
        rw [div_le_div_iff₀ hd' two_pos]
        exact_mod_cast (by omega : n % d * 2 ≤ 1 * d)
      rw [if_neg hup, sub_add_cancel_left, abs_neg, abs_of_nonneg hr0]
      refine ⟨h2, fun heq => ?_⟩
      rw [div_eq_div_iff hd'.ne' two_ne_zero] at heq
      have h4 : n % d * 2 = 1 * d := by exact_mod_cast heq
      omega

/-- A rounded number is one of the two whole numbers around it. -/
theorem RoundsTo.bounds {rz : Bool} {z : ℚ} {R M : ℕ} (h : RoundsTo rz z R) (h1 : (M : ℚ) ≤ z) (h2 : z < M + 1) :
    R = M ∨ R = M + 1 := by
  cases rz
  case true =>
    obtain ⟨ha, hb⟩ := h.1 rfl
    have h3 : (R : ℚ) < M + 1 := by linarith
    have h4 : (M : ℚ) < R + 1 := by linarith
    norm_cast at h3 h4
    omega
  case false =>
    obtain ⟨ha, hb⟩ := abs_le.mp (h.2 rfl).1
    have h3 : (R : ℚ) < M + 2 := by linarith
    have h4 : (M : ℚ) < R + 1 := by linarith
    norm_cast at h3 h4
    omega

/-! ## The binade of a number -/

theorem pow_le_div_of_log2 {n d : ℕ} (hn : 0 < n) (hd : 0 < d) :
    (2 : ℚ) ^ (((Nat.log2 n : ℕ) : ℤ) - (Nat.log2 d : ℕ) - 1) < (n : ℚ) / d ∧
    (n : ℚ) / d < (2 : ℚ) ^ (((Nat.log2 n : ℕ) : ℤ) - (Nat.log2 d : ℕ) + 1) := by
  have n1 : (2 : ℚ) ^ (Nat.log2 n) ≤ n := by exact_mod_cast Nat.log2_self_le hn.ne'
  have n2 : (n : ℚ) < 2 ^ (Nat.log2 n + 1) := by exact_mod_cast Nat.lt_log2_self
  have d1 : (2 : ℚ) ^ (Nat.log2 d) ≤ d := by exact_mod_cast Nat.log2_self_le hd.ne'
  have d2 : (d : ℚ) < 2 ^ (Nat.log2 d + 1) := by exact_mod_cast Nat.lt_log2_self
  have hd' : (0 : ℚ) < d := by positivity
  constructor
  · rw [sub_sub, zpow_sub₀ two_ne_zero, ← Nat.cast_succ, zpow_natCast, zpow_natCast]
    exact div_lt_div₀' n1 d2 (by positivity) hd'
  · rw [sub_add_eq_add_sub, zpow_sub₀ two_ne_zero, ← Nat.cast_succ, zpow_natCast, zpow_natCast]
    exact div_lt_div₀ n2 d1 (by positivity) (by positivity)

/-- A scaled comparison, on either side of the exponent's sign. -/
theorem scaled_le_iff {n d : ℕ} (hd : 0 < d) (k : ℤ) :
    (if 0 ≤ k then d * 2 ^ k.toNat ≤ n else d ≤ n * 2 ^ (-k).toNat) ↔ (2 : ℚ) ^ k ≤ (n : ℚ) / d := by
  have hd' : (0 : ℚ) < d := by positivity
  rw [le_div_iff₀ hd']
  split
  case isTrue h =>
    obtain ⟨j, rfl⟩ := Int.eq_ofNat_of_zero_le h
    rw [Int.toNat_natCast, zpow_natCast, mul_comm]
    exact_mod_cast Iff.rfl
  case isFalse h =>
    obtain ⟨j, hj⟩ := Int.eq_ofNat_of_zero_le (show 0 ≤ -k by omega)
    rw [hj, Int.toNat_natCast, ← neg_neg k, hj, zpow_neg, zpow_natCast, inv_mul_le_iff₀ (by positivity), mul_comm]
    exact_mod_cast Iff.rfl

theorem ilog2_spec {n d : ℕ} (hn : 0 < n) (hd : 0 < d) :
    (2 : ℚ) ^ ilog2 n d ≤ (n : ℚ) / d ∧ (n : ℚ) / d < (2 : ℚ) ^ (ilog2 n d + 1) := by
  obtain ⟨hlo, hhi⟩ := pow_le_div_of_log2 hn hd
  have hc := scaled_le_iff (n := n) hd ((Nat.log2 n : ℤ) - Nat.log2 d)
  have key : ilog2 n d = if (2 : ℚ) ^ ((Nat.log2 n : ℤ) - Nat.log2 d) ≤ (n : ℚ) / d
      then (Nat.log2 n : ℤ) - Nat.log2 d else (Nat.log2 n : ℤ) - Nat.log2 d - 1 := by
    simp only [← hc, ilog2]
    split <;> rfl
  rw [key]
  split
  case isTrue h => exact ⟨h, hhi⟩
  case isFalse h => exact ⟨hlo.le, by rw [sub_add_cancel]; exact not_le.mp h⟩

/-- The binade of a number is unique. -/
theorem ilog2_eq {n d : ℕ} (hn : 0 < n) (hd : 0 < d) {k : ℤ} (h1 : (2 : ℚ) ^ k ≤ (n : ℚ) / d)
    (h2 : (n : ℚ) / d < (2 : ℚ) ^ (k + 1)) : ilog2 n d = k := by
  obtain ⟨h3, h4⟩ := ilog2_spec hn hd
  have h5 := (zpow_lt_zpow_iff_right₀ one_lt_two).mp (h1.trans_lt h4)
  have h6 := (zpow_lt_zpow_iff_right₀ one_lt_two).mp (h3.trans_lt h2)
  omega

/-! ## Rounding into a format (R52) -/

/-- A number divided by a power of two is rounded to a whole number. -/
theorem roundQ_scaled (rz : Bool) (n : ℕ) {d : ℕ} (hd : 0 < d) (q : ℤ) :
    RoundsTo rz ((n : ℚ) / d / (2 : ℚ) ^ q)
      (if 0 ≤ q then roundQ rz n (d * 2 ^ q.toNat) else roundQ rz (n * 2 ^ (-q).toNat) d) := by
  split
  case isTrue h =>
    obtain ⟨j, rfl⟩ := Int.eq_ofNat_of_zero_le h
    have := roundQ_roundsTo rz n (d := d * 2 ^ j) (by positivity)
    rw [Int.toNat_natCast, zpow_natCast, div_div]
    exact_mod_cast this
  case isFalse h =>
    obtain ⟨j, hj⟩ := Int.eq_ofNat_of_zero_le (show 0 ≤ -q by omega)
    have := roundQ_roundsTo rz (n * 2 ^ j) hd
    rw [hj, Int.toNat_natCast, ← neg_neg q, hj, zpow_neg, zpow_natCast, div_inv_eq_mul, div_mul_eq_mul_div]
    exact_mod_cast this

/-- The magnitude bits `b` are those of `y` least steps, rounded: the last not beyond it, or the nearest,
of two the even. -/
def GridRounds (m : ℕ) (rz : Bool) (y : ℚ) (b : ℕ) : Prop :=
  (rz = true → (gridSteps m b : ℚ) ≤ y ∧ y < gridSteps m (b + 1)) ∧
  (rz = false → ∀ c, |(gridSteps m b : ℚ) - y| ≤ |(gridSteps m c : ℚ) - y| ∧
    (|(gridSteps m b : ℚ) - y| = |(gridSteps m c : ℚ) - y| → c = b ∨ b % 2 = 0))

section
variable {m s M R : ℕ} {z : ℚ}

/-- No number but those strictly between the two whole numbers around `z` is nearer to `z` than its rounding. -/
theorem RoundsTo.nearest (hR : RoundsTo false z R) (h1 : (M : ℚ) ≤ z) (h2 : z < M + 1) {x : ℚ}
    (hx : x ≤ M ∨ (M : ℚ) + 1 ≤ x) :
    |(R : ℚ) - z| ≤ |x - z| ∧ (|(R : ℚ) - z| = |x - z| → x = R ∨ R % 2 = 0) := by
  obtain ⟨hhalf, htie⟩ := hR.2 rfl
  rcases hx with hx | hx
  · rw [abs_of_nonpos (by linarith : x - z ≤ 0)]
    rcases hR.bounds h1 h2 with rfl | rfl
    · rw [abs_of_nonpos (by linarith)]
      exact ⟨by linarith, fun heq => .inl (by linarith)⟩
    · push_cast at *
      rw [abs_of_pos (by linarith)] at *
      exact ⟨by linarith, fun heq => .inr (htie (by linarith))⟩
  · rw [abs_of_pos (by linarith : 0 < x - z)]
    rcases hR.bounds h1 h2 with rfl | rfl
    · rw [abs_of_nonpos (by linarith)] at *
      exact ⟨by linarith, fun heq => .inr (htie (by linarith))⟩
    · push_cast at *
      rw [abs_of_pos (by linarith)]
      exact ⟨by linarith, fun heq => .inl (by linarith)⟩

/-- A number in a binade, rounded to a whole number of the binade's steps, is rounded on the grid. -/
theorem gridRounds_of_place {rz : Bool} (hm : 1 ≤ m) (h : s = 0 ∨ 2 ^ m ≤ M) (hM : M < 2 ^ (m + 1)) (h1 : (M : ℚ) ≤ z)
    (h2 : z < M + 1) (hR : RoundsTo rz z R) : GridRounds m rz (z * 2 ^ s) (s * 2 ^ m + R) := by
  have hs : (0 : ℚ) < 2 ^ s := by positivity
  have hb0 := gridSteps_place h hM
  have hb1 := gridSteps_succ h hM
  have hRM := hR.bounds h1 h2
  have hb : gridSteps m (s * 2 ^ m + R) = R * 2 ^ s := by
    rcases hRM with rfl | rfl
    exacts [hb0, hb1]
  refine ⟨fun hz => ?_, fun hz c => ?_⟩
  · obtain ⟨ha, hlt⟩ := hR.1 hz
    obtain rfl : R = M := hRM.resolve_right fun hR => by
      rw [hR] at ha; push_cast at ha; linarith
    rw [hb0, hb1]
    push_cast
    exact ⟨mul_le_mul_of_nonneg_right h1 hs.le, mul_lt_mul_of_pos_right h2 hs⟩
  · subst hz
    have hpar : (s * 2 ^ m + R) % 2 = R % 2 := by
      obtain ⟨k, rfl⟩ := Nat.exists_eq_add_of_le hm
      rw [pow_add, pow_one, mul_left_comm, Nat.mul_add_mod]
    have hout : (gridSteps m c : ℚ) / 2 ^ s ≤ M ∨ (M : ℚ) + 1 ≤ gridSteps m c / 2 ^ s := by
      rcases Nat.lt_or_ge c (s * 2 ^ m + M + 1) with hlt | hge
      · exact .inl ((div_le_iff₀ hs).mpr (mod_cast hb0 ▸ (gridSteps_strictMono m).monotone (Nat.le_of_lt_succ hlt)))
      · exact .inr ((le_div_iff₀ hs).mpr (mod_cast hb1 ▸ (gridSteps_strictMono m).monotone hge))
    have hscale : ∀ x : ℚ, |x - z * 2 ^ s| = |x / 2 ^ s - z| * 2 ^ s := fun x => by
      rw [← abs_of_pos hs, ← abs_mul, abs_of_pos hs, sub_mul, div_mul_cancel₀ _ hs.ne']
    have hRs : (gridSteps m (s * 2 ^ m + R) : ℚ) / 2 ^ s = R := by
      rw [hb, Nat.cast_mul, Nat.cast_pow, Nat.cast_ofNat, mul_div_cancel_right₀ _ hs.ne']
    rw [hscale, hscale, hRs, mul_le_mul_iff_left₀ hs, mul_left_inj' hs.ne', hpar]
    refine (hR.nearest h1 h2 hout).imp_right fun heven heq => (heven heq).imp_left fun hc => ?_
    refine (gridSteps_strictMono m).injective ?_
    rw [div_eq_iff hs.ne'] at hc
    rw [hb]
    exact_mod_cast hc

end

/-- Magnitude bits past the greatest finite number become the greatest, or the infinity. -/
def Fmt.clip (f : Fmt) (rz : Bool) (b : ℕ) : ℕ := if f.inf ≤ b then (if rz then f.maxFin else f.inf) else b

section
variable {f : Fmt} {rz : Bool} {n d : ℕ}

theorem Fmt.roundMag_eq (hn : 0 < n) : f.roundMag rz n d =
    f.clip rz ((max (ilog2 n d) (1 - (f.bias : ℤ)) - (1 - (f.bias : ℤ))).toNat * 2 ^ f.mbits +
      (if 0 ≤ max (ilog2 n d) (1 - (f.bias : ℤ)) - f.mbits
        then roundQ rz n (d * 2 ^ (max (ilog2 n d) (1 - (f.bias : ℤ)) - f.mbits).toNat)
        else roundQ rz (n * 2 ^ (-(max (ilog2 n d) (1 - (f.bias : ℤ)) - f.mbits)).toNat) d)) := by
  rw [Fmt.roundMag, if_neg hn.ne']
  rfl

theorem Fmt.roundMag_grid (he : 2 ≤ f.ebits) (hm : 1 ≤ f.mbits) (hn : 0 < n) (hd : 0 < d) :
    ∃ b, f.roundMag rz n d = f.clip rz b ∧ GridRounds f.mbits rz ((n : ℚ) / d * perOne f.ebits f.mbits) b := by
  have hbias : (f.bias : ℤ) - 1 = (2 ^ (f.ebits - 1) - 2 : ℕ) := by
    have : 2 ≤ 2 ^ (f.ebits - 1) := Nat.le_self_pow (by omega) 2
    rw [Fmt.bias]
    omega
  obtain ⟨hlo, hhi⟩ := ilog2_spec hn hd
  rw [f.roundMag_eq hn]
  set E := max (ilog2 n d) (1 - (f.bias : ℤ)) with hE
  obtain ⟨s, hs⟩ := Int.eq_ofNat_of_zero_le (show 0 ≤ E - (1 - (f.bias : ℤ)) by omega)
  have hq : (2 : ℚ) ^ (E - f.mbits) * perOne f.ebits f.mbits = 2 ^ s := by
    rw [perOne, Nat.cast_pow, Nat.cast_ofNat, ← zpow_natCast, ← zpow_natCast, ← zpow_add₀ two_ne_zero]
    congr 1
    rw [Nat.cast_add, ← hbias]
    omega
  have hqpos : (0 : ℚ) < (2 : ℚ) ^ (E - f.mbits) := by positivity
  set z : ℚ := (n : ℚ) / d / (2 : ℚ) ^ (E - f.mbits) with hz
  have hy : (n : ℚ) / d * perOne f.ebits f.mbits = z * 2 ^ s := by
    rw [hz, ← hq]
    field_simp
  have hz0 : 0 ≤ z := by positivity
  have hzlt : z < 2 ^ (f.mbits + 1) := by
    rw [hz, div_lt_iff₀ hqpos, ← zpow_natCast, ← zpow_add₀ two_ne_zero]
    refine hhi.trans_le (zpow_le_zpow_right₀ one_le_two ?_)
    push_cast
    omega
  refine ⟨_, rfl, ?_⟩
  rw [hs, Int.toNat_natCast, hy]
  refine gridRounds_of_place (M := ⌊z⌋₊) hm ?_ ?_ (Nat.floor_le hz0) (Nat.lt_floor_add_one z) (roundQ_scaled rz n hd _)
  · by_cases hmax : 1 - (f.bias : ℤ) ≤ ilog2 n d
    · right
      rw [Nat.le_floor_iff hz0, hz, le_div_iff₀ hqpos]
      push_cast
      rwa [← zpow_natCast, ← zpow_add₀ two_ne_zero, show (f.mbits : ℤ) + (E - f.mbits) = ilog2 n d by omega]
    · left
      omega
  · rw [Nat.floor_lt hz0]
    exact_mod_cast hzlt

end

/-! ## What the bits of a rounded magnitude say -/

section
variable {e m : ℕ}

/-- The middle of the greatest finite number and the next power of two, where rounding to nearest overflows. -/
def fltLimit (e m : ℕ) : ℚ := 2 ^ (2 ^ (e - 1)) - 2 ^ (2 ^ (e - 1) - 1) / 2 ^ (m + 1)

theorem gridSteps_top (he : 2 ≤ e) : gridSteps m (fltTop e m) = 2 ^ m * 2 ^ (2 ^ e - 2) := by
  have h4 : 2 ^ 2 ≤ 2 ^ e := Nat.pow_le_pow_right two_pos he
  have h : fltTop e m = (2 ^ e - 2) * 2 ^ m + 2 ^ m := by
    rw [fltTop, ← Nat.succ_mul]
    congr 1
    omega
  rw [h, gridSteps_place (.inr le_rfl) (Nat.pow_lt_pow_right one_lt_two (Nat.lt_succ_self m))]

theorem fltTop_pos (he : 2 ≤ e) : 0 < fltTop e m :=
  Nat.mul_pos (Nat.sub_pos_of_lt (Nat.one_lt_two_pow (by omega))) (by positivity)

theorem gridSteps_maxFin (he : 2 ≤ e) : gridSteps m (fltTop e m - 1) = (2 ^ (m + 1) - 1) * 2 ^ (2 ^ e - 3) := by
  have h4 : 2 ^ 2 ≤ 2 ^ e := Nat.pow_le_pow_right two_pos he
  have hp : 0 < 2 ^ m := by positivity
  have h : fltTop e m - 1 = (2 ^ e - 3) * 2 ^ m + (2 ^ (m + 1) - 1) := by
    obtain ⟨k, hk⟩ := Nat.exists_eq_add_of_le h4
    rw [fltTop, hk, pow_succ 2 m, show 2 ^ 2 + k - 1 = k + 3 by omega, show 2 ^ 2 + k - 3 = k + 1 by omega, Nat.add_mul,
      Nat.add_mul]
    omega
  rw [h, gridSteps_place (.inr _) _] <;> rw [pow_succ] <;> omega

theorem fltLimit_steps (he : 2 ≤ e) : fltLimit e m * perOne e m =
    ((gridSteps m (fltTop e m - 1) : ℚ) + gridSteps m (fltTop e m)) / 2 := by
  obtain ⟨k, hk⟩ := Nat.exists_eq_add_of_le (show 2 ≤ 2 ^ (e - 1) from Nat.le_self_pow (by omega) 2)
  have h2 : 2 ^ e = 2 * 2 ^ (e - 1) := by rw [← pow_succ']; congr 1; omega
  have hle : 1 ≤ 2 ^ (m + 1) := Nat.one_le_two_pow
  rw [gridSteps_top he, gridSteps_maxFin he, fltLimit, perOne, h2, hk, show 2 * (2 + k) - 3 = k + k + 1 by omega,
    show 2 * (2 + k) - 2 = k + k + 2 by omega, show 2 + k - 1 = k + 1 by omega, show 2 + k - 2 = k by omega]
  push_cast [hle]
  rw [sub_mul, div_mul_eq_mul_div]
  field_simp
  ring

/-- On the grid, the bits of a number rounded to nearest reach the infinity's from the limit on. -/
theorem fltTop_le_iff_limit_le (he : 2 ≤ e) (hm : 1 ≤ m) {y : ℚ} {b : ℕ} (h : GridRounds m false (y * perOne e m) b) :
    fltTop e m ≤ b ↔ fltLimit e m ≤ y := by
  have hmono := gridSteps_strictMono m
  have hp : (0 : ℚ) < perOne e m := by exact_mod_cast perOne_pos e m
  have htop := fltTop_pos (m := m) he
  rw [← mul_le_mul_iff_left₀ hp, fltLimit_steps he]
  have hodd : (fltTop e m - 1) % 2 = 1 := by
    obtain ⟨k, rfl⟩ := Nat.exists_eq_add_of_le hm
    have : fltTop e (1 + k) = 2 * ((2 ^ e - 1) * 2 ^ k) := by rw [fltTop, pow_add]; ring
    omega
  constructor
  · intro hb
    obtain ⟨hnear, -⟩ := h.2 rfl (fltTop e m - 1)
    have h1 : (gridSteps m (fltTop e m) : ℚ) ≤ gridSteps m b := by exact_mod_cast hmono.monotone hb
    have h2 : (gridSteps m (fltTop e m - 1) : ℚ) < gridSteps m (fltTop e m) := by exact_mod_cast hmono (by omega)
    by_contra hlt
    rw [abs_of_pos (by linarith), le_abs] at hnear
    rcases hnear with h3 | h3 <;> linarith
  · intro hy
    by_contra hb
    obtain ⟨hnear, htie⟩ := h.2 rfl (fltTop e m)
    have h1 : (gridSteps m b : ℚ) ≤ gridSteps m (fltTop e m - 1) := by exact_mod_cast hmono.monotone (by omega)
    have h2 : (gridSteps m (fltTop e m - 1) : ℚ) < gridSteps m (fltTop e m) := by exact_mod_cast hmono (by omega)
    have h3 : (gridSteps m b : ℚ) - y * perOne e m < 0 := by linarith
    rw [abs_of_neg h3, le_abs] at hnear
    have h4 : (gridSteps m b : ℚ) = gridSteps m (fltTop e m - 1) := by rcases hnear with h4 | h4 <;> linarith
    have hb' : b = fltTop e m - 1 := hmono.injective (by exact_mod_cast h4)
    have h5 : -((gridSteps m b : ℚ) - y * perOne e m) = |(gridSteps m (fltTop e m) : ℚ) - y * perOne e m| := by
      rw [eq_comm, abs_eq (by linarith)]
      rcases hnear with h5 | h5
      · left; linarith
      · right; linarith
    rw [abs_of_neg h3] at htie
    rcases htie h5 with h6 | h6 <;> omega

end

/-! ## A value rounded into a format (R52) -/

section
variable {f : Fmt} {rz : Bool} {n d : ℕ}

theorem Fmt.clip_lt (he : 2 ≤ f.ebits) {b : ℕ} : f.clip rz b < 2 ^ (f.ebits + f.mbits) := by
  have h1 : f.inf < 2 ^ (f.ebits + f.mbits) := fltTop_lt
  have h2 : 0 < f.inf := fltTop_pos he
  rw [Fmt.clip, Fmt.maxFin]
  split_ifs <;> omega

theorem Fmt.clip_rz (he : 2 ≤ f.ebits) (b : ℕ) :
    f.clip true b < f.inf ∧ f.clip true b ≤ b ∧ ∀ c < f.inf, c ≤ b → c ≤ f.clip true b := by
  have h2 : 0 < f.inf := fltTop_pos he
  simp only [Fmt.clip, if_true, Fmt.maxFin]
  split_ifs <;> refine ⟨?_, ?_, fun c h h' => ?_⟩ <;> omega

theorem Fmt.clip_nearest {b : ℕ} : f.clip false b = if f.inf ≤ b then f.inf else b := rfl

/-- A distance between signed magnitudes is least where the signs agree. -/
theorem abs_sub_le_abs_signOf_sub {s t : Bool} {a y : ℚ} (ha : 0 ≤ a) (hy : 0 < y) :
    |a - y| ≤ |signOf t * a - signOf s * y| ∧ (|a - y| = |signOf t * a - signOf s * y| → t = s ∨ a = 0) := by
  have key : t ≠ s → |signOf t * a - signOf s * y| = a + y := fun h => by
    rcases Bool.eq_false_or_eq_true t with rfl | rfl <;> rcases Bool.eq_false_or_eq_true s with rfl | rfl <;>
      simp [signOf] at h ⊢
    · rw [abs_of_neg (by linarith)]; ring
    · positivity
  by_cases h : t = s
  · subst h
    rw [← mul_sub, abs_mul, abs_signOf, one_mul]
    exact ⟨le_rfl, fun _ => .inl rfl⟩
  · rw [key h]
    refine ⟨abs_le.mpr ⟨by linarith, by linarith⟩, fun heq => .inr ?_⟩
    rcases abs_cases (a - y) with ⟨h1, -⟩ | ⟨h1, -⟩ <;> linarith

theorem decide_signOf_mul_neg {neg : Bool} {y : ℚ} (hy : 0 < y) : decide (signOf neg * y < 0) = neg := by
  cases neg <;> simp [signOf, hy, hy.le]

/-- A number that is not 0 is rounded once (R52). -/
theorem Fmt.fltRounded_round (he : 2 ≤ f.ebits) (hm : 1 ≤ f.mbits) (neg : Bool) (hn : 0 < n) (hd : 0 < d) :
    fltRounded f.ebits f.mbits rz (signOf neg * ((n : ℚ) / d)) (f.round rz (.fin neg n d)) := by
  obtain ⟨b, hb, hgrid⟩ := f.roundMag_grid (rz := rz) he hm hn hd
  have hy : (0 : ℚ) < (n : ℚ) / d := by positivity
  set y : ℚ := (n : ℚ) / d
  have hround : f.round rz (.fin neg n d) = fltSigned f.ebits f.mbits neg (f.clip rz b) := by rw [← hb]; rfl
  have hlt := f.clip_lt (rz := rz) he (b := b)
  have hmag := fltMag_signed (neg := neg) hlt
  have hneg := fltNeg_signed (neg := neg) hlt
  have hp : (0 : ℚ) < perOne f.ebits f.mbits := by exact_mod_cast perOne_pos f.ebits f.mbits
  have hmono := gridSteps_strictMono f.mbits
  have habs : |signOf neg * y| = y := by rw [abs_mul, abs_signOf, one_mul, abs_of_pos hy]
  rw [hround, fltRounded, habs, hneg]
  refine ⟨?_, fltSigned_lt hlt, ?_, ?_, ?_⟩
  · exact (decide_signOf_mul_neg hy).symm
  · rintro rfl
    obtain ⟨hlo, hhi⟩ := hgrid.1 rfl
    obtain ⟨hfin, hle, hmax⟩ := f.clip_rz he b
    refine ⟨fltFinite_iff.mpr (hmag.symm ▸ hfin), ?_, fun w hw hwx => ?_⟩
    · rw [abs_fltValue he, hmag, div_le_iff₀ hp]
      exact le_trans (mod_cast hmono.monotone hle) hlo
    · rw [abs_fltValue he, div_le_iff₀ hp] at hwx
      rw [abs_fltValue he, abs_fltValue he, hmag]
      have h1 : fltMag f.ebits f.mbits w ≤ b := Nat.le_of_lt_succ (hmono.lt_iff_lt.mp (mod_cast hwx.trans_lt hhi))
      exact div_le_div_of_nonneg_right (mod_cast hmono.monotone (hmax _ (fltFinite_iff.mp hw) h1)) hp.le
  · rintro rfl hlim
    have htop : f.inf ≤ b := (fltTop_le_iff_limit_le he hm hgrid).mpr hlim
    rw [fltInf_iff, hmag, Fmt.clip_nearest, if_pos htop]
    rfl
  · rintro rfl hlim
    have htop : ¬ f.inf ≤ b := fun h => absurd ((fltTop_le_iff_limit_le he hm hgrid).mp h) (not_le.mpr hlim)
    rw [Fmt.clip_nearest, if_neg htop] at hmag hneg hlt ⊢
    refine ⟨fltFinite_iff.mpr (hmag.symm ▸ not_le.mp htop), fun w hw => ?_⟩
    obtain ⟨hnear, htie⟩ := hgrid.2 rfl (fltMag f.ebits f.mbits w)
    have hscale : ∀ c : ℕ, |(gridSteps f.mbits c : ℚ) - y * perOne f.ebits f.mbits| =
        |(gridSteps f.mbits c : ℚ) / perOne f.ebits f.mbits - y| * perOne f.ebits f.mbits := fun c => by
      rw [← abs_of_pos hp, ← abs_mul, abs_of_pos hp, sub_mul, div_mul_cancel₀ _ hp.ne']
    rw [hscale, hscale, mul_le_mul_iff_left₀ hp] at hnear
    rw [hscale, hscale, mul_left_inj' hp.ne'] at htie
    obtain ⟨hsgn, hsgneq⟩ := abs_sub_le_abs_signOf_sub (s := neg) (t := fltNeg f.ebits f.mbits w)
      (a := (gridSteps f.mbits (fltMag f.ebits f.mbits w) : ℚ) / perOne f.ebits f.mbits) (by positivity) hy
    rw [fltValue_eq he (w := w), fltValue_eq he, hneg, hmag, ← mul_sub, abs_mul, abs_signOf, one_mul]
    refine ⟨hnear.trans hsgn, fun heq => ?_⟩
    have hpar : fltSigned f.ebits f.mbits neg b % 2 = b % 2 := by
      obtain ⟨k, hk⟩ := Nat.exists_eq_add_of_le hm
      rw [fltSigned, hk, add_left_comm, pow_add]
      split <;> omega
    rw [hpar]
    refine (htie (le_antisymm hnear (heq ▸ hsgn))).imp_left fun hc => ?_
    rcases hsgneq (le_antisymm hsgn (heq ▸ hnear)) with hs | h0
    · rw [hs, hc]
    · rw [h0, ← hc, h0, mul_zero, mul_zero]

end

/-! ## Exact values as numbers -/

/-- The exact value `v` is the finite number `x`, with the sign `neg`, which is that of a zero too. -/
def FVal.Denotes (v : FVal) (x : ℚ) (neg : Bool) : Prop :=
  ∃ n d : ℕ, 0 < d ∧ v = .fin neg n d ∧ x = signOf neg * ((n : ℚ) / d)

section
variable {u v : FVal} {x y : ℚ} {s t : Bool}

theorem FVal.Denotes.neg (h : v.Denotes x s) : v.neg.Denotes (-x) (!s) := by
  obtain ⟨n, d, hd, rfl, rfl⟩ := h
  exact ⟨n, d, hd, rfl, by rw [signOf_not, neg_mul]⟩

theorem FVal.Denotes.mul (hu : u.Denotes x s) (hv : v.Denotes y t) : (u.mul v).Denotes (x * y) (s != t) := by
  obtain ⟨n, d, hd, rfl, rfl⟩ := hu
  obtain ⟨k, l, hl, rfl, rfl⟩ := hv
  refine ⟨n * k, d * l, Nat.mul_pos hd hl, rfl, ?_⟩
  rw [signOf_bne]
  push_cast
  field_simp

/-- The exact sum; a zero sum has the sign of its terms where they agree, and else +0 (R52). -/
theorem FVal.Denotes.add (hu : u.Denotes x s) (hv : v.Denotes y t) :
    ∃ r, (u.add v).Denotes (x + y) r ∧ (x + y = 0 → r = (s && t)) := by
  obtain ⟨n, d, hd, rfl, rfl⟩ := hu
  obtain ⟨k, l, hl, rfl, rfl⟩ := hv
  have hd' : (d : ℚ) ≠ 0 := by positivity
  have hl' : (l : ℚ) ≠ 0 := by positivity
  have hdl := Nat.mul_pos hd hl
  simp only [FVal.add]
  by_cases hst : s = t
  · subst hst
    refine ⟨s, ⟨_, _, hdl, if_pos rfl, ?_⟩, fun _ => (Bool.and_self s).symm⟩
    rw [← mul_add, div_add_div _ _ hd' hl']
    push_cast
    ring
  · have hsgn : signOf t = -signOf s := by
      rw [← signOf_not]
      congr 1
      revert hst
      cases s <;> cases t <;> decide
    have hsum : signOf s * ((n : ℚ) / d) + signOf t * ((k : ℚ) / l) = signOf s * ((n * l - k * d) / (d * l)) := by
      rw [hsgn, neg_mul, ← sub_eq_add_neg, ← mul_sub, div_sub_div _ _ hd' hl', mul_comm (d : ℚ) k]
    rw [if_neg hst, hsum]
    rcases lt_trichotomy (n * l) (k * d) with hlt | heq | hgt
    · rw [if_neg hlt.ne, if_neg hlt.not_gt]
      refine ⟨t, ⟨_, _, hdl, rfl, ?_⟩, fun h0 => ?_⟩
      · rw [hsgn, Nat.cast_sub hlt.le]
        push_cast
        ring
      · have h1 : (n : ℚ) * l < k * d := by exact_mod_cast hlt
        rw [mul_eq_zero_iff_left (signOf_ne_zero s), div_eq_zero_iff] at h0
        rcases h0 with h0 | h0
        · linarith
        · exact absurd h0 (mul_ne_zero hd' hl')
    · rw [if_pos heq]
      have h1 : (n : ℚ) * l = k * d := by exact_mod_cast heq
      refine ⟨false, ⟨0, 1, one_pos, rfl, by rw [h1]; simp⟩, fun _ => ?_⟩
      revert hst
      cases s <;> cases t <;> decide
    · rw [if_neg hgt.ne', if_pos hgt]
      refine ⟨s, ⟨_, _, hdl, rfl, ?_⟩, fun h0 => ?_⟩
      · rw [Nat.cast_sub hgt.le]
        push_cast
        ring
      · have h1 : (k : ℚ) * d < n * l := by exact_mod_cast hgt
        rw [mul_eq_zero_iff_left (signOf_ne_zero s), div_eq_zero_iff] at h0
        rcases h0 with h0 | h0
        · linarith
        · exact absurd h0 (mul_ne_zero hd' hl')

/-- The order of exact values is that of the numbers. -/
theorem FVal.Denotes.lt (hu : u.Denotes x s) (hv : v.Denotes y t) : u.lt v = decide (x < y) := by
  obtain ⟨n, d, hd, rfl, rfl⟩ := hu
  obtain ⟨k, l, hl, rfl, rfl⟩ := hv
  have hd' : (0 : ℚ) < d := by positivity
  have hl' : (0 : ℚ) < l := by positivity
  have hnum : ∀ (a : Bool) (j i : ℕ), ((FVal.fin a j i).ratNum : ℚ) = signOf a * j := fun a j i => by
    cases a <;> simp [FVal.ratNum, signOf]
  rw [FVal.lt, decide_eq_decide, ← mul_div_assoc, ← mul_div_assoc, div_lt_div_iff₀ hd' hl', ← hnum s n d, ← hnum t k l]
  exact_mod_cast Iff.rfl

/-- An exact number is rounded once into a format; a zero keeps its sign. -/
theorem FVal.Denotes.round {f : Fmt} (he : 2 ≤ f.ebits) (hm : 1 ≤ f.mbits) (rz : Bool) (h : v.Denotes x s)
    (ht : x = 0 → s = t) : fltIs f.ebits f.mbits rz x t (f.round rz v) := by
  obtain ⟨n, d, hd, rfl, rfl⟩ := h
  have hd' : (d : ℚ) ≠ 0 := by positivity
  refine ⟨fun h0 => ?_, fun hne => ?_⟩
  · have hn : n = 0 := by simpa [signOf_ne_zero, hd'] using h0
    rw [← ht h0, hn]
    rfl
  · have hn : 0 < n := Nat.pos_of_ne_zero fun h0 => hne (by simp [h0])
    exact Fmt.fltRounded_round he hm s hn hd

end

/-! ## Decoding an encoding (R49) -/

section
variable {f : Fmt} {w : ℕ}

theorem bitsOf_exponent (f : Fmt) (he : 2 ≤ f.ebits) (w : ℕ) :
    bitsOf w (f.ebits + f.mbits - 1) f.mbits = w / 2 ^ f.mbits % 2 ^ f.ebits := by
  rw [bitsOf]
  congr 2
  omega

theorem decode_nan (he : 2 ≤ f.ebits) (h : fltNan f.ebits f.mbits w) : f.decode w = .nan := by
  simp only [Fmt.decode, bitsOf_exponent f he, h.1, if_true, h.2, if_false]

theorem decode_inf (he : 2 ≤ f.ebits) (h : fltInf f.ebits f.mbits w) :
    f.decode w = .inf (fltNeg f.ebits f.mbits w) := by
  simp only [Fmt.decode, bitsOf_exponent f he, h.1, if_true, h.2]
  rfl

theorem bitOf_sign (f : Fmt) (w : ℕ) : bitOf w (f.ebits + f.mbits) = fltNeg f.ebits f.mbits w := rfl

theorem scaled_denotes (neg : Bool) (n : ℕ) (k : ℤ) :
    (scaled neg n k).Denotes (signOf neg * (n * (2 : ℚ) ^ k)) neg := by
  rw [scaled]
  split
  case isTrue h =>
    obtain ⟨j, rfl⟩ := Int.eq_ofNat_of_zero_le h
    exact ⟨_, _, one_pos, rfl, by simp⟩
  case isFalse h =>
    obtain ⟨j, hj⟩ := Int.eq_ofNat_of_zero_le (show 0 ≤ -k by omega)
    refine ⟨_, _, by positivity, rfl, ?_⟩
    rw [hj, Int.toNat_natCast, ← neg_neg k, hj, zpow_neg, zpow_natCast, div_eq_mul_inv]
    push_cast
    rfl

theorem decode_denotes (he : 2 ≤ f.ebits) (h : fltFinite f.ebits f.mbits w) :
    (f.decode w).Denotes (fltValue f.ebits f.mbits w) (fltNeg f.ebits f.mbits w) := by
  have hbias : (f.bias : ℤ) = (2 ^ (f.ebits - 1) - 1 - 1 : ℕ) + 1 := by
    have : 2 ≤ 2 ^ (f.ebits - 1) := Nat.le_self_pow (by omega) 2
    rw [Fmt.bias]
    omega
  have hbias' : 2 ^ (f.ebits - 1) - 1 = f.bias := rfl
  rw [hbias'] at hbias
  rw [fltFinite] at h
  simp only [Fmt.decode, bitsOf_exponent f he, bitOf_sign, if_neg h]
  rw [fltValue, hbias']
  change FVal.Denotes _ (signOf (fltNeg f.ebits f.mbits w) * _) _
  set x := w / 2 ^ f.mbits % 2 ^ f.ebits
  set c := w % 2 ^ f.mbits
  by_cases hx : x = 0
  · simp only [hx, if_true]
    convert scaled_denotes (fltNeg f.ebits f.mbits w) c (1 - (f.bias : ℤ) - f.mbits) using 2
    rw [show 1 - (f.bias : ℤ) - f.mbits = -((f.bias - 1 + f.mbits : ℕ) : ℤ) by omega, zpow_neg, zpow_natCast]
    rfl
  · simp only [hx, if_false]
    convert scaled_denotes (fltNeg f.ebits f.mbits w) (2 ^ f.mbits + c) ((x : ℤ) - f.bias - f.mbits) using 2
    rw [sub_sub, zpow_sub₀ two_ne_zero, ← Nat.cast_add, zpow_natCast, zpow_natCast, mul_div_assoc]
    push_cast
    rfl

/-- An encoding is a NaN, an infinity or a finite number. -/
theorem flt_cases (e m w : ℕ) : fltNan e m w ∨ fltInf e m w ∨ fltFinite e m w := by
  rw [fltNan_iff, fltInf_iff, fltFinite_iff]
  omega

theorem not_fltNan_of_finite {e m w : ℕ} (h : fltFinite e m w) : ¬ fltNan e m w := fun h' => h h'.1
theorem not_fltInf_of_finite {e m w : ℕ} (h : fltFinite e m w) : ¬ fltInf e m w := fun h' => h h'.1

end

/-! ## Sums and products with an infinity or a NaN -/

section
variable {u v : FVal} {x y : ℚ} {s t : Bool}

@[simp] theorem FVal.nan_add (v : FVal) : FVal.nan.add v = .nan := by cases v <;> rfl
@[simp] theorem FVal.add_nan (v : FVal) : v.add .nan = .nan := by cases v <;> rfl
@[simp] theorem FVal.nan_mul (v : FVal) : FVal.nan.mul v = .nan := by cases v <;> rfl
@[simp] theorem FVal.mul_nan (v : FVal) : v.mul .nan = .nan := by cases v <;> rfl
@[simp] theorem FVal.inf_add_inf (s t : Bool) : (FVal.inf s).add (.inf t) = if s = t then .inf s else .nan := rfl
@[simp] theorem FVal.inf_mul_inf (s t : Bool) : (FVal.inf s).mul (.inf t) = .inf (s != t) := rfl

theorem FVal.Denotes.inf_add (h : v.Denotes x t) (s : Bool) : (FVal.inf s).add v = .inf s := by
  obtain ⟨n, d, -, rfl, -⟩ := h
  rfl

theorem FVal.Denotes.add_inf (h : v.Denotes x t) (s : Bool) : v.add (.inf s) = .inf s := by
  obtain ⟨n, d, -, rfl, -⟩ := h
  rfl

/-- A finite value is 0 where its numerator is. -/
theorem FVal.Denotes.eq_zero_iff {n d : ℕ} (h : (FVal.fin s n d).Denotes x t) : x = 0 ↔ n = 0 := by
  obtain ⟨k, l, hl, heq, rfl⟩ := h
  cases heq
  simp [signOf_ne_zero, hl.ne']

theorem FVal.Denotes.inf_mul (h : v.Denotes x t) (s : Bool) :
    (FVal.inf s).mul v = if x = 0 then .nan else .inf (s != t) := by
  obtain ⟨n, d, hd, rfl, hx⟩ := id h
  simp only [h.eq_zero_iff]
  rfl

theorem FVal.Denotes.mul_inf (h : v.Denotes x t) (s : Bool) :
    v.mul (.inf s) = if x = 0 then .nan else .inf (t != s) := by
  obtain ⟨n, d, hd, rfl, hx⟩ := id h
  simp only [h.eq_zero_iff]
  rfl

end

/-! ## Products and fused products of encodings (R52, R54) -/

section
variable {f : Fmt} {x y z : ℕ}

theorem fltValue_eq_zero_iff {e m w : ℕ} (he : 2 ≤ e) : fltValue e m w = 0 ↔ w % 2 ^ (e + m) = 0 := by
  have hp : (perOne e m : ℚ) ≠ 0 := by exact_mod_cast (perOne_pos e m).ne'
  have h0 : gridSteps m (fltMag e m w) = 0 ↔ fltMag e m w = 0 :=
    (gridSteps_strictMono m).injective.eq_iff' (gridSteps_zero m)
  rw [fltValue_eq he, mul_eq_zero_iff_left (signOf_ne_zero _), div_eq_zero_iff, or_iff_left hp, Nat.cast_eq_zero, h0]
  rfl

theorem fltFinite_of_zero {e m w : ℕ} (he : 2 ≤ e) (h : w % 2 ^ (e + m) = 0) : fltFinite e m w :=
  fltFinite_iff.mpr (show w % 2 ^ (e + m) < _ from h ▸ fltTop_pos he)

/-- The product is a NaN: a source is one, or one is an infinity and the other 0. -/
def fltBad (e m x y : ℕ) : Prop :=
  fltNan e m x ∨ fltNan e m y ∨ (fltInf e m x ∧ y % 2 ^ (e + m) = 0) ∨ (x % 2 ^ (e + m) = 0 ∧ fltInf e m y)

/-- `p` is the exact product of two encodings. -/
structure IsProduct (f : Fmt) (x y : ℕ) (p : FVal) : Prop where
  nan : fltBad f.ebits f.mbits x y → p = .nan
  inf : ¬ fltBad f.ebits f.mbits x y → fltInf f.ebits f.mbits x ∨ fltInf f.ebits f.mbits y →
    p = .inf (fltNeg f.ebits f.mbits x != fltNeg f.ebits f.mbits y)
  fin : fltFinite f.ebits f.mbits x → fltFinite f.ebits f.mbits y →
    p.Denotes (fltValue f.ebits f.mbits x * fltValue f.ebits f.mbits y)
      (fltNeg f.ebits f.mbits x != fltNeg f.ebits f.mbits y)

theorem mul_decode_nan (he : 2 ≤ f.ebits) (h : fltBad f.ebits f.mbits x y) : (f.decode x).mul (f.decode y) = .nan := by
  rcases h with h | h | ⟨hx, hy⟩ | ⟨hx, hy⟩
  · rw [decode_nan he h, FVal.nan_mul]
  · rw [decode_nan he h, FVal.mul_nan]
  · have hd := decode_denotes he (fltFinite_of_zero he hy)
    rw [decode_inf he hx, hd.inf_mul, if_pos ((fltValue_eq_zero_iff he).mpr hy)]
  · have hd := decode_denotes he (fltFinite_of_zero he hx)
    rw [decode_inf he hy, hd.mul_inf, if_pos ((fltValue_eq_zero_iff he).mpr hx)]

theorem mul_decode_inf (he : 2 ≤ f.ebits) (h : ¬ fltBad f.ebits f.mbits x y)
    (hinf : fltInf f.ebits f.mbits x ∨ fltInf f.ebits f.mbits y) :
    (f.decode x).mul (f.decode y) = .inf (fltNeg f.ebits f.mbits x != fltNeg f.ebits f.mbits y) := by
  simp only [fltBad, not_or] at h
  obtain ⟨hnx, hny, hxy, hyx⟩ := h
  rcases (flt_cases f.ebits f.mbits x).resolve_left hnx with hx | hx <;>
    rcases (flt_cases f.ebits f.mbits y).resolve_left hny with hy | hy
  · rw [decode_inf he hx, decode_inf he hy, FVal.inf_mul_inf]
  · rw [decode_inf he hx, (decode_denotes he hy).inf_mul, if_neg]
    exact fun h0 => hxy ⟨hx, (fltValue_eq_zero_iff he).mp h0⟩
  · rw [decode_inf he hy, (decode_denotes he hx).mul_inf, if_neg]
    exact fun h0 => hyx ⟨(fltValue_eq_zero_iff he).mp h0, hy⟩
  · exact absurd hinf (not_or.mpr ⟨(not_fltInf_of_finite hx), (not_fltInf_of_finite hy)⟩)

theorem isProduct_mul (he : 2 ≤ f.ebits) (x y : ℕ) : IsProduct f x y ((f.decode x).mul (f.decode y)) :=
  ⟨mul_decode_nan he, mul_decode_inf he, fun hx hy => (decode_denotes he hx).mul (decode_denotes he hy)⟩

/-- A number is its product with an encoding of 1. -/
theorem isProduct_one (he : 2 ≤ f.ebits) (x : ℕ) {o : ℕ} (ho : fltFinite f.ebits f.mbits o)
    (h1 : fltValue f.ebits f.mbits o = 1) (h0 : fltNeg f.ebits f.mbits o = false) : IsProduct f x o (f.decode x) := by
  have hne : ¬ o % 2 ^ (f.ebits + f.mbits) = 0 := fun h =>
    absurd ((fltValue_eq_zero_iff he).mpr h) (h1 ▸ one_ne_zero)
  refine ⟨fun h => ?_, fun _ h => ?_, fun h _ => ?_⟩
  · rcases h with h | h | ⟨-, h⟩ | ⟨-, h⟩
    exacts [decode_nan he h, absurd h (not_fltNan_of_finite ho), absurd h hne, absurd h (not_fltInf_of_finite ho)]
  · rw [decode_inf he (h.resolve_right (not_fltInf_of_finite ho)), h0, Bool.bne_false]
  · rw [h1, h0, mul_one, Bool.bne_false]
    exact decode_denotes he h

/-! The sum of a product and an encoding. -/

section
variable {p : FVal}

theorem IsProduct.add_nan (hp : IsProduct f x y p) (he : 2 ≤ f.ebits)
    (h : fltBad f.ebits f.mbits x y ∨ fltNan f.ebits f.mbits z ∨
      ((fltInf f.ebits f.mbits x ∨ fltInf f.ebits f.mbits y) ∧ fltInf f.ebits f.mbits z ∧
        (fltNeg f.ebits f.mbits x != fltNeg f.ebits f.mbits y) ≠ fltNeg f.ebits f.mbits z)) :
    p.add (f.decode z) = .nan := by
  rcases h with h | h | ⟨hinf, hz, hne⟩
  · rw [hp.nan h, FVal.nan_add]
  · rw [decode_nan he h, FVal.add_nan]
  · by_cases hbad : fltBad f.ebits f.mbits x y
    · rw [hp.nan hbad, FVal.nan_add]
    · rw [hp.inf hbad hinf, decode_inf he hz, FVal.inf_add_inf, if_neg hne]

theorem IsProduct.add_inf (hp : IsProduct f x y p) (he : 2 ≤ f.ebits) (h : ¬ fltBad f.ebits f.mbits x y)
    (hinf : fltInf f.ebits f.mbits x ∨ fltInf f.ebits f.mbits y) (hz : ¬ fltNan f.ebits f.mbits z)
    (hs : fltInf f.ebits f.mbits z → (fltNeg f.ebits f.mbits x != fltNeg f.ebits f.mbits y) = fltNeg f.ebits f.mbits z) :
    p.add (f.decode z) = .inf (fltNeg f.ebits f.mbits x != fltNeg f.ebits f.mbits y) := by
  rw [hp.inf h hinf]
  rcases (flt_cases f.ebits f.mbits z).resolve_left hz with hz | hz
  · rw [decode_inf he hz, FVal.inf_add_inf, if_pos (hs hz)]
  · rw [(decode_denotes he hz).inf_add]

theorem IsProduct.add_addend (hp : IsProduct f x y p) (he : 2 ≤ f.ebits) (hx : fltFinite f.ebits f.mbits x)
    (hy : fltFinite f.ebits f.mbits y) (hz : fltInf f.ebits f.mbits z) :
    p.add (f.decode z) = .inf (fltNeg f.ebits f.mbits z) := by
  rw [decode_inf he hz, (hp.fin hx hy).add_inf]

theorem IsProduct.add_denotes (hp : IsProduct f x y p) (he : 2 ≤ f.ebits) (hx : fltFinite f.ebits f.mbits x)
    (hy : fltFinite f.ebits f.mbits y) (hz : fltFinite f.ebits f.mbits z) :
    ∃ r, (p.add (f.decode z)).Denotes
        (fltValue f.ebits f.mbits x * fltValue f.ebits f.mbits y + fltValue f.ebits f.mbits z) r ∧
      (fltValue f.ebits f.mbits x * fltValue f.ebits f.mbits y + fltValue f.ebits f.mbits z = 0 →
        r = ((fltNeg f.ebits f.mbits x != fltNeg f.ebits f.mbits y) && fltNeg f.ebits f.mbits z)) :=
  (hp.fin hx hy).add (decode_denotes he hz)

end

/-! Rounding what is not a number. -/

theorem Fmt.round_nan (f : Fmt) (rz : Bool) : f.round rz .nan = fltCanon f.ebits f.mbits := rfl
theorem Fmt.round_inf (f : Fmt) (rz s : Bool) :
    f.round rz (.inf s) = fltSigned f.ebits f.mbits s (fltTop f.ebits f.mbits) := rfl

/-- Rounding into a format gives one of its encodings. -/
theorem Fmt.round_lt (f : Fmt) (he : 2 ≤ f.ebits) (hm : 1 ≤ f.mbits) (rz : Bool) (v : FVal) :
    f.round rz v < 2 ^ (1 + f.ebits + f.mbits) := by
  cases v with
  | nan =>
    have hlt : fltCanon f.ebits f.mbits < 2 ^ (f.ebits + f.mbits) := by
      have hm' : 2 ^ (f.mbits - 1) < 2 ^ f.mbits := Nat.pow_lt_pow_right one_lt_two (by omega)
      obtain ⟨k, hk⟩ := Nat.exists_eq_add_of_le (Nat.one_le_two_pow (n := f.ebits))
      rw [fltCanon, fltTop, pow_add, hk, Nat.add_sub_cancel_left, Nat.add_mul, Nat.one_mul]
      omega
    exact hlt.trans_le (Nat.pow_le_pow_right two_pos (by omega))
  | inf s => exact fltSigned_lt fltTop_lt
  | fin s n d =>
    refine fltSigned_lt (neg := s) (b := f.roundMag rz n d) ?_
    rcases Nat.eq_zero_or_pos n with rfl | hn
    · exact Nat.two_pow_pos _
    · rw [f.roundMag_eq hn]
      exact f.clip_lt he

theorem eq_of_fltInf {e m w : ℕ} (h : fltInf e m w) (hw : w < 2 ^ (1 + e + m)) :
    w = fltSigned e m (fltNeg e m w) (fltTop e m) := by
  rw [← fltInf_iff.mp h, fltSigned_eta hw]

/-- A product rounded meets its statement (R54). -/
theorem fltFused_mul (he : 2 ≤ f.ebits) (hm : 1 ≤ f.mbits) :
    fltFused f.ebits f.mbits x y none (f.round false ((f.decode x).mul (f.decode y))) := by
  have hp := isProduct_mul he x y
  refine ⟨fun h => ?_, fun h hinf => ?_, fun hx hy => ?_⟩
  · rw [hp.nan h, f.round_nan]
  · rw [hp.inf h hinf, f.round_inf]
  · exact (hp.fin hx hy).round he hm false fun _ => rfl

/-- The rounded sum of a product and an encoding meets its statement (R54). -/
theorem fltFused_add {p : FVal} (hp : IsProduct f x y p) (he : 2 ≤ f.ebits) (hm : 1 ≤ f.mbits)
    (hw : z < 2 ^ (1 + f.ebits + f.mbits)) :
    fltFused f.ebits f.mbits x y (some z) (f.round false (p.add (f.decode z))) := by
  refine ⟨fun h => ?_, fun h hinf hz hs => ?_, fun hx hy hz => ?_, fun hx hy hz => ?_⟩
  · rw [hp.add_nan he h, f.round_nan]
  · rw [hp.add_inf he h hinf hz hs, f.round_inf]
  · rw [hp.add_addend he hx hy hz, f.round_inf, ← eq_of_fltInf hz hw]
  · obtain ⟨r, hr, h0⟩ := hp.add_denotes he hx hy hz
    exact hr.round he hm false h0

end

end Sys2Proof.Machine

namespace Sys2Proof.Machine
open Sys2Proof.Claims

/-! # F32 arithmetic (R52, R53, R55) -/

/-! ## F32 words (R49, R53) -/

/-- DENORM 1 makes an F32 word with exponent 0 the zero of its sign (R53). -/
def flush32 (w : Word) : Word := if w.toNat / 2 ^ 23 % 2 ^ 8 = 0 then w &&& 0x80000000 else w

theorem getLsbD_sign (w : Word) : w.getLsbD 31 = fltNeg 8 23 w.toNat :=
  Nat.testBit_eq_decide_div_mod_eq

theorem toNat_signPart (w : Word) : (w &&& 0x80000000).toNat = w.toNat / 2 ^ 31 * 2 ^ 31 := by
  have hlt : w.toNat / 2 ^ 31 < 2 := Nat.div_lt_of_lt_mul w.isLt
  rw [BitVec.toNat_and, show (0x80000000 : Word).toNat = 2 ^ 31 from rfl, Nat.and_two_pow,
    Nat.testBit_eq_decide_div_mod_eq, Nat.mod_eq_of_lt hlt]
  interval_cases w.toNat / 2 ^ 31 <;> rfl

theorem flushF32_true {x : ℕ} (_h : x < 2 ^ 32) :
    flushF32 true x = if x / 2 ^ 23 % 2 ^ 8 = 0 then x / 2 ^ 31 * 2 ^ 31 else x := by
  have hden : fmtF32.isDenorm x = (decide (x % 2 ^ 31 < 2 ^ 23) && decide (x % 2 ^ 23 ≠ 0)) := rfl
  simp only [flushF32, hden, Bool.true_and, Bool.and_eq_true, decide_eq_true_eq]
  split_ifs <;> omega

theorem toNat_flush32 (w : Word) : (flush32 w).toNat = flushF32 true w.toNat := by
  rw [flushF32_true w.isLt, flush32]
  split
  · exact toNat_signPart w
  · rfl

theorem flushF32_false (x : ℕ) : flushF32 false x = x := rfl

theorem srcF32_daz {md : Modes} (h : md.daz = true) (w : Word) : srcF32 md w = fmtF32.decode (flush32 w).toNat := by
  rw [srcF32, h, toNat_flush32]

theorem srcF32_keep {md : Modes} (h : md.daz = false) (w : Word) : srcF32 md w = fmtF32.decode w.toNat := by
  rw [srcF32, h, flushF32_false]

theorem round_lt (rz : Bool) (v : FVal) : fmtF32.round rz v < 2 ^ 32 := fmtF32.round_lt (by decide) (by decide) rz v

/-- The F32 word of an exact value rounded. -/
def wordF32 (rz : Bool) (v : FVal) : Word := BitVec.ofNat 32 (fmtF32.round rz v)

theorem resF32_keep {md : Modes} (h : md.daz = false) (rz : Bool) (v : FVal) : resF32 md rz v = wordF32 rz v := by
  rw [resF32, h, flushF32_false, wordF32]

theorem toNat_wordF32 (rz : Bool) (v : FVal) : (wordF32 rz v).toNat = fmtF32.round rz v :=
  Nat.mod_eq_of_lt (round_lt rz v)

theorem resF32_daz {md : Modes} (h : md.daz = true) (rz : Bool) (v : FVal) :
    resF32 md rz v = flush32 (wordF32 rz v) := by
  refine BitVec.eq_of_toNat_eq ?_
  rw [toNat_flush32, toNat_wordF32, resF32, h, BitVec.toNat_ofNat, Nat.mod_eq_of_lt]
  rw [flushF32_true (round_lt rz v)]
  have := round_lt rz v
  split <;> omega

/-! The statements' own forms of F32. -/

theorem f32Value_eq (w : Word) : f32Value w = fltValue 8 23 w.toNat := by
  rw [f32Value, fltValue, getLsbD_sign]
  norm_num

theorem f32Rounded_of {rz : Bool} {x : ℚ} {r : Word} (h : fltRounded 8 23 rz x r.toNat) : f32Rounded rz x r := by
  obtain ⟨hs, -, htrunc, hover, hnear⟩ := h
  have hlim : (2 : ℚ) ^ (2 ^ (8 - 1)) - 2 ^ (2 ^ (8 - 1) - 1) / 2 ^ (23 + 1) = 2 ^ 128 - 2 ^ 103 := by norm_num
  simp only [hlim] at hover hnear
  refine ⟨getLsbD_sign r ▸ hs, fun hz => ?_, fun hz hx => fltInf_iff.mp (hover hz hx), fun hz hx => ?_⟩
  · obtain ⟨hf, hle, hmax⟩ := htrunc hz
    simp only [f32Value_eq]
    exact ⟨hf, hle, fun w => hmax w.toNat⟩
  · obtain ⟨hf, hbest⟩ := hnear hz hx
    have hpar : r.getLsbD 0 = false ↔ r.toNat % 2 = 0 := by
      rw [BitVec.getLsbD, Nat.testBit_zero]
      simp
    simp only [f32Value_eq, hpar]
    exact ⟨hf, fun w => hbest w.toNat⟩

theorem f32Nan_iff (w : Word) : 0x7F800000 < w.toNat % 2 ^ 31 ↔ fltNan 8 23 w.toNat :=
  (fltNan_iff (e := 8) (m := 23)).symm
theorem f32Inf_iff (w : Word) : w.toNat % 2 ^ 31 = 0x7F800000 ↔ fltInf 8 23 w.toNat :=
  (fltInf_iff (e := 8) (m := 23)).symm

/-- A zero or an infinity of a sign, as the statements write them. -/
def signWord (neg : Bool) : Word := if neg then 0x80000000 else 0

theorem wordF32_nan (rz : Bool) : wordF32 rz .nan = 0x7FC00000 := rfl
theorem wordF32_inf (rz s : Bool) : wordF32 rz (.inf s) = signWord s + 0x7F800000 := by cases s <;> rfl

theorem signWord_inf {w : Word} (h : w.toNat % 2 ^ 31 = 0x7F800000) : signWord (w.getLsbD 31) + 0x7F800000 = w := by
  refine BitVec.eq_of_toNat_eq ?_
  rw [eq_of_fltInf ((f32Inf_iff w).mp h) w.isLt, getLsbD_sign]
  cases fltNeg 8 23 w.toNat <;> rfl

/-- An exact number becomes the word of its rounding, or the zero of its sign. -/
theorem FVal.Denotes.wordF32 {v : FVal} {x : ℚ} {s t : Bool} (h : v.Denotes x s) (rz : Bool) (ht : x = 0 → s = t) :
    (x = 0 → wordF32 rz v = signWord t) ∧ (x ≠ 0 → f32Rounded rz x (wordF32 rz v)) := by
  have hn := toNat_wordF32 rz v
  obtain ⟨hzero, hround⟩ : fltIs 8 23 rz x t _ := h.round (f := fmtF32) (by decide) (by decide) rz ht
  refine ⟨fun h0 => BitVec.eq_of_toNat_eq ?_, fun hne => f32Rounded_of (hn ▸ hround hne)⟩
  rw [hn, hzero h0]
  cases t <;> rfl

/-! ## The order of F32 words (R55) -/

/-- The place of an F32 word in the order of FMIN, FMAX and FSETP: its magnitude bits with its sign. -/
def f32Num (w : Word) : ℤ := if w.getLsbD 31 then -((w.toNat % 2 ^ 31 : ℕ) : ℤ) else ((w.toNat % 2 ^ 31 : ℕ) : ℤ)

/-- Signed least steps are in the order of signed magnitude bits. -/
theorem signOf_gridSteps_lt_iff (m i j : ℕ) (s t : Bool) :
    signOf s * (gridSteps m i : ℚ) < signOf t * gridSteps m j ↔
      (if s then -(i : ℤ) else i) < (if t then -(j : ℤ) else j) := by
  have hmono := gridSteps_strictMono m
  have h0 : ∀ k, gridSteps m k = 0 ↔ k = 0 := fun k => hmono.injective.eq_iff' (gridSteps_zero m)
  have hij : gridSteps m i < gridSteps m j ↔ i < j := hmono.lt_iff_lt
  have hji : gridSteps m j < gridSteps m i ↔ j < i := hmono.lt_iff_lt
  have hi := h0 i
  have hj := h0 j
  have key : (signOf s * (gridSteps m i : ℚ) < signOf t * gridSteps m j) ↔
      (if s then -(gridSteps m i : ℤ) else gridSteps m i) < (if t then -(gridSteps m j : ℤ) else gridSteps m j) := by
    cases s <;> cases t <;> simp only [signOf, if_true, Bool.false_eq_true, if_false, one_mul, neg_one_mul] <;>
      exact_mod_cast Iff.rfl
  rw [key]
  cases s <;> cases t <;> simp only [if_true, Bool.false_eq_true, if_false] <;> omega

theorem f32Value_lt_iff (a b : Word) : f32Value a < f32Value b ↔ f32Num a < f32Num b := by
  have hp : (0 : ℚ) < perOne 8 23 := by exact_mod_cast perOne_pos 8 23
  rw [f32Value_eq, f32Value_eq, fltValue_eq (by decide), fltValue_eq (by decide), ← mul_div_assoc, ← mul_div_assoc,
    div_lt_div_iff_of_pos_right hp, signOf_gridSteps_lt_iff, f32Num, f32Num, getLsbD_sign, getLsbD_sign]
  rfl

theorem FVal.inf_lt_inf (s t : Bool) : (FVal.inf s).lt (.inf t) = (s && !t) := rfl
theorem FVal.inf_lt_fin (s t : Bool) (n d : ℕ) : (FVal.inf s).lt (.fin t n d) = s := rfl
theorem FVal.fin_lt_inf (s t : Bool) (n d : ℕ) : (FVal.fin s n d).lt (.inf t) = !t := rfl

/-- The order of two words that are no NaNs (R55). -/
theorem decode_lt {a b : Word} (ha : ¬ 0x7F800000 < a.toNat % 2 ^ 31) (hb : ¬ 0x7F800000 < b.toNat % 2 ^ 31) :
    (fmtF32.decode a.toNat).lt (fmtF32.decode b.toNat) = decide (f32Num a < f32Num b) := by
  have he : 2 ≤ fmtF32.ebits := by decide
  have split : ∀ w : Word, ¬ 0x7F800000 < w.toNat % 2 ^ 31 →
      (fmtF32.decode w.toNat = .inf (w.getLsbD 31) ∧ w.toNat % 2 ^ 31 = 0x7F800000) ∨
      ((fmtF32.decode w.toNat).Denotes (f32Value w) (w.getLsbD 31) ∧ w.toNat % 2 ^ 31 < 0x7F800000) := fun w hw => by
    rcases lt_or_eq_of_le (not_lt.mp hw) with h | h
    · right
      rw [f32Value_eq, getLsbD_sign]
      exact ⟨decode_denotes he (fltFinite_iff.mpr h), h⟩
    · exact .inl ⟨getLsbD_sign w ▸ decode_inf he ((f32Inf_iff w).mp h), h⟩
  rcases split a ha with ⟨ea, ma⟩ | ⟨da, ma⟩ <;> rcases split b hb with ⟨eb, mb⟩ | ⟨db, mb⟩
  · rw [ea, eb, f32Num, f32Num, ma, mb, FVal.inf_lt_inf]
    cases a.getLsbD 31 <;> cases b.getLsbD 31 <;> rfl
  · obtain ⟨n, d, -, eb, -⟩ := db
    rw [ea, eb, f32Num, f32Num, ma, FVal.inf_lt_fin]
    cases a.getLsbD 31 <;> cases b.getLsbD 31 <;> simp <;> omega
  · obtain ⟨n, d, -, ea, -⟩ := da
    rw [ea, eb, f32Num, f32Num, mb, FVal.fin_lt_inf]
    cases a.getLsbD 31 <;> cases b.getLsbD 31 <;> simp <;> omega
  · rw [da.lt db, decide_eq_decide, f32Value_lt_iff]

theorem decode_eq_nan_iff (w : Word) : fmtF32.decode w.toNat = .nan ↔ 0x7F800000 < w.toNat % 2 ^ 31 := by
  rw [f32Nan_iff]
  refine ⟨fun h => ?_, decode_nan (f := fmtF32) (by decide)⟩
  rcases flt_cases 8 23 w.toNat with h' | h' | h'
  · exact h'
  · rw [decode_inf (f := fmtF32) (by decide) h'] at h
    cases h
  · obtain ⟨n, d, -, e, -⟩ := decode_denotes (f := fmtF32) (by decide) h'
    rw [e] at h
    cases h

theorem decode_eq {a b : Word} (ha : ¬ 0x7F800000 < a.toNat % 2 ^ 31) (hb : ¬ 0x7F800000 < b.toNat % 2 ^ 31) :
    (fmtF32.decode a.toNat).eq (fmtF32.decode b.toNat) = decide (f32Num a = f32Num b) := by
  have hna := (decode_eq_nan_iff a).not.mpr ha
  have hnb := (decode_eq_nan_iff b).not.mpr hb
  rw [FVal.eq, decode_lt ha hb, decode_lt hb ha, Bool.eq_iff_iff]
  simp only [hna, hnb, ne_eq, not_false_eq_true, decide_true, Bool.true_and, Bool.and_eq_true, Bool.not_eq_true',
    decide_eq_false_iff_not, decide_eq_true_eq]
  omega

theorem FVal.eq_nan (v : FVal) : v.eq .nan = false := by simp [FVal.eq]
theorem FVal.nan_eq (v : FVal) : FVal.nan.eq v = false := by simp [FVal.eq]
theorem FVal.lt_nan (v : FVal) : v.lt .nan = false := by cases v <;> rfl
theorem FVal.nan_lt (v : FVal) : FVal.nan.lt v = false := by cases v <;> rfl

theorem signBit_eq_one_iff (w : Word) : w.toNat / 2 ^ 31 = 1 ↔ w.getLsbD 31 = true := by
  have hlt : w.toNat / 2 ^ 31 < 2 := Nat.div_lt_of_lt_mul w.isLt
  rw [getLsbD_sign, fltNeg, decide_eq_true_eq, Nat.mod_eq_of_lt hlt]

/-- The order of FMIN and FMAX, where -0 is below +0 (R55). -/
theorem fminLt_iff {a b : Word} (ha : ¬ 0x7F800000 < a.toNat % 2 ^ 31) (hb : ¬ 0x7F800000 < b.toNat % 2 ^ 31) :
    fminLt a.toNat b.toNat = true ↔
      f32Num a < f32Num b ∨ (f32Num a = f32Num b ∧ a.getLsbD 31 = true ∧ b.getLsbD 31 = false) := by
  have h0 : b.toNat / 2 ^ 31 = 0 ↔ b.getLsbD 31 = false := by
    rw [← Bool.not_eq_true, ← signBit_eq_one_iff]
    have hlt : b.toNat / 2 ^ 31 < 2 := Nat.div_lt_of_lt_mul b.isLt
    omega
  simp only [fminLt, decode_lt ha hb, decode_eq ha hb, Bool.or_eq_true, Bool.and_eq_true, decide_eq_true_eq,
    signBit_eq_one_iff, h0, and_assoc]

/-- Words of one place and one sign are equal. -/
theorem eq_of_f32Num {a b : Word} (h : f32Num a = f32Num b) (hs : a.getLsbD 31 = b.getLsbD 31) : a = b := by
  have hmag : a.toNat % 2 ^ 31 = b.toNat % 2 ^ 31 := by
    rw [f32Num, f32Num, hs] at h
    cases hb : b.getLsbD 31 <;> simp only [hb, if_true, Bool.false_eq_true, if_false] at h <;> omega
  rw [getLsbD_sign, getLsbD_sign] at hs
  refine BitVec.eq_of_toNat_eq ?_
  rw [← fltSigned_eta (e := 8) (m := 23) a.isLt, ← fltSigned_eta (e := 8) (m := 23) b.isLt, hs]
  exact congrArg _ hmag

/-! ## F32 arithmetic under DENORM (R53) -/

section
variable {md : Modes} (a b c : Word)

/-- With DENORM 1 every operation is that of flushed sources, its result flushed. -/
theorem arithmetic_daz (h : md.daz = true) :
    let off : Modes := { md with daz := false }
    fadd md a b = flush32 (fadd off (flush32 a) (flush32 b)) ∧ fsub md a b = flush32 (fsub off (flush32 a) (flush32 b)) ∧
    fmul md a b = flush32 (fmul off (flush32 a) (flush32 b)) ∧
    ffma md a b c = flush32 (ffma off (flush32 a) (flush32 b) (flush32 c)) ∧
    (∀ mx, fminmax md mx a b = fminmax off mx (flush32 a) (flush32 b)) ∧
    (∀ k, fcmp md k a b = fcmp off k (flush32 a) (flush32 b)) := by
  have hoff : ({ md with daz := false } : Modes).daz = false := rfl
  refine ⟨?_, ?_, ?_, ?_, fun mx => ?_, fun k => ?_⟩
  · simp only [fadd, srcF32_daz h, resF32_daz h, srcF32_keep hoff, resF32_keep hoff]
  · simp only [fsub, srcF32_daz h, resF32_daz h, srcF32_keep hoff, resF32_keep hoff]
  · simp only [fmul, srcF32_daz h, resF32_daz h, srcF32_keep hoff, resF32_keep hoff]
  · simp only [ffma, srcF32_daz h, resF32_daz h, srcF32_keep hoff, resF32_keep hoff]
  · simp only [fminmax, h, ← toNat_flush32, flushF32_false]
    rfl
  · simp only [fcmp, srcF32_daz h, srcF32_keep hoff]

/-! ## F32 arithmetic without DENORM (R52) -/

theorem fltNeg_flipSign : fltNeg 8 23 (b ^^^ 0x80000000).toNat = !fltNeg 8 23 b.toNat := by
  rw [← getLsbD_sign, ← getLsbD_sign, BitVec.getLsbD_xor]
  simp

theorem mod_flipSign : (b ^^^ 0x80000000).toNat % 2 ^ 31 = b.toNat % 2 ^ 31 := by
  rw [BitVec.toNat_xor, Nat.xor_mod_two_pow]
  exact Nat.xor_zero _

theorem exponent_flipSign : (b ^^^ 0x80000000).toNat / 2 ^ 23 % 2 ^ 8 = b.toNat / 2 ^ 23 % 2 ^ 8 := by
  have := mod_flipSign b
  omega

theorem fraction_flipSign : (b ^^^ 0x80000000).toNat % 2 ^ 23 = b.toNat % 2 ^ 23 := by
  have := mod_flipSign b
  omega

theorem scaled_neg (s : Bool) (n : ℕ) (k : ℤ) : (scaled s n k).neg = scaled (!s) n k := by
  rw [scaled, scaled]
  split <;> rfl

theorem decode_flipSign : fmtF32.decode (b ^^^ 0x80000000).toNat = (fmtF32.decode b.toNat).neg := by
  have hexp : ∀ w, bitsOf w (fmtF32.ebits + fmtF32.mbits - 1) fmtF32.mbits = w / 2 ^ 23 % 2 ^ 8 := fun _ => rfl
  have hfrac : ∀ w, w % 2 ^ fmtF32.mbits = w % 2 ^ 23 := fun _ => rfl
  have hsign : ∀ w, bitOf w (fmtF32.ebits + fmtF32.mbits) = fltNeg 8 23 w := fun _ => rfl
  simp only [Fmt.decode, hexp, hfrac, hsign, exponent_flipSign, fraction_flipSign, fltNeg_flipSign]
  split_ifs
  · rfl
  · rfl
  · exact (scaled_neg _ _ _).symm
  · exact (scaled_neg _ _ _).symm

theorem flush32_flipSign : flush32 (b ^^^ 0x80000000) = flush32 b ^^^ 0x80000000 := by
  rw [flush32, flush32, exponent_flipSign]
  split
  · refine BitVec.eq_of_getLsbD_eq fun i _ => ?_
    rw [BitVec.getLsbD_and, BitVec.getLsbD_xor, BitVec.getLsbD_xor, BitVec.getLsbD_and, Bool.and_xor_distrib_right,
      Bool.and_self]
  · rfl

/-- FSUB adds the number with its sign inverted. -/
theorem fsub_eq : fsub md a b = fadd md a (b ^^^ 0x80000000) := by
  have hneg : srcF32 md (b ^^^ 0x80000000) = (srcF32 md b).neg := by
    cases h : md.daz
    · rw [srcF32_keep h, srcF32_keep h, decode_flipSign]
    · rw [srcF32_daz h, srcF32_daz h, flush32_flipSign, decode_flipSign]
  rw [fsub, fadd, hneg]

theorem flush32_nan (h : 0x7F800000 < b.toNat % 2 ^ 31) : flush32 b = b := by
  rw [flush32, if_neg]
  omega

theorem srcF32_nan (h : 0x7F800000 < b.toNat % 2 ^ 31) : srcF32 md b = .nan := by
  cases hd : md.daz
  · rw [srcF32_keep hd, (decode_eq_nan_iff b).mpr h]
  · rw [srcF32_daz hd, flush32_nan b h, (decode_eq_nan_iff b).mpr h]

theorem resF32_nan (rz : Bool) : resF32 md rz .nan = 0x7FC00000 := by
  cases h : md.daz
  · rw [resF32_keep h, wordF32_nan]
  · rw [resF32_daz h, wordF32_nan]; rfl

theorem fsub_spec : fsub md a b =
    if 0x7F800000 < b.toNat % 2 ^ 31 then 0x7FC00000 else fadd md a (b ^^^ 0x80000000) := by
  split
  case isTrue h => rw [fsub, srcF32_nan b h, FVal.neg, FVal.add_nan, resF32_nan]
  case isFalse => exact fsub_eq a b

variable {a b c}

/-- Without DENORM, an operation on F32 rounds the exact value of the words' numbers. -/
theorem fadd_keep (h : md.daz = false) :
    fadd md a b = wordF32 md.rz ((fmtF32.decode a.toNat).add (fmtF32.decode b.toNat)) := by
  rw [fadd, srcF32_keep h, srcF32_keep h, resF32_keep h]

theorem fmul_keep (h : md.daz = false) :
    fmul md a b = wordF32 md.rz ((fmtF32.decode a.toNat).mul (fmtF32.decode b.toNat)) := by
  rw [fmul, srcF32_keep h, srcF32_keep h, resF32_keep h]

theorem ffma_keep (h : md.daz = false) : ffma md a b c =
    wordF32 md.rz (((fmtF32.decode a.toNat).mul (fmtF32.decode b.toNat)).add (fmtF32.decode c.toNat)) := by
  rw [ffma, srcF32_keep h, srcF32_keep h, srcF32_keep h, resF32_keep h]

theorem f32Bad_iff : fltBad 8 23 a.toNat b.toNat ↔
    0x7F800000 < a.toNat % 2 ^ 31 ∨ 0x7F800000 < b.toNat % 2 ^ 31 ∨
      (a.toNat % 2 ^ 31 = 0x7F800000 ∧ b.toNat % 2 ^ 31 = 0) ∨
      (a.toNat % 2 ^ 31 = 0 ∧ b.toNat % 2 ^ 31 = 0x7F800000) := by
  rw [f32Nan_iff, f32Nan_iff, f32Inf_iff, f32Inf_iff]
  rfl

/-- F32 words multiply as their encodings do. -/
theorem isProduct_f32 (a b : Word) :
    IsProduct fmtF32 a.toNat b.toNat ((fmtF32.decode a.toNat).mul (fmtF32.decode b.toNat)) :=
  isProduct_mul (by decide) a.toNat b.toNat

theorem f32_denotes (h : f32Finite a) : (fmtF32.decode a.toNat).Denotes (f32Value a) (a.getLsbD 31) := by
  rw [f32Value_eq, getLsbD_sign]
  exact decode_denotes (f := fmtF32) (by decide) h

theorem f32_inf (h : a.toNat % 2 ^ 31 = 0x7F800000) : fmtF32.decode a.toNat = .inf (a.getLsbD 31) := by
  rw [getLsbD_sign]
  exact decode_inf (f := fmtF32) (by decide) ((f32Inf_iff a).mp h)

theorem f32_nan (h : 0x7F800000 < a.toNat % 2 ^ 31) : fmtF32.decode a.toNat = .nan := (decode_eq_nan_iff a).mpr h

/-- A word that is no NaN is an infinity or finite. -/
theorem f32_cases (h : ¬ 0x7F800000 < a.toNat % 2 ^ 31) : a.toNat % 2 ^ 31 = 0x7F800000 ∨ f32Finite a := by
  rw [f32Finite]
  omega

theorem fadd_nan (h : md.daz = false) (hn : 0x7F800000 < a.toNat % 2 ^ 31 ∨ 0x7F800000 < b.toNat % 2 ^ 31 ∨
    (a.toNat % 2 ^ 31 = 0x7F800000 ∧ b.toNat % 2 ^ 31 = 0x7F800000 ∧ a.getLsbD 31 ≠ b.getLsbD 31)) :
    fadd md a b = 0x7FC00000 := by
  rw [fadd_keep h]
  rcases hn with ha | hb | ⟨ha, hb, hs⟩
  · rw [f32_nan ha, FVal.nan_add, wordF32_nan]
  · rw [f32_nan hb, FVal.add_nan, wordF32_nan]
  · rw [f32_inf ha, f32_inf hb, FVal.inf_add_inf, if_neg hs, wordF32_nan]

theorem fadd_inf (h : md.daz = false) (ha : a.toNat % 2 ^ 31 = 0x7F800000) (hb : ¬ 0x7F800000 < b.toNat % 2 ^ 31)
    (hs : b.toNat % 2 ^ 31 = 0x7F800000 → a.getLsbD 31 = b.getLsbD 31) : fadd md a b = a ∧ fadd md b a = a := by
  rw [fadd_keep h, fadd_keep h, f32_inf ha]
  rcases f32_cases hb with hb | hb
  · rw [f32_inf hb, ← hs hb, FVal.inf_add_inf, if_pos rfl, wordF32_inf, signWord_inf ha]
    exact ⟨rfl, rfl⟩
  · rw [(f32_denotes hb).inf_add, (f32_denotes hb).add_inf, wordF32_inf, signWord_inf ha]
    exact ⟨rfl, rfl⟩

theorem fadd_finite (h : md.daz = false) (ha : f32Finite a) (hb : f32Finite b) :
    (f32Value a + f32Value b = 0 → fadd md a b = signWord (a.getLsbD 31 && b.getLsbD 31)) ∧
    (f32Value a + f32Value b ≠ 0 → f32Rounded md.rz (f32Value a + f32Value b) (fadd md a b)) := by
  obtain ⟨r, hr, h0⟩ := (f32_denotes ha).add (f32_denotes hb)
  rw [fadd_keep h]
  exact hr.wordF32 md.rz h0

theorem fmul_nan (h : md.daz = false) (hn : fltBad 8 23 a.toNat b.toNat) : fmul md a b = 0x7FC00000 := by
  rw [fmul_keep h, (isProduct_f32 a b).nan hn, wordF32_nan]

/-- The product of an infinity and a word that is neither 0 nor a NaN is no NaN. -/
theorem not_f32Bad (ha : a.toNat % 2 ^ 31 = 0x7F800000) (hb : ¬ 0x7F800000 < b.toNat % 2 ^ 31)
    (h0 : b.toNat % 2 ^ 31 ≠ 0) : ¬ fltBad 8 23 a.toNat b.toNat ∧ ¬ fltBad 8 23 b.toNat a.toNat := by
  rw [f32Bad_iff, f32Bad_iff]
  omega

theorem mul_inf_f32 (ha : a.toNat % 2 ^ 31 = 0x7F800000) (hb : ¬ 0x7F800000 < b.toNat % 2 ^ 31)
    (h0 : b.toNat % 2 ^ 31 ≠ 0) :
    (fmtF32.decode a.toNat).mul (fmtF32.decode b.toNat) = .inf (a.getLsbD 31 != b.getLsbD 31) ∧
    (fmtF32.decode b.toNat).mul (fmtF32.decode a.toNat) = .inf (a.getLsbD 31 != b.getLsbD 31) := by
  obtain ⟨hab, hba⟩ := not_f32Bad ha hb h0
  have hinf := (f32Inf_iff a).mp ha
  rw [(isProduct_f32 a b).inf hab (.inl hinf), (isProduct_f32 b a).inf hba (.inr hinf), getLsbD_sign, getLsbD_sign]
  exact ⟨rfl, congrArg _ (bne_comm ..)⟩

theorem fmul_inf (h : md.daz = false) (ha : a.toNat % 2 ^ 31 = 0x7F800000) (hb : ¬ 0x7F800000 < b.toNat % 2 ^ 31)
    (h0 : b.toNat % 2 ^ 31 ≠ 0) : fmul md a b = signWord (a.getLsbD 31 != b.getLsbD 31) + 0x7F800000 ∧
      fmul md b a = signWord (a.getLsbD 31 != b.getLsbD 31) + 0x7F800000 := by
  obtain ⟨hab, hba⟩ := mul_inf_f32 ha hb h0
  rw [fmul_keep h, fmul_keep h, hab, hba, wordF32_inf]
  exact ⟨rfl, rfl⟩

theorem fmul_finite (h : md.daz = false) (ha : f32Finite a) (hb : f32Finite b) :
    (f32Value a * f32Value b = 0 → fmul md a b = signWord (a.getLsbD 31 != b.getLsbD 31)) ∧
    (f32Value a * f32Value b ≠ 0 → f32Rounded md.rz (f32Value a * f32Value b) (fmul md a b)) := by
  rw [fmul_keep h]
  exact ((f32_denotes ha).mul (f32_denotes hb)).wordF32 md.rz fun _ => rfl

theorem ffma_nan (h : md.daz = false) (hn : fltBad 8 23 a.toNat b.toNat ∨ 0x7F800000 < c.toNat % 2 ^ 31 ∨
    ((a.toNat % 2 ^ 31 = 0x7F800000 ∨ b.toNat % 2 ^ 31 = 0x7F800000) ∧ c.toNat % 2 ^ 31 = 0x7F800000 ∧
      (a.getLsbD 31 != b.getLsbD 31) ≠ c.getLsbD 31)) : ffma md a b c = 0x7FC00000 := by
  simp only [f32Nan_iff, f32Inf_iff, getLsbD_sign] at hn
  rw [ffma_keep h, (isProduct_f32 a b).add_nan (by decide) hn, wordF32_nan]

theorem ffma_inf (h : md.daz = false) (ha : a.toNat % 2 ^ 31 = 0x7F800000) (hb : ¬ 0x7F800000 < b.toNat % 2 ^ 31)
    (h0 : b.toNat % 2 ^ 31 ≠ 0) (hc : ¬ 0x7F800000 < c.toNat % 2 ^ 31)
    (hs : c.toNat % 2 ^ 31 = 0x7F800000 → (a.getLsbD 31 != b.getLsbD 31) = c.getLsbD 31) :
    ffma md a b c = signWord (a.getLsbD 31 != b.getLsbD 31) + 0x7F800000 ∧
      ffma md b a c = signWord (a.getLsbD 31 != b.getLsbD 31) + 0x7F800000 := by
  obtain ⟨hab, hba⟩ := mul_inf_f32 ha hb h0
  have hsum : (FVal.inf (a.getLsbD 31 != b.getLsbD 31)).add (fmtF32.decode c.toNat) =
      .inf (a.getLsbD 31 != b.getLsbD 31) := by
    rcases f32_cases hc with hc | hc
    · rw [f32_inf hc, FVal.inf_add_inf, if_pos (hs hc)]
    · exact (f32_denotes hc).inf_add _
  rw [ffma_keep h, ffma_keep h, hab, hba, hsum, wordF32_inf]
  exact ⟨rfl, rfl⟩

theorem ffma_addend (h : md.daz = false) (ha : f32Finite a) (hb : f32Finite b) (hc : c.toNat % 2 ^ 31 = 0x7F800000) :
    ffma md a b c = c := by
  rw [ffma_keep h, f32_inf hc, ((f32_denotes ha).mul (f32_denotes hb)).add_inf, wordF32_inf, signWord_inf hc]

theorem ffma_finite (h : md.daz = false) (ha : f32Finite a) (hb : f32Finite b) (hc : f32Finite c) :
    (f32Value a * f32Value b + f32Value c = 0 →
      ffma md a b c = signWord ((a.getLsbD 31 != b.getLsbD 31) && c.getLsbD 31)) ∧
    (f32Value a * f32Value b + f32Value c ≠ 0 →
      f32Rounded md.rz (f32Value a * f32Value b + f32Value c) (ffma md a b c)) := by
  obtain ⟨r, hr, h0⟩ := ((f32_denotes ha).mul (f32_denotes hb)).add (f32_denotes hc)
  rw [ffma_keep h]
  exact hr.wordF32 md.rz h0

/-! ## Minimum, maximum and comparison (R55) -/

theorem isNan_iff (w : Word) : fmtF32.isNan w.toNat = true ↔ 0x7F800000 < w.toNat % 2 ^ 31 := decide_eq_true_iff

theorem fminmax_nans (h : md.daz = false) (ha : 0x7F800000 < a.toNat % 2 ^ 31) (hb : 0x7F800000 < b.toNat % 2 ^ 31)
    (mx : Bool) : fminmax md mx a b = 0x7FC00000 := by
  simp only [fminmax, h, flushF32_false, isNan_iff, ha, hb, if_true]
  rfl

theorem fminmax_nan (h : md.daz = false) (ha : 0x7F800000 < a.toNat % 2 ^ 31) (hb : ¬ 0x7F800000 < b.toNat % 2 ^ 31)
    (mx : Bool) : fminmax md mx a b = b ∧ fminmax md mx b a = b := by
  simp only [fminmax, h, flushF32_false, isNan_iff, ha, hb, if_true, if_false, BitVec.ofNat_toNat, BitVec.setWidth_eq,
    and_self]

theorem fmin_spec (h : md.daz = false) (ha : ¬ 0x7F800000 < a.toNat % 2 ^ 31) (hb : ¬ 0x7F800000 < b.toNat % 2 ^ 31) :
    fminmax md false a b = if f32Num a < f32Num b ∨ (f32Num a = f32Num b ∧ a.getLsbD 31 = true) then a else b := by
  have hword : fminmax md false a b = if fminLt b.toNat a.toNat then b else a := by
    simp only [fminmax, h, flushF32_false, isNan_iff, ha, hb, if_false, Bool.false_eq_true]
    split <;> exact BitVec.ofNat_toNat ..
  simp only [hword, fminLt_iff hb ha]
  rcases lt_trichotomy (f32Num a) (f32Num b) with hlt | heq | hgt
  · rw [if_neg (by omega), if_pos (.inl hlt)]
  · by_cases hsa : a.getLsbD 31 = true
    · rw [if_neg (by simp [heq, hsa]), if_pos (.inr ⟨heq, hsa⟩)]
    · have h0 := Bool.eq_false_iff.mpr hsa
      rw [if_neg (c := _ ∨ _ ∧ a.getLsbD 31 = true) (not_or.mpr ⟨heq.not_lt, fun h1 => hsa h1.2⟩), ite_eq_left_iff]
      exact fun hno => eq_of_f32Num heq (h0.trans (Bool.eq_false_iff.mpr fun h1 => hno (.inr ⟨heq.symm, h1, h0⟩)).symm)
  · rw [if_pos (.inl hgt), if_neg (by omega)]

theorem fmax_spec (h : md.daz = false) (ha : ¬ 0x7F800000 < a.toNat % 2 ^ 31) (hb : ¬ 0x7F800000 < b.toNat % 2 ^ 31) :
    fminmax md true a b = if f32Num b < f32Num a ∨ (f32Num a = f32Num b ∧ b.getLsbD 31 = true) then a else b := by
  have hword : fminmax md true a b = if fminLt a.toNat b.toNat then b else a := by
    simp only [fminmax, h, flushF32_false, isNan_iff, ha, hb, if_false, if_true]
    split <;> exact BitVec.ofNat_toNat ..
  simp only [hword, fminLt_iff ha hb]
  rcases lt_trichotomy (f32Num a) (f32Num b) with hlt | heq | hgt
  · rw [if_pos (.inl hlt), if_neg (by omega)]
  · by_cases hsb : b.getLsbD 31 = true
    · rw [if_neg (by simp [heq, hsb]), if_pos (.inr ⟨heq, hsb⟩)]
    · have h0 := Bool.eq_false_iff.mpr hsb
      rw [if_neg (c := _ ∨ _ ∧ b.getLsbD 31 = true) (not_or.mpr ⟨heq.not_gt, fun h1 => hsb h1.2⟩), ite_eq_left_iff]
      exact fun hno => eq_of_f32Num heq ((Bool.eq_false_iff.mpr fun h1 => hno (.inr ⟨heq, h1, h0⟩)).trans h0.symm)
  · rw [if_neg (by omega), if_pos (.inl hgt)]

/-- The comparison codes on words that are no NaNs. -/
theorem fcmp_numbers (h : md.daz = false) (ha : ¬ 0x7F800000 < a.toNat % 2 ^ 31) (hb : ¬ 0x7F800000 < b.toNat % 2 ^ 31) :
    fcmp md 0 a b = decide (f32Num a = f32Num b) ∧ fcmp md 1 a b = decide (f32Num a ≠ f32Num b) ∧
    fcmp md 2 a b = decide (f32Num a < f32Num b) ∧ fcmp md 3 a b = decide (f32Num a ≤ f32Num b) ∧
    fcmp md 4 a b = decide (f32Num b < f32Num a) ∧ fcmp md 5 a b = decide (f32Num b ≤ f32Num a) ∧
    fcmp md 6 a b = true ∧ fcmp md 7 a b = false := by
  have hna := (decode_eq_nan_iff a).not.mpr ha
  have hnb := (decode_eq_nan_iff b).not.mpr hb
  simp only [fcmp, srcF32_keep h, decode_lt ha hb, decode_lt hb ha, decode_eq ha hb, hna, hnb, ne_eq, not_false_eq_true,
    decide_true, decide_false, Bool.and_self, Bool.or_self, decide_not, true_and, and_true]
  refine ⟨?_, ?_⟩
  · rw [← Bool.decide_or, decide_eq_decide]
    omega
  · rw [← Bool.decide_or, decide_eq_decide]
    omega

/-- The comparison codes where a word is a NaN. -/
theorem fcmp_nan (h : md.daz = false) (hn : 0x7F800000 < a.toNat % 2 ^ 31 ∨ 0x7F800000 < b.toNat % 2 ^ 31) :
    fcmp md 0 a b = false ∧ fcmp md 1 a b = true ∧ fcmp md 2 a b = false ∧ fcmp md 3 a b = false ∧
    fcmp md 4 a b = false ∧ fcmp md 5 a b = false ∧ fcmp md 6 a b = false ∧ fcmp md 7 a b = true := by
  rcases hn with hn | hn <;>
    simp [fcmp, srcF32_keep h, f32_nan hn, FVal.eq_nan, FVal.nan_eq, FVal.lt_nan, FVal.nan_lt]

end

/-- Settles O2: the words' exact values are summed, multiplied and ordered, and rounding on the grid of F32 numbers is
rounding to the nearest number, or to the greatest not beyond. -/
theorem f32Arithmetic : Obligations.F32Arithmetic := by
  intro m a b c
  refine ⟨fun h => arithmetic_daz a b c h, fun h => ⟨fadd_nan h, fun ha hb hs => fadd_inf h ha hb hs,
    fun mm => fsub_spec a b, fun hn => fmul_nan h (f32Bad_iff.mpr hn), fun ha hb h0 => fmul_inf h ha hb h0,
    fun ha hb => ?_, fun ha hb hc => ffma_finite h ha hb hc, fun hn => ffma_nan h ?_,
    fun ha hb h0 hc hs => ffma_inf h ha hb h0 hc hs, fun ha hb hc => ffma_addend h ha hb hc,
    fun ha hb => fminmax_nans h ha hb, fun ha hb => fminmax_nan h ha hb, fun ha hb => ?_, fun hn => fcmp_nan h hn⟩⟩
  · obtain ⟨hsum0, hsum⟩ := fadd_finite h ha hb
    exact ⟨hsum0, hsum, fmul_finite h ha hb⟩
  · rw [f32Bad_iff]
    tauto
  · exact ⟨fmin_spec h ha hb, fmax_spec h ha hb, fcmp_numbers h ha hb⟩

end Sys2Proof.Machine

namespace Sys2Proof.Machine
open Sys2Proof.Claims

/-! # The other floating words

## Packed halves (R54) -/

/-- The half `k` of a word. -/
def halfOf (k : ℕ) (w : Word) : ℕ := w.toNat / 2 ^ (16 * k) % 2 ^ 16

theorem halfOf_packed {g : ℕ → ℕ → ℕ → ℕ} (hg : ∀ x y z, g x y z < 2 ^ 16) (a b d : Word) {k : ℕ} (hk : k < 2) :
    halfOf k (packed g a b d) = g (halfOf k a) (halfOf k b) (halfOf k d) := by
  have high : ∀ w : Word, w.toNat / 2 ^ 16 % 2 ^ 16 = w.toNat / 2 ^ 16 := fun w =>
    Nat.mod_eq_of_lt (Nat.div_lt_of_lt_mul w.isLt)
  have hlo := hg (a.toNat % 2 ^ 16) (b.toNat % 2 ^ 16) (d.toNat % 2 ^ 16)
  have hhi := hg (a.toNat / 2 ^ 16) (b.toNat / 2 ^ 16) (d.toNat / 2 ^ 16)
  have hcases : k = 0 ∨ k = 1 := by omega
  rcases hcases with rfl | rfl
  · simp only [halfOf, packed, BitVec.toNat_ofNat, Nat.mul_zero, pow_zero, Nat.div_one]
    omega
  · simp only [halfOf, packed, BitVec.toNat_ofNat, Nat.mul_one, high]
    omega

theorem halfOf_lt (k : ℕ) (w : Word) : halfOf k w < 2 ^ 16 := Nat.mod_lt _ (by norm_num)

/-- The words of a packed format of 16 bits, `o` its encoding of 1. -/
theorem packed_spec {f : Fmt} (he : 2 ≤ f.ebits) (hm : 1 ≤ f.mbits) (hw : 1 + f.ebits + f.mbits = 16) {o : ℕ}
    (ho : fltFinite f.ebits f.mbits o) (h1 : fltValue f.ebits f.mbits o = 1) (h0 : fltNeg f.ebits f.mbits o = false)
    (a b d : Word) {k : ℕ} (hk : k < 2) :
    fltFused f.ebits f.mbits (halfOf k a) o (some (halfOf k b)) (halfOf k (padd f a b d)) ∧
    fltFused f.ebits f.mbits (halfOf k a) (halfOf k b) none (halfOf k (pmul f a b d)) ∧
    fltFused f.ebits f.mbits (halfOf k a) (halfOf k b) (some (halfOf k d)) (halfOf k (pfma f a b d)) := by
  have hlt : ∀ v, f.round false v < 2 ^ 16 := fun v => hw ▸ f.round_lt he hm false v
  have hz : ∀ w, halfOf k w < 2 ^ (1 + f.ebits + f.mbits) := fun w => hw.symm ▸ halfOf_lt k w
  rw [padd, pmul, pfma, halfOf_packed (fun _ _ _ => hlt _) a b d hk, halfOf_packed (fun _ _ _ => hlt _) a b d hk,
    halfOf_packed (fun _ _ _ => hlt _) a b d hk]
  exact ⟨fltFused_add (isProduct_one he _ ho h1 h0) he hm (hz b), fltFused_mul he hm,
    fltFused_add (isProduct_mul he _ _) he hm (hz d)⟩

theorem packedHalves : PackedHalves := by
  intro a b d k hk
  refine ⟨packed_spec (f := fmtF16) (o := 0x3C00) (by decide) (by decide) rfl ?_ ?_ rfl a b d hk,
    packed_spec (f := fmtBF16) (o := 0x3F80) (by decide) (by decide) rfl ?_ ?_ rfl a b d hk⟩
  · show _ ≠ _; decide
  · show fltValue 5 10 0x3C00 = 1
    norm_num [fltValue, fltNeg]
  · show _ ≠ _; decide
  · show fltValue 8 7 0x3F80 = 1
    norm_num [fltValue, fltNeg]

/-! ## F32 results that are exact, or not denormal -/

/-- The greatest finite number of F32. -/
theorem abs_f32Value_le {w : Word} (h : f32Finite w) : |f32Value w| ≤ 2 ^ 128 - 2 ^ 104 := by
  have hle : fltMag 8 23 w.toNat ≤ fltTop 8 23 - 1 := Nat.le_sub_one_of_lt (fltFinite_iff.mp h)
  have hsteps : (gridSteps 23 (fltMag 8 23 w.toNat) : ℚ) ≤ (2 ^ (23 + 1) - 1 : ℕ) * 2 ^ (2 ^ 8 - 3) := by
    exact_mod_cast gridSteps_maxFin (e := 8) (m := 23) (by decide) ▸ (gridSteps_strictMono 23).monotone hle
  rw [f32Value_eq, abs_fltValue (by decide), div_le_iff₀ (mod_cast perOne_pos 8 23)]
  refine hsteps.trans (le_of_eq ?_)
  norm_num [perOne]

theorem f32Value_eq_signOf_abs (w : Word) : f32Value w = signOf (w.getLsbD 31) * |f32Value w| := by
  rw [f32Value_eq, abs_fltValue (by decide), fltValue_eq (by decide), getLsbD_sign]

theorem eq_signOf_abs (x : ℚ) : x = signOf (decide (x < 0)) * |x| := by
  rcases lt_or_ge x 0 with h | h
  · simp [h, signOf, abs_of_neg h]
  · simp [not_lt.mpr h, signOf, abs_of_nonneg h]

/-- The distance to a number from a lesser one of its sign. -/
theorem abs_signOf_mul_sub {c x : ℚ} (h : c ≤ |x|) : |signOf (decide (x < 0)) * c - x| = |x| - c := by
  have hx : signOf (decide (x < 0)) * c - x = signOf (decide (x < 0)) * (c - |x|) := by
    rw [mul_sub, ← eq_signOf_abs]
  rw [hx, abs_mul, abs_signOf, one_mul, abs_sub_comm, abs_of_nonneg (sub_nonneg.mpr h)]

/-- Rounding keeps a number of the format. -/
theorem f32Rounded_exact {rz : Bool} {x : ℚ} {r w : Word} (h : f32Rounded rz x r) (hw : f32Finite w)
    (hx : f32Value w = x) : f32Finite r ∧ f32Value r = x := by
  obtain ⟨hs, htrunc, -, hnear⟩ := h
  cases rz
  case true =>
    obtain ⟨hf, hle, hmax⟩ := htrunc rfl
    have habs : |f32Value r| = |x| := le_antisymm hle (hx ▸ hmax w hw (hx ▸ le_rfl))
    exact ⟨hf, by rw [f32Value_eq_signOf_abs, habs, hs, ← eq_signOf_abs]⟩
  case false =>
    obtain ⟨hf, hbest⟩ := hnear rfl (hx ▸ (abs_f32Value_le hw).trans_lt (by norm_num))
    have hd := (hbest w hw).1
    rw [hx, sub_self, abs_zero] at hd
    exact ⟨hf, sub_eq_zero.mp (abs_nonpos_iff.mp hd)⟩

/-- A number that is not below the least normal one stays so. -/
theorem exponent_of_rounded {rz : Bool} {x : ℚ} {r : ℕ} (h : fltRounded 8 23 rz x r) (hx : 1 / 2 ^ 126 ≤ |x|) :
    r / 2 ^ 23 % 2 ^ 8 ≠ 0 := by
  intro h0
  obtain ⟨hs, -, htrunc, hover, hnear⟩ := h
  have hsmall : |fltValue 8 23 r| < 1 / 2 ^ 126 := by
    have hf : ((r % 2 ^ 23 : ℕ) : ℚ) < 2 ^ 23 := by exact_mod_cast Nat.mod_lt r (by norm_num)
    have hper : (perOne 8 23 : ℚ) = 2 ^ 23 * 2 ^ 126 := by norm_num [perOne]
    rw [abs_fltValue (by decide), gridSteps, fltMag_div, fltMag_mod, h0, if_pos rfl, Nat.zero_sub, pow_zero, mul_one,
      hper, div_lt_div_iff₀ (by positivity) (by positivity), one_mul]
    exact mul_lt_mul_of_pos_right hf (by positivity)
  have hmin : ∀ s, fltFinite 8 23 (fltSigned 8 23 s 0x800000) ∧ fltValue 8 23 (fltSigned 8 23 s 0x800000) =
      signOf s * (1 / 2 ^ 126) := fun s => by
    refine ⟨by cases s <;> show _ ≠ _ <;> decide, ?_⟩
    cases s <;> norm_num [fltValue, fltNeg, fltSigned, signOf]
  obtain ⟨hfin, hval⟩ := hmin (decide (x < 0))
  have habs : |fltValue 8 23 (fltSigned 8 23 (decide (x < 0)) 0x800000)| = 1 / 2 ^ 126 := by
    rw [hval, abs_mul, abs_signOf, one_mul, abs_of_pos (by positivity)]
  cases rz
  case true =>
    obtain ⟨-, -, hmax⟩ := htrunc rfl
    exact absurd (hmax _ hfin (habs ▸ hx)) (not_le.mpr (habs ▸ hsmall))
  case false =>
    rcases le_or_gt (2 ^ 2 ^ (8 - 1) - 2 ^ (2 ^ (8 - 1) - 1) / 2 ^ (23 + 1)) |x| with hbig | hlim
    · have := (hover rfl hbig).1
      omega
    · obtain ⟨hf, hbest⟩ := hnear rfl hlim
      have hd := (hbest _ hfin).1
      rw [hval, abs_signOf_mul_sub hx] at hd
      have := abs_sub_abs_le_abs_sub x (fltValue 8 23 r)
      rw [abs_sub_comm] at this
      linarith

theorem flush32_eq_self {w : Word} (h : w.toNat / 2 ^ 23 % 2 ^ 8 ≠ 0) : flush32 w = w := if_neg h

theorem flush32_signWord (s : Bool) : flush32 (signWord s) = signWord s := by cases s <;> rfl

section
variable {md : Modes} {v : FVal} {x : ℚ} {s : Bool}

theorem resF32_inf (rz s : Bool) : resF32 md rz (.inf s) = signWord s + 0x7F800000 := by
  cases h : md.daz
  · rw [resF32_keep h, wordF32_inf]
  · rw [resF32_daz h, wordF32_inf]
    cases s <;> rfl

theorem FVal.Denotes.resF32_zero (h : v.Denotes 0 s) (rz : Bool) : resF32 md rz v = signWord s := by
  have h0 := (h.wordF32 rz fun _ => rfl).1 rfl
  cases hd : md.daz
  · rw [resF32_keep hd, h0]
  · rw [resF32_daz hd, h0, flush32_signWord]

/-- DENORM leaves a result that is not below the least normal number. -/
theorem FVal.Denotes.resF32_normal (h : v.Denotes x s) (rz : Bool) (hx : md.daz = true → 1 / 2 ^ 126 ≤ |x|) :
    resF32 md rz v = Machine.wordF32 rz v := by
  cases hd : md.daz
  · rw [resF32_keep hd]
  · have hx' := hx hd
    have hne : x ≠ 0 := fun h0 => by
      rw [h0, abs_zero] at hx'
      norm_num at hx'
    have hr : fltRounded 8 23 rz x _ := (h.round (f := fmtF32) (by decide) (by decide) rz fun _ => rfl).2 hne
    rw [← toNat_wordF32] at hr
    rw [resF32_daz hd, flush32_eq_self (exponent_of_rounded hr hx')]

/-- A result that is a number of the format is exact. -/
theorem FVal.Denotes.resF32_exact (h : v.Denotes x s) (rz : Bool) (hx : md.daz = true → x = 0 ∨ 1 / 2 ^ 126 ≤ |x|)
    {w : Word} (hw : f32Finite w) (hwx : f32Value w = x) :
    f32Finite (resF32 md rz v) ∧ f32Value (resF32 md rz v) = x ∧ (resF32 md rz v).getLsbD 31 = s := by
  by_cases h0 : x = 0
  · subst h0
    rw [h.resF32_zero]
    refine ⟨by cases s <;> show _ ≠ _ <;> decide, ?_, by cases s <;> rfl⟩
    rw [f32Value_eq]
    exact (fltValue_eq_zero_iff (by decide)).mpr (by cases s <;> rfl)
  · rw [h.resF32_normal rz fun hd => (hx hd).resolve_left h0]
    have hr := (h.wordF32 rz fun _ => rfl).2 h0
    obtain ⟨hf, hv⟩ := f32Rounded_exact hr hw hwx
    refine ⟨hf, hv, ?_⟩
    obtain ⟨n, d, hd, -, rfl⟩ := h
    have hy : (0 : ℚ) < n / d := lt_of_le_of_ne (by positivity) fun h => h0 (by rw [← h, mul_zero])
    rw [hr.1, decide_signOf_mul_neg hy]

end

/-! ## Rounding to integral values (R56) -/

/-- A source under DENORM is the word that the statements flush. -/
theorem srcF32_eq (md : Modes) (a : Word) : srcF32 md a =
    fmtF32.decode (if md.daz = true ∧ a.toNat / 2 ^ 23 % 2 ^ 8 = 0 then a &&& 0x80000000 else a).toNat := by
  cases h : md.daz
  · simp [srcF32_keep h]
  · simp only [srcF32_daz h, flush32, true_and]

/-- Past the place of `2 ^ k` least steps every number is a multiple of `2 ^ (k - m)` of them. -/
theorem dvd_gridSteps {m j b : ℕ} (h : 2 ^ (m + j) ≤ gridSteps m b) : 2 ^ j ∣ gridSteps m b := by
  obtain ⟨s, M, hs, hM, rfl⟩ := exists_place m b
  rw [gridSteps_place hs hM] at h ⊢
  refine Dvd.dvd.mul_left (pow_dvd_pow 2 ?_) M
  have hlt : 2 ^ (m + j) < 2 ^ (m + 1 + s) := h.trans_lt (by rw [pow_add _ (m + 1)]; gcongr)
  have := (Nat.pow_lt_pow_iff_right one_lt_two).mp hlt
  omega

theorem perOne_f32 : (perOne 8 23 : ℚ) = 2 ^ 149 := by norm_num [perOne]

/-- A finite F32 number of at least `2 ^ j` is a multiple of `2 ^ (j - 23)`. -/
theorem exists_mul_of_le_abs {w : Word} {j : ℕ} (h : (2 : ℚ) ^ j ≤ |f32Value w|) :
    ∃ k : ℕ, |f32Value w| = k * 2 ^ j / 2 ^ 23 := by
  rw [f32Value_eq, abs_fltValue (by decide), perOne_f32] at h ⊢
  rw [le_div_iff₀ (by positivity), ← pow_add] at h
  obtain ⟨k, hk⟩ := dvd_gridSteps (m := 23) (j := j + 126) (b := fltMag 8 23 w.toNat) (by
    rw [show 23 + (j + 126) = j + 149 by omega]
    exact_mod_cast h)
  refine ⟨k, ?_⟩
  rw [hk, div_eq_div_iff (by positivity) (by positivity)]
  push_cast
  ring

/-- The word of a sign and a finite magnitude. -/
def f32Word (s : Bool) (b : ℕ) : Word := BitVec.ofNat 32 (fltSigned 8 23 s b)

section
variable {s : Bool} {b : ℕ}

theorem toNat_f32Word (hb : b < 0x7F800000) : (f32Word s b).toNat = fltSigned 8 23 s b :=
  Nat.mod_eq_of_lt (fltSigned_lt (e := 8) (m := 23) (by omega))

theorem f32Finite_f32Word (hb : b < 0x7F800000) : f32Finite (f32Word s b) := by
  have hfin : fltFinite 8 23 (fltSigned 8 23 s b) := by
    rw [fltFinite_iff, fltMag_signed (by omega)]
    exact hb
  rw [← toNat_f32Word hb] at hfin
  exact hfin

theorem f32Value_f32Word (hb : b < 0x7F800000) :
    f32Value (f32Word s b) = signOf s * ((gridSteps 23 b : ℚ) / 2 ^ 149) := by
  rw [f32Value_eq, toNat_f32Word hb, fltValue_eq (by decide), fltNeg_signed (by omega),
    fltMag_signed (by omega), perOne_f32]

end

/-- A whole number of at most 2^24 is an F32 number. -/
theorem exists_f32_nat (s : Bool) {n : ℕ} (h : n ≤ 2 ^ 24) : ∃ w, f32Finite w ∧ f32Value w = signOf s * n := by
  obtain ⟨b, hb, hlt⟩ : ∃ b, gridSteps 23 b = n * 2 ^ 149 ∧ b < 152 * 2 ^ 23 := by
    rcases Nat.lt_or_eq_of_le h with h | rfl
    · obtain ⟨b, hb, hlt⟩ := exists_gridSteps (m := 23) 149 n h
      exact ⟨b, hb, by omega⟩
    · obtain ⟨b, hb, hlt⟩ := exists_gridSteps (m := 23) 150 (2 ^ 23) (by norm_num)
      exact ⟨b, by rw [hb]; norm_num, hlt⟩
  refine ⟨f32Word s b, f32Finite_f32Word (by omega), ?_⟩
  rw [f32Value_f32Word (by omega), hb, Nat.cast_mul, Nat.cast_pow, Nat.cast_ofNat,
    mul_div_cancel_right₀ _ (by positivity)]

/-- Dividing whole numbers, downward and upward. -/
theorem floor_div (n : ℕ) {d : ℕ} (hd : 0 < d) : ⌊(n : ℚ) / d⌋ = (n / d : ℕ) := by
  rw [Int.floor_eq_iff]
  exact ⟨by exact_mod_cast Nat.cast_div_le, by exact_mod_cast lt_natFloor_succ n hd⟩

theorem ceil_div (n : ℕ) {d : ℕ} (hd : 0 < d) : ⌈(n : ℚ) / d⌉ = ((if n % d = 0 then n / d else n / d + 1 : ℕ) : ℤ) := by
  have hz := cast_div_eq n hd
  have hr : ((n % d : ℕ) : ℚ) / d < 1 := (div_lt_one (by positivity)).mpr (by exact_mod_cast Nat.mod_lt n hd)
  rw [Int.ceil_eq_iff]
  split
  case isTrue h =>
    rw [h, Nat.cast_zero, zero_div, add_zero] at hz
    rw [hz, Int.cast_natCast]
    exact ⟨by linarith, le_rfl⟩
  case isFalse h =>
    have h0 : (0 : ℚ) < ((n % d : ℕ) : ℚ) / d := by
      have : 0 < n % d := Nat.pos_of_ne_zero h
      positivity
    rw [hz, Int.cast_natCast, Nat.cast_succ]
    constructor <;> linarith

/-- What FFLOOR (0), FCEIL (1), FTRUNC (2) and FRINT (3) ask of the integral number of a finite source. -/
def Integral (mode : ℕ) (v : ℚ) (n : ℤ) : Prop :=
  match mode with
  | 0 => n = ⌊v⌋
  | 1 => n = ⌈v⌉
  | 2 => n = if 0 ≤ v then ⌊v⌋ else ⌈v⌉
  | _ => |(n : ℚ) - v| ≤ 1 / 2 ∧ (|(n : ℚ) - v| = 1 / 2 → n % 2 = 0)

/-- A whole number with a sign. -/
def signed (s : Bool) (k : ℕ) : ℤ := if s then -(k : ℤ) else k

theorem cast_signed (s : Bool) (k : ℕ) : (signed s k : ℚ) = signOf s * k := by cases s <;> simp [signed, signOf]

theorem abs_signOf_mul_sub_signOf_mul (s : Bool) (a b : ℚ) : |signOf s * a - signOf s * b| = |a - b| := by
  rw [← mul_sub, abs_mul, abs_signOf, one_mul]

theorem signed_roundQ (s : Bool) (n : ℕ) {d : ℕ} (hd : 0 < d) :
    |(signed s (roundQ false n d) : ℚ) - signOf s * (n / d)| ≤ 1 / 2 ∧
    (|(signed s (roundQ false n d) : ℚ) - signOf s * (n / d)| = 1 / 2 → signed s (roundQ false n d) % 2 = 0) := by
  obtain ⟨hle, htie⟩ := (roundQ_roundsTo false n hd).2 rfl
  rw [cast_signed, abs_signOf_mul_sub_signOf_mul]
  refine ⟨hle, fun h => ?_⟩
  have := htie h
  rw [signed]
  split <;> omega

/-- The integral magnitude of the model is the number asked for. -/
theorem integral_integralMag {mode : ℕ} (hmode : mode < 4) (s : Bool) (n : ℕ) {d : ℕ} (hd : 0 < d) :
    Integral mode (signOf s * ((n : ℚ) / d)) (signed s (integralMag mode s n d)) := by
  have hneg : signOf true * ((n : ℚ) / d) = -((n : ℚ) / d) := neg_one_mul _
  have hpos : signOf false * ((n : ℚ) / d) = (n : ℚ) / d := one_mul _
  have hy : (0 : ℚ) ≤ (n : ℚ) / d := by positivity
  interval_cases mode
  · cases s
    · rw [hpos, Integral, floor_div n hd]; rfl
    · rw [hneg, Integral, Int.floor_neg, ceil_div n hd]; rfl
  · cases s
    · rw [hpos, Integral, ceil_div n hd]; rfl
    · rw [hneg, Integral, Int.ceil_neg, floor_div n hd]; rfl
  · cases s
    · rw [hpos, Integral, if_pos hy, floor_div n hd]; rfl
    · rw [hneg, Integral, Int.ceil_neg, Int.floor_neg, floor_div n hd, ceil_div n hd]
      show -((n / d : ℕ) : ℤ) = _
      split
      case isTrue h =>
        have h0 : (n : ℚ) / d = 0 := by linarith
        rw [div_eq_zero_iff, Nat.cast_eq_zero, Nat.cast_eq_zero, or_iff_left hd.ne'] at h0
        simp [h0]
      case isFalse => rfl
  · exact signed_roundQ s n hd

theorem roundQ_le (rz : Bool) (n d : ℕ) : roundQ rz n d ≤ n / d + 1 := by
  simp only [roundQ]
  split_ifs <;> omega

theorem roundQ_of_dvd (rz : Bool) {n d : ℕ} (hd : 0 < d) (h : n % d = 0) : roundQ rz n d = n / d := by
  have hno : ¬ (2 * 0 > d ∨ 2 * 0 = d ∧ n / d % 2 = 1) := by omega
  simp only [roundQ, h, if_neg hno, ite_self]

theorem integralMag_le (mode : ℕ) (s : Bool) (n d : ℕ) : integralMag mode s n d ≤ n / d + 1 := by
  rcases mode with _ | _ | _ | _
  case succ.succ.succ => exact roundQ_le false n d
  case succ.succ.zero => exact Nat.le_succ _
  all_goals
    simp only [integralMag]
    split_ifs <;> omega

theorem integralMag_of_dvd (mode : ℕ) (s : Bool) {n d : ℕ} (hd : 0 < d) (h : n % d = 0) :
    integralMag mode s n d = n / d := by
  rcases mode with _ | _ | _ | _
  case succ.succ.succ => exact roundQ_of_dvd false hd h
  all_goals simp [integralMag, h]

/-- A whole number is 0 or not below the least normal number. -/
theorem whole_not_denormal (k : ℤ) : (k : ℚ) = 0 ∨ 1 / 2 ^ 126 ≤ |(k : ℚ)| := by
  rw [or_iff_not_imp_left, Int.cast_eq_zero]
  intro hne
  have h1 : (1 : ℚ) ≤ |(k : ℚ)| := by exact_mod_cast Int.one_le_abs hne
  exact le_trans (by norm_num) h1

section
variable {md : Modes} {a x : Word}

/-- The integral number of a finite source is one of the format, with the source's sign. -/
theorem fintegral_finite {mode : ℕ} (hmode : mode < 4) (hx : srcF32 md a = fmtF32.decode x.toNat) (hf : f32Finite x) :
    f32Finite (fintegral md mode a) ∧ (∃ n : ℤ, f32Value (fintegral md mode a) = n ∧ Integral mode (f32Value x) n) ∧
    (fintegral md mode a).getLsbD 31 = x.getLsbD 31 := by
  obtain ⟨n, d, hd, hdec, hv⟩ := f32_denotes hf
  have hI : (FVal.fin (x.getLsbD 31) (integralMag mode (x.getLsbD 31) n d) 1).Denotes
      (signed (x.getLsbD 31) (integralMag mode (x.getLsbD 31) n d)) (x.getLsbD 31) :=
    ⟨_, 1, one_pos, rfl, by rw [cast_signed, Nat.cast_one, div_one]⟩
  have hmag : |f32Value x| = (n : ℚ) / d := by
    rw [hv, abs_mul, abs_signOf, one_mul, abs_of_nonneg (by positivity)]
  obtain ⟨w, hw, hwx⟩ : ∃ w, f32Finite w ∧ f32Value w = signed (x.getLsbD 31) (integralMag mode (x.getLsbD 31) n d) := by
    rw [cast_signed]
    rcases lt_or_ge |f32Value x| (2 ^ 23) with hlt | hge
    · refine exists_f32_nat _ ((integralMag_le mode _ n d).trans ?_)
      rw [hmag, div_lt_iff₀ (by positivity)] at hlt
      have : n / d < 2 ^ 23 := Nat.div_lt_of_lt_mul (by rw [mul_comm]; exact_mod_cast hlt)
      omega
    · obtain ⟨k, hk⟩ := exists_mul_of_le_abs hge
      rw [mul_div_cancel_right₀ _ (by positivity), hmag, div_eq_iff (by positivity)] at hk
      have hn : n = k * d := by exact_mod_cast hk
      refine ⟨x, hf, ?_⟩
      rw [integralMag_of_dvd mode _ hd (by rw [hn, Nat.mul_mod_left]), hv, hn, Nat.mul_div_cancel _ hd]
      push_cast
      rw [mul_div_cancel_right₀ _ (by positivity)]
  have hres : fintegral md mode a =
      resF32 md false (.fin (x.getLsbD 31) (integralMag mode (x.getLsbD 31) n d) 1) := by
    rw [fintegral, hx, hdec]
  obtain ⟨h1, h2, h3⟩ := hI.resF32_exact (md := md) false (fun _ => whole_not_denormal _) hw hwx
  rw [hres]
  exact ⟨h1, ⟨_, h2, hv ▸ integral_integralMag hmode _ n hd⟩, h3⟩

/-- An infinity comes back, and a NaN is canonical. -/
theorem fintegral_special (mode : ℕ) (hx : srcF32 md a = fmtF32.decode x.toNat) :
    (0x7F800000 < x.toNat % 2 ^ 31 → fintegral md mode a = 0x7FC00000) ∧
    (x.toNat % 2 ^ 31 = 0x7F800000 → fintegral md mode a = x) := by
  refine ⟨fun h => ?_, fun h => ?_⟩
  · rw [fintegral, hx, f32_nan h]
    exact resF32_nan false
  · rw [fintegral, hx, f32_inf h]
    exact (resF32_inf false _).trans (signWord_inf h)

/-! FFRACT -/

theorem fract_ratio (s : Bool) (n : ℕ) {d : ℕ} (hd : 0 < d) :
    ((if s then (d - n % d) % d else n % d : ℕ) : ℚ) / d = Int.fract (signOf s * ((n : ℚ) / d)) := by
  have hpos : Int.fract ((n : ℚ) / d) = ((n % d : ℕ) : ℚ) / d := Int.fract_div_natCast_eq_div_natCast_mod
  cases s
  · rw [signOf, if_neg Bool.false_ne_true, if_neg Bool.false_ne_true, one_mul, hpos]
  · rw [signOf, if_pos rfl, if_pos rfl, neg_one_mul]
    have hr := Nat.mod_lt n hd
    rcases Nat.eq_zero_or_pos (n % d) with h | h
    · rw [h, Nat.sub_zero, Nat.mod_self, Nat.cast_zero, zero_div, eq_comm, Int.fract_neg_eq_zero, hpos, h,
        Nat.cast_zero, zero_div]
    · have hne : Int.fract ((n : ℚ) / d) ≠ 0 := by rw [hpos]; positivity
      rw [Int.fract_neg hne, hpos, Nat.mod_eq_of_lt (by omega), Nat.cast_sub hr.le, sub_div, div_self (by positivity)]

/-- The greatest F32 number below 1. -/
theorem abs_f32Value_le_of_lt_one {w : Word} (h : |f32Value w| < 1) : |f32Value w| ≤ 1 - 1 / 2 ^ 24 := by
  have hone : gridSteps 23 0x3F800000 = 2 ^ 149 := by norm_num [gridSteps]
  have hpred : gridSteps 23 0x3F7FFFFF = (2 ^ 24 - 1) * 2 ^ 125 := by norm_num [gridSteps]
  rw [f32Value_eq, abs_fltValue (by decide), perOne_f32] at h ⊢
  rw [div_lt_one (by positivity)] at h
  have hlt : fltMag 8 23 w.toNat < 0x3F800000 := (gridSteps_strictMono 23).lt_iff_lt.mp (by
    rw [hone]
    exact_mod_cast h)
  have hle := (gridSteps_strictMono 23).monotone (Nat.le_of_lt_succ hlt : fltMag 8 23 w.toNat ≤ 0x3F7FFFFF)
  rw [hpred] at hle
  rw [div_le_iff₀ (by positivity)]
  refine (Nat.cast_le.mpr hle).trans (le_of_eq ?_)
  norm_num

/-- The fraction of an F32 number is the number itself or at least 2^-24, and at most 1 - 2^-24. -/
theorem fract_abs_bounds (w : Word) (h : Int.fract |f32Value w| ≠ 0) :
    (Int.fract |f32Value w| = |f32Value w| ∨ 1 / 2 ^ 24 ≤ Int.fract |f32Value w|) ∧
    Int.fract |f32Value w| ≤ 1 - 1 / 2 ^ 24 := by
  rcases lt_or_ge |f32Value w| 1 with hlt | hge
  · have hf : Int.fract |f32Value w| = |f32Value w| := Int.fract_eq_self.mpr ⟨abs_nonneg _, hlt⟩
    exact ⟨.inl hf, hf.trans_le (abs_f32Value_le_of_lt_one hlt)⟩
  · obtain ⟨k, hk⟩ := exists_mul_of_le_abs (w := w) (j := 0) (by simpa using hge)
    have hf : Int.fract |f32Value w| = ((k % 2 ^ 23 : ℕ) : ℚ) / (2 ^ 23 : ℕ) := by
      rw [hk, pow_zero, mul_one]
      exact_mod_cast Int.fract_div_natCast_eq_div_natCast_mod (k := ℚ) (m := k) (n := 2 ^ 23)
    have hmod := Nat.mod_lt k (show 0 < 2 ^ 23 by norm_num)
    have h1 : 1 ≤ k % 2 ^ 23 := Nat.pos_of_ne_zero fun h0 => h (by rw [hf, h0]; simp)
    have h1' : (1 : ℚ) ≤ (k % 2 ^ 23 : ℕ) := by exact_mod_cast h1
    have h2' : ((k % 2 ^ 23 : ℕ) : ℚ) ≤ 2 ^ 23 - 1 := by
      rw [le_sub_iff_add_le]
      exact_mod_cast hmod
    rw [hf]
    push_cast at h1' h2' ⊢
    refine ⟨.inr ?_, ?_⟩
    · rw [div_le_div_iff₀ (by positivity) (by positivity)]
      linarith
    · rw [div_le_iff₀ (by positivity)]
      linarith

/-- The fraction of a number that is no denormal is not below the least normal number. -/
theorem fract_not_denormal {w : Word} (hw : f32Value w = 0 ∨ 1 / 2 ^ 126 ≤ |f32Value w|)
    (h : Int.fract (f32Value w) ≠ 0) : 1 / 2 ^ 126 ≤ Int.fract (f32Value w) := by
  have hv := f32Value_eq_signOf_abs w
  have hw' : 1 / 2 ^ 126 ≤ |f32Value w| := hw.resolve_left fun h0 => h (by rw [h0, Int.fract_zero])
  cases hs : w.getLsbD 31
  · rw [hs, signOf, if_neg Bool.false_ne_true, one_mul] at hv
    rw [hv] at h ⊢
    rcases (fract_abs_bounds w h).1 with heq | hge
    · exact hw'.trans_eq heq.symm
    · exact le_trans (by norm_num) hge
  · rw [hs, signOf, if_pos rfl, neg_one_mul] at hv
    rw [hv] at h ⊢
    have hne : Int.fract |f32Value w| ≠ 0 := fun h0 => h (Int.fract_neg_eq_zero.mpr h0)
    have hle := (fract_abs_bounds w hne).2
    rw [Int.fract_neg hne]
    refine le_trans ?_ (le_sub_comm.mp hle)
    norm_num

theorem ffract_special (hx : srcF32 md a = fmtF32.decode x.toNat)
    (h : 0x7F800000 < x.toNat % 2 ^ 31 ∨ x.toNat % 2 ^ 31 = 0x7F800000) : ffract md a = 0x7FC00000 := by
  rcases h with h | h
  · rw [ffract, hx, f32_nan h]; rfl
  · rw [ffract, hx, f32_inf h]; rfl

/-- FFRACT of a finite source is its fraction rounded to nearest, kept below 1. -/
theorem ffract_finite (hx : srcF32 md a = fmtF32.decode x.toNat) (hf : f32Finite x)
    (hnorm : md.daz = true → f32Value x = 0 ∨ 1 / 2 ^ 126 ≤ |f32Value x|) :
    (Int.fract (f32Value x) = 0 → ffract md a = 0) ∧
    (Int.fract (f32Value x) ≠ 0 → ∃ q, f32Rounded false (Int.fract (f32Value x)) q ∧
      ffract md a = if 0x3F7FFFFF < q.toNat then 0x3F7FFFFF else q) := by
  obtain ⟨n, d, hd, hdec, hv⟩ := f32_denotes hf
  set r := if x.getLsbD 31 then (d - n % d) % d else n % d with hr
  have hden : (FVal.fin false r d).Denotes (Int.fract (f32Value x)) false :=
    ⟨r, d, hd, rfl, by rw [hv, ← fract_ratio _ n hd, signOf, if_neg Bool.false_ne_true, one_mul]⟩
  have hres : ffract md a = if 0x3F7FFFFF < (resF32 md false (.fin false r d)).toNat then 0x3F7FFFFF
      else resF32 md false (.fin false r d) := by
    simp only [ffract, hx, hdec, ← hr]
  refine ⟨fun h0 => ?_, fun hne => ⟨_, (hden.wordF32 false fun _ => rfl).2 hne, ?_⟩⟩
  · rw [h0] at hden
    rw [hres, hden.resF32_zero]
    rfl
  · rw [hres, hden.resF32_normal false fun hdaz => ?_]
    exact (fract_not_denormal (hnorm hdaz) hne).trans (le_abs_self _)

end

/-- A word that is flushed, or that has an exponent, is no denormal. -/
theorem flushed_not_denormal {w : Word} (h : w.toNat % 2 ^ 31 = 0 ∨ w.toNat / 2 ^ 23 % 2 ^ 8 ≠ 0) :
    f32Value w = 0 ∨ 1 / 2 ^ 126 ≤ |f32Value w| := by
  rw [f32Value_eq]
  refine h.imp (fltValue_eq_zero_iff (by decide)).mpr fun hexp => ?_
  have hmin : gridSteps 23 0x800000 = 2 ^ 23 := by norm_num [gridSteps]
  have hle : 0x800000 ≤ fltMag 8 23 w.toNat := by
    rw [fltMag]
    omega
  have hle' := Nat.cast_le (α := ℚ).mpr ((gridSteps_strictMono 23).monotone hle)
  rw [hmin] at hle'
  rw [abs_fltValue (by decide), perOne_f32, div_le_div_iff₀ (by positivity) (by positivity)]
  push_cast at hle'
  linarith

theorem mod_signPart (w : Word) : (w &&& 0x80000000).toNat % 2 ^ 31 = 0 := by
  rw [toNat_signPart, Nat.mul_mod_left]

theorem integralValues : IntegralValues := by
  intro md a x v nan inf whole
  have hx : srcF32 md a = fmtF32.decode x.toNat := srcF32_eq md a
  have hwhole : ∀ mode < 4, whole mode (Integral mode v) := fun mode hmode => by
    obtain ⟨hnan, hinf⟩ := fintegral_special mode hx
    refine ⟨hnan, hinf, fun hf => ?_⟩
    obtain ⟨h1, h2, h3⟩ := fintegral_finite hmode hx hf
    exact ⟨h1, h2, fun _ => h3⟩
  refine ⟨hwhole 0 (by decide), hwhole 1 (by decide), hwhole 2 (by decide), hwhole 3 (by decide), ffract_special hx,
    fun hf => ?_⟩
  obtain ⟨hzero, hround⟩ := ffract_finite hx hf fun hdaz => flushed_not_denormal (by
    by_cases hexp : a.toNat / 2 ^ 23 % 2 ^ 8 = 0
    · have hsign : x = a &&& 0x80000000 := if_pos ⟨hdaz, hexp⟩
      exact .inl (by rw [hsign, mod_signPart])
    · have hkeep : x = a := if_neg fun h => hexp h.2
      exact .inr (by rwa [hkeep]))
  exact ⟨fun h => hzero (sub_eq_zero.mpr h), fun h => hround fun h0 => h (sub_eq_zero.mp h0)⟩

/-! ## Conversions (R60, R61) -/

theorem cvtIsInt_iff (t : ℕ) : cvtIsInt t = true ↔ t = 0 ∨ t = 1 ∨ t = 5 ∨ t = 6 := by
  simp [cvtIsInt, or_assoc]

/-! What CVT answers for each pair of kinds of types. -/

section
variable (md : Modes) {dt st : ℕ} (rz : Bool) (a : Word)

theorem cvtValue_int_int (hs : cvtIsInt st = true) (hd : cvtIsInt dt = true) :
    cvtValue md dt st rz a = w32 (satI (cvtIntSrc st a) (cvtRange dt).1 (cvtRange dt).2) := by
  simp only [cvtValue, hs, hd, if_true]

theorem cvtValue_int_float (hs : cvtIsInt st = true) (hd : ¬ cvtIsInt dt = true) : cvtValue md dt st rz a =
    cvtFloatRes md dt rz (.fin (cvtIntSrc st a < 0) (cvtIntSrc st a).natAbs 1) := by
  simp only [cvtValue, hs, if_true, if_neg hd]

theorem cvtValue_float_float (hs : ¬ cvtIsInt st = true) (hd : ¬ cvtIsInt dt = true) :
    cvtValue md dt st rz a = cvtFloatRes md dt rz (cvtFloatSrc md st a) := by
  simp only [cvtValue, if_neg hs, if_neg hd]

theorem cvtValue_nan_int (hs : ¬ cvtIsInt st = true) (hd : cvtIsInt dt = true) (hv : cvtFloatSrc md st a = .nan) :
    cvtValue md dt st rz a = 0 := by
  simp only [cvtValue, if_neg hs, hd, if_true, hv]

theorem cvtValue_inf_int {s : Bool} (hs : ¬ cvtIsInt st = true) (hd : cvtIsInt dt = true)
    (hv : cvtFloatSrc md st a = .inf s) :
    cvtValue md dt st rz a = w32 (if s then (cvtRange dt).1 else (cvtRange dt).2) := by
  simp only [cvtValue, if_neg hs, hd, if_true, hv]

theorem cvtValue_fin_int {s : Bool} {n d : ℕ} (hs : ¬ cvtIsInt st = true) (hd : cvtIsInt dt = true)
    (hv : cvtFloatSrc md st a = .fin s n d) : cvtValue md dt st rz a =
      w32 (satI (signed s (roundQ rz n d)) (cvtRange dt).1 (cvtRange dt).2) := by
  simp only [cvtValue, if_neg hs, hd, if_true, hv, signed]

end

theorem cvtFmt_ebits (t : ℕ) : (cvtFmt t).ebits = if t = 3 then 5 else 8 := by
  rw [cvtFmt]
  split_ifs with h2 h3
  · omega
  all_goals rfl

theorem cvtFmt_mbits (t : ℕ) : (cvtFmt t).mbits = if t = 2 then 23 else if t = 3 then 10 else 7 := by
  rw [cvtFmt]
  split_ifs <;> rfl

theorem two_le_cvtFmt_ebits (t : ℕ) : 2 ≤ (cvtFmt t).ebits := by
  rw [cvtFmt_ebits]
  split <;> decide

theorem one_le_cvtFmt_mbits (t : ℕ) : 1 ≤ (cvtFmt t).mbits := by
  rw [cvtFmt_mbits]
  split_ifs <;> decide

theorem flushF32_eq (daz : Bool) {x : ℕ} (h : x < 2 ^ 32) :
    flushF32 daz x = if daz = true ∧ x / 2 ^ 23 % 2 ^ 8 = 0 then x / 2 ^ 31 * 2 ^ 31 else x := by
  cases daz
  · simp [flushF32_false]
  · simp only [flushF32_true h, true_and]

/-- Saturation is the nearest number of the range. -/
theorem satI_eq (x : ℤ) {lo hi : ℤ} (h : lo ≤ hi) : satI x lo hi = max lo (min hi x) := by
  rw [satI]
  split_ifs <;> omega

/-- The integer that a source of an integer type holds. -/
theorem cvtIntSrc_eq {t : ℕ} (h : t = 0 ∨ t = 1 ∨ t = 5 ∨ t = 6) (a : Word) :
    cvtIntSrc t a = if t = 0 then a.toInt else if t = 1 then (a.toNat : ℤ)
      else if t = 5 then (BitVec.ofNat 8 a.toNat).toInt else ((a.toNat % 256 : ℕ) : ℤ) := by
  rcases h with rfl | rfl | rfl | rfl
  · rfl
  · rfl
  · rfl
  · rfl

/-- The range of an integer type. -/
theorem cvtRange_eq {t : ℕ} (h : t = 0 ∨ t = 1 ∨ t = 5 ∨ t = 6) :
    cvtRange t = (if t = 0 then -2 ^ 31 else if t = 5 then -128 else 0,
      if t = 0 then 2 ^ 31 - 1 else if t = 1 then 2 ^ 32 - 1 else if t = 5 then 127 else 255) ∧
    (cvtRange t).1 ≤ (cvtRange t).2 := by
  rcases h with rfl | rfl | rfl | rfl
  all_goals exact ⟨rfl, by decide⟩

section
variable (md : Modes) (t : ℕ) (rz : Bool)

/-- The source of a floating type, without the bits above its type. -/
theorem cvtFloatSrc_eq (a : Word) : cvtFloatSrc md t a =
    (cvtFmt t).decode (if t = 2 then
      (if md.daz = true ∧ a.toNat / 2 ^ 23 % 2 ^ 8 = 0 then a.toNat / 2 ^ 31 * 2 ^ 31 else a.toNat)
      else a.toNat % 2 ^ 16) := by
  rw [cvtFloatSrc]
  split
  case isTrue h => rw [srcF32, flushF32_eq _ a.isLt, h]; rfl
  case isFalse => rfl

theorem cvtFmt_round_lt (v : FVal) : (cvtFmt t).round rz v < 2 ^ 32 := by
  refine ((cvtFmt t).round_lt (two_le_cvtFmt_ebits t) (one_le_cvtFmt_mbits t) rz v).trans_le ?_
  refine Nat.pow_le_pow_right two_pos ?_
  rw [cvtFmt_ebits, cvtFmt_mbits]
  split_ifs <;> omega

/-- A float result is rounded into its type, and an F32 result flushed. -/
theorem toNat_cvtFloatRes (v : FVal) : (cvtFloatRes md t rz v).toNat =
    if t = 2 then flushF32 md.daz ((cvtFmt t).round rz v) else (cvtFmt t).round rz v := by
  have hlt := cvtFmt_round_lt t rz v
  rw [cvtFloatRes]
  split
  case isTrue h =>
    subst h
    refine Nat.mod_eq_of_lt ?_
    change flushF32 md.daz ((cvtFmt 2).round rz v) < 2 ^ 32
    rw [flushF32_eq _ hlt]
    split <;> omega
  case isFalse => exact Nat.mod_eq_of_lt hlt

end

section
variable {md : Modes} {t : ℕ} {rz : Bool} {v : FVal} {x : ℚ} {s : Bool}

theorem cvtFloatRes_nan : (cvtFloatRes md t rz .nan).toNat = fltCanon (cvtFmt t).ebits (cvtFmt t).mbits := by
  rw [toNat_cvtFloatRes, Fmt.round_nan]
  split
  case isTrue h =>
    subst h
    cases md.daz <;> rfl
  case isFalse => rfl

theorem cvtFloatRes_inf : (cvtFloatRes md t rz (.inf s)).toNat =
    fltSigned (cvtFmt t).ebits (cvtFmt t).mbits s (fltTop (cvtFmt t).ebits (cvtFmt t).mbits) := by
  rw [toNat_cvtFloatRes, Fmt.round_inf]
  split
  case isTrue h =>
    subst h
    cases md.daz <;> cases s <;> rfl
  case isFalse => rfl

theorem FVal.Denotes.cvtFloatRes (h : v.Denotes x s) : ∃ q,
    fltIs (cvtFmt t).ebits (cvtFmt t).mbits rz x s q ∧
    (cvtFloatRes md t rz v).toNat = if t = 2 then
      (if md.daz = true ∧ q / 2 ^ 23 % 2 ^ 8 = 0 then q / 2 ^ 31 * 2 ^ 31 else q) else q := by
  refine ⟨_, h.round (two_le_cvtFmt_ebits t) (one_le_cvtFmt_mbits t) rz fun _ => rfl, ?_⟩
  rw [toNat_cvtFloatRes, flushF32_eq _ (cvtFmt_round_lt t rz v)]

/-- A whole number becomes a float that DENORM leaves. -/
theorem cvtFloatRes_whole (n : ℤ) :
    fltIs (cvtFmt t).ebits (cvtFmt t).mbits rz n false (cvtFloatRes md t rz (.fin (n < 0) n.natAbs 1)).toNat := by
  have h : (FVal.fin (n < 0) n.natAbs 1).Denotes n (n < 0) := by
    refine ⟨_, 1, one_pos, rfl, ?_⟩
    rw [Nat.cast_one, div_one, Nat.cast_natAbs, Int.cast_abs]
    have := eq_signOf_abs (n : ℚ)
    simpa only [Int.cast_lt_zero] using this
  have hround := h.round (t := false) (two_le_cvtFmt_ebits t) (one_le_cvtFmt_mbits t) rz fun h0 => by
    rw [Int.cast_eq_zero.mp h0]; rfl
  have hkeep : (cvtFloatRes md t rz (.fin (n < 0) n.natAbs 1)).toNat =
      (cvtFmt t).round rz (.fin (n < 0) n.natAbs 1) := by
    rw [toNat_cvtFloatRes, flushF32_eq _ (cvtFmt_round_lt t rz _), ite_eq_right_iff]
    rintro rfl
    rw [ite_eq_right_iff]
    rintro ⟨-, hexp⟩
    rcases whole_not_denormal n with h0 | hle
    · rw [hround.1 h0]; rfl
    · have hne : (n : ℚ) ≠ 0 := fun h0 => by
        rw [h0, abs_zero] at hle
        norm_num at hle
      exact absurd hexp (exponent_of_rounded (hround.2 hne) hle)
  rwa [hkeep]

/-- A finite value rounded to a whole number. -/
theorem signed_roundQ_spec (s : Bool) (n : ℕ) {d : ℕ} (hd : 0 < d) :
    (rz = true → |(signed s (roundQ rz n d) : ℚ)| ≤ |signOf s * ((n : ℚ) / d)| ∧
      |signOf s * ((n : ℚ) / d)| - |(signed s (roundQ rz n d) : ℚ)| < 1 ∧
      0 ≤ (signed s (roundQ rz n d) : ℚ) * (signOf s * ((n : ℚ) / d))) ∧
    (rz = false → |(signed s (roundQ rz n d) : ℚ) - signOf s * (n / d)| ≤ 1 / 2 ∧
      (|(signed s (roundQ rz n d) : ℚ) - signOf s * (n / d)| = 1 / 2 → signed s (roundQ rz n d) % 2 = 0)) := by
  have hy : (0 : ℚ) ≤ (n : ℚ) / d := by positivity
  refine ⟨fun hz => ?_, fun hz => hz ▸ signed_roundQ s n hd⟩
  obtain ⟨hle, hlt⟩ := (roundQ_roundsTo rz n hd).1 hz
  rw [cast_signed, abs_mul, abs_mul, abs_signOf, one_mul, one_mul, abs_of_nonneg hy, Nat.abs_cast, mul_mul_mul_comm,
    signOf_mul_self, one_mul]
  exact ⟨hle, by linarith, by positivity⟩

end

theorem conversionValues : ConversionValues := by
  intro md dt st rz a _ _ flush e m int lo hi sat n w v neg r
  have he : ∀ t, (cvtFmt t).ebits = e t := cvtFmt_ebits
  have hm : ∀ t, (cvtFmt t).mbits = m t := cvtFmt_mbits
  have hint : ∀ t, cvtIsInt t = true ↔ int t := cvtIsInt_iff
  have hsrc : cvtFloatSrc md st a = (cvtFmt st).decode w := cvtFloatSrc_eq md st a
  have hsat : int dt → ∀ k, w32 (satI k (cvtRange dt).1 (cvtRange dt).2) = sat k := fun h k => by
    obtain ⟨hr, hle⟩ := cvtRange_eq h
    rw [satI_eq k hle, hr]
    rfl
  have hdec : (fltNan (e st) (m st) w → cvtFloatSrc md st a = .nan) ∧
      (fltInf (e st) (m st) w → cvtFloatSrc md st a = .inf neg) ∧
      (fltFinite (e st) (m st) w → (cvtFloatSrc md st a).Denotes v neg) := by
    simp only [v, neg]
    rw [hsrc, ← he st, ← hm st]
    exact ⟨decode_nan (two_le_cvtFmt_ebits st), decode_inf (two_le_cvtFmt_ebits st),
      decode_denotes (two_le_cvtFmt_ebits st)⟩
  obtain ⟨hnan, hinf, hfin⟩ := hdec
  refine ⟨fun hs hd => ?_, fun hs hd => ?_, fun hs hd => ?_, fun hs hd => ?_⟩
  · simp only [r, cvtValue_int_int md rz a ((hint st).mpr hs) ((hint dt).mpr hd), hsat hd, cvtIntSrc_eq hs]
    rfl
  · simp only [r, cvtValue_int_float md rz a ((hint st).mpr hs) ((hint dt).not.mpr hd), cvtIntSrc_eq hs, ← he, ← hm]
    exact cvtFloatRes_whole n
  · have hs' := (hint st).not.mpr hs
    have hd' := (hint dt).mpr hd
    refine ⟨fun h => cvtValue_nan_int md rz a hs' hd' (hnan h), fun h => ?_, fun h => ?_⟩
    · simp only [r, cvtValue_inf_int md rz a hs' hd' (hinf h), (cvtRange_eq hd).1]
      rfl
    · obtain ⟨k, d, hd0, hv, hx⟩ := hfin h
      refine ⟨signed neg (roundQ rz k d), ?_, ?_⟩
      · simp only [r, cvtValue_fin_int md rz a hs' hd' hv, hsat hd]
      · rw [hx]
        exact signed_roundQ_spec neg k hd0
  · simp only [r, cvtValue_float_float md rz a ((hint st).not.mpr hs) ((hint dt).not.mpr hd), ← he dt, ← hm dt]
    refine ⟨fun h => ?_, fun h => ?_, fun h => (hfin h).cvtFloatRes⟩
    · rw [hnan h, cvtFloatRes_nan]
    · rw [hinf h, cvtFloatRes_inf]

end Sys2Proof.Machine

namespace Sys2Proof.Machine
open Sys2Proof.Claims

/-! # Transcendental functions (R57-R59) -/

/-! ## The functions of opcode 41 (R57-R59) -/

/-- The modes under which the functions read their source and leave their result. -/
def transModes (md : Modes) : Modes := { md with daz := md.daz || decide (md.trans ≠ 0) }

theorem transModes_daz (md : Modes) : (transModes md).daz = true ↔ md.daz = true ∨ md.trans ≠ 0 := by
  simp [transModes]

section
variable {md : Modes} {g : TFun} {a x : Word}

theorem transc_special {r : FVal} (hx : srcF32 (transModes md) a = fmtF32.decode x.toNat)
    (h : tSpecial g (fmtF32.decode x.toNat) = some r) : transc md g a = resF32 (transModes md) false r := by
  rw [← hx] at h
  rw [transc]
  change (match tSpecial g (srcF32 (transModes md) a) with | some r => _ | none => _) = _
  rw [h]
  rfl

/-- The result of a source that has no row in the table of R58. -/
theorem transc_none (hx : srcF32 (transModes md) a = fmtF32.decode x.toNat)
    (h : tSpecial g (fmtF32.decode x.toNat) = none) : transc md g a =
      if md.trans ≠ 0 then resF32 (transModes md) true (legacyResult g md.trans (legacyExact g (fmtF32.decode x.toNat)))
      else resF32 (transModes md) false (tExact g (fmtF32.decode x.toNat)) := by
  rw [← hx] at h ⊢
  rw [transc]
  change (match tSpecial g (srcF32 (transModes md) a) with | some r => _ | none => _) = _
  rw [h]
  rfl

/-! The rows of the table. -/

theorem tSpecial_nan (g : TFun) : tSpecial g .nan = some .nan := by cases g <;> rfl

theorem decode_signWord (s : Bool) : fmtF32.decode (signWord s).toNat = .fin s 0 (2 ^ 149) := by cases s <;> rfl

theorem wordF32_one : wordF32 false (.fin false 1 1) = 0x3F800000 := by decide +kernel

theorem resF32_one (md : Modes) : resF32 md false (.fin false 1 1) = 0x3F800000 := by
  cases h : md.daz
  · rw [resF32_keep h, wordF32_one]
  · rw [resF32_daz h, wordF32_one]
    rfl

theorem resF32_signWord (md : Modes) (rz s : Bool) {d : ℕ} (hd : 0 < d) : resF32 md rz (.fin s 0 d) = signWord s :=
  FVal.Denotes.resF32_zero ⟨0, d, hd, rfl, by simp⟩ rz

theorem transc_zero (s : Bool) (hx : srcF32 (transModes md) a = fmtF32.decode (signWord s).toNat) :
    transc md .rcp a = signWord s + 0x7F800000 ∧ transc md .rsq a = signWord s + 0x7F800000 ∧
    transc md .sqrt a = signWord s ∧ transc md .ex2 a = 0x3F800000 ∧ transc md .lg2 a = 0xFF800000 ∧
    transc md .sin a = signWord s ∧ transc md .cos a = 0x3F800000 := by
  have row : ∀ (g : TFun) r, tSpecial g (.fin s 0 (2 ^ 149)) = some r →
      transc md g a = resF32 (transModes md) false r := fun g r h => transc_special hx (by rw [decode_signWord, h])
  rw [row .rcp (.inf s) rfl, row .rsq (.inf s) rfl, row .sqrt (.fin s 0 1) rfl, 
    row .ex2 (.fin false 1 1) (by cases s <;> rfl), row .lg2 (.inf true) rfl, row .sin (.fin s 0 1) rfl, row .cos (.fin false 1 1) rfl]
  rw [resF32_inf, resF32_inf, resF32_signWord _ _ _ one_pos, resF32_one]
  exact ⟨rfl, rfl, rfl, rfl, rfl, rfl, rfl⟩

theorem transc_inf (hx : srcF32 (transModes md) a = fmtF32.decode (0x7F800000 : Word).toNat) :
    transc md .rcp a = 0 ∧ transc md .rsq a = 0 ∧ transc md .sqrt a = 0x7F800000 ∧ transc md .ex2 a = 0x7F800000 ∧
    transc md .lg2 a = 0x7F800000 ∧ transc md .sin a = 0x7FC00000 ∧ transc md .cos a = 0x7FC00000 := by
  have row : ∀ (g : TFun) r, tSpecial g (.inf false) = some r →
      transc md g a = resF32 (transModes md) false r := fun g r h => transc_special hx h
  rw [row .rcp (.fin false 0 1) rfl, row .rsq (.fin false 0 1) rfl, row .sqrt (.inf false) rfl,
    row .ex2 (.inf false) rfl, row .lg2 (.inf false) rfl, row .sin .nan rfl, row .cos .nan rfl]
  rw [resF32_inf, resF32_signWord _ _ _ one_pos, resF32_nan]
  exact ⟨rfl, rfl, rfl, rfl, rfl, rfl, rfl⟩

theorem transc_neg_inf (hx : srcF32 (transModes md) a = fmtF32.decode (0xFF800000 : Word).toNat) :
    transc md .rcp a = 0x80000000 ∧ transc md .rsq a = 0x7FC00000 ∧ transc md .sqrt a = 0x7FC00000 ∧
    transc md .ex2 a = 0 ∧ transc md .lg2 a = 0x7FC00000 ∧ transc md .sin a = 0x7FC00000 ∧
    transc md .cos a = 0x7FC00000 := by
  have row : ∀ (g : TFun) r, tSpecial g (.inf true) = some r →
      transc md g a = resF32 (transModes md) false r := fun g r h => transc_special hx h
  rw [row .rcp (.fin true 0 1) rfl, row .rsq .nan rfl, row .sqrt .nan rfl, row .ex2 (.fin false 0 1) rfl,
    row .lg2 .nan rfl, row .sin .nan rfl, row .cos .nan rfl]
  rw [resF32_signWord _ _ _ one_pos, resF32_signWord _ _ _ one_pos, resF32_nan]
  exact ⟨rfl, rfl, rfl, rfl, rfl, rfl, rfl⟩

/-! The table on finite numbers that are not 0. -/

theorem tSpecial_negative {n : ℕ} (hn : 0 < n) (d : ℕ) :
    tSpecial .rsq (.fin true n d) = some .nan ∧ tSpecial .sqrt (.fin true n d) = some .nan ∧
    tSpecial .lg2 (.fin true n d) = some .nan := by
  obtain ⟨k, rfl⟩ := Nat.exists_eq_add_of_lt hn
  exact ⟨rfl, rfl, rfl⟩

theorem tSpecial_positive {n : ℕ} (hn : 0 < n) (d : ℕ) :
    tSpecial .rsq (.fin false n d) = none ∧ tSpecial .sqrt (.fin false n d) = none ∧
    tSpecial .lg2 (.fin false n d) = none ∧
    tSpecial .ex2 (.fin false n d) = if 128 * d ≤ n then some (.inf false) else none := by
  obtain ⟨k, rfl⟩ := Nat.exists_eq_add_of_lt hn
  exact ⟨rfl, rfl, rfl, rfl⟩

theorem tSpecial_rcp {n : ℕ} (hn : 0 < n) (s : Bool) (d : ℕ) : tSpecial .rcp (.fin s n d) = none := by
  obtain ⟨k, rfl⟩ := Nat.exists_eq_add_of_lt hn
  cases s <;> rfl

theorem tSpecial_ex2_negative {n : ℕ} (hn : 0 < n) (d : ℕ) : tSpecial .ex2 (.fin true n d) = none := by
  obtain ⟨k, rfl⟩ := Nat.exists_eq_add_of_lt hn
  rfl

end

/-- A number that is not 0 has a numerator. -/
theorem FVal.Denotes.exists_pos {v : FVal} {x : ℚ} {s : Bool} (h : v.Denotes x s) (hx : x ≠ 0) :
    ∃ n d : ℕ, 0 < n ∧ 0 < d ∧ v = .fin s n d ∧ x = signOf s * ((n : ℚ) / d) := by
  obtain ⟨n, d, hd, hv, hxv⟩ := h
  exact ⟨n, d, Nat.pos_of_ne_zero fun h0 => hx (by rw [hxv, h0]; simp), hd, hv, hxv⟩

/-- The sign of a number that is not 0 is its word's. -/
theorem f32_sign {x : Word} (h : f32Value x ≠ 0) : x.getLsbD 31 = decide (f32Value x < 0) := by
  have hv := f32Value_eq_signOf_abs x
  have hs := decide_signOf_mul_neg (neg := x.getLsbD 31) (abs_pos.mpr h)
  rw [← hv] at hs
  exact hs.symm

section
variable {md : Modes} {a x : Word}

theorem transc_negative (hx : srcF32 (transModes md) a = fmtF32.decode x.toNat) (hf : f32Finite x)
    (hv : f32Value x < 0) :
    transc md .rsq a = 0x7FC00000 ∧ transc md .sqrt a = 0x7FC00000 ∧ transc md .lg2 a = 0x7FC00000 := by
  obtain ⟨n, d, hn, -, hdec, -⟩ := (f32_denotes hf).exists_pos hv.ne
  rw [f32_sign hv.ne, decide_eq_true hv] at hdec
  obtain ⟨hrsq, hsqrt, hlg2⟩ := tSpecial_negative hn d
  rw [← hdec] at hrsq hsqrt hlg2
  rw [transc_special hx hrsq, transc_special hx hsqrt, transc_special hx hlg2]
  exact ⟨resF32_nan _, resF32_nan _, resF32_nan _⟩

/-- A positive finite source, as a ratio. -/
theorem f32_positive (hf : f32Finite x) (hv : 0 < f32Value x) :
    ∃ n d : ℕ, 0 < n ∧ 0 < d ∧ fmtF32.decode x.toNat = .fin false n d ∧ f32Value x = (n : ℚ) / d := by
  obtain ⟨n, d, hn, hd, hdec, hval⟩ := (f32_denotes hf).exists_pos hv.ne'
  have hs : x.getLsbD 31 = false := by rw [f32_sign hv.ne', decide_eq_false (not_lt.mpr hv.le)]
  rw [hs] at hdec hval
  exact ⟨n, d, hn, hd, hdec, hval.trans (one_mul _)⟩

theorem transc_ex2_overflow (hx : srcF32 (transModes md) a = fmtF32.decode x.toNat) (hf : f32Finite x)
    (hv : 128 ≤ f32Value x) : transc md .ex2 a = 0x7F800000 := by
  obtain ⟨n, d, hn, hd, hdec, hval⟩ := f32_positive hf (lt_of_lt_of_le (by norm_num) hv)
  rw [hval, le_div_iff₀ (by positivity)] at hv
  have hle : 128 * d ≤ n := by exact_mod_cast hv
  have h := (tSpecial_positive hn d).2.2.2
  rw [if_pos hle, ← hdec] at h
  rw [transc_special hx h, resF32_inf]
  rfl

end

/-! ## Square roots (R57) -/

/-- The bits of the root are found from the highest down. -/
theorem isqrtAux_spec (n : ℕ) : ∀ k r, r * r ≤ n → n < (r + 2 ^ k) * (r + 2 ^ k) →
    isqrtAux n k r * isqrtAux n k r ≤ n ∧ n < (isqrtAux n k r + 1) * (isqrtAux n k r + 1)
  | 0, r, hlo, hhi => ⟨hlo, hhi⟩
  | k + 1, r, hlo, hhi => by
    rw [isqrtAux]
    refine isqrtAux_spec n k _ ?_ ?_
    · split
      case isTrue h => exact h
      case isFalse => exact hlo
    · split
      case isTrue h => rwa [add_assoc, ← two_mul, ← pow_succ']
      case isFalse h => exact not_le.mp h

theorem isqrt_spec (n : ℕ) : isqrt n * isqrt n ≤ n ∧ n < (isqrt n + 1) * (isqrt n + 1) := by
  refine isqrtAux_spec n _ 0 (Nat.zero_le n) ?_
  rw [zero_add, ← pow_add]
  exact Nat.lt_log2_self.trans_le (Nat.pow_le_pow_right two_pos (by omega))

/-- `y` lies among the multiples of `2 ^ -k` where the root of `v` lies. -/
def RootLike (k : ℕ) (v y : ℚ) : Prop :=
  ∀ j : ℕ, ((j : ℚ) / 2 ^ k ≤ y ↔ ((j : ℚ) / 2 ^ k) ^ 2 ≤ v) ∧ (y ≤ (j : ℚ) / 2 ^ k ↔ v ≤ ((j : ℚ) / 2 ^ k) ^ 2)

/-- A floored root, with a half more where it is not exact, lies where the root does. -/
theorem rootLike_of_floor {k R : ℕ} {v : ℚ} (hlo : (R : ℚ) ^ 2 ≤ v * 2 ^ (2 * k)) (hhi : v * 2 ^ (2 * k) < (R + 1) ^ 2) :
    RootLike k v ((R + if v * 2 ^ (2 * k) = (R : ℚ) ^ 2 then 0 else 1 / 2) / 2 ^ k) := by
  intro j
  have hk : (0 : ℚ) < 2 ^ k := by positivity
  have hsq : ((j : ℚ) / 2 ^ k) ^ 2 = (j : ℚ) ^ 2 / 2 ^ (2 * k) := by rw [div_pow, ← pow_mul, mul_comm]
  have h2 : (0 : ℚ) < 2 ^ (2 * k) := by positivity
  rw [div_le_div_iff_of_pos_right hk, div_le_div_iff_of_pos_right hk, hsq, div_le_iff₀ h2, le_div_iff₀ h2]
  rcases Nat.lt_or_ge R j with hj | hj
  · have hj' : (R : ℚ) + 1 ≤ j := by exact_mod_cast hj
    have hgt : v * 2 ^ (2 * k) < (j : ℚ) ^ 2 := hhi.trans_le (pow_le_pow_left₀ (by positivity) hj' 2)
    refine ⟨iff_of_false (fun h => ?_) (not_le.mpr hgt), iff_of_true ?_ hgt.le⟩ <;> split_ifs at * <;> linarith
  · have hj' : (j : ℚ) ≤ R := by exact_mod_cast hj
    have hle : (j : ℚ) ^ 2 ≤ (R : ℚ) ^ 2 := pow_le_pow_left₀ (by positivity) hj' 2
    refine ⟨iff_of_true (by split_ifs <;> linarith) (hle.trans hlo), ?_⟩
    split
    case isTrue heq =>
      rw [heq, add_zero]
      exact (pow_le_pow_iff_left₀ (by positivity) (by positivity) two_ne_zero).symm
    case isFalse hne =>
      have hlt : (R : ℚ) ^ 2 < v * 2 ^ (2 * k) := lt_of_le_of_ne hlo (Ne.symm hne)
      exact iff_of_false (by linarith) (by linarith)

/-- The model's root of a ratio lies where the root does. -/
theorem sqrtRat_rootLike (n : ℕ) {d : ℕ} (hd : 0 < d) : 0 < (sqrtRat n d).2 ∧ ∃ k, 160 ≤ k ∧
    RootLike k ((n : ℚ) / d) ((sqrtRat n d).1 / (sqrtRat n d).2) := by
  obtain ⟨k, hk⟩ : ∃ k, 160 + 2 * Nat.log2 d = k := ⟨_, rfl⟩
  set X := n * 2 ^ (2 * k) / d with hX
  obtain ⟨hlo, hhi⟩ := isqrt_spec X
  set R := isqrt X with hR
  have hd' : (0 : ℚ) < d := by positivity
  have hval : (n : ℚ) / d * 2 ^ (2 * k) = (n * 2 ^ (2 * k) : ℕ) / d := by
    push_cast
    ring
  have hfloor : (X : ℚ) ≤ (n : ℚ) / d * 2 ^ (2 * k) := by rw [hval]; exact Nat.cast_div_le
  have hceil : (n : ℚ) / d * 2 ^ (2 * k) < X + 1 := by rw [hval]; exact lt_natFloor_succ _ hd
  have hlo' : (R : ℚ) ^ 2 ≤ (n : ℚ) / d * 2 ^ (2 * k) := by
    rw [sq]
    exact le_trans (by exact_mod_cast hlo) hfloor
  have hhi' : (n : ℚ) / d * 2 ^ (2 * k) < (R + 1 : ℚ) ^ 2 := by
    have h1 : (X : ℚ) + 1 ≤ (R + 1) * (R + 1) := by exact_mod_cast hhi
    rw [sq]
    exact hceil.trans_le h1
  have hexact : (n : ℚ) / d * 2 ^ (2 * k) = (R : ℚ) ^ 2 ↔ X * d = n * 2 ^ (2 * k) ∧ R * R = X := by
    constructor
    · intro h
      have h1 : (X : ℚ) ≤ (R * R : ℕ) := by
        rw [h, sq] at hfloor
        exact_mod_cast hfloor
      have h2 : R * R = X := le_antisymm hlo (by exact_mod_cast h1)
      rw [hval, sq, div_eq_iff hd'.ne'] at h
      refine ⟨?_, h2⟩
      rw [← h2]
      exact_mod_cast h.symm
    · rintro ⟨h1, h2⟩
      rw [hval, ← h1, ← h2]
      push_cast
      rw [mul_div_cancel_right₀ _ hd'.ne', sq]
  have hrat : sqrtRat n d = (2 * R + (if X * d = n * 2 ^ (2 * k) ∧ R * R = X then 0 else 1), 2 ^ (k + 1)) := by
    simp only [sqrtRat, hk]
    rfl
  refine ⟨by rw [hrat]; positivity, k, by omega, ?_⟩
  have hroot := rootLike_of_floor hlo' hhi'
  convert hroot using 1
  rw [hrat]
  simp only [hexact]
  push_cast
  rw [pow_succ]
  split_ifs
  · field_simp
    ring
  · field_simp

section
variable {k : ℕ} {v y : ℚ}

/-- `q` is a multiple of `2 ^ -k` that is not negative. -/
def OnDyadic (k : ℕ) (q : ℚ) : Prop := ∃ j : ℕ, q = (j : ℚ) / 2 ^ k

theorem RootLike.le_iff (h : RootLike k v y) {q : ℚ} (hq : OnDyadic k q) : q ≤ y ↔ q ^ 2 ≤ v := by
  obtain ⟨j, rfl⟩ := hq
  exact (h j).1

theorem RootLike.ge_iff (h : RootLike k v y) {q : ℚ} (hq : OnDyadic k q) : y ≤ q ↔ v ≤ q ^ 2 := by
  obtain ⟨j, rfl⟩ := hq
  exact (h j).2

/-- Multiples of a greater power of two. -/
theorem onDyadic_mul_zpow (M : ℕ) {q : ℤ} (hq : -(k : ℤ) ≤ q) : OnDyadic k (M * (2 : ℚ) ^ q) := by
  obtain ⟨j, hj⟩ := Int.eq_ofNat_of_zero_le (show 0 ≤ q + k by omega)
  refine ⟨M * 2 ^ j, ?_⟩
  rw [show q = (j : ℤ) - k by omega, zpow_sub₀ two_ne_zero, zpow_natCast, zpow_natCast]
  push_cast
  ring

theorem onDyadic_zpow {q : ℤ} (hq : -(k : ℤ) ≤ q) : OnDyadic k ((2 : ℚ) ^ q) := by
  simpa using onDyadic_mul_zpow 1 hq

/-- The middle of two F32 numbers that are not negative. -/
theorem onDyadic_middle (hk : 160 ≤ k) {r w : Word} (hr : 0 ≤ f32Value r) (hw : 0 ≤ f32Value w) :
    OnDyadic k ((f32Value r + f32Value w) / 2) := by
  have hnat : ∀ u : Word, 0 ≤ f32Value u → f32Value u = (gridSteps 23 (fltMag 8 23 u.toNat) : ℚ) / 2 ^ 149 := fun u hu => by
    rw [← abs_of_nonneg hu, f32Value_eq, abs_fltValue (by decide), perOne_f32]
  have h := onDyadic_mul_zpow (k := k) (gridSteps 23 (fltMag 8 23 r.toNat) + gridSteps 23 (fltMag 8 23 w.toNat))
    (q := -150) (by omega)
  rw [hnat r hr, hnat w hw, ← add_div, div_div, ← pow_succ, div_eq_mul_inv, ← zpow_natCast, ← zpow_neg]
  exact_mod_cast h

/-- The least number of F32. -/
theorem f32Value_least : f32Value 1 = (2 : ℚ) ^ (-149 : ℤ) := by
  rw [show (1 : Word) = f32Word false 1 from rfl, f32Value_f32Word (by decide)]
  norm_num [gridSteps, signOf]

/-- `r` is the root of `v` rounded to nearest: the middles between it and the other numbers are on their sides of the
root. -/
def RootRounded (v : ℚ) (r : Word) : Prop :=
  f32Finite r ∧ 0 < f32Value r ∧ ∀ w, f32Finite w → 0 ≤ f32Value w →
    (f32Value r < f32Value w → v ≤ ((f32Value r + f32Value w) / 2) ^ 2) ∧
    (f32Value w < f32Value r → ((f32Value r + f32Value w) / 2) ^ 2 ≤ v)

theorem rootRounded_of_rounded (h : RootLike k v y) (hk : 160 ≤ k) (hlo : (2 : ℚ) ^ (-149 : ℤ) ≤ v) (hhi : v ≤ (2 : ℚ) ^ (150 : ℤ))
    {r : Word} (hr : f32Rounded false y r) : RootRounded v r := by
  have hy1 : (2 : ℚ) ^ (-149 : ℤ) ≤ y := by
    rw [h.le_iff (onDyadic_zpow (by omega))]
    refine le_trans ?_ hlo
    norm_num
  have hy2 : y ≤ (2 : ℚ) ^ (75 : ℤ) := by
    rw [h.ge_iff (onDyadic_zpow (by omega))]
    refine hhi.trans ?_
    norm_num
  have hy0 : 0 < y := lt_of_lt_of_le (by positivity) hy1
  obtain ⟨hs, -, -, hnear⟩ := hr
  obtain ⟨hf, hbest⟩ := hnear rfl (by
    rw [abs_of_pos hy0]
    refine hy2.trans_lt ?_
    norm_num)
  have hr0 : 0 ≤ f32Value r := by
    rw [f32Value_eq_signOf_abs, hs, decide_eq_false (not_lt.mpr hy0.le)]
    simp [signOf]
  refine ⟨hf, lt_of_le_of_ne hr0 fun h0 => ?_, fun w hw hw0 => ⟨fun hlt => ?_, fun hlt => ?_⟩⟩
  · have hd := (hbest 1 (by show _ ≠ _; decide)).1
    rw [← h0, f32Value_least, zero_sub, abs_neg, abs_of_pos hy0, abs_of_nonpos (by linarith)] at hd
    have : (0 : ℚ) < 2 ^ (-149 : ℤ) := by positivity
    linarith
  · rw [← h.ge_iff (onDyadic_middle hk hr0 hw0)]
    have hd := (hbest w hw).1
    by_contra hgt
    rw [abs_le] at hd
    rcases le_total y (f32Value w) with hyw | hyw
    · rw [abs_of_nonneg (by linarith)] at hd
      linarith
    · rw [abs_of_nonpos (by linarith)] at hd
      linarith
  · rw [← h.le_iff (onDyadic_middle hk hr0 hw0)]
    have hd := (hbest w hw).1
    by_contra hgt
    rw [abs_le] at hd
    rcases le_total y (f32Value w) with hyw | hyw
    · rw [abs_of_nonneg (by linarith)] at hd
      linarith
    · rw [abs_of_nonpos (by linarith)] at hd
      linarith

end

/-- The bounds of the finite numbers that are not 0. -/
theorem abs_f32Value_bounds {x : Word} (hf : f32Finite x) (h0 : f32Value x ≠ 0) :
    (2 : ℚ) ^ (-149 : ℤ) ≤ |f32Value x| ∧ |f32Value x| < (2 : ℚ) ^ (128 : ℤ) := by
  refine ⟨?_, (abs_f32Value_le hf).trans_lt (by norm_num)⟩
  have hpos : 0 < |f32Value x| := abs_pos.mpr h0
  rw [f32Value_eq, abs_fltValue (by decide), perOne_f32] at hpos ⊢
  have hsteps : 0 < gridSteps 23 (fltMag 8 23 x.toNat) := by
    refine Nat.pos_of_ne_zero fun h => ?_
    rw [h, Nat.cast_zero, zero_div] at hpos
    exact lt_irrefl _ hpos
  have h1 : (1 : ℚ) ≤ gridSteps 23 (fltMag 8 23 x.toNat) := by exact_mod_cast hsteps
  rw [le_div_iff₀ (by positivity)]
  refine le_trans (le_of_eq ?_) h1
  norm_num

section
variable {md : Modes} {a x : Word}

/-- FRCP in the current generation, without DENORM, is the reciprocal rounded to nearest. -/
theorem frcp_current (hx : srcF32 (transModes md) a = fmtF32.decode x.toNat) (ht : md.trans = 0) (hdaz : md.daz = false)
    (hf : f32Finite x) (h0 : f32Value x ≠ 0) : f32Rounded false (1 / f32Value x) (transc md .rcp a) := by
  obtain ⟨n, d, hn, hd, hdec, hval⟩ := (f32_denotes hf).exists_pos h0
  have hres : (FVal.fin (x.getLsbD 31) d n).Denotes (1 / f32Value x) (x.getLsbD 31) := by
    refine ⟨d, n, hn, rfl, ?_⟩
    rw [hval, one_div, mul_inv, inv_div, inv_eq_of_mul_eq_one_left (signOf_mul_self _)]
  have hkeep : (transModes md).daz = false := by simp [transModes, ht, hdaz]
  rw [transc_none hx (by rw [hdec, tSpecial_rcp hn]), if_neg (not_not.mpr ht), hdec]
  change f32Rounded false _ (resF32 _ false (.fin (x.getLsbD 31) d n))
  rw [resF32_keep hkeep]
  exact (hres.wordF32 false fun _ => rfl).2 (one_div_ne_zero h0)

/-- The model's root, rounded to nearest. -/
theorem rootRounded_sqrtRat {n d : ℕ} (hd : 0 < d) (hlo : (2 : ℚ) ^ (-149 : ℤ) ≤ (n : ℚ) / d)
    (hhi : (n : ℚ) / d ≤ (2 : ℚ) ^ (150 : ℤ)) :
    RootRounded ((n : ℚ) / d) (wordF32 false (.fin false (sqrtRat n d).1 (sqrtRat n d).2)) := by
  obtain ⟨hpos, k, hk, hroot⟩ := sqrtRat_rootLike n hd
  have hden : (FVal.fin false (sqrtRat n d).1 (sqrtRat n d).2).Denotes ((sqrtRat n d).1 / (sqrtRat n d).2) false :=
    ⟨_, _, hpos, rfl, (one_mul _).symm⟩
  refine rootRounded_of_rounded hroot hk hlo hhi ((hden.wordF32 false fun _ => rfl).2 fun h0 => ?_)
  have h1 : (2 : ℚ) ^ (-149 : ℤ) ≤ (sqrtRat n d).1 / (sqrtRat n d).2 := by
    rw [hroot.le_iff (onDyadic_zpow (by omega))]
    refine le_trans ?_ hlo
    norm_num
  rw [h0] at h1
  exact absurd h1 (not_le.mpr (by positivity))

/-- FSQRT in the current generation, without DENORM, is the root rounded to nearest. -/
theorem fsqrt_current (hx : srcF32 (transModes md) a = fmtF32.decode x.toNat) (ht : md.trans = 0) (hdaz : md.daz = false)
    (hf : f32Finite x) (hv : 0 < f32Value x) : RootRounded (f32Value x) (transc md .sqrt a) := by
  obtain ⟨n, d, hn, hd, hdec, hval⟩ := f32_positive hf hv
  obtain ⟨-, hsqrt, -⟩ := tSpecial_positive hn d
  rw [← hdec] at hsqrt
  have hkeep : (transModes md).daz = false := by simp [transModes, ht, hdaz]
  have hres : transc md .sqrt a = wordF32 false (.fin false (sqrtRat n d).1 (sqrtRat n d).2) := by
    rw [transc_none hx hsqrt, if_neg (not_not.mpr ht), hdec]
    exact resF32_keep hkeep _ _
  obtain ⟨hlo, hhi⟩ := abs_f32Value_bounds hf hv.ne'
  rw [abs_of_pos hv, hval] at hlo hhi
  rw [hres, hval]
  exact rootRounded_sqrtRat hd hlo (hhi.le.trans (by norm_num))

/-- FRSQ in the current generation, without DENORM, is the root of the reciprocal rounded to nearest. -/
theorem frsq_current (hx : srcF32 (transModes md) a = fmtF32.decode x.toNat) (ht : md.trans = 0) (hdaz : md.daz = false)
    (hf : f32Finite x) (hv : 0 < f32Value x) : RootRounded (1 / f32Value x) (transc md .rsq a) := by
  obtain ⟨n, d, hn, hd, hdec, hval⟩ := f32_positive hf hv
  obtain ⟨hrsq, -⟩ := tSpecial_positive hn d
  rw [← hdec] at hrsq
  have hkeep : (transModes md).daz = false := by simp [transModes, ht, hdaz]
  have hres : transc md .rsq a = wordF32 false (.fin false (sqrtRat d n).1 (sqrtRat d n).2) := by
    rw [transc_none hx hrsq, if_neg (not_not.mpr ht), hdec]
    exact resF32_keep hkeep _ _
  obtain ⟨hlo, hhi⟩ := abs_f32Value_bounds hf hv.ne'
  rw [abs_of_pos hv] at hlo hhi
  have hinv : 1 / f32Value x = (d : ℚ) / n := by rw [hval, one_div_div]
  have hlo' : (2 : ℚ) ^ (-149 : ℤ) ≤ 1 / f32Value x := by
    rw [le_div_iff₀ hv]
    refine (mul_le_mul_of_nonneg_left hhi.le (by positivity)).trans ?_
    norm_num
  have hhi' : 1 / f32Value x ≤ (2 : ℚ) ^ (150 : ℤ) := by
    rw [div_le_iff₀ hv]
    refine le_trans ?_ (mul_le_mul_of_nonneg_left hlo (by positivity))
    norm_num
  rw [hinv] at hlo' hhi' ⊢
  rw [hres]
  exact rootRounded_sqrtRat hn hlo' hhi'

/-- The root of a reciprocal, as the statement of FRSQ writes it. -/
theorem RootRounded.reciprocal {v : ℚ} {r : Word} (h : RootRounded (1 / v) r) (hv : 0 < v) :
    f32Finite r ∧ 0 < f32Value r ∧ ∀ w, f32Finite w → 0 ≤ f32Value w →
      (f32Value r < f32Value w → 1 ≤ v * ((f32Value r + f32Value w) / 2) ^ 2) ∧
      (f32Value w < f32Value r → v * ((f32Value r + f32Value w) / 2) ^ 2 ≤ 1) := by
  obtain ⟨hf, hpos, hmid⟩ := h
  refine ⟨hf, hpos, fun w hw hw0 => ?_⟩
  have hw' := hmid w hw hw0
  rwa [div_le_iff₀' hv, le_div_iff₀' hv] at hw'

end

/-! ## Truncation in the legacy generations (R59) -/

/-- The normal F32 number `M · 2 ^ (E - k)`, of `k` fraction bits, whose word has the bits below them 0. -/
theorem exists_f32_normal (s : Bool) {k M : ℕ} {E : ℤ} (hk : k ≤ 23) (hM1 : 2 ^ k ≤ M) (hM2 : M < 2 ^ (k + 1))
    (hE1 : -126 ≤ E) (hE2 : E ≤ 127) :
    ∃ w, f32Finite w ∧ f32Value w = signOf s * (M * (2 : ℚ) ^ (E - k)) ∧ w.toNat % 2 ^ (23 - k) = 0 := by
  obtain ⟨j, hj⟩ := Int.eq_ofNat_of_zero_le (show 0 ≤ E + 126 by omega)
  obtain ⟨i, hi⟩ := Nat.exists_eq_add_of_le hk
  have hp : 0 < 2 ^ i := by positivity
  have h1 : 2 ^ 23 ≤ M * 2 ^ i := by
    rw [hi, pow_add]
    exact Nat.mul_le_mul_right _ hM1
  have h2 : M * 2 ^ i < 2 ^ (23 + 1) := by
    rw [show 23 + 1 = k + 1 + i by omega, pow_add]
    exact Nat.mul_lt_mul_of_pos_right hM2 hp
  have hb : j * 2 ^ 23 + M * 2 ^ i < 0x7F800000 := by omega
  refine ⟨f32Word s (j * 2 ^ 23 + M * 2 ^ i), f32Finite_f32Word hb, ?_, ?_⟩
  · rw [f32Value_f32Word hb, gridSteps_place (.inr h1) h2]
    congr 1
    have hz : (2 : ℚ) ^ (E - k) * 2 ^ 149 = 2 ^ i * 2 ^ j := by
      rw [← zpow_natCast, ← zpow_add₀ two_ne_zero, show E - k + (149 : ℕ) = ((i + j : ℕ) : ℤ) by omega,
        zpow_natCast, pow_add]
    rw [div_eq_iff (by positivity), Nat.cast_mul, Nat.cast_mul, Nat.cast_pow, Nat.cast_pow, Nat.cast_ofNat, mul_assoc,
      mul_assoc, hz]
  · have hdvd : 2 ^ i ∣ 2 ^ 23 := pow_dvd_pow 2 (by omega)
    have hdvd' : 2 ^ i ∣ 2 ^ (8 + 23) := pow_dvd_pow 2 (by omega)
    rw [toNat_f32Word hb, show 23 - k = i by omega]
    refine Nat.mod_eq_zero_of_dvd (Nat.dvd_add ?_ (Nat.dvd_add (hdvd.mul_left j) (Nat.dvd_mul_left _ M)))
    split
    exacts [hdvd', dvd_zero _]

/-- Words of one number that is not 0 are equal. -/
theorem eq_of_f32Value {r w : Word} (h : f32Value r = f32Value w) (h0 : f32Value r ≠ 0) : r = w := by
  have hlt := f32Value_lt_iff r w
  have hgt := f32Value_lt_iff w r
  refine eq_of_f32Num ?_ (by rw [f32_sign h0, f32_sign (h ▸ h0), h])
  rw [h] at hlt hgt
  simp only [lt_irrefl, false_iff] at hlt hgt
  omega

/-- A value cut to `k` fraction bits: `M` of the steps `2 ^ (E - k)` of its binade. -/
theorem truncRel_spec (k : ℕ) (s : Bool) {n d : ℕ} (hn : 0 < n) (hd : 0 < d) : ∃ M : ℕ, 2 ^ k ≤ M ∧ M < 2 ^ (k + 1) ∧
    (truncRel k (.fin s n d)).Denotes (signOf s * (M * (2 : ℚ) ^ (ilog2 n d - k))) s ∧
    M * (2 : ℚ) ^ (ilog2 n d - k) ≤ (n : ℚ) / d ∧ (n : ℚ) / d < (M + 1) * (2 : ℚ) ^ (ilog2 n d - k) := by
  obtain ⟨hlo, hhi⟩ := ilog2_spec hn hd
  set q := ilog2 n d - k with hq
  have hqpos : (0 : ℚ) < 2 ^ q := by positivity
  obtain ⟨M, hden, h1, h2⟩ : ∃ M : ℕ, (truncRel k (.fin s n d)).Denotes (signOf s * (M * (2 : ℚ) ^ q)) s ∧
      M * (2 : ℚ) ^ q ≤ (n : ℚ) / d ∧ (n : ℚ) / d < (M + 1) * (2 : ℚ) ^ q := by
    have htr : truncRel k (.fin s n d) = if 0 ≤ q then .fin s (n / (d * 2 ^ q.toNat) * 2 ^ q.toNat) 1
        else .fin s (n * 2 ^ (-q).toNat / d) (2 ^ (-q).toNat) := by
      simp only [truncRel, if_neg hn.ne', ← hq]
    rw [htr]
    split
    case isTrue h =>
      obtain ⟨j, hj⟩ := Int.eq_ofNat_of_zero_le h
      rw [hj, Int.toNat_natCast, zpow_natCast]
      have hc : (n : ℚ) / d = (n : ℚ) / (d * 2 ^ j : ℕ) * 2 ^ j := by
        push_cast
        field_simp
      have hj0 : (0 : ℚ) < 2 ^ j := by positivity
      refine ⟨n / (d * 2 ^ j), ⟨_, 1, one_pos, rfl, by push_cast; rw [div_one]⟩, ?_, ?_⟩
      · rw [hc]
        exact mul_le_mul_of_nonneg_right Nat.cast_div_le hj0.le
      · rw [hc]
        exact mul_lt_mul_of_pos_right (lt_natFloor_succ n (by positivity)) hj0
    case isFalse h =>
      obtain ⟨j, hj⟩ := Int.eq_ofNat_of_zero_le (show 0 ≤ -q by omega)
      rw [hj, Int.toNat_natCast, ← neg_neg q, hj, zpow_neg, zpow_natCast]
      have hj0 : (0 : ℚ) < ((2 : ℚ) ^ j)⁻¹ := by positivity
      have hc : (n : ℚ) / d = ((n * 2 ^ j : ℕ) : ℚ) / d * ((2 : ℚ) ^ j)⁻¹ := by
        push_cast
        field_simp
      refine ⟨n * 2 ^ j / d, ⟨_, _, by positivity, rfl, by push_cast; rw [div_eq_mul_inv]⟩, ?_, ?_⟩
      · rw [hc]
        exact mul_le_mul_of_nonneg_right Nat.cast_div_le hj0.le
      · rw [hc]
        exact mul_lt_mul_of_pos_right (lt_natFloor_succ _ hd) hj0
  have hk : (2 : ℚ) ^ ilog2 n d = 2 ^ k * 2 ^ q := by
    rw [← zpow_natCast, ← zpow_add₀ two_ne_zero]
    congr 1
    omega
  refine ⟨M, ?_, ?_, hden, h1, h2⟩
  · have h3 : (2 : ℚ) ^ k < M + 1 := by
      rw [← mul_lt_mul_iff_left₀ hqpos, ← hk]
      exact hlo.trans_lt h2
    exact Nat.le_of_lt_succ (by exact_mod_cast h3)
  · have h3 : (M : ℚ) < 2 ^ (k + 1) := by
      rw [← mul_lt_mul_iff_left₀ hqpos, pow_succ, mul_right_comm, ← hk]
      refine h1.trans_lt (hhi.trans_eq ?_)
      rw [zpow_add_one₀ two_ne_zero]
    exact_mod_cast h3

section
variable {md : Modes}

/-- A legacy result of normal size: it is `M` steps of the binade of the exact value, and its low bits are 0. -/
theorem resF32_truncRel {k : ℕ} (hk : k ≤ 23) (s : Bool) {n d : ℕ} (hn : 0 < n) (hd : 0 < d)
    (hlo : (2 : ℚ) ^ (-126 : ℤ) ≤ (n : ℚ) / d) (hhi : (n : ℚ) / d < (2 : ℚ) ^ (128 : ℤ)) :
    ∃ (M : ℕ) (E : ℤ), -126 ≤ E ∧ (2 : ℚ) ^ E ≤ (n : ℚ) / d ∧
      f32Finite (resF32 md true (truncRel k (.fin s n d))) ∧
      f32Value (resF32 md true (truncRel k (.fin s n d))) = signOf s * (M * (2 : ℚ) ^ (E - k)) ∧
      (resF32 md true (truncRel k (.fin s n d))).toNat % 2 ^ (23 - k) = 0 ∧ 2 ^ k ≤ M ∧
      M * (2 : ℚ) ^ (E - k) ≤ (n : ℚ) / d ∧ (n : ℚ) / d < (M + 1) * (2 : ℚ) ^ (E - k) := by
  obtain ⟨M, hM1, hM2, hden, h1, h2⟩ := truncRel_spec k s hn hd
  obtain ⟨hE1, hE2⟩ := ilog2_spec hn hd
  set E := ilog2 n d
  have hElo : -126 ≤ E := by
    have := (zpow_lt_zpow_iff_right₀ (a := (2 : ℚ)) one_lt_two).mp (hlo.trans_lt hE2)
    omega
  have hEhi : E ≤ 127 := by
    have := (zpow_lt_zpow_iff_right₀ (a := (2 : ℚ)) one_lt_two).mp (hE1.trans_lt hhi)
    omega
  obtain ⟨w, hwf, hwv, hwbits⟩ := exists_f32_normal s hk hM1 hM2 hElo hEhi
  have habs : 1 / 2 ^ 126 ≤ |signOf s * (M * (2 : ℚ) ^ (E - k))| := by
    rw [abs_mul, abs_signOf, one_mul, abs_of_nonneg (by positivity)]
    have h3 : (2 : ℚ) ^ k ≤ M := by exact_mod_cast hM1
    calc (1 : ℚ) / 2 ^ 126 = (2 : ℚ) ^ (-126 : ℤ) := by norm_num
      _ ≤ (2 : ℚ) ^ E := zpow_le_zpow_right₀ one_le_two hElo
      _ = 2 ^ k * (2 : ℚ) ^ (E - k) := by
        rw [← zpow_natCast, ← zpow_add₀ two_ne_zero]
        congr 1
        omega
      _ ≤ M * (2 : ℚ) ^ (E - k) := mul_le_mul_of_nonneg_right h3 (by positivity)
  obtain ⟨hf, hv, -⟩ := hden.resF32_exact (md := md) true (fun _ => .inr habs) hwf hwv
  refine ⟨M, E, hElo, hE1, hf, hv, ?_, hM1, h1, h2⟩
  have h0 : f32Value (resF32 md true (truncRel k (.fin s n d))) ≠ 0 := fun h => by
    rw [hv] at h
    rw [h, abs_zero] at habs
    norm_num at habs
  rw [eq_of_f32Value (hv.trans hwv.symm) h0, hwbits]

end

/-- A bound on a number that is not below the least normal one. -/
theorem zpow_le_of_normal {v : ℚ} (h : v = 0 ∨ 1 / 2 ^ 126 ≤ |v|) (h0 : v ≠ 0) : (2 : ℚ) ^ (-126 : ℤ) ≤ |v| :=
  le_trans (by norm_num) (h.resolve_left h0)

section
variable {md : Modes} {a x : Word}

/-- K of the legacy generations, as the statement lists it. -/
theorem legacyK_roots (ht : md.trans ∈ [1, 2, 3]) :
    legacyK .rcp md.trans = [16, 20, 22].getD (md.trans - 1) 0 ∧
    legacyK .sqrt md.trans = [16, 21, 23].getD (md.trans - 1) 0 ∧
    legacyK .rcp md.trans ≤ 23 ∧ legacyK .sqrt md.trans ≤ 23 ∧ md.trans ≠ 0 := by
  simp only [List.mem_cons, List.not_mem_nil, or_false] at ht
  rcases ht with h | h | h <;> rw [h] <;> decide

/-- FRCP in a legacy generation is cut toward zero to K fraction bits. -/
theorem frcp_legacy (hx : srcF32 (transModes md) a = fmtF32.decode x.toNat) (ht : md.trans ∈ [1, 2, 3])
    (hf : f32Finite x) (h0 : f32Value x ≠ 0) (hnorm : (2 : ℚ) ^ (-126 : ℤ) ≤ |f32Value x|)
    (hv : |f32Value x| ≤ 2 ^ 126) :
    0 < f32Value (transc md .rcp a) * f32Value x ∧ f32Value (transc md .rcp a) * f32Value x ≤ 1 ∧
    1 - f32Value (transc md .rcp a) * f32Value x < 1 / 2 ^ legacyK .rcp md.trans ∧
    (transc md .rcp a).toNat % 2 ^ (23 - legacyK .rcp md.trans) = 0 := by
  obtain ⟨-, -, hk, -, ht0⟩ := legacyK_roots ht
  obtain ⟨n, d, hn, hd, hdec, hval⟩ := (f32_denotes hf).exists_pos h0
  have habs : |f32Value x| = (n : ℚ) / d := by
    rw [hval, abs_mul, abs_signOf, one_mul, abs_of_nonneg (by positivity)]
  have hy : (0 : ℚ) < (n : ℚ) / d := by positivity
  have hinv : (d : ℚ) / n * (n / d) = 1 := by
    field_simp
  have hres : transc md .rcp a =
      resF32 (transModes md) true (truncRel (legacyK .rcp md.trans) (.fin (x.getLsbD 31) d n)) := by
    rw [transc_none hx (by rw [hdec, tSpecial_rcp hn]), if_pos ht0, hdec]
    rfl
  set k := legacyK .rcp md.trans
  rw [habs] at hnorm hv
  obtain ⟨M, E, -, hE, -, hr, hbits, hM, h1, h2⟩ := resF32_truncRel (md := transModes md) hk (x.getLsbD 31) hd hn
    (by
      rw [← mul_le_mul_iff_left₀ hy, hinv]
      refine (mul_le_mul_of_nonneg_left hv (by positivity)).trans ?_
      norm_num)
    (by
      rw [← mul_lt_mul_iff_left₀ hy, hinv]
      refine lt_of_lt_of_le ?_ (mul_le_mul_of_nonneg_left hnorm (by positivity))
      norm_num)
  have hprod : f32Value (transc md .rcp a) * f32Value x = M * (2 : ℚ) ^ (E - k) * (n / d) := by
    rw [hres, hr, hval, mul_mul_mul_comm, signOf_mul_self, one_mul]
  have hM0 : (0 : ℚ) < M := by exact_mod_cast (Nat.two_pow_pos k).trans_le hM
  have hstep : (2 : ℚ) ^ (E - k) * (n / d) ≤ 1 / 2 ^ k := by
    have h3 := mul_le_mul_of_nonneg_right hE hy.le
    rw [hinv] at h3
    rw [zpow_sub₀ two_ne_zero, zpow_natCast, div_mul_eq_mul_div]
    exact div_le_div_of_nonneg_right h3 (by positivity)
  have h4 := mul_le_mul_of_nonneg_right h1 hy.le
  have h5 := mul_lt_mul_of_pos_right h2 hy
  rw [hinv] at h4 h5
  rw [hprod]
  refine ⟨by positivity, h4, ?_, hres ▸ hbits⟩
  linarith

/-- FSQRT in a legacy generation is cut toward zero to K fraction bits. -/
theorem fsqrt_legacy (hx : srcF32 (transModes md) a = fmtF32.decode x.toNat) (ht : md.trans ∈ [1, 2, 3])
    (hf : f32Finite x) (hv : 0 < f32Value x) (hnorm : (2 : ℚ) ^ (-126 : ℤ) ≤ |f32Value x|) :
    0 < f32Value (transc md .sqrt a) ∧ f32Value (transc md .sqrt a) ^ 2 ≤ f32Value x ∧
    f32Value x * (1 - 1 / 2 ^ legacyK .sqrt md.trans) ^ 2 < f32Value (transc md .sqrt a) ^ 2 ∧
    (transc md .sqrt a).toNat % 2 ^ (23 - legacyK .sqrt md.trans) = 0 := by
  obtain ⟨-, -, -, hk, ht0⟩ := legacyK_roots ht
  obtain ⟨n, d, hn, hd, hdec, hval⟩ := f32_positive hf hv
  obtain ⟨-, hsqrt, -⟩ := tSpecial_positive hn d
  rw [← hdec] at hsqrt
  obtain ⟨-, hhi⟩ := abs_f32Value_bounds hf hv.ne'
  rw [abs_of_pos hv] at hnorm hhi
  obtain ⟨hpos, j, hj, hroot⟩ := sqrtRat_rootLike n hd
  rw [← hval] at hroot
  have hres : transc md .sqrt a = resF32 (transModes md) true
      (truncRel (legacyK .sqrt md.trans) (.fin false (sqrtRat n d).1 (sqrtRat n d).2)) := by
    rw [transc_none hx hsqrt, if_pos ht0, hdec]
    rfl
  set k := legacyK .sqrt md.trans
  set y : ℚ := (sqrtRat n d).1 / (sqrtRat n d).2 with hy
  have hylo : (2 : ℚ) ^ (-126 : ℤ) ≤ y := by
    rw [hroot.le_iff (onDyadic_zpow (by omega))]
    refine le_trans ?_ hnorm
    norm_num
  have hyhi : y ≤ (2 : ℚ) ^ (64 : ℤ) := by
    rw [hroot.ge_iff (onDyadic_zpow (by omega))]
    refine hhi.le.trans ?_
    norm_num
  have hnum : 0 < (sqrtRat n d).1 := by
    refine Nat.pos_of_ne_zero fun h => ?_
    rw [hy, h, Nat.cast_zero, zero_div] at hylo
    exact absurd hylo (not_le.mpr (by positivity))
  obtain ⟨M, E, hE126, hE, -, hr, hbits, hM, h1, h2⟩ := resF32_truncRel (md := transModes md) hk false hnum hpos hylo
    (hyhi.trans_lt (by norm_num))
  have hM0 : (0 : ℚ) < M := by exact_mod_cast (Nat.two_pow_pos k).trans_le hM
  rw [signOf, if_neg Bool.false_ne_true, one_mul, ← hres] at hr
  rw [← hres] at hbits
  have hdyadic : ∀ i : ℕ, OnDyadic j (i * (2 : ℚ) ^ (E - k)) := fun i => onDyadic_mul_zpow i (by omega)
  have hle : (M * (2 : ℚ) ^ (E - k)) ^ 2 ≤ f32Value x := (hroot.le_iff (hdyadic M)).mp h1
  have hlt : f32Value x < ((M + 1) * (2 : ℚ) ^ (E - k)) ^ 2 := by
    have h3 := (hroot.le_iff (hdyadic (M + 1))).not.mp (not_le.mpr (by push_cast; exact h2))
    push_cast at h3
    exact not_le.mp h3
  refine ⟨by rw [hr]; positivity, by rw [hr]; exact hle, ?_, hbits⟩
  have hstep : (2 : ℚ) ^ (E - k) = 2 ^ E * (1 / 2 ^ k) := by
    rw [zpow_sub₀ two_ne_zero, zpow_natCast, mul_one_div]
  have hk1 : (1 : ℚ) / 2 ^ k ≤ 1 := by
    rw [div_le_one (by positivity)]
    exact one_le_pow₀ one_le_two
  have hk0 : (0 : ℚ) < 1 / 2 ^ k := by positivity
  set t := M * (2 : ℚ) ^ (E - k) with ht'
  have hT : (M + 1) * (2 : ℚ) ^ (E - k) = t + 2 ^ E * (1 / 2 ^ k) := by rw [add_mul, one_mul, ← ht', hstep]
  rw [hT] at hlt h2
  have hEt : (2 : ℚ) ^ E ≤ t + 2 ^ E * (1 / 2 ^ k) := hE.trans h2.le
  rw [hr]
  by_cases hk2 : (1 : ℚ) / 2 ^ k = 1
  · rw [hk2, sub_self, zero_pow two_ne_zero, mul_zero]
    positivity
  · have hk3 : 0 < 1 - (1 : ℚ) / 2 ^ k := sub_pos.mpr (lt_of_le_of_ne hk1 hk2)
    calc f32Value x * (1 - 1 / 2 ^ k) ^ 2 < (t + 2 ^ E * (1 / 2 ^ k)) ^ 2 * (1 - 1 / 2 ^ k) ^ 2 :=
          mul_lt_mul_of_pos_right hlt (by positivity)
      _ = ((t + 2 ^ E * (1 / 2 ^ k)) * (1 - 1 / 2 ^ k)) ^ 2 := (mul_pow _ _ 2).symm
      _ ≤ t ^ 2 := by
          refine pow_le_pow_left₀ (mul_nonneg (by positivity) hk3.le) ?_ 2
          have := mul_le_mul_of_nonneg_right hEt hk0.le
          linarith

end

/-! ## Powers of two, and logarithms of powers of two (R57-R59) -/

/-- 2 to a whole power; powers below -300 count as -300, which rounds as they do. -/
theorem exp2Val_whole {k : ℤ} {s : Bool} {n d : ℕ} (hd : 0 < d) (hk : signOf s * ((n : ℚ) / d) = k) (hn : 0 < n)
    (hhi : k ≤ 300) : (exp2Val s n d).Denotes ((2 : ℚ) ^ max k (-300)) false := by
  obtain ⟨q, hq⟩ : ∃ q : ℕ, n = q * d := by
    have habs : (n : ℚ) / d = (k.natAbs : ℕ) := by
      rw [Nat.cast_natAbs, Int.cast_abs, ← hk, abs_mul, abs_signOf, one_mul, abs_of_nonneg (by positivity)]
    exact ⟨k.natAbs, by rw [div_eq_iff (by positivity)] at habs; exact_mod_cast habs⟩
  subst hq
  have hqd : ((q * d : ℕ) : ℚ) / d = q := by
    push_cast
    rw [mul_div_cancel_right₀ _ (by positivity)]
  rw [hqd] at hk
  have hval : exp2Val s (q * d) d = if 300 < q then (if s then .fin false 1 (2 ^ 300) else .inf false)
      else if s then .fin false 1 (2 ^ q) else .fin false (2 ^ q) 1 := by
    simp only [exp2Val, Nat.mul_div_cancel _ hd, Nat.mul_mod_left, if_true]
  have hone : ∀ e : ℕ, (FVal.fin false 1 (2 ^ e)).Denotes ((2 : ℚ) ^ (-(e : ℤ))) false := fun e =>
    ⟨1, 2 ^ e, by positivity, rfl, by rw [signOf, zpow_neg, zpow_natCast]; simp⟩
  rw [hval]
  cases s
  · obtain rfl : k = q := by
      rw [signOf, if_neg Bool.false_ne_true, one_mul] at hk
      exact_mod_cast hk.symm
    rw [if_neg (by omega), if_neg Bool.false_ne_true, max_eq_left (by omega), zpow_natCast]
    exact ⟨2 ^ q, 1, one_pos, rfl, by simp [signOf]⟩
  · obtain rfl : k = -(q : ℤ) := by
      rw [signOf, if_pos rfl, neg_one_mul] at hk
      exact_mod_cast hk.symm
    simp only [if_true]
    split
    case isTrue h =>
      rw [max_eq_right (by omega)]
      exact hone 300
    case isFalse h =>
      rw [max_eq_left (by omega)]
      exact hone q

/-- Cutting a power of two leaves it. -/
theorem truncRel_pow (K : ℕ) {v : FVal} {k : ℤ} (h : v.Denotes ((2 : ℚ) ^ k) false) :
    (truncRel K v).Denotes ((2 : ℚ) ^ k) false := by
  obtain ⟨n, d, hn, hd, rfl, hval⟩ := h.exists_pos (by positivity)
  rw [signOf, if_neg Bool.false_ne_true, one_mul] at hval
  have hE : ilog2 n d = k := ilog2_eq hn hd hval.le (by
    rw [← hval]
    exact zpow_lt_zpow_right₀ one_lt_two (lt_add_one k))
  obtain ⟨M, hM1, -, hden, h1, -⟩ := truncRel_spec K false hn hd
  rw [signOf, if_neg Bool.false_ne_true, one_mul, hE] at hden
  rw [hE, ← hval] at h1
  have hsplit : (2 : ℚ) ^ k = 2 ^ K * 2 ^ (k - K) := by
    rw [← zpow_natCast, ← zpow_add₀ two_ne_zero]
    congr 1
    omega
  have hM : M = 2 ^ K := by
    rw [hsplit, mul_le_mul_iff_left₀ (by positivity)] at h1
    exact le_antisymm (by exact_mod_cast h1) hM1
  rw [hM, Nat.cast_pow, Nat.cast_ofNat, ← hsplit] at hden
  exact hden

/-- A power of two in the range of F32. -/
theorem exists_f32_pow {k : ℤ} (hlo : -149 ≤ k) (hhi : k ≤ 127) : ∃ w, f32Finite w ∧ f32Value w = (2 : ℚ) ^ k := by
  rcases lt_or_ge k (-126) with hk | hk
  · obtain ⟨s, hs⟩ := Int.eq_ofNat_of_zero_le (show 0 ≤ k + 149 by omega)
    obtain ⟨b, hb, hlt⟩ := exists_gridSteps (m := 23) s 1 (by norm_num)
    have hlt' : b < 0x7F800000 := hlt.trans_le ((Nat.mul_le_mul_right _ (by omega : s + 2 ≤ 25)).trans (by norm_num))
    refine ⟨f32Word false b, f32Finite_f32Word hlt', ?_⟩
    rw [f32Value_f32Word hlt', hb, show k = (s : ℤ) - (149 : ℕ) by omega, zpow_sub₀ two_ne_zero, zpow_natCast,
      zpow_natCast]
    simp [signOf]
  · obtain ⟨w, hw, hv, -⟩ := exists_f32_normal false (k := 0) (M := 1) (by omega) (by norm_num) (by norm_num) hk hhi
    exact ⟨w, hw, by rw [hv]; simp [signOf]⟩

/-- A positive number of at most half the least one is rounded to 0. -/
theorem f32Rounded_tiny {rz : Bool} {y : ℚ} (hy : 0 < y) (hle : y ≤ (2 : ℚ) ^ (-150 : ℤ)) {r : Word}
    (h : f32Rounded rz y r) : r = 0 := by
  have hhalf : (2 : ℚ) ^ (-149 : ℤ) = 2 * 2 ^ (-150 : ℤ) := by norm_num
  obtain ⟨hs, htrunc, -, hnear⟩ := h
  have hvpos : (0 : ℚ) < 2 ^ (-150 : ℤ) := by positivity
  have habs : |y| = y := abs_of_pos hy
  rw [decide_eq_false (not_lt.mpr hy.le)] at hs
  have hzero : f32Value r = 0 → r = 0 := fun h0 => by
    rw [f32Value_eq, fltValue_eq_zero_iff (by decide)] at h0
    refine eq_of_f32Num ?_ (hs.trans rfl)
    rw [f32Num, f32Num, hs, h0]
    rfl
  cases rz
  case true =>
    obtain ⟨hf, hr, -⟩ := htrunc rfl
    by_contra hne
    have h1 := (abs_f32Value_bounds hf fun h0 => hne (hzero h0)).1
    rw [habs] at hr
    linarith
  case false =>
    obtain ⟨hf, hbest⟩ := hnear rfl (by
      rw [habs]
      exact hle.trans_lt (by norm_num))
    have h0f : f32Finite 0 := by show _ ≠ _; decide
    have h0v : f32Value 0 = 0 := by
      rw [f32Value_eq]
      exact (fltValue_eq_zero_iff (by decide)).mpr rfl
    obtain ⟨hd, htie⟩ := hbest 0 h0f
    by_contra hne
    have hr0 : f32Value r ≠ 0 := fun h0 => hne (hzero h0)
    have h1 := (abs_f32Value_bounds hf hr0).1
    have hpos : f32Value r = |f32Value r| := by
      have := f32Value_eq_signOf_abs r
      rwa [hs, signOf, if_neg Bool.false_ne_true, one_mul] at this
    rw [h0v, zero_sub, abs_neg, habs, hpos, abs_of_nonneg (by linarith)] at hd htie
    have h2 : |f32Value r| - y = y := le_antisymm hd (by linarith)
    have h3 : f32Value r = f32Value 1 := by
      rw [f32Value_least, hpos]
      linarith
    rcases htie h2 with h4 | h4
    · exact hr0 (hpos.trans h4.symm)
    · rw [eq_of_f32Value h3 hr0] at h4
      exact absurd h4 (by decide)

section
variable {md : Modes} {a x : Word}

theorem legacyResult_ex2 (gen : ℕ) (v : FVal) :
    legacyResult .ex2 gen (legacyExact .ex2 v) = truncRel (legacyK .ex2 gen) (tExact .ex2 v) := rfl
theorem legacyResult_lg2 (gen : ℕ) (v : FVal) :
    legacyResult .lg2 gen (legacyExact .lg2 v) = truncAbs (legacyK .lg2 gen) (tExact .lg2 v) := rfl

/-- FEX2 of a whole number leaves a power of two to be rounded. -/
theorem fex2_whole (hx : srcF32 (transModes md) a = fmtF32.decode x.toNat) (hf : f32Finite x) {k : ℤ}
    (hv : f32Value x = k) (hk0 : k ≠ 0) (hk : k ≤ 127) : ∃ rz u, FVal.Denotes u ((2 : ℚ) ^ max k (-300)) false ∧
      transc md .ex2 a = resF32 (transModes md) rz u := by
  have h0 : f32Value x ≠ 0 := by
    rw [hv]
    exact_mod_cast hk0
  obtain ⟨n, d, hn, hd, hdec, hval⟩ := (f32_denotes hf).exists_pos h0
  have hnone : tSpecial .ex2 (fmtF32.decode x.toNat) = none := by
    rw [hdec]
    cases hs : x.getLsbD 31
    · rw [(tSpecial_positive hn d).2.2.2, if_neg]
      intro hle
      rw [hs, signOf, if_neg Bool.false_ne_true, one_mul, hv] at hval
      have h1 : (128 : ℚ) ≤ (n : ℚ) / d := by
        rw [le_div_iff₀ (by positivity)]
        exact_mod_cast hle
      rw [← hval] at h1
      norm_cast at h1
      omega
    · exact tSpecial_ex2_negative hn d
  have hden := exp2Val_whole hd (hval.symm.trans hv) hn (by omega)
  have hex : tExact .ex2 (fmtF32.decode x.toNat) = exp2Val (x.getLsbD 31) n d := by rw [hdec]; rfl
  rw [transc_none hx hnone, legacyResult_ex2, hex]
  split
  · exact ⟨true, _, truncRel_pow _ hden, rfl⟩
  · exact ⟨false, _, hden, rfl⟩

/-- FEX2 of a whole number is exact where its power is a number that DENORM leaves. -/
theorem fex2_exact (hx : srcF32 (transModes md) a = fmtF32.decode x.toNat) (hf : f32Finite x) {k : ℤ}
    (hv : f32Value x = k) (hk0 : k ≠ 0) (hlo : -149 ≤ k) (hhi : k ≤ 127)
    (hnorm : (transModes md).daz = true → -126 ≤ k) :
    f32Finite (transc md .ex2 a) ∧ f32Value (transc md .ex2 a) = (2 : ℚ) ^ k := by
  obtain ⟨rz, u, hden, hres⟩ := fex2_whole hx hf hv hk0 hhi
  rw [max_eq_left (by omega)] at hden
  obtain ⟨w, hw, hwv⟩ := exists_f32_pow hlo hhi
  have hpow : (transModes md).daz = true → 1 / 2 ^ 126 ≤ |(2 : ℚ) ^ k| := fun hd => by
    rw [abs_of_pos (by positivity)]
    calc (1 : ℚ) / 2 ^ 126 = (2 : ℚ) ^ (-126 : ℤ) := by norm_num
      _ ≤ (2 : ℚ) ^ k := zpow_le_zpow_right₀ one_le_two (hnorm hd)
  obtain ⟨h1, h2, -⟩ := hden.resF32_exact (md := transModes md) rz (fun hd => .inr (hpow hd)) hw hwv
  rw [hres]
  exact ⟨h1, h2⟩

/-- FEX2 of a whole number at most -150 is 0. -/
theorem fex2_underflow (hx : srcF32 (transModes md) a = fmtF32.decode x.toNat) (hf : f32Finite x) {k : ℤ}
    (hv : f32Value x = k) (hk : k ≤ -150) : transc md .ex2 a = 0 := by
  obtain ⟨rz, u, hden, hres⟩ := fex2_whole hx hf hv (by omega) (by omega)
  have hpos : (0 : ℚ) < 2 ^ max k (-300) := by positivity
  have hle : (2 : ℚ) ^ max k (-300) ≤ 2 ^ (-150 : ℤ) := zpow_le_zpow_right₀ one_le_two (by omega)
  have hword := f32Rounded_tiny hpos hle ((hden.wordF32 rz fun _ => rfl).2 hpos.ne')
  rw [hres]
  cases hd : (transModes md).daz
  · rw [resF32_keep hd, hword]
  · rw [resF32_daz hd, hword]
    rfl

/-! FLG2 -/

/-- The logarithm of a power of two. -/
theorem log2Val_pow {n d : ℕ} (hn : 0 < n) (hd : 0 < d) {k : ℤ} (h : (n : ℚ) / d = (2 : ℚ) ^ k) :
    log2Val n d = if k = 0 then .fin false 0 1 else fxVal (k * fxOne) := by
  have hE : ilog2 n d = k := ilog2_eq hn hd h.ge (by
    rw [h]
    exact zpow_lt_zpow_right₀ one_lt_two (lt_add_one k))
  have hfx : 0 < fxOne := Nat.two_pow_pos _
  have hx : (if 0 ≤ k then n * fxOne / (d * 2 ^ k.toNat) else n * 2 ^ (-k).toNat * fxOne / d) = fxOne := by
    rw [div_eq_iff (by positivity)] at h
    split
    case isTrue hk =>
      obtain ⟨j, rfl⟩ := Int.eq_ofNat_of_zero_le hk
      rw [zpow_natCast] at h
      have hnd : n = d * 2 ^ j := by
        rw [mul_comm]
        exact_mod_cast h
      rw [Int.toNat_natCast, ← hnd, Nat.mul_div_cancel_left _ hn]
    case isFalse hk =>
      obtain ⟨j, hj⟩ := Int.eq_ofNat_of_zero_le (show 0 ≤ -k by omega)
      rw [← neg_neg k, hj, zpow_neg, zpow_natCast, inv_mul_eq_div, eq_div_iff (by positivity)] at h
      have hnd : n * 2 ^ j = d := by exact_mod_cast h
      rw [hj, Int.toNat_natCast, hnd, Nat.mul_div_cancel_left _ hd]
  simp only [log2Val, hE, hx, if_true, add_zero]
  by_cases hk : k = 0
  · rw [if_pos hk, if_pos (by rw [hk, zero_mul])]
  · rw [if_neg hk, if_neg (mul_ne_zero hk (by exact_mod_cast hfx.ne'))]

/-- A whole number in fixed point. -/
theorem fxVal_whole (k : ℤ) : fxVal (k * fxOne) = .fin (k < 0) (k.natAbs * fxOne) fxOne := by
  have hfx : (0 : ℤ) < fxOne := by exact_mod_cast Nat.two_pow_pos fxBits
  have hneg : k * fxOne < 0 ↔ k < 0 :=
    ⟨fun h => not_le.mp fun hk => absurd h (not_lt.mpr (mul_nonneg hk hfx.le)), fun h => mul_neg_of_neg_of_pos h hfx⟩
  rw [fxVal, Int.natAbs_mul, Int.natAbs_natCast]
  simp only [hneg]

/-- A whole number as a ratio with its sign. -/
theorem denotes_natAbs (k : ℤ) {c : ℕ} (hc : 0 < c) : (FVal.fin (k < 0) (k.natAbs * c) c).Denotes k (k < 0) := by
  refine ⟨_, c, hc, rfl, ?_⟩
  have hk := eq_signOf_abs (k : ℚ)
  simp only [Int.cast_lt_zero] at hk
  rw [Nat.cast_mul, mul_div_cancel_right₀ _ (by positivity), Nat.cast_natAbs, Int.cast_abs]
  exact hk

theorem truncAbs_whole (K : ℕ) {k : ℤ} (hk : k ≠ 0) :
    truncAbs K (fxVal (k * fxOne)) = .fin (k < 0) (k.natAbs * 2 ^ K) (2 ^ K) := by
  have hfx : 0 < fxOne := Nat.two_pow_pos _
  have hne : k.natAbs * fxOne ≠ 0 := Nat.mul_ne_zero (Int.natAbs_ne_zero.mpr hk) hfx.ne'
  rw [fxVal_whole, truncAbs]
  simp only [if_neg hne]
  rw [mul_right_comm, Nat.mul_div_cancel _ hfx]

/-- FLG2 of a power of two leaves its exponent to be rounded. -/
theorem flg2_pow (hx : srcF32 (transModes md) a = fmtF32.decode x.toNat) (hf : f32Finite x) {k : ℤ}
    (hv : f32Value x = (2 : ℚ) ^ k) :
    ∃ rz u, FVal.Denotes u k (k < 0) ∧ transc md .lg2 a = resF32 (transModes md) rz u := by
  obtain ⟨n, d, hn, hd, hdec, hval⟩ := f32_positive hf (hv ▸ by positivity)
  have hnone := (tSpecial_positive hn d).2.2.1
  rw [← hdec] at hnone
  have hlog := log2Val_pow hn hd (hval.symm.trans hv)
  have hex : tExact .lg2 (fmtF32.decode x.toNat) = log2Val n d := by rw [hdec]; rfl
  rw [transc_none hx hnone, legacyResult_lg2, hex, hlog]
  by_cases hk : k = 0
  · subst hk
    have hz : (FVal.fin false 0 1).Denotes ((0 : ℤ) : ℚ) ((0 : ℤ) < 0) := ⟨0, 1, one_pos, rfl, by simp⟩
    rw [if_pos rfl]
    split
    exacts [⟨true, _, hz, rfl⟩, ⟨false, _, hz, rfl⟩]
  · rw [if_neg hk]
    split
    · exact ⟨true, _, denotes_natAbs k (c := 2 ^ legacyK .lg2 md.trans) (by positivity), by rw [truncAbs_whole _ hk]⟩
    · exact ⟨false, _, denotes_natAbs k (Nat.two_pow_pos fxBits), by rw [fxVal_whole]; rfl⟩

/-- FLG2 of a power of two is exact. -/
theorem flg2_exact (hx : srcF32 (transModes md) a = fmtF32.decode x.toNat) (hf : f32Finite x) {k : ℤ}
    (hv : f32Value x = (2 : ℚ) ^ k) : f32Finite (transc md .lg2 a) ∧ f32Value (transc md .lg2 a) = k := by
  obtain ⟨rz, u, hden, hres⟩ := flg2_pow hx hf hv
  have hpos : 0 < f32Value x := hv ▸ by positivity
  obtain ⟨hlo, hhi⟩ := abs_f32Value_bounds hf hpos.ne'
  rw [abs_of_pos hpos, hv] at hlo hhi
  rw [zpow_le_zpow_iff_right₀ one_lt_two] at hlo
  rw [zpow_lt_zpow_iff_right₀ one_lt_two] at hhi
  obtain ⟨w, hw, hwv⟩ := exists_f32_nat (k < 0) (n := k.natAbs) (by omega)
  have hwk : f32Value w = k := by
    rw [hwv, Nat.cast_natAbs, Int.cast_abs]
    have hk := eq_signOf_abs (k : ℚ)
    simp only [Int.cast_lt_zero] at hk
    exact hk.symm
  obtain ⟨h1, h2, -⟩ := hden.resF32_exact (md := transModes md) rz (fun _ => whole_not_denormal k) hw hwk
  rw [hres]
  exact ⟨h1, h2⟩

end

/-- DENORM 1 in the current generation: the result of the flushed source, flushed. -/
theorem transc_daz {md : Modes} {a x : Word} (hx : srcF32 (transModes md) a = fmtF32.decode x.toNat) (ht : md.trans = 0)
    (hdaz : md.daz = true) (g : TFun) : transc md g a = flush32 (transc { md with daz := false } g x) := by
  have hon : (transModes md).daz = true := by simp [transModes, hdaz]
  have hoff : (transModes { md with daz := false }).daz = false := by simp [transModes, ht]
  have hx' : srcF32 (transModes { md with daz := false }) x = fmtF32.decode x.toNat := srcF32_keep hoff x
  cases h : tSpecial g (fmtF32.decode x.toNat) with
  | some r => rw [transc_special hx h, transc_special hx' h, resF32_daz hon, resF32_keep hoff]
  | none =>
    rw [transc_none hx h, transc_none hx' h, if_neg (not_not.mpr ht), if_neg (not_not.mpr ht), resF32_daz hon,
      resF32_keep hoff]

/-- A word of magnitude 0 is the zero of its sign. -/
theorem exists_signWord {x : Word} (h : x.toNat % 2 ^ 31 = 0) : ∃ s, x = signWord s := by
  refine ⟨x.getLsbD 31, eq_of_f32Num ?_ (by cases x.getLsbD 31 <;> rfl)⟩
  rw [f32Num, f32Num, h]
  cases x.getLsbD 31 <;> rfl

theorem signPart_or_inf (s : Bool) : (signWord s &&& 0x80000000) ||| 0x7F800000 = signWord s + 0x7F800000 := by
  cases s <;> decide

theorem f32Value_one : f32Value 0x3F800000 = 1 := by
  rw [show (0x3F800000 : Word) = f32Word false 0x3F800000 from rfl, f32Value_f32Word (by decide)]
  norm_num [gridSteps, signOf]

theorem f32Finite_one : f32Finite 0x3F800000 := by show _ ≠ _; decide

/-- FLG2 of 1 is +0. -/
theorem flg2_one {md : Modes} {a : Word} (hx : srcF32 (transModes md) a = fmtF32.decode (0x3F800000 : Word).toNat) :
    transc md .lg2 a = 0 := by
  obtain ⟨rz, u, hden, hres⟩ := flg2_pow hx f32Finite_one (k := 0) (by rw [f32Value_one, zpow_zero])
  rw [Int.cast_zero] at hden
  rw [hres, hden.resF32_zero]
  rfl

theorem transcendentalValues : TranscendentalValues := by
  intro md a x v f canon one top sign
  have hx : srcF32 (transModes md) a = fmtF32.decode x.toNat := by
    rw [srcF32_eq]
    simp only [transModes_daz]
    rfl
  have hnorm : md.daz = true ∨ md.trans ≠ 0 → v = 0 ∨ 1 / 2 ^ 126 ≤ |v| := fun hm => flushed_not_denormal (by
    by_cases hexp : a.toNat / 2 ^ 23 % 2 ^ 8 = 0
    · have hsign : x = a &&& 0x80000000 := if_pos ⟨hm, hexp⟩
      exact .inl (by rw [hsign, mod_signPart])
    · have hkeep : x = a := if_neg fun h => hexp h.2
      exact .inr (by rwa [hkeep]))
  have hzero : x.toNat % 2 ^ 31 = 0 ↔ v = 0 := by
    simp only [v]
    rw [f32Value_eq, fltValue_eq_zero_iff (by decide)]
  have hrows : x.toNat % 2 ^ 31 = 0 → f .rcp = (sign ||| top) ∧ f .rsq = (sign ||| top) ∧ f .sqrt = x ∧ f .ex2 = one ∧
      f .lg2 = 0xFF800000 ∧ f .sin = x ∧ f .cos = one := fun h => by
    obtain ⟨s, hs⟩ := exists_signWord h
    rw [hs] at hx
    simp only [sign, hs]
    rw [signPart_or_inf]
    exact transc_zero s hx
  have hex2 : f32Finite x → ∀ n : ℤ, v = n → -149 ≤ n → n ≤ 127 → ((transModes md).daz = true → -126 ≤ n) →
      f32Finite (f .ex2) ∧ f32Value (f .ex2) = (2 : ℚ) ^ n := fun hf n hv hlo hhi hn => by
    by_cases h0 : n = 0
    · subst h0
      obtain ⟨-, -, -, h1, -⟩ := hrows (hzero.mpr (hv.trans Int.cast_zero))
      rw [h1, zpow_zero]
      exact ⟨f32Finite_one, f32Value_one⟩
    · exact fex2_exact hx hf hv h0 hlo hhi hn
  refine ⟨fun h g => ?_, hrows, fun h => transc_inf (h ▸ hx :), fun h => transc_neg_inf (h ▸ hx :),
    fun hf hv => transc_negative hx hf hv, fun hf hv => transc_ex2_overflow hx hf hv, fun h => flg2_one (h ▸ hx :),
    fun hf n => ⟨fun hv hlo hhi => hex2 hf n hv (by omega) hhi fun _ => hlo, flg2_exact hx hf,
      fun ht hd hv hlo hhi => ?_, fex2_underflow hx hf⟩,
    fun ht hd hf h0 => ⟨frcp_current hx ht hd hf h0, fun hv =>
      ⟨fsqrt_current hx ht hd hf hv, (frsq_current hx ht hd hf hv).reciprocal hv⟩⟩,
    fun ht hd g => transc_daz hx ht hd g, fun ht hf h0 => ?_⟩
  · exact (transc_special hx (by rw [f32_nan h, tSpecial_nan])).trans (resF32_nan false)
  · exact (hex2 hf n hv hlo hhi fun hm => absurd ((transModes_daz md).mp hm) (by simp [ht, hd])).2
  · obtain ⟨hrcp, hsqrt, -, -, ht0⟩ := legacyK_roots ht
    have hle := zpow_le_of_normal (hnorm (.inr ht0)) h0
    refine ⟨fun hv => ?_, fun hv => ?_⟩
    · have h := frcp_legacy hx ht hf h0 hle hv
      rw [hrcp] at h
      exact h
    · have h := fsqrt_legacy hx ht hf hv hle
      rw [hsqrt] at h
      exact h

/-- Settles O58: each function's exact value is found, and rounded on the grid of its format. -/
theorem floatValues : Obligations.FloatValues :=
  ⟨packedHalves, integralValues, transcendentalValues, conversionValues⟩

end Sys2Proof.Machine

namespace Sys2Proof.Claims

open Sys2Proof.Machine

/-! # Words of the ALU class that write a register -/

section

variable {s : State} {i : Issue} {sc : Scope} {d a b : BitVec 7} (p : Nat)

/-- A word with a constant result. -/
theorem writesReg_fn0 (hi : Setting s i) (hd : allowed sc d) (x : Word) :
    WritesReg s i sc p d.toNat (fun _ => x) (aluReg sc d p [] (fun _ _ _ => x) s) :=
  writesReg_aluReg s i sc p d [] (fun _ _ _ => x) hi hd (by simp)

/-- A word of one source. -/
theorem writesReg_fn1 (hi : Setting s i) (hd : allowed sc d) (ha : plain a) (f : Modes → Word → Word) :
    WritesReg s i sc p d.toNat (fun k => f (s.modes k) (s.reg k a.toNat)) (aluReg sc d p [a] (fn1 f) s) :=
  writesReg_aluReg s i sc p d [a] (fn1 f) hi hd (by simpa using ha)

/-- A word of two sources and D's old value. -/
theorem writesReg_fn3 (hi : Setting s i) (hd : allowed sc d) (ha : plain a) (hb : plain b)
    (f : Modes → Word → Word → Word → Word) :
    WritesReg s i sc p d.toNat (fun k => f (s.modes k) (s.reg k a.toNat) (s.reg k b.toNat) (s.reg k d.toNat))
      (aluReg sc d p [a, b] (fn3 f) s) :=
  writesReg_aluReg s i sc p d [a, b] (fn3 f) hi hd (by simp [ha, hb])

/-- A word of two sources. -/
theorem writesReg_fn2 (hi : Setting s i) (hd : allowed sc d) (ha : plain a) (hb : plain b)
    (f : Modes → Word → Word → Word) :
    WritesReg s i sc p d.toNat (fun k => f (s.modes k) (s.reg k a.toNat) (s.reg k b.toNat))
      (aluReg sc d p [a, b] (fn2 f) s) :=
  writesReg_aluReg s i sc p d [a, b] (fn2 f) hi hd (by simp [ha, hb])

/-- SEL takes A where its predicate is true in the thread, and B elsewhere (R66). -/
theorem writesReg_sel (hi : Setting s i) (hd : allowed sc d) (ha : plain a) (hb : plain b) (p : BitVec 3) :
    WritesReg s i sc 0 d.toNat (fun k => if s.pred k p.toNat then s.reg k a.toNat else s.reg k b.toNat)
      (exec (.sel sc d a b p) s) := by
  have hs : ∀ c ∈ [a.toNat, b.toNat], c < 124 := by simp [show a.toNat < 124 from ha, show b.toNat < 124 from hb]
  have he : exec (.sel sc d a b p) s = .next (s.eachOr i sc 0 0 fun s t =>
      ran (s.setReg t (s.destWarps i sc t) d.toNat (if s.pred t p.toNat then s.reg t a.toNat else s.reg t b.toNat))) := by
    refine (onIssue_some _ _ _ hi.1).trans (congrArg (fun k => Host.Outcome.next (s.eachOr i sc 0 0 k)) ?_)
    funext s t
    exact State.aluOne_plain s i sc d.toNat _ _ t hs
  rw [he]
  refine writesReg_eachOr (val := fun s t => if s.pred t p.toNat then s.reg t a.toNat else s.reg t b.toNat) 0 hi hd ?_
  intro s t k d x h
  simp only [Steady.pred p.toNat s t k d x h, State.reg_setVec_ne _ _ _ _ _ _ h]

end

/-! ## Integer values (R67, R68) -/

theorem imaxV_eq (x y : Word) : imaxV x y = if x.toInt ≤ y.toInt then y else x := by
  rcases lt_trichotomy x.toInt y.toInt with h | h | h
  · simp [imaxV, s32, h.le, h.not_ge]
  · simp [imaxV, BitVec.eq_of_toInt_eq h]
  · simp [imaxV, s32, h.le, h.not_ge]

theorem imaxUiV_eq (x y : Word) : imaxUiV x y = if x.toNat ≤ y.toNat then y else x := by
  rcases lt_trichotomy x.toNat y.toNat with h | h | h
  · simp [imaxUiV, u32, h.le, h.not_ge]
  · simp [imaxUiV, BitVec.eq_of_toNat_eq h]
  · simp [imaxUiV, u32, h.le, h.not_ge]

theorem iabsV_eq (x : Word) : iabsV x = if x.toInt < 0 then 0 - x else x := by
  rw [zero_sub]
  rfl

/-- Four signed byte products and D's old value, added modulo 2^32 (R67). -/
theorem idp4V_eq (x y z : Word) : idp4V x y z = BitVec.ofInt 32 (z.toInt
    + (BitVec.extractLsb' 0 8 x).toInt * (BitVec.extractLsb' 0 8 y).toInt
    + (BitVec.extractLsb' 8 8 x).toInt * (BitVec.extractLsb' 8 8 y).toInt
    + (BitVec.extractLsb' 16 8 x).toInt * (BitVec.extractLsb' 16 8 y).toInt
    + (BitVec.extractLsb' 24 8 x).toInt * (BitVec.extractLsb' 24 8 y).toInt) := by
  simp only [add_assoc]
  rw [BitVec.ofInt_add, BitVec.ofInt_toInt]
  simp [idp4V, w32, List.range_succ, add_assoc]

end Sys2Proof.Claims

namespace Sys2Proof.Machine

open Sys2Proof.Claims

/-- Settles O1. -/
theorem movesAndIntegerArithmetic : Obligations.MovesAndIntegerArithmetic := by
  intro s i sc d a b p imm imm10 lit hi hd ha hb A B D put putAll
  have unary := writesReg_fn1 p.toNat hi hd ha
  have binary := writesReg_fn2 p.toNat hi hd ha hb
  have ternary := writesReg_fn3 p.toNat hi hd ha hb
  exact ⟨unary fun _ x => x, writesReg_fn0 0 hi hd _, writesReg_fn0 _ hi hd lit, writesReg_sel hi hd ha hb p,
    binary fun _ x y => x + y, writesReg_fn1 0 hi hd ha fun _ x => x + simm10 imm10, binary fun _ x y => x - y,
    binary fun _ x y => x * y, binary fun _ => imulhV, binary fun _ => imulhUiV, ternary fun _ x y z => x * y + z,
    binary fun _ => iminV, binary fun _ => iminUiV, (binary fun _ => imaxV).congr_val fun _ => imaxV_eq ..,
    (binary fun _ => imaxUiV).congr_val fun _ => imaxUiV_eq .., (unary fun _ => iabsV).congr_val fun _ => iabsV_eq _,
    (ternary fun _ => idp4V).congr_val fun _ => idp4V_eq ..⟩

end Sys2Proof.Machine

namespace Sys2Proof.Claims

open Sys2Proof.Machine

/-! # Floating-point words, packed words and conversions -/

theorem floatWords : FloatWords := by
  intro s i sc d a b p hi hd ha hb A B D M put
  have unary := writesReg_fn1 p.toNat hi hd ha
  have binary := writesReg_fn2 p.toNat hi hd ha hb
  have functions := fun f => unary fun md x => transc md f x
  have integral := fun r => unary fun md x => fintegral md r x
  exact ⟨binary fadd, binary fsub, binary fmul, writesReg_fn3 p.toNat hi hd ha hb ffma,
    binary fun md => fminmax md false, binary fun md => fminmax md true,
    unary fun _ x => x &&& 0x7FFFFFFF, unary fun _ x => x ^^^ 0x80000000,
    functions .rcp, functions .rsq, functions .sqrt, functions .ex2, functions .lg2, functions .sin, functions .cos,
    integral 0, integral 1, integral 2, integral 3, unary ffract⟩

theorem packedAndConversions : PackedAndConversions := by
  intro s i sc d a b p hi hd ha hb A B D put
  have packed := fun f : Word → Word → Word → Word => writesReg_fn3 p.toNat hi hd ha hb fun _ => f
  exact ⟨packed (padd fmtF16), packed (pmul fmtF16), packed (pfma fmtF16), packed (padd fmtBF16), packed (pmul fmtBF16),
    packed (pfma fmtBF16)⟩

theorem cvtDt_eq (b : BitVec 7) : cvtDt b = b.toNat / 16 := by
  have := b.isLt
  simp only [cvtDt, BitVec.extractLsb'_toNat, Nat.shiftRight_eq_div_pow]
  omega

theorem cvtSt_eq (b : BitVec 7) : cvtSt b = b.toNat / 2 % 8 := by
  simp only [cvtSt, BitVec.extractLsb'_toNat, Nat.shiftRight_eq_div_pow, pow_one, Nat.reducePow]

theorem conversions : Conversions := by
  intro s i sc d a b p hi hd ha
  simp only [← cvtDt_eq, ← cvtSt_eq]
  refine ⟨fun hdt hst => ?value, fun k h7 hk => ?illegal⟩
  case value =>
    have he : exec (.cvt sc d a b p) s =
        aluReg sc d p.toNat [a] (fn1 fun md x => cvtValue md (cvtDt b) (cvtSt b) (b.getLsbD 0) x) s := if_neg (by tauto)
    rw [he]
    exact writesReg_fn1 p.toNat hi hd ha fun md x => cvtValue md (cvtDt b) (cvtSt b) (b.getLsbD 0) x
  case illegal =>
    have he : exec (.cvt sc d a b p) s =
        onIssue s fun i => s.eachOr i sc p.toNat 0 fun s _ => ranBad s (plainFault clsIllegalOp) := if_pos h7
    rw [he, onIssue_some _ _ _ hi.1]
    exact congrArg Host.Outcome.next (State.eachOr_one_fault hk rfl rfl)

end Sys2Proof.Claims

namespace Sys2Proof.Machine

/-- Settles O28. -/
theorem floatsAndConversions : Obligations.FloatsAndConversions :=
  ⟨Claims.floatWords, Claims.packedAndConversions, Claims.conversions⟩

end Sys2Proof.Machine

namespace Sys2Proof.Claims

open Sys2Proof.Machine

/-! # Shifts, bit fields and bit counts -/

/-! ## Shifts (R70, R71) -/

theorem shlV_eq (x : Word) (c : Nat) : shlV x c = x <<< c := by
  unfold shlV
  split
  · rfl
  · exact (BitVec.shiftLeft_eq_zero (by omega)).symm

theorem shrV_eq (x : Word) (c : Nat) : shrV x c = x >>> c := by
  unfold shrV
  split
  · rfl
  · exact (BitVec.ushiftRight_eq_zero (by omega)).symm

/-- A count of the full width or more leaves the sign in every bit (R70). -/
theorem sarV_eq (x : Word) (c : Nat) : sarV x c = x.sshiftRight c := by
  unfold sarV
  split
  · rfl
  · refine BitVec.eq_of_getLsbD_eq fun j hj => ?_
    have hc : ¬ c + j < 32 := by omega
    have hones : (0xFFFFFFFF : Word).getLsbD j = true := (BitVec.getLsbD_allOnes (v := 32)).trans (decide_eq_true hj)
    rw [BitVec.getLsbD_sshiftRight, if_neg hc, BitVec.msb_eq_getLsbD_last, decide_eq_false hj.not_ge]
    cases hx : x.getLsbD 31
    · simp
    · exact hones

/-- The count of a shift is the low byte of B (R70). -/
theorem shiftCount_eq (y : Word) : (y.extractLsb' 0 8).toNat = y.toNat % 256 := by simp

/-- The count of a rotation is the low 5 bits of B (R71). -/
theorem rotateCount_eq (y : Word) : (y.extractLsb' 0 5).toNat = y.toNat % 256 % 32 := by simp

theorem logicShiftsAndRotations : LogicShiftsAndRotations := by
  intro s i sc d a b p imm10 c hi hd ha hb A B n put putAll
  have binary := writesReg_fn2 p.toNat hi hd ha hb
  have immediate := writesReg_fn1 0 hi hd ha
  have shift := fun (v op : Word → Nat → Word) (e : ∀ x c, v x c = op x c) =>
    (binary fun _ x y => v x (y.extractLsb' 0 8).toNat).congr_val (w := fun k => op (A k) (n k)) fun k => by
      rw [e, shiftCount_eq]
  have shiftBy := fun (v op : Word → Nat → Word) (e : ∀ x c, v x c = op x c) =>
    (immediate fun _ x => v x c.toNat).congr_val (w := fun k => op (A k) c.toNat) fun k => e ..
  exact ⟨binary fun _ x y => x &&& y, immediate fun _ x => x &&& zimm10 imm10, binary fun _ x y => x ||| y,
    immediate fun _ x => x ||| zimm10 imm10, binary fun _ x y => x ^^^ y, immediate fun _ x => x ^^^ zimm10 imm10,
    shift _ _ shlV_eq, shift _ _ shrV_eq, shift _ _ sarV_eq, shiftBy _ _ shlV_eq, shiftBy _ _ shrV_eq, shiftBy _ _ sarV_eq,
    shiftBy _ _ fun _ _ => BitVec.rotateLeft_mod_eq_rotateLeft,
    (binary fun _ x y => rolV x (y.extractLsb' 0 5).toNat).congr_val fun k => by
      rw [rotateCount_eq, rolV, Nat.mod_mod]⟩

/-! ## Bit fields (R72) -/

theorem fieldPos_eq (y : Word) : fieldPos y = y.toNat % 32 := by simp [fieldPos]

theorem fieldWidth_eq (y : Word) : fieldWidth y = min (y.toNat / 256 % 64) (32 - y.toNat % 32) := by
  simp [fieldWidth, fieldPos_eq, Nat.shiftRight_eq_div_pow]

/-- Sext(x, n) is the signed value of the low n bits (R6). -/
theorem sextI_eq (x n : Nat) : sextI x n = (BitVec.ofNat n x).toInt := by
  simp only [sextI, BitVec.toInt, BitVec.toNat_ofNat]

/-- BFE's value is the field of A, extended with its sign or with zeros. -/
theorem bfeV_eq (x y : Word) : bfeV x y =
    if y.getLsbD 16 then (x.extractLsb' (fieldPos y) (fieldWidth y)).signExtend 32
    else (x.extractLsb' (fieldPos y) (fieldWidth y)).setWidth 32 := by
  have hf : x.toNat / 2 ^ fieldPos y % 2 ^ fieldWidth y = (x.extractLsb' (fieldPos y) (fieldWidth y)).toNat := by
    rw [BitVec.extractLsb'_toNat, Nat.shiftRight_eq_div_pow]
  simp only [bfeV, hf, sextI_eq, BitVec.ofNat_toNat, BitVec.setWidth_eq, w32, w32n, BitVec.signExtend]
  generalize x.extractLsb' (fieldPos y) (fieldWidth y) = field
  generalize fieldWidth y = w at field
  split
  · next h0 =>
    subst h0
    simp [BitVec.of_length_zero]
  · rfl

theorem bfeV_bit (x y : Word) {j : Nat} (hj : j < 32) : (bfeV x y).getLsbD j =
    if j < fieldWidth y then x.getLsbD (fieldPos y + j)
    else y.getLsbD 16 && decide (fieldWidth y ≠ 0) && x.getLsbD (fieldPos y + fieldWidth y - 1) := by
  rw [bfeV_eq]
  by_cases hsign : y.getLsbD 16 = true
  · rw [if_pos hsign, hsign, BitVec.getLsbD_signExtend, BitVec.msb_eq_getLsbD_last]
    simp only [hj, BitVec.getLsbD_extractLsb']
    by_cases hin : j < fieldWidth y
    · simp [hin]
    · by_cases h0 : fieldWidth y = 0
      · simp [h0]
      · have hlast : fieldPos y + (fieldWidth y - 1) = fieldPos y + fieldWidth y - 1 := by omega
        simp [hin, h0, hlast, Nat.pos_of_ne_zero h0]
  · rw [if_neg hsign, Bool.eq_false_of_not_eq_true hsign]
    simp [hj]

theorem bfiV_bit (x y z : Word) {j : Nat} (hj : j < 32) : (bfiV x y z).getLsbD j =
    if fieldPos y ≤ j ∧ j < fieldPos y + fieldWidth y then x.getLsbD (j - fieldPos y) else z.getLsbD j := by
  have hm : (w32n ((2 ^ fieldWidth y - 1) * 2 ^ fieldPos y)).getLsbD j =
      decide (fieldPos y ≤ j ∧ j < fieldPos y + fieldWidth y) := by
    rw [w32n, BitVec.getLsbD_ofNat, Nat.testBit_mul_two_pow, Nat.testBit_two_pow_sub_one, decide_eq_true hj, Bool.true_and,
      ← Bool.decide_and, decide_eq_decide]
    omega
  simp only [bfiV, BitVec.getLsbD_or, BitVec.getLsbD_and, BitVec.getLsbD_not, BitVec.getLsbD_shiftLeft, hm, hj]
  by_cases hin : fieldPos y ≤ j ∧ j < fieldPos y + fieldWidth y
  · simp [hin]
  · simp [hin]

/-! ## Bit counts (R73) -/

theorem popcV_toNat (x : Word) : (popcV x).toNat = ((List.range 32).filter x.getLsbD).length := by
  have h : ((List.range 32).filter x.getLsbD).length ≤ 32 := by
    simpa using List.length_filter_le x.getLsbD (List.range 32)
  exact Nat.mod_eq_of_lt (lt_of_le_of_lt h (by decide))

theorem brevV_bit (x : Word) {j : Nat} (hj : j < 32) : (brevV x).getLsbD j = x.getLsbD (31 - j) := by
  rw [brevV, BitVec.getLsbD_reverse, BitVec.getMsbD]
  simp [hj]

/-- CLZ of a word that is not 0: the place of its highest set bit. -/
theorem clzV_toNat {x : Word} (h : x ≠ 0) : (clzV x).toNat = 31 - Nat.log2 x.toNat := by
  rw [clzV, if_neg h]
  exact Nat.mod_eq_of_lt (by omega)

theorem clzV_spec (x : Word) : (clzV x).toNat ≤ 32 ∧ (∀ j, 32 - (clzV x).toNat ≤ j → x.getLsbD j = false) ∧
    ((clzV x).toNat < 32 → x.getLsbD (31 - (clzV x).toNat) = true) := by
  by_cases h : x = 0
  · subst h
    refine ⟨?_, ?_, ?_⟩ <;> simp [clzV]
  · have hx : x.toNat ≠ 0 := fun e => h (BitVec.eq_of_toNat_eq e)
    have hlog : Nat.log2 x.toNat < 32 := (Nat.log2_lt hx).mpr x.isLt
    rw [clzV_toNat h]
    refine ⟨by omega, fun j hj => ?_, fun _ => ?_⟩
    · exact Nat.testBit_lt_two_pow (lt_of_lt_of_le Nat.lt_log2_self (Nat.pow_le_pow_right (by decide) (by omega)))
    · rw [show 31 - (31 - Nat.log2 x.toNat) = Nat.log2 x.toNat by omega]
      exact Nat.testBit_log2 hx

theorem bitFieldsAndCounts : BitFieldsAndCounts := by
  intro s i sc d a b p hi hd ha hb A B D pos width put
  have unary := writesReg_fn1 p.toNat hi hd ha
  have hpos : ∀ k, pos k = fieldPos (B k) := fun k => (fieldPos_eq _).symm
  have hwidth : ∀ k, width k = fieldWidth (B k) := fun k => (fieldWidth_eq _).symm
  simp only [hpos, hwidth]
  exact ⟨⟨_, writesReg_fn2 p.toNat hi hd ha hb fun _ => bfeV, fun _ _ => bfeV_bit _ _⟩,
    ⟨_, writesReg_fn3 p.toNat hi hd ha hb fun _ => bfiV, fun _ _ => bfiV_bit _ _ _⟩,
    ⟨_, unary fun _ => popcV, fun _ => popcV_toNat _⟩, ⟨_, unary fun _ => clzV, fun _ => clzV_spec _⟩,
    ⟨_, unary fun _ => brevV, fun _ _ => brevV_bit _⟩⟩

end Sys2Proof.Claims

namespace Sys2Proof.Machine

/-- Settles O26. -/
theorem integerLogicAndFields : Obligations.IntegerLogicAndFields :=
  ⟨Claims.logicShiftsAndRotations, Claims.bitFieldsAndCounts⟩

end Sys2Proof.Machine

namespace Sys2Proof.Claims

open Sys2Proof.Machine

/-! # Words that change the threads they act on -/

/-- What a thread takes from a state rests on no other thread. -/
def Own {α : Type} (g : State → Nat → α) : Prop :=
  ∀ (s : State) th t, (s.withThreads th).thr t = s.thr t → g (s.withThreads th) t = g s t

theorem Own.reg (c : Nat) : Own fun s t => s.reg t c := fun s th t h => by
  simp only [State.reg, h]
  rfl

theorem Own.pred (n : Nat) : Own fun s t => s.pred t n := fun s th t h => by simp only [State.pred, h]

theorem Own.modes : Own fun s t => s.modes t := fun _ _ _ _ => rfl

/-- At lane scope each guarded lane decides for itself. -/
theorem decider_lane (s : State) (i : Issue) (p k : Nat) :
    decider s i .lane p k = if k ∈ i.group.filter (fun t => s.pred t p) then some k else none := by
  simp only [decider, List.mem_filter]

/-- At a wider scope the guarded representative decides for the live threads of the group. -/
theorem decider_wide (s : State) (i : Issue) (sc : Scope) (p k : Nat) (hsc : sc ≠ .lane) :
    decider s i sc p k = (s.rep i p).bind fun r => if k ∈ s.tied i sc r then some r else none := by
  have ht : ∀ r, s.tied i sc r = i.group.filter fun m => (s.thr m).live := fun r => by
    cases sc
    · exact absurd rfl hsc
    all_goals rfl
  have hd : decider s i sc p k = match i.group with
      | [] => none
      | r :: _ => if k ∈ i.group ∧ s.pred r p = true ∧ (s.thr k).live = true then some r else none := by
    cases sc
    · exact absurd rfl hsc
    all_goals rfl
  rw [hd]
  simp only [ht]
  cases hg : i.group with
  | nil => rw [State.rep_nil _ _ _ hg]; rfl
  | cons r g =>
    rw [State.rep_cons _ _ _ _ _ hg]
    by_cases hp : s.pred r p = true <;> simp [hp]

theorem tied_nodup (s : State) {i : Issue} (sc : Scope) (t : Nat) (hn : i.group.Nodup) : (s.tied i sc t).Nodup := by
  cases sc
  · exact List.nodup_singleton t
  all_goals exact hn.filter _

/-- A word each of whose actors changes the threads tied to it by what it reads itself, and nothing else. -/
theorem changesThreads_eachOr {s : State} {i : Issue} {sc : Scope} {k : State → Nat → State}
    {g : State → Nat → Thread → Thread} (p : Nat) (hi : Setting s i) (hg : Own g)
    (hk : ∀ (u : State) t, u.Became (fun _ => g u t) (u.tied i sc t) (k u t)) :
    ChangesThreads s i sc p (g s) (.next (s.eachOr i sc p 0 fun u t => ran (k u t))) := by
  by_cases hsc : sc = .lane
  · subst hsc
    have hrun := State.runAll_became (s := s) (g := g s) (k := fun u t => ran (k u t)) (hi.2.filter fun t => s.pred t p)
      fun t _ us u h ht => by
        refine ⟨_, rfl, (hk u t).rest, fun m => ?_⟩
        have hu : u = s.withThreads u.threads := h.rest
        have hgt : g u t = g s t := by
          rw [hu]
          exact hg s _ t (hu ▸ h.untouched ht)
        rw [(hk u t).thr m, hgt]
        by_cases hm : m = t
        · subst hm; rfl
        · simp only [State.tied, List.mem_singleton, hm, if_false]
    obtain ⟨v, hv, hb⟩ := hrun
    have he : s.eachOr i .lane p 0 (fun u t => ran (k u t)) = v := by
      simp only [State.eachOr, State.actors_lane, hv, State.raiseMany_nil]
    rw [he]
    refine ⟨v, rfl, hb.rest, fun m => ?_⟩
    rw [hb.thr m, decider_lane]
    split <;> rfl
  · rw [State.eachOr_ran, State.actors_wide _ _ _ _ hsc]
    refine ⟨_, rfl, ?rest, fun m => ?thr⟩
    case rest =>
      cases s.rep i p with
      | none => rfl
      | some r => exact (hk s r).rest
    case thr =>
      rw [decider_wide _ _ _ _ _ hsc]
      cases s.rep i p with
      | none => rfl
      | some r =>
        refine ((hk s r).thr m).trans ?_
        simp only [Option.bind_some]
        split <;> rfl

/-- A thread with a predicate written: p0 discards (R9). -/
def predPut (pd : Nat) (x : Bool) (th : Thread) : Thread := if pd = 0 then th else { th with p := setBit8 th.p pd x }

theorem became_setPreds {s : State} {ts : List Nat} (pd : Nat) (x : Bool) :
    s.Became (fun _ => predPut pd x) ts (s.setPreds ts pd x) := by
  refine ⟨State.setPreds_eq .., fun k => ?_⟩
  rw [State.setPreds_thr]
  by_cases hpd : pd = 0 <;> simp [predPut, hpd]

/-- A word each of whose actors writes a predicate in the threads tied to it. -/
theorem writesPred_eachOr {s : State} {i : Issue} {sc : Scope} {val : State → Nat → Bool} (p pd : Nat) (hi : Setting s i)
    (hv : Own val) :
    WritesPred s i sc p pd (val s) (.next (s.eachOr i sc p 0 fun s t =>
      ran (s.setPreds (s.predDest i sc t) pd (val s t)))) :=
  changesThreads_eachOr (g := fun s t => predPut pd (val s t)) p hi (fun s th t h => congrArg _ (hv s th t h))
    fun u t => became_setPreds pd (val u t)

/-- The values of a predicate word may be given by any equal function. -/
theorem WritesPred.congr_val {s : State} {i : Issue} {sc : Scope} {p pd : Nat} {v w : Nat → Bool} {o : Out}
    (h : WritesPred s i sc p pd v o) (e : ∀ k, v k = w k) : WritesPred s i sc p pd w o := by
  rwa [show v = w from funext e] at h

/-- A comparison of plain sources writes its result (R64, R74). -/
theorem writesPred_cmpReg {s : State} {i : Issue} {sc : Scope} (p : Nat) (pd : BitVec 3) (srcs : List (BitVec 7))
    (f : Modes → List Word → Bool) (hi : Setting s i) (hs : ∀ c ∈ srcs, plain c) :
    WritesPred s i sc p pd.toNat (fun k => f (s.modes k) ((srcs.map BitVec.toNat).map (s.reg k)))
      (cmpReg sc pd p srcs f s) := by
  have he : cmpReg sc pd p srcs f s = .next (s.eachOr i sc p 0 fun s t => ran (s.setPreds (s.predDest i sc t) pd.toNat
      (f (s.modes t) ((srcs.map BitVec.toNat).map (s.reg t))))) := by
    refine (onIssue_some _ _ _ hi.1).trans (congrArg (fun k => Host.Outcome.next (s.eachOr i sc p 0 k)) ?_)
    funext s t
    have hs' : ∀ c ∈ srcs.map BitVec.toNat, c < 124 := List.forall_mem_map.mpr hs
    simp only [State.cmpOne, State.sources_plain s i t _ hs']
  rw [he]
  refine writesPred_eachOr (val := fun s t => f (s.modes t) ((srcs.map BitVec.toNat).map (s.reg t))) p pd.toNat hi ?_
  intro s th t h
  have hregs : (s.withThreads th).reg t = s.reg t := funext fun c => Own.reg c s th t h
  simp only [hregs, Own.modes s th t h]

/-! ## Relations of integers (R74) and values of predicates (R77) -/

/-- The relation of a comparison's code. -/
def relation (c : BitVec 3) (x y : Int) : Bool :=
  if c = 0 then x = y else if c = 1 then x ≠ y else if c = 2 then x < y else if c = 3 then x ≤ y
  else if c = 4 then x > y else x ≥ y

theorem icmp_eq (c : BitVec 3) (uns : Bool) (x y : Word) : icmp c.toNat uns x y =
    relation c (if uns then x.toNat else x.toInt) (if uns then y.toNat else y.toInt) := by
  have hc : ∀ c : BitVec 3, c = 0 ∨ c = 1 ∨ c = 2 ∨ c = 3 ∨ c = 4 ∨ c = 5 ∨ c = 6 ∨ c = 7 := by decide
  rcases hc c with rfl | rfl | rfl | rfl | rfl | rfl | rfl | rfl <;> rfl

/-- A comparison is unsigned where UNS is 1 (R74). -/
theorem icmp_uns (c : BitVec 3) (u : BitVec 1) (x y : Word) : icmp c.toNat (u == 1) x y =
    if u = 1 then relation c x.toNat y.toNat else relation c x.toInt y.toInt := by
  rw [icmp_eq]
  by_cases hu : u = 1
  · simp [hu]
  · simp only [hu, if_false, beq_eq_false_iff_ne.mpr hu, Bool.false_eq_true]

/-- ISETPI's immediate is extended as the comparison reads it (R29). -/
theorem icmp_imm7 (c : BitVec 3) (u : BitVec 1) (x : Word) (imm : BitVec 7) : icmp c.toNat (u == 1) x (imm7 u imm) =
    if u = 1 then relation c x.toNat imm.toNat else relation c x.toInt imm.toInt := by
  rw [icmp_uns]
  by_cases hu : u = 1
  · have h : (imm.setWidth 32).toNat = imm.toNat := BitVec.toNat_setWidth_of_le (by decide)
    simp only [hu, if_true, imm7, h]
  · have h : (imm.signExtend 32).toInt = imm.toInt := BitVec.toInt_signExtend_of_le (by decide)
    simp only [hu, if_false, imm7, h]

/-- PLOP's operation by its code (R76). -/
theorem plopOp_eq (c : BitVec 3) (x y : Bool) :
    plopOp c.toNat x y = if c = 0 then x && y else if c = 1 then x || y else x != y := by
  revert c x y
  decide

theorem comparisonsAndPredicateLogic : ComparisonsAndPredicateLogic := by
  intro s i sc c pd p pa pb u na nb a b imm hi ha hb A B put rel
  have two := fun f => writesPred_cmpReg (sc := sc) p.toNat pd [a, b] f hi (by simp [ha, hb])
  have one := fun f => writesPred_cmpReg (sc := sc) p.toNat pd [a] f hi (by simp [ha])
  refine ⟨?isetp, ?isetpi, two (cmp2 fun md => fcmp md c.toNat), ?plop⟩
  case isetp => exact (two (cmp2 fun _ => icmp c.toNat (u == 1))).congr_val fun k => icmp_uns ..
  case isetpi => exact (one (cmp1 fun _ x => icmp c.toNat (u == 1) x (imm7 u imm))).congr_val fun k => icmp_imm7 ..
  case plop =>
    have hown : Own fun s k => plopOp c.toNat (s.predOperand k na pa) (s.predOperand k nb pb) := fun s th k h => by
      simp only [State.predOperand, Own.pred _ s th k h]
    rw [show exec (.plop sc c pd na pa nb pb p) s = _ from onIssue_some _ _ _ hi.1]
    exact (writesPred_eachOr p.toNat pd.toNat hi hown).congr_val fun k => plopOp_eq ..

/-! ## Predicate moves (R77) -/

/-- A thread with its predicates written from a word's bits. -/
def predsPut (x : Word) (th : Thread) : Thread := { th with p := x.extractLsb' 0 8 }

/-- PMOV.GET's word, bit by bit. -/
theorem predWord_eq (s : State) (k : Nat) : predWord (s.thr k).p =
    BitVec.ofNat 32 ((List.range 8).foldl (fun n j => n + if s.pred k j then 2 ^ j else 0) 0) := by
  have h : ∀ x : BitVec 8, predWord x =
      BitVec.ofNat 32 ((List.range 8).foldl (fun n j => n + if j = 0 || x.getLsbD j then 2 ^ j else 0) 0) := by decide
  exact h _

theorem predicateMoves : PredicateMoves := by
  intro s i sc d a p hi ha
  refine ⟨fun hd => ?get, ?put⟩
  case get =>
    rw [show exec (.pmovGet sc d p) s = _ from onIssue_some _ _ _ hi.1]
    have hv : Steady fun s t => predWord (s.thr t).p := fun s t k d x h => congrArg predWord (Steady.preds s t k d x h)
    exact (writesReg_eachOr p.toNat hi hd hv).congr_val fun k => predWord_eq s k
  case put =>
    have hown : Own fun s t => predsPut (s.reg t a.toNat) := fun s th t h => congrArg predsPut (Own.reg a.toNat s th t h)
    have he : exec (.pmovPut sc a p) s =
        .next (s.eachOr i sc p.toNat 0 fun s t => ran (s.modThrs (s.predDest i sc t) (predsPut (s.reg t a.toNat)))) := by
      refine (onIssue_some _ _ _ hi.1).trans (congrArg (fun k => Host.Outcome.next (s.eachOr i sc p.toNat 0 k)) ?_)
      funext s t
      simp only [State.pmovPut, State.source_plain s i t _ ha]
      rfl
    obtain ⟨t, ht, hrest, hthr⟩ := changesThreads_eachOr p.toNat hi hown fun u t =>
      ⟨State.modThrs_eq .., State.modThrs_thr _ _ _ (tied_nodup u sc t hi.2)⟩
    refine ⟨t, he.trans ht, hrest, fun k => ?_⟩
    have hk := hthr k
    revert hk
    cases decider s i sc p.toNat k with
    | none => exact id
    | some r =>
      intro hk
      refine ⟨by rw [hk]; rfl, fun n hn => ?_⟩
      simp [State.pred, hk, predsPut, hn]

end Sys2Proof.Claims

namespace Sys2Proof.Machine

/-- Settles O27. -/
theorem comparisonsAndPredicates : Obligations.ComparisonsAndPredicates :=
  ⟨Claims.comparisonsAndPredicateLogic, Claims.predicateMoves⟩

end Sys2Proof.Machine

namespace Sys2Proof.Machine

/-! # Branches through a table -/

/-- A thread that the read of a table's entry holds at a word (R88). -/
def Thread.readsEntry (i : Issue) (h : HeldRead) (th : Thread) : Thread :=
  { th with stop := some (i.here 0), npc := some i.hdr, brx := some h, popped := none }

section

variable {s s' : State} {i : Issue} {d a b t : Nat}

/-- The index of a BRX whose source is no queue port (R88). -/
theorem State.brxIndex_plain (hb : b < 124) :
    s.brxIndex i t b = (.ok ((s.thr t).popped.getD (s.reg t b)), s) := by
  unfold State.brxIndex
  cases (s.thr t).popped with
  | none => exact State.source_plain s i t b hb
  | some x => rfl

variable (hb : b < 124)

include hb

/-- An index at or above the bound falls through. -/
theorem State.brxOne_past (hle : (s.reg t d).toNat ≤ ((s.thr t).popped.getD (s.reg t b)).toNat) :
    s.brxOne i d a b t = ran (s.modThr t fun th => { th with popped := none }) := by
  simp only [State.brxOne, State.brxIndex_plain hb, hle, if_true]

variable (hlt : ((s.thr t).popped.getD (s.reg t b)).toNat < (s.reg t d).toNat) {e : Dword}
  (he : s.pairReg t a + d64 (8 * ((s.thr t).popped.getD (s.reg t b)).toNat) = e)

include hlt he

theorem State.brxOne_misaligned (hal : e.toNat % 8 ≠ 0) :
    s.brxOne i d a b t = ranBad s { plainFault clsAlign with va := e } := by
  simp only [State.brxOne, State.brxIndex_plain hb, Nat.not_le.mpr hlt, he, hal, if_false, if_true, ne_eq, not_false_eq_true]

/-- Within the bound the read of the entry starts, and holds the thread at the word. -/
theorem State.brxOne_reads {x : Nat × Nat} (hal : e.toNat % 8 = 0) (htr : s.translate t e 8 .read false = (.ok x, s')) :
    s.brxOne i d a b t = ran (s'.modThr t (Thread.readsEntry i { va := e, region := s'.regionObj t e.toNat })) := by
  simp only [State.brxOne, State.brxIndex_plain hb, Nat.not_le.mpr hlt, he, hal, htr, hb, if_false, if_true, ne_eq,
    not_true_eq_false]
  rfl

end

/-! ## The arrival of a read that holds its thread -/

/-- A read of a unit that no write in the log touches gives the bytes as they stand (R199). -/
theorem State.readUnit_untouched {s : State} {t fl a n issued : Nat} (h : (s.wlog.all fun e => !e.touches a n) = true) :
    s.readUnit t fl a n issued = (s.bytesAt a n, s) := if_pos h

/-- A read of stack or CXL memory goes by the coherence order. -/
theorem State.readPhys_memory {s : State} {t q reg pa n issued : Nat} (h : targetOf pa = .stack ∨ targetOf pa = .cxl) :
    s.readPhys t q reg pa n issued = s.readData t (s.floorsOf t q reg pa n) pa n issued := by
  unfold State.readPhys State.readFrom
  rcases h with h | h <;> rw [h]

/-- With no load of the thread in flight for the units, none takes its value first (R199). -/
theorem State.readsBefore_none {s : State} {id t a n : Nat} (h : ∀ e ∈ s.ops, e.2.thr = t → e.2.readsUnit a n = false) :
    s.readsBefore id t a n = s := by
  have hf : (s.ops.filter fun e => e.1 < id && e.2.thr = t && e.2.readsUnit a n) = [] := by
    refine List.filter_eq_nil_iff.mpr fun e he => ?_
    by_cases ht : e.2.thr = t
    · simp [h e he ht]
    · simp [ht]
  simp only [State.readsBefore, hf, List.foldl_nil]

/-- A held read that is translated, of memory that no load of its thread reads first, goes on with what it reads. -/
theorem State.heldRead_memory {s s' : State} {t n pa mt : Nat} {h : HeldRead} {k : State → List Byte → State}
    {bs : List Byte} (htr : s.translate t h.va n .read (n = 16) = (.ok (pa, mt), s'))
    (hops : ∀ e ∈ s.ops, e.2.thr = t → e.2.readsUnit pa n = false) (hpa : targetOf pa = .stack ∨ targetOf pa = .cxl)
    (hread : ∀ fls issued, s'.readData t fls pa n issued = (bs, s')) : s.heldRead t h n k = k s' bs := by
  have hl : s.Looked s' := (s.looked_translate ..).of htr
  have hops' : ∀ e ∈ s'.ops, e.2.thr = t → e.2.readsUnit pa n = false := by
    rw [show s'.ops = s.ops by rw [hl]]
    exact hops
  simp only [State.heldRead, htr, State.readsBefore_none hops', State.readPhys_memory hpa, hread]

/-- Threads that are alike but for the join registers that hold them. -/
theorem Thread.eq_of_unjoined {x y : Thread} (h : x.unjoined = y.unjoined) : x = { y with jwait := x.jwait } := by
  cases x
  cases y
  simp only [Thread.unjoined, Thread.mk.injEq] at h ⊢
  tauto

/-- A thread that goes on at a target, held by no read. -/
def Thread.landed (x : Dword) (th : Thread) : Thread :=
  { th with pc := x.setWidth 48, stop := none, brx := none, refill := none, popped := none, again := false }

/-- A thread whose spill record has come back (R16, R164). -/
def Thread.returned (h : HeldRead) (th : Thread) : Thread :=
  { th with sp := h.va.setWidth 48 + 16, spilled := th.spilled - 1, depth := th.depth - 1 }

/-- A thread whose held word has a good target goes on there; a release test may free it further (R88, R164). -/
theorem State.thr_landHeld {s : State} {t : Nat} {x : Dword} {done : Thread → Thread} (hb : s.badTarget t x = false) :
    (s.landHeld t x done).thr t =
      { (done (s.thr t)).landed x with jwait := ((s.landHeld t x done).thr t).jwait } := by
  have hland : s.landHeld t x done = (s.modThr t fun th => (done th).landed x).joinTests [t] := by
    simp only [State.landHeld, hb, Bool.false_eq_true, if_false]
    rfl
  have h := Thread.eq_of_unjoined ((State.alike_joinTests (s.modThr t fun th => (done th).landed x) [t]).thr t)
  rwa [← hland, State.thr_modThr_same] at h

theorem State.mayArrive_iff (s : State) (t : Nat) : s.mayArrive t = true ↔ (s.thr t).live = true ∧ (s.thr t).susp = false ∧
    s.away t = false ∧ ∀ a ∈ s.waitsOf t, a.acc.writes = false := by
  simp [State.mayArrive, and_assoc]

/-- Settles O6. -/
theorem tableBranchesAndRefillsArrive : Obligations.TableBranchesAndRefillsArrive := by
  refine ⟨?branch, ?entry, ?refill, State.mayArrive_iff⟩
  case branch =>
    intro s i sc d a b p t hi hb ha bound idx e
    have one : exec (.brx sc d a b p) s = _ := onIssue_some _ _ _ hi.1
    refine ⟨fun hle => ?_, fun hlt hal => ?_, fun x s' hlt hal htr => ?_⟩
    · exact one.trans (congrArg Host.Outcome.next (State.eachOr_one_ran ha (State.brxOne_past hb hle)))
    · exact one.trans (congrArg Host.Outcome.next (State.eachOr_one_fault ha (State.brxOne_misaligned hb hlt rfl hal) rfl))
    · exact one.trans (congrArg Host.Outcome.next (State.eachOr_one_ran ha (State.brxOne_reads hb hlt rfl hal htr)))
  case entry =>
    intro s t h pa mt s' hh hm htr hops hpa hlog x hb
    have hl : s.Looked s' := (s.looked_translate ..).of htr
    have hread : ∀ fls issued, s'.readData t fls pa 8 issued = (s.bytesAt pa 8, s') := fun fls issued => by
      rw [← State.bytesAt_congr hl.byteAt]
      exact State.readUnit_untouched (by rw [hl]; exact hlog)
    have he : exec (.brxEntryArrival t) s = .next (s'.landHeld t x id) := by
      refine congrArg Host.Outcome.next ?_
      simp only [hh, hm, if_true]
      exact State.heldRead_memory htr hops hpa hread
    have hthr := State.thr_landHeld (done := id) hb
    rw [hl.thr] at hthr
    exact ⟨_, he, by simpa only [Thread.landed, id] using hthr⟩
  case refill =>
    intro s t h pa mt s' hh hm htr hops hpa hlog x hb
    have hl : s.Looked s' := (s.looked_translate ..).of htr
    have hread : ∀ fls issued, s'.readData t fls pa 16 issued = (s.bytesAt pa 8 ++ s.bytesAt (pa + 8) 8, s') :=
      fun fls issued => by
        have hlog' : (s'.wlog.all fun w => !w.touches pa 8 && !w.touches (pa + 8) 8) = true := by
          rw [hl]
          exact hlog
        simp only [List.all_eq_true, Bool.and_eq_true] at hlog'
        have hlow : (s'.wlog.all fun e => !e.touches pa 8) = true := List.all_eq_true.mpr fun e he => (hlog' e he).1
        have hhigh : (s'.wlog.all fun e => !e.touches (pa + 8) (16 - 8)) = true := List.all_eq_true.mpr fun e he => (hlog' e he).2
        have h16 : ¬ 16 ≤ 8 := by decide
        simp only [State.readData, h16, if_false, State.readUnit_untouched hlow, State.readUnit_untouched hhigh,
          State.bytesAt_congr hl.byteAt]
    have he : exec (.refillArrival t) s = .next (s'.landHeld t x (Thread.returned h)) := by
      refine congrArg Host.Outcome.next ?_
      simp only [hh, hm, if_true]
      refine (State.heldRead_memory htr hops hpa hread).trans ?_
      rw [List.take_left' (State.bytesAt_length ..)]
      rfl
    have hthr := State.thr_landHeld (done := Thread.returned h) hb
    rw [hl.thr] at hthr
    exact ⟨_, he, by simpa only [Thread.landed, Thread.returned] using hthr⟩

end Sys2Proof.Machine

namespace Sys2Proof.Machine

/-! # A memory word that acts for one thread -/

section

variable {s : State} {i : Issue} {sc : Scope} {p t : Nat} {ll : Bool} {prep : State → Issue → Nat → Prepared × State}

/-- A memory word whose one actor prepares an access: it issues, and what faults it at once is raised (R181). -/
theorem memWord_one {x : Acc} (hi : s.issue = some i) (ha : s.actors i sc p = [t]) (hp : prep s i t = (.ok x, s)) :
    memWord sc p ll prep s = .next ((s.memIssue [(t, s.mkAccess i sc t ll x)]).1.raiseMany i sc 0
      (s.memIssue [(t, s.mkAccess i sc t ll x)]).2.length
      ((s.memIssue [(t, s.mkAccess i sc t ll x)]).2.map fun x => (x.1, (x.2, (0 : Dword))))) := by
  refine (onIssue_some _ _ _ hi).trans (congrArg Host.Outcome.next ?_)
  simp only [ha, State.prepAll, hp, List.filterMap_cons, List.filterMap_nil, List.nil_append, List.length_map]

/-- No access, nothing issues. -/
theorem State.memIssue_nil (s : State) : s.memIssue [] = (s, []) := by
  simp [State.memIssue, State.memGo, State.translateLanes, State.parkLanes, State.applyLanes, isRedFadd, orderly, sortBy]

/-- A memory word whose one actor meets a fault in its operands, which leave the state as it is: the thread, or the group
at a wider scope, takes it before any translation (R219). -/
theorem memWord_one_fault {f : MemFault} (hi : s.issue = some i) (ha : s.actors i sc p = [t])
    (hp : prep s i t = (.error f, s)) :
    memWord sc p ll prep s = .next (s.raise (if sc = .lane then [t] else i.group) i.faultAt f
      (some { i.here 0 with parks := f.parks })) := by
  refine (onIssue_some _ _ _ hi).trans (congrArg Host.Outcome.next ?_)
  simp only [ha, State.prepAll, hp, if_true, List.filterMap_cons, List.filterMap_nil, State.memIssue_nil, List.map_nil,
    List.append_nil]
  exact State.raiseMany_one

end

/-! ## Misaligned addresses (R82, R221) -/

section

variable {s : State} {i : Issue} {d a b off : BitVec 7} {t size : Nat}

theorem prepLoad_misaligned (sgn : Bool) (h : (globalEA (s.pairReg t a.toNat) off size).toNat % size ≠ 0) :
    prepLoad size sgn d a off s i t = (.error (alignFault (globalEA (s.pairReg t a.toNat) off size)), s) := if_pos h

theorem prepStore_misaligned (h : (globalEA (s.pairReg t a.toNat) off size).toNat % size ≠ 0) :
    prepStore size d a off s i t = (.error (alignFault (globalEA (s.pairReg t a.toNat) off size)), s) := if_pos h

theorem prepCas_misaligned (h : (s.pairReg t a.toNat).toNat % 4 ≠ 0) :
    prepCas d a b s i t = (.error (alignFault (s.pairReg t a.toNat)), s) := if_pos h

theorem prepAtom_misaligned (f : AtomOp) (hb : b.toNat < 124) (h : (s.pairReg t a.toNat).toNat % 4 ≠ 0) :
    prepAtom f d a b s i t = (.error (alignFault (s.pairReg t a.toNat)), s) := by
  simp only [prepAtom, State.source_plain s i t _ hb, h, if_true, ne_eq, not_false_eq_true]

theorem prepRed_misaligned (f : AtomOp) (hb : b.toNat < 124) (h : (s.pairReg t a.toNat).toNat % 4 ≠ 0) :
    prepRed f a b s i t = (.error (alignFault (s.pairReg t a.toNat)), s) := by
  simp only [prepRed, State.source_plain s i t _ hb, h, if_true, ne_eq, not_false_eq_true]

end

end Sys2Proof.Machine

namespace Sys2Proof.Claims

open Sys2Proof.Machine

theorem misalignedAccessesTakeAlign : MisalignedAccessesTakeAlign := by
  intro s i sc d a b off p t hi ha hb traps at_
  have misaligned : ∀ {ll : Bool} {prep : State → Issue → Nat → Prepared × State} (size : Nat) (ea : Dword),
      (ea.toNat % size ≠ 0 → prep s i t = (.error (alignFault ea), s)) → traps size ea (memWord sc p.toNat ll prep s) :=
    fun size ea hp hal => memWord_one_fault hi.1 ha (hp hal)
  have load := fun size sgn => misaligned (ll := true) size (at_ size) (prepLoad_misaligned (i := i) (d := d) sgn)
  have store := fun size => misaligned (ll := false) size (at_ size) (prepStore_misaligned (i := i) (d := d))
  exact ⟨load 2 false, load 2 true, load 4 false, load 8 false, load 16 false, store 2, store 4, store 8, store 16,
    misaligned 4 _ (prepAtom_misaligned .add hb), misaligned 4 _ prepCas_misaligned, misaligned 4 _ (prepRed_misaligned .add hb)⟩

end Sys2Proof.Claims

namespace Sys2Proof.Machine

/-! # Tables and what stands in them -/

theorem Tab.mem_of_find {α : Type} {t : Tab α} {k : Nat} {x : α} (h : t.find k = some x) : (k, x) ∈ t := by
  induction t with
  | nil => simp at h
  | cons e r ih =>
    obtain ⟨a, y⟩ := e
    by_cases ha : a = k
    · simp only [Tab.find, ha, if_true, Option.some.injEq] at h
      simp [ha, h]
    · simp only [Tab.find, ha, if_false] at h
      simp [ih h]

theorem Tab.mem_of_mem_put {α : Type} {t : Tab α} {k : Nat} {x : α} {e : Nat × α} (h : e ∈ t.put k x) :
    e = (k, x) ∨ e ∈ t := by
  induction t with
  | nil => simpa [Tab.put] using h
  | cons e' r ih =>
    obtain ⟨a, y⟩ := e'
    simp only [Tab.put] at h
    split_ifs at h
    · simpa using h
    · rcases List.mem_cons.mp h with h | h
      · exact .inl h
      · simp [h]
    · rcases List.mem_cons.mp h with h | h
      · simp [h]
      · exact (ih h).imp_right (List.mem_cons_of_mem _)

/-! # Flags set -/

/-- A thread without its completion flags. -/
def Thread.unflagged (th : Thread) : Thread := { th with cf := 0 }

/-- A thread with a completion flag set. -/
def Thread.flagged (n : Nat) (th : Thread) : Thread := { th with cf := setBit12 th.cf n true }

/-- The flag of an access is set in its members (R14). -/
theorem State.setFlags_eq_modThrs (s : State) (a : Access) :
    s.setFlags a = match a.flag with | none => s | some n => s.modThrs a.members (Thread.flagged n) := by
  unfold State.setFlags
  cases a.flag with
  | none => exact foldl_id a.members s
  | some n => rfl

/-- The flags of an access change no thread but in its flags. -/
theorem State.alike_setFlags (s : State) (a : Access) : s.Alike Thread.unflagged (s.setFlags a) := by
  rw [State.setFlags_eq_modThrs]
  cases a.flag with
  | none => exact .refl ..
  | some n => exact .modThrs fun _ => rfl

theorem State.modThrs_numbered (s : State) (ts : List Nat) (f : Thread → Thread) (n : Nat) :
    ({ s with nextOp := n } : State).modThrs ts f = { s.modThrs ts f with nextOp := n } := by
  induction ts generalizing s with
  | nil => rfl
  | cons t ts ih => exact ih (s.modThr t f)

/-- Only the threads change, and the number of the next operation does not bear on them. -/
theorem State.setFlags_numbered (s : State) (a : Access) (n : Nat) :
    ({ s with nextOp := n } : State).setFlags a = { s with nextOp := n, threads := (s.setFlags a).threads } := by
  simp only [State.setFlags_eq_modThrs]
  cases a.flag with
  | none => rfl
  | some k =>
    refine (State.modThrs_numbered ..).trans ?_
    dsimp only
    rw [State.modThrs_eq]

theorem State.deferred_thr {s : State} {P : Nat → List Access → Prop} (hP : ∀ k, P k [])
    (h : ∀ e ∈ s.threads, P e.1 e.2.deferred) (t : Nat) : P t (s.thr t).deferred := by
  unfold State.thr Tab.get
  cases hf : s.threads.find t with
  | none => exact hP t
  | some x => exact h _ (Tab.mem_of_find hf)

/-- What holds of the waiting accesses of each listed thread holds still where flags are set. -/
theorem State.setFlags_deferred {s : State} (a : Access) {P : Nat → List Access → Prop} (hP : ∀ k, P k [])
    (h : ∀ e ∈ s.threads, P e.1 e.2.deferred) : ∀ e ∈ (s.setFlags a).threads, P e.1 e.2.deferred := by
  rw [State.setFlags_eq_modThrs]
  cases a.flag with
  | none => exact h
  | some n =>
    refine List.foldlRecOn (motive := fun s : State => ∀ e ∈ s.threads, P e.1 e.2.deferred) a.members _ h fun s h t _ e he => ?_
    rcases Tab.mem_of_mem_put he with rfl | he
    · exact State.deferred_thr hP h t
    · exact h e he

end Sys2Proof.Machine

namespace Sys2Proof.Claims

open Sys2Proof.Machine

/-! # The state in which an access is made -/

section

variable (s : State) (a : Access)

theorem issuing_eq : issuing s a = { s with nextOp := s.nextOp + 1, threads := (s.setFlags a).threads } :=
  State.setFlags_numbered s a _

/-- A thread's fields other than its flags are as before. -/
theorem issuing_field {α : Type} (f : Thread → α) (hf : ∀ x, f x.unflagged = f x) (k : Nat) :
    f ((issuing s a).thr k) = f (s.thr k) := by
  rw [issuing_eq]
  exact (s.alike_setFlags a).field f hf k

@[simp] theorem issuing_tagOf (k : Nat) : (issuing s a).tagOf k = s.tagOf k := by rw [issuing_eq]; rfl
@[simp] theorem issuing_windowOps (t page : Nat) : (issuing s a).windowOps t page = s.windowOps t page := by
  rw [issuing_eq]; rfl
@[simp] theorem issuing_byteAt (k : Nat) : (issuing s a).byteAt k = s.byteAt k := by rw [issuing_eq]; rfl
@[simp] theorem issuing_ops : (issuing s a).ops = s.ops := by rw [issuing_eq]
@[simp] theorem issuing_nextOp : (issuing s a).nextOp = s.nextOp + 1 := by rw [issuing_eq]
@[simp] theorem issuing_serial : (issuing s a).serial = s.serial := by rw [issuing_eq]

theorem issuing_reg (k c : Nat) : (issuing s a).reg k c = s.reg k c := by
  simp only [State.reg, issuing_field s a Thread.v (fun _ => rfl) k]
  rw [issuing_eq]
  rfl

variable {s a}

/-- A thread that nothing holds back is held back by nothing there. -/
theorem issuing_blocked {m : Nat} (h : s.blocked m = false) : (issuing s a).blocked m = false := by
  simp only [State.blocked, Bool.or_eq_false_iff, Bool.not_eq_false', List.isEmpty_iff] at h ⊢
  obtain ⟨⟨hpark, hwait⟩, hfence⟩ := h
  refine ⟨⟨(issuing_field s a Thread.parked (fun _ => rfl) m).trans hpark, ?_⟩, ?_⟩
  · have hall : ∀ e ∈ (s.setFlags a).threads, e.2.deferred.filter (fun b => e.1 = m || b.members.contains m) = [] :=
      State.setFlags_deferred a (P := fun k l => l.filter (fun b => k = m || b.members.contains m) = []) (fun _ => rfl)
        (List.flatMap_eq_nil_iff.mp hwait)
    rw [issuing_eq]
    exact List.flatMap_eq_nil_iff.mpr hall
  · rw [issuing_eq]
    exact hfence

end

end Sys2Proof.Claims

namespace Sys2Proof.Claims

open Sys2Proof.Machine

/-! # The issue of one access that nothing holds back -/

theorem orderly_one {pend : List (Nat × Access)} {p : Nat × Access} (h : ∀ q ∈ pend, q = p ∨ q.2.collides p.2 = false) :
    orderly pend [p] = [p] := by
  have hlets : (pend.all fun q => (!leavesWith q p || holdsAccess [p] q) && (!leavesBefore q p || holdsAccess [] q)) = true := by
    refine List.all_eq_true.mpr fun q hq => ?_
    rcases h q hq with rfl | hc
    · simp [holdsAccess, leavesBefore]
    · simp [leavesWith, leavesBefore, hc]
  simp [orderly, sortBy, insertBy, hlets]

section

variable {s s' : State} {i : Issue} {sc : Scope} {t : Nat} {a : Access}

/-- No waiting access of the core is of the access's own clause, unless that clause has no number. -/
def LoneOfClause (s : State) (a : Access) : Prop := ∀ e ∈ s.threads, ∀ b ∈ e.2.deferred, b.group = a.group → a.group = 0

theorem pending_issuing_lone (h : LoneOfClause s a) {c : Nat} {q : Nat × Access} (hq : q ∈ (issuing s a).pending c) :
    q.2.collides a = false := by
  have hall := State.setFlags_deferred a (P := fun _ l => ∀ b ∈ l, b.group = a.group → a.group = 0) (fun _ _ hb => by simp at hb) h
  rw [issuing_eq] at hq
  simp only [State.pending, List.mem_flatMap, List.mem_map] at hq
  obtain ⟨e, he, b, hb, rfl⟩ := hq
  have he' := (List.mem_filter.mp he).1
  by_cases hg : b.group = a.group
  · simp [Access.collides, hg, hall e he' b hb hg]
  · simp [Access.collides, hg]

/-- An access that may go leaves at once, with its flag set. -/
theorem memIssue_one (hcanon : a.acc.noncanon = none) (hpage : a.perPage = [a]) (hgo : (issuing s a).mayGo t a = true)
    (hlone : LoneOfClause s a) :
    s.memIssue [(t, a)] = ((((issuing s a).memGo [(t, a)]).2.foldl (fun s l => s.clearFlags l.1.2.flag l.1.2.members)
      ((issuing s a).memGo [(t, a)]).1), ((issuing s a).memGo [(t, a)]).2.map fun l => (l.1.1, l.2)) := by
  have hone : ([(t, a)].filter fun p => (p.2.acc.noncanon).isNone).flatMap (fun p => p.2.perPage.map fun b => (p.1, b)) =
      [(t, a)] := by simp [hcanon, hpage]
  have hmay : ([(t, a)].filter fun p => (issuing s a).mayGo p.1 p.2) = [(t, a)] := by simp [hgo]
  have hgoes : orderly ((issuing s a).pending (coreOf t) ++ [(t, a)].filter fun p => !((issuing s a).thr p.1).parked) [(t, a)] =
      [(t, a)] := by
    refine orderly_one fun q hq => ?_
    rcases List.mem_append.mp hq with hq | hq
    · exact .inr (pending_issuing_lone hlone hq)
    · exact .inl (List.mem_singleton.mp (List.mem_of_mem_filter hq))
  have hstay : ([(t, a)].filter fun p => !holdsAccess [(t, a)] p) = [] := by simp [holdsAccess]
  have hset : [(t, a)].foldl (fun s p => s.setFlags p.2) { s with nextOp := s.nextOp + 1 } = issuing s a := rfl
  have hne : ([(t, a)] : List (Nat × Access)).isEmpty = false := rfl
  have hwild : [(t, a)].filterMap (fun p => (p.2.acc.noncanon).map fun f => (p.1, f)) = [] := by simp [hcanon]
  unfold State.memIssue
  simp only [hone, hne, hset, hmay, hgoes, hstay, hwild, Bool.false_eq_true, if_false, List.foldl_nil, List.nil_append,
    List.map_cons, List.map_nil, List.headD_cons]

/-- A global access's way through the memory is the place that `placed` names. -/
theorem translateLanes_global {va : Dword} {n : Nat} {kind : AKind} (hg : a.acc.global = some (va, n, kind)) :
    (issuing s a).translateLanes [] false [(t, a)] =
      ([{ t := t, acc := a, res := (placed s a t va n kind a.acc.big).1, words := [] }],
        (placed s a t va n kind a.acc.big).2) := by
  simp only [State.translateLanes, State.translateLane, hg, State.shareWalk, Tab.find_nil, placed, issuing_tagOf]
  rcases (issuing s a).translateFor (coreOf t) (s.tagOf t).1 (s.tagOf t).2 va kind false with ⟨f | ⟨pa, mt⟩, u⟩ <;> rfl

variable {va : Dword} {n : Nat} {kind : AKind} (hg : a.acc.global = some (va, n, kind))
  (hagain : a.again = false) (hred : isRedFadd [(t, a)] = false)

include hg hagain hred

/-- A global access that is placed takes effect. -/
theorem memGo_placed {pa mt : Nat} (hp : placed s a t va n kind a.acc.big = (.ok (pa, mt), s')) :
    (issuing s a).memGo [(t, a)] = (s'.applyGlobal t a pa mt, []) := by
  have hany : ([(t, a)].any fun p => p.2.again) = false := by simp [hagain]
  have hglobal : a.acc.global.isSome = true := by rw [hg]; rfl
  simp [State.memGo, hany, translateLanes_global hg, hp, hred, State.parkLanes, State.applyLanes, State.applyLane, hglobal]

/-- A global access that meets a cause that parks: its thread parks on it (R182). -/
theorem memGo_parks {f : MemFault} (hp : placed s a t va n kind a.acc.big = (.error f, s')) (hf : f.parks = true) :
    (issuing s a).memGo [(t, a)] = (s'.park [(t, a)] f, []) := by
  have hany : ([(t, a)].any fun p => p.2.again) = false := by simp [hagain]
  have hspec : a.acc.spec = false := by
    revert hg
    cases a.acc <;> simp [Acc.global, Acc.spec]
  simp [State.memGo, hany, translateLanes_global hg, hp, hred, hf, hspec, State.parkLanes, State.applyLanes]

end

end Sys2Proof.Claims

namespace Sys2Proof.Claims

open Sys2Proof.Machine

/-! # The word of one actor's global access -/

section

variable {s s' : State} {i : Issue} {sc : Scope} {p t : Nat} {ll : Bool} {x : Acc} {va : Dword} {n : Nat} {kind : AKind}
  {prep : State → Issue → Nat → Prepared × State}

/-- Nothing holds back the threads in whose order an access of its one actor stands (R84, R216). -/
theorem mayGo_access (h : Free s i sc t) (hturn : (issuing s (access s i sc t ll x)).waitsTurn t (access s i sc t ll x) = false) :
    (issuing s (access s i sc t ll x)).mayGo t (access s i sc t ll x) = true := by
  obtain ⟨ht, hwide, -⟩ := h
  have hparties : ∀ m ∈ (access s i sc t ll x).parties t, s.blocked m = false := by
    intro m hm
    rcases List.mem_cons.mp hm with rfl | hm
    · exact ht
    · by_cases hsc : sc = .lane
      · subst hsc
        rwa [List.mem_singleton.mp hm]
      · refine hwide hsc m ?_
        cases sc
        · exact absurd rfl hsc
        all_goals exact List.mem_of_mem_filter hm
  have hfree : ∀ m ∈ (access s i sc t ll x).parties t, _ := fun m hm => issuing_blocked (a := access s i sc t ll x) (hparties m hm)
  simp only [State.blocked, Bool.or_eq_false_iff, Bool.not_eq_false', List.isEmpty_iff] at hfree
  have hpark := (hfree t (List.mem_cons_self ..)).1.1
  simp only [State.mayGo, hpark, hturn, Bool.not_false, Bool.true_and, List.all_eq_true, Bool.and_eq_true]
  intro m hm
  obtain ⟨⟨-, hwait⟩, hfence⟩ := hfree m hm
  simp [hwait, hfence]

theorem lone_access (h : Free s i sc t) : LoneOfClause s (access s i sc t ll x) := h.2.2

theorem noncanon_global (hg : x.global = some (va, n, kind)) (hva : va.toNat < 2 ^ 48) : x.noncanon = none := by
  simp only [Acc.noncanon, hg, if_neg (Nat.not_le.mpr hva)]

/-- The accesses with a global address. -/
theorem global_cases (hg : x.global = some (va, n, kind)) : (∃ sgn d, x = .load va n sgn d) ∨ (∃ bs, x = .store va bs) ∨
    (∃ f b c d, x = .atom va f b c d) ∨ ∃ f b, x = .red va f b := by
  cases x with
  | load va' m sgn d =>
    obtain ⟨rfl, rfl, -⟩ := by simpa [Acc.global] using hg
    exact .inl ⟨sgn, d, rfl⟩
  | store va' bs =>
    obtain ⟨rfl, -, -⟩ := by simpa [Acc.global] using hg
    exact .inr (.inl ⟨bs, rfl⟩)
  | atom va' f b c d =>
    obtain ⟨rfl, -, -⟩ := by simpa [Acc.global] using hg
    exact .inr (.inr (.inl ⟨f, b, c, d, rfl⟩))
  | red va' f b =>
    obtain ⟨rfl, -, -⟩ := by simpa [Acc.global] using hg
    exact .inr (.inr (.inr ⟨f, b, rfl⟩))
  | _ => simp [Acc.global] at hg

theorem perPage_global {a : Access} (hg : a.acc.global = some (va, n, kind)) : a.perPage = [a] := by
  unfold Access.perPage
  rcases global_cases hg with ⟨_, _, e⟩ | ⟨_, e⟩ | ⟨_, _, _, _, e⟩ | ⟨_, _, e⟩ <;> rw [e]

/-- Without requests of its page to an old target a global access waits for none (R419). -/
theorem waitsTurn_global {a : Access} (hg : a.acc.global = some (va, n, kind)) (hwin : s.windowOps t (va.toNat / 4096) = []) :
    (issuing s a).waitsTurn t a = false := by
  have hturn : ∀ k again, (issuing s a).windowTurns t va k again = false := fun k again => by
    simp only [State.windowTurns, issuing_windowOps, hwin]
  unfold State.waitsTurn
  rcases global_cases hg with ⟨_, _, e⟩ | ⟨_, e⟩ | ⟨_, _, _, _, e⟩ | ⟨_, _, e⟩ <;> rw [e] <;> exact hturn ..

theorem isRedFadd_of_ne {a : Access} (h : ∀ va y, a.acc ≠ .red va .fadd y) : isRedFadd [(t, a)] = false := by
  simp only [isRedFadd]

variable (h : OneActor s i sc p t) (hprep : prep s i t = (.ok x, s)) (hg : x.global = some (va, n, kind))
  (hred : ∀ va y, x ≠ .red va .fadd y) (hva : va.toNat < 2 ^ 48) (hwin : s.windowOps t (va.toNat / 4096) = [])

include h hprep hg hva hwin

/-- The word of a global access issues it at once, and raises what faults it. -/
theorem memWord_issues {u : State} (hgo : (issuing s (access s i sc t ll x)).memGo [(t, access s i sc t ll x)] = (u, [])) :
    memWord sc p ll prep s = .next u := by
  obtain ⟨hi, ha, hfree⟩ := h
  have hm := memIssue_one (noncanon_global hg hva) (perPage_global hg) (mayGo_access hfree (waitsTurn_global hg hwin))
    (lone_access (ll := ll) hfree)
  rw [hgo] at hm
  have hw := memWord_one (ll := ll) hi.1 ha hprep
  rw [show s.mkAccess i sc t ll x = access s i sc t ll x from rfl, hm] at hw
  exact hw

include hred

/-- The word of a global access that is placed: the access takes effect (R82, R181). -/
theorem memWord_placed {pa mt : Nat} (hp : placed s (access s i sc t ll x) t va n kind x.big = (.ok (pa, mt), s')) :
    memWord sc p ll prep s = .next (s'.applyGlobal t (access s i sc t ll x) pa mt) :=
  memWord_issues h hprep hg hva hwin (memGo_placed hg rfl (isRedFadd_of_ne hred) hp)

/-- The word of a global access that meets a cause that parks: the access parks (R182, R343). -/
theorem memWord_parks {f : MemFault} (hp : placed s (access s i sc t ll x) t va n kind x.big = (.error f, s'))
    (hf : f.parks = true) : memWord sc p ll prep s = .next (s'.park [(t, access s i sc t ll x)] f) :=
  memWord_issues h hprep hg hva hwin (memGo_parks hg rfl (isRedFadd_of_ne hred) hp hf)

end

end Sys2Proof.Claims

namespace Sys2Proof.Claims

open Sys2Proof.Machine

/-! # Translations that park (R181-R183, R343) -/

theorem prepLoad_aligned {s : State} {i : Issue} {size : Nat} {sgn : Bool} {d a off : BitVec 7} {t : Nat}
    (h : (globalEA (s.pairReg t a.toNat) off size).toNat % size = 0) :
    prepLoad size sgn d a off s i t = (.ok (.load (globalEA (s.pairReg t a.toNat) off size) size sgn d.toNat), s) :=
  if_neg (not_not.mpr h)

theorem prepStore_aligned {s : State} {i : Issue} {size : Nat} {d a off : BitVec 7} {t : Nat}
    (h : (globalEA (s.pairReg t a.toNat) off size).toNat % size = 0) :
    prepStore size d a off s i t =
      (.ok (.store (globalEA (s.pairReg t a.toNat) off size) (s.storeData t d.toNat size)), s) :=
  if_neg (not_not.mpr h)

/-- The first occurrences of a list without repetition are the list. -/
theorem distinct_of_nodup {l : List Nat} (h : l.Nodup) : distinct l = l := by
  suffices H : ∀ acc : List Nat, (acc ++ l).Nodup →
      l.foldl (fun acc x => if acc.contains x then acc else acc ++ [x]) acc = acc ++ l from H [] h
  clear h
  induction l with
  | nil => simp
  | cons x l ih =>
    intro acc hn
    have hx : x ∉ acc := fun hx => (List.nodup_append.mp hn).2.2 x hx x (by simp) rfl
    have hstep := ih (acc ++ [x]) (by simpa using hn)
    simpa [hx] using hstep

/-- A further mention of a thread already seen adds nothing. -/
theorem distinct_cons_cons (x : Nat) (l : List Nat) : distinct (x :: x :: l) = distinct (x :: l) := by
  simp [distinct]

/-- The threads that a parking access of a wider scope suspends: the whole group, where all of it is live (R343). -/
theorem suspends_access {s u : State} {i : Issue} {sc : Scope} {p t : Nat} {ll : Bool} {x : Acc} (h : OneActor s i sc p t)
    (hlive : sc ≠ .lane → ∀ m ∈ i.group, (s.thr m).live = true) (hu : ∀ m, (u.thr m).live = (s.thr m).live) :
    u.suspends [(t, access s i sc t ll x)] = if sc = .lane then [t] else i.group := by
  obtain ⟨⟨-, hn⟩, ha, -⟩ := h
  by_cases hsc : sc = .lane
  · subst hsc
    rfl
  · rw [State.actors_wide _ _ _ _ hsc] at ha
    obtain ⟨g, hg⟩ : ∃ g, i.group = t :: g := by
      cases hgr : i.group with
      | nil => simp [State.rep_nil _ _ _ hgr] at ha
      | cons r g =>
        rw [State.rep_cons _ _ _ _ _ hgr] at ha
        split at ha
        · simp only [Option.toList_some, List.cons.injEq] at ha
          exact ⟨g, by rw [ha.1]⟩
        · simp at ha
    have hall := hlive hsc
    have hmembers : (access s i sc t ll x).members = i.group := by
      have : i.group.filter (fun m => (s.thr m).live) = i.group := List.filter_eq_self.mpr hall
      cases sc
      · exact absurd rfl hsc
      all_goals exact this
    have hlive' : (t :: i.group).filter (fun m => (u.thr m).live) = t :: i.group := by
      refine List.filter_eq_self.mpr fun m hm => ?_
      rw [hu]
      rcases List.mem_cons.mp hm with rfl | hm
      · exact hall m (by simp [hg])
      · exact hall m hm
    have hscope : (access s i sc t ll x).scope = sc := rfl
    simp only [State.suspends, List.flatMap_cons, List.flatMap_nil, List.append_nil, hscope, hsc, if_false, Access.parties,
      hmembers, hlive']
    rw [hg, distinct_cons_cons, ← hg, distinct_of_nodup hn]

/-- One access that parks: it waits first of its thread's, and the threads it suspends are parked with one record. -/
theorem park_one {s : State} {t : Nat} {a : Access} {f : MemFault} {who : List Nat} (h : s.suspends [(t, a)] = who) :
    s.park [(t, a)] f =
      ((s.modThr t fun th => { th with deferred := { a with again := true } :: th.deferred }).modThrs (who ++ [t])
        fun th => { th with parked := true }).record who a.faultAt f := by
  simp only [State.park, h]
  rfl

/-- Translating an access leaves the threads as they stand with its flag set. -/
theorem placed_looked (s : State) (a : Access) (t : Nat) (va : Dword) (n : Nat) (kind : AKind) (big : Bool) :
    (issuing s a).Looked (placed s a t va n kind big).2 := by
  have h := (Lookup.translateFor (coreOf t) (s.tagOf t).1 (s.tagOf t).2 va kind false).frame (issuing s a)
  unfold placed
  rcases e : (issuing s a).translateFor _ _ _ _ _ _ with ⟨f | ⟨pa, mt⟩, u⟩
  · exact h.of e
  · exact (h.of e).trans ((Lookup.reach va pa n mt kind big).frame u)

theorem translationFaultsPark : TranslationFaultsPark := by
  intro s i sc d a off p t h ea acc who f s' hal hva hlive hp hf hwin
  have hl : (issuing s acc).Looked s' := (placed_looked ..).of hp
  have hw := memWord_parks (ll := true) h (prepLoad_aligned (sgn := false) hal) rfl (fun _ _ => by simp) hva hwin hp hf
  refine Eq.trans hw (congrArg Host.Outcome.next ?_)
  have hu : ∀ m, (s'.thr m).live = (s.thr m).live := fun m => by
    rw [hl.thr]
    exact issuing_field s acc Thread.live (fun _ => rfl) m
  have hs : s'.suspends [(t, acc)] = who := suspends_access h hlive hu
  exact park_one hs

end Sys2Proof.Claims

namespace Sys2Proof.Machine

/-- Settles O29. -/
theorem badAddressesStopTheirThreads : Obligations.BadAddressesStopTheirThreads :=
  ⟨Claims.misalignedAccessesTakeAlign, Claims.translationFaultsPark⟩

end Sys2Proof.Machine

namespace Sys2Proof.Claims

open Sys2Proof.Machine

/-! # Global loads in flight (R14, R82) -/

section

variable {s u : State} {a : Access}

/-- From the state in which an access is made, what a lookup leaves has the same registers and bytes. -/
theorem sameRegs_looked (h : (issuing s a).Looked u) : SameRegs s u := fun k c => by
  have hr : u.reg k c = (issuing s a).reg k c := by simp only [State.reg, h.thr, State.warp, h.warps]
  exact hr.trans (issuing_reg s a k c)

theorem sameBytes_looked (h : (issuing s a).Looked u) : SameBytes s u := fun k =>
  (h.byteAt k).trans (issuing_byteAt s a k)

theorem SameRegs.addOp (h : SameRegs s u) (o : Op) : SameRegs s (u.addOp o) := fun k c => h k c
theorem SameBytes.addOp (h : SameBytes s u) (o : Op) : SameBytes s (u.addOp o) := fun k => h k

/-- An operation that joins those in flight is the newest, and the others stand as before. -/
theorem newOp_addOp (h : (issuing s a).Looked u) (o : Op) : newOp s (u.addOp o) = some o := by
  have hn : u.nextOp = s.nextOp + 1 := by rw [h]; exact issuing_nextOp s a
  have hlt : s.nextOp < u.nextOp + 1 := by omega
  simp [newOp, State.addOp, hlt]

theorem find_addOp (h : (issuing s a).Looked u) (o : Op) {n : Nat} (hn : n + 1 ≠ (u.addOp o).nextOp) :
    (u.addOp o).ops.find n = s.ops.find n := by
  have hops : u.ops = s.ops := by rw [h]; exact issuing_ops s a
  have hne : n ≠ u.nextOp := fun e => hn (congrArg (· + 1) e)
  exact (Tab.find_put_ne _ _ hne).trans (by rw [hops])

/-- A read that joins those in flight. -/
theorem inFlight_readOp (h : (issuing s a).Looked u) (t pa mt : Nat) (fls : List Nat) :
    InFlight s (u.readOp t a pa mt fls) a t pa mt none := by
  refine ⟨?_, ?_, ?_, fun n => find_addOp h _⟩
  · refine (show (u.readOp t a pa mt fls).threads = u.threads from rfl).trans (h.threads.trans ?_)
    rw [issuing_eq]
  · simp [State.readOp, newOp_addOp h]
  · rw [State.readOp, newOp_addOp h]
    rfl

/-- A read of the I/O range changes what a lookup may change. -/
theorem looked_ioRead (s : State) (pa n : Nat) : s.Looked (s.ioRead pa n).2 := by
  unfold State.ioRead
  split
  · rfl
  · exact (Lookup.map (f := State.regRead) (Lookup.regRead (pa / 8 * 8)) fun w =>
      ((bytesOfNat 8 w.toNat).drop (pa % 8)).take n).frame s

end

/-- A load of the I/O range reaches its device at once (R180). -/
theorem applyGlobal_load_io {s : State} {t pa mt n d : Nat} {a : Access} {va : Dword} {sgn : Bool}
    (ha : a.acc = .load va n sgn d) (h : targetOf pa = .io) :
    s.applyGlobal t a pa mt = (s.ioRead pa n).2.opFor t a pa mt (some (loadWords n sgn (s.ioRead pa n).1)) := by
  simp only [State.applyGlobal, ha, h, if_true]

/-- Any other load goes in flight as a read. -/
theorem applyGlobal_load {s : State} {t pa mt n d : Nat} {a : Access} {va : Dword} {sgn : Bool}
    (ha : a.acc = .load va n sgn d) (h : targetOf pa ≠ .io) :
    s.applyGlobal t a pa mt = s.readOp t a pa mt (s.floorsOf t pathLane a.region pa n) := by
  simp only [State.applyGlobal, ha, h, if_false]

theorem globalLoadsGoInFlight : GlobalLoadsGoInFlight := by
  intro s i sc d a off p t h load
  have one : ∀ size sgn, load size sgn (memWord sc p.toNat true (prepLoad size sgn d a off) s) := by
    intro size sgn pa mt s' hal hva hp hwin
    have hl := (placed_looked ..).of hp
    have hw := memWord_placed (ll := true) h (prepLoad_aligned (sgn := sgn) hal) rfl (fun _ _ => by simp) hva hwin hp
    by_cases hio : targetOf pa = .io
    · have hl' := hl.trans (looked_ioRead s' pa size)
      rw [applyGlobal_load_io rfl hio] at hw
      refine ⟨_, hw, (sameBytes_looked hl').addOp _, (sameRegs_looked hl').addOp _, fun hn => absurd hio hn, fun _ => ?_⟩
      rw [State.opFor, newOp_addOp hl']
      rfl
    · rw [applyGlobal_load rfl hio] at hw
      exact ⟨_, hw, (sameBytes_looked hl).addOp _, (sameRegs_looked hl).addOp _, fun _ => ⟨inFlight_readOp hl t pa mt _, rfl⟩,
        fun hn => absurd hn hio⟩
  exact ⟨one 1 false, one 1 true, one 2 false, one 2 true, one 4 false, one 8 false, one 16 false⟩

/-! # Global stores (R82, R83, R199) -/

/-- Stack and CXL memory lie below the scratchpads' names. -/
theorem memory_below {pa : Nat} (h : targetOf pa = .stack ∨ targetOf pa = .cxl) : pa < 0x120000000000 := by
  by_contra hpa
  have h1 : ¬ pa < 0x005FF0000000 := by omega
  have h2 : ¬ pa < 0x006000000000 := by omega
  have h3 : ¬ pa < 0x100000000000 := by omega
  revert h
  simp only [targetOf, h1, h2, h3, hpa, if_false]
  split_ifs <;> simp

theorem writePhys_memory {s : State} {t path obj pa : Nat} {bs : List Byte} {also : List Nat}
    (h : targetOf pa = .stack ∨ targetOf pa = .cxl) :
    s.writePhys t path obj pa bs also = s.writeAll t also path obj pa bs := by
  unfold State.writePhys
  rcases h with h | h <;> rw [h]

theorem putBytes_below {s : State} {pa : Nat} {bs : List Byte} (h : pa < 0x120000000000) :
    s.putBytes pa bs = { s with mem := s.mem.writeN pa bs } := if_pos (lt_trans h (by decide))

/-- A store of `size` bytes takes as many from its data registers. -/
theorem storeData_length (s : State) (t d size : Nat) : (s.storeData t d size).length = size := by
  have hword : ∀ w : Word, (bytesOfWord w).length = 4 := fun _ => rfl
  simp only [State.storeData, State.regRun, List.length_take, List.length_flatMap, List.map_map, Function.comp_def, hword,
    List.map_const', List.length_range, List.sum_replicate, smul_eq_mul]
  omega

/-- What a write of memory leaves: the bytes, the coherence order and its count, and nothing else (R199). -/
theorem writeAll_below {s : State} {party path obj pa : Nat} {also : List Nat} {bs : List Byte} (h : pa < 0x120000000000) :
    s.writeAll party also path obj pa bs = { s with
      mem := (s.writeAll party also path obj pa bs).mem, wlog := (s.writeAll party also path obj pa bs).wlog
      serial := s.serial + 1 } := by
  rw [State.writeAll, putBytes_below h]

theorem applyGlobal_store {s : State} {t pa mt : Nat} {a : Access} {va : Dword} {bs : List Byte}
    (ha : a.acc = .store va bs) (h : targetOf pa = .stack ∨ targetOf pa = .cxl) :
    s.applyGlobal t a pa mt = s.writeAll t (a.others t) (pathVia pathLane mt) a.region pa bs := by
  simp only [State.applyGlobal, ha, writePhys_memory h]

/-- A write of memory, seen from the state in which its access is made. -/
theorem stored_writeAll {s u : State} {a : Access} {party path obj pa : Nat} {also : List Nat} {bs : List Byte}
    (hl : (issuing s a).Looked u) (hm : s.mem.wf = true) (hpa : pa < 0x120000000000) (h0 : bs ≠ []) (hlen : bs.length ≤ 16) :
    Stored s (u.writeAll party also path obj pa bs) pa bs ∧ SameRegs s (u.writeAll party also path obj pa bs) := by
  have hum : u.mem.wf = true := by rw [hl.mem, issuing_eq]; exact hm
  have hfit : pa + bs.length ≤ scratchBase := by
    have : scratchBase = 2 ^ 60 := rfl
    omega
  constructor
  · exact Stored.congr_bytes (State.putBytes_stored hfit h0 hum) (fun k => sameBytes_looked hl k) fun _ => rfl
  · rw [writeAll_below hpa]
    exact fun k c => sameRegs_looked hl k c

theorem globalStoresWriteTheirBytes : GlobalStoresWriteTheirBytes := by
  intro s i sc d a off p t h hm store
  have one : ∀ size, 0 < size → size ≤ 16 → store size (memWord sc p.toNat false (prepStore size d a off) s) := by
    intro size hpos hle pa mt s' hal hva hp hpa hwin
    have hlen := storeData_length s t d.toNat size
    have hl := (placed_looked ..).of hp
    have hglobal : (Acc.store (globalEA (s.pairReg t a.toNat) off size) (s.storeData t d.toNat size)).global =
        some (globalEA (s.pairReg t a.toNat) off size, size, .write) := by rw [Acc.global, hlen]
    have hbig : (Acc.store (globalEA (s.pairReg t a.toNat) off size) (s.storeData t d.toNat size)).big = decide (size = 16) := by
      rw [Acc.big, hlen]
    have hw := memWord_placed (ll := false) h (prepStore_aligned hal) hglobal (fun _ _ => by simp) hva hwin
      (by rw [hbig]; exact hp)
    rw [applyGlobal_store rfl hpa] at hw
    have hbelow := memory_below hpa
    have h0 : s.storeData t d.toNat size ≠ [] := fun e => by simp [e] at hlen; omega
    obtain ⟨hstored, hregs⟩ := stored_writeAll hl hm hbelow h0 (hlen.trans_le hle)
    have hserial : s'.serial = s.serial := by rw [hl]; exact issuing_serial ..
    refine ⟨_, hw, hlen, hstored, hregs, ?_, ?_⟩
    · rw [← hserial]
      exact writeAll_below hbelow
    · rw [← hserial]
      rfl
  exact ⟨one 1 (by decide) (by decide), one 2 (by decide) (by decide), one 4 (by decide) (by decide),
    one 8 (by decide) (by decide), one 16 (by decide) (by decide)⟩

end Sys2Proof.Claims

namespace Sys2Proof.Machine

/-- Settles O55. -/
theorem globalAccesses : Obligations.GlobalAccesses :=
  ⟨Claims.globalLoadsGoInFlight, Claims.globalStoresWriteTheirBytes⟩

end Sys2Proof.Machine

namespace Sys2Proof.Claims

open Sys2Proof.Machine

/-! # Registers and bytes that an operation leaves -/

/-- Bookkeeping that leaves each thread's vector registers leaves every register. -/
theorem sameRegs_alike {s t : State} {f : Thread → Thread} (h : s.Alike f t) (hf : ∀ x, (f x).v = x.v) : SameRegs s t :=
  fun k c => by
    have hv : (t.thr k).v = (s.thr k).v := h.field Thread.v hf k
    simp only [State.reg, hv, State.warp, h.warps]

theorem sameBytes_alike {s t : State} {f : Thread → Thread} (h : s.Alike f t) : SameBytes s t := h.byteAt

end Sys2Proof.Claims

namespace Sys2Proof.Machine

/-! # Tiles (R126-R128, R159, R394) -/

section

variable {s : State} {l die : Nat} {x : Launch}

/-- A die's run that holds an index is one of the launch's runs. -/
theorem Launch.lt_of_run_left (h : (x.run die).next < (x.run die).stop) : die < x.runs.length := by
  by_contra hlen
  have hrun : x.run die = { next := 0, stop := 0 } := List.getD_eq_default _ _ (Nat.le_of_not_lt hlen)
  rw [hrun] at h
  exact absurd h (by decide)

/-- A launch whose run of a die has given out its next index (R127). -/
def Launch.tileTaken (x : Launch) (d : Nat) : Launch :=
  { x with runs := x.runs.set d { x.run d with next := (x.run d).next + 1 } }

theorem Launch.run_tileTaken (h : (x.run die).next < (x.run die).stop) :
    (x.tileTaken die).run die = { x.run die with next := (x.run die).next + 1 } := by
  show (x.runs.set die _).getD die _ = _
  simp [List.getD_eq_getElem?_getD, Launch.lt_of_run_left h]

theorem Launch.run_tileTaken_ne {d : Nat} (h : d ≠ die) : (x.tileTaken die).run d = x.run d := by
  show (x.runs.set die _).getD d _ = x.runs.getD d _
  simp [List.getD_eq_getElem?_getD, Ne.symm h]

variable (hx : s.launch? l = some x)

include hx

/-- An index left in the run that serves a die is handed out (R127). -/
theorem State.serveTile_left (h : (x.run (x.runDie die)).next < (x.run (x.runDie die)).stop) :
    s.serveTile l die = (some [loW (x.record.workId (x.run (x.runDie die)).next),
      hiW (x.record.workId (x.run (x.runDie die)).next), 0], s.setLaunch l (x.tileTaken (x.runDie die))) := by
  simp only [State.serveTile, hx, Run.left, h, decide_true, if_true]
  rfl

/-- Past the last index the answer is the exhausted one (R159). -/
theorem State.serveTile_exhausted (h : (x.run (x.runDie die)).stop ≤ (x.run (x.runDie die)).next)
    (hn : x.record.nWork ≤ x.homeCounter) : s.serveTile l die = (some [0xFFFFFFFF, 0xFFFFFFFF, 1], s) := by
  simp [State.serveTile, hx, Run.left, Nat.not_lt.mpr h, hn]

/-- With no index left while work remains a refill is asked for (R128). -/
theorem State.serveTile_refill (h : (x.run (x.runDie die)).stop ≤ (x.run (x.runDie die)).next)
    (hn : x.homeCounter < x.record.nWork) :
    s.serveTile l die = (none, s.setLaunch l { x with refills := x.refills.put die 1 }) := by
  simp [State.serveTile, hx, Run.left, Nat.not_lt.mpr h, Nat.not_le.mpr hn]

end

/-- A tile is served from the launches alone, which alone change. -/
theorem State.serveTile_withThreads (s : State) (th : Tab Thread) (l die : Nat) :
    (s.withThreads th).serveTile l die = ((s.serveTile l die).1, (s.serveTile l die).2.withThreads th) := by
  unfold State.serveTile
  rw [show (s.withThreads th).launch? l = s.launch? l from rfl]
  cases s.launch? l with
  | none => rfl
  | some x =>
    dsimp only
    split_ifs <;> rfl

theorem State.serveTile_launches (s : State) (l die : Nat) :
    (s.serveTile l die).2 = { s with launches := (s.serveTile l die).2.launches } := by
  unfold State.serveTile
  cases s.launch? l with
  | none => rfl
  | some x =>
    dsimp only
    split_ifs <;> rfl

/-- Only threads change where flags are set. -/
theorem State.setFlags_eq (s : State) (a : Access) : s.setFlags a = { s with threads := (s.setFlags a).threads } :=
  s.setFlags_numbered a s.nextOp

/-- What a TILE.NEXT leaves: its flag set, the launch that it takes a tile of, and its operation. -/
def State.tileOp (s : State) (t : Nat) (a : Access) (L : Tab Launch) (result : Option (List Word)) : State :=
  { s.setFlags a with launches := L }.opFor t a 0 0 result

end Sys2Proof.Machine

namespace Sys2Proof.Claims

open Sys2Proof.Machine

theorem tileOp_spec (s : State) (t : Nat) (a : Access) (L : Tab Launch) (result : Option (List Word)) :
    SameBytes s (s.tileOp t a L result) ∧ SameRegs s (s.tileOp t a L result) ∧
      (newOp s (s.tileOp t a L result)).map (fun o => (o.thr, o.result)) = some (t, result) ∧
      ∀ l, (s.tileOp t a L result).launch? l = L.find l := by
  have hflags := s.alike_setFlags a
  have hnext : (s.setFlags a).nextOp = s.nextOp := by rw [State.setFlags_eq]
  refine ⟨fun k => hflags.byteAt k, fun k c => sameRegs_alike hflags (fun _ => rfl) k c, ?_, fun _ => rfl⟩
  simp [newOp, State.tileOp, State.opFor, State.addOp, hnext]

/-- A TILE.NEXT of a guarded representative is served from its launch's runs (R127, R159). -/
theorem exec_tileNext {s : State} {i : Issue} (sc : Scope) (pd : BitVec 3) (a : BitVec 7) {p : BitVec 3} {t : Nat}
    (hi : Setting s i) (hr : s.rep i p.toNat = some t) :
    exec (.tileNext sc pd a p) s = .next (s.tileOp t (access s i sc t true (.tile a.toNat pd.toNat))
      (s.serveTile (s.block (coreOf t)).launch (coreOf t / 72)).2.launches
      (s.serveTile (s.block (coreOf t)).launch (coreOf t / 72)).1) := by
  refine (onIssue_some _ _ _ hi.1).trans (congrArg Host.Outcome.next ?_)
  simp only [hr]
  rw [show s.mkAccess i sc t true (.tile a.toNat pd.toNat) = access s i sc t true (.tile a.toNat pd.toNat) from rfl,
    State.tileOp, State.setFlags_eq]
  show State.opFor (State.serveTile (s.withThreads _) (s.block (coreOf t)).launch (coreOf t / 72)).2 t _ 0 0
    (State.serveTile (s.withThreads _) (s.block (coreOf t)).launch (coreOf t / 72)).1 = _
  rw [State.serveTile_withThreads, State.serveTile_launches]
  rfl

end Sys2Proof.Claims

namespace Sys2Proof.Machine

open Sys2Proof.Claims

/-- A refill that no operation waits for sets the die's run from the home counter (R128, R394). -/
theorem exec_dispenserRefill {s : State} {l die : Nat} {x : Launch} (hx : s.launch? l = some x)
    (hr : (x.refills.find die).isSome = true) (hd : die < 2) (hp : x.phase = .running) (ho : s.ops = []) :
    exec (.dispenserRefill l die) s = .next (s.setLaunch l { x with
      homeCounter := x.homeCounter + (if x.record.batch = 0 then 64 else x.record.batch)
      runs := x.runs.set die
        { next := min x.homeCounter x.record.nWork
          stop := min (x.homeCounter + (if x.record.batch = 0 then 64 else x.record.batch)) x.record.nWork }
      refills := x.refills.del die }) := by
  refine congrArg Host.Outcome.next ?_
  simp [hx, hr, hd, hp, State.setLaunch, ho]

/-- Settles O8. -/
theorem tilesAreHandedOut : Obligations.TilesAreHandedOut := by
  refine ⟨fun s i sc pd a p t l x hi hr hl hx => ?next, fun s l die x hx hr hd hp ho hlen => ?refill⟩
  case next =>
    subst hl
    intro run result
    have served : ∀ L res u, s.serveTile (s.block (coreOf t)).launch (coreOf t / 72) = (res, u) → u.launches = L →
        exec (.tileNext sc pd a p) s = .next (s.tileOp t (access s i sc t true (.tile a.toNat pd.toNat)) L res) := by
      rintro L res u h rfl
      rw [exec_tileNext sc pd a hi hr, h]
    refine ⟨fun hleft => ?left, fun hdone hn => ?exhausted, fun hdone hn => ?wait⟩
    case left =>
      obtain ⟨hbytes, hregs, hop, hlaunch⟩ := tileOp_spec s t (access s i sc t true (.tile a.toNat pd.toNat))
        (s.setLaunch (s.block (coreOf t)).launch (x.tileTaken (x.runDie (coreOf t / 72)))).launches
        (some [loW (x.record.workId run.next), hiW (x.record.workId run.next), 0])
      refine ⟨_, served _ _ _ (State.serveTile_left hx hleft) rfl, hbytes, hregs, hop, _,
        (hlaunch _).trans (State.launch_setLaunch_same ..), Launch.run_tileTaken hleft,
        fun d hd => Launch.run_tileTaken_ne hd, rfl⟩
    case exhausted =>
      obtain ⟨hbytes, hregs, hop, -⟩ := tileOp_spec s t (access s i sc t true (.tile a.toNat pd.toNat)) s.launches
        (some [0xFFFFFFFF, 0xFFFFFFFF, 1])
      exact ⟨_, served _ _ _ (State.serveTile_exhausted hx hdone hn) rfl, hbytes, hregs, hop⟩
    case wait =>
      obtain ⟨hbytes, hregs, hop, -⟩ := tileOp_spec s t (access s i sc t true (.tile a.toNat pd.toNat))
        (s.setLaunch (s.block (coreOf t)).launch { x with refills := x.refills.put (coreOf t / 72) 1 }).launches none
      exact ⟨_, served _ _ _ (State.serveTile_refill hx hdone hn) rfl, hbytes, hregs, hop⟩
  case refill =>
    refine ⟨_, _, exec_dispenserRefill hx hr hd hp ho, State.launch_setLaunch_same .., rfl, ?_, Tab.find_del_same ..,
      fun _ => rfl⟩
    simp [List.getD_eq_getElem?_getD, hlen, hd]

end Sys2Proof.Machine

namespace Sys2Proof.Machine

/-! # Lookups read no warp

A translation or a fetch of a thread finds the same in a state with other warps, and leaves those: the counterpart for
warps of what `Lookup.apart` says of threads. -/

/-- The state with other warps. -/
def State.withWarps (s : State) (ws : Tab Warp) : State := { s with warps := ws }

/-- A lookup reads no warp. -/
structure Warpless {α : Type} (f : State → α × State) : Prop where
  blind : ∀ (s : State) ws, f (s.withWarps ws) = ((f s).1, (f s).2.withWarps ws)

namespace Warpless

/-- Either way a lookup goes, it goes with other warps too. -/
theorem got {α : Type} {f : State → Got α} (hf : Warpless f) (s : State) (ws : Tab Warp) :
    (∃ e u, f s = (.error e, u) ∧ f (s.withWarps ws) = (.error e, u.withWarps ws)) ∨
      ∃ a u, f s = (.ok a, u) ∧ f (s.withWarps ws) = (.ok a, u.withWarps ws) := by
  have h := hf.blind s ws
  rcases e : f s with ⟨e | a, u⟩
  · rw [e] at h; exact .inl ⟨_, _, rfl, h⟩
  · rw [e] at h; exact .inr ⟨_, _, rfl, h⟩

theorem branch {α : Type} {c : Prop} [Decidable c] {f g : State → α × State} (hf : Warpless f) (hg : Warpless g) :
    Warpless fun s => if c then f s else g s := by
  split
  · exact hf
  · exact hg

theorem const {α : Type} (a : α) : Warpless fun s => (a, s) := ⟨fun _ _ => rfl⟩

theorem choose (n : Nat) : Warpless fun s => s.choose n := ⟨fun _ _ => rfl⟩

/-- A word of the free choices. -/
theorem freely {α : Type} (a : Nat → α) : Warpless fun s => (a s.free, { s with free := s.free + 1 }) :=
  ⟨fun _ _ => rfl⟩

/-- A lookup whose answer is taken further. -/
theorem map {α β : Type} {f : State → Nat → α × State} {x : Nat} (hf : Warpless fun s => f s x) (g : α → β) :
    Warpless fun s => (g (f s x).1, (f s x).2) :=
  ⟨fun s ws => by rw [hf.blind]⟩

/-! ## Registers and table entries -/

theorem takeQpop (s : State) (ws : Tab Warp) : (s.withWarps ws).takeQpop = s.takeQpop.withWarps ws := by
  unfold State.takeQpop
  rw [show (s.withWarps ws).quar = s.quar from rfl]
  cases s.quar with
  | nil => rfl
  | cons x r =>
    dsimp only
    rw [show (s.withWarps ws).released x.2 = s.released x.2 from rfl]
    split <;> rfl

theorem doorbell (s : State) (ws : Tab Warp) (v off : Nat) : (s.withWarps ws).doorbell v off = s.doorbell v off := rfl
theorem control (s : State) (ws : Tab Warp) (v off : Nat) : (s.withWarps ws).control v off = s.control v off := rfl
theorem fabricPage (s : State) (ws : Tab Warp) (off : Nat) : (s.withWarps ws).fabricPage off = s.fabricPage off := rfl
theorem presentPage (s : State) (ws : Tab Warp) (o off : Nat) :
    (s.withWarps ws).presentPage o off = s.presentPage o off := rfl
theorem globalPage (s : State) (ws : Tab Warp) (off : Nat) : (s.withWarps ws).globalPage off = s.globalPage off := rfl
theorem bezelWindow (s : State) (ws : Tab Warp) (off : Nat) : (s.withWarps ws).bezelWindow off = s.bezelWindow off := rfl

/-- A page of registers that a read leaves as they are. -/
theorem page {α : Type} {a : State → α} (h : ∀ (s : State) ws, a (s.withWarps ws) = a s) :
    Warpless fun s => (a s, s) :=
  ⟨fun s ws => congrArg (·, s.withWarps ws) (h s ws)⟩

theorem regRead (pa : Nat) : Warpless fun s => s.regRead pa := by
  unfold State.regRead
  generalize pa - regBase = o
  extract_lets
  refine branch (page fun s ws => doorbell s ws ..) <| branch (page fun s ws => control s ws ..) <|
    branch (page fun s ws => fabricPage s ws ..) <| branch (page fun s ws => presentPage s ws ..) <|
    branch (const 0) <| branch ?_ <| branch (page fun s ws => bezelWindow s ws ..) <|
    branch (freely Config.freeDword) (const 0)
  split
  · exact ⟨fun s ws => by rw [takeQpop, globalPage]⟩
  · exact page fun s ws => globalPage s ws ..

theorem bytesAt (s : State) (ws : Tab Warp) (a n : Nat) : (s.withWarps ws).bytesAt a n = s.bytesAt a n :=
  State.bytesAt_congr (s := s) (t := s.withWarps ws) (fun _ => rfl) a n

theorem entryBytes (pa : Nat) : Warpless fun s => s.entryBytes pa := by
  unfold State.entryBytes
  split
  · generalize List.range 8 = l
    refine branch ?_ (map (f := State.regRead) (regRead _) BitVec.toNat)
    exact freely fun n => natOfBytes (l.map fun k => Config.pcieRead (pa + k) n)
  · have h := freely fun n => (Config.freeDword n).toNat
    exact h
  · exact page fun s ws => congrArg natOfBytes (bytesAt ..)

/-! ## The two stages -/

section

variable {read : State → Nat → Nat → Got Nat} (hread : ∀ l a, Warpless fun s => read s l a)

include hread

theorem walk (stage : Nat) (va : Dword) (kind : AKind) (a fuel level t : Nat) :
    Warpless fun s => Sys2Proof.Machine.walk read stage va kind a s fuel level t := by
  induction fuel generalizing level t with
  | zero => exact const _
  | succ fuel ih =>
    refine ⟨fun s ws => ?_⟩
    simp only [Sys2Proof.Machine.walk]
    obtain ⟨f, u, e, e'⟩ | ⟨x, u, e, e'⟩ :=
      (hread level (t + 8 * bitsOf a (47 - 9 * level) (39 - 9 * level))).got s ws
    · rw [e, e']
    · rw [e, e']
      dsimp only
      generalize (if stage = 2 then d64 a else 0) = ia
      split_ifs
      · rfl
      · rfl
      · split <;> rfl
      · exact (ih _ _).blind u ws

theorem stage2With (root va : Dword) (kind : AKind) (a : Nat) :
    Warpless fun s => Sys2Proof.Machine.stage2With read s root va kind a :=
  branch (walk hread ..) (const _)

theorem ingressWith (source window offset n : Nat) (kind : AKind) (key : Word) (big : Bool) :
    Warpless fun s => s.ingressWith read source window offset n kind key big := by
  refine ⟨fun s ws => ?_⟩
  simp only [State.ingressWith]
  rw [show (s.withWarps ws).importOf window = s.importOf window from rfl,
    show ∀ e, (s.withWarps ws).admits e source 1 kind.right key = s.admits e source 1 kind.right key from fun _ => rfl,
    show ∀ v, (s.withWarps ws).vdev v = s.vdev v from fun _ => rfl]
  split
  · obtain ⟨f, u, e, e'⟩ | ⟨x, u, e, e'⟩ := (stage2With hread (s.vdev (impVdev (s.importOf window))).s2tb
      (d64 (impBase (s.importOf window) + offset)) kind (impBase (s.importOf window) + offset)).got s ws
    · rw [e, e']
    · rw [e, e']
      rfl
  · rfl

theorem gateWith (va : Dword) (pa n mt : Nat) (kind : AKind) (big : Bool) :
    Warpless fun s => s.gateWith read va pa n mt kind big := by
  refine ⟨fun s ws => ?_⟩
  simp only [State.gateWith]
  rw [show ∀ w, (s.withWarps ws).stubbed w = s.stubbed w from fun _ => rfl,
    show ∀ k, (s.withWarps ws).keyOf k = s.keyOf k from fun _ => rfl]
  split
  · rw [(ingressWith hread ..).blind]
    rcases s.ingressWith read _ _ _ _ _ _ _ with ⟨_ | lp, u⟩ <;> rfl
  · rw [(choose _).blind]
    dsimp only
    split <;> rfl

end

/-- A read of an entry by the walker, through the gates of the fabric as deep as they go. -/
theorem walkRead (depth stage level : Nat) (va ia : Dword) (mt pa : Nat) :
    Warpless fun s => State.walkRead depth stage level va ia mt s pa := by
  have entry : ∀ pa, Warpless fun s => ((Except.ok (s.entryBytes pa).1 : Except MemFault Nat), (s.entryBytes pa).2) :=
    fun pa => map (f := State.entryBytes) (entryBytes pa) Except.ok
  induction depth generalizing stage level ia mt pa with
  | zero =>
    refine ⟨fun s ws => ?_⟩
    unfold State.walkRead
    rw [show (s.withWarps ws).targetFault pa 8 mt .read false = s.targetFault pa 8 mt .read false from rfl]
    split
    · rfl
    · exact (branch (const _) (entry pa)).blind s ws
  | succ n ih =>
    refine ⟨fun s ws => ?_⟩
    unfold State.walkRead
    rw [show (s.withWarps ws).targetFault pa 8 mt .read false = s.targetFault pa 8 mt .read false from rfl]
    split
    · rfl
    · split
      · obtain ⟨f, u, e, e'⟩ | ⟨lp, u, e, e'⟩ := (gateWith (read := fun s l a => State.walkRead n 2 l va ia 0 s a)
          (fun l a => ih 2 l ia 0 a) va pa 8 mt .read false).got s ws
        · dsimp only
          rw [e, e']
        · dsimp only
          rw [e, e']
          exact (entry lp.1).blind u ws
      · exact (entry pa).blind s ws

theorem stage2 (root va : Dword) (kind : AKind) (a : Nat) : Warpless fun s => s.stage2 root va kind a :=
  stage2With (fun _ _ => walkRead ..) ..

theorem stage1 (ttb s2 va : Dword) (kind : AKind) (a : Nat) : Warpless fun s => s.stage1 ttb s2 va kind a := by
  unfold State.stage1
  refine branch (branch (const _) (walk (fun level ta => ?_) ..)) (const _)
  refine ⟨fun s ws => ?_⟩
  obtain ⟨f, u, e, e'⟩ | ⟨l, u, e, e'⟩ := (stage2 s2 va .read ta).got s ws
  · rw [e, e']
  · rw [e, e']
    exact (walkRead ..).blind u ws

theorem walkBoth (ttb s2 va : Dword) (kind : AKind) : Warpless fun s => s.walkBoth ttb s2 va kind := by
  refine ⟨fun s ws => ?_⟩
  unfold State.walkBoth
  obtain ⟨f, u, e, e'⟩ | ⟨l, u, e, e'⟩ := (stage1 ttb s2 va kind va.toNat).got s ws
  · rw [e, e']
  · rw [e, e']
    obtain ⟨f, v, e, e'⟩ | ⟨l', v, e, e'⟩ := (stage2 s2 va kind l.pa).got u ws
    · dsimp only
      rw [e, e']
    · dsimp only
      rw [e, e']

theorem tlbFill (s : State) (ws : Tab Warp) (c v x va : Nat) (l : Leaf) :
    (s.withWarps ws).tlbFill c v x va l = (s.tlbFill c v x va l).withWarps ws := by
  unfold State.tlbFill
  split <;> rfl

/-- A translation for a core (R182). -/
theorem translateFor (c v x : Nat) (va : Dword) (kind : AKind) (again : Bool) :
    Warpless fun s => s.translateFor c v x va kind again := by
  refine ⟨fun s ws => ?_⟩
  unfold State.translateFor
  rw [show ∀ a k, (s.withWarps ws).tlbHits c v x a k = s.tlbHits c v x a k from fun _ _ => rfl,
    show (s.withWarps ws).roots c v x = s.roots c v x from rfl]
  by_cases hva : va.toNat ≥ 2 ^ 48
  · rw [if_pos hva, if_pos hva]
  · rw [if_neg hva, if_neg hva]
    dsimp only
    generalize (if again then [] else s.tlbHits c v x va.toNat kind) = hits
    rw [((const 0).branch (choose (hits.length + 1)) (c := hits.isEmpty)).blind]
    generalize (if hits.isEmpty then (0, s) else s.choose (hits.length + 1)) = pick
    dsimp only
    cases hits[pick.1]? with
    | some y => rfl
    | none =>
      dsimp only
      obtain ⟨f, u, e, e'⟩ | ⟨l, u, e, e'⟩ := (walkBoth (s.roots c v x).1 (s.roots c v x).2 va kind).got pick.2 ws
      · rw [e, e']
      · rw [e, e']
        dsimp only
        rw [tlbFill]

theorem reach (va : Dword) (pa n mt : Nat) (kind : AKind) (big : Bool) : Warpless fun s => s.reach va pa n mt kind big := by
  refine ⟨fun s ws => ?_⟩
  unfold State.reach
  rw [show (s.withWarps ws).targetFault pa n mt kind big = s.targetFault pa n mt kind big from rfl]
  split
  · rfl
  · exact (branch (gateWith (fun _ _ => walkRead ..) ..) (const _)).blind s ws

theorem translate (t : Nat) (va : Dword) (n : Nat) (kind : AKind) (big : Bool) :
    Warpless fun s => s.translate t va n kind big := by
  refine ⟨fun s ws => ?_⟩
  unfold State.translate
  rw [show (s.withWarps ws).tagOf t = s.tagOf t from rfl, show (s.withWarps ws).thr t = s.thr t from rfl]
  obtain ⟨f, u, e, e'⟩ | ⟨l, u, e, e'⟩ := (translateFor (coreOf t) (s.tagOf t).1 (s.tagOf t).2 va kind
    (false || (s.thr t).again)).got s ws
  · rw [e, e']
  · rw [e, e']
    exact (reach ..).blind u ws

theorem fetchRead (p : Nat × Nat) : Warpless fun s =>
    if targetOf p.1 = .fabric then (Except.ok s.anyWord.1, s.anyWord.2)
    else ((Except.ok (BitVec.ofNat 32 (natOfBytes (s.bytesAt p.1 4))) : Except MemFault Word), s) :=
  branch (freely fun n => Except.ok (Config.freeWord n))
    (page fun s ws => by rw [bytesAt])

/-- A fetch of a thread (R43). -/
theorem fetch (t a : Nat) : Warpless fun s => s.fetch t a := by
  have place : Warpless fun s => s.fetchPlace t a := by
    unfold State.fetchPlace
    exact branch (branch (const _) (reach ..)) (translate ..)
  refine ⟨fun s ws => ?_⟩
  unfold State.fetch
  obtain ⟨f, u, e, e'⟩ | ⟨p, u, e, e'⟩ := place.got s ws
  · rw [e, e']
  · rw [e, e']
    exact (fetchRead p).blind u ws

end Warpless

/-- Whether a target fails is read from no warp. -/
theorem State.badTarget_withWarps (s : State) (ws : Tab Warp) (t : Nat) (x : Dword) :
    (s.withWarps ws).badTarget t x = s.badTarget t x := by
  unfold State.badTarget
  rw [(Warpless.fetch ..).blind]

end Sys2Proof.Machine

namespace Sys2Proof.Machine

/-! # A word that acts for one thread, on the clause in progress -/

section

variable {s u : State} {i : Issue} {sc : Scope} {p lits t : Nat} {k : Issue → State → Nat → Ran} {f : MemFault}

theorem onIssue_one_ran (hi : s.issue = some i) (ha : s.actors i sc p = [t]) (hk : k i s t = ran u) :
    onIssue s (fun i => s.eachOr i sc p lits (k i)) = .next u :=
  (onIssue_some _ _ _ hi).trans (congrArg Host.Outcome.next (State.eachOr_one_ran ha hk))

/-- A fault that neither parks nor has a DETAIL, of the one thread that acts (R342). -/
theorem onIssue_one_fault (hi : s.issue = some i) (ha : s.actors i sc p = [t]) (hk : k i s t = ranBad s f)
    (hf : f.parks = false) :
    onIssue s (fun i => s.eachOr i sc p lits (k i)) =
      .next (s.raise (if sc = .lane then [t] else i.group) i.faultAt f (some (i.here lits))) := by
  refine (onIssue_some _ _ _ hi).trans (congrArg Host.Outcome.next ((State.eachOr_one_fault ha hk rfl).trans ?_))
  rw [hf]
  rfl

end

/-! # Masks -/

theorem mem_maskBits {m n k : Nat} : k ∈ maskBits m n ↔ k < n ∧ m.testBit k = true := by
  simp [maskBits, bitOf, Nat.testBit_eq_decide_div_mod_eq]

theorem maskBits_nodup (m n : Nat) : (maskBits m n).Nodup := List.nodup_range.filter _

theorem testBit_maskOf (l : List Nat) (b : Nat) : (maskOf l).testBit b = decide (b ∈ l) := by
  suffices H : ∀ m, (l.foldl (fun m i => m ||| 2 ^ i) m).testBit b = (m.testBit b || decide (b ∈ l)) by
    simpa [maskOf] using H 0
  induction l with
  | nil => simp
  | cons i l ih =>
    intro m
    rw [List.foldl_cons, ih]
    simp [Nat.testBit_two_pow, Bool.or_assoc, eq_comm]

/-! # Release tests of a join register (R115) -/

/-- The threads whose bits a join register of a warp has set. -/
def State.joined (s : State) (w n : Nat) : List Nat :=
  (maskBits ((s.warp w).j.get n 0).toNat 32).map fun l => w * 32 + l

section

variable {s : State} {w n : Nat}

theorem State.mem_joined {t : Nat} :
    t ∈ s.joined w n ↔ ∃ b, b < 32 ∧ ((s.warp w).j.get n 0).getLsbD b = true ∧ w * 32 + b = t := by
  simp only [State.joined, List.mem_map, mem_maskBits, and_assoc, BitVec.getLsbD]

theorem State.joined_nodup (s : State) (w n : Nat) : (s.joined w n).Nodup :=
  (maskBits_nodup ..).map fun _ _ h => Nat.add_left_cancel h

theorem State.joined_ne_nil (h : (s.warp w).j.get n 0 ≠ 0) : s.joined w n ≠ [] := by
  intro he
  refine h (BitVec.eq_of_getLsbD_eq fun b hb => ?_)
  by_contra hbit
  have hmem : w * 32 + b ∈ s.joined w n := State.mem_joined.mpr ⟨b, hb, by simpa using hbit, rfl⟩
  simp [he] at hmem

/-- All threads of the mask are held at the register: all of them are released. -/
theorem State.joinTest_releases (h0 : s.joined w n ≠ []) (h : ∀ t ∈ s.joined w n, s.heldAt n t = true) :
    s.joinTest w n = s.modThrs (s.joined w n) fun th => { th with jwait := th.jwait.filter fun k => k ≠ n } := by
  have hall : (!(s.joined w n).isEmpty && (s.joined w n).all (s.heldAt n)) = true := by
    simp [h0]
    exact h
  exact if_pos hall

/-- While one of the mask's threads is not held there, nothing is released. -/
theorem State.joinTest_waits {t : Nat} (ht : t ∈ s.joined w n) (h : s.heldAt n t = false) : s.joinTest w n = s := by
  refine if_neg fun hall => ?_
  have hheld := List.all_eq_true.mp (Bool.and_eq_true_iff.mp hall).2 t ht
  simp [h] at hheld

theorem State.joinTest_threads (s : State) (w n : Nat) : s.joinTest w n = s.withThreads (s.joinTest w n).threads := by
  unfold State.joinTest
  extract_lets
  split
  · exact State.modThrs_eq ..
  · rfl

/-- Release tests change only threads. -/
theorem State.joinLeave_threads (s : State) (t : Nat) (list : List Nat) :
    s.joinLeave t list = (s.unjoin t list).withThreads (s.joinLeave t list).threads :=
  List.foldlRecOn (motive := fun u : State => u = (s.unjoin t list).withThreads u.threads) list _ rfl fun u h n _ => by
    have hu := u.joinTest_threads (warpKeyOf t) n
    generalize (u.joinTest (warpKeyOf t) n).threads = th at hu
    rw [hu, h]
    rfl

end

/-! # Bits of join registers cleared -/

/-- Clearing bits of join registers leaves every uniform register. -/
theorem State.warp_unjoin_s (s : State) (t : Nat) (list : List Nat) (k : Nat) :
    ((s.unjoin t list).warp k).s = (s.warp k).s :=
  List.foldlRecOn (motive := fun u : State => (u.warp k).s = (s.warp k).s) list _ rfl fun u h n _ => by
    rw [State.warp_modWarp]
    split
    · next e => exact e ▸ h
    · exact h

/-- Whether a target fails does not change where a thread leaves join registers. -/
theorem State.badTarget_joinLeave (s : State) (t : Nat) (list : List Nat) (x : Dword) :
    (s.joinLeave t list).badTarget t x = s.badTarget t x := by
  have hagain : ((s.joinLeave t list).thr t).again = ((s.unjoin t list).thr t).again :=
    (s.alike_joinLeave t list).field Thread.again (fun _ => rfl) t
  rw [State.joinLeave_threads] at hagain ⊢
  rw [State.badTarget_withThreads hagain, State.unjoin_eq]
  exact State.badTarget_withWarps ..

theorem State.joinWait_clear {s : State} {t n : Nat}
    (h : ((s.warp (warpKeyOf t)).j.get n 0).getLsbD (laneOf t) = false) : s.joinWait t n = s :=
  if_neg (Bool.eq_false_iff.mp h)

theorem State.joinWait_set {s : State} {t n : Nat}
    (h : ((s.warp (warpKeyOf t)).j.get n 0).getLsbD (laneOf t) = true) :
    s.joinWait t n = s.modThr t fun th => { th with jwait := th.jwait ++ [n] } := if_pos h

/-- The mask that JINIT stores has the bits of the live lanes (R146). -/
theorem State.getLsbD_liveMask (s : State) (w b : Nat) (hb : b < 32) :
    (w32n (maskOf ((s.liveOf w).map laneOf))).getLsbD b = (s.thr (w * 32 + b)).live := by
  have hlane : ∀ l, l < 32 → laneOf (w * 32 + l) = l := fun l hl => by
    simp only [laneOf]; omega
  have hmem : b ∈ (s.liveOf w).map laneOf ↔ (s.thr (w * 32 + b)).live = true := by
    simp only [State.liveOf, List.mem_map, List.mem_filter, List.mem_range]
    constructor
    · rintro ⟨_, ⟨⟨l, hl, rfl⟩, hlive⟩, rfl⟩
      rwa [hlane l hl]
    · exact fun hlive => ⟨_, ⟨⟨b, hb, rfl⟩, hlive⟩, hlane b hb⟩
  rw [w32n, BitVec.getLsbD_ofNat, testBit_maskOf]
  simp [hb, hmem]

/-- The address of a target (R29). -/
theorem setWidth_target (i : Issue) (off : Int) :
    (i.target off).setWidth 48 = BitVec.ofInt 48 (i.hdr.toNat + 4 * off) := by
  apply BitVec.eq_of_toNat_eq
  simp only [Issue.target, BitVec.toNat_setWidth, BitVec.toNat_ofInt]
  omega

end Sys2Proof.Machine

namespace Sys2Proof.Claims

open Sys2Proof.Machine

theorem sameBytes_joinLeave (s : State) (t : Nat) (list : List Nat) : SameBytes s (s.joinLeave t list) := fun a =>
  ((s.alike_joinLeave t list).byteAt a).trans (s.byteAt_unjoin t list a)

theorem sameRegs_joinLeave (s : State) (t : Nat) (list : List Nat) : SameRegs s (s.joinLeave t list) := fun k c =>
  (sameRegs_alike (s.alike_joinLeave t list) (fun _ => rfl) k c).trans (by
    simp only [State.reg, State.thr_unjoin, State.warp_unjoin_s])

end Sys2Proof.Claims

namespace Sys2Proof.Machine

/-- Settles O7. -/
theorem joinMasks : Obligations.JoinMasks := by
  refine ⟨fun s w n => ⟨fun h0 hheld b hb hbit => ?released, fun b hb hbit hheld =>
    State.joinTest_waits (State.mem_joined.mpr ⟨b, hb, hbit, rfl⟩) hheld⟩, fun s i sc d l p lit t hi => ?words⟩
  case released =>
    have hall : ∀ t ∈ s.joined w n, s.heldAt n t = true := fun t ht => by
      obtain ⟨b, hb, hbit, rfl⟩ := State.mem_joined.mp ht
      exact hheld b hb hbit
    rw [State.joinTest_releases (State.joined_ne_nil h0) hall, State.modThrs_thr _ _ _ (s.joined_nodup w n),
      if_pos (State.mem_joined.mpr ⟨b, hb, hbit, rfl⟩)]
    simp
  case words =>
    intro w mask
    have one {q lits k u} := onIssue_one_ran (s := s) (sc := sc) (p := q) (lits := lits) (t := t) (k := k) (u := u) hi.1
    refine ⟨fun ha => ⟨⟨_, one ha rfl, rfl, fun k hk => ?other, fun n hn => ?register, fun b hb => ?lives⟩,
        fun h => ?clear, fun h => ?set, fun hb => ?brk⟩,
      fun ha => ⟨_, one ha rfl, Claims.sameBytes_joinLeave s t _, Claims.sameRegs_joinLeave s t _, fun n hn hl => ?leaves⟩⟩
    case other => rw [State.warp_modWarp, if_neg hk]
    case register =>
      show Tab.get ((State.modWarp s w _).warp w).j n 0 = _
      rw [State.warp_modWarp, if_pos rfl]
      exact Tab.get_put_ne _ _ _ hn
    case lives =>
      show (Tab.get ((State.modWarp s w _).warp w).j d.toNat 0).getLsbD b = _
      rw [State.warp_modWarp, if_pos rfl]
      dsimp only
      rw [Tab.get_put_same]
      exact s.getLsbD_liveMask w b hb
    case clear => exact one ha (congrArg ran (State.joinWait_clear h))
    case set => exact one ha (congrArg ran (State.joinWait_set h))
    case brk =>
      have hstays : s.badTarget t (i.target lit.toInt) = false := hb
      have hgood : (s.joinLeave t (maskBits l.toNat 8)).badTarget t (i.target lit.toInt) = false :=
        (s.badTarget_joinLeave ..).trans hb
      refine one ha ?_
      simp only [hstays, Bool.false_eq_true, if_false]
      rw [State.transfer_good hgood]
      unfold Thread.headed
      rw [setWidth_target]
    case leaves =>
      have hw : (s.joinLeave t (maskBits l.toNat 8)).warps = (s.unjoin t (maskBits l.toNat 8)).warps :=
        (s.alike_joinLeave ..).warps
      show (Tab.get (State.warp _ w).j n 0).getLsbD _ = _
      simp only [State.warp, hw]
      exact s.unjoin_bit t _ (.inl (mem_maskBits.mpr ⟨hn, hl⟩))

end Sys2Proof.Machine

namespace Sys2Proof.Machine

open Sys2Proof.Claims

/-! # Barriers and their members (R117, R118) -/

section

variable {s t : State} (hb : t.blocks = s.blocks) (hw : t.warps = s.warps) (hl : t.launches = s.launches)
  (hlive : ∀ k, (t.thr k).live = (s.thr k).live)

include hb hw hl hlive

/-- A barrier's members are found from the blocks, the warps, the launches and which threads live. -/
theorem State.barMembers_congr (c b : Nat) : t.barMembers c b = s.barMembers c b := by
  have hblock : ∀ c, t.block c = s.block c := fun c => by simp only [State.block, hb]
  have hwarp : ∀ w, t.warp w = s.warp w := fun w => by simp only [State.warp, hw]
  have hof : ∀ w, t.liveOf w = s.liveOf w := fun w => by simp only [State.liveOf, hlive]
  have hlaunch : ∀ l, t.launch? l = s.launch? l := fun l => by simp only [State.launch?, hl]
  have hcores : ∀ l cl, t.coresOfCluster l cl = s.coresOfCluster l cl := fun l cl => by
    have hcluster : (fun c => decide ((t.block c).cluster = cl)) = fun c => decide ((s.block c).cluster = cl) :=
      funext fun c => by rw [hblock]
    simp only [State.coresOfCluster, hlaunch, hcluster]
  have hmember : ∀ w, t.barMember w b = s.barMember w b := fun w => by simp only [State.barMember, hwarp, hblock]
  have hwarps : ∀ c, t.blockWarps c = s.blockWarps c := fun c => by simp only [State.blockWarps, hwarp, hblock]
  simp only [State.barMembers, hblock, hlaunch, hcores, hwarps, hmember, hof]

theorem State.barrier_congr (c b : Nat) : t.barrier c b = s.barrier c b := by
  have hblock : ∀ c, t.block c = s.block c := fun c => by simp only [State.block, hb]
  simp only [State.barrier, State.launch?, hl, hblock, State.barMembers_congr hb hw hl hlive]

end

theorem State.barrier_modThr (s : State) (t : Nat) {f : Thread → Thread} (hf : ∀ x, (f x).live = x.live) (c b : Nat) :
    (s.modThr t f).barrier c b = s.barrier c b := by
  refine State.barrier_congr (s := s) (t := s.modThr t f) rfl rfl rfl (fun k => ?_) c b
  rw [State.thr_modThr]
  split
  · next h => rw [hf, h]
  · rfl

/-- A core barrier reads back as it was stored, whatever the threads become. -/
theorem State.barrier_setBarrier_withThreads (s : State) (c : Nat) {b : Nat} (x : Barrier) (h : b < 16) (th : Tab Thread) :
    ((s.setBarrier c b x).withThreads th).barrier c b = x := by
  have hblock : ((s.setBarrier c b x).withThreads th).block c = { s.block c with bars := (s.block c).bars.put b x } := by
    simp only [State.setBarrier, h, if_true]
    show (s.modBlock c fun bk => { bk with bars := bk.bars.put b x }).block c = _
    rw [State.block_modBlock, if_pos rfl]
  simp only [State.barrier, h, if_true, hblock, Tab.find_put_same]

theorem State.barrier_setBarrier (s : State) (c : Nat) {b : Nat} (x : Barrier) (h : b < 16) :
    (s.setBarrier c b x).barrier c b = x := s.barrier_setBarrier_withThreads c x h (s.setBarrier c b x).threads

theorem State.thr_setBarrier (s : State) (c : Nat) {b : Nat} (x : Barrier) (h : b < 16) (k : Nat) :
    (s.setBarrier c b x).thr k = s.thr k := by
  simp only [State.setBarrier, h, if_true]
  rfl

/-! # Arrivals (R118, R150) -/

/-- Below the expected count no phase completes. -/
theorem State.barTest_pending {s : State} {c b : Nat} (h : (s.barrier c b).count < (s.barrier c b).expected) (fuel : Nat) :
    s.barTest c b fuel = s := by
  cases fuel with
  | zero => rfl
  | succ fuel => simp [State.barTest, Nat.not_le.mpr h]

/-- A thread that has arrived at a barrier in a phase. -/
def Thread.arrived (b ph : Nat) (sync : Bool) (th : Thread) : Thread :=
  { th with arr := th.arr.put b ph, bwait := if sync then th.bwait ++ [(b, ph)] else th.bwait }

section

variable {s : State} {t n : Nat}

/-- A first arrival that does not complete the phase. -/
theorem State.barArrive_counts (sync : Bool) (hn : n < 16)
    (hw : (s.crossing t || (s.waitsOf t).any fun a => a.acc.beforeArrival) = false)
    (ha : (s.thr t).arr.find n ≠ some (s.barrier (coreOf t) n).phase)
    (hc : (s.barrier (coreOf t) n).count + 1 < (s.barrier (coreOf t) n).expected) :
    s.barArrive t n sync = s.countArrival t n sync := by
  have hbar : (s.countArrival t n sync).barrier (coreOf t) n =
      { s.barrier (coreOf t) n with count := (s.barrier (coreOf t) n).count + 1 } := State.barrier_setBarrier _ _ _ hn
  simp only [State.barArrive, hw, Bool.false_eq_true, if_false, State.arriveNow, ha]
  exact State.barTest_pending (by rw [hbar]; exact hc) _

/-- What an arrival that is counted leaves. -/
theorem State.countArrival_spec (s : State) (t : Nat) {n : Nat} (sync : Bool) (hn : n < 16) :
    (s.countArrival t n sync).barrier (coreOf t) n =
        { s.barrier (coreOf t) n with count := (s.barrier (coreOf t) n).count + 1 } ∧
      ((s.countArrival t n sync).thr t).bwait =
        (if sync then (s.thr t).bwait ++ [(n, (s.barrier (coreOf t) n).phase)] else (s.thr t).bwait) ∧
      ((s.countArrival t n sync).thr t).arr.find n = some (s.barrier (coreOf t) n).phase ∧
      SameBytes s (s.countArrival t n sync) ∧ SameRegs s (s.countArrival t n sync) := by
  have hthr : (s.countArrival t n sync).thr t = Thread.arrived n (s.barrier (coreOf t) n).phase sync
      ((s.releaseObj t (s.barKey (coreOf t) n) ((s.barrier (coreOf t) n).phase + 1)).thr t) := by
    unfold State.countArrival
    rw [State.thr_setBarrier _ _ _ hn, State.thr_modThr_same]
    rfl
  have hrel : ∀ obj pos, ((s.releaseObj t obj pos).thr t).bwait = (s.thr t).bwait := fun obj pos => by
    show ((s.dropPending t obj).thr t).bwait = _
    rw [State.dropPending, State.thr_modThr_same]
  have halike := s.alike_countArrival t n sync
  refine ⟨State.barrier_setBarrier _ _ _ hn, ?_, ?_, sameBytes_alike halike, sameRegs_alike halike fun _ => rfl⟩
  · rw [hthr, Thread.arrived, hrel]
  · rw [hthr]
    exact Tab.find_put_same ..

/-- A thread with an access more that waits. -/
def Thread.deferring (a : Access) (th : Thread) : Thread := { th with deferred := th.deferred ++ [a] }

/-- An arrival behind what must be performed before it waits with it (R195, R198, R217). -/
theorem State.barArrive_waits {sync : Bool}
    (hw : (s.crossing t || (s.waitsOf t).any fun a => a.acc.beforeArrival) = true) :
    ∃ a, s.barArrive t n sync =
      { s.modThr t (Thread.deferring a) with nextOp := s.nextOp + 1 } :=
  ⟨_, if_pos hw⟩

/-- BAR.WAIT after an arrival of the pending phase holds the thread (R118). -/
theorem State.barWait_pending (ha : (s.thr t).arr.find n = some (s.barrier (coreOf t) n).phase)
    (hd : (s.thr t).arriving n = false) (hr : ((s.thr t).rearm.all fun r => r.1 ≠ n) = true) :
    s.barWait t n = s.modThr t fun th => { th with bwait := th.bwait ++ [(n, (s.barrier (coreOf t) n).phase)] } := by
  have hr' : ((s.thr t).rearm.any fun r => r.1 = n) = false := by
    simpa using hr
  simp [State.barWait, hd, hr', ha]

end

/-! # BAR.INIT (R120, R151) -/

/-- A thread with its vector registers alone. -/
def Thread.regsOnly (th : Thread) : Thread := { Thread.empty with v := th.v }

theorem State.alike_barInit (s : State) (c b : Nat) : s.Alike Thread.regsOnly (s.barInit c b) := by
  unfold State.barInit
  extract_lets ts obj u
  have hu : s.Alike Thread.regsOnly u := .modThrs fun _ => rfl
  have hfold : u.Alike Thread.regsOnly (u.foldReleases obj) := .ofThreads rfl rfl
  exact (hu.trans hfold).trans (State.alike_setBarrier ..)

end Sys2Proof.Machine

namespace Sys2Proof.Claims

open Sys2Proof.Machine

/-- A word of a barrier, for the one thread of its group. -/
theorem barWord_one {s : State} {i : Issue} {sc : Scope} {t n : Nat} {k : State → Nat → State} (hi : Setting s i)
    (hg : i.group = [t]) (hn : n < 28) (hm : s.barMember t n = true) : barWord sc n k s = .next (k s t) := by
  refine (onIssue_some _ _ _ hi.1).trans (congrArg Host.Outcome.next (State.eachMember_one_ran hg ?_))
  simp [hn, hm]

/-- A number that names no barrier, or a barrier that the thread's warp is no member of, is ILLEGAL_OP (R150). -/
theorem barWord_one_illegal {s : State} {i : Issue} {sc : Scope} {t n : Nat} {k : State → Nat → State} (hi : Setting s i)
    (hg : i.group = [t]) (h : 28 ≤ n ∨ s.barMember t n = false) : barWord sc n k s =
      .next (s.raise [t] i.faultAt (plainFault clsIllegalOp) (some (i.here 0))) := by
  have hno : (decide (n < 28) && s.barMember t n) = false := by
    rcases h with h | h
    · simp [Nat.not_lt.mpr h]
    · simp [h]
  refine (onIssue_some _ _ _ hi.1).trans (congrArg Host.Outcome.next ?_)
  simp only [State.eachMember, hg]
  rw [State.runAll_one_fault (u := s) (f := plainFault clsIllegalOp) (x := 0) (by simp only [hno]; rfl) rfl]
  exact State.raiseMany_one.trans (by rw [hg, ite_self]; rfl)

theorem hardwareBarriers : HardwareBarriers := by
  intro s i sc b t hi hg n x waits illegal
  have self : (if sc = .lane then [t] else i.group) = [t] := by rw [hg, ite_self]
  refine ⟨fun h => ⟨barWord_one_illegal hi hg h, barWord_one_illegal hi hg h, barWord_one_illegal hi hg h⟩,
    fun hn hm hw => ?behind, fun hn hm hw ha hc => ?counts, fun hn hm ha hd hr => ?wait,
    fun ha => ⟨fun hn => ?noCore, fun hn => ?init⟩⟩
  case behind =>
    obtain ⟨a, he⟩ := State.barArrive_waits (n := n) (sync := false) hw
    refine ⟨_, (barWord_one hi hg hn hm).trans (congrArg Host.Outcome.next he), ?_,
      fun _ => rfl, fun k c => ?_, ?_⟩
    · exact s.barrier_modThr t (f := Thread.deferring a) (fun _ => rfl) (coreOf t) n
    · exact sameRegs_alike (s := s) (State.Alike.modThr (f := Thread.regsOnly) (g := Thread.deferring a) fun _ => rfl)
        (fun _ => rfl) k c
    · show ((s.modThr t (Thread.deferring a)).thr t).deferred.length = _
      rw [State.thr_modThr_same]
      exact List.length_append
  case counts =>
    have hlt : n < 28 := by omega
    obtain ⟨hbar, hbwait, harr, hbytes, hregs⟩ := s.countArrival_spec t false hn
    obtain ⟨hbar', hbwait', -, hbytes', hregs'⟩ := s.countArrival_spec t true hn
    exact ⟨⟨_, (barWord_one hi hg hlt hm).trans (congrArg Host.Outcome.next (State.barArrive_counts false hn hw ha hc)),
        hbar, hbwait, harr, hbytes, hregs⟩,
      ⟨_, (barWord_one hi hg hlt hm).trans (congrArg Host.Outcome.next (State.barArrive_counts true hn hw ha hc)),
        hbar', hbwait', hbytes', hregs'⟩⟩
  case wait =>
    exact (barWord_one hi hg hn hm).trans (congrArg Host.Outcome.next (State.barWait_pending ha hd hr))
  case noCore =>
    refine (onIssue_one_fault hi.1 ha (if_neg (Nat.not_lt.mpr hn)) rfl).trans ?_
    rw [self]
  case init =>
    have halike := s.alike_barInit (coreOf t) n
    exact ⟨_, onIssue_one_ran hi.1 ha (if_pos hn), sameBytes_alike halike, sameRegs_alike halike fun _ => rfl,
      State.barrier_setBarrier _ _ _ hn⟩

end Sys2Proof.Claims

namespace Sys2Proof.Machine

/-! # The last arrival of a phase (R118) -/

/-- A thread without what its acquisitions show it. -/
def Thread.unseen (th : Thread) : Thread := { th with seen := [], covered := [] }

theorem State.unseen_acquire (s : State) (t obj upto mask : Nat) : s.Alike Thread.unseen (s.acquire t obj upto mask) := by
  unfold State.acquire
  exact .modThr fun _ => rfl

/-- From one state to another some threads are released from a phase of a barrier: only threads change, none of them in
its second arrivals, and none is held at more. -/
structure State.Released (b ph : Nat) (ts : List Nat) (s u : State) : Prop where
  rest : u = s.withThreads u.threads
  rearm : ∀ k, (u.thr k).rearm = (s.thr k).rearm
  fewer : ∀ k, (u.thr k).bwait ⊆ (s.thr k).bwait
  gone : ∀ k ∈ ts, (b, ph) ∉ (u.thr k).bwait

theorem State.Released.snoc {b ph : Nat} {ts : List Nat} {t : Nat} {s u v : State} (h : s.Released b ph ts u)
    (h' : u.Released b ph [t] v) : s.Released b ph (ts ++ [t]) v where
  rest := h'.rest.trans (by rw [h.rest]; rfl)
  rearm k := (h'.rearm k).trans (h.rearm k)
  fewer k _ hm := h.fewer k (h'.fewer k hm)
  gone k hk := by
    rcases List.mem_append.mp hk with hk | hk
    · exact fun hm => h.gone k hk (h'.fewer k hm)
    · exact h'.gone k hk

theorem State.released_barRelease (s : State) (b ph t : Nat) : s.Released b ph [t] (s.barRelease b ph t) := by
  unfold State.barRelease
  extract_lets th u
  split
  · have halike := u.unseen_acquire t (u.barKey (coreOf t) b) (ph + 1) maskDefault
    have hbwait : ∀ k, ((u.acquire t (u.barKey (coreOf t) b) (ph + 1) maskDefault).thr k).bwait =
        if k = t then (s.thr k).bwait.filter fun p => p ≠ (b, ph) else (s.thr k).bwait := fun k => by
      rw [halike.field Thread.bwait (fun _ => rfl), State.thr_modThr]
      by_cases hk : k = t
      · subst hk; simp
      · simp [hk]
    refine ⟨rfl, fun k => ?_, fun k => ?_, fun k hk => ?_⟩
    · rw [halike.field Thread.rearm (fun _ => rfl), State.thr_modThr]
      split <;> simp [*]
    · rw [hbwait]
      split
      · exact List.filter_subset_self _
      · exact List.Subset.refl _
    · rw [hbwait, if_pos (List.mem_singleton.mp hk)]
      simp
  · next h =>
    refine ⟨rfl, fun _ => rfl, fun _ => List.Subset.refl _, fun k hk => ?_⟩
    rw [List.mem_singleton.mp hk]
    simpa using h

theorem State.released_all (s : State) (b ph : Nat) (ts : List Nat) :
    s.Released b ph ts (ts.foldl (fun s t => s.barRelease b ph t) s) := by
  suffices H : ∀ us u, s.Released b ph us u →
      s.Released b ph (us ++ ts) (ts.foldl (fun s t => s.barRelease b ph t) u) from
    H [] s ⟨rfl, fun _ => rfl, fun _ => List.Subset.refl _, fun _ h => by simp at h⟩
  induction ts with
  | nil => exact fun us u h => by simpa using h
  | cons t ts ih =>
    intro us u h
    have := ih (us ++ [t]) _ (h.snoc (u.released_barRelease b ph t))
    simpa using this

/-- A thread with no second arrival makes none. -/
theorem State.rearmed_none {s : State} {t b : Nat} (h : (s.thr t).rearm = []) : s.rearmed t b = s := by
  simp [State.rearmed, h]

end Sys2Proof.Machine

namespace Sys2Proof.Claims

open Sys2Proof.Machine

theorem theLastArrivalCompletesThePhase : TheLastArrivalCompletesThePhase := by
  intro s c b hb x hpos hle hrearm r
  let next : Barrier := { phase := (x.phase + 1) % 2 ^ 32, count := 0, expected := x.later, later := x.later }
  have hrel := (s.setBarrier c b next).released_all b x.phase (s.barMembers c b)
  have hr : r = (s.barMembers c b).foldl (fun s t => s.barRelease b x.phase t) (s.setBarrier c b next) := by
    have hdone : (decide (0 < x.count) && decide (x.count ≥ x.expected)) = true := by simp [hpos, hle]
    refine (if_pos hdone).trans ?_
    refine List.foldlRecOn (motive := fun u => u = (s.barMembers c b).foldl (fun s t => s.barRelease b x.phase t)
      (s.setBarrier c b next)) (s.barMembers c b) _ rfl fun u h t ht => ?_
    rw [h, State.rearmed_none]
    rw [hrel.rearm, State.thr_setBarrier _ _ _ hb]
    exact hrearm t ht
  rw [hr]
  refine ⟨?_, hrel.gone⟩
  rw [hrel.rest]
  exact s.barrier_setBarrier_withThreads c next hb _

end Sys2Proof.Claims

namespace Sys2Proof.Machine

/-- Settles O36. -/
theorem barriersAndTheirPhases : Obligations.BarriersAndTheirPhases :=
  ⟨Claims.hardwareBarriers, Claims.theLastArrivalCompletesThePhase⟩

end Sys2Proof.Machine

namespace Sys2Proof.Machine

open Sys2Proof.Claims

/-! # Tables mapped and filtered -/

theorem Tab.find_mapVal {α : Type} (t : Tab α) (g : α → α) (k : Nat) :
    Tab.find (t.map fun e => (e.1, g e.2)) k = (Tab.find t k).map g := by
  induction t with
  | nil => rfl
  | cons e r ih =>
    simp only [List.map_cons, Tab.find, ih]
    split <;> rfl

/-- A table of the keys below a bound alone. -/
theorem Tab.get_filterBelow {α : Type} (t : Tab α) (q k : Nat) (d : α) :
    Tab.get (t.filter fun e => e.1 < q) k d = if k < q then Tab.get t k d else d := by
  suffices H : Tab.find (t.filter fun e => e.1 < q) k = if k < q then Tab.find t k else none by
    simp only [Tab.get, H]
    split <;> rfl
  induction t with
  | nil => simp
  | cons e r ih =>
    obtain ⟨a, x⟩ := e
    by_cases ha : a < q
    · simp only [List.filter_cons, ha, decide_true, if_true, Tab.find, ih]
      split
      · next h => rw [if_pos (h ▸ ha)]
      · rfl
    · simp only [List.filter_cons, ha, decide_false, Bool.false_eq_true, if_false, Tab.find, ih]
      split
      · split
        · next hk h => exact absurd (h ▸ hk) ha
        · rfl
      · rfl

/-! # Quotas (R113, R114) -/

/-- A thread of a warp whose quota falls loses its registers at or above it (R114). -/
def Thread.capped (q : Nat) (th : Thread) : Thread := { th with v := th.v.filter fun e => e.1 < q }

/-- The threads of a warp slot. -/
def lanesOf (w : Nat) : List Nat := (List.range 32).map fun l => w * 32 + l

theorem mem_lanesOf {w l : Nat} (h : l < 32) : w * 32 + l ∈ lanesOf w :=
  List.mem_map.mpr ⟨l, List.mem_range.mpr h, rfl⟩

theorem lanesOf_nodup (w : Nat) : (lanesOf w).Nodup := List.nodup_range.map fun _ _ h => Nat.add_left_cancel h

section

variable (s : State) (w q : Nat)

theorem State.setQuota_eq_modThrs : s.setQuota w q =
    ((s.loseResults w q).modWarp w fun wp => { wp with quota := q }).modThrs (lanesOf w) (Thread.capped q) := by
  rw [State.modThrs, lanesOf, List.foldl_map]
  rfl

theorem State.setQuota_warps :
    (s.setQuota w q).warps = (s.modWarp w fun wp => { wp with quota := q }).warps := by
  rw [State.setQuota_eq_modThrs, State.modThrs_eq]
  rfl

/-- Only the quota of the one warp changes. -/
theorem State.warp_setQuota (k : Nat) :
    (s.setQuota w q).warp k = if k = w then { s.warp w with quota := q } else s.warp k := by
  rw [← State.warp_modWarp s w k fun wp => { wp with quota := q }]
  simp only [State.warp, State.setQuota_warps]

theorem State.byteAt_setQuota (a : Nat) : (s.setQuota w q).byteAt a = s.byteAt a := by
  have hmem : (s.setQuota w q).mem = s.mem := by
    rw [State.setQuota_eq_modThrs, State.modThrs_eq]
    rfl
  have hscratch : (s.setQuota w q).scratch = s.scratch := by
    rw [State.setQuota_eq_modThrs, State.modThrs_eq]
    rfl
  simp only [State.byteAt, hmem, hscratch]

/-- What is still to come for lost registers changes no register yet. -/
theorem State.thr_loseResults_v (k : Nat) : ((s.loseResults w q).thr k).v = (s.thr k).v := by
  have h : (s.loseResults w q).threads.find k =
      (s.threads.find k).map fun th => { th with deferred := th.deferred.map (Access.lose w q) } :=
    Tab.find_mapVal s.threads (fun th => { th with deferred := th.deferred.map (Access.lose w q) }) k
  simp only [State.thr, Tab.get, h]
  cases s.threads.find k <;> rfl

theorem State.reg_setQuota {l c : Nat} (hl : l < 32) (hc : c < 96) :
    (s.setQuota w q).reg (w * 32 + l) c = if c < q then s.reg (w * 32 + l) c else 0 := by
  have hv : ((s.setQuota w q).thr (w * 32 + l)).v = (s.thr (w * 32 + l)).v.filter fun e => e.1 < q := by
    rw [State.setQuota_eq_modThrs, State.modThrs_thr _ _ _ (lanesOf_nodup w), if_pos (mem_lanesOf hl),
      ← s.thr_loseResults_v w q]
    rfl
  simp only [State.reg, hc, if_true, hv]
  exact Tab.get_filterBelow ..

/-- A warp that is a member stays one, where quotas change. -/
theorem State.memberKey_setQuota (c n : Nat) : (s.setQuota w q).memberKey c n = s.memberKey c n := by
  have hspawned : ∀ k, ((s.setQuota w q).warp k).spawned = (s.warp k).spawned := fun k => by
    rw [State.warp_setQuota]
    split
    · next h => rw [h]
    · rfl
  simp only [State.memberKey, hspawned]

end

theorem State.setMemberQuota_key {s : State} {c n w : Nat} (h : s.memberKey c n = some w) (q : Nat) :
    s.setMemberQuota c q n = s.setQuota w q := by
  simp only [State.setMemberQuota, h]

theorem State.quotaOf_key {s : State} {c n w : Nat} (h : s.memberKey c n = some w) : s.quotaOf c n = (s.warp w).quota := by
  simp only [State.quotaOf, State.member, h]

/-- A set with one declared member, which stands in its slot. -/
theorem State.setNumbers_one {s : State} {c k w : Nat} (h : s.setWarps c k = [w])
    (hlen : (maskBits ((s.block c).sets.getD k 0) 63).length = 1) :
    ∃ n, s.setNumbers c k = [n] ∧ s.memberKey c n = some w := by
  obtain ⟨n, hn⟩ := List.length_eq_one_iff.mp hlen
  have hnum : s.setNumbers c k = [n] := hn
  refine ⟨n, hnum, ?_⟩
  rw [State.setWarps, hnum] at h
  cases hkey : s.memberKey c n with
  | none => simp [hkey] at h
  | some v => simpa [hkey] using h

end Sys2Proof.Machine

namespace Sys2Proof.Claims

open Sys2Proof.Machine

theorem setsAndQuotas : SetsAndQuotas := by
  refine ⟨fun s i sc a p lit t hi ha => ?setdecl, fun s i sc x y n t hi ha h => ?nothing, fun s w q =>
    ⟨?quota, s.byteAt_setQuota w q, fun l c => s.reg_setQuota w q⟩⟩
  case setdecl =>
    intro c masks ok
    refine ⟨fun h => ⟨s.setBlock c { s.block c with sets := masks }, onIssue_one_ran hi.1 ha (if_pos h), rfl,
      fun k => ?_⟩, fun h => onIssue_one_fault hi.1 ha (if_neg h) rfl⟩
    exact State.block_setBlock ..
  case nothing =>
    refine onIssue_one_fault hi.1 ha (if_neg fun hgo => ?_) rfl
    simp only [Bool.and_eq_true, decide_eq_true_eq] at hgo
    obtain ⟨⟨⟨⟨⟨⟨⟨hn, hxy⟩, -⟩, -⟩, -⟩, -⟩, -⟩, -⟩ := hgo
    rcases h with h | h
    · exact hn (by rw [h]; rfl)
    · exact hxy h
  case quota => rw [State.warp_setQuota, if_pos rfl]

theorem quotaMovesRegisters : QuotaMovesRegisters := by
  intro s i sc x y n t w v hi ha c hw hv hxy hn hlw hlv hroom hmost hactive hcap
  obtain ⟨a, hsrc, ha'⟩ := State.setNumbers_one hw hlw
  obtain ⟨b, hdst, hb'⟩ := State.setNumbers_one hv hlv
  have hn0 : n.toNat ≠ 0 := fun h => hn (BitVec.eq_of_toNat_eq (by simpa using h))
  have hq : s.quotaOf c a = (s.warp w).quota := State.quotaOf_key ha'
  have hq' : s.quotaOf c b = (s.warp v).quota := State.quotaOf_key hb'
  have hgo : (decide (n.toNat ≠ 0) && decide (x ≠ y) && decide (1 ≠ 0) && decide (1 ≠ 0) &&
      decide (n.toNat % 1 = 0) && decide (8 * n.toNat % 8 = 0) && decide (8 + 8 * n.toNat ≤ (s.warp w).quota) &&
      decide ((s.warp v).quota + 8 * n.toNat ≤ 96)) = true := by
    simp [hn0, hxy, hroom, hmost, Nat.mod_one]
  have hmoved : (s.setMemberQuota c ((s.warp w).quota - 8 * n.toNat) a).setMemberQuota c ((s.warp v).quota + 8 * n.toNat) b =
      (s.setQuota w ((s.warp w).quota - 8 * n.toNat)).setQuota v ((s.warp v).quota + 8 * n.toNat) := by
    rw [State.setMemberQuota_key ha', State.setMemberQuota_key ((State.memberKey_setQuota ..).trans hb')]
  refine (onIssue_some _ _ _ hi.1).trans (congrArg Host.Outcome.next (State.eachOr_one_ran ha ?_))
  simp only [show coreOf t = c from rfl, hsrc, hdst, List.length_singleton, List.headD_cons, hq, hq', Nat.mul_one,
    Nat.div_one, Nat.one_mul, List.foldl_cons, List.foldl_nil, hgo, hmoved, hcap, hactive, Bool.and_self, if_true]

end Sys2Proof.Claims

namespace Sys2Proof.Machine

/-- Settles O38. -/
theorem setsAndTheirQuotas : Obligations.SetsAndTheirQuotas :=
  ⟨Claims.setsAndQuotas, Claims.quotaMovesRegisters⟩

end Sys2Proof.Machine

namespace Sys2Proof.Machine

open Sys2Proof.Claims

/-! # Spawn bins (R122, R123) -/

/-- Whether a bin takes a spawn: it has the spawn's entry, and room. -/
def Bin.takes (x : Spawned) (z : Bin) : Bool := z.key = x.req.entry.toNat && z.members.length < 32

/-- A bin marked ready keeps its key and its members. -/
def Bin.mark (key order : Nat) (f : Bin → Bool) (z : Bin) : Bin :=
  if z.key = key && f z && z.ready.isNone then { z with ready := some order } else z

theorem Bin.mark_members (key order : Nat) (f : Bin → Bool) (z : Bin) : (z.mark key order f).members = z.members := by
  unfold Bin.mark
  split <;> rfl

theorem Bin.mark_key (key order : Nat) (f : Bin → Bool) (z : Bin) : (z.mark key order f).key = z.key := by
  unfold Bin.mark
  split <;> rfl

/-- A bin of the key that is not ready becomes so where the test holds. -/
theorem Bin.mark_ready {key order : Nat} {f : Bin → Bool} {z : Bin} (hk : z.key = key) (hr : z.ready = none) :
    (z.mark key order f).ready = if f z then some order else none := by
  unfold Bin.mark
  cases f z <;> simp [hk, hr]

/-- A bin with a spawn more. -/
def Bin.gain (x : Spawned) (z : Bin) : Bin := { z with members := z.members ++ [x] }

theorem Block.markReady_bins (b : Block) (key : Nat) (f : Bin → Bool) :
    (b.markReady key f).bins = b.bins.map (Bin.mark key b.binOrder f) := rfl

/-- Bins made ready hold what they held. -/
theorem Block.readyOldest_members (b : Block) : b.readyOldest.bins.map Bin.members = b.bins.map Bin.members := by
  unfold Block.readyOldest
  split
  · rw [Block.markReady_bins, List.map_map]
    exact List.map_congr_left fun z _ => Bin.mark_members ..
  · rfl

theorem Block.readyOldest_overflow (b : Block) : b.readyOldest.overflow = b.overflow := by
  unfold Block.readyOldest
  split <;> rfl

theorem Block.readyOldest_spawnCount (b : Block) : b.readyOldest.spawnCount = b.spawnCount := by
  unfold Block.readyOldest
  split <;> rfl

section

variable {b b' : Block} {now : Nat} {x : Spawned}

/-- With no bin that takes it, a spawn opens a free one (R122). -/
theorem Block.enterBin_opens (h : ∀ z ∈ b.bins, z.takes x = false) (hlen : b.bins.length < 16) :
    b.enterBin now x = some { b with
      bins := b.bins ++ [{ key := x.req.entry.toNat, members := [x], ready := none, born := now }] } := by
  have hany : b.bins.any (Bin.takes x) = false := by simpa using h
  unfold Bin.takes at hany
  simp only [Block.enterBin, hany, Bool.false_eq_true, if_false, hlen, if_true]

theorem Block.enterBin_full (h : ∀ z ∈ b.bins, z.takes x = false) (hlen : 16 ≤ b.bins.length) :
    b.enterBin now x = none := by
  have hany : b.bins.any (Bin.takes x) = false := by simpa using h
  unfold Bin.takes at hany
  simp only [Block.enterBin, hany, Bool.false_eq_true, if_false, Nat.not_lt.mpr hlen]

/-- The first bin that takes a spawn gains it, and bins of its entry that are full become ready (R122). -/
theorem Block.enterBin_joins {k : Nat} {z : Bin} (hk : b.bins[k]? = some z) (hz : z.takes x = true)
    (hfirst : ∀ j y, j < k → b.bins[j]? = some y → y.takes x = false) :
    b.enterBin now x = some (({ b with
      bins := b.bins.modify k (Bin.gain x) } : Block).markReady x.req.entry.toNat fun n => n.members.length = 32) := by
  obtain ⟨hlen, hget⟩ := List.getElem?_eq_some_iff.mp hk
  have hany : b.bins.any (Bin.takes x) = true := List.any_eq_true.mpr ⟨z, List.mem_of_getElem? hk, hz⟩
  have hidx : b.bins.findIdx? (Bin.takes x) = some k := by
    refine List.findIdx?_eq_some_iff_getElem.mpr ⟨hlen, hget ▸ hz, fun j hj => ?_⟩
    rw [hfirst j _ hj (List.getElem?_eq_getElem (hj.trans hlen))]
    exact Bool.false_ne_true
  unfold Bin.takes at hany hidx
  simp only [Block.enterBin, hany, if_true, hidx]
  rfl

theorem Block.enterBin_spawnCount (h : b.enterBin now x = some b') : b'.spawnCount = b.spawnCount := by
  unfold Block.enterBin at h
  extract_lets key add at h
  split_ifs at h <;> (cases h; rfl)

end

/-! # A spawn (R122, R124, R160) -/

/-- A block that has given out one identifier more (R124). -/
def Block.counted (b : Block) : Block := { b with spawnCount := b.spawnCount + 1 }

/-- What a SPAWN of a thread without a task starts: it sees what its spawner wrote, and waits for what its spawner has
placed before it (R160). -/
def State.spawned (s : State) (t : Nat) (entry : BitVec 48) (a b : Word) : Spawned :=
  { req := { entry := entry, a := a, b := b, id := s.nextSpawnId (coreOf t) }, task := none, frag := none
    seen := s.spawnSeen t, parent := if s.holdsWrites t s.nextOp then some (t, s.nextOp) else none }

/-- A spawner that is held with its spawn. -/
def Thread.holding (x : Spawned) (th : Thread) : Thread := { th with spawning := th.spawning ++ [x] }

/-- The state after a spawn has entered, or holds its spawner. -/
def State.afterSpawn (s : State) (t : Nat) (x : Spawned) : State :=
  let r := (s.modBlock (coreOf t) Block.counted).trySpawn (coreOf t) x
  if r.1 then r.2 else r.2.modThr t (Thread.holding x)

theorem State.setBlock_modBlock (s : State) (c : Nat) (f : Block → Block) (b : Block) :
    (s.modBlock c f).setBlock c b = s.setBlock c b := by
  simp only [State.modBlock, State.setBlock, Tab.put_put]

section

variable {s : State} {t : Nat} {x : Spawned}

theorem State.spawnFor_limit {entry : BitVec 48} {a b : Word} {task : Option Task}
    (h : 2 ^ 24 ≤ (s.block (coreOf t)).spawnCount + 1) :
    s.spawnFor t entry a b task = ranBad s (plainFault clsBudget) := if_pos h

theorem State.spawnFor_made {entry : BitVec 48} {a b : Word} (h : (s.block (coreOf t)).spawnCount + 1 < 2 ^ 24) :
    s.spawnFor t entry a b none = ran (s.afterSpawn t (s.spawned t entry a b)) := if_neg (Nat.not_le.mpr h)

theorem State.counted_block : (s.modBlock (coreOf t) Block.counted).block (coreOf t) = (s.block (coreOf t)).counted := by
  rw [State.block_modBlock, if_pos rfl]

theorem State.counted_ovflSize : (s.modBlock (coreOf t) Block.counted).ovflSize (coreOf t) = s.ovflSize (coreOf t) := by
  unfold State.ovflSize
  rw [State.counted_block]
  rfl

/-- A spawn that enters a bin. -/
theorem State.afterSpawn_enters {b : Block}
    (h : (s.block (coreOf t)).counted.enterBin (s.core (coreOf t)).clock x = some b) :
    s.afterSpawn t x = s.setBlock (coreOf t) b := by
  simp only [State.afterSpawn, State.trySpawn, State.counted_block, State.core_modBlock_other, h, if_true,
    State.setBlock_modBlock]

/-- With no bin free a spawn goes last into the overflow area. -/
theorem State.afterSpawn_overflows (h : (s.block (coreOf t)).counted.enterBin (s.core (coreOf t)).clock x = none)
    (hroom : (s.block (coreOf t)).overflow.length < s.ovflSize (coreOf t)) :
    s.afterSpawn t x = s.setBlock (coreOf t) { (s.block (coreOf t)).counted.readyOldest with
      overflow := (s.block (coreOf t)).counted.readyOldest.overflow ++ [x] } := by
  have hroom' : (s.block (coreOf t)).counted.overflow.length < s.ovflSize (coreOf t) := hroom
  simp only [State.afterSpawn, State.trySpawn, State.counted_block, State.core_modBlock_other, h, State.counted_ovflSize,
    hroom', if_true, State.setBlock_modBlock]

/-- Where that is full the spawner is held. -/
theorem State.afterSpawn_held (h : (s.block (coreOf t)).counted.enterBin (s.core (coreOf t)).clock x = none)
    (hfull : s.ovflSize (coreOf t) ≤ (s.block (coreOf t)).overflow.length) :
    s.afterSpawn t x =
      (s.setBlock (coreOf t) (s.block (coreOf t)).counted.readyOldest).modThr t (Thread.holding x) := by
  have hfull' : ¬ (s.block (coreOf t)).counted.overflow.length < s.ovflSize (coreOf t) := Nat.not_lt.mpr hfull
  simp only [State.afterSpawn, State.trySpawn, State.counted_block, State.core_modBlock_other, h, State.counted_ovflSize,
    hfull', if_false, State.setBlock_modBlock, Bool.false_eq_true]

/-- Either way a spawn changes only its block and its spawner, and the block has counted it. -/
theorem State.afterSpawn_frame (s : State) (t : Nat) (x : Spawned) :
    s.afterSpawn t x = { s with blocks := (s.afterSpawn t x).blocks, threads := (s.afterSpawn t x).threads } ∧
      ((s.afterSpawn t x).block (coreOf t)).spawnCount = (s.block (coreOf t)).spawnCount + 1 := by
  cases h : (s.block (coreOf t)).counted.enterBin (s.core (coreOf t)).clock x with
  | some b =>
    rw [State.afterSpawn_enters h, State.block_setBlock_same]
    exact ⟨rfl, Block.enterBin_spawnCount h⟩
  | none =>
    by_cases hroom : (s.block (coreOf t)).overflow.length < s.ovflSize (coreOf t)
    · rw [State.afterSpawn_overflows h hroom, State.block_setBlock_same]
      exact ⟨rfl, Block.readyOldest_spawnCount _⟩
    · rw [State.afterSpawn_held h (Nat.not_lt.mp hroom), State.block_modThr_other, State.block_setBlock_same]
      exact ⟨rfl, Block.readyOldest_spawnCount _⟩

end

/-- SPAWN with plain operands: the entry is checked, and the spawn is made (R160). -/
theorem State.spawnOne_plain {s : State} {i : Issue} {d t : Nat} {a b : BitVec 7} (ha : plain a) (hb : plain b) :
    s.spawnOne i d a.toNat b.toNat t =
      if 2 ^ 48 ≤ (s.pairReg t d).toNat ∨ (s.pairReg t d).toNat % 4 ≠ 0 then ranBad s (plainFault clsIllegalClause)
      else s.spawnFor t ((s.pairReg t d).setWidth 48) (s.reg t a.toNat) (s.reg t b.toNat) none := by
  have hsrc : s.sources i t [a.toNat, b.toNat] = (.ok [s.reg t a.toNat, s.reg t b.toNat], s) :=
    State.sources_plain s i t _ (by
      intro c hc
      rcases List.mem_cons.mp hc with rfl | hc
      · exact ha
      · exact (List.mem_singleton.mp hc) ▸ hb)
  simp only [State.spawnOne, hsrc, Bool.or_eq_true, decide_eq_true_eq]
  rfl

end Sys2Proof.Machine

namespace Sys2Proof.Claims

open Sys2Proof.Machine

theorem spawnsEnterBins : SpawnsEnterBins := by
  intro s i sc d a b p t hi ha hb hact entry bk who
  refine ⟨fun hbad => ?illegal, fun hal hlt hmax => ?budget, fun hal hlt hmax => ?made⟩
  case illegal =>
    exact onIssue_one_fault hi.1 hact ((State.spawnOne_plain ha hb).trans (if_pos hbad.symm)) rfl
  case budget =>
    have hgood : ¬ (2 ^ 48 ≤ entry.toNat ∨ entry.toNat % 4 ≠ 0) := by omega
    exact onIssue_one_fault hi.1 hact
      ((State.spawnOne_plain ha hb).trans ((if_neg hgood).trans (State.spawnFor_limit hmax))) rfl
  case made =>
    have hgood : ¬ (2 ^ 48 ≤ entry.toNat ∨ entry.toNat % 4 ≠ 0) := by omega
    have hkey : (entry.setWidth 48).toNat = entry.toNat := by
      rw [BitVec.toNat_setWidth]
      exact Nat.mod_eq_of_lt hlt
    let x := s.spawned t (entry.setWidth 48) (s.reg t a.toNat) (s.reg t b.toNat)
    have htakes : ∀ z : Bin, z.takes x = true ↔ z.key = entry.toNat ∧ z.members.length < 32 := fun z => by
      rw [← hkey]
      simp only [Bin.takes, Bool.and_eq_true, decide_eq_true_eq]
      rfl
    have hnot : ∀ z : Bin, ¬ (z.key = entry.toNat ∧ z.members.length < 32) → z.takes x = false := fun z h =>
      Bool.eq_false_iff.mpr (h ∘ (htakes z).mp)
    obtain ⟨hframe, hcount⟩ := s.afterSpawn_frame t x
    refine ⟨s.afterSpawn t x, x, onIssue_one_ran hi.1 hact
      ((State.spawnOne_plain ha hb).trans ((if_neg hgood).trans (State.spawnFor_made hmax))), hframe, hcount, rfl, rfl, rfl,
      rfl, ?_⟩
    intro room after
    refine ⟨fun hno hlen => ?opens, fun k z hk hz hfirst => ?joins, fun hno hlen => ?none⟩
    case opens =>
      have h := State.afterSpawn_enters (s := s) (t := t)
        (Block.enterBin_opens (b := bk.counted) (x := x) (fun z hz => hnot z (hno z hz)) hlen)
      refine ⟨by rw [h]; rfl, ?_⟩
      show ((s.afterSpawn t x).block (coreOf t)).bins = _
      rw [h, State.block_setBlock_same, ← hkey]
      rfl
    case joins =>
      have h := State.afterSpawn_enters (s := s) (t := t) (Block.enterBin_joins (b := bk.counted) (x := x) hk
        ((htakes z).mpr hz) fun j y hj hy => hnot y (hfirst j y hj hy))
      have hafter : ∀ j, after[j]? = (bk.bins[j]?).map fun z => Bin.mark x.req.entry.toNat bk.binOrder
          (fun n => n.members.length = 32) (if k = j then z.gain x else z) := fun j => by
        show ((s.afterSpawn t x).block (coreOf t)).bins[j]? = _
        rw [h, State.block_setBlock_same, Block.markReady_bins, List.getElem?_map, List.getElem?_modify]
        exact Option.map_map ..
      have hjoined : after[k]? =
          some (Bin.mark x.req.entry.toNat bk.binOrder (fun n => n.members.length = 32) (z.gain x)) := by
        rw [hafter, hk, Option.map_some, if_pos rfl]
      refine ⟨by rw [h]; rfl, fun j hj => ?_, _, hjoined, Bin.mark_key .., Bin.mark_members .., fun hr => ?_⟩
      · rw [hafter, Option.map_map]
        simp only [Function.comp_def, Ne.symm hj, if_false, Bin.mark_members]
      · have hgain : (z.gain x).key = x.req.entry.toNat := hz.1.trans hkey.symm
        rw [Bin.mark_ready hgain hr, Bin.mark_members]
        by_cases h32 : (z.gain x).members.length = 32 <;> simp [h32]
    case none =>
      have hfull : bk.counted.enterBin (s.core (coreOf t)).clock x = none :=
        Block.enterBin_full (fun z hz => hnot z (hno z hz)) hlen
      by_cases hroom : bk.overflow.length < s.ovflSize (coreOf t)
      · have h := State.afterSpawn_overflows hfull hroom
        refine ⟨?_, fun _ => ⟨by rw [h]; rfl, ?_⟩, fun hno => absurd hroom (Nat.not_lt.mpr hno)⟩
        · show ((s.afterSpawn t x).block (coreOf t)).bins.map Bin.members = _
          rw [h, State.block_setBlock_same]
          exact Block.readyOldest_members _
        · rw [h, State.block_setBlock_same]
          exact congrArg (· ++ [x]) (Block.readyOldest_overflow _)
      · have h := State.afterSpawn_held hfull (Nat.not_lt.mp hroom)
        refine ⟨?_, fun hyes => absurd hyes hroom, fun _ => ⟨?_, fun k => ?_⟩⟩
        · show ((s.afterSpawn t x).block (coreOf t)).bins.map Bin.members = _
          rw [h, State.block_modThr_other, State.block_setBlock_same]
          exact Block.readyOldest_members _
        · rw [h, State.block_modThr_other, State.block_setBlock_same]
          exact Block.readyOldest_overflow _
        · rw [h, State.thr_modThr]
          rfl

end Sys2Proof.Claims

namespace Sys2Proof.Machine

open Sys2Proof.Claims

/-! # The launch of a bin (R122, R123) -/

theorem Tab.mem_of_mem_del {α : Type} {t : Tab α} {k : Nat} {e : Nat × α} (h : e ∈ t.del k) : e ∈ t := by
  induction t with
  | nil => exact h
  | cons e' r ih =>
    obtain ⟨a, y⟩ := e'
    simp only [Tab.del] at h
    split_ifs at h
    · exact List.mem_cons_of_mem _ (ih h)
    · exact (List.mem_cons.mp h).elim (fun h => h ▸ List.mem_cons_self) fun h => List.mem_cons_of_mem _ (ih h)

/-- A bin's timer makes it ready, and changes nothing but its block's bins (R122). -/
theorem State.timer_spec {s : State} {c n : Nat} {x : Bin} (hx : (s.block c).bins[n]? = some x) (hr : x.ready = none) :
    (((s.modBlock c fun b => b.markReady x.key fun y => y.born = x.born && y.ready.isNone).block c).bins[n]?).map Bin.ready =
      some (some (s.block c).binOrder) := by
  rw [State.block_modBlock, if_pos rfl, Block.markReady_bins, List.getElem?_map, hx, Option.map_some, Option.map_some,
    Bin.mark_ready rfl hr]
  simp [hr]

/-- The one thread of a bin starts in lane 0 of its warp slot, and the other lanes' threads go. -/
def State.startLanes (s : State) (w : Nat) (members : List Spawned) (start : Nat → Spawned → Thread) : State :=
  (List.range 32).foldl (fun s j =>
    match members[j]? with
    | some x => s.setThr (w * 32 + j) (start j x)
    | none => { s with threads := s.threads.del (w * 32 + j) }) s

/-- What starting a bin of one thread leaves. -/
structure State.Started (s : State) (w : Nat) (th : Thread) (u : State) : Prop where
  rest : u = s.withThreads u.threads
  lane : u.thr (w * 32) = th
  others : ∀ e ∈ u.threads, e.2 = th ∨ e ∈ s.threads

section

variable {s u : State} {w : Nat} {th : Thread} (h : s.Started w th u)

include h

theorem State.Started.block (c : Nat) : u.block c = s.block c := by rw [h.rest]; rfl
theorem State.Started.warp (k : Nat) : u.warp k = s.warp k := by rw [h.rest]; rfl
theorem State.Started.byteAt (a : Nat) : u.byteAt a = s.byteAt a := by rw [h.rest]; rfl

end

theorem State.started_startLanes (s : State) (w : Nat) (x : Spawned) (start : Nat → Spawned → Thread) :
    s.Started w (start 0 x) (s.startLanes w [x] start) := by
  have hrange : List.range 32 = 0 :: List.range' 1 31 := rfl
  unfold State.startLanes
  rw [hrange, List.foldl_cons]
  refine List.foldlRecOn (motive := s.Started w (start 0 x)) (List.range' 1 31) _
    ⟨rfl, State.thr_setThr_same .., fun e he => ?_⟩ fun u h j hj => ?_
  · exact (Tab.mem_of_mem_put he).imp_left (congrArg Prod.snd)
  · obtain ⟨hj1, -⟩ := List.mem_range'_1.mp hj
    have hnone : ([x] : List Spawned)[j]? = none := List.getElem?_eq_none hj1
    rw [hnone]
    refine ⟨?_, ?_, fun e he => h.others e (Tab.mem_of_mem_del he)⟩
    · show ({ u with threads := _ } : State) = _
      rw [h.rest]
      rfl
    · have hne : w * 32 ≠ w * 32 + j := by omega
      have hfind : (u.threads.del (w * 32 + j)).find (w * 32) = u.threads.find (w * 32) := Tab.find_del_ne _ hne
      have hlane := h.lane
      simp only [State.thr, Tab.get, hfind] at hlane ⊢
      exact hlane

/-- Gates that are left to a party that has gone change no block but in its gates. -/
theorem State.block_vacateGates (s : State) (w c : Nat) :
    ∃ gates, (s.vacateGates w).block c = { s.block c with gates := gates } := by
  simp only [State.vacateGates, State.block_modVdev_other, State.block_modBlock]
  split
  · next h => exact ⟨_, by rw [h]⟩
  · exact ⟨(s.block c).gates, rfl⟩

/-- With no spawn held no spawner's request is tried again. -/
theorem State.retrySpawns_none {s : State} (h : ∀ e ∈ s.threads, e.2.spawning = []) (c : Nat) : s.retrySpawns c = s := by
  have hheld : s.heldSpawns c = [] := by
    have hnone : ((s.threads.filter fun e => coreOf e.1 = c).flatMap fun e => e.2.spawning.map fun x => (e.1, x)) = [] :=
      List.flatMap_eq_nil_iff.mpr fun e he => by rw [h e (List.mem_filter.mp he).1]; rfl
    unfold State.heldSpawns
    rw [hnone]
    rfl
  unfold State.retrySpawns
  rw [hheld]
  rfl

/-- With no tile in progress the rasteriser has no spawn to make. -/
theorem State.feedAll_none {s : State} {c : Nat} (h : (s.block c).tile = none) : s.feedAll c = s := by
  simp [State.feedAll, State.feedTile, h]

/-- An empty overflow area gives no spawn. -/
theorem State.drainOverflow_none {s : State} {c : Nat} (h : (s.block c).overflow = []) (fuel : Nat) :
    s.drainOverflow c fuel = s := by
  cases fuel with
  | zero => rfl
  | succ fuel => simp only [State.drainOverflow, h]

/-- A warp slot of a core taken by a warp of spawned threads. -/
def State.takeSlot (s : State) (c slot : Nat) : State :=
  { (s.vacateGates (mkWarp c slot 0)).setWarp (mkWarp c slot 0) { Warp.empty with
      used := true, no := 64 + (s.block c).warpCount, spawned := true, quota := (s.block c).budget } with
    wlog := s.wlog.map (WriteEv.vacate (mkWarp c slot 0)) }

/-- A block that has launched bin k in a warp slot. -/
def Block.launched (k w : Nat) (gone : Tab Warp) (b : Block) : Block :=
  { b with bins := b.bins.eraseIdx k, warpCount := b.warpCount + 1, garm := b.garm.map (Cmd.vacate w), gone := gone }

/-- The thread that a spawn starts in a lane of a warp slot of a block with this rank (R123, R132). -/
def Launch.starts (l : Launch) (rank slot lane : Nat) (x : Spawned) : Thread :=
  startSpawned x l.acquired (spawnStack l.record rank slot lane).1 (spawnStack l.record rank slot lane).2

/-- The state of a core whose bin of one thread has launched in a warp slot. -/
def State.binStarted (s : State) (c slot : Nat) (l : Launch) (x : Spawned) (gone : Tab Warp) : State :=
  ((s.takeSlot c slot).startLanes (mkWarp c slot 0) [x] (l.starts (s.block c).rank slot)).modBlock c
    (Block.launched 0 (mkWarp c slot 0) gone)

section

variable (s : State) (c slot : Nat) (l : Launch) (x : Spawned) (gone : Tab Warp)

/-- The core's block has lost its first bin, and keeps its overflow area and its tile. -/
theorem State.block_binStarted : ((s.binStarted c slot l x gone).block c).bins = (s.block c).bins.eraseIdx 0 ∧
    ((s.binStarted c slot l x gone).block c).overflow = (s.block c).overflow ∧
    ((s.binStarted c slot l x gone).block c).tile = (s.block c).tile := by
  obtain ⟨gates, hgates⟩ := s.block_vacateGates (mkWarp c slot 0) c
  have hstart := (s.takeSlot c slot).started_startLanes (mkWarp c slot 0) x (l.starts (s.block c).rank slot)
  have hblock : (s.binStarted c slot l x gone).block c =
      Block.launched 0 (mkWarp c slot 0) gone { s.block c with gates := gates } := by
    rw [State.binStarted, State.block_modBlock, if_pos rfl, hstart.block, ← hgates]
    rfl
  rw [hblock]
  exact ⟨rfl, rfl, rfl⟩

/-- The spawn's thread stands in lane 0 of the slot's warp, and no other thread is new. -/
theorem State.binStarted_spec : SameBytes s (s.binStarted c slot l x gone) ∧
    ((s.binStarted c slot l x gone).warp (mkWarp c slot 0)).spawned = true ∧
    (s.binStarted c slot l x gone).thr (mkWarp c slot 0 * 32) = l.starts (s.block c).rank slot 0 x ∧
    ∀ e ∈ (s.binStarted c slot l x gone).threads, e.2 = l.starts (s.block c).rank slot 0 x ∨ e ∈ s.threads := by
  have hstart := (s.takeSlot c slot).started_startLanes (mkWarp c slot 0) x (l.starts (s.block c).rank slot)
  have hbytes : ∀ a, (s.takeSlot c slot).byteAt a = s.byteAt a := fun _ => rfl
  have hthreads : (s.takeSlot c slot).threads = s.threads := rfl
  have hwarp : (s.takeSlot c slot).warp (mkWarp c slot 0) = { Warp.empty with
      used := true, no := 64 + (s.block c).warpCount, spawned := true, quota := (s.block c).budget } :=
    State.warp_setWarp_same ..
  unfold State.binStarted
  generalize State.startLanes _ _ _ _ = u at hstart ⊢
  refine ⟨fun a => (hstart.byteAt a).trans (hbytes a), ?_, hstart.lane, fun e he => hthreads ▸ hstart.others e he⟩
  rw [State.warp_modBlock_other, hstart.warp, hwarp]

variable {s c slot l x}

/-- The launch of the one bin of a core, ready with one thread whose spawner's stores have left. -/
theorem State.launchBin_one {k born : Nat} (hl : s.launch? (s.block c).launch = some l) (hx : s.parentLeft x = true)
    (hb : (s.block c).bins = [{ key := k, members := [x], ready := some 0, born := born }])
    (ho : (s.block c).overflow = []) (hs : s.findSlot c = some slot) :
    ∃ gone, s.launchBin c = s.binStarted c slot l x gone := by
  have hnext : (s.block c).nextBin = some 0 := by
    unfold Block.nextBin
    rw [hb]
    rfl
  have hall : ([x].all s.parentLeft) = true := by simp [hx]
  have hbin : (s.block c).bins[0]? = some { key := k, members := [x], ready := some 0, born := born } := by rw [hb]; rfl
  obtain ⟨gone, he⟩ : ∃ gone, s.launchBin c =
      (s.binStarted c slot l x gone).drainOverflow c ((s.block c).overflow.length + 1) := by
    refine ⟨if (s.warp (mkWarp c slot 0)).used && !(s.warp (mkWarp c slot 0)).spawned
      then (s.block c).gone.put (s.warp (mkWarp c slot 0)).no (s.warp (mkWarp c slot 0)) else (s.block c).gone, ?_⟩
    simp only [State.launchBin, hnext, hs, hl, hbin, hall, Bool.not_true, Bool.false_eq_true, if_false]
    rfl
  obtain ⟨-, hoverflow, -⟩ := s.block_binStarted c slot l x gone
  exact ⟨gone, he.trans (State.drainOverflow_none (hoverflow.trans ho) _)⟩

end

end Sys2Proof.Machine

namespace Sys2Proof.Claims

open Sys2Proof.Machine

theorem binsLaunchWarps : BinsLaunchWarps := by
  refine ⟨fun s c n x hruns hx hr => ?timer, fun s c slot l x k born hl hrun hleft hb ho htile hs hspawn => ?launch⟩
  case timer =>
    refine ⟨_, congrArg Host.Outcome.next ?_, rfl, State.timer_spec hx hr⟩
    simp [hruns, hx, hr]
  case launch =>
    obtain ⟨gone, he⟩ := State.launchBin_one hl hleft hb ho hs
    obtain ⟨hbins, -, htile'⟩ := s.block_binStarted c slot l x gone
    obtain ⟨hbytes, hspawned, hlane, hothers⟩ := s.binStarted_spec c slot l x gone
    have hnone : ∀ e ∈ (s.binStarted c slot l x gone).threads, e.2.spawning = [] := fun e he =>
      (hothers e he).elim (fun h => h ▸ rfl) (hspawn e)
    have hruns : s.blockRuns c = true := by simp [State.blockRuns, hl, hrun]
    refine ⟨s.binStarted c slot l x gone, congrArg Host.Outcome.next ?_, by rw [hbins, hb]; rfl, hbytes, hspawned, ?_⟩
    · rw [if_pos hruns, he, State.retrySpawns_none hnone, State.feedAll_none (htile'.trans htile)]
    · rw [hlane]
      exact ⟨rfl, rfl, rfl, rfl, rfl⟩

end Sys2Proof.Claims

namespace Sys2Proof.Machine

/-- Settles O39. -/
theorem spawnsAndTheirBins : Obligations.SpawnsAndTheirBins := ⟨Claims.spawnsEnterBins, Claims.binsLaunchWarps⟩

end Sys2Proof.Machine

namespace Sys2Proof.Machine

/-! # A freed slot goes to a saved launch

A queue that leaves its slot hands it to the first queue that waits (R138, R139 step 4), and a saved launch whose queue is
bound again takes the cores of its restore (R352). -/

/-- An enabled queue bound to a slot, its ring empty and nothing current. -/
def boundQueue (slot : Nat) : Queue := { Queue.empty with ctl := 0x13, phase := 2, slot := some slot }

/-- A launch of one block, saved while its queue waits for a slot; its mask names core 0. -/
def savedLaunch : Launch :=
  { newLaunch 4 0 0 { recordOf [] with cores := 1 } 3 [] [] [] with phase := .saved false, installed := [1000] }

/-- All 64 slots are held, each by a queue of one of four virtual devices; a queue of a fifth, whose current launch is saved,
waits. -/
def fullHub : State :=
  { State.reset with
    started := true, launches := [(0, savedLaunch)]
    vdevs := ((List.range 4).map fun v =>
        (v, { Vdev.empty with queues := (List.range 16).map fun q => (q, boundQueue (16 * v + q)) })) ++
      [(4, { Vdev.empty with
        share := 1, queues := [(0, { Queue.empty with ctl := 0x13, phase := 1, current := some 0 })] })] }

/-- Queue 0 is bound to slot 0 with nothing current, and its ring is empty. -/
theorem fullHub_queue : fullHub.queue 0 0 = boundQueue 0 := by decide +kernel

/-- No slot is free. -/
theorem fullHub_freeSlot : fullHub.freeSlot = none := by decide +kernel

/-- The check of queue 0's record frees its slot: the launch of the waiting queue takes core 0 for its restore. -/
theorem fullHub_recordCheck : ∃ r, exec (.recordCheck 0 0) fullHub = .next r ∧ (r.launch? 0).map Launch.cores = some [0] :=
  ⟨_, rfl, by decide +kernel⟩

theorem fullHub_cores : (fullHub.launch? 0).map Launch.cores = some [] := rfl

/-- Refutes O50: where a queue leaves its slot, or halts, no launch is to change; in `fullHub` the freed slot goes to a
queue whose launch is saved, and the launch takes its cores. -/
theorem not_queuesAndTheirRecords : ¬ Obligations.QueuesAndTheirRecords := by
  rintro ⟨-, records⟩
  obtain ⟨leaves, -⟩ := records fullHub 0 0 (by rw [fullHub_queue]; rfl) (by rw [fullHub_queue]; rfl) rfl
  obtain ⟨r, hr, -, -, same⟩ := leaves (.inr (by rw [fullHub_queue]; rfl))
  obtain ⟨u, hu, taken⟩ := fullHub_recordCheck
  cases hr.symm.trans hu
  rw [State.launch?, same] at taken
  cases fullHub_cores.symm.trans taken

end Sys2Proof.Machine

namespace Sys2Proof.Machine

/-! # The agent's wait (R382, R440) -/

/-- An agent parks where it waits at WFI or has been stopped. -/
def Core.park (k : Core) : Core := if k.wfi.isSome || k.fwStopped then { k with parked := true } else k

theorem Core.park_park (k : Core) : k.park.park = k.park := by
  unfold Core.park
  split <;> simp_all

/-- The agents of some cores park. -/
theorem State.core_foldl_park (s : State) (cs : List Nat) (c : Nat) :
    (cs.foldl (fun s c => if (s.core c).wfi.isSome || (s.core c).fwStopped
      then s.modCore c fun k => { k with parked := true } else s) s).core c =
      if c ∈ cs then (s.core c).park else s.core c := by
  induction cs generalizing s with
  | nil => rfl
  | cons b cs ih =>
    have hb : (if (s.core b).wfi.isSome || (s.core b).fwStopped then s.modCore b fun k => { k with parked := true }
        else s).core c = if c = b then (s.core c).park else s.core c := by
      unfold Core.park
      by_cases hc : c = b
      · subst hc
        split <;> simp [State.core_modCore, *]
      · split <;> simp [State.core_modCore, hc]
    rw [List.foldl_cons, ih, hb]
    by_cases hc : c = b <;> by_cases hm : c ∈ cs <;> simp [hc, hm, Core.park_park]

theorem State.core_parkAgents (s : State) {c : Nat} (hc : c < 144) : s.parkAgents.core c = (s.core c).park := by
  rw [State.parkAgents, State.core_foldl_park, if_pos (List.mem_range.mpr hc)]

theorem State.parkAgents_eq (s : State) : s.parkAgents = { s with cores := s.parkAgents.cores } := by
  refine List.foldlRecOn (motive := fun u : State => u = { s with cores := u.cores }) _ _ rfl fun u hu c _ => ?_
  split
  · exact (congrArg (fun v : State => v.modCore c _) hu).trans rfl
  · exact hu

/-- Outside a hand-over nothing is committed. -/
theorem State.tryCommit_idle {s : State} (h : s.assay.hphase ≠ 2) : s.tryCommit = s := by
  unfold State.tryCommit
  split
  · next h2 _ => exact absurd h2 h
  · rfl

/-- While an agent is still at work the commit waits, and the others park. -/
theorem State.tryCommit_waits {s : State} {c : Nat} (h : s.assay.hphase = 2) (hi : (s.assay.stage.bind readImage).isSome = true)
    (hc : c < 144) (hw : (s.core c).wfi = none) (hf : (s.core c).fwStopped = false) (hp : (s.core c).parked = false) :
    s.tryCommit = s.parkAgents := by
  obtain ⟨x, hx⟩ := Option.isSome_iff_exists.mp hi
  have hbusy : (s.parkAgents.core c).parked = false := by rw [s.core_parkAgents hc]; simp [Core.park, hw, hf, hp]
  have hall : ((List.range 144).all fun c => (s.parkAgents.core c).parked) = false :=
    List.all_eq_false.mpr ⟨c, List.mem_range.mpr hc, by rw [hbusy]; exact Bool.false_ne_true⟩
  simp only [State.tryCommit, h, hx, hall, Bool.false_eq_true, if_false]

end Sys2Proof.Machine

namespace Sys2Proof.Claims

open Sys2Proof.Machine

theorem theAgentWaits : TheAgentWaits := by
  intro s i sc d a p t hi _ ha held
  have one {u} := onIssue_one_ran (sc := sc) (p := p.toNat) (lits := 0) (u := u) (k := fun _ s t => ran (s.modCore (coreOf t) fun k =>
    { k with wfi := some ((s.reg t a.toNat).toNat, d.toNat) }).tryCommit) hi.1 ha
  refine ⟨fun hphase => ⟨_, one (congrArg ran (State.tryCommit_idle hphase)), rfl, fun c => ?waits⟩,
    fun hphase himage hc ⟨b, hb, hne, hw, hf, hp⟩ => ?parks⟩
  case waits =>
    rw [State.core_modCore]
    split
    · next h => rw [h]
    · rfl
  case parks =>
    have hcore : (s.modCore (coreOf t) fun k => { k with wfi := some ((s.reg t a.toNat).toNat, d.toNat) }).core b = s.core b := by
      rw [State.core_modCore, if_neg hne]
    refine ⟨_, one (congrArg ran (State.tryCommit_waits hphase himage hb (by rw [hcore, hw]) (by rw [hcore, hf])
      (by rw [hcore, hp]))), ?_, ?_⟩
    · exact (State.parkAgents_eq _).trans rfl
    · rw [State.core_parkAgents _ hc, State.core_modCore, if_pos rfl]
      rfl

end Sys2Proof.Claims

namespace Sys2Proof.Machine

/-! # Launches and queues read back -/

section

variable (s : State)

theorem State.modLaunch_some {l : Nat} {x : Launch} (hx : s.launch? l = some x) (f : Launch → Launch) :
    s.modLaunch l f = s.setLaunch l (f x) := by simp only [State.modLaunch, hx]

theorem State.modLaunch_eq (l : Nat) (f : Launch → Launch) :
    s.modLaunch l f = { s with launches := (s.modLaunch l f).launches } := by
  unfold State.modLaunch
  split <;> rfl

theorem State.launch_modLaunch (l k : Nat) (f : Launch → Launch) :
    (s.modLaunch l f).launch? k = if k = l then (s.launch? l).map f else s.launch? k := by
  cases hx : s.launch? l with
  | none =>
    simp only [State.modLaunch, hx]
    split
    · next h => rw [h, hx]; rfl
    · rfl
  | some x => rw [State.modLaunch_some s hx, State.launch_setLaunch]; rfl

theorem State.queue_setQueue (v q w p : Nat) (x : Queue) :
    (s.setQueue v q x).queue w p = if w = v ∧ p = q then x else s.queue w p := by
  by_cases hw : w = v
  · subst hw
    by_cases hp : p = q <;> simp [State.queue, State.setQueue, State.vdev_modVdev, Vdev.queue, Tab.get_put, hp]
  · simp [State.queue, State.setQueue, State.vdev_modVdev, hw]

theorem State.queue_modQueue (v q w p : Nat) (f : Queue → Queue) :
    (s.modQueue v q f).queue w p = if w = v ∧ p = q then f (s.queue v q) else s.queue w p := State.queue_setQueue ..

end

/-! # Queues bound and halted (R138, R139)

What a queue's leaving its slot changes: virtual devices, the order of bindings, and in the launches the cores chosen for a
restore. -/

/-- A state that differs from another only in what binding queues changes. -/
structure State.Rebound (s u : State) : Prop where
  rest : u = { s with vdevs := u.vdevs, launches := u.launches, nextBind := u.nextBind }
  phase : ∀ k, (u.launch? k).map Launch.phase = (s.launch? k).map Launch.phase

section

variable {s u w : State}

theorem State.Rebound.refl (s : State) : s.Rebound s := ⟨rfl, fun _ => rfl⟩

theorem State.Rebound.trans (h : s.Rebound u) (h' : u.Rebound w) : s.Rebound w :=
  ⟨h'.rest.trans (by rw [h.rest]), fun k => (h'.phase k).trans (h.phase k)⟩

theorem State.Rebound.launch_none (h : s.Rebound u) {l : Nat} (hl : s.launch? l = none) : u.launch? l = none := by
  have hp := h.phase l
  rw [hl] at hp
  exact Option.map_eq_none_iff.mp hp

variable (s)

theorem State.rebound_modVdev (v : Nat) (f : Vdev → Vdev) : s.Rebound (s.modVdev v f) := ⟨rfl, fun _ => rfl⟩

theorem State.rebound_modQueue (v q : Nat) (f : Queue → Queue) : s.Rebound (s.modQueue v q f) :=
  ⟨rfl, fun _ => rfl⟩

theorem State.pickCores_eq (l : Nat) : s.pickCores l = { s with launches := (s.pickCores l).launches } := by
  unfold State.pickCores
  split
  · split <;> rfl
  · rfl

theorem State.rebound_pickCores (l : Nat) : s.Rebound (s.pickCores l) := by
  refine ⟨by rw [State.pickCores_eq], fun k => ?_⟩
  unfold State.pickCores
  split
  next x hx =>
    split
    · rw [State.launch_setLaunch]
      split
      · next h => rw [h, hx]; rfl
      · rfl
    · rfl
  · rfl

theorem State.rebound_bindQueue (v q slot : Nat) : s.Rebound (s.bindQueue v q slot) := by
  have h : s.Rebound { s.modQueue v q fun x => { x with phase := 2, slot := some slot, bound := s.nextBind, overdue := false }
    with nextBind := s.nextBind + 1 } := ⟨rfl, fun _ => rfl⟩
  simp only [State.bindQueue]
  split
  · exact h.trans (State.rebound_pickCores ..)
  · exact h

/-- Binding one queue leaves every other. -/
theorem State.queue_bindQueue_ne {v q w p : Nat} (slot : Nat) (h : ¬ (w = v ∧ p = q)) :
    (s.bindQueue v q slot).queue w p = s.queue w p := by
  have hq := (s.queue_modQueue v q w p fun x => { x with phase := 2, slot := some slot, bound := s.nextBind, overdue := false }).trans
    (if_neg h)
  simp only [State.bindQueue]
  split
  · rw [State.pickCores_eq]
    exact hq
  · exact hq

/-- The queue that the next slot goes to waits for one (R139). -/
theorem State.phase_nextPending {p : Nat × Nat} (h : s.nextPending = some p) : (s.queue p.1 p.2).phase = 1 := by
  have hpending : ∀ q ∈ s.allQueues.filter (fun q => (s.queue q.1 q.2).phase = 1 && !(s.vdev q.1).halted),
      (s.queue q.1 q.2).phase = 1 := fun q hq => by simpa using (Bool.and_eq_true_iff.mp (List.mem_filter.mp hq).2).1
  refine List.foldlRecOn (motive := fun best : Option (Nat × Nat) => ∀ p, best = some p → (s.queue p.1 p.2).phase = 1)
    _ _ (fun _ h => by cases h) (fun best hbest q hq p hp => ?_) p h
  split at hp
  · cases hp
    exact hpending q hq
  · dsimp only at hp
    split at hp
    · cases hp
      exact hpending q hq
    · exact hbest p hp

/-- A freed slot goes to nobody, or to a queue that waits for one. -/
theorem State.bindNext_cases : s.bindNext = s ∨
    ∃ (n : Nat) (p : Nat × Nat), (s.queue p.1 p.2).phase = 1 ∧ s.bindNext = s.bindQueue p.1 p.2 n := by
  unfold State.bindNext
  split
  next n p _ hp => exact .inr ⟨n, p, s.phase_nextPending hp, rfl⟩
  · exact .inl rfl

theorem State.rebound_bindNext : s.Rebound s.bindNext := by
  obtain h | ⟨n, p, -, h⟩ := s.bindNext_cases <;> rw [h]
  · exact .refl s
  · exact s.rebound_bindQueue ..

/-- A queue that waits for no slot is left as it is. -/
theorem State.queue_bindNext {v q : Nat} (h : (s.queue v q).phase ≠ 1) : s.bindNext.queue v q = s.queue v q := by
  obtain hs | ⟨n, p, hp, hs⟩ := s.bindNext_cases <;> rw [hs]
  refine s.queue_bindQueue_ne n fun ⟨hv, hq⟩ => h ?_
  rw [hv, hq, hp]

theorem State.rebound_haltQueue (v q err : Nat) : s.Rebound (s.haltQueue v q err) :=
  ((State.rebound_modQueue ..).trans (State.rebound_modQueue ..)).trans (State.rebound_bindNext _)

theorem State.rebound_yieldSlot (v q : Nat) : s.Rebound (s.yieldSlot v q) :=
  ((s.rebound_modQueue v q fun x => { x with phase := 0, slot := none }).trans (State.rebound_bindNext _)).trans
    (State.rebound_modQueue _ v q fun x => { x with phase := 1 })

theorem State.rebound_tryFreeze (v : Nat) : s.Rebound (s.tryFreeze v) := by
  simp only [State.tryFreeze]
  split
  · exact s.rebound_modVdev ..
  · exact .refl s

/-- A queue that halts has its code and its phase, and holds no slot (R138). -/
theorem State.queue_haltQueue (v q err : Nat) : (s.haltQueue v q err).queue v q =
    { s.queue v q with err := err, current := none, phase := 3, slot := none } := by
  have h : ((s.modQueue v q fun x => { x with err := err, current := none }).modQueue v q fun x =>
      { x with phase := 3, slot := none }).queue v q =
      { s.queue v q with err := err, current := none, phase := 3, slot := none } := by
    rw [State.queue_modQueue, if_pos ⟨rfl, rfl⟩, State.queue_modQueue, if_pos ⟨rfl, rfl⟩]
  refine (State.queue_bindNext _ ?_).trans h
  rw [h]
  exact (by decide : (3 : Nat) ≠ 1)

end

end Sys2Proof.Machine

namespace Sys2Proof.Machine

/-! # A launch that stands while another moves

With no operation in flight a pre-emption halts its gang and saves it page by page, or stops at a page whose place faults
(R350, R354); neither lets another launch run, nor drops one. -/

/-- With nothing in flight, launch k is there and does not run. -/
structure State.Rests (s : State) (k : Nat) : Prop where
  idle : s.ops = []
  stands : ∃ ph, (s.launch? k).map Launch.phase = some ph ∧ ph ≠ .running

section

variable {s u : State} {k l : Nat} {x : Launch}

theorem State.Rests.of (h : s.Rests k) (ho : u.ops = s.ops) (hl : u.launches = s.launches) : u.Rests k :=
  ⟨ho.trans h.idle, by simpa only [State.launch?, hl] using h.stands⟩

theorem State.Rests.rebound (h : s.Rests k) (hu : s.Rebound u) : u.Rests k :=
  ⟨by rw [hu.rest]; exact h.idle, by simpa only [hu.phase] using h.stands⟩

theorem State.Rests.looked (h : s.Rests k) (hu : s.Looked u) : u.Rests k := by
  rw [hu]
  exact h.of rfl rfl

theorem State.Rests.setLaunch (h : s.Rests k) (hx : k = l → x.phase ≠ .running) : (s.setLaunch l x).Rests k := by
  refine ⟨h.idle, ?_⟩
  rw [State.launch_setLaunch]
  split
  · next hk => exact ⟨_, rfl, hx hk⟩
  · exact h.stands

theorem State.Rests.modLaunch {f : Launch → Launch} (h : s.Rests k) (hf : ∀ x, k = l → (f x).phase ≠ .running) :
    (s.modLaunch l f).Rests k := by
  unfold State.modLaunch
  split
  · exact h.setLaunch (hf _)
  · exact h

/-! ## The save (R350, R351) -/

theorem State.looked_stage2Place (s : State) (root : Dword) (ia n : Nat) (kind : AKind) :
    s.Looked (s.stage2Place root ia n kind).2 := by
  have h := (Lookup.stage2 root 0 kind ia).frame s
  simp only [State.stage2Place]
  split
  · exact .refl s
  · rcases e : s.stage2 root 0 kind ia with ⟨f | p, u⟩
    · exact h.of e
    · have h' := (Lookup.reach 0 p.pa n p.mt kind false).frame u
      dsimp only
      rcases e' : u.reach 0 p.pa n p.mt kind false with ⟨f | q, w⟩ <;> exact (h.of e).trans (h'.of e')

theorem State.looked_savePlace (s : State) (v : Nat) (fb : Bool) (j : Nat) (kind : AKind) :
    s.Looked (s.savePlace v fb j kind).2 := by
  simp only [State.savePlace]
  generalize (if fb then bitsOf (s.vdev v).savefb.toNat 51 12 else bitsOf (s.vdev v).save.toNat 47 12) * 4096 + 4096 * j = a
  have h : s.Looked (if fb then s.reach 0 a 4096 0 kind true else s.stage2Place (s.vdev v).s2tb a 4096 kind).2 := by
    split
    · exact (Lookup.reach ..).frame s
    · exact s.looked_stage2Place ..
  split
  · next e => exact h.of e
  · next e => exact h.of e

theorem State.Rests.fillOpen (h : s.Rests k) (bs : List SaveByte) : (s.fillOpen bs).2.Rests k := by
  induction bs generalizing s with
  | nil => exact h
  | cons b bs ih =>
    cases b with
    | some b => exact ih h
    | none => exact ih (s := s.anyWord.2) (h.of rfl rfl)

theorem State.Rests.putPage (h : s.Rests k) (pa : Nat) (bs : List Byte) : (s.putPage pa bs).Rests k := by
  unfold State.putPage State.putPhys
  split
  · exact h
  · unfold State.ioWrite
    split
    · exact h
    · split <;> exact h.of rfl rfl
  · refine h.of ?_ ?_ <;> (unfold State.write State.writeAll State.putBytes; dsimp only; split <;> rfl)

theorem State.Rests.freeCores (h : s.Rests k) (l : Nat) (cs : List Nat) : (s.freeCores l cs).Rests k :=
  List.foldlRecOn (motive := fun u : State => u.Rests k) cs _ h fun _ h _ _ => h.of rfl rfl

theorem State.Rests.finishSave (h : s.Rests k) (l : Nat) (x : Launch) (fb : Bool) : (s.finishSave l x fb).Rests k := by
  have hmoved : ∀ src dst, (s.moveCores src dst).Rests k := fun src dst =>
    h.of ((congrArg (List.map _) h.idle).trans h.idle.symm) rfl
  have hsaved := ((hmoved x.installed (s.savedCores x.installed.length)).freeCores l x.reserved).setLaunch (l := l)
    (x := { x with phase := .saved fb, cores := [], reserved := [], installed := s.savedCores x.installed.length,
                   refills := [], evict := false }) fun _ => LPhase.noConfusion
  have hdone := hsaved.of (u := State.gangDone _ l false) ((congrArg (List.map _) hsaved.idle).trans hsaved.idle.symm) rfl
  simp only [State.finishSave]
  refine State.Rests.rebound ?_ (State.rebound_tryFreeze ..)
  split
  · exact hdone.rebound ((State.rebound_yieldSlot ..).trans (State.rebound_bindNext _))
  · exact hdone

theorem State.Rests.saveFrom (h : s.Rests k) (l : Nat) (x : Launch) (j n : Nat) : (s.saveFrom l x false j n).Rests k := by
  induction n generalizing s j with
  | zero => exact h.finishSave ..
  | succ n ih =>
    have hplace := s.looked_savePlace x.vdev false j .write
    rw [State.saveFrom]
    rcases e : s.savePlace x.vdev false j .write with ⟨f | pa, u⟩
    · have hu := (h.looked (hplace.of e)).modLaunch (l := l) (f := fun y => { y with phase := .saving j false })
        fun _ _ => LPhase.noConfusion
      exact hu.of rfl rfl
    · exact ih (((h.looked (hplace.of e)).fillOpen _).putPage ..) _

/-- With nothing in flight the halt of a gang drains nothing. -/
theorem State.haltGang_idle (ho : s.ops = []) (x : Launch) :
    (s.haltGang x).ops = [] ∧ (s.haltGang x).launches = s.launches := by
  have hhalt : ∀ es : List (Nat × Issue), (es.foldl (fun s e => s.haltIssue e.1 e.2) s).ops = [] ∧
      (es.foldl (fun s e => s.haltIssue e.1 e.2) s).launches = s.launches := fun es =>
    List.foldlRecOn (motive := fun u : State => u.ops = [] ∧ u.launches = s.launches) es _ ⟨ho, rfl⟩ fun _ h _ _ => h
  have hops : ∀ u : State, u.ops = [] → u.opsOn x.installed = [] := fun u h => by simp [State.opsOn, h]
  simp only [State.haltGang]
  rw [hops _ (hhalt _).1]
  exact hhalt _

/-- A running launch that is pre-empted with nothing in flight does not run, nor does one that stands (R350). -/
theorem State.rests_preempt_running (ho : s.ops = []) (hx : s.launch? l = some x) (hp : x.phase = .running)
    (hk : k = l ∨ s.Rests k) : (s.preempt l).Rests k := by
  obtain ⟨hops, hlaunches⟩ := s.haltGang_idle ho x
  have hx' : (s.haltGang x).launch? l = some x := by simpa only [State.launch?, hlaunches] using hx
  have hsaving : ((s.haltGang x).setLaunch l { x with phase := .saving 0 false, evict := false }).Rests k := by
    rcases hk with rfl | hk
    · exact ⟨hops, .saving 0 false, by rw [State.launch_setLaunch_same]; rfl, LPhase.noConfusion⟩
    · exact (hk.of (hops.trans hk.idle.symm) hlaunches).setLaunch fun _ => LPhase.noConfusion
  have e : s.preempt l = ((s.haltGang x).setLaunch l { x with phase := .saving 0 false, evict := false }).saveRun l := by
    simp only [State.preempt, hx, hp, State.modLaunch_some _ hx']
  rw [e]
  simp only [State.saveRun, State.launch_setLaunch_same]
  exact hsaving.saveFrom ..

theorem State.Rests.preempt (h : s.Rests k) (l : Nat) : (s.preempt l).Rests k := by
  cases hx : s.launch? l with
  | none => simpa only [State.preempt, hx] using h
  | some x =>
    by_cases hp : x.phase = .running
    · exact State.rests_preempt_running h.idle hx hp (.inr h)
    · unfold State.preempt
      simp only [hx]
      split
      · next hr => exact absurd hr hp
      · exact h.setLaunch fun _ => hp
      · exact h.setLaunch fun _ => hp
      · exact h

end

end Sys2Proof.Machine

namespace Sys2Proof.Machine

/-! # Placement with nothing in flight (R142, R384) -/

/-- A launch whose cores are all reserved, as its placement begins. -/
def Launch.placed (x : Launch) : Launch :=
  { x with phase := .placing, cores := coresOf x.record.cores, homeCounter := 0
           runs := [{ next := 0, stop := 0 }, { next := 0, stop := 0 }] }

/-- A launch that is being placed issues once every block is installed (R384). -/
def Launch.issues (x : Launch) : Launch :=
  if x.phase = .placing && x.installed.length = x.cores.length then { x with phase := .running } else x

/-- Whether a ticketed launch may start, every core of it reserved (R142). -/
def State.allReserved (s : State) (l : Nat) (x : Launch) : Bool :=
  x.phase = .ticketed && s.mayStart l x && (coresOf x.record.cores).all fun c => (s.core c).reserved = some l

section

variable {s : State} {k l c : Nat} {x : Launch}

/-- Placement in its steps: the launch's own change, the blocks that wait, and the pre-emption that is asked for. -/
theorem State.tryPlace_eq (hx : s.launch? l = some x) {y : Launch} (hy : (if s.allReserved l x then x.placed else x) = y)
    {u : State} (hu : (y.cores.foldl (fun s c => s.installOn l c) (s.setLaunch l y)).modLaunch l Launch.issues = u)
    (hask : u.asking (fun a => a = .gang l false) = []) (hbusy : (u.vdev y.vdev).busy = false) (he : y.evict = false) :
    s.tryPlace l = u := by
  unfold State.tryPlace
  extract_lets ready v
  have hv : v = s.setLaunch l y := (s.modLaunch_some hx _).trans (congrArg (s.setLaunch l) hy)
  have hvl : v.launch? l = some y := by rw [hv, State.launch_setLaunch_same]
  split
  · next h => cases hvl.symm.trans h
  next z h =>
    obtain rfl : y = z := Option.some.inj (hvl.symm.trans h)
    extract_lets w r freezing
    have hr : r = u := by rw [← hu, ← hv]; rfl
    refine (if_pos ?_).trans hr
    simp [freezing, hr, hask, hbusy, he]

/-- With no BLK.START in flight no block is installed. -/
theorem State.installOn_idle (ho : s.ops = []) (l c : Nat) : s.installOn l c = s := by
  unfold State.installOn
  split
  · rfl
  · simp [State.asking, ho]

theorem State.foldl_installOn_idle (ho : s.ops = []) (l : Nat) (cs : List Nat) :
    cs.foldl (fun s c => s.installOn l c) s = s := by
  induction cs with
  | nil => rfl
  | cons c cs ih => rw [List.foldl_cons, State.installOn_idle ho, ih]

/-- With no CTX.LOAD in flight no restore starts. -/
theorem State.tryRestore_idle (ho : s.ops = []) (l : Nat) : s.tryRestore l = s := by
  unfold State.tryRestore
  split
  · rfl
  next x _ =>
    simp only [ho]
    split
    · refine (if_neg ?_).trans rfl
      cases x.cores <;> simp
    · rfl

/-- The placement of one launch leaves another that stands. -/
theorem State.Rests.tryPlace (h : s.Rests k) (hne : k ≠ l) : (s.tryPlace l).Rests k := by
  have hmod : ∀ {s : State}, s.Rests k → ∀ f, (s.modLaunch l f).Rests k := fun h f => h.modLaunch fun _ e => absurd e hne
  unfold State.tryPlace
  extract_lets ready u
  have hu : u.Rests k := hmod h _
  split
  · exact hu
  next x hx =>
    extract_lets v w freezing
    have hw : w.Rests k := hmod (by rw [show v = u from State.foldl_installOn_idle hu.idle l x.cores]; exact hu) _
    split
    · exact hw
    · exact hw.preempt l

/-- What a claim leaves of a ticketed launch, with nothing in flight: it begins to be placed once it has every core. -/
theorem State.tryPlace_idle (ho : s.ops = []) (hx : s.launch? l = some x) (he : x.evict = false)
    (hbusy : (s.vdev x.vdev).busy = false) : ∃ y, s.tryPlace l = s.setLaunch l y := by
  generalize hy : (if s.allReserved l x then x.placed else x) = y
  have hvdev : y.vdev = x.vdev := by subst hy; split <;> rfl
  have hevict : y.evict = false := by subst hy; split <;> exact he
  refine ⟨y.issues, State.tryPlace_eq hx hy ?_ ?_ ?_ hevict⟩
  · rw [State.foldl_installOn_idle (s := s.setLaunch l y) ho, State.modLaunch_some _ (State.launch_setLaunch_same ..),
      State.setLaunch, State.setLaunch, Tab.put_put, State.setLaunch]
  · simp [State.asking, State.setLaunch, ho]
  · rw [hvdev]; exact hbusy

end

/-! # Claims (R142, R383) -/

/-- A core reserved for a launch that takes it (R142). -/
def State.reserve (s : State) (c l : Nat) (cores : List Nat) : State :=
  (s.modCore c fun k => { k with reserved := some l, finished := false }).modLaunch l fun y => { y with
    reserved := if y.reserved.contains c then y.reserved else c :: y.reserved
    cores := match y.phase with | .saved _ => cores | _ => y.cores }

section

variable {s : State} {c l : Nat} {x y : Launch}

/-- With no ticket for the core, or one that does not outrank the block on it, nothing is claimed. -/
theorem State.claim_refused (h : s.claimable c = none ∨
    ((s.block c).active = true ∧ ∀ l, s.claimable c = some l → s.outranks l c = false)) :
    s.claim c = ([0xFFFFFFFF, 0xFFFFFFFF, 0xFFFFFFFF, 0xFFFFFFFF], s) := by
  cases hc : s.claimable c with
  | none => simp only [State.claim, hc]; rfl
  | some l =>
    obtain h | ⟨hactive, hrank⟩ := h
    · cases hc.symm.trans h
    · simp only [State.claim, hc, hactive, hrank l hc, Bool.and_false, Bool.false_eq_true, if_false]
      cases s.launch? l <;> rfl

/-- A claim of a core without a block: the ticket's words, the core reserved, and the placement tried. -/
theorem State.claim_free (hfree : (s.block c).active = false) (hc : s.claimable c = some l) (hx : s.launch? l = some x) :
    s.claim c = (s.claimWords c x (s.chosenCores l x), ((s.reserve c l (s.chosenCores l x)).tryPlace l).tryRestore l) := by
  simp only [State.claim, hc, hfree, hx, Bool.false_and, Bool.false_eq_true, if_false]
  rfl

/-- An outranked grid is pre-empted, and stands whatever becomes of the claim (R139, R142). -/
theorem State.rests_claim (hactive : (s.block c).active = true) (hc : s.claimable c = some l) (hrank : s.outranks l c = true)
    (ho : s.ops = []) (hy : s.launch? (s.block c).launch = some y) (hp : y.phase = .running) :
    (s.claim c).2.Rests (s.block c).launch := by
  have hne : (s.block c).launch ≠ l := by
    intro e
    rw [e] at hy
    simp [State.outranks, e, hy] at hrank
  have hrests := State.rests_preempt_running ho hy hp (.inl rfl)
  simp only [State.claim, hc, hactive, hrank, Bool.and_true, if_true]
  split
  · next x hx hfree =>
    have hreserved : ((s.preempt (s.block c).launch).reserve c l ((s.preempt (s.block c).launch).chosenCores l x)).Rests
        (s.block c).launch := (hrests.of (u := State.modCore _ c _) rfl rfl).modLaunch fun _ e => absurd e hne
    have hplaced := hreserved.tryPlace hne
    have he := State.tryRestore_idle hplaced.idle l
    exact he.symm ▸ hplaced
  · exact hrests

end

end Sys2Proof.Machine

namespace Sys2Proof.Machine

/-! # The installation of a block (R384) -/

/-- The warps of a block at their start. -/
def State.startWarps (s : State) (x : Launch) (c rank n : Nat) : State :=
  (List.range n).foldl (fun s w => s.startWarp x c rank w) s

/-- Warps below 64 stand in slots of their own (R99). -/
theorem warpSlot_inj {v w : Nat} (hv : v < 64) (hw : w < 64) (h : warpSlot v = warpSlot w) : v = w := by
  unfold warpSlot at h
  omega

theorem mkWarp_inj {c v w b : Nat} (h : mkWarp c v b = mkWarp c w b) : v = w := by
  unfold mkWarp at h
  omega

/-- Threads of one warp slot written lane by lane. -/
def State.setLanes (s : State) (key : Nat) (f : Nat → Thread) (ls : List Nat) : State :=
  ls.foldl (fun s h => s.setThr (key * 32 + h) (f h)) s

theorem State.setLanes_eq (s : State) (key : Nat) (f : Nat → Thread) (ls : List Nat) :
    s.setLanes key f ls = { s with threads := (s.setLanes key f ls).threads } :=
  List.foldlRecOn (motive := fun u : State => u = { s with threads := u.threads }) ls _ rfl fun _ hu h _ =>
    (congrArg (fun v : State => v.setThr (key * 32 + h) (f h)) hu).trans rfl

theorem State.thr_setLanes (s : State) (key : Nat) (f : Nat → Thread) {ls : List Nat} (hls : ∀ l ∈ ls, l < 32) (k : Nat) :
    (s.setLanes key f ls).thr k = if warpKeyOf k = key ∧ laneOf k ∈ ls then f (laneOf k) else s.thr k := by
  induction ls generalizing s with
  | nil => simp [State.setLanes]
  | cons l ls ih =>
    have hl : k = key * 32 + l ↔ warpKeyOf k = key ∧ laneOf k = l := by
      have := hls l List.mem_cons_self
      unfold warpKeyOf laneOf
      omega
    have htail := ih (s.setThr (key * 32 + l) (f l)) fun m hm => hls m (List.mem_cons_of_mem _ hm)
    rw [State.thr_setThr, if_congr hl rfl rfl] at htail
    refine htail.trans ?_
    by_cases hk : warpKeyOf k = key
    · by_cases hm : laneOf k ∈ ls
      · simp [hk, hm]
      · by_cases he : laneOf k = l <;> simp [hk, hm, he]
    · simp [hk]

section

variable (s : State) (x : Launch) (c rank n : Nat)

theorem State.startWarp_eq_setLanes (w : Nat) : s.startWarp x c rank w =
    (s.setWarp (mkWarp c (warpSlot w) 0) { Warp.empty with
      used := true, no := w, quota := x.record.budget, win := startWindow (partAcc x.record.part) }).setLanes
        (mkWarp c (warpSlot w) 0) (fun h => startThread x rank (32 * w + h)) (List.range 32) := rfl

theorem State.thr_startWarp (w k : Nat) : (s.startWarp x c rank w).thr k =
    if warpKeyOf k = mkWarp c (warpSlot w) 0 then startThread x rank (32 * w + laneOf k) else s.thr k := by
  have hlane : laneOf k ∈ List.range 32 := List.mem_range.mpr (Nat.mod_lt _ (by decide))
  rw [State.startWarp_eq_setLanes, State.thr_setLanes _ _ _ (fun l hl => List.mem_range.mp hl)]
  simp only [hlane, and_true]
  rfl

theorem State.startWarp_eq (w : Nat) : s.startWarp x c rank w =
    { s with threads := (s.startWarp x c rank w).threads, warps := (s.startWarp x c rank w).warps } := by
  rw [State.startWarp_eq_setLanes]
  generalize List.range 32 = ls
  rw [State.setLanes_eq]
  rfl

theorem State.startWarps_eq : s.startWarps x c rank n =
    { s with threads := (s.startWarps x c rank n).threads, warps := (s.startWarps x c rank n).warps } := by
  refine List.foldlRecOn (motive := fun u : State => u = { s with threads := u.threads, warps := u.warps }) _ _ rfl
    fun u hu w _ => ?_
  exact (State.startWarp_eq ..).trans ((congrArg (fun v : State =>
    { v with threads := (u.startWarp x c rank w).threads, warps := (u.startWarp x c rank w).warps }) hu).trans rfl)

theorem State.launch_startWarps (l : Nat) : (s.startWarps x c rank n).launch? l = s.launch? l := by
  rw [State.startWarps_eq]
  rfl

variable {n} in
/-- Every thread of the first n warps is at its start. -/
theorem State.thr_startWarps (hn : n ≤ 64) {w h : Nat} (hw : w < n) (hh : h < 32) :
    (s.startWarps x c rank n).thr (mkThread c (warpSlot w) 0 h) = startThread x rank (32 * w + h) := by
  have hkey : warpKeyOf (mkThread c (warpSlot w) 0 h) = mkWarp c (warpSlot w) 0 := by unfold warpKeyOf mkThread; omega
  have hlane : laneOf (mkThread c (warpSlot w) 0 h) = h := by unfold laneOf mkThread; omega
  induction n with
  | zero => exact absurd hw (Nat.not_lt_zero w)
  | succ n ih =>
    rw [State.startWarps, List.range_succ, List.foldl_append, List.foldl_cons, List.foldl_nil, State.thr_startWarp, hkey, hlane]
    by_cases he : w = n
    · rw [if_pos (by rw [he]), he]
    · rw [if_neg fun e => he (warpSlot_inj (by omega) (by omega) (mkWarp_inj e))]
      exact ih (by omega) (by omega)

end

theorem State.testLock_eq (s : State) (v k : Nat) (w : Dword) :
    s.testLock v k w = { s with vdevs := (s.testLock v k w).vdevs } := by
  unfold State.testLock State.modCtx
  split
  · split <;> rfl
  · rfl

theorem State.launch_testLock (s : State) (v k : Nat) (w : Dword) (l : Nat) :
    (s.testLock v k w).launch? l = s.launch? l := by
  rw [State.testLock_eq]
  rfl

/-- A lock that fails its test is marked in its context, and in no virtual device's control word (R23). -/
theorem State.busy_testLock (s : State) (v k : Nat) (w : Dword) (d : Nat) :
    ((s.testLock v k w).vdev d).busy = (s.vdev d).busy := by
  unfold State.testLock State.modCtx
  split
  · split
    · rw [State.setCtx, State.vdev_modVdev]
      split
      · next h => rw [h]; rfl
      · rfl
    · rfl
  · rfl

/-- Bytes cleared read 0. -/
theorem Mem.read_clear (m : Mem) {lo n a : Nat} (h1 : lo ≤ a) (h2 : a < lo + n) : (m.clear lo n).read a = 0 := by
  induction m with
  | nil => rfl
  | cons e r ih =>
    obtain ⟨b, y⟩ := e
    unfold Mem.clear at ih ⊢
    rw [List.filter_cons]
    split
    · next hb =>
      have hne : b ≠ a := by
        rintro rfl
        simp [h1, h2] at hb
      rw [Mem.read, if_neg hne, ih]
    · exact ih

section

variable (s : State) (l : Nat) (x : Launch) (c : Nat)

/-- The block that an installation leaves on its core. -/
def State.newBlock : Block := startBlock l x c (x.cores.idxOf c) ((s.ctx? x.vdev x.ctx).getD Ctx.empty)

/-- A core cleared for its next block, with the block. -/
def State.cleared : State := ((s.clearBlock c).zeroStorage c).setBlock c (s.newBlock l x c)

/-- An installation in its parts: the core cleared, its block's warps started, and its raster unit's thread. -/
theorem State.install_eq : s.install l x c =
    ((((((s.cleared l x c).startWarps x c (x.cores.idxOf c) x.record.warps).setThr (rasterThread c)
      { Thread.empty with seen := x.acquired }).modCore c fun z => { z with storageOf := some x.vdev, finished := false }).testLock
        x.vdev x.ctx ((s.ctx? x.vdev x.ctx).getD Ctx.empty).legacy).modLaunch l fun y =>
          { y with installed := sortBy id (c :: y.installed) }) := rfl

/-- What an installation leaves as the clearing of the core made it. -/
theorem State.install_rest : s.install l x c = { s.cleared l x c with
    threads := (s.install l x c).threads, warps := (s.install l x c).warps, cores := (s.install l x c).cores
    vdevs := (s.install l x c).vdevs, launches := (s.install l x c).launches } := by
  rw [State.install_eq, State.modLaunch_eq, State.testLock_eq, State.startWarps_eq]
  rfl

theorem State.block_install : (s.install l x c).block c = s.newBlock l x c := by
  rw [State.install_rest]
  exact State.block_setBlock_same ..

theorem State.storageOf_install : ((s.install l x c).core c).storageOf = some x.vdev := by
  have hcore : (s.install l x c).core c = { (s.cleared l x c).core c with storageOf := some x.vdev, finished := false } := by
    rw [State.install_eq, State.modLaunch_eq, State.testLock_eq, State.startWarps_eq]
    exact State.core_setCore_same ..
  rw [hcore]

theorem State.launch_install {y : Launch} (hy : s.launch? l = some y) :
    (s.install l x c).launch? l = some { y with installed := sortBy id (c :: y.installed) } := by
  rw [State.install_eq, State.launch_modLaunch, if_pos rfl, State.launch_testLock, State.launch_modCore_other,
    State.launch_setThr_other, State.launch_startWarps]
  exact congrArg (Option.map _) hy

theorem State.busy_install (d : Nat) : ((s.install l x c).vdev d).busy = (s.vdev d).busy := by
  rw [State.install_eq, State.modLaunch_eq]
  refine (State.busy_testLock ..).trans ?_
  rw [State.startWarps_eq]
  rfl

/-- The scratchpad of a block at its start is 0. -/
theorem State.byteAt_install {n : Nat} (hn : n < 2 ^ 24) : (s.install l x c).byteAt (scratchAddr c n) = 0 := by
  have haddr : scratchAddr c n - scratchBase = c * 2 ^ 24 + n := by unfold scratchAddr; omega
  have hspace : ¬ scratchAddr c n < scratchBase := by unfold scratchAddr; omega
  rw [State.install_rest, State.byteAt, if_neg hspace, haddr]
  exact Mem.read_clear _ (Nat.le_add_right ..) (Nat.add_lt_add_left hn _)

variable {x} in
/-- The threads of an installed block are at their start (R384). -/
theorem State.thr_install (hwarps : x.record.warps ≤ 63) {w h : Nat} (hw : w < x.record.warps) (hh : h < 32) :
    (s.install l x c).thr (mkThread c (warpSlot w) 0 h) = startThread x (x.cores.idxOf c) (32 * w + h) := by
  have hraster : mkThread c (warpSlot w) 0 h ≠ rasterThread c := by
    unfold rasterThread mkThread mkWarp warpSlot
    omega
  rw [State.install_eq, State.modLaunch_eq, State.testLock_eq]
  refine (State.thr_setThr ..).trans ((if_neg hraster).trans ?_)
  exact State.thr_startWarps _ x c _ (by omega) hw hh

/-- The operations of the core's agent stay in flight. -/
theorem State.ops_install : (s.install l x c).ops = s.ops.filter fun e => !userThread c e.2.thr := by
  rw [State.install_rest]
  rfl

theorem State.nextOp_install : (s.install l x c).nextOp = s.nextOp := by
  rw [State.install_rest]
  rfl

end

end Sys2Proof.Machine

namespace Sys2Proof.Machine

/-! # The agent's words in flight (R142, R383, R384) -/

/-- A word that puts an operation in flight, with its answer where it has one already. -/
def State.issued (s : State) (t : Nat) (a : Access) (result : Option (List Word)) : State :=
  (s.setFlags a).opFor t a 0 0 result

/-- The operation of such a word. -/
def State.opOf (s : State) (t : Nat) (a : Access) (result : Option (List Word)) : Op :=
  { thr := t, acc := a, pa := 0, mt := 0, epoch := s.epoch, serial := s.serial, result := result }

section

variable (s : State) (t : Nat) (a : Access) (result : Option (List Word))

theorem State.issued_eq : s.issued t a result = { s with
    threads := (s.setFlags a).threads, ops := s.ops.put s.nextOp (s.opOf t a result), nextOp := s.nextOp + 1 } := by
  rw [State.issued, State.setFlags_eq]
  rfl

theorem State.issued_eq_tileOp : s.issued t a result = s.tileOp t a s.launches result := by
  rw [State.issued, State.tileOp, State.setFlags_eq]

@[simp] theorem State.nextOp_issued : (s.issued t a result).nextOp = s.nextOp + 1 := by rw [State.issued_eq]

theorem State.find_ops_issued : (s.issued t a result).ops.find s.nextOp = some (s.opOf t a result) := by
  rw [State.issued_eq]
  exact Tab.find_put_same ..

@[simp] theorem State.launch_issued (l : Nat) : (s.issued t a result).launch? l = s.launch? l := by
  rw [State.issued_eq]
  rfl

theorem State.mayStart_issued (l : Nat) (x : Launch) : (s.issued t a result).mayStart l x = s.mayStart l x := by
  rw [State.issued_eq]
  rfl

theorem State.core_issued (c : Nat) : (s.issued t a result).core c = s.core c := by
  rw [State.issued_eq]
  rfl

theorem State.cores_issued : (s.issued t a result).cores = s.cores := by rw [State.issued_eq]

theorem State.launches_issued : (s.issued t a result).launches = s.launches := by rw [State.issued_eq]

end

/-! ## Operations answered -/

/-- An operation answered with nothing to deliver. -/
def Op.done (o : Op) : Op := { o with result := some [] }

theorem State.answerOps_eq (s : State) (ids : List Nat) : s.answerOps ids = { s with ops := (s.answerOps ids).ops } := by
  refine List.foldlRecOn (motive := fun u : State => u = { s with ops := u.ops }) _ _ rfl fun u hu k _ => ?_
  split
  next o _ => exact (congrArg (fun v : State => { v with ops := u.ops.put k { o with result := some [] } }) hu).trans rfl
  · exact hu

/-- Each operation named is done, and every other one is as before. -/
theorem State.find_answerOps (s : State) (ids : List Nat) (n : Nat) :
    (s.answerOps ids).ops.find n = (s.ops.find n).map fun o => if n ∈ ids then o.done else o := by
  induction ids generalizing s with
  | nil => simp [State.answerOps]
  | cons k ids ih =>
    cases hk : s.ops.find k with
    | none =>
      have e : s.answerOps (k :: ids) = s.answerOps ids := by simp only [State.answerOps, List.foldl_cons, hk]
      rw [e, ih]
      by_cases hn : n = k
      · subst hn; simp [hk]
      · simp [hn]
    | some o =>
      have e : s.answerOps (k :: ids) = ({ s with ops := s.ops.put k o.done } : State).answerOps ids := by
        simp only [State.answerOps, List.foldl_cons, hk]
        rfl
      rw [e, ih]
      by_cases hn : n = k
      · subst hn; simp [hk, Op.done]
      · simp [hn, Tab.find_put_ne]

/-! ## What the words do -/

section

variable {s : State} {i : Issue} {sc : Scope} {p : BitVec 3} {t l : Nat} {x : Launch}

theorem State.reservedSlot_some {c slot : Nat} (h : s.reservedSlot c slot = some (l, x)) :
    (s.core c).reserved = some l ∧ s.launch? l = some x := by
  unfold State.reservedSlot at h
  split at h
  · cases h
  · split at h
    next hr =>
      obtain ⟨y, hy, e⟩ := Option.map_eq_some_iff.mp h
      cases e
      exact ⟨hr, hy⟩
    · cases h

/-- A claim answers with its words once what it reserves is reserved (R383). -/
theorem exec_agentClaim (d : BitVec 7) (hi : Claims.Setting s i) (ha : s.actors i sc p.toNat = [t]) :
    exec (.agentClaim sc d p) s = .next ((s.claim (coreOf t)).2.issued t
      ((s.claim (coreOf t)).2.mkAccess i sc t true (.priv d.toNat)) (some (s.claim (coreOf t)).1)) :=
  onIssue_one_ran hi.1 ha rfl

/-- BLK.START of a launch that is being placed goes in flight, and its placement is tried (R384). -/
theorem exec_blkStart {a : BitVec 7} (hi : Claims.Setting s i) (ha : s.actors i sc p.toNat = [t])
    (hslot : s.reservedSlot (coreOf t) (s.reg t a.toNat).toNat = some (l, x)) (hp : x.phase = .ticketed)
    (hnew : x.installed = []) :
    exec (.blkStart sc a p) s = .next ((s.issued t (s.mkAccess i sc t true (.blkStart (coreOf t))) none).tryPlace l) := by
  refine onIssue_one_ran hi.1 ha ?_
  simp only [State.blkStart, hslot, hp, hnew]
  rfl

theorem exec_blkStart_refused {a : BitVec 7} (hi : Claims.Setting s i) (ha : s.actors i sc p.toNat = [t])
    (hslot : s.reservedSlot (coreOf t) (s.reg t a.toNat).toNat = none) :
    exec (.blkStart sc a p) s = .next (s.raise (if sc = .lane then [t] else i.group) i.faultAt
      (plainFault clsBudget) (some (i.here 0))) := by
  refine onIssue_one_fault hi.1 ha ?_ rfl
  simp only [State.blkStart, hslot]

theorem exec_blkStop {a : BitVec 7} (hi : Claims.Setting s i) (ha : s.actors i sc p.toNat = [t])
    (hslot : s.reservedSlot (coreOf t) (s.reg t a.toNat).toNat = some (l, x)) :
    exec (.blkStop sc a p) s =
      .next (((s.issued t (s.mkAccess i sc t true (.priv 120)) none).stopLaunch l x).answerOps [s.nextOp]) := by
  refine onIssue_one_ran hi.1 ha ?_
  simp only [State.blkStop, hslot]
  rfl

end

/-! # The stop of a launch (R384) -/

theorem Tab.find_filter_of {α : Type} {t : Tab α} {k : Nat} {x : α} {f : Nat × α → Bool} (h : t.find k = some x)
    (hf : f (k, x) = true) : Tab.find (t.filter f) k = some x := by
  induction t with
  | nil => cases h
  | cons e r ih =>
    obtain ⟨a, y⟩ := e
    by_cases ha : a = k
    · subst ha
      have hy : y = x := by simpa [Tab.find] using h
      subst hy
      simp [hf, Tab.find]
    · have hr : Tab.find r k = some x := by simpa [Tab.find, ha] using h
      rw [List.filter_cons]
      split
      · simpa [Tab.find, ha] using ih hr
      · exact ih hr

theorem Tab.find_foldl_del {α : Type} (t : Tab α) (ks : List Nat) (k : Nat) :
    Tab.find (ks.foldl Tab.del t) k = if k ∈ ks then none else t.find k := by
  induction ks generalizing t with
  | nil => rfl
  | cons a ks ih =>
    rw [List.foldl_cons, ih]
    by_cases ha : k = a
    · subst ha; simp
    · simp [ha, Tab.find_del_ne]

section

variable {s : State} {n : Nat} {o : Op}

/-- The blocks of some cores are gone. -/
theorem State.block_foldl_clearBlock (s : State) {cs : List Nat} {c : Nat} (hc : c ∈ cs) :
    (cs.foldl State.clearBlock s).blocks.find c = none := by
  rw [← List.foldl_hom State.blocks (g₁ := State.clearBlock) (g₂ := Tab.del) fun _ _ => rfl, Tab.find_foldl_del, if_pos hc]

/-- An agent's operation is no operation of a block that goes. -/
theorem State.find_ops_foldl_clearBlock (ho : s.ops.find n = some o) (ha : isAgent o.thr = true) (cs : List Nat) :
    (cs.foldl State.clearBlock s).ops.find n = some o ∧ (cs.foldl State.clearBlock s).nextOp = s.nextOp :=
  List.foldlRecOn (motive := fun u : State => u.ops.find n = some o ∧ u.nextOp = s.nextOp) cs _ ⟨ho, rfl⟩ fun _ h c _ =>
    ⟨Tab.find_filter_of h.1 (by simp [userThread, ha]), h.2⟩

theorem State.freeCores_eq (s : State) (l : Nat) (cs : List Nat) :
    s.freeCores l cs = { s with cores := (s.freeCores l cs).cores } :=
  List.foldlRecOn (motive := fun u : State => u = { s with cores := u.cores }) cs _ rfl fun _ hu c _ =>
    (congrArg (fun v : State => v.modCore c _) hu).trans rfl

variable {l : Nat} {x : Launch}

/-- A launch dropped: its blocks removed, its cores freed, and its entry gone. -/
theorem State.dropLaunch_some (hx : s.launch? l = some x) : s.dropLaunch l =
    { (((x.installed.foldl State.clearBlock s).freeCores l x.reserved).pruneGates) with
      launches := (((x.installed.foldl State.clearBlock s).freeCores l x.reserved).pruneGates).launches.del l } := by
  simp only [State.dropLaunch, hx]
  rfl

/-- What the stop of a launch leaves: an agent's operation, no block of the launch, and no launch; and its queue halts. -/
theorem State.abortLaunch_spec (hx : s.launch? l = some x) (ho : s.ops.find n = some o) (ha : isAgent o.thr = true) (err : Nat) :
    (s.abortLaunch l err).launch? l = none ∧ ((s.abortLaunch l err).queue x.vdev x.queue).err = err ∧
      ((s.abortLaunch l err).queue x.vdev x.queue).phase = 3 ∧ (s.abortLaunch l err).ops.find n = some o ∧
      (s.abortLaunch l err).nextOp = s.nextOp ∧ ∀ c ∈ x.installed, ((s.abortLaunch l err).block c).active = false := by
  obtain ⟨hop, hnext⟩ := State.find_ops_foldl_clearBlock ho ha x.installed
  have e : s.abortLaunch l err = (s.dropLaunch l).haltQueue x.vdev x.queue err := by simp only [State.abortLaunch, hx]
  have hr := (s.dropLaunch l).rebound_haltQueue x.vdev x.queue err
  have hd := State.dropLaunch_some hx
  rw [State.freeCores_eq] at hd
  rw [e]
  refine ⟨hr.launch_none ?_, by rw [State.queue_haltQueue], by rw [State.queue_haltQueue], ?_, ?_, fun c hc => ?_⟩
  · rw [hd]
    exact Tab.find_del_same ..
  · rw [hr.rest, hd]
    exact hop
  · rw [hr.rest, hd]
    exact hnext
  · rw [hr.rest, hd]
    exact congrArg (fun b : Option Block => (b.getD Block.empty).active) (s.block_foldl_clearBlock hc)

end

end Sys2Proof.Machine

namespace Sys2Proof.Machine

/-! # The start of a launch of one core (R384) -/

section

variable {s : State} {t l : Nat} {x : Launch} {a : Access}

theorem State.asking_none {f : Acc → Bool} (h : ∀ e ∈ s.ops, e.2.result.isSome ∨ f e.2.acc.acc = false) :
    s.asking f = [] := by
  have hnone : (s.ops.filter fun e => e.2.result.isNone && f e.2.acc.acc) = [] := by
    refine List.filter_eq_nil_iff.mpr fun e he => ?_
    rcases h e he with hr | hf
    · simp [Option.isSome_iff_ne_none.mp hr]
    · simp [hf]
  simp only [State.asking, hnone, List.map_nil]

/-- A launch of one core as its block starts. -/
def Launch.started (x : Launch) (c : Nat) : Launch := { x.placed with installed := [c], phase := .running }

/-- The state in which the one block of a launch stands on its core and the BLK.START of it is answered. -/
def State.startedOn (s : State) (t l c : Nat) (x : Launch) (a : Access) : State :=
  ((((s.issued t a none).setLaunch l x.placed).install l x.placed c).answerOps [s.nextOp]).modLaunch l Launch.issues

variable {c : Nat} (ho : s.ops = []) (ha : isAgent t = true)

include ho in
theorem State.ops_issued_only (r : Option (List Word)) : (s.issued t a r).ops = [(s.nextOp, s.opOf t a r)] := by
  rw [State.issued_eq]
  show Tab.put s.ops _ _ = _
  rw [ho]
  rfl

include ho ha in
/-- The word of the core's agent stays in flight where its block is installed. -/
theorem State.ops_install_issued : (((s.issued t a none).setLaunch l x.placed).install l x.placed c).ops =
    [(s.nextOp, s.opOf t a none)] := by
  rw [State.ops_install]
  show List.filter _ (s.issued t a none).ops = _
  rw [State.ops_issued_only ho]
  simp [State.opOf, userThread, ha]

include ho ha in
theorem State.ops_startedOn : (s.startedOn t l c x a).ops = [(s.nextOp, (s.opOf t a none).done)] := by
  rw [State.startedOn, State.modLaunch_eq]
  show (State.answerOps _ [s.nextOp]).ops = _
  simp only [State.answerOps, List.foldl_cons, List.foldl_nil, State.ops_install_issued ho ha, Tab.find, if_true]
  simp [Tab.put, Op.done]

theorem State.nextOp_startedOn : (s.startedOn t l c x a).nextOp = s.nextOp + 1 := by
  rw [State.startedOn, State.modLaunch_eq, State.answerOps_eq]
  exact (State.nextOp_install ..).trans (s.nextOp_issued t a none)

/-- What the start leaves as the installation made it. -/
theorem State.startedOn_rest : s.startedOn t l c x a = { ((s.issued t a none).setLaunch l x.placed).install l x.placed c with
    ops := (s.startedOn t l c x a).ops, launches := (s.startedOn t l c x a).launches } := by
  rw [State.startedOn, State.modLaunch_eq, State.answerOps_eq]

/-- Its threads are those of the installation. -/
theorem State.thr_startedOn (k : Nat) : (s.startedOn t l c x a).thr k =
    (((s.issued t a none).setLaunch l x.placed).install l x.placed c).thr k := by
  have hthreads : (s.startedOn t l c x a).threads =
      (((s.issued t a none).setLaunch l x.placed).install l x.placed c).threads := by rw [State.startedOn_rest]
  simp only [State.thr, hthreads]

theorem State.launch_startedOn (hcores : coresOf x.record.cores = [c]) (hnew : x.installed = []) :
    (s.startedOn t l c x a).launch? l = some (x.started c) := by
  have hinstalled := State.launch_install ((s.issued t a none).setLaunch l x.placed) l x.placed c
    (State.launch_setLaunch_same ..)
  rw [State.startedOn, State.launch_modLaunch, if_pos rfl, State.answerOps_eq]
  refine (congrArg (Option.map _) hinstalled).trans ?_
  simp [Launch.issues, Launch.placed, Launch.started, hcores, hnew, sortBy, insertBy]

include ho ha in
/-- The BLK.START of the only core of a reserved launch, with nothing else in flight: its block is installed, the launch
runs, and the word is answered. -/
theorem State.tryPlace_one (hx : s.launch? l = some x) (hp : x.phase = .ticketed)
    (hcores : coresOf x.record.cores = [c]) (hnew : x.installed = []) (hstart : s.mayStart l x = true)
    (hreserved : (s.core c).reserved = some l) (he : x.evict = false) (hbusy : (s.vdev x.vdev).busy = false)
    (hacc : a.acc = .blkStart c) : (s.issued t a none).tryPlace l = s.startedOn t l c x a := by
  have hready : (s.issued t a none).allReserved l x = true := by
    simp [State.allReserved, hp, hcores, State.mayStart_issued, hstart, State.core_issued, hreserved]
  have hinstall : ((s.issued t a none).setLaunch l x.placed).installOn l c =
      (((s.issued t a none).setLaunch l x.placed).install l x.placed c).answerOps [s.nextOp] := by
    have hlaunch : ((s.issued t a none).setLaunch l x.placed).launch? l = some x.placed := State.launch_setLaunch_same ..
    unfold State.installOn
    split
    · next h => cases hlaunch.symm.trans h
    next z h =>
      obtain rfl : x.placed = z := Option.some.inj (hlaunch.symm.trans h)
      extract_lets ids
      have hids : ids = [s.nextOp] := by
        show ((s.issued t a none).ops.filter _).map _ = _
        rw [State.ops_issued_only ho]
        simp [State.opOf, hacc]
      rw [hids]
      exact if_pos (by simp [Launch.placed, hnew])
  refine State.tryPlace_eq ((State.launch_issued ..).trans hx) (if_pos hready) ?_ (State.asking_none ?_) ?_ he
  · rw [show x.placed.cores = [c] from hcores, List.foldl_cons, List.foldl_nil, hinstall]
    rfl
  · rw [State.ops_startedOn ho ha]
    simp [Op.done]
  · rw [State.startedOn_rest]
    refine (State.busy_install ..).trans ?_
    rw [State.issued_eq]
    exact hbusy

end

end Sys2Proof.Machine

namespace Sys2Proof.Claims

open Sys2Proof.Machine

/-! # Claims and blocks -/

section

variable {s : State} {i : Issue} {sc : Scope} {d a : BitVec 7} {p : BitVec 3} {t : Nat}

/-- What a word leaves that puts an operation in flight. -/
theorem issued_spec {s u : State} (hn : u.nextOp = s.nextOp) (t : Nat) (a : Access) (result : Option (List Word)) :
    SameBytes u (u.issued t a result) ∧ SameRegs u (u.issued t a result) ∧
      (newOp s (u.issued t a result)).map (fun o => (o.thr, o.result)) = some (t, result) := by
  obtain ⟨hbytes, hregs, hop, -⟩ := tileOp_spec u t a u.launches result
  rw [State.issued_eq_tileOp]
  refine ⟨hbytes, hregs, ?_⟩
  rw [← hop, newOp, newOp, hn]

/-- The operation that a word has put in flight, found in the state that the word leaves. -/
theorem newOp_of_find {s r : State} {o : Op} (hn : r.nextOp = s.nextOp + 1) (ho : r.ops.find s.nextOp = some o) :
    newOp s r = some o := by
  simp [newOp, hn, ho]

theorem claimRefused (hi : Setting s i) (ha : s.actors i sc p.toNat = [t]) (h : s.claimable (coreOf t) = none ∨
    ((s.block (coreOf t)).active = true ∧ ∀ l, s.claimable (coreOf t) = some l → s.outranks l (coreOf t) = false)) :
    ∃ r, exec (.agentClaim sc d p) s = .next r ∧
      (newOp s r).map (fun o => (o.thr, o.result)) = some (t, some [0xFFFFFFFF, 0xFFFFFFFF, 0xFFFFFFFF, 0xFFFFFFFF]) ∧
      r.cores = s.cores ∧ r.launches = s.launches ∧ SameRegs s r := by
  have he := exec_agentClaim d hi ha
  rw [State.claim_refused h] at he
  obtain ⟨-, hregs, hop⟩ := issued_spec (s := s) rfl t (s.mkAccess i sc t true (.priv d.toNat))
    (some [0xFFFFFFFF, 0xFFFFFFFF, 0xFFFFFFFF, 0xFFFFFFFF])
  exact ⟨_, he, hop, State.cores_issued .., State.launches_issued .., hregs⟩

theorem claimPreempts (hi : Setting s i) (ha : s.actors i sc p.toNat = [t]) {l : Nat} {y : Launch}
    (hactive : (s.block (coreOf t)).active = true) (hc : s.claimable (coreOf t) = some l)
    (hrank : s.outranks l (coreOf t) = true) (ho : s.ops = [])
    (hy : s.launch? (s.block (coreOf t)).launch = some y) (hp : y.phase = .running) :
    ∃ r z, exec (.agentClaim sc d p) s = .next r ∧ r.launch? (s.block (coreOf t)).launch = some z ∧ z.phase ≠ .running := by
  obtain ⟨ph, hph, hne⟩ := (State.rests_claim hactive hc hrank ho hy hp).stands
  obtain ⟨z, hz, rfl⟩ := Option.map_eq_some_iff.mp hph
  exact ⟨_, z, exec_agentClaim d hi ha, (State.launch_issued ..).trans hz, hne⟩

/-- A claim of a free core with nothing in flight changes cores and launches alone. -/
theorem claim_idle {c l : Nat} {x : Launch} (hfree : (s.block c).active = false) (hc : s.claimable c = some l)
    (hx : s.launch? l = some x) (ho : s.ops = []) (he : x.evict = false)
    (hbusy : (s.vdev x.vdev).busy = false) : (s.claim c).1 = s.claimWords c x (s.chosenCores l x) ∧
      (s.claim c).2 = { s with cores := (s.claim c).2.cores, launches := (s.claim c).2.launches } ∧
      ((s.claim c).2.core c).reserved = some l := by
  obtain ⟨z, hz, hzv, hze⟩ : ∃ z : Launch, (s.reserve c l (s.chosenCores l x)).launch? l = some z ∧ z.vdev = x.vdev ∧
      z.evict = false := by
    refine ⟨_, (State.launch_modLaunch ..).trans ((if_pos rfl).trans (congrArg (Option.map _) hx)), rfl, he⟩
  have hidle : (s.reserve c l (s.chosenCores l x)).ops = [] := by
    rw [State.reserve, State.modLaunch_eq]
    exact ho
  have hquiet : ((s.reserve c l (s.chosenCores l x)).vdev z.vdev).busy = false := by
    rw [State.reserve, State.modLaunch_eq, hzv]
    exact hbusy
  obtain ⟨y, hy⟩ := State.tryPlace_idle hidle hz hze hquiet
  have hclaim := State.claim_free hfree hc hx
  rw [hy, State.tryRestore_idle (s := State.setLaunch _ l y) hidle, State.reserve, State.modLaunch_eq] at hclaim
  rw [hclaim]
  refine ⟨rfl, rfl, ?_⟩
  exact congrArg Core.reserved (State.core_setCore_same ..)

/-- A claim of a free core: the ticket's words, and the core reserved (R142, R383). -/
theorem claimReserves (hi : Setting s i) (ha : s.actors i sc p.toNat = [t]) {l : Nat} {x : Launch}
    (hfree : (s.block (coreOf t)).active = false) (hc : s.claimable (coreOf t) = some l) (hx : s.launch? l = some x)
    (ho : s.ops = []) (he : x.evict = false) (hbusy : (s.vdev x.vdev).busy = false) :
    ∃ r, exec (.agentClaim sc d p) s = .next r ∧ SameBytes s r ∧
      (newOp s r).map (fun o => (o.thr, o.result)) = some (t, some (s.claimWords (coreOf t) x (s.chosenCores l x))) ∧
      (r.core (coreOf t)).reserved = some l := by
  obtain ⟨hwords, hrest, hreserved⟩ := claim_idle hfree hc hx ho he hbusy
  have hnext : (s.claim (coreOf t)).2.nextOp = s.nextOp := by rw [hrest]
  obtain ⟨hbytes, -, hop⟩ := issued_spec hnext t ((s.claim (coreOf t)).2.mkAccess i sc t true (.priv d.toNat))
    (some (s.claim (coreOf t)).1)
  refine ⟨_, exec_agentClaim d hi ha, fun k => (hbytes k).trans ?_, hop.trans (by rw [hwords]), ?_⟩
  · rw [hrest]
    rfl
  · rw [State.core_issued]
    exact hreserved

/-- BLK.START of a launch of one core (R384). -/
theorem blockStarts (hi : Setting s i) (ha : s.actors i sc p.toNat = [t]) {c l : Nat} {x : Launch} {z : Ctx}
    (hcore : coreOf t = c) (hslot : s.reservedSlot c (s.reg t a.toNat).toNat = some (l, x)) (hp : x.phase = .ticketed)
    (hcores : coresOf x.record.cores = [c]) (hnew : x.installed = []) (hstart : s.mayStart l x = true) (he : x.evict = false)
    (ho : s.ops = []) (hbusy : (s.vdev x.vdev).busy = false) (hagent : isAgent t = true) (hz : s.ctx? x.vdev x.ctx = some z)
    (hwarps : x.record.warps ≤ 63) :
    ∃ r, exec (.blkStart sc a p) s = .next r ∧ (newOp s r).map (fun o => (o.thr, o.result)) = some (t, some []) ∧
      (r.launch? l).map (fun y => (y.phase, y.installed)) = some (.running, [c]) ∧
      r.block c = startBlock l x.placed c 0 z ∧ (r.core c).storageOf = some x.vdev ∧
      (∀ n, n < 2 ^ 24 → r.byteAt (scratchAddr c n) = 0) ∧
      ∀ w h, w < x.record.warps → h < 32 →
        r.thr (mkThread c (warpSlot w) 0 h) = startThread x.placed 0 (32 * w + h) := by
  subst hcore
  obtain ⟨hreserved, hx⟩ := State.reservedSlot_some hslot
  have hplace := State.tryPlace_one (t := t) (a := s.mkAccess i sc t true (.blkStart (coreOf t))) ho hagent hx hp hcores hnew
    hstart hreserved he hbusy rfl
  have hrank : x.placed.cores.idxOf (coreOf t) = 0 := by
    show (coresOf x.record.cores).idxOf (coreOf t) = 0
    rw [hcores, List.idxOf_cons_self]
  have hctx : ((s.issued t (s.mkAccess i sc t true (.blkStart (coreOf t))) none).setLaunch l x.placed).ctx? x.placed.vdev
      x.placed.ctx = some z := by
    rw [State.issued_eq]
    exact hz
  refine ⟨_, (exec_blkStart hi ha hslot hp hnew).trans (congrArg Host.Outcome.next hplace), ?_, ?_, ?_, ?_, fun n hn => ?_,
    fun w h hw hh => ?_⟩
  · have hop : (s.startedOn t l (coreOf t) x (s.mkAccess i sc t true (.blkStart (coreOf t)))).ops.find s.nextOp =
        some (s.opOf t (s.mkAccess i sc t true (.blkStart (coreOf t))) none).done := by
      rw [State.ops_startedOn ho hagent, Tab.find, if_pos rfl]
    rw [newOp_of_find State.nextOp_startedOn hop]
    rfl
  · rw [State.launch_startedOn hcores hnew]
    rfl
  · rw [State.startedOn_rest]
    refine (State.block_install ..).trans ?_
    rw [State.newBlock, hrank, hctx]
    rfl
  · rw [State.startedOn_rest]
    exact State.storageOf_install ..
  · rw [State.startedOn_rest]
    exact State.byteAt_install _ _ _ _ hn
  · rw [State.thr_startedOn]
    exact (State.thr_install (x := x.placed) _ l (coreOf t) hwarps hw hh).trans (by rw [hrank])

/-- BLK.STOP of a launch that has reserved the core (R384). -/
theorem blockStops (hi : Setting s i) (ha : s.actors i sc p.toNat = [t]) {l : Nat} {x : Launch}
    (hslot : s.reservedSlot (coreOf t) (s.reg t a.toNat).toNat = some (l, x)) (hagent : isAgent t = true) :
    ∃ r, exec (.blkStop sc a p) s = .next r ∧ r.launch? l = none ∧ (r.queue x.vdev x.queue).err = 15 ∧
      (r.queue x.vdev x.queue).phase = 3 ∧ (newOp s r).map (fun o => (o.thr, o.result)) = some (t, some []) ∧
      ∀ k ∈ x.installed, (r.block k).active = false := by
  obtain ⟨-, hx⟩ := State.reservedSlot_some hslot
  generalize hu : s.issued t (s.mkAccess i sc t true (.priv 120)) none = u
  have hlaunch : u.launch? l = some x := by rw [← hu, State.launch_issued, hx]
  have hnext : u.nextOp = s.nextOp + 1 := by rw [← hu, State.nextOp_issued]
  have hop : u.ops.find s.nextOp = some (s.opOf t (s.mkAccess i sc t true (.priv 120)) none) := by
    rw [← hu, State.find_ops_issued]
  have hids : ∀ ids, (u.answerOps ids).launch? l = some x ∧ (u.answerOps ids).nextOp = s.nextOp + 1 ∧
      ∃ o, (u.answerOps ids).ops.find s.nextOp = some o ∧ o.thr = t := fun ids => by
    rw [State.find_answerOps, hop]
    refine ⟨by rw [State.answerOps_eq]; exact hlaunch, by rw [State.answerOps_eq]; exact hnext, _, rfl, ?_⟩
    split <;> rfl
  obtain ⟨ids, hstop⟩ : ∃ ids, u.stopLaunch l x = (u.answerOps ids).abortLaunch l 15 := ⟨_, rfl⟩
  obtain ⟨hl, hn, o, ho, hthr⟩ := hids ids
  obtain ⟨hgone, herr, hphase, hop', hn', hblocks⟩ := State.abortLaunch_spec hl ho (hthr ▸ hagent) 15
  rw [← hstop] at hgone herr hphase hop' hn' hblocks
  have hdone : ((u.stopLaunch l x).answerOps [s.nextOp]).ops.find s.nextOp = some o.done := by
    rw [State.find_answerOps, hop', Option.map_some, if_pos (List.mem_singleton_self _)]
  refine ⟨_, (exec_blkStop hi ha hslot).trans (by rw [hu]), ?_, ?_, ?_, ?_, fun k hk => ?_⟩
  · rw [State.answerOps_eq]
    exact hgone
  · rw [State.answerOps_eq]
    exact herr
  · rw [State.answerOps_eq]
    exact hphase
  · rw [newOp_of_find (by rw [State.answerOps_eq]; exact hn'.trans hn) hdone, ← hthr]
    rfl
  · rw [State.answerOps_eq]
    exact hblocks k hk

theorem blocksStartAndStop : BlocksStartAndStop := by
  intro s i sc d a p t hi _ ha c slot answer trap
  refine ⟨fun h => claimRefused hi ha h, fun l y hactive hc hrank ho hy hp => claimPreempts hi ha hactive hc hrank ho hy hp,
    fun l x hfree hc hx _ ho he hbusy => ?claims, fun hslot => exec_blkStart_refused hi ha hslot,
    fun l x z hslot hp hcores hnew hstart he ho hbusy hagent _ hz hwarps => ?starts,
    fun l x hslot hagent => blockStops hi ha hslot hagent⟩
  case claims =>
    obtain ⟨r, hr, hbytes, hop, hreserved⟩ := claimReserves (d := d) hi ha hfree hc hx ho he hbusy
    refine ⟨r, hr, hbytes, hop.trans ?_, hreserved⟩
    simp only [State.claimWords, w32n, Nat.mul_comm x.vdev]
    rfl
  case starts =>
    obtain ⟨r, hr, hop, hlaunch, hblock, hstorage, hzero, hthr⟩ := blockStarts (a := a) hi ha rfl hslot hp hcores hnew hstart he
      ho hbusy hagent hz hwarps
    refine ⟨r, hr, hop, hlaunch, ?_, ?_, ?_, ?_, ?_, hstorage, hzero, fun w h hw hh => ?_⟩
    case refine_6 =>
      rw [hthr w h hw hh]
      refine ⟨rfl, rfl, rfl, ?_⟩
      simp only [startThread, Launch.placed, Nat.mul_zero, Nat.zero_add]
    all_goals rw [hblock]; rfl

end

end Sys2Proof.Claims

namespace Sys2Proof.Machine

/-- Settles O49: the agent's claims, placements, stops and waits, each taken by the rule of its instruction. -/
theorem agentsPlaceBlocks : Obligations.AgentsPlaceBlocks := ⟨Claims.blocksStartAndStop, Claims.theAgentWaits⟩

end Sys2Proof.Machine

namespace Sys2Proof.Machine

/-! # Exchange, votes, reductions and scans (R152-R156) -/

/-! ## Sources read, and values written, thread by thread -/

section

variable (s : State) (i : Issue)

/-- A plain source is read of each thread, and nothing changes (R9). -/
theorem State.readAll_plain {c : Nat} (hc : c < 124) (ts : List Nat) :
    s.readAll i c ts = (.ok (ts.map fun t => (t, s.reg t c)), s) := by
  induction ts with
  | nil => rfl
  | cons t ts ih => simp only [State.readAll, State.source_plain _ _ _ _ hc, ih, List.map_cons]

/-- Values written each in its thread's vector register. -/
theorem State.foldl_setVec_pairs (d : Nat) (val : Nat → Word) (ts : List Nat) :
    (ts.map fun k => (k, val k)).foldl (fun s x => s.setVec x.1 d x.2) s = s.setVecs ts d val :=
  List.foldl_map

/-- A vector destination takes each participant's value (R152, R155). -/
theorem State.giveEach_vec {d : Nat} (hd : d < 96) (val : Nat → Word) (ts : List Nat) :
    s.giveEach i d (ts.map fun k => (k, val k)) = s.setVecs ts d val :=
  (if_pos hd).trans (s.foldl_setVec_pairs d val ts)

/-- A uniform destination takes the value of the first participant, where that is the group's first member (R152). -/
theorem State.giveEach_uniform {d t : Nat} {g : List Nat} (hd : 96 ≤ d) (hg : i.group = t :: g) (x : Word)
    (rs : List (Nat × Word)) : s.giveEach i d ((t, x) :: rs) = s.setReg t (s.dstWarps i t) d x := by
  simp only [State.giveEach, Nat.not_lt.mpr hd, hg, List.head?_cons, if_true, if_false]

end

/-! ## The exchange (R152) -/

/-- What SHFL gives thread `k`: the source of the member whose lane its B names, or else its own. -/
def State.sent (s : State) (i : Issue) (a b k : Nat) : Word :=
  ((i.group.find? fun m => (laneOf m : Int) = shflSrc (laneOf k) (s.reg k b)).map fun m => s.reg m a).getD (s.reg k a)

theorem State.shflVal_eq_sent (s : State) (i : Issue) (a b k : Nat) :
    shflVal (i.group.map fun m => (m, s.reg m a)) k (s.reg k a) (s.reg k b) = s.sent i a b k := by
  simp only [shflVal, State.sent, List.find?_map, Function.comp_def]
  cases i.group.find? fun m => (laneOf m : Int) = shflSrc (laneOf k) (s.reg k b) <;> rfl

/-! ## Folds and prefixes (R154-R156) -/

/-- The fold of some threads' sources by a reduction function, from its identity. -/
def State.reduced (s : State) (md : Modes) (f a : Nat) (ts : List Nat) : Word :=
  (ts.map fun k => s.reg k a).foldl (reduxStep md f) (reduxId f)

theorem State.reduxFold_eq_reduced (s : State) (md : Modes) (f a : Nat) (ts : List Nat) :
    reduxFold md f (ts.map fun k => (k, s.reg k a)) = s.reduced md f a ts := by
  simp only [reduxFold, State.reduced, List.foldl_map]

/-- The value of each prefix stands with the last thread of that prefix. -/
theorem prefixes_map (md : Modes) (f : Nat) (val : Nat → Word) {ts : List Nat} (hn : ts.Nodup) (r : Word) :
    prefixes md f r (ts.map fun k => (k, val k)) =
      ts.map fun k => (k, ((ts.take (ts.findIdx (· = k) + 1)).map val).foldl (reduxStep md f) r) := by
  induction ts generalizing r with
  | nil => rfl
  | cons t ts ih =>
    obtain ⟨ht, hts⟩ := List.nodup_cons.mp hn
    have hhead : (t :: ts).findIdx (· = t) = 0 := by simp [List.findIdx_cons]
    have htail : ∀ k ∈ ts, (t :: ts).findIdx (· = k) = ts.findIdx (· = k) + 1 := fun k hk => by
      have hne : t ≠ k := fun e => ht (e ▸ hk)
      simp [List.findIdx_cons, hne]
    rw [List.map_cons, prefixes, ih hts, List.map_cons, hhead]
    refine congrArg₂ List.cons rfl (List.map_congr_left fun k hk => ?_)
    rw [htail k hk, List.take_succ_cons, List.map_cons, List.foldl_cons]

/-- The prefixes of a scan, folded from the function's identity. -/
theorem State.prefixes_eq_reduced (s : State) (md : Modes) (f a : Nat) {ts : List Nat} (hn : ts.Nodup) :
    prefixes md f (reduxId f) (ts.map fun k => (k, s.reg k a)) =
      ts.map fun k => (k, s.reduced md f a (ts.take (ts.findIdx (· = k) + 1))) :=
  prefixes_map md f (fun k => s.reg k a) hn _

/-! ## The functions (R154) -/

/-- Of two words the one that a reading puts lower. -/
theorem reading_lower {α β : Type} [LinearOrder β] (read : α → β) (x y : α) :
    read (if read x ≤ read y then x else y) = min (read x) (read y) := by rw [apply_ite read, min_def]

/-- Of two words the one that a reading puts higher. -/
theorem reading_higher {α β : Type} [LinearOrder β] (read : α → β) (x y : α) :
    read (if read y ≤ read x then x else y) = max (read x) (read y) := by
  rw [apply_ite read, max_comm, max_def]

section

variable (md : Modes) (x y : Word)

theorem reduxStep_minS : (reduxStep md 1 x y).toInt = min x.toInt y.toInt := reading_lower BitVec.toInt x y
theorem reduxStep_maxS : (reduxStep md 2 x y).toInt = max x.toInt y.toInt := reading_higher BitVec.toInt x y
theorem reduxStep_minU : (reduxStep md 3 x y).toNat = min x.toNat y.toNat := reading_lower BitVec.toNat x y
theorem reduxStep_maxU : (reduxStep md 4 x y).toNat = max x.toNat y.toNat := reading_higher BitVec.toNat x y

/-- The least and the greatest words are the identities of the maxima and the minima. -/
theorem reduxStep_reduxId {f : Nat} (hf : f < 8) : reduxStep md f (reduxId f) x = x := by
  match f, hf with
  | 0, _ => exact BitVec.zero_add x
  | 1, _ =>
    refine BitVec.eq_of_toInt_eq ((reduxStep_minS ..).trans (min_eq_right ?_))
    exact Int.le_of_lt_add_one (BitVec.toInt_lt (x := x))
  | 2, _ =>
    refine BitVec.eq_of_toInt_eq ((reduxStep_maxS ..).trans (max_eq_right ?_))
    exact BitVec.le_toInt x
  | 3, _ =>
    refine BitVec.eq_of_toNat_eq ((reduxStep_minU ..).trans (min_eq_right ?_))
    exact Nat.le_of_lt_succ x.isLt
  | 4, _ =>
    refine BitVec.eq_of_toNat_eq ((reduxStep_maxU ..).trans (max_eq_right ?_))
    exact Nat.zero_le _
  | 5, _ => exact BitVec.allOnes_and
  | 6, _ => exact BitVec.zero_or
  | 7, _ => exact BitVec.zero_xor

end

/-! ## The vote (R153) -/

/-- The three results of a vote: all, any, or all of one mind. -/
theorem voteResult_map (c : BitVec 3) (on : Nat → Bool) (ts : List Nat) :
    voteResult c.toNat (ts.map on) =
      if c = 0 then ts.all on else if c = 1 then ts.any on else (ts.all on || ts.all fun k => !on k) := by
  by_cases h0 : c = 0
  · simp [h0, voteResult]
  by_cases h1 : c = 1
  · simp [h1, voteResult]
  rw [if_neg h0, if_neg h1, voteResult]
  · simp [Function.comp_def]
  · exact fun h => h0 (BitVec.eq_of_toNat_eq h)
  · exact fun h => h1 (BitVec.eq_of_toNat_eq h)

/-! ## Yielding (R161) -/

/-- The threads that YIELD marks: at lane scope the guarded ones, at a wider scope all where the representative's guard
is true. -/
def State.yielding (s : State) (i : Issue) (sc : Scope) (p : Nat) : List Nat :=
  i.group.filter fun k => if sc = .lane then s.pred k p else s.pred (i.group.headD k) p

theorem State.mem_yielding {s : State} {i : Issue} {sc : Scope} {p k : Nat} : k ∈ s.yielding i sc p ↔
    k ∈ i.group ∧ (if sc = .lane then s.pred k p else s.pred (i.group.headD k) p) = true := List.mem_filter

end Sys2Proof.Machine

namespace Sys2Proof.Claims

open Sys2Proof.Machine

/-! # What the words of a group leave -/

/-- A value of each thread, in its own vector register: what an exchange, a reduction or a scan leaves. -/
theorem next_setVecs (s : State) {ts : List Nat} (d : Nat) (val : Nat → Word) (hn : ts.Nodup) :
    ∃ r, (.next (s.setVecs ts d val) : Out) = .next r ∧ r = { s with threads := r.threads } ∧
      ∀ k, r.thr k = if k ∈ ts then { s.thr k with v := (s.thr k).v.put d (val k) } else s.thr k :=
  ⟨_, rfl, s.setVecs_eq ts d val, s.setVecs_thr ts d val hn⟩

/-- One value in the uniform register of each of some warps; z discards it (R9). -/
theorem next_setReg_uniform (s : State) (t : Nat) (ws : List Nat) {n : Nat} (hn : 96 ≤ n) (x : Word) :
    ∃ r, (.next (s.setReg t ws n x) : Out) = .next r ∧ r = { s with warps := r.warps } ∧ ∀ k, r.warp k =
      if k ∈ ws ∧ n < 120 then { s.warp k with s := (s.warp k).s.put (n - 96) x } else s.warp k := by
  by_cases h : n < 120
  · rw [State.setReg_uni _ _ _ _ _ hn h]
    exact ⟨_, rfl, State.setUnis_eq .., fun k => by simp only [State.setUnis_warp, h, and_true]⟩
  · rw [State.setReg_zero _ _ _ _ _ (Nat.not_lt.mp h)]
    exact ⟨s, rfl, rfl, fun k => by simp only [h, and_false, if_false]⟩

/-- One predicate in each of some threads, where p0 discards, and then a uniform register: what a vote leaves. -/
theorem next_setPreds_setReg (s : State) (ts : List Nat) (pd : BitVec 3) (v : Bool) (t : Nat) (ws : List Nat) {n : Nat}
    (hn : 96 ≤ n) (x : Word) :
    ∃ r, (.next ((s.setPreds ts pd.toNat v).setReg t ws n x) : Out) = .next r ∧
      r = { s with threads := r.threads, warps := r.warps } ∧
      (∀ k, r.thr k = if k ∈ ts ∧ pd ≠ 0 then { s.thr k with p := setBit8 (s.thr k).p pd.toNat v } else s.thr k) ∧
      ∀ k, r.warp k = if k ∈ ws ∧ n < 120 then { s.warp k with s := (s.warp k).s.put (n - 96) x } else s.warp k := by
  have hpd : pd.toNat ≠ 0 ↔ pd ≠ 0 := not_congr (BitVec.toNat_inj (y := 0))
  have hthr := s.setPreds_thr ts pd.toNat v
  simp only [hpd] at hthr
  rw [State.setPreds_eq] at hthr ⊢
  generalize (s.setPreds ts pd.toNat v).threads = th at hthr ⊢
  obtain ⟨r, hr, hwarps, huni⟩ := next_setReg_uniform (s.withThreads th) t ws hn x
  have hth : r.threads = th := congrArg State.threads hwarps
  refine ⟨r, hr, hwarps.trans (by rw [hth]; rfl), fun k => ?_, huni⟩
  rw [← hthr k, hwarps]
  rfl

section

variable {s : State} {i : Issue} {sc : Scope} {d a b f : BitVec 7} {p : BitVec 3}

/-- SHFL of plain sources gives each guarded thread what is sent to it (R152). -/
theorem exec_shfl_plain (hi : Setting s i) (ha : plain a) (hb : plain b) :
    exec (.shfl sc d a b p) s = .next (s.giveEach i d.toNat
      ((s.guarded i p.toNat).map fun k => (k, s.sent i a.toNat b.toNat k))) := by
  refine (onIssue_some _ _ _ hi.1).trans (congrArg Host.Outcome.next ?_)
  simp only [s.readAll_plain i ha, s.readAll_plain i hb, List.zip_map', List.filter_map, List.map_map,
    Function.comp_def, State.shflVal_eq_sent]
  rfl

/-- REDUX of a plain source into a vector register (R154). -/
theorem exec_redux_vec (hi : Setting s i) (ha : plain a) (hd : d.toNat < 96) :
    exec (.redux sc d a f p) s = .next (s.setVecs (s.guarded i p.toNat) d.toNat fun _ =>
      s.reduced (s.modes (i.group.headD 0)) f.toNat a.toNat (s.guarded i p.toNat)) := by
  refine (onIssue_some _ _ _ hi.1).trans (congrArg Host.Outcome.next ?_)
  simp only [s.readAll_plain i ha, State.reduxFold_eq_reduced, hd, if_true]
  rfl

/-- REDUX of a plain source into a uniform register (R154). -/
theorem exec_redux_uniform {t : Nat} {g : List Nat} (hi : Setting s i) (hg : i.group = t :: g) (ha : plain a)
    (hd : 96 ≤ d.toNat) :
    exec (.redux sc d a f p) s = .next (s.setReg t (s.dstWarps i t) d.toNat
      (s.reduced (s.modes t) f.toNat a.toNat (s.guarded i p.toNat))) := by
  refine (onIssue_some _ _ _ hi.1).trans (congrArg Host.Outcome.next ?_)
  simp only [s.readAll_plain i ha, State.reduxFold_eq_reduced, Nat.not_lt.mpr hd, if_false, hg, List.headD_cons,
    List.isEmpty_cons, Bool.false_eq_true]

/-- SCAN of a plain source gives each guarded thread its inclusive prefix (R155, R156). -/
theorem exec_scan_plain (hi : Setting s i) (ha : plain a) (hd : d.toNat < 96) :
    exec (.scan sc d a f p) s = .next (s.setVecs (s.guarded i p.toNat) d.toNat fun k =>
      s.reduced (s.modes (i.group.headD 0)) f.toNat a.toNat
        ((s.guarded i p.toNat).take ((s.guarded i p.toNat).findIdx (· = k) + 1))) := by
  have hn : (s.guarded i p.toNat).Nodup := hi.2.filter _
  refine (onIssue_some _ _ _ hi.1).trans (congrArg Host.Outcome.next ?_)
  simp only [s.readAll_plain i ha, s.prefixes_eq_reduced _ _ _ hn, hd, if_true, State.foldl_setVec_pairs]

/-- VOTE writes its result in the group's predicates, then the ballot (R153). -/
theorem exec_vote_group {c pd pa : BitVec 3} {na : BitVec 1} {t : Nat} {g : List Nat} (hi : Setting s i)
    (hg : i.group = t :: g) :
    exec (.vote sc c pd na pa b p) s = .next ((s.setPreds i.group pd.toNat
      (voteResult c.toNat ((s.guarded i p.toNat).map fun k => s.predOperand k na pa))).setReg t (s.dstWarps i t) b.toNat
        (w32n (maskOf (((s.guarded i p.toNat).filter fun k => s.predOperand k na pa).map laneOf)))) := by
  refine (onIssue_some _ _ _ hi.1).trans (congrArg Host.Outcome.next ?_)
  simp only [hg, List.isEmpty_cons, Bool.false_eq_true, if_false, List.headD_cons]

/-- YIELD marks its threads (R161). -/
theorem exec_yield (hi : Setting s i) :
    exec (.yield sc p) s = .next (s.modThrs (s.yielding i sc p.toNat) fun th => { th with yielded := true }) := by
  have hwho : (if sc = .lane then s.guarded i p.toNat else
      match s.rep i p.toNat with
      | some _ => i.group
      | none => []) = s.yielding i sc p.toNat := by
    by_cases hsc : sc = .lane
    · simp only [hsc, if_true, State.guarded, State.yielding]
    · cases hg : i.group with
      | nil => simp [hsc, State.yielding, State.rep_nil, hg]
      | cons t g =>
        by_cases hp : s.pred t p.toNat = true <;> simp [hsc, State.yielding, State.rep_cons _ _ _ _ _ hg, hg, hp]
  rw [← hwho]
  exact onIssue_some _ _ _ hi.1

end

theorem exchangeVotesReductionsAndScans : ExchangeVotesReductionsAndScans := by
  intro s i sc d a b f p c pd pa na t g hi hg ha hb who A step fold sent each uniform
  have hhead : i.group.headD 0 = t := by rw [hg]; rfl
  have hwho : who.Nodup := hi.2.filter _
  refine ⟨fun hd => ⟨?shfl, ?redux, ?scan⟩, fun hd => ⟨?reduxUniform, fun hp => ?shflUniform⟩, fun hn => ?vote⟩
  case shfl =>
    rw [exec_shfl_plain hi ha hb, State.giveEach_vec _ _ hd]
    exact next_setVecs s d.toNat sent hwho
  case redux =>
    rw [exec_redux_vec hi ha hd, hhead]
    exact next_setVecs s d.toNat _ hwho
  case scan =>
    rw [exec_scan_plain hi ha hd, hhead]
    exact next_setVecs s d.toNat _ hwho
  case reduxUniform =>
    rw [exec_redux_uniform hi hg ha hd]
    exact next_setReg_uniform s t _ hd _
  case shflUniform =>
    have hfirst : s.guarded i p.toNat = t :: g.filter fun k => s.pred k p.toNat := by
      rw [State.guarded, hg, List.filter_cons_of_pos (p := fun k => s.pred k p.toNat) hp]
    rw [exec_shfl_plain hi ha hb, hfirst, List.map_cons, State.giveEach_uniform s i hd hg]
    exact next_setReg_uniform s t _ hd _
  case vote =>
    intro on v
    rw [exec_vote_group hi hg, voteResult_map]
    exact next_setPreds_setReg s i.group pd v t _ hn _

theorem reductionFunctions : ReductionFunctions := fun md x y =>
  ⟨rfl, reduxStep_minS md x y, reduxStep_maxS md x y, reduxStep_minU md x y, reduxStep_maxU md x y, rfl, rfl, rfl,
    fun _ => reduxStep_reduxId md x⟩

theorem yieldMarksItsThreads : YieldMarksItsThreads := by
  intro s i sc p hi
  have hn : (s.yielding i sc p.toNat).Nodup := hi.2.filter _
  refine ⟨_, exec_yield hi, State.modThrs_eq .., fun k => ?_⟩
  simp only [State.modThrs_thr _ _ _ hn, State.mem_yielding]

end Sys2Proof.Claims

namespace Sys2Proof.Machine

/-- Settles O37: each word of the group by what it leaves of its plain sources, and the functions by their readings. -/
theorem groupOperations : Obligations.GroupOperations :=
  ⟨Claims.exchangeVotesReductionsAndScans, Claims.reductionFunctions, Claims.yieldMarksItsThreads⟩

end Sys2Proof.Machine

namespace Sys2Proof.Machine

/-! # Operations put in flight and withdrawn -/

/-- A thread that an access does not name keeps its flags. -/
theorem State.thr_setFlags_other (s : State) {a : Access} {m : Nat} (hm : m ∉ a.members) :
    (s.setFlags a).thr m = s.thr m := by
  refine List.foldlRecOn (motive := fun u : State => u.thr m = s.thr m) a.members _ rfl fun u hu k hk => ?_
  have hne : m ≠ k := fun e => hm (e ▸ hk)
  cases a.flag with
  | none => exact hu
  | some n => exact (State.thr_modThr ..).trans ((if_neg hne).trans hu)

/-- The threads whose flag a word sets belong to its group. -/
theorem State.mem_group_of_tied {s u : State} {i : Issue} {sc : Scope} {p t m : Nat} (ha : s.actors i sc p = [t])
    (hm : m ∈ u.tied i sc t) : m ∈ i.group := by
  cases sc with
  | lane =>
    have ht : t ∈ s.guarded i p := (show s.guarded i p = [t] from ha) ▸ List.mem_singleton_self t
    cases List.mem_singleton.mp hm
    exact (List.mem_filter.mp ht).1
  | _ => exact (List.mem_filter.mp hm).1

/-- Flags cleared leave what waits in each thread. -/
theorem State.clearFlags_idle {s : State} (flag : Option Nat) (ms : List Nat) (h : ∀ e ∈ s.threads, e.2.deferred = []) :
    ∀ e ∈ (s.clearFlags flag ms).threads, e.2.deferred = [] := by
  cases flag with
  | none => exact h
  | some n =>
    refine List.foldlRecOn (motive := fun u : State => ∀ e ∈ u.threads, e.2.deferred = []) ms _ h fun u hu t _ => ?_
    split
    · exact hu
    · intro e he
      rcases Tab.mem_of_mem_put he with rfl | he
      · exact State.deferred_thr (P := fun _ l => l = []) (fun _ => rfl) hu t
      · exact hu e he

/-- Where no access waits, none goes out. -/
theorem State.drainWhere_idle {s : State} (h : ∀ e ∈ s.threads, e.2.deferred = []) (f : Nat → Access → Bool) :
    s.drainWhere f = s := by
  have hnone : (s.threads.filter fun e => e.2.deferred.any (f e.1)) = [] :=
    List.filter_eq_nil_iff.mpr fun e he => by simp [h e he]
  simp only [State.drainWhere, hnone]
  rfl

end Sys2Proof.Machine

namespace Sys2Proof.Claims

open Sys2Proof.Machine

/-- The operation that a word leaves in flight. -/
theorem newOp_issued {s u : State} (hn : u.nextOp = s.nextOp) (t : Nat) (a : Access) (result : Option (List Word)) :
    newOp s (u.issued t a result) = some (u.opOf t a result) :=
  newOp_of_find (by rw [State.nextOp_issued, hn]) (hn ▸ State.find_ops_issued u t a result)

end Sys2Proof.Claims

namespace Sys2Proof.Machine

/-! # Invalidations (R175, R381) -/

/-- Whether TLB.INV refuses a control word: a reserved bit, a kind above 3, or what lies outside a handler's own context. -/
def State.InvRefused (s : State) (t w : Nat) : Prop :=
  w / 2 ^ 13 % 8 ≠ 0 ∨ w / 2 ^ 5 % 8 ≠ 0 ∨ w / 8 % 2 = 1 ∨ 3 < w % 8 ∨
    (isHandler t = true ∧ ((w / 2 ^ 8 % 32, w / 2 ^ 16) ≠ s.tagOf t ∨ w / 16 % 2 = 1))

/-- What an invalidation leaves of a core that it covers. -/
def State.invalidated (s : State) (kind v x : Nat) (a : Dword) (k : Core) : Core :=
  s.newRoots kind v x { k with tlb := k.tlb.filter fun e => !e.named kind v x a }

section

variable (s : State) (kind v x : Nat) (a : Dword) (k : Core)

theorem State.tlb_invalidated : (s.invalidated kind v x a k).tlb = k.tlb.filter fun e => !e.named kind v x a := by
  unfold State.invalidated State.newRoots
  split <;> rfl

/-- KIND 1 puts the context's root in force. -/
theorem State.ttbs_invalidated : (s.invalidated 1 v x a k).ttbs.get (v * 65536 + x) 0 = ((s.ctx? v x).map Ctx.ttb).getD 0 :=
  Tab.get_put_same ..

/-- KIND 2 puts the virtual device's root in force. -/
theorem State.s2tbs_invalidated : (s.invalidated 2 v x a k).s2tbs.get v 0 = (s.vdev v).s2tb := Tab.get_put_same ..

variable {kind} in
/-- The other kinds leave the roots. -/
theorem State.roots_invalidated (h : kind = 0 ∨ kind = 3) :
    (s.invalidated kind v x a k).ttbs = k.ttbs ∧ (s.invalidated kind v x a k).s2tbs = k.s2tbs := by
  rcases h with rfl | rfl <;> exact ⟨rfl, rfl⟩

/-- Each of some cores is invalidated once, and nothing else changes. -/
theorem State.foldl_invalidate (t r : Nat) {cs : List Nat} (hn : cs.Nodup) {u : State}
    (hu : cs.foldl (fun s c => s.invalidate c kind v x (s.pairReg t r)) s = u) : u = { s with cores := u.cores } ∧
      ∀ c, u.core c = if c ∈ cs then s.invalidated kind v x (s.pairReg t r) (s.core c) else s.core c := by
  induction cs generalizing s with
  | nil => exact hu ▸ ⟨rfl, fun _ => rfl⟩
  | cons b cs ih =>
    obtain ⟨hb, hcs⟩ := List.nodup_cons.mp hn
    obtain ⟨hrest, hcore⟩ := ih (s.invalidate b kind v x (s.pairReg t r)) hcs hu
    refine ⟨hrest, fun c => (hcore c).trans ?_⟩
    have hc : (s.invalidate b kind v x (s.pairReg t r)).core c =
        if c = b then s.invalidated kind v x (s.pairReg t r) (s.core b) else s.core c := State.core_modCore ..
    rw [hc]
    by_cases h : c = b
    · subst h
      rw [if_neg hb, if_pos rfl, if_pos List.mem_cons_self]
    · rw [if_neg h]
      exact if_congr (by simp [h]) rfl rfl

end

theorem coveredCores_nodup (c : Nat) (all : Bool) : (coveredCores c all).Nodup := by
  cases all
  · exact List.nodup_singleton c
  · exact List.nodup_range

theorem mem_coveredCores {c b : Nat} {all : Bool} : b ∈ coveredCores c all ↔ if all then b < 144 else b = c := by
  cases all <;> simp [coveredCores]

/-- The state in which the operation of a TLB.INV enters flight. -/
def State.invalidateAll (s : State) (t r w : Nat) : State :=
  (coveredCores (coreOf t) (bitOf w 4)).foldl (fun s c => s.invalidate c (w % 8) (w / 2 ^ 8 % 32) (w / 2 ^ 16) (s.pairReg t r)) s

section

variable {s : State} {i : Issue} {sc : Scope} {a b : BitVec 7} {p : BitVec 3} {t : Nat}

/-- The upper half of a control word is its context. -/
theorem bitsOf_high (w : Word) : bitsOf w.toNat 31 16 = w.toNat / 2 ^ 16 := by
  have := w.isLt
  unfold bitsOf
  omega

/-- The test that TLB.INV makes of its control word. -/
theorem State.invRefused_iff (w : Word) :
    (bitsOf w.toNat 15 13 ≠ 0 || bitsOf w.toNat 7 5 ≠ 0 || bitOf w.toNat 3 || 3 < w.toNat % 8 ||
      (isHandler t && ((bitsOf w.toNat 12 8, bitsOf w.toNat 31 16) ≠ s.tagOf t || bitOf w.toNat 4))) = true ↔
        s.InvRefused t w.toNat := by
  simp only [bitsOf_high, Bool.or_eq_true, Bool.and_eq_true, decide_eq_true_eq, or_assoc]
  simp only [bitsOf, bitOf, decide_eq_true_eq]
  rfl

theorem exec_tlbInv_refused (hi : Claims.Setting s i) (ha : s.actors i sc p.toNat = [t])
    (hw : s.InvRefused t (s.reg t b.toNat).toNat) :
    exec (.tlbInv sc a b p) s = .next (s.raise (if sc = .lane then [t] else i.group) i.faultAt
      (plainFault clsBudget) (some (i.here 0))) :=
  onIssue_one_fault hi.1 ha (if_pos (State.invRefused_iff _ |>.mpr hw)) rfl

/-- An accepted TLB.INV invalidates at once, and its operation waits (R381). -/
theorem exec_tlbInv (hi : Claims.Setting s i) (ha : s.actors i sc p.toNat = [t]) {w : Nat} (hw : (s.reg t b.toNat).toNat = w)
    (hok : ¬ s.InvRefused t w) {u : State} (hu : s.invalidateAll t a.toNat w = u) :
    exec (.tlbInv sc a b p) s = .next (u.issued t
      (u.mkAccess i sc t true (.tlbInv (w % 8) (w / 2 ^ 8 % 32) (w / 2 ^ 16) (bitOf w 4))) (some [])) := by
  subst hw hu
  refine onIssue_one_ran hi.1 ha ((if_neg fun h => hok (State.invRefused_iff _ |>.mp h)).trans ?_)
  rw [bitsOf_high]
  rfl

end

end Sys2Proof.Machine

namespace Sys2Proof.Claims

open Sys2Proof.Machine

theorem translationsAreInvalidated : TranslationsAreInvalidated := by
  intro s i sc a b p t hi _ ha w kind v x all covered bad
  refine ⟨fun h => exec_tlbInv_refused hi ha h, fun h => ?_⟩
  obtain ⟨u, hu⟩ : ∃ u, s.invalidateAll t a.toNat w = u := ⟨_, rfl⟩
  obtain ⟨hrest, hcore⟩ := s.foldl_invalidate kind v x t a.toNat (coveredCores_nodup (coreOf t) (bitOf w 4)) hu
  have hnext : u.nextOp = s.nextOp := by rw [hrest]
  obtain ⟨hbytes, hregs, -⟩ := issued_spec hnext t (u.mkAccess i sc t true (.tlbInv kind v x (bitOf w 4))) (some [])
  refine ⟨_, exec_tlbInv hi ha rfl h hu, fun k => (hbytes k).trans (by rw [hrest]; rfl),
    fun k c => (hregs k c).trans (by rw [hrest]; rfl), by rw [newOp_issued hnext]; rfl, fun c => ?_⟩
  have hcov : c ∈ coveredCores (coreOf t) (bitOf w 4) ↔ covered c :=
    mem_coveredCores.trans (iff_of_eq (if_congr decide_eq_true_iff rfl rfl))
  rw [State.core_issued, hcore c]
  refine ⟨fun hc => ?_, fun hc => if_neg (hcov.not.mpr hc)⟩
  rw [if_pos (hcov.mpr hc)]
  refine ⟨State.tlb_invalidated .., fun hk => ?_, fun hk => ?_, fun hk => State.roots_invalidated _ _ _ _ _ hk⟩
  · rw [hk]
    exact State.ttbs_invalidated ..
  · rw [hk]
    exact State.s2tbs_invalidated ..

end Sys2Proof.Claims

namespace Sys2Proof.Machine

/-! # Drains (R386) -/

section

variable {s : State} {i : Issue} {sc : Scope} {a : BitVec 7} {p : BitVec 3} {t v : Nat}

/-- A virtual device whose new requests are held (R386). -/
def State.draining (s : State) (v : Nat) : State := s.modVdev v fun d => { d with draining := true }

theorem exec_vdevDrain_refused (hi : Claims.Setting s i) (ha : s.actors i sc p.toNat = [t])
    (hv : 32 ≤ (s.reg t a.toNat).toNat) :
    exec (.vdevDrain sc a p) s = .next (s.raise (if sc = .lane then [t] else i.group) i.faultAt
      (plainFault clsBudget) (some (i.here 0))) :=
  onIssue_one_fault hi.1 ha (if_pos hv) rfl

theorem exec_vdevDrain (hi : Claims.Setting s i) (ha : s.actors i sc p.toNat = [t]) (hr : (s.reg t a.toNat).toNat = v)
    (hv : v < 32) : exec (.vdevDrain sc a p) s =
      .next ((s.draining v).issued t ((s.draining v).mkAccess i sc t true (.vdrain v)) none) := by
  subst hr
  exact onIssue_one_ran hi.1 ha (if_neg (Nat.not_le.mpr hv))

/-- An outstanding drain holds its virtual device's requests. -/
theorem State.drains_issued (u : State) {acc : Access} (h : acc.acc = .vdrain v) (result : Option (List Word)) :
    (u.issued t acc result).drains v = true := by
  have hop : (u.opOf t acc result).acc.acc = .vdrain v := h
  refine List.any_eq_true.mpr ⟨_, Tab.mem_of_find (State.find_ops_issued u t acc result), ?_⟩
  simp only [hop, decide_true]

/-- A drain holds the accesses of every thread of its virtual device but the agents'. -/
theorem State.blocked_of_drains {m : Nat} (hd : s.drains v = true) (hm : isAgent m = false)
    (hv : (s.block (coreOf m)).vdev = v) : s.blocked m = true := by
  have htag : (s.tagOf m).1 = v := by rw [State.tagOf, hm]; exact hv
  simp [State.blocked, State.fenced, hm, htag, hd]

/-! ## The end of a drain -/

variable {id : Nat} {o : Op}

theorem State.answerWait_vdrain (ho : s.ops.find id = some o) (h : o.acc.acc = .vdrain v) : s.answerWait id = s := by
  simp only [State.answerWait, ho, h]

theorem State.lowerTables_vdrain (ho : s.ops.find id = some o) (h : o.acc.acc = .vdrain v) : s.lowerTables id = [] := by
  simp only [State.lowerTables, ho, h]

/-- A drain stays while a request of its virtual device is in flight. -/
theorem State.finishOp_vdrain (ho : s.ops.find id = some o) (h : o.acc.acc = .vdrain v) :
    s.finishOp id = if s.inFlight v then s else (s.retire id o).drainAway v := by
  simp only [State.finishOp, ho, h]

theorem exec_operationComplete_vdrain (ho : s.ops.find id = some o) (haway : s.away o.thr = false)
    (h : o.acc.acc = .vdrain v) :
    exec (.operationComplete id) s = .next (((if s.inFlight v then s else (s.retire id o).drainAway v).eretTest
      (coreOf o.thr)).settle o.thr) := by
  have hat : s.atCompletion o = s := by simp only [State.atCompletion, h]
  have hdone : s.completeOp id = if s.inFlight v then s else (s.retire id o).drainAway v := by
    rw [State.completeOp, State.lowerTables_vdrain ho h, State.answerWait_vdrain ho h]
    exact State.finishOp_vdrain ho h
  show execOperationComplete id s = _
  simp only [execOperationComplete, ho, haway, hat, hdone, Bool.false_eq_true, if_false]

/-- A drain that ends leaves its flag clear, and nothing else follows. -/
theorem State.retire_vdrain (h : o.acc.acc = .vdrain v) :
    s.retire id o = ({ s with ops := s.ops.del id } : State).clearFlags o.acc.flag o.acc.members := by
  have hremote : o.remote = false := by simp only [Op.remote, h, Acc.global, Acc.signal]
  simp only [State.retire, h, hremote, Acc.ordering, Bool.false_eq_true, if_false]

theorem State.drainAway_idle (h : o.acc.acc = .vdrain v) (hidle : ∀ e ∈ s.threads, e.2.deferred = []) (w : Nat) :
    (s.retire id o).drainAway w = s.retire id o := by
  refine State.drainWhere_idle ?_ _
  rw [State.retire_vdrain h]
  exact State.clearFlags_idle _ _ hidle

end

/-! # The clearing of storage (R386, R422) -/

/-- Entries of some keys changed. -/
theorem Tab.find_mapWhere {α : Type} (t : Tab α) (f : Nat → Bool) (g : α → α) (k : Nat) :
    Tab.find (t.map fun e => if f e.1 then (e.1, g e.2) else e) k = (Tab.find t k).map fun x => if f k then g x else x := by
  induction t with
  | nil => rfl
  | cons e r ih =>
    obtain ⟨b, y⟩ := e
    by_cases hb : b = k
    · subst hb
      by_cases hf : f b = true <;> simp [Tab.find, hf]
    · by_cases hf : f b = true <;> simp [Tab.find, hf, hb, ih]

/-- The threads of one warp belong to one block. -/
theorem userThread_warp (c m : Nat) : userThread c (warpKeyOf m * 32) = userThread c m := by
  have hcore : coreOf (m / 32 * 32) = coreOf m := by unfold coreOf; omega
  have hslot : slotOf (m / 32 * 32) = slotOf m := by unfold slotOf; omega
  have hbank : bankOf (m / 32 * 32) = bankOf m := by unfold bankOf; omega
  simp only [userThread, isAgent, warpKeyOf, hcore, hslot, hbank]

section

variable (s : State) (c : Nat)

/-- What the clearing of a core changes. -/
theorem State.zeroCore_eq : s.zeroCore c = { s.zeroStorage c with
    threads := (s.zeroCore c).threads, warps := (s.zeroCore c).warps, blocks := (s.zeroCore c).blocks } := by
  unfold State.zeroCore
  dsimp only
  split <;> rfl

theorem State.threads_zeroCore : (s.zeroCore c).threads =
    s.threads.map fun e => if userThread c e.1 then (e.1, e.2.zeroed) else e := by
  unfold State.zeroCore
  dsimp only
  split <;> rfl

theorem State.warps_zeroCore : (s.zeroCore c).warps =
    s.warps.map fun e => if userThread c (e.1 * 32) then (e.1, { e.2 with s := [], j := [] }) else e := by
  unfold State.zeroCore
  dsimp only
  split <;> rfl

variable {s c} {m : Nat}

/-- A thread of the core's block that was listed is zeroed. -/
theorem State.thr_zeroCore (hm : userThread c m = true) {th : Thread} (h : s.threads.find m = some th) :
    (s.zeroCore c).thr m = th.zeroed := by
  rw [State.thr, Tab.get, State.threads_zeroCore, Tab.find_mapWhere, h, Option.map_some, hm]
  rfl

theorem State.v_zeroCore (hm : userThread c m = true) : ((s.zeroCore c).thr m).v = [] := by
  cases h : s.threads.find m with
  | some th => rw [State.thr_zeroCore hm h]; rfl
  | none => rw [State.thr, Tab.get, State.threads_zeroCore, Tab.find_mapWhere, h]; rfl

/-- The uniform registers of the block's warps are 0: an unlisted warp that is not the agent's has none. -/
theorem State.s_zeroCore (hm : userThread c m = true) : ((s.zeroCore c).warp (warpKeyOf m)).s = [] := by
  have hw : userThread c (warpKeyOf m * 32) = true := (userThread_warp c m).trans hm
  have hagent : isAgent (warpKeyOf m * 32) = false := by
    simp only [userThread, Bool.and_eq_true, Bool.not_eq_true'] at hw
    exact hw.2
  rw [State.warp, Tab.get, State.warps_zeroCore,
    Tab.find_mapWhere s.warps (fun k => userThread c (k * 32)) fun w => { w with s := [], j := [] }]
  cases s.warps.find (warpKeyOf m) with
  | some w => rw [Option.map_some, hw]; rfl
  | none => rw [Option.map_none, Option.getD_none, Warp.default, hagent]; rfl

/-- Every register of the block's threads reads 0 (R386). -/
theorem State.reg_zeroCore (hm : userThread c m = true) (k : Nat) : (s.zeroCore c).reg m k = 0 := by
  rw [State.reg, State.v_zeroCore hm, State.s_zeroCore hm]
  split_ifs <;> rfl

/-- The storage of the core reads 0 (R386). -/
theorem State.storage_zeroCore {n : Nat} (hn : n < 2 ^ 24) : (s.zeroCore c).byteAt (scratchAddr c n) = 0 ∧
    Mem.read (s.zeroCore c).wbuf (c * 2 ^ 24 + n) = 0 ∧ Mem.read (s.zeroCore c).accm (c * 2 ^ 24 + n) = 0 := by
  have haddr : scratchAddr c n - scratchBase = c * 2 ^ 24 + n := by unfold scratchAddr; omega
  have hspace : ¬ scratchAddr c n < scratchBase := by unfold scratchAddr; omega
  have hzero : ∀ mem : Mem, (mem.clear (c * 2 ^ 24) (2 ^ 24)).read (c * 2 ^ 24 + n) = 0 := fun mem =>
    Mem.read_clear mem (Nat.le_add_right ..) (Nat.add_lt_add_left hn _)
  rw [State.byteAt, if_neg hspace, haddr, State.zeroCore_eq]
  exact ⟨hzero _, hzero _, hzero _⟩

end

section

variable (s : State) (v c : Nat)

/-- What POOL.CLR clears, with the work of a reset's third step (R422). -/
def State.poolCleared : State :=
  let s := if (s.core c).storageOf = some v then s.zeroCore c else s
  if (s.vdev v).rstStep = 3 then s.stepWork v c else s

variable {s v c}

/-- The storage of another virtual device, or of none, stays. -/
theorem State.poolCleared_other (h : (s.core c).storageOf ≠ some v) :
    s.poolCleared v c = { s with vdevs := (s.poolCleared v c).vdevs } := by
  unfold State.poolCleared
  rw [if_neg h]
  dsimp only
  split <;> rfl

theorem State.poolCleared_own (h : (s.core c).storageOf = some v) :
    s.poolCleared v c = { s.zeroCore c with vdevs := (s.poolCleared v c).vdevs } := by
  unfold State.poolCleared
  rw [if_pos h]
  dsimp only
  split <;> rfl

variable (s v c) in
/-- No byte of memory changes, and no operation enters flight. -/
theorem State.same_poolCleared : (s.poolCleared v c).nextOp = s.nextOp ∧ (s.poolCleared v c).mem = s.mem := by
  by_cases h : (s.core c).storageOf = some v
  · rw [State.poolCleared_own h, State.zeroCore_eq]
    exact ⟨rfl, rfl⟩
  · rw [State.poolCleared_other h]
    exact ⟨rfl, rfl⟩

/-- In step 3 of a reset the core's work is done (R414, R422). -/
theorem State.rstWork_poolCleared (h : (s.vdev v).rstStep = 3) :
    ((s.poolCleared v c).vdev v).rstWork = c :: (s.vdev v).rstWork := by
  obtain ⟨u, hu, hv⟩ : ∃ u, (if (s.core c).storageOf = some v then s.zeroCore c else s) = u ∧ u.vdev v = s.vdev v := by
    refine ⟨_, rfl, ?_⟩
    split
    · rw [State.zeroCore_eq]
      rfl
    · rfl
  have hcleared : s.poolCleared v c = u.stepWork v c := by
    rw [State.poolCleared, hu]
    exact if_pos (by rw [hv, h])
  rw [hcleared, State.stepWork, State.vdev_modVdev, if_pos rfl, hv]

end

section

variable {s : State} {i : Issue} {sc : Scope} {a : BitVec 7} {p : BitVec 3} {t v : Nat}

theorem exec_poolClr_refused (hi : Claims.Setting s i) (ha : s.actors i sc p.toNat = [t]) (hv : 32 ≤ (s.reg t a.toNat).toNat) :
    exec (.poolClr sc a p) s = .next (s.raise (if sc = .lane then [t] else i.group) i.faultAt
      (plainFault clsBudget) (some (i.here 0))) :=
  onIssue_one_fault hi.1 ha (if_pos hv) rfl

theorem exec_poolClr (hi : Claims.Setting s i) (ha : s.actors i sc p.toNat = [t]) (hr : (s.reg t a.toNat).toNat = v)
    (hv : v < 32) {u : State} (hu : s.poolCleared v (coreOf t) = u) :
    exec (.poolClr sc a p) s = .next (u.issued t (u.mkAccess i sc t true (.priv 120)) (some [])) := by
  subst hr hu
  exact onIssue_one_ran hi.1 ha (if_neg (Nat.not_le.mpr hv))

end

end Sys2Proof.Machine

namespace Sys2Proof.Claims

open Sys2Proof.Machine

section

variable {s : State} {i : Issue} {sc : Scope} {a : BitVec 7} {p : BitVec 3} {t v : Nat}

/-- VDEV.DRAIN changes no byte and no register, and holds its virtual device's requests (R386). -/
theorem vdevDrains (hi : Setting s i) (ha : s.actors i sc p.toNat = [t]) (hr : (s.reg t a.toNat).toNat = v) (hv : v < 32) :
    ∃ r, exec (.vdevDrain sc a p) s = .next r ∧ SameBytes s r ∧ SameRegs s r ∧ r.drains v = true ∧
      ∀ m, isAgent m = false → (s.block (coreOf m)).vdev = v → r.blocked m = true := by
  obtain ⟨hbytes, hregs, -⟩ := issued_spec (s := s) (u := s.draining v) rfl t
    ((s.draining v).mkAccess i sc t true (.vdrain v)) none
  have hdrains := State.drains_issued (s.draining v) (t := t) (acc := (s.draining v).mkAccess i sc t true (.vdrain v)) rfl none
  refine ⟨_, exec_vdevDrain hi ha hr hv, hbytes, hregs, hdrains, fun m hm hb => State.blocked_of_drains hdrains hm ?_⟩
  rw [State.issued_eq]
  exact hb

/-- What POOL.CLR leaves where the core's storage belongs to the virtual device (R386, R422). -/
theorem poolClr_own {u : State} {c : Nat} {acc : Access} (h : (s.core c).storageOf = some v) (hu : s.poolCleared v c = u) :
    (∀ n, n < 2 ^ 24 → (u.issued t acc (some [])).byteAt (scratchAddr c n) = 0 ∧
      Mem.read (u.issued t acc (some [])).wbuf (c * 2 ^ 24 + n) = 0 ∧
      Mem.read (u.issued t acc (some [])).accm (c * 2 ^ 24 + n) = 0) ∧
    (∀ m k, coreOf m = c → isAgent m = false → (u.issued t acc (some [])).reg m k = 0) ∧
    ∀ m th, s.threads.find m = some th → m ∉ acc.members → coreOf m = c → isAgent m = false →
      (u.issued t acc (some [])).thr m = th.zeroed := by
  have hrest := State.poolCleared_own h
  rw [hu] at hrest
  have huser : ∀ m, coreOf m = c → isAgent m = false → userThread c m = true := fun m hc hm => by
    simp [userThread, hc, hm]
  refine ⟨fun n hn => ?_, fun m k hc hm => ?_, fun m th hth hmem hc hm => ?_⟩
  · rw [State.issued_eq, hrest]
    exact State.storage_zeroCore hn
  · obtain ⟨-, hregs, -⟩ := issued_spec (s := u) rfl t acc (some [])
    rw [hregs, hrest]
    exact State.reg_zeroCore (huser m hc hm) k
  · have hthr := State.thr_setFlags_other u hmem
    rw [State.issued_eq]
    refine hthr.trans ?_
    rw [hrest]
    exact State.thr_zeroCore (huser m hc hm) hth

/-- What POOL.CLR leaves where the core's storage is another's, or nobody's. -/
theorem poolClr_other {u : State} {c : Nat} {acc : Access} (h : (s.core c).storageOf ≠ some v) (hu : s.poolCleared v c = u) :
    SameBytes s (u.issued t acc (some [])) ∧ SameRegs s (u.issued t acc (some [])) ∧
      (u.issued t acc (some [])).accm = s.accm ∧ (u.issued t acc (some [])).wbuf = s.wbuf := by
  have hrest := State.poolCleared_other h
  rw [hu] at hrest
  obtain ⟨hbytes, hregs, -⟩ := issued_spec (s := u) rfl t acc (some [])
  refine ⟨fun k => (hbytes k).trans ?_, fun k n => (hregs k n).trans ?_, ?_, ?_⟩
  · rw [hrest]; rfl
  · rw [hrest]; rfl
  · rw [State.issued_eq, hrest]
  · rw [State.issued_eq, hrest]

end

theorem drainsAndClears : DrainsAndClears := by
  refine ⟨?words, fun s id o v ho haway hacc => ⟨fun hfly => ?stays, fun hfly hidle => ?ends⟩⟩
  case words =>
    intro s i sc a p t hi _ ha v c trap
    refine ⟨fun hv => ⟨exec_vdevDrain_refused hi ha hv, exec_poolClr_refused hi ha hv⟩,
      fun hv => ⟨vdevDrains hi ha rfl hv, ?_⟩⟩
    obtain ⟨u, hu⟩ : ∃ u, s.poolCleared v c = u := ⟨_, rfl⟩
    obtain ⟨hnext, hmem⟩ := s.same_poolCleared v c
    rw [hu] at hnext hmem
    obtain ⟨-, -, hop⟩ := issued_spec hnext t (u.mkAccess i sc t true (.priv 120)) (some [])
    refine ⟨_, exec_poolClr hi ha rfl hv hu, hop, by rw [State.issued_eq]; exact hmem, fun h => poolClr_other h hu,
      fun h => ?own, fun h => ?work⟩
    case own =>
      obtain ⟨hstorage, hzero, hthr⟩ := poolClr_own (t := t) (acc := u.mkAccess i sc t true (.priv 120)) h hu
      refine ⟨hstorage, hzero, fun m th hth hm hc hagent => ?_⟩
      rw [hthr m th hth (fun hmem => hm (State.mem_group_of_tied ha hmem)) hc hagent]
      exact ⟨rfl, rfl, rfl, rfl, rfl, rfl⟩
    case work =>
      rw [State.issued_eq]
      exact hu ▸ State.rstWork_poolCleared h
  case stays => rw [exec_operationComplete_vdrain ho haway hacc, if_pos hfly]
  case ends =>
    have hends : ¬ s.inFlight v = true := by rw [hfly]; exact Bool.false_ne_true
    rw [exec_operationComplete_vdrain ho haway hacc, if_neg hends, State.drainAway_idle hacc hidle]

end Sys2Proof.Claims

namespace Sys2Proof.Machine

/-- Settles O48: TLB.INV core by core, VDEV.DRAIN from its issue to its end, and POOL.CLR by what it clears. -/
theorem invalidationsDrainsAndClears : Obligations.InvalidationsDrainsAndClears :=
  ⟨Claims.translationsAreInvalidated, Claims.drainsAndClears⟩

/-! # A write of a register lets accesses out (R180)

The device step that writes a register of the hub ends the wait of the accesses behind it: they leave the core in that same
step, whatever the write itself does. -/

/-- A read of a signal word that waited behind the write of a register. -/
def heldRead : Access :=
  { acc := .sigLd 0 0, flag := some 0, hdr := 0x1000, word := 1, scope := .lane, members := [0], warps := [] }

/-- Thread 0 with that read, as the write that held it takes effect. -/
def heldHub : State :=
  { State.reset with
    started := true, threads := [(0, { Thread.empty with live := true, cf := 1, deferred := [heldRead] })] }

theorem heldHub_deferred : (heldHub.thr 0).deferred = [heldRead] := rfl

/-- A write below the registers' window writes none, and the read leaves. -/
theorem heldHub_registerWrite : ∃ r, exec (.registerWrite 0 0 0) heldHub = .next r ∧ (r.thr 0).deferred = [] :=
  ⟨_, rfl, by decide +kernel⟩

/-- Refutes O57: a write below the registers' window is to do nothing; in `heldHub` a read that waited leaves with it. -/
theorem not_theHubAndItsMemory : ¬ Obligations.TheHubAndItsMemory := by
  rintro ⟨-, -, registers, -⟩
  obtain ⟨ignored, -⟩ := registers heldHub 0 0 0
  obtain ⟨r, hr, left⟩ := heldHub_registerWrite
  cases (ignored (.inl (by decide))).symm.trans hr
  cases heldHub_deferred.symm.trans left

end Sys2Proof.Machine

namespace Sys2Proof.Machine

/-! # Gates read and passed (R228, R229) -/

section

variable (s : State) (k : Nat) (g : Gate)

/-- A gate that is written reads back. -/
@[simp] theorem State.gate_setGate : (s.setGate k g).gate k = g := by
  by_cases hk : keyKind k = 4 <;> simp [State.gate, State.setGate, State.modBlock, State.modVdev, hk]

/-- Only the tables of blocks and of virtual devices change where a gate is written. -/
theorem State.setGate_eq : s.setGate k g =
    { s with blocks := (s.setGate k g).blocks, vdevs := (s.setGate k g).vdevs } := by
  unfold State.setGate
  split <;> rfl

@[simp] theorem State.ops_setGate : (s.setGate k g).ops = s.ops := by rw [State.setGate_eq]

@[simp] theorem State.relCount_setGate (obj : Nat) : (s.setGate k g).relCount obj = s.relCount obj := by
  rw [State.setGate_eq]
  rfl

variable {s k}

theorem State.passGate_free (h : (s.gate k).wait = []) : s.passGate k = s.setGate k { owner := none, wait := [] } := by
  simp only [State.passGate, h]

/-- A gate passes to its first request whether or not that request's operation still stands. -/
theorem State.gate_passGate_first {who op : Nat} {r : List (Nat × Nat)} (h : (s.gate k).wait = (who, op) :: r) :
    (s.passGate k).gate k = { owner := some who, wait := r } := by
  simp only [State.passGate, h]
  split
  · exact State.gate_setGate ..
  · exact State.gate_setGate ..

theorem State.find_ops_passGate_first {who op : Nat} {r : List (Nat × Nat)} {o : Op}
    (h : (s.gate k).wait = (who, op) :: r) (ho : s.ops.find op = some o) :
    (s.passGate k).ops.find op = some { o with result := some [], serial := s.relCount k } := by
  simp only [State.passGate, h, State.ops_setGate, ho, State.relCount_setGate, Tab.find_put_same]

end

/-! # Operands that name an object (R190, R215) -/

section

variable {accept : Nat → Bool} {a : BitVec 7} {mk : Nat → Word → Acc} {s : State} {i : Issue} {t k : Nat} (ha : a.toNat < 124)

include ha

theorem prepObj_names (hk : s.objOf t (s.reg t a.toNat) = some k) (hacc : accept (keyKind k) = true) :
    prepObj accept a mk s i t = (.ok (mk t (s.reg t a.toNat)), s) := by
  simp only [prepObj, State.source_plain s i t _ ha, hk, hacc, if_true]

theorem prepObj_invalid (hk : s.objOf t (s.reg t a.toNat) = none) : prepObj accept a mk s i t = (.error rangeFault, s) := by
  simp only [prepObj, State.source_plain s i t _ ha, hk]

theorem prepObj_otherKind (hk : s.objOf t (s.reg t a.toNat) = some k) (hacc : accept (keyKind k) = false) :
    prepObj accept a mk s i t = (.error rangeFault, s) := by
  simp only [prepObj, State.source_plain s i t _ ha, hk, hacc, Bool.false_eq_true, if_false]

end

/-! # Accesses to an object, as they take effect (R195, R226-R230) -/

section

variable {s : State} {t k who : Nat} {w : Word} {a : Access} (hk : s.objOf t w = some k)

include hk

/-- An ACQ goes in flight; of a gate it reaches what its members have covered by then (R227). -/
theorem State.applyLocal_acq {mask : Nat} (ha : a.acc = .acq w mask) :
    ∃ b : Access, b.acc = a.acc ∧ s.applyLocal t a = s.opFor t b k 0 (some []) := by
  simp only [State.applyLocal, ha, hk]
  split
  · exact ⟨_, rfl, rfl⟩
  · exact ⟨_, ha, rfl⟩

theorem State.applyLocal_rel {mask : Nat} (ha : a.acc = .rel w mask) :
    s.applyLocal t a = a.members.foldl (fun s m => s.relPending m k mask) s := by
  simp only [State.applyLocal, ha, hk]

theorem State.applyLocal_gateAcq_free (ha : a.acc = .gateAcq w who) (ho : (s.gate k).owner = none) :
    s.applyLocal t a = (s.setGate k { s.gate k with owner := some who }).gateOp t a k (some []) := by
  simp only [State.applyLocal, ha, hk, ho]

theorem State.applyLocal_gateAcq_own (ha : a.acc = .gateAcq w who) (ho : (s.gate k).owner = some who) :
    s.applyLocal t a = s.gateOp t a k (some []) := by
  simp only [State.applyLocal, ha, hk, ho, if_true]

theorem State.applyLocal_gateAcq_held {o : Nat} (ha : a.acc = .gateAcq w who) (ho : (s.gate k).owner = some o) (hne : o ≠ who) :
    s.applyLocal t a =
      (s.setGate k { s.gate k with wait := (s.gate k).wait ++ [(who, s.nextOp)] }).gateOp t a k none := by
  simp only [State.applyLocal, ha, hk, ho, hne, if_false]

theorem State.applyLocal_gateTry_free {pd : Nat} (ha : a.acc = .gateTry w who pd) (ho : (s.gate k).owner = none) :
    s.applyLocal t a = (s.setGate k { s.gate k with owner := some who }).gateOp t a k (some [1]) := by
  simp only [State.applyLocal, ha, hk, ho]

theorem State.applyLocal_gateTry_held {pd o : Nat} (ha : a.acc = .gateTry w who pd) (ho : (s.gate k).owner = some o) :
    s.applyLocal t a = s.gateOp t a k (some [if o = who then 1 else 0]) := by
  simp only [State.applyLocal, ha, hk, ho]

theorem State.applyLocal_gateRel_own (ha : a.acc = .gateRel w who) (ho : (s.gate k).owner = some who) :
    s.applyLocal t a = (a.members.foldl (fun s m => s.releaseObj m k (s.relCount k + 1)) s).passGate k := by
  simp only [State.applyLocal, ha, hk, ho, if_true]

theorem State.applyLocal_gateRel_other (ha : a.acc = .gateRel w who) (ho : (s.gate k).owner ≠ some who) :
    s.applyLocal t a = s := by
  simp only [State.applyLocal, ha, hk, ho, if_false]

end

end Sys2Proof.Machine

namespace Sys2Proof.Claims

open Sys2Proof.Machine

/-! # The word of one actor's access to an object -/

/-- The accesses that name an object by a word. -/
inductive OnObject (w : Word) : Acc → Prop
  | acq (mask : Nat) : OnObject w (.acq w mask)
  | rel (mask : Nat) : OnObject w (.rel w mask)
  | gateAcq (who : Nat) : OnObject w (.gateAcq w who)
  | gateTry (who pd : Nat) : OnObject w (.gateTry w who pd)
  | gateRel (who : Nat) : OnObject w (.gateRel w who)

section

variable {s : State} {i : Issue} {sc : Scope} {p t : Nat} {ll : Bool} {w : Word} {x : Acc}
  {prep : State → Issue → Nat → Prepared × State}

theorem issuing_objOf (s : State) (a : Access) (t : Nat) (w : Word) : (issuing s a).objOf t w = s.objOf t w := by
  rw [issuing_eq]
  rfl

theorem issuing_gate (s : State) (a : Access) (k : Nat) : (issuing s a).gate k = s.gate k := by
  rw [issuing_eq]
  rfl

/-- An access to an object needs no translation: it takes effect as it leaves. -/
theorem memGo_object (hx : OnObject w x) :
    (issuing s (access s i sc t ll x)).memGo [(t, access s i sc t ll x)] =
      ((issuing s (access s i sc t ll x)).applyLocal t (access s i sc t ll x), []) := by
  cases hx <;> rfl

/-- A word whose one actor names an object issues its access at once: nothing that an access to memory may wait for or
meet holds it (R215). -/
theorem memWord_object (hx : OnObject w x) (hi : Setting s i) (ha : s.actors i sc p = [t]) (hf : Free s i sc t)
    (hp : prep s i t = (.ok x, s)) :
    memWord sc p ll prep s =
      .next ((issuing s (access s i sc t ll x)).applyLocal t (access s i sc t ll x)) := by
  have hcanon : x.noncanon = none := by cases hx <;> rfl
  have hpage : (access s i sc t ll x).perPage = [access s i sc t ll x] := by cases hx <;> rfl
  have hturn : (issuing s (access s i sc t ll x)).waitsTurn t (access s i sc t ll x) = false := by cases hx <;> rfl
  have hm := memIssue_one hcanon hpage (mayGo_access hf hturn) (lone_access (ll := ll) hf)
  rw [memGo_object hx] at hm
  have hw := memWord_one (ll := ll) hi.1 ha hp
  rw [show s.mkAccess i sc t ll x = access s i sc t ll x from rfl, hm] at hw
  exact hw

end

/-! # Operations of an object -/

section

variable {s u : State} {a : Access}

/-- An operation that joins those in flight after the word is numbered is the newest. -/
theorem newOp_addOp_of_le (h : s.nextOp ≤ u.nextOp) (o : Op) : newOp s (u.addOp o) = some o := by
  simp [newOp, State.addOp, Nat.lt_succ_of_le h]

/-- A state that differs from the one in which an access is made in what gates may change alone. -/
def GatesMoved (s : State) (a : Access) (u : State) : Prop := u = { issuing s a with blocks := u.blocks, vdevs := u.vdevs }

theorem gatesMoved_issuing (s : State) (a : Access) : GatesMoved s a (issuing s a) := rfl

theorem gatesMoved_setGate (s : State) (a : Access) (k : Nat) (g : Gate) : GatesMoved s a ((issuing s a).setGate k g) :=
  State.setGate_eq ..

/-- What a request for a gate leaves: its operation, which has its answer or waits, and no register or byte changed. -/
theorem gateOp_spec (h : GatesMoved s a u) (t k : Nat) (result : Option (List Word)) :
    (newOp s (u.gateOp t a k result)).map (fun o => (o.thr, o.pa, o.result)) = some (t, k, result) ∧
      SameBytes s (u.gateOp t a k result) ∧ SameRegs s (u.gateOp t a k result) := by
  have hn : u.nextOp = s.nextOp + 1 := by rw [h]; exact issuing_nextOp s a
  have hbytes : SameBytes s u := fun n => by rw [h]; exact issuing_byteAt s a n
  have hregs : SameRegs s u := fun n c => by rw [h]; exact issuing_reg s a n c
  exact ⟨by rw [State.gateOp, newOp_addOp_of_le (by omega)]; rfl, hbytes.addOp _, hregs.addOp _⟩

end

/-- Among the kinds of objects a gate word accepts those of gates (R228). -/
theorem gate_accepts {k : Nat} : (decide (keyKind k = 4) || decide (keyKind k = 5)) = true ↔ keyKind k = 4 ∨ keyKind k = 5 := by
  simp

/-! # What ACQ, REL and the gates do -/

theorem releaseAndAcquire : ReleaseAndAcquire := by
  intro s i sc a p pd m t hi ha hf w refuse
  have invalid : ∀ {q : Nat} {ll : Bool} {accept : Nat → Bool} {mk : Nat → Word → Acc}, s.actors i sc q = [t] →
      s.objOf t w = none → refuse (memWord sc q ll (prepObj accept a mk) s) :=
    fun hact hk => memWord_one_fault hi.1 hact (prepObj_invalid ha hk)
  refine ⟨fun hact => ⟨fun hk => ⟨invalid hact hk, invalid hact hk, invalid hact hk, invalid hact hk⟩, ?otherKind,
    fun k hk => ⟨?acq, ?rel⟩⟩, invalid⟩
  case otherKind =>
    intro k hk h4 h5
    have other : ∀ {ll : Bool} {mk : Nat → Word → Acc},
        refuse (memWord sc 0 ll (prepObj (fun k => k = 4 || k = 5) a mk) s) :=
      fun {ll mk} => memWord_one_fault hi.1 hact (prepObj_otherKind ha hk (by simp [h4, h5]))
    exact ⟨other, other⟩
  case acq =>
    intro acc
    have hw := memWord_object (ll := true) (.acq m.toNat) hi hact hf
      (prepObj_names (accept := fun _ => true) (mk := fun _ w => .acq w m.toNat) ha hk rfl)
    obtain ⟨b, hb, happ⟩ := State.applyLocal_acq (a := acc) ((issuing_objOf s acc t w).trans hk) rfl
    have hn : s.nextOp ≤ (issuing s acc).nextOp := (issuing_nextOp s acc).symm ▸ Nat.le_succ _
    have hthreads : (issuing s acc).threads = (s.setFlags acc).threads := by rw [issuing_eq]
    refine ⟨_, hw.trans (congrArg Host.Outcome.next happ), hthreads, SameBytes.addOp (issuing_byteAt s acc) _,
      SameRegs.addOp (issuing_reg s acc) _, ?_⟩
    rw [State.opFor, newOp_addOp_of_le hn]
    simp only [Option.map_some, hb]
    rfl
  case rel =>
    intro acc
    have hw := memWord_object (ll := false) (.rel m.toNat) hi hact hf
      (prepObj_names (accept := fun _ => true) (mk := fun _ w => .rel w m.toNat) ha hk rfl)
    exact hw.trans (congrArg Host.Outcome.next (State.applyLocal_rel ((issuing_objOf s acc t w).trans hk) rfl))

theorem gatesPassBetweenParties : GatesPassBetweenParties := by
  intro s i sc a p pd t k hi ha hf hk hgate w me g result
  have word : ∀ {q : Nat} {ll : Bool} {mk : Nat → Word → Acc}, OnObject w (mk t w) → s.actors i sc q = [t] →
      memWord sc q ll (prepObj (fun k => k = 4 || k = 5) a mk) s =
        .next ((issuing s (access s i sc t ll (mk t w))).applyLocal t (access s i sc t ll (mk t w))) :=
    fun hx hact => memWord_object hx hi hact hf (prepObj_names ha hk (gate_accepts.mpr hgate))
  have object : ∀ acc, (issuing s acc).objOf t w = some k := fun acc => (issuing_objOf s acc t w).trans hk
  have owner : ∀ {acc} {o : Option Nat}, g.owner = o → ((issuing s acc).gate k).owner = o := fun ho => by
    rw [issuing_gate]
    exact ho
  refine ⟨fun hact => ⟨?free, ?own, ?held, ?release⟩, fun hact => ?try_⟩
  case free =>
    intro ho
    have hw := word (ll := true) (mk := fun t w => .gateAcq w (s.who sc t)) (.gateAcq me) hact
    rw [State.applyLocal_gateAcq_free (object _) rfl (owner ho)] at hw
    refine ⟨_, hw, ?_, gateOp_spec (gatesMoved_setGate ..) t k _⟩
    exact (State.gate_setGate ..).trans (by rw [issuing_gate])
  case own =>
    intro ho
    have hw := word (ll := true) (mk := fun t w => .gateAcq w (s.who sc t)) (.gateAcq me) hact
    rw [State.applyLocal_gateAcq_own (object _) rfl (owner ho)] at hw
    exact ⟨_, hw, issuing_gate .., gateOp_spec (gatesMoved_issuing ..) t k _⟩
  case held =>
    intro o ho hne
    have hw := word (ll := true) (mk := fun t w => .gateAcq w (s.who sc t)) (.gateAcq me) hact
    rw [State.applyLocal_gateAcq_held (object _) rfl (owner ho) hne] at hw
    refine ⟨_, hw, ?_, gateOp_spec (gatesMoved_setGate ..) t k _⟩
    refine (State.gate_setGate ..).trans ?_
    rw [issuing_gate, State.setGate_eq]
    rfl
  case release =>
    intro acc
    have hw := word (ll := false) (mk := fun t w => .gateRel w (s.who sc t)) (.gateRel me) hact
    refine ⟨fun ho => ?_, fun ho => ?_⟩
    · exact hw.trans (congrArg Host.Outcome.next (State.applyLocal_gateRel_own (object acc) rfl (owner ho)))
    · have hother : ((issuing s acc).gate k).owner ≠ some me := by rw [issuing_gate]; exact ho
      exact hw.trans (congrArg Host.Outcome.next (State.applyLocal_gateRel_other (object acc) rfl hother))
  case try_ =>
    have hw := word (ll := true) (mk := fun t w => .gateTry w (s.who sc t) pd.toNat) (.gateTry me pd.toNat) hact
    cases ho : g.owner with
    | none =>
      rw [State.applyLocal_gateTry_free (object _) rfl (owner ho)] at hw
      obtain ⟨hop, hbytes, hregs⟩ := gateOp_spec (gatesMoved_setGate ..) t k _
      refine ⟨_, hw, hbytes, hregs, ?_, hop.trans (by simp)⟩
      exact (State.gate_setGate ..).trans (by rw [issuing_gate]; rfl)
    | some o =>
      rw [State.applyLocal_gateTry_held (object _) rfl (owner ho)] at hw
      obtain ⟨hop, hbytes, hregs⟩ := gateOp_spec (gatesMoved_issuing ..) t k _
      exact ⟨_, hw, hbytes, hregs, issuing_gate .., hop.trans (by simp [me])⟩

theorem aPassedGateGoesToItsFirstRequest : APassedGateGoesToItsFirstRequest := fun s k =>
  ⟨fun h => by rw [State.passGate_free h, State.gate_setGate],
    fun _ _ _ h => ⟨State.gate_passGate_first h, fun _ ho => State.find_ops_passGate_first h ho⟩⟩

end Sys2Proof.Claims

namespace Sys2Proof.Machine

/-- Settles O32: ACQ and REL on any object, the gates between their parties, and the gate that is passed. -/
theorem releasesAcquiresAndGates : Obligations.ReleasesAcquiresAndGates :=
  ⟨Claims.releaseAndAcquire, Claims.gatesPassBetweenParties, Claims.aPassedGateGoesToItsFirstRequest⟩

end Sys2Proof.Machine

namespace Sys2Proof.Claims

open Sys2Proof.Machine

/-! # The way of one access that leaves its core -/

/-- One access whose lane finds its place takes effect there, in the state that the lookup leaves. -/
theorem memGo_one {s u : State} {t pa mt : Nat} {a : Access} {words : List Word} {ws : Walks}
    (hlane : s.translateLane [] a.again t a = ({ t := t, acc := a, res := .ok (pa, mt), words := words }, u, ws))
    (hred : isRedFadd [(t, a)] = false) :
    s.memGo [(t, a)] = (u.applyLane { t := t, acc := a, res := .ok (pa, mt), words := words } pa mt, []) := by
  have hany : ([(t, a)].any fun p => p.2.again) = a.again := by simp
  simp [State.memGo, hany, State.translateLanes, hlane, hred, State.parkLanes, State.applyLanes]

/-- One access that needs no place takes effect in the state as it stands. -/
theorem memGo_here {s : State} {t : Nat} {a : Access}
    (hlane : s.translateLane [] a.again t a = ({ t := t, acc := a, res := .ok (0, 0), words := [] }, s, []))
    (hred : isRedFadd [(t, a)] = false) :
    s.memGo [(t, a)] = (s.applyLane { t := t, acc := a, res := .ok (0, 0), words := [] } 0 0, []) := memGo_one hlane hred

section

variable {s : State} {i : Issue} {sc : Scope} {p t : Nat} {ll : Bool} {x : Acc}
  {prep : State → Issue → Nat → Prepared × State}

/-- A word whose one actor's access is one access, canonical, and waits for nothing issues it at once (R14, R84, R216). -/
theorem memWord_leaves {u : State} (hi : Setting s i) (ha : s.actors i sc p = [t]) (hf : Free s i sc t)
    (hp : prep s i t = (.ok x, s)) (hcanon : x.noncanon = none)
    (hpage : (access s i sc t ll x).perPage = [access s i sc t ll x])
    (hturn : (issuing s (access s i sc t ll x)).waitsTurn t (access s i sc t ll x) = false)
    (hgo : (issuing s (access s i sc t ll x)).memGo [(t, access s i sc t ll x)] = (u, [])) :
    memWord sc p ll prep s = .next u := by
  have hm := memIssue_one hcanon hpage (mayGo_access hf hturn) (lone_access (ll := ll) hf)
  rw [hgo] at hm
  have hw := memWord_one (ll := ll) hi.1 ha hp
  rw [show s.mkAccess i sc t ll x = access s i sc t ll x from rfl, hm] at hw
  exact hw

end

end Sys2Proof.Claims

namespace Sys2Proof.Machine

open Sys2Proof.Claims

/-! # Local addresses (R169, R218, R219) -/

section

variable {s : State} {i : Issue} {t size lim : Nat} {a off : BitVec 7} (ha : plain a)

include ha

/-- A misaligned offset takes ALIGN, whatever its limit. -/
theorem localAddr_misaligned (h : localEA (s.reg t a.toNat) off size % size ≠ 0) :
    localAddr s i t a off size lim = (.error (plainFault clsAlign), s) := by
  simp only [localAddr, State.source_plain s i t _ ha, if_pos h]

/-- An aligned offset past the limit takes RANGE. -/
theorem localAddr_past (h : localEA (s.reg t a.toNat) off size % size = 0)
    (hlim : lim < localEA (s.reg t a.toNat) off size + size) :
    localAddr s i t a off size lim = (.error rangeFault, s) := by
  simp only [localAddr, State.source_plain s i t _ ha, if_neg (not_not.mpr h), if_pos hlim]

theorem localAddr_within (h : localEA (s.reg t a.toNat) off size % size = 0)
    (hlim : localEA (s.reg t a.toNat) off size + size ≤ lim) :
    localAddr s i t a off size lim = (.ok (localEA (s.reg t a.toNat) off size), s) := by
  simp only [localAddr, State.source_plain s i t _ ha, if_neg (not_not.mpr h), if_neg (Nat.not_lt.mpr hlim)]

end

section

variable {s : State} {i : Issue} {t size ea : Nat} {d a off : BitVec 7} {f : MemFault}

theorem prepLds_error (h : localAddr s i t a off size (s.scratchSize t) = (.error f, s)) :
    prepLds size d a off s i t = (.error f, s) := by
  simp only [prepLds, h]

theorem prepSts_error (h : localAddr s i t a off size (s.scratchSize t) = (.error f, s)) :
    prepSts size d a off s i t = (.error f, s) := by
  simp only [prepSts, h]

theorem prepLdc_error (h : localAddr s i t a off 4 4096 = (.error f, s)) : prepLdc d a off s i t = (.error f, s) := by
  simp only [prepLdc, h]

theorem prepLds_ok (h : localAddr s i t a off size (s.scratchSize t) = (.ok ea, s))
    (hp : s.poisoned (scratchAddr (coreOf t) ea) size = false) :
    prepLds size d a off s i t = (.ok (.lds ea size d.toNat), s) := by
  simp only [prepLds, h, hp, Bool.false_eq_true, if_false]

theorem prepSts_ok (h : localAddr s i t a off size (s.scratchSize t) = (.ok ea, s)) :
    prepSts size d a off s i t = (.ok (.sts ea (s.storeData t d.toNat size)), s) := by
  simp only [prepSts, h]

theorem prepLdc_ok (h : localAddr s i t a off 4 4096 = (.ok ea, s))
    (hp : s.poisoned (constAddr (coreOf t) ea) 4 = false) :
    prepLdc d a off s i t = (.ok (.ldc ea d.toNat), s) := by
  simp only [prepLdc, h, hp, Bool.false_eq_true, if_false]

end

/-- Bytes put in the scratchpads stand there, and no other byte changes. -/
theorem State.putBytes_stored_scratch {s : State} {a : Nat} {bs : List Byte} (ha : scratchBase ≤ a)
    (hw : s.scratch.wf = true) : Stored s (s.putBytes a bs) a bs := by
  have hput : s.putBytes a bs = { s with scratch := s.scratch.writeN (a - scratchBase) bs } := if_neg (Nat.not_lt.mpr ha)
  rw [hput]
  constructor
  case left =>
    refine List.ext_getElem (State.bytesAt_length ..) fun j hj hj' => ?_
    have hhigh : ¬ a + j < scratchBase := by omega
    have hplace : a + j - scratchBase = a - scratchBase + j := by omega
    rw [State.getElem_bytesAt]
    simp only [State.byteAt, hhigh, if_false, hplace]
    exact Mem.read_writeN_inside _ _ _ _ hw hj'
  case right =>
    intro k hk
    by_cases hlow : k < scratchBase
    · simp only [State.byteAt, hlow, if_true]
    · have hout : k - scratchBase < a - scratchBase ∨ a - scratchBase + bs.length ≤ k - scratchBase := by omega
      simp only [State.byteAt, hlow, if_false, Mem.read_writeN_outside _ _ _ _ hout]

/-- A write of a scratchpad (R199, R218). -/
theorem State.stored_writeAll_scratch {s : State} {party path obj a : Nat} {also : List Nat} {bs : List Byte}
    (ha : scratchBase ≤ a) (hw : s.scratch.wf = true) : Stored s (s.writeAll party also path obj a bs) a bs :=
  Stored.congr_bytes (State.putBytes_stored_scratch ha hw) (fun _ => rfl) fun _ => rfl

theorem scratchBase_le_scratchAddr (c off : Nat) : scratchBase ≤ scratchAddr c off :=
  (Nat.le_add_right _ _).trans (Nat.le_add_right _ _)

/-- A write changes no register. -/
theorem State.sameRegs_writeAll (s : State) (party : Nat) (also : List Nat) (path obj a : Nat) (bs : List Byte) :
    SameRegs s (s.writeAll party also path obj a bs) := fun k c => by
  have hthreads : (s.putBytes a bs).threads = s.threads := by unfold State.putBytes; split <;> rfl
  have hwarps : (s.putBytes a bs).warps = s.warps := by unfold State.putBytes; split <;> rfl
  simp only [State.reg, State.thr, State.warp, State.writeAll, hthreads, hwarps]

end Sys2Proof.Machine

namespace Sys2Proof.Claims

open Sys2Proof.Machine

/-! # Scratchpad and constant accesses that leave (R218) -/

/-- An operation whose answer is known joins those in flight. -/
theorem inFlight_opFor {s u : State} {a : Access} (h : (issuing s a).Looked u) (t pa mt : Nat) (result : Option (List Word)) :
    InFlight s (u.opFor t a pa mt result) a t pa mt result := by
  refine ⟨?_, ?_, ?_, fun n => find_addOp h _⟩
  · refine (show (u.opFor t a pa mt result).threads = u.threads from rfl).trans (h.threads.trans ?_)
    rw [issuing_eq]
  · simp [State.opFor, newOp_addOp h]
  · rw [State.opFor, newOp_addOp h]
    rfl

section

variable {s : State} {i : Issue} {sc : Scope} {p t : Nat} {ll : Bool} {off n d : Nat} {bs : List Byte}
  {prep : State → Issue → Nat → Prepared × State} (h : OneActor s i sc p t)

theorem issuing_poisoned (s : State) (a : Access) (k n : Nat) : (issuing s a).poisoned k n = s.poisoned k n := by
  rw [issuing_eq]
  rfl

include h

/-- A load of clean scratchpad bytes takes effect as it leaves. -/
theorem memWord_lds (hp : prep s i t = (.ok (.lds off n d), s))
    (hclean : s.poisoned (scratchAddr (coreOf t) off) n = false) :
    memWord sc p ll prep s = .next ((issuing s (access s i sc t ll (.lds off n d))).applyLocal t
      (access s i sc t ll (.lds off n d))) := by
  obtain ⟨hi, ha, hf⟩ := h
  refine memWord_leaves hi ha hf hp rfl rfl rfl (memGo_here ?_ rfl)
  exact if_neg (by rw [issuing_poisoned, hclean]; exact Bool.false_ne_true)

theorem memWord_ldc (hp : prep s i t = (.ok (.ldc off d), s)) (hclean : s.poisoned (constAddr (coreOf t) off) 4 = false) :
    memWord sc p ll prep s = .next ((issuing s (access s i sc t ll (.ldc off d))).applyLocal t
      (access s i sc t ll (.ldc off d))) := by
  obtain ⟨hi, ha, hf⟩ := h
  refine memWord_leaves hi ha hf hp rfl rfl rfl (memGo_here ?_ rfl)
  exact if_neg (by rw [issuing_poisoned, hclean]; exact Bool.false_ne_true)

theorem memWord_sts (hp : prep s i t = (.ok (.sts off bs), s)) :
    memWord sc p ll prep s = .next ((issuing s (access s i sc t ll (.sts off bs))).applyLocal t
      (access s i sc t ll (.sts off bs))) := by
  obtain ⟨hi, ha, hf⟩ := h
  exact memWord_leaves hi ha hf hp rfl rfl rfl (memGo_here rfl rfl)

end

end Sys2Proof.Claims

namespace Sys2Proof.Machine

open Sys2Proof.Claims

/-- Settles O3: a local address is checked first; within its limit the access leaves at once, a load as an operation, a
store as a write of the core's scratchpad. -/
theorem scratchpadAndConstantAccesses : Obligations.ScratchpadAndConstantAccesses := by
  intro s i sc d a off p t h hpa hw limit ea who traps load store
  have trapped : ∀ {ll : Bool} {prep : State → Issue → Nat → Prepared × State} (size lim : Nat),
      (∀ f, localAddr s i t a off size lim = (.error f, s) → prep s i t = (.error f, s)) →
      traps size lim (memWord sc p.toNat ll prep s) := fun size lim hprep =>
    ⟨fun hal => memWord_one_fault h.1.1 h.2.1 (hprep _ (localAddr_misaligned hpa hal)),
      fun hal hlim => memWord_one_fault h.1.1 h.2.1 (hprep _ (localAddr_past hpa hal hlim))⟩
  have loads : ∀ size, load size (memWord sc p.toNat true (prepLds size d a off) s) := fun size =>
    ⟨trapped size limit fun _ => prepLds_error, fun hal hlim hclean =>
      ⟨_, memWord_lds h (prepLds_ok (localAddr_within hpa hal hlim) hclean) hclean,
        SameBytes.addOp (issuing_byteAt s _) _, SameRegs.addOp (issuing_reg s _) _, inFlight_readOp (.refl _) ..⟩⟩
  have stores : ∀ size, store size (memWord sc p.toNat false (prepSts size d a off) s) := by
    refine fun size => ⟨trapped size limit fun _ => prepSts_error, fun hal hlim =>
      ⟨_, memWord_sts h (prepSts_ok (localAddr_within hpa hal hlim)), ?regs, ?bytes⟩⟩
    case regs => exact fun k c => (State.sameRegs_writeAll _ _ _ _ _ _ _ k c).trans (issuing_reg s _ k c)
    case bytes =>
      have hscratch : (issuing s (access s i sc t false (.sts (ea size) (s.storeData t d.toNat size)))).scratch.wf = true := by
        rw [issuing_eq]
        exact hw
      exact Stored.congr_bytes (State.stored_writeAll_scratch (scratchBase_le_scratchAddr ..) hscratch)
        (fun k => issuing_byteAt s _ k) fun _ => rfl
  refine ⟨loads 4, loads 8, loads 16, stores 4, stores 8, stores 16, trapped 4 4096 fun _ => prepLdc_error,
    fun hal hlim hclean => ⟨_, memWord_ldc h (prepLdc_ok (localAddr_within hpa hal hlim) hclean) hclean,
      SameBytes.addOp (issuing_byteAt s _) _, SameRegs.addOp (issuing_reg s _) _, ?_⟩⟩
  have hconst : ∀ b, ((issuing s b).block (coreOf t)).const = (s.block (coreOf t)).const := fun b => by
    rw [issuing_eq]
    rfl
  rw [← hconst]
  exact inFlight_opFor (.refl _) ..

end Sys2Proof.Machine

namespace Sys2Proof.Machine

open Sys2Proof.Claims

/-! # What a read of memory changes

A read moves the counter of free choices and what its device moves, the results of the loads in flight that it takes first,
and what its party has read (R199). -/

/-- A thread without what it has read. -/
def Thread.unread (th : Thread) : Thread := { th with lastRead := [] }

/-- What reads may change. -/
structure State.ReadOnly (s u : State) : Prop where
  rest : u = { s with
    threads := u.threads, ops := u.ops, free := u.free, cores := u.cores, irqs := u.irqs, quar := u.quar }
  thr : ∀ k, (u.thr k).unread = (s.thr k).unread

section

variable {s u w : State}

theorem State.ReadOnly.refl (s : State) : s.ReadOnly s := ⟨rfl, fun _ => rfl⟩

theorem State.ReadOnly.trans (h : s.ReadOnly u) (h' : u.ReadOnly w) : s.ReadOnly w :=
  ⟨h'.rest.trans (by rw [h.rest]), fun k => (h'.thr k).trans (h.thr k)⟩

theorem State.Looked.readOnly (h : s.Looked u) : s.ReadOnly u :=
  ⟨by rw [h], fun k => by rw [h.thr]⟩

theorem State.ReadOnly.sameRegs (h : s.ReadOnly u) : SameRegs s u := fun k c => by
  have hv : (u.thr k).v = (s.thr k).v := (congrArg Thread.v (h.thr k) :)
  have hw : u.warps = s.warps := by rw [h.rest]
  simp only [State.reg, hv, State.warp, hw]

theorem State.ReadOnly.sameBytes (h : s.ReadOnly u) : SameBytes s u := fun a => by
  have hm : u.mem = s.mem := by rw [h.rest]
  have hs : u.scratch = s.scratch := by rw [h.rest]
  simp only [State.byteAt, hm, hs]

/-- A read enters what its party has read. -/
theorem State.readOnly_markRead (s : State) (t a k : Nat) : s.ReadOnly (s.markRead t a k) := by
  refine ⟨rfl, fun m => ?_⟩
  rw [State.markRead, State.thr_modThr]
  split
  · next e => rw [e]; rfl
  · rfl

theorem State.readOnly_readUnit (s : State) (t fl a n issued : Nat) : s.ReadOnly (s.readUnit t fl a n issued).2 := by
  unfold State.readUnit
  split
  · exact .refl s
  · refine .trans ?_ (State.readOnly_markRead ..)
    split
    · exact .refl s
    · exact ⟨rfl, fun _ => rfl⟩

theorem State.readOnly_readData (s : State) (t : Nat) (fls : List Nat) (a n issued : Nat) :
    s.ReadOnly (s.readData t fls a n issued).2 := by
  unfold State.readData
  split
  · exact s.readOnly_readUnit ..
  · exact (s.readOnly_readUnit ..).trans (State.readOnly_readUnit ..)

theorem State.looked_anyBytes (s : State) (n : Nat) : s.Looked (s.anyBytes n).2 := by
  induction n generalizing s with
  | zero => exact .refl s
  | succ n ih => exact State.Looked.trans (t := s.anyWord.2) rfl (ih _)

theorem State.readOnly_readFrom (s : State) (t : Nat) (fls : List Nat) (pa n issued : Nat) :
    s.ReadOnly (s.readFrom t fls pa n issued).2 := by
  unfold State.readFrom
  split
  · exact (looked_ioRead ..).readOnly
  · exact (s.looked_anyBytes n).readOnly
  · exact s.readOnly_readData ..

theorem State.readOnly_loadNow (s : State) (o : Op) : s.ReadOnly (s.loadNow o).2 := by
  unfold State.loadNow
  split
  · exact s.readOnly_readFrom ..
  · exact s.readOnly_readData ..
  · exact .refl s

theorem State.readOnly_readsBefore (s : State) (id t a n : Nat) : s.ReadOnly (s.readsBefore id t a n) :=
  List.foldlRecOn (motive := fun u : State => s.ReadOnly u) _ _ (.refl s) fun _ h e _ =>
    (h.trans (State.readOnly_loadNow _ e.2)).trans ⟨rfl, fun _ => rfl⟩

theorem State.readOnly_readNewest (s : State) (t a n : Nat) : s.ReadOnly (s.readNewest t a n) := by
  unfold State.readNewest
  split
  · exact s.readOnly_markRead ..
  · exact .refl s

end

/-! # Atomics and reductions of stack and CXL memory (R220-R223) -/

section

variable {s : State} {t pa mt : Nat} {a : Access} {va : Dword} {f : AtomOp} {b c : Word}
  (hpa : targetOf pa = .stack ∨ targetOf pa = .cxl)

include hpa

theorem not_fabric_of_memory : targetOf pa ≠ .fabric := by
  rcases hpa with h | h <;> rw [h] <;> exact Target.noConfusion

/-- An atomic reads the newest word; but for a comparison that fails it writes the new one; its operation has the old. -/
theorem applyGlobal_atom {d : Nat} (ha : a.acc = .atom va f b c d) :
    s.applyGlobal t a pa mt =
      ((if f = .cas && s.newestWord pa ≠ b then s.readsBefore s.nextOp t pa 4
        else (s.readsBefore s.nextOp t pa 4).writeAll t (a.others t) (pathVia pathLane mt) a.region pa
          (bytesOfWord (f.apply (s.newestWord pa) b c))).readNewest t pa 4).opFor t a pa mt (some [s.newestWord pa]) := by
  simp only [State.applyGlobal, ha, if_neg (not_fabric_of_memory hpa)]

theorem applyGlobal_red (ha : a.acc = .red va f b) :
    s.applyGlobal t a pa mt = (s.writeAll t (a.others t) (pathVia pathLane mt) a.region pa
      (bytesOfWord (f.apply (s.newestWord pa) b 0))).opFor t a pa mt (some []) := by
  simp only [State.applyGlobal, ha, if_neg (not_fabric_of_memory hpa)]

end

/-- The bytes of a word that four bytes make are these bytes. -/
theorem bytesOfWord_natOfBytes {bs : List Byte} (h : bs.length = 4) : bytesOfWord (BitVec.ofNat 32 (natOfBytes bs)) = bs := by
  obtain ⟨b0, b1, b2, b3, rfl⟩ : ∃ b0 b1 b2 b3, bs = [b0, b1, b2, b3] := by
    match bs, h with
    | [b0, b1, b2, b3], _ => exact ⟨b0, b1, b2, b3, rfl⟩
  have h0 := b0.isLt
  have h1 := b1.isLt
  have h2 := b2.isLt
  have h3 := b3.isLt
  simp only [bytesOfWord, natOfBytes, List.cons.injEq, and_true, ← BitVec.toNat_inj, BitVec.extractLsb'_toNat,
    BitVec.toNat_ofNat, Nat.shiftRight_eq_div_pow]
  omega

/-- Where a comparison fails the word keeps its value. -/
theorem AtomOp.apply_cas_ne {o b : Word} (h : o ≠ b) (c : Word) : AtomOp.cas.apply o b c = o := if_neg h

end Sys2Proof.Machine

namespace Sys2Proof.Claims

open Sys2Proof.Machine

section

variable {s u : State} {a : Access} {t pa mt : Nat} {va : Dword} {f : AtomOp} {b c : Word}

/-- A word that is written to memory from a state with the bytes of another one. -/
theorem stored_word {party path obj : Nat} {also : List Nat} (hb : SameBytes s u) (hm : u.mem.wf = true)
    (hpa : pa < 0x120000000000) (x : Word) : Stored s (u.writeAll party also path obj pa (bytesOfWord x)) pa (bytesOfWord x) := by
  have hfit : pa + (bytesOfWord x).length ≤ scratchBase := by
    have hbase : scratchBase = 2 ^ 60 := rfl
    have hlen : (bytesOfWord x).length = 4 := rfl
    omega
  exact Stored.congr_bytes (State.putBytes_stored hfit (List.cons_ne_nil _ _) hm) hb fun _ => rfl

/-- A word that is written as it stands. -/
theorem stored_same_word (hb : SameBytes s u) :
    Stored s u pa (bytesOfWord (BitVec.ofNat 32 (natOfBytes (s.bytesAt pa 4)))) := by
  rw [bytesOfWord_natOfBytes (State.bytesAt_length ..)]
  refine ⟨?_, fun a _ => hb a⟩
  rw [State.bytesAt_length]
  exact State.bytesAt_congr hb ..

/-- The end of an atomic: its party has read the newest value, and its operation enters flight with the answer. -/
theorem opFor_readNewest_spec {x r : State} {bs : List Byte} {result : Option (List Word)} (hregs : SameRegs s x)
    (hstored : Stored s x pa bs) (hnext : x.nextOp = s.nextOp + 1)
    (hr : (x.readNewest t pa 4).opFor t a pa mt result = r) :
    SameRegs s r ∧ Stored s r pa bs ∧ r.serial = x.serial ∧
      (newOp s r).map (fun o => (o.thr, o.acc, o.pa, o.result)) = some (t, a, pa, result) := by
  have hread := x.readOnly_readNewest t pa 4
  have hnext' : (x.readNewest t pa 4).nextOp = x.nextOp := by rw [hread.rest]
  have hserial : (x.readNewest t pa 4).serial = x.serial := by rw [hread.rest]
  subst hr
  refine ⟨fun k c => (hread.sameRegs k c).trans (hregs k c),
    Stored.congr_bytes hstored (fun _ => rfl) fun k => hread.sameBytes k, hserial, ?_⟩
  rw [State.opFor, newOp_addOp_of_le (by omega)]
  rfl

/-- What an atomic of memory leaves (R220-R222). -/
theorem atom_spec {d : Nat} (hl : (issuing s a).Looked u) (hm : s.mem.wf = true)
    (hpa : targetOf pa = .stack ∨ targetOf pa = .cxl) (ha : a.acc = .atom va f b c d) {old : Word}
    (hold : BitVec.ofNat 32 (natOfBytes (s.bytesAt pa 4)) = old) :
    SameRegs s (u.applyGlobal t a pa mt) ∧ Stored s (u.applyGlobal t a pa mt) pa (bytesOfWord (f.apply old b c)) ∧
      (f = .cas → old ≠ b → (u.applyGlobal t a pa mt).serial = s.serial) ∧
      (newOp s (u.applyGlobal t a pa mt)).map (fun o => (o.thr, o.acc, o.pa, o.result)) = some (t, a, pa, some [old]) := by
  have hnew : u.newestWord pa = old := by
    rw [State.newestWord, State.bytesAt_congr (sameBytes_looked hl), hold]
  rw [applyGlobal_atom hpa ha, hnew]
  have hread := u.readOnly_readsBefore u.nextOp t pa 4
  generalize u.readsBefore u.nextOp t pa 4 = v at hread
  have hregs : SameRegs s v := fun k c => (hread.sameRegs k c).trans (sameRegs_looked hl k c)
  have hbytes : SameBytes s v := fun k => (hread.sameBytes k).trans (sameBytes_looked hl k)
  have hnext : v.nextOp = s.nextOp + 1 := by rw [hread.rest, hl]; exact issuing_nextOp s a
  by_cases hfail : f = .cas ∧ old ≠ b
  case pos =>
    obtain ⟨rfl, hne⟩ := hfail
    have hserial : v.serial = s.serial := by rw [hread.rest, hl]; exact issuing_serial s a
    have hsame := stored_same_word (pa := pa) hbytes
    rw [hold] at hsame
    rw [if_pos (by simpa using hne), AtomOp.apply_cas_ne hne]
    obtain ⟨hr, hst, hser, hop⟩ := opFor_readNewest_spec (a := a) (t := t) (mt := mt) (result := some [old]) hregs
      hsame hnext rfl
    exact ⟨hr, hst, fun _ _ => hser.trans hserial, hop⟩
  case neg =>
    have hvm : v.mem.wf = true := by rw [hread.rest, hl, issuing_eq]; exact hm
    have hwregs : SameRegs s (v.writeAll t (a.others t) (pathVia pathLane mt) a.region pa (bytesOfWord (f.apply old b c))) :=
      fun k c => (State.sameRegs_writeAll _ _ _ _ _ _ _ k c).trans (hregs k c)
    have hwnext : (v.writeAll t (a.others t) (pathVia pathLane mt) a.region pa (bytesOfWord (f.apply old b c))).nextOp =
        s.nextOp + 1 := by
      rw [writeAll_below (memory_below hpa)]
      exact hnext
    rw [if_neg (by simpa using hfail)]
    obtain ⟨hr, hst, -, hop⟩ := opFor_readNewest_spec (a := a) (t := t) (mt := mt) (result := some [old]) hwregs
      (stored_word hbytes hvm (memory_below hpa) _) hwnext rfl
    exact ⟨hr, hst, fun hf hb => absurd ⟨hf, hb⟩ hfail, hop⟩

/-- What a reduction of memory leaves (R220, R223). -/
theorem red_spec (hl : (issuing s a).Looked u) (hm : s.mem.wf = true) (hpa : targetOf pa = .stack ∨ targetOf pa = .cxl)
    (ha : a.acc = .red va f b) {old : Word} (hold : BitVec.ofNat 32 (natOfBytes (s.bytesAt pa 4)) = old) :
    SameRegs s (u.applyGlobal t a pa mt) ∧ Stored s (u.applyGlobal t a pa mt) pa (bytesOfWord (f.apply old b 0)) ∧
      (newOp s (u.applyGlobal t a pa mt)).map (fun o => (o.thr, o.acc, o.pa, o.result)) = some (t, a, pa, some []) := by
  have hnew : u.newestWord pa = old := by
    rw [State.newestWord, State.bytesAt_congr (sameBytes_looked hl), hold]
  rw [applyGlobal_red hpa ha, hnew]
  obtain ⟨hstored, hregs⟩ := stored_writeAll (party := t) (path := pathVia pathLane mt) (obj := a.region) (also := a.others t)
    (bs := bytesOfWord (f.apply old b 0)) hl hm (memory_below hpa) (List.cons_ne_nil _ _) (show 4 ≤ 16 by decide)
  refine ⟨hregs.addOp _, hstored, ?_⟩
  have hnext : u.nextOp = s.nextOp + 1 := by rw [hl]; exact issuing_nextOp s a
  rw [State.opFor, newOp_addOp_of_le (by rw [writeAll_below (memory_below hpa)]; show s.nextOp ≤ u.nextOp; omega)]
  rfl

end

/-! ## Their words -/

section

variable {s : State} {i : Issue} {a b d : BitVec 7} {t : Nat}

theorem prepAtom_aligned (f : AtomOp) (hb : plain b) (h : (s.pairReg t a.toNat).toNat % 4 = 0) :
    prepAtom f d a b s i t = (.ok (.atom (s.pairReg t a.toNat) f (s.reg t b.toNat) 0 d.toNat), s) := by
  simp only [prepAtom, State.source_plain s i t _ hb, if_neg (not_not.mpr h)]

theorem prepCas_aligned (h : (s.pairReg t a.toNat).toNat % 4 = 0) :
    prepCas d a b s i t = (.ok (.atom (s.pairReg t a.toNat) .cas (loW (s.pairReg t b.toNat)) (hiW (s.pairReg t b.toNat))
      d.toNat), s) := if_neg (not_not.mpr h)

theorem prepRed_aligned (f : AtomOp) (hb : plain b) (h : (s.pairReg t a.toNat).toNat % 4 = 0) :
    prepRed f a b s i t = (.ok (.red (s.pairReg t a.toNat) f (s.reg t b.toNat)), s) := by
  simp only [prepRed, State.source_plain s i t _ hb, if_neg (not_not.mpr h)]

end

theorem atomicsUpdateTheirWord : AtomicsUpdateTheirWord := by
  intro s i sc d a b p t h hm ea x atom
  have word : ∀ {prep : State → Issue → Nat → Prepared × State} (f : AtomOp) (y z : Word),
      (ea.toNat % 4 = 0 → prep s i t = (.ok (.atom ea f y z d.toNat), s)) →
      atom f y z (fun o => f.apply o y z) (memWord sc p.toNat true prep s) := by
    intro prep f y z hprep pa mt s' hal hva hp hpa hwin old
    exact ⟨_, memWord_placed h (hprep hal) rfl (fun _ _ => Acc.noConfusion) hva hwin hp,
      atom_spec ((placed_looked ..).of hp) hm hpa rfl rfl⟩
  have one : plain b → ∀ f, atom f x 0 (fun o => f.apply o x 0) (memWord sc p.toNat true (prepAtom f d a b) s) :=
    fun hb f => word f x 0 (prepAtom_aligned f hb)
  exact ⟨fun hb => ⟨one hb .add, one hb .min, one hb .max, one hb .minUi, one hb .maxUi, one hb .and, one hb .or,
    one hb .xor, one hb .exch, one hb .inc, one hb .fadd⟩, word .cas _ _ prepCas_aligned⟩

/-! ## RED.FADD (R206) -/

/-- A combination makes free choices alone. -/
theorem looked_combineTree (s : State) (l : List Word) (n : Nat) : s.Looked (s.combineTree l n).2 := by
  induction n generalizing s l with
  | zero => exact .refl s
  | succ n ih =>
    match l with
    | [] => exact .refl s
    | [_] => exact .refl s
    | x :: y :: l =>
      exact State.Looked.trans (t := ((s.choose (x :: y :: l).length).2.choose
        ((x :: y :: l).eraseIdx (s.choose (x :: y :: l).length).1).length).2) rfl (ih ..)

/-- Two values combine as their sum, in one order or the other. -/
theorem combineTree_pair (s : State) (x y : Word) :
    (s.combineTree [x, y] 2).1 = fadd atomModes x y ∨ (s.combineTree [x, y] 2).1 = fadd atomModes y x := by
  have hi : Config.freeNat s.free % 2 = 0 ∨ Config.freeNat s.free % 2 = 1 := by omega
  rcases hi with hi | hi
  · left
    simp [State.combineTree, State.choose, hi, Nat.mod_one]
  · right
    simp [State.combineTree, State.choose, hi, Nat.mod_one]

section

variable {s u : State} {i : Issue} {sc : Scope} {p t pa mt : Nat} {ll : Bool} {va : Dword} {x : Word}
  {prep : State → Issue → Nat → Prepared × State}

/-- One RED.FADD of memory: the word takes the sum, and the operation holds the flag. -/
theorem applyRedFadd_one {a : Access} (hpa : targetOf pa = .stack ∨ targetOf pa = .cxl) (ha : a.acc = .red va .fadd x) :
    u.applyRedFadd [{ t := t, acc := a, res := .ok (pa, mt), words := [] }] 2 =
      ((u.combineTree [u.newestWord pa, x] 2).2.writeAll t [] (pathVia pathLane mt) a.region pa
        (bytesOfWord (u.combineTree [u.newestWord pa, x] 2).1)).opFor t a pa mt (some []) := by
  simp [State.applyRedFadd, ha, not_fabric_of_memory hpa]

/-- The word of a RED.FADD that is placed. -/
theorem memWord_redFadd (h : OneActor s i sc p t) (hprep : prep s i t = (.ok (.red va .fadd x), s)) (hva : va.toNat < 2 ^ 48)
    (hwin : s.windowOps t (va.toNat / 4096) = [])
    (hp : placed s (access s i sc t ll (.red va .fadd x)) t va 4 .rw true = (.ok (pa, mt), u)) :
    memWord sc p ll prep s =
      .next (u.applyRedFadd [{ t := t, acc := access s i sc t ll (.red va .fadd x), res := .ok (pa, mt), words := [] }] 2) := by
  refine memWord_issues h hprep rfl hva hwin ?_
  have hlanes := translateLanes_global (s := s) (t := t) (a := access s i sc t ll (.red va .fadd x)) rfl
  have hbig : (access s i sc t ll (.red va .fadd x)).acc.big = true := rfl
  rw [hbig, hp] at hlanes
  have hany : ([(t, access s i sc t ll (.red va .fadd x))].any fun p => p.2.again) = false := rfl
  have hred : isRedFadd [(t, access s i sc t ll (.red va .fadd x))] = true := rfl
  simp [State.memGo, hany, hlanes, hred, State.parkLanes]

/-- What a RED.FADD of memory leaves. -/
theorem redFadd_spec {a : Access} (hl : (issuing s a).Looked u) (hm : s.mem.wf = true)
    (hpa : targetOf pa = .stack ∨ targetOf pa = .cxl) (ha : a.acc = .red va .fadd x) {old : Word}
    (hold : BitVec.ofNat 32 (natOfBytes (s.bytesAt pa 4)) = old) {r : State}
    (hr : u.applyRedFadd [{ t := t, acc := a, res := .ok (pa, mt), words := [] }] 2 = r) :
    SameRegs s r ∧ (Stored s r pa (bytesOfWord (fadd atomModes old x)) ∨
      Stored s r pa (bytesOfWord (fadd atomModes x old))) := by
  have hnew : u.newestWord pa = old := by
    rw [State.newestWord, State.bytesAt_congr (sameBytes_looked hl), hold]
  rw [applyRedFadd_one hpa ha, hnew] at hr
  obtain ⟨hstored, hregs⟩ := stored_writeAll (party := t) (path := pathVia pathLane mt) (obj := a.region) (also := [])
    (bs := bytesOfWord (u.combineTree [old, x] 2).1) (hl.trans (looked_combineTree ..)) hm (memory_below hpa)
    (List.cons_ne_nil _ _) (show 4 ≤ 16 by decide)
  subst hr
  refine ⟨hregs.addOp _, (combineTree_pair u old x).imp (fun e => ?_) fun e => ?_⟩
  · rw [← e]
    exact hstored
  · rw [← e]
    exact hstored

end

theorem reductionsUpdateTheirWord : ReductionsUpdateTheirWord := by
  intro s i sc a b p t h hb hm ea x red
  have one : ∀ f, f ≠ .fadd → red f (fun o => f.apply o x 0) (memWord sc p.toNat true (prepRed f a b) s) := by
    intro f hf pa mt s' hal hva hp hpa hwin old
    have hsum : ∀ va y, Acc.red ea f x ≠ .red va .fadd y := fun va y e => hf (Acc.red.inj e).2.1
    exact ⟨_, memWord_placed h (prepRed_aligned f hb hal) rfl hsum hva hwin hp,
      red_spec ((placed_looked ..).of hp) hm hpa rfl rfl⟩
  refine ⟨one .add AtomOp.noConfusion, one .min AtomOp.noConfusion, one .max AtomOp.noConfusion, one .and AtomOp.noConfusion,
    one .or AtomOp.noConfusion, one .xor AtomOp.noConfusion, fun pa mt s' hal hva hp hpa hwin => ?_⟩
  exact ⟨_, memWord_redFadd h (prepRed_aligned .fadd hb hal) hva hwin hp,
    redFadd_spec ((placed_looked ..).of hp) hm hpa rfl rfl rfl⟩

end Sys2Proof.Claims

namespace Sys2Proof.Machine

/-- Settles O30: a word of memory that an access reaches is read and written in one step, and its operation follows. -/
theorem atomicsAndReductions : Obligations.AtomicsAndReductions :=
  ⟨Claims.atomicsUpdateTheirWord, Claims.reductionsUpdateTheirWord⟩

end Sys2Proof.Machine

namespace Sys2Proof.Machine

open Sys2Proof.Claims

/-! # Writes of signal words (R171, R195, R233) -/

/-- What the tests after a write of a signal word may change. -/
structure State.Tested (s u : State) : Prop where
  rest : u = { s with
    signals := u.signals, sigMods := u.sigMods, ops := u.ops, fabWaits := u.fabWaits, fabAnswers := u.fabAnswers
    launches := u.launches, free := u.free }
  signal : ∀ i, i ≠ ticketWord → u.signal i = s.signal i

section

variable {s u w : State}

theorem State.Tested.refl (s : State) : s.Tested s := ⟨rfl, fun _ _ => rfl⟩

theorem State.Tested.trans (h : s.Tested u) (h' : u.Tested w) : s.Tested w :=
  ⟨h'.rest.trans (by rw [h.rest]), fun i hi => (h'.signal i hi).trans (h.signal i hi)⟩

/-- The test of a launch's conditions writes no signal word but the ticket counter (R141). -/
theorem State.tested_latchLaunch (s : State) (l : Nat) : s.Tested (s.latchLaunch l) := by
  simp only [State.latchLaunch]
  split
  · exact .refl s
  · split
    · split
      · exact ⟨rfl, fun i hi => Tab.get_put_ne _ _ _ hi⟩
      · exact ⟨rfl, fun _ _ => rfl⟩
    · exact .refl s

theorem State.tested_testConds (s : State) : s.Tested s.testConds :=
  List.foldlRecOn (motive := fun u : State => s.Tested u) _ _ (.refl s) fun u h l _ => h.trans (u.tested_latchLaunch l)

/-- After a write of a signal word the waits on it and the conditions of launches are tested. -/
theorem State.tested_sigWrite (s : State) (i : Nat) (v : Dword) :
    State.Tested { s with signals := s.signals.put i v } (s.sigWrite i v) :=
  State.Tested.trans (u := (State.testWaits (State.bumpMods { s with signals := s.signals.put i v } i) i).testFabWaits i)
    ⟨rfl, fun _ _ => rfl⟩ (State.tested_testConds _)

end

theorem State.alike_dropPending (s : State) (t obj : Nat) : s.Alike Thread.unbarred (s.dropPending t obj) := by
  unfold State.dropPending
  exact .modThr fun _ => rfl

/-- A release at a write changes what threads hold pending, and the releases. -/
theorem State.alike_releasePending (s : State) (ts : List Nat) (obj pos : Nat) :
    s.Alike Thread.unbarred (s.releasePending ts obj pos) := by
  simp only [State.releasePending]
  split
  · exact (State.Alike.foldl (fun s t => s.alike_dropPending t obj) ts s).trans (.ofThreads rfl rfl)
  · exact .refl ..

/-- A party's write of a signal word leaves every register and the numbers of the operations. -/
theorem State.sigWriteBy_frame (s : State) (ts : List Nat) (i : Nat) (v : Dword) :
    SameRegs s (s.sigWriteBy ts i v) ∧ (s.sigWriteBy ts i v).nextOp = s.nextOp := by
  have hr := s.alike_releasePending ts (objKey 6 0 i) (s.sigMods.get i 0 + 1)
  have ht := (s.releasePending ts (objKey 6 0 i) (s.sigMods.get i 0 + 1)).tested_sigWrite i v
  refine ⟨fun k c => ?_, ?_⟩
  · refine Eq.trans ?_ (sameRegs_alike hr (fun _ => rfl) k c)
    rw [State.sigWriteBy, ht.rest]
    rfl
  · rw [State.sigWriteBy, ht.rest, hr.rest]

/-- A word that is written, but for the ticket counter, reads back after the tests of the write. -/
theorem State.signal_sigWriteBy (s : State) (ts : List Nat) {i : Nat} (v : Dword) (h : i ≠ ticketWord) :
    (s.sigWriteBy ts i v).signal i = v :=
  ((State.tested_sigWrite _ i v).signal i h).trans (Tab.get_put_same ..)

/-! # Signal words of this module (R231, R399, R400) -/

section

variable {s : State} {t idx : Nat} (h : s.proxyFor (s.tagOf t).1 idx = none)

include h

/-- An index without a proxy entry names the word at its place in the grant. -/
theorem State.sigAbs_own : s.sigAbs t idx = (s.grant (s.tagOf t).1).1 + idx := by
  simp only [State.sigAbs, State.sigIndex, h]

theorem State.signalGate_own (right : Nat) :
    s.signalGate t idx right = (.ok ((s.grant (s.tagOf t).1).1 + idx, 0), s) := by
  simp only [State.signalGate, State.sigRoute, h]

end

/-- The low bits of a signal operand are its index (R231). -/
theorem bitsOf_index (n : Nat) : bitsOf n 18 0 = n % 2 ^ 19 := by simp [bitsOf]

section

variable {s : State} {i : Issue} {t : Nat} {a : BitVec 7} {mk : State → Nat → Nat → Word → Acc} (ha : plain a)

include ha

theorem prepSig_granted (h : (s.reg t a.toNat).toNat % 2 ^ 19 < (s.grant (s.tagOf t).1).2) :
    prepSig a mk s i t = (.ok (mk s t ((s.reg t a.toNat).toNat % 2 ^ 19) (s.reg t a.toNat)), s) := by
  simp only [prepSig, sigOperand, State.source_plain s i t _ ha, bitsOf_index, if_pos h]

/-- At or above the grant the index takes RANGE (R231). -/
theorem prepSig_past (h : (s.grant (s.tagOf t).1).2 ≤ (s.reg t a.toNat).toNat % 2 ^ 19) :
    prepSig a mk s i t = (.error rangeFault, s) := by
  simp only [prepSig, sigOperand, State.source_plain s i t _ ha, bitsOf_index, if_neg (Nat.not_lt.mpr h)]

end

end Sys2Proof.Machine

namespace Sys2Proof.Claims

open Sys2Proof.Machine

/-- The accesses to a signal word of an index. -/
inductive OnSignal (idx : Nat) : Acc → Prop
  | ld (d : Nat) : OnSignal idx (.sigLd idx d)
  | st (v : Dword) : OnSignal idx (.sigSt idx v)
  | add (v : Dword) (d : Nat) : OnSignal idx (.sigAdd idx v d)
  | cas (e n : Dword) (d : Nat) : OnSignal idx (.sigCas idx e n d)
  | wait (cond : Nat) (v : Dword) (d : Nat) : OnSignal idx (.sigWait idx cond v d)

section

variable {s : State} {i : Issue} {sc : Scope} {p t idx : Nat} {ll : Bool} {x : Acc}
  {prep : State → Issue → Nat → Prepared × State}

/-- A word that reaches a signal word of this module's own grant takes effect as it leaves. -/
theorem memWord_signal (hx : OnSignal idx x) (h : OneActor s i sc p t) (hp : prep s i t = (.ok x, s))
    (hproxy : s.proxyFor (s.tagOf t).1 idx = none) (hturn : s.turning (s.tagOf t).1 idx = false)
    (hown : (s.grant (s.tagOf t).1).1 + idx < 2 ^ 19) :
    memWord sc p ll prep s = .next ((issuing s (access s i sc t ll x)).applyLocal t (access s i sc t ll x)) := by
  obtain ⟨hi, ha, hf⟩ := h
  have hcanon : x.noncanon = none := by cases hx <;> rfl
  have hpage : (access s i sc t ll x).perPage = [access s i sc t ll x] := by cases hx <;> rfl
  have hglobal : x.global = none := by cases hx <;> rfl
  have hred : isRedFadd [(t, access s i sc t ll x)] = false := by cases hx <;> rfl
  obtain ⟨right, hsignal⟩ : ∃ right, x.signal = some (idx, right) := by cases hx <;> exact ⟨_, rfl⟩
  have hwait : ∀ u : State, u.turning (u.tagOf t).1 idx = false → u.waitsTurn t (access s i sc t ll x) = false :=
    fun u hu => by cases hx <;> exact hu
  have hgate : (issuing s (access s i sc t ll x)).signalGate t idx right =
      (.ok ((s.grant (s.tagOf t).1).1 + idx, 0), issuing s (access s i sc t ll x)) := by
    have hown' : (issuing s (access s i sc t ll x)).proxyFor ((issuing s (access s i sc t ll x)).tagOf t).1 idx = none := by
      rw [issuing_eq]
      exact hproxy
    rw [State.signalGate_own hown', issuing_tagOf, issuing_eq]
    rfl
  refine memWord_leaves hi ha hf hp hcanon hpage (hwait _ (by rw [issuing_eq]; exact hturn)) ?_
  refine (memGo_one (u := issuing s (access s i sc t ll x)) (pa := (s.grant (s.tagOf t).1).1 + idx) (mt := 0) (words := [])
    (ws := []) ?_ hred).trans ?_
  · simp only [State.translateLane, show (access s i sc t ll x).acc = x from rfl, hglobal, hsignal, hgate]
  · have haway : (s.grant (s.tagOf t).1).1 + idx < awayBase := hown
    simp only [State.applyLane, show (access s i sc t ll x).acc = x from rfl, hglobal, hsignal, Option.isSome_none,
      Option.isSome_some, Bool.false_eq_true, if_false, if_true, haway]

end

end Sys2Proof.Claims

namespace Sys2Proof.Machine

open Sys2Proof.Claims

/-! # Accesses to signal words, as they take effect (R231-R233) -/

/-- An access to a signal word in flight, at a place in the word's order, with its answer if it has one. -/
def State.sigOp (s : State) (t : Nat) (a : Access) (n serial : Nat) (result : Option (List Word)) : State :=
  s.addOp { thr := t, acc := a, pa := n, mt := 0, epoch := s.epoch, serial := serial, result := result }

section

variable {s : State} {t idx n : Nat} {a : Access} (hn : s.sigAbs t idx = n)

include hn

theorem State.applyLocal_sigLd {d : Nat} (ha : a.acc = .sigLd idx d) :
    s.applyLocal t a = s.sigOp t a n (s.sigMods.get n 0) (some [loW (s.signal n), hiW (s.signal n)]) := by
  simp only [State.applyLocal, ha, hn, State.sigOp]

theorem State.applyLocal_sigSt {v : Dword} (ha : a.acc = .sigSt idx v) : s.applyLocal t a = s.sigWriteBy a.members n v := by
  simp only [State.applyLocal, ha, hn]

theorem State.applyLocal_sigAdd {v : Dword} {d : Nat} (ha : a.acc = .sigAdd idx v d) :
    s.applyLocal t a = (s.sigWriteBy a.members n (s.signal n + v)).sigOp t a n (s.sigMods.get n 0)
      (some [loW (s.signal n), hiW (s.signal n)]) := by
  simp only [State.applyLocal, ha, hn, State.sigOp]

theorem State.applyLocal_sigCas {e v : Dword} {d : Nat} (ha : a.acc = .sigCas idx e v d) :
    s.applyLocal t a = (if s.signal n = e then s.sigWriteBy a.members n v else s).sigOp t a n (s.sigMods.get n 0)
      (some [loW (s.signal n), hiW (s.signal n)]) := by
  simp only [State.applyLocal, ha, hn, State.sigOp]

theorem State.applyLocal_sigWait {v : Dword} {cond d : Nat} (ha : a.acc = .sigWait idx cond v d) :
    s.applyLocal t a = s.sigOp t a n (s.sigMods.get n 0)
      (if condHolds cond (s.signal n) v then some [loW (s.signal n), hiW (s.signal n)] else none) := by
  simp only [State.applyLocal, ha, hn, State.sigOp]

end

end Sys2Proof.Machine

namespace Sys2Proof.Claims

open Sys2Proof.Machine

section

variable {s u : State} {a : Access}

theorem issuing_signal (s : State) (a : Access) (n : Nat) : (issuing s a).signal n = s.signal n := by
  rw [issuing_eq]
  rfl

/-- What an access changes of registers and of the operations' numbers as it leaves: none but its own number. -/
def OwnNumber (s u : State) : Prop := SameRegs s u ∧ u.nextOp = s.nextOp + 1

theorem ownNumber_issuing (s : State) (a : Access) : OwnNumber s (issuing s a) := ⟨issuing_reg s a, issuing_nextOp s a⟩

theorem OwnNumber.sigWriteBy (h : OwnNumber s u) (ts : List Nat) (n : Nat) (v : Dword) :
    OwnNumber s (u.sigWriteBy ts n v) := by
  obtain ⟨hregs, hnext⟩ := u.sigWriteBy_frame ts n v
  exact ⟨fun k c => (hregs k c).trans (h.1 k c), hnext.trans h.2⟩

/-- The operation of a signal access is the newest, and no register has changed. -/
theorem OwnNumber.sigOp (h : OwnNumber s u) (t : Nat) (a : Access) (n serial : Nat) (result : Option (List Word)) :
    SameRegs s (u.sigOp t a n serial result) ∧
      (newOp s (u.sigOp t a n serial result)).map (fun o => (o.thr, o.pa, o.result)) = some (t, n, result) := by
  obtain ⟨hregs, hnext⟩ := h
  refine ⟨hregs.addOp _, ?_⟩
  rw [State.sigOp, newOp_addOp_of_le (by omega)]
  rfl

end

end Sys2Proof.Claims

namespace Sys2Proof.Machine

open Sys2Proof.Claims

/-- Settles O4: a word of this module is reached as its access leaves, at the index's place in the grant; what is written
there stands after the tests of the write, but for the ticket counter. -/
theorem signalWords : Obligations.SignalWords := by
  intro s i sc d a b p t h hpa w idx v B refuse
  have refused : ∀ {ll : Bool} {mk : State → Nat → Nat → Word → Acc}, (s.grant v).2 ≤ idx →
      refuse (memWord sc p.toNat ll (prepSig a mk) s) :=
    fun hpast => memWord_one_fault h.1.1 h.2.1 (prepSig_past hpa hpast)
  refine ⟨fun hpast => ⟨refused hpast, refused hpast, refused hpast, refused hpast, refused hpast⟩, ?_⟩
  intro hin hproxy hturn hown n old answers
  have word : ∀ {ll : Bool} {mk : State → Nat → Nat → Word → Acc}, OnSignal idx (mk s t idx (s.reg t a.toNat)) →
      memWord sc p.toNat ll (prepSig a mk) s =
        .next ((issuing s (access s i sc t ll (mk s t idx (s.reg t a.toNat)))).applyLocal t
          (access s i sc t ll (mk s t idx (s.reg t a.toNat)))) :=
    fun hx => memWord_signal hx h (prepSig_granted hpa hin) hproxy hturn hown
  have place : ∀ acc, (issuing s acc).sigAbs t idx = n := fun acc => by
    have hproxy' : (issuing s acc).proxyFor ((issuing s acc).tagOf t).1 idx = none := by
      rw [issuing_eq]
      exact hproxy
    rw [State.sigAbs_own hproxy', issuing_tagOf, issuing_eq]
    rfl
  have hold : ∀ acc, (issuing s acc).signal n = old := fun acc => issuing_signal s acc n
  have hld := word (ll := true) (mk := fun _ _ idx _ => .sigLd idx d.toNat) (.ld _)
  have hst := word (ll := false) (mk := fun s t idx _ => .sigSt idx (s.pairReg t d.toNat)) (.st _)
  have hadd := word (ll := true) (mk := fun s t idx _ => .sigAdd idx (s.pairReg t b.toNat) d.toNat) (.add _ _)
  have hcas := word (ll := true)
    (mk := fun s t idx _ => .sigCas idx (s.pairReg t b.toNat) (s.pairReg t (b.toNat + 2)) d.toNat) (.cas _ _ _)
  have hwait := word (ll := true)
    (mk := fun s t idx w => .sigWait idx (bitsOf w.toNat 30 29) (s.pairReg t b.toNat) d.toNat) (.wait _ _ _)
  rw [State.applyLocal_sigLd (place _) rfl, hold] at hld
  rw [State.applyLocal_sigSt (place _) rfl] at hst
  rw [State.applyLocal_sigAdd (place _) rfl, hold] at hadd
  rw [State.applyLocal_sigCas (place _) rfl, hold] at hcas
  rw [State.applyLocal_sigWait (place _) rfl, hold] at hwait
  have own : ∀ acc, OwnNumber s (issuing s acc) := ownNumber_issuing s
  refine ⟨⟨_, hld, (own _).sigOp ..⟩, ⟨_, hadd, ((own _).sigWriteBy ..).sigOp ..⟩, ⟨_, hcas, ?cas⟩,
    ⟨_, hwait, (own _).sigOp ..⟩, ⟨_, hst, ((own _).sigWriteBy ..).1⟩,
    fun hn => ⟨⟨_, hst, ?_⟩, ⟨_, hadd, ?_⟩, ⟨_, hcas, ?_⟩⟩⟩
  case cas =>
    split
    · exact ((own _).sigWriteBy ..).sigOp ..
    · exact (own _).sigOp ..
  · exact State.signal_sigWriteBy _ _ _ hn
  · exact State.signal_sigWriteBy _ _ _ hn
  · show (ite _ _ _ : State).signal n = _
    split
    · exact State.signal_sigWriteBy _ _ _ hn
    · exact hold _

end Sys2Proof.Machine

namespace Sys2Proof.Machine

open Sys2Proof.Claims

/-! # Regions (R192, R224, R225) -/

/-- The region that BIND reads from five uniform registers. -/
def State.boundRegion (s : State) (t a : Nat) : Region :=
  { base := (s.pairReg t a).toNat, size := (s.pairReg t (a + 2)).toNat, obj := s.reg t (a + 4) }

/-- What BIND asks of the region that it reads (R224). -/
def State.Bindable (s : State) (t : Nat) (r : Region) : Prop :=
  r.base % 64 = 0 ∧ r.size % 64 = 0 ∧ r.size ≠ 0 ∧ r.base + r.size ≤ 2 ^ 48 ∧ (s.objOf t r.obj).isSome = true ∧
    (∀ q ∈ (s.block (coreOf t)).regions, ¬ (r.base < q.base + q.size ∧ q.base < r.base + r.size)) ∧
    (s.block (coreOf t)).regions.length < 64

/-- The test that BIND makes. -/
theorem State.bindable_iff (s : State) (t : Nat) (r : Region) :
    (r.ok && (s.objOf t r.obj).isSome && !((s.block (coreOf t)).regions.any fun q => r.overlaps q) &&
      (s.block (coreOf t)).regions.length < 64) = true ↔ s.Bindable t r := by
  simp only [Region.ok, Region.overlaps, State.Bindable, Bool.and_eq_true, decide_eq_true_eq, Bool.not_eq_true',
    List.any_eq_false, and_assoc]

section

variable {s : State} {i : Issue} {sc : Scope} {a : BitVec 7} {p : BitVec 3} {t : Nat} (hi : Setting s i)
  (ha : s.actors i sc p.toNat = [t])

include hi ha

theorem exec_bind (h : s.Bindable t (s.boundRegion t a.toNat)) :
    exec (.bind sc a p) s = .next (s.setBlock (coreOf t) { s.block (coreOf t) with
      regions := (s.block (coreOf t)).regions ++ [s.boundRegion t a.toNat] }) :=
  onIssue_one_ran hi.1 ha (if_pos ((s.bindable_iff t _).mpr h))

theorem exec_bind_refused (h : ¬ s.Bindable t (s.boundRegion t a.toNat)) :
    exec (.bind sc a p) s = .next (s.raise (if sc = .lane then [t] else i.group) i.faultAt (plainFault clsBudget)
      (some (i.here 0))) :=
  onIssue_one_fault hi.1 ha (if_neg (mt (s.bindable_iff t _).mp h)) rfl

theorem exec_unbind : exec (.unbind sc a p) s = .next (s.modBlock (coreOf t) fun b =>
    { b with regions := b.regions.filter fun r => r.base ≠ (s.pairReg t a.toNat).toNat }) :=
  onIssue_one_ran hi.1 ha rfl

end

end Sys2Proof.Machine

namespace Sys2Proof.Claims

open Sys2Proof.Machine

theorem regionsJoinAndLeaveTheList : RegionsJoinAndLeaveTheList := by
  intro s i sc a p t hi ha base size obj old ok
  refine ⟨fun h => ⟨_, exec_bind hi ha h, rfl, fun c => ?_⟩, exec_bind_refused hi ha,
    ⟨_, exec_unbind hi ha, rfl, fun c => ?_⟩⟩
  · refine (State.block_setBlock ..).trans ?_
    split
    · next e => rw [e]; rfl
    · rfl
  · refine (State.block_modBlock ..).trans ?_
    split
    · next e => rw [e]
    · rfl

end Sys2Proof.Claims

namespace Sys2Proof.Machine

open Sys2Proof.Claims

/-! # What no fault changes: memory and the scratchpads -/

/-- Memory and the scratchpads are as before. -/
def State.SameStore (s u : State) : Prop := u.mem = s.mem ∧ u.scratch = s.scratch

section

variable {s u w : State}

theorem State.SameStore.refl (s : State) : s.SameStore s := ⟨rfl, rfl⟩

theorem State.SameStore.trans (h : s.SameStore u) (h' : u.SameStore w) : s.SameStore w :=
  ⟨h'.1.trans h.1, h'.2.trans h.2⟩

theorem State.SameStore.sameBytes (h : s.SameStore u) : SameBytes s u := fun a => by
  simp only [State.byteAt, h.1, h.2]

theorem State.SameStore.foldl {α : Type} {f : State → α → State} (hf : ∀ (s : State) x, s.SameStore (f s x)) (l : List α)
    (s : State) : s.SameStore (l.foldl f s) :=
  List.foldlRecOn (motive := fun u : State => s.SameStore u) l f (.refl s) fun _ h x _ => h.trans (hf _ x)

theorem State.Looked.sameStore (h : s.Looked u) : s.SameStore u := ⟨h.mem, h.scratch⟩

theorem State.Rebound.sameStore (h : s.Rebound u) : s.SameStore u := by
  rw [h.rest]
  exact ⟨rfl, rfl⟩

theorem State.sameStore_modThr (s : State) (t : Nat) (f : Thread → Thread) : s.SameStore (s.modThr t f) := ⟨rfl, rfl⟩

theorem State.sameStore_modThrs (s : State) (ts : List Nat) (f : Thread → Thread) : s.SameStore (s.modThrs ts f) := by
  rw [State.modThrs_eq]
  exact ⟨rfl, rfl⟩

theorem State.sameStore_setFlags (s : State) (a : Access) : s.SameStore (s.setFlags a) := by
  rw [State.setFlags_eq_modThrs]
  split
  · exact .refl s
  · exact s.sameStore_modThrs ..

theorem State.sameStore_clearFlags (s : State) (flag : Option Nat) (ms : List Nat) : s.SameStore (s.clearFlags flag ms) := by
  unfold State.clearFlags
  split
  · exact .refl s
  · refine .foldl (fun s t => ?_) ms s
    split
    · exact .refl s
    · exact ⟨rfl, rfl⟩

/-! ## Faults (R342-R345, R447) -/

theorem State.sameStore_clearBlock (s : State) (c : Nat) : s.SameStore (s.clearBlock c) := ⟨rfl, rfl⟩

theorem State.sameStore_dropLaunch (s : State) (l : Nat) : s.SameStore (s.dropLaunch l) := by
  cases hx : s.launch? l with
  | none => simp only [State.dropLaunch, hx]; exact .refl s
  | some x =>
    have hclear : s.SameStore (x.installed.foldl State.clearBlock s) :=
      .foldl (fun s c => s.sameStore_clearBlock c) x.installed s
    rw [State.dropLaunch_some hx, State.freeCores_eq]
    exact ⟨hclear.1, hclear.2⟩

theorem State.sameStore_doubleFault (s : State) (c : Nat) : s.SameStore (s.doubleFault c) := by
  unfold State.doubleFault State.abortLaunch
  split
  · exact .refl s
  · exact (s.sameStore_dropLaunch _).trans (State.rebound_haltQueue ..).sameStore

theorem State.sameStore_firmwareFault (s : State) (c cls : Nat) : s.SameStore (s.firmwareFault c cls) := by
  simp only [State.firmwareFault]
  split <;> exact ⟨rfl, rfl⟩

theorem State.sameStore_setWarp (s : State) (k : Nat) (x : Warp) : s.SameStore (s.setWarp k x) := ⟨rfl, rfl⟩
theorem State.sameStore_setThr (s : State) (t : Nat) (x : Thread) : s.SameStore (s.setThr t x) := ⟨rfl, rfl⟩
theorem State.sameStore_modBlock (s : State) (c : Nat) (f : Block → Block) : s.SameStore (s.modBlock c f) := ⟨rfl, rfl⟩

theorem State.sameStore_startHandler (s : State) (c : Nat) : s.SameStore (s.startHandler c) := by
  simp only [State.startHandler]
  split
  · split
    · refine .trans ?_ (State.sameStore_modBlock ..)
      refine .trans ?_ (.foldl (fun s _ => s.sameStore_setThr ..) _ _)
      exact s.sameStore_setWarp ..
    · exact s.sameStore_doubleFault c
  · exact .refl s

/-- A record, and what follows of it: a handler, the end of the launch or the agent's stop. -/
theorem State.sameStore_record (s : State) (ts : List Nat) (at_ : FaultAt) (f : MemFault) : s.SameStore (s.record ts at_ f) := by
  simp only [State.record]
  split
  · exact .refl s
  · split
    · exact s.sameStore_firmwareFault ..
    · split
      · exact s.sameStore_doubleFault ..
      · exact (s.sameStore_modBlock ..).trans (State.sameStore_startHandler ..)

theorem State.sameStore_raise (s : State) (ts : List Nat) (at_ : FaultAt) (f : MemFault) (stop : Option StopAt) :
    s.SameStore (s.raise ts at_ f stop) := by
  have hdrop : s.SameStore (s.dropFromIssue ts) := by
    unfold State.dropFromIssue
    split <;> exact ⟨rfl, rfl⟩
  exact (hdrop.trans (State.sameStore_modThrs ..)).trans (State.sameStore_record ..)

theorem State.sameStore_raiseMany (s : State) (i : Issue) (sc : Scope) (lits n : Nat) (l : List (Nat × MemFault × Dword)) :
    s.SameStore (s.raiseMany i sc lits n l) := by
  induction n generalizing s l with
  | zero => exact .refl s
  | succ n ih =>
    cases l with
    | nil => exact .refl s
    | cons x r => exact (s.sameStore_raise ..).trans (ih ..)

theorem State.sameStore_park (s : State) (tas : List (Nat × Access)) (f : MemFault) : s.SameStore (s.park tas f) := by
  unfold State.park
  split
  · exact .refl s
  · refine State.SameStore.trans (State.SameStore.trans ?_ (State.sameStore_modThrs ..)) (State.sameStore_record ..)
    exact List.foldrRecOn (motive := fun u : State => s.SameStore u) _ _ (.refl s) fun _ h _ _ =>
      h.trans (State.sameStore_modThr ..)

theorem State.sameStore_parkLanes (s : State) (ls : List Lane) (n : Nat) : s.SameStore (s.parkLanes ls n) := by
  induction n generalizing s ls with
  | zero => exact .refl s
  | succ n ih =>
    cases ls with
    | nil => exact .refl s
    | cons l r =>
      rw [State.parkLanes]
      split
      · exact ih ..
      · exact (s.sameStore_park ..).trans (ih ..)

end

end Sys2Proof.Machine

namespace Sys2Proof.Machine

/-! # The order in which accesses may go names no other access -/

theorem mem_of_mem_insertBy {α : Type} {key : α → Nat} {x y : α} {l : List α} (h : y ∈ insertBy key x l) :
    y = x ∨ y ∈ l := by
  induction l with
  | nil => exact .inl (List.mem_singleton.mp h)
  | cons z l ih =>
    rw [insertBy] at h
    split at h
    · exact List.mem_cons.mp h
    · rcases List.mem_cons.mp h with rfl | h
      · exact .inr List.mem_cons_self
      · exact (ih h).imp_right (List.mem_cons_of_mem _)

theorem mem_of_mem_sortBy {α : Type} {key : α → Nat} {y : α} {l : List α} (h : y ∈ sortBy key l) : y ∈ l := by
  revert h
  unfold sortBy
  refine List.foldlRecOn (motive := fun acc : List α => y ∈ acc → y ∈ l) l _ (fun h => absurd h List.not_mem_nil)
    fun acc ih x hx h => ?_
  rcases mem_of_mem_insertBy h with rfl | h
  · exact hx
  · exact ih h

theorem mem_of_mem_orderly {pend may : List (Nat × Access)} {p : Nat × Access} (h : p ∈ orderly pend may) : p ∈ may := by
  revert h
  unfold orderly
  refine List.foldlRecOn (motive := fun ok : List (Nat × Access) => p ∈ ok → p ∈ may) _ _
    (fun h => absurd h List.not_mem_nil) fun ok ih x hx h => ?_
  split at h
  · rcases List.mem_append.mp h with h | h
    · exact ih h
    · rw [List.mem_singleton.mp h]
      exact mem_of_mem_sortBy hx
  · exact ih h

/-! # Maintenance of ranges (R236) -/

/-- An access of CFLUSH or CINV. -/
def Access.Maint (a : Access) : Prop := ∃ inv va n, a.acc = .cmaint inv va n

theorem Access.Maint.perPage {a b : Access} (h : a.Maint) (hb : b ∈ a.perPage) : b.Maint := by
  obtain ⟨inv, va, n, e⟩ := h
  unfold Access.perPage at hb
  rw [e] at hb
  dsimp only at hb
  split at hb
  · rw [List.mem_singleton.mp hb]
    exact ⟨inv, va, n, e⟩
  · obtain ⟨q, -, rfl⟩ := List.mem_map.mp hb
    exact ⟨_, _, _, rfl⟩

/-- A range in one page is one access, of the same bytes. -/
theorem perPage_onePage {a : Access} {inv : Bool} {va : Dword} {n : Nat} (ha : a.acc = .cmaint inv va n)
    (h : n ≠ 0 → va.toNat % 4096 + n ≤ 4096) : a.perPage = [a] := by
  unfold Access.perPage
  rw [ha]
  dsimp only
  split
  · rfl
  · next h0 =>
    have hmin : min n (4096 - va.toNat % 4096) = n := Nat.min_eq_left (by have := h h0; omega)
    have hva : d64 va.toNat = va := by simp [d64]
    cases hn : n / 4096 + 2 with
    | zero => omega
    | succ k =>
      have hrest : pagesFrom ((va.toNat / 4096 + 1) * 4096) 0 k = [] := by cases k <;> rfl
      rw [pagesFrom, if_neg h0, hmin, Nat.sub_self, hrest, List.map_singleton, hva, ← ha]

section

variable {s u : State} {t : Nat} {a : Access}

theorem looked_shareWalk (s : State) (ws : Walks) (t : Nat) (va : Dword) (kind : AKind) (again : Bool) :
    s.Looked (s.shareWalk ws t va kind again).1.2 := by
  have h := (Lookup.translateFor (coreOf t) (s.tagOf t).1 (s.tagOf t).2 va kind again).frame s
  simp only [State.shareWalk]
  split
  · exact .refl s
  · exact .refl s
  · rcases e : s.translateFor _ _ _ _ _ _ with ⟨f | p, u⟩ <;> exact h.of e

/-- A maintenance access translates as a lookup, and stays what it is. -/
theorem Access.Maint.translateLane (h : a.Maint) (ws : Walks) (again : Bool) :
    (s.translateLane ws again t a).1.acc = a ∧ s.Looked (s.translateLane ws again t a).2.1 := by
  obtain ⟨inv, va, n, e⟩ := h
  simp only [State.translateLane, e, Acc.global, Acc.signal]
  split
  · exact ⟨rfl, .refl s⟩
  · exact ⟨rfl, looked_shareWalk ..⟩

theorem maint_translateLanes {go : List (Nat × Access)} (h : ∀ p ∈ go, p.2.Maint) (ws : Walks) (again : Bool) :
    (∀ l ∈ (s.translateLanes ws again go).1, l.acc.Maint) ∧ s.Looked (s.translateLanes ws again go).2 := by
  induction go generalizing s ws with
  | nil => exact ⟨fun l hl => absurd hl List.not_mem_nil, .refl s⟩
  | cons p go ih =>
    obtain ⟨hacc, hl⟩ := (h p List.mem_cons_self).translateLane (s := s) (t := p.1) ws again
    obtain ⟨hrest, hl'⟩ := ih (fun q hq => h q (List.mem_cons_of_mem _ hq)) (s := (s.translateLane ws again p.1 p.2).2.1)
      (s.translateLane ws again p.1 p.2).2.2
    refine ⟨fun l hm => ?_, hl.trans hl'⟩
    rcases List.mem_cons.mp hm with rfl | hm
    · rw [hacc]
      exact h p List.mem_cons_self
    · exact hrest l hm

/-- A maintenance access takes effect as an operation that only holds the flag. -/
theorem Access.Maint.applyLane {l : Lane} (h : l.acc.Maint) (s : State) (pa mt : Nat) :
    s.applyLane l pa mt = s.opFor l.t l.acc 0 0 (some []) := by
  obtain ⟨inv, va, n, e⟩ := h
  simp [State.applyLane, e, Acc.global, Acc.signal]

theorem Access.Maint.noncanon (h : a.Maint) : a.acc.noncanon = none := by
  obtain ⟨inv, va, n, e⟩ := h
  rw [e]
  rfl

theorem maint_isRedFadd {go : List (Nat × Access)} (h : ∀ p ∈ go, p.2.Maint) : isRedFadd go = false := by
  cases go with
  | nil => rfl
  | cons p go =>
    obtain ⟨inv, va, n, e⟩ := h p List.mem_cons_self
    simp only [isRedFadd, e]

theorem sameStore_applyLanes {ls : List Lane} (h : ∀ l ∈ ls, l.acc.Maint) (s : State) : s.SameStore (s.applyLanes ls) :=
  List.foldlRecOn (motive := fun u : State => s.SameStore u) ls _ (.refl s) fun u hu l hm => hu.trans <| by
    split
    · rw [(h l hm).applyLane]
      exact ⟨rfl, rfl⟩
    · exact .refl u

/-- Maintenance writes no byte, whatever the pages meet. -/
theorem sameStore_memGo {go : List (Nat × Access)} (h : ∀ p ∈ go, p.2.Maint) : s.SameStore (s.memGo go).1 := by
  obtain ⟨hmaint, hl⟩ := maint_translateLanes (s := s) h [] (go.any fun p => p.2.again)
  simp only [State.memGo, maint_isRedFadd h, Bool.false_eq_true, if_false]
  exact (hl.sameStore.trans (State.sameStore_parkLanes ..)).trans
    (sameStore_applyLanes (fun l hm => hmaint l (List.mem_of_mem_filter hm)) _)

theorem sameStore_memIssue {tas : List (Nat × Access)} (h : ∀ p ∈ tas, p.2.Maint) : s.SameStore (s.memIssue tas).1 := by
  have hpages : ∀ p ∈ (tas.filter fun p => (p.2.acc.noncanon).isNone).flatMap (fun p => p.2.perPage.map fun a => (p.1, a)),
      p.2.Maint := by
    intro p hp
    obtain ⟨q, hq, hp⟩ := List.mem_flatMap.mp hp
    obtain ⟨b, hb, rfl⟩ := List.mem_map.mp hp
    exact (h q (List.mem_of_mem_filter hq)).perPage hb
  simp only [State.memIssue]
  generalize (tas.filter fun p => (p.2.acc.noncanon).isNone).flatMap (fun p => p.2.perPage.map fun a => (p.1, a)) = tas at hpages
  refine .trans ?_ (.foldl (fun s _ => s.sameStore_clearFlags ..) _ _)
  refine .trans ?_ (sameStore_memGo fun p hp => hpages p (List.mem_of_mem_filter (mem_of_mem_orderly hp)))
  refine .trans ?_ (.foldl (fun s _ => s.sameStore_modThr ..) _ _)
  refine .trans ?_ (.foldl (fun s (p : Nat × Access) => s.sameStore_setFlags p.2) _ _)
  split <;> exact ⟨rfl, rfl⟩

end

end Sys2Proof.Machine

namespace Sys2Proof.Machine

open Sys2Proof.Claims

/-! # Fences (R216, R234, R235) -/

theorem State.fenceRelease_eq (s : State) (t : Nat) (device : Bool) :
    s.fenceRelease t device = { s with rels := (s.fenceRelease t device).rels } := by
  simp only [State.fenceRelease, State.releaseAt]

/-- The release half of a fence, by each of some threads, changes the releases alone. -/
theorem State.fenceReleases_eq (s : State) (ms : List Nat) (device : Bool) :
    ms.foldl (fun s m => s.fenceRelease m device) s =
      { s with rels := (ms.foldl (fun s m => s.fenceRelease m device) s).rels } :=
  List.foldlRecOn (motive := fun u : State => u = { s with rels := u.rels }) ms _ rfl fun _ hu m _ =>
    (State.fenceRelease_eq _ m device).trans (by rw [hu])

/-- An ordering instruction in flight holds its thread's later accesses (R216). -/
theorem State.fenced_opFor (s : State) {t pa mt : Nat} {a : Access} {result : Option (List Word)}
    (h : a.acc.ordering = true) : (s.opFor t a pa mt result).fenced t = true := by
  have hmem := Tab.mem_of_find (Tab.find_put_same s.ops s.nextOp
    { thr := t, acc := a, pa := pa, mt := mt, epoch := s.epoch, serial := s.serial, result := result })
  refine Bool.or_eq_true_iff.mpr (.inl (List.any_eq_true.mpr ⟨_, hmem, ?_⟩))
  simp [h, Access.parties]

/-! # The range of a maintenance word (R236) -/

section

variable {s : State} {i : Issue} {inv : Bool} {a b : BitVec 7} {t : Nat} (hb : plain b)

include hb

theorem prepMaint_ok (h : (s.reg t b.toNat).toNat = 0 ∨ (s.pairReg t a.toNat).toNat + (s.reg t b.toNat).toNat ≤ 2 ^ 48) :
    prepMaint inv a b s i t = (.ok (.cmaint inv (s.pairReg t a.toNat) (s.reg t b.toNat).toNat), s) := by
  have hin : ((s.reg t b.toNat).toNat ≠ 0 && 2 ^ 48 < (s.pairReg t a.toNat).toNat + (s.reg t b.toNat).toNat) = false := by
    simp only [Bool.and_eq_false_iff, decide_eq_false_iff_not, not_not, Nat.not_lt]
    exact h
  simp only [prepMaint, State.source_plain s i t _ hb, hin, Bool.false_eq_true, if_false]

/-- A range of some bytes that ends above 2^48 takes NONCANON. -/
theorem prepMaint_noncanon (h0 : (s.reg t b.toNat).toNat ≠ 0)
    (h : 2 ^ 48 < (s.pairReg t a.toNat).toNat + (s.reg t b.toNat).toNat) :
    prepMaint inv a b s i t =
      (.error { causeFault clsAccess causeNoncanon with stage := 1, va := s.pairReg t a.toNat }, s) := by
  have hout : ((s.reg t b.toNat).toNat ≠ 0 && 2 ^ 48 < (s.pairReg t a.toNat).toNat + (s.reg t b.toNat).toNat) = true := by
    simp only [Bool.and_eq_true, decide_eq_true_eq]
    exact ⟨h0, h⟩
  simp only [prepMaint, State.source_plain s i t _ hb, hout, if_true]

end

end Sys2Proof.Machine

namespace Sys2Proof.Claims

open Sys2Proof.Machine

/-! # The words of fences and maintenance -/

section

variable {s s' : State} {i : Issue} {sc : Scope} {p t n : Nat} {ll inv : Bool} {va : Dword}
  {prep : State → Issue → Nat → Prepared × State}

/-- A fence goes in flight as an ordering instruction (R234). -/
theorem memWord_fence {device : Bool} (hi : Setting s i) (ha : s.actors i sc p = [t]) (hf : Free s i sc t)
    (hp : prep s i t = (.ok (.fence device), s)) :
    ∃ r, memWord sc p ll prep s = .next r ∧ SameBytes s r ∧ SameRegs s r ∧ r.fenced t = true ∧
      (newOp s r).map (fun o => (o.thr, o.acc.acc)) = some (t, .fence device) := by
  let acc := access s i sc t ll (.fence device)
  have hw : memWord sc p ll prep s = .next
      ((acc.members.foldl (fun s m => s.fenceRelease m device) (issuing s acc)).opFor t acc 0 0 (some [])) :=
    memWord_leaves hi ha hf hp rfl rfl rfl (memGo_here rfl rfl)
  refine ⟨_, hw, ?_⟩
  have hrels := State.fenceReleases_eq (issuing s acc) acc.members device
  generalize acc.members.foldl (fun s m => s.fenceRelease m device) (issuing s acc) = u at hrels
  have hnext : u.nextOp = s.nextOp + 1 := by rw [hrels]; exact issuing_nextOp s acc
  refine ⟨SameBytes.addOp (fun k => ?_) _, SameRegs.addOp (fun k c => ?_) _, State.fenced_opFor u rfl, ?_⟩
  · rw [hrels]
    exact issuing_byteAt s acc k
  · rw [hrels]
    exact issuing_reg s acc k c
  · rw [State.opFor, newOp_addOp_of_le (by omega)]
    rfl

/-- A crossing fence goes in flight as an ordering instruction (R235). -/
theorem memWord_xfence {src dst : Nat} (hi : Setting s i) (ha : s.actors i sc p = [t]) (hf : Free s i sc t)
    (hp : prep s i t = (.ok (.xfence src dst), s)) :
    ∃ r, memWord sc p ll prep s = .next r ∧ SameBytes s r ∧ SameRegs s r ∧ r.fenced t = true ∧
      (newOp s r).map (fun o => (o.thr, o.acc.acc)) = some (t, .xfence src dst) := by
  let acc := access s i sc t ll (.xfence src dst)
  have hw : memWord sc p ll prep s = .next ((issuing s acc).opFor t acc 0 0 (some [])) :=
    memWord_leaves hi ha hf hp rfl rfl rfl (memGo_here rfl rfl)
  refine ⟨_, hw, SameBytes.addOp (issuing_byteAt s acc) _, SameRegs.addOp (issuing_reg s acc) _, State.fenced_opFor _ rfl, ?_⟩
  rw [State.opFor, newOp_addOp (.refl _)]
  rfl

/-- Maintenance of no bytes goes in flight (R236). -/
theorem memWord_maint_none (hi : Setting s i) (ha : s.actors i sc p = [t]) (hf : Free s i sc t)
    (hp : prep s i t = (.ok (.cmaint inv va 0), s)) :
    memWord sc p ll prep s = .next ((issuing s (access s i sc t ll (.cmaint inv va 0))).opFor t
      (access s i sc t ll (.cmaint inv va 0)) 0 0 (some [])) :=
  memWord_leaves hi ha hf hp rfl (perPage_onePage rfl fun h => absurd rfl h) rfl
    (memGo_here rfl rfl)

/-- Maintenance of bytes of one page that translates goes in flight (R236). -/
theorem memWord_maint_page {pa mt : Nat} (hi : Setting s i) (ha : s.actors i sc p = [t]) (hf : Free s i sc t)
    (hp : prep s i t = (.ok (.cmaint inv va n), s)) (h0 : n ≠ 0) (hpage : va.toNat % 4096 + n ≤ 4096)
    (htr : (issuing s (access s i sc t ll (.cmaint inv va n))).translateFor (coreOf t) (s.tagOf t).1 (s.tagOf t).2 va .read
      false = (.ok (pa, mt), s')) :
    memWord sc p ll prep s = .next (s'.opFor t (access s i sc t ll (.cmaint inv va n)) 0 0 (some [])) := by
  let acc := access s i sc t ll (.cmaint inv va n)
  have hwalk : (issuing s acc).shareWalk [] t va .read false =
      ((.ok (pa, mt), s'), Tab.put [] (va.toNat / 4096) (.ok (pa - va.toNat % 4096, mt))) := by
    simp only [State.shareWalk, Tab.find_nil, issuing_tagOf, acc, htr]
  have hlane : (issuing s acc).translateLane [] acc.again t acc =
      ({ t := t, acc := acc, res := .ok (pa, mt), words := [] }, s',
        Tab.put [] (va.toNat / 4096) (.ok (pa - va.toNat % 4096, mt))) := by
    refine (if_neg h0).trans ?_
    rw [show acc.again = false from rfl, hwalk]
  exact memWord_leaves hi ha hf hp rfl (perPage_onePage rfl fun _ => hpage) rfl (memGo_one hlane rfl)

/-- Maintenance changes no byte, whatever its pages meet (R236). -/
theorem memWord_maint_bytes (hi : Setting s i) (ha : s.actors i sc p = [t]) (hp : prep s i t = (.ok (.cmaint inv va n), s)) :
    ∃ r, memWord sc p ll prep s = .next r ∧ SameBytes s r := by
  have hmaint : ∀ q ∈ [(t, s.mkAccess i sc t ll (.cmaint inv va n))], q.2.Maint := fun q hq => by
    rw [List.mem_singleton.mp hq]
    exact ⟨inv, va, n, rfl⟩
  exact ⟨_, memWord_one hi.1 ha hp, ((sameStore_memIssue hmaint).trans (State.sameStore_raiseMany ..)).sameBytes⟩

end

theorem fencesMaintenanceAndPrefetch : FencesMaintenanceAndPrefetch := by
  intro s i sc a b off p f x y t hi hf hb va n
  refine ⟨fun ha => ⟨memWord_fence hi ha hf rfl, memWord_xfence hi ha hf rfl⟩, fun ha => ⟨?noncanon, ?range⟩,
    onIssue_some _ _ _ hi.1⟩
  case noncanon =>
    intro h0 hout f o
    have one : ∀ inv, memWord sc p.toNat true (prepMaint inv a b) s = o := fun inv =>
      memWord_one_fault hi.1 ha (prepMaint_noncanon hb h0 hout)
    exact ⟨one false, one true⟩
  case range =>
    intro range
    have one : ∀ inv, range inv (memWord sc p.toNat true (prepMaint inv a b) s) := by
      refine fun inv => ⟨fun h0 => ?_, fun pa mt s' h0 hend hpage htr => ?_,
        fun hend => memWord_maint_bytes hi ha (prepMaint_ok hb (.inr hend))⟩
      · have hp := prepMaint_ok (s := s) (i := i) (inv := inv) (a := a) hb (.inl h0)
        rw [show (s.reg t b.toNat).toNat = 0 from h0] at hp
        rw [h0]
        exact memWord_maint_none hi ha hf hp
      · have hl := (Lookup.translateFor (coreOf t) (s.tagOf t).1 (s.tagOf t).2 va .read false).frame
          (issuing s (access s i sc t true (.cmaint inv va n))) |>.of htr
        exact ⟨memWord_maint_page hi ha hf (prepMaint_ok hb (.inr hend)) h0 hpage htr, sameBytes_looked hl,
          sameRegs_looked hl⟩
    exact ⟨one false, one true⟩

end Sys2Proof.Claims

namespace Sys2Proof.Machine

/-- Settles O31: a region's rules are those that BIND tests, and of the other words' accesses none writes a byte. -/
theorem regionsAndMaintenance : Obligations.RegionsAndMaintenance :=
  ⟨Claims.regionsJoinAndLeaveTheList, Claims.fencesMaintenanceAndPrefetch⟩

end Sys2Proof.Machine
